-- ==== Sys2Proof/Word.lean ====
section
/-! DEFINITION. The words of the KXU9600 and the plainest containers: bytes, 32-bit register words, sparse
tables, and the frame tag every frame carries (Table 5.1). -/

namespace Sys2Proof

abbrev Byte := BitVec 8
abbrev Half := BitVec 16
/-- A control register (R3). -/
abbrev Word := BitVec 32

/-- A table of like things by index: index and value pairs, indices strictly rising, no entry equal to
the table's default. -/
abbrev Sparse (α : Type) := List (Nat × α)

/-- The frame tag of Table 5.1: source, sequence number and settings generation. -/
structure FrameTag where
  src : BitVec 4
  seq : BitVec 44
  sgen : BitVec 16
deriving DecidableEq, Repr, Inhabited

/-- A point in time as the time unit counts it (R429): seconds, nanoseconds and a fraction of 2⁻³² ns. -/
structure Time where
  sec : BitVec 48
  ns : BitVec 30
  frac : BitVec 32
deriving DecidableEq, Repr, Inhabited

end Sys2Proof
end

