-- ==== Sys2Proof/Types.lean ====
section
/-! DEFINITION. The data that commands carry: packets, frames, readings. -/

namespace Sys2Proof

/-- Sample planes of a codec picture: chroma_format_idc (0 to 3), bit depths of luma and chroma, and the lines of Y, Cb and Cr. -/
structure Planes where
  w : Nat
  h : Nat
  chroma : Nat
  depth : Nat
  depthC : Nat
  y : List (List Nat)
  cb : List (List Nat)
  cr : List (List Nat)
deriving DecidableEq, Repr, Inhabited

/-- A CTU that an engine of a picture completes: the next of CTU row `r` by a pixel engine, or the next in raster order by the
entropy engine. -/
inductive CtuStep where
  | pixel (r : Nat)
  | entropy
deriving DecidableEq, Repr, Inhabited

/-- What R260 and R291 ask of the SPS that a picture refers to: general_profile_idc, whether it uses an extension or a range-extension
profile other than Main 4:2:2 10, and the reference buffers that it needs. -/
structure Sps where
  profile : Nat
  extension : Bool
  refs : Nat
deriving DecidableEq, Repr, Inhabited

/-- What the engines of the codec produce of a picture, with the words of its syntax stream (R266) and the order in which they
completed its CTUs (R264). An encoder's mode decisions are its own, so the coded bytes come with the command: the parameter sets of
an IRAP, and per CTU the bytes coded so far as R284 codes it, then the slice bytes. A decoder's samples and output decisions are
those of H.265. -/
inductive CodecOut where
  /-- encode: parameter sets, bytes coded through the end of each CTU when it is coded tentatively, slice bytes -/
  | coded (params : List Byte) (ends : List Nat) (slices : List Byte) (words : List (BitVec 64)) (steps : List CtuStep)
  /-- decode: the SPS, RASL, the samples of the whole picture, whether the slice header could not be parsed, the first picture of a
  coded video sequence, and how many pictures C.5.2 outputs; a field of a field stream is a picture of its own, and no SEI message is
  among the data (R262) -/
  | decoded (sps : Sps) (rasl : Bool) (pic : Planes) (header first : Bool) (bump : Nat) (words : List (BitVec 64))
      (steps : List CtuStep)
deriving DecidableEq, Repr, Inhabited

/-- What an adaptation of a receive lane measures, all of it analogue: the VGA code of half range, the FOM at each CTLE code it
tries, from the lowest code up, the eight DFE taps and the sampler offset it converges to, and the openings of its final FOM
update (R82, R84, R90). -/
structure AdaptOut where
  vga : Nat
  sweep : List Byte
  taps : List Byte
  ofs : Byte
  wl : Nat
  wr : Nat
  hu : Nat
  hd : Nat
deriving DecidableEq, Repr, Inhabited

/-- A frame as an SDI input receives it (R255, R256): whether the links lie within one line of each other, 3G Level B,
the format by raster, rate and sampling, payload ID and ATC word when present, whether the payload ID states the 2SI mapping, lines with
a CRC error, TRS errors, what each link carries of the active picture as codes by line in the sample order of Table 10.1, the lines
for which the ingest line buffer had no room, and the sample sets of each embedded audio group. -/
structure SdiRx where
  skewOk : Bool
  levelB : Bool
  raster : Nat
  rate : Nat
  sampling : Nat
  pid : Option Nat
  tc : Option Nat
  twoSi : Bool
  crcLines : Nat
  trs : Nat
  links : List (List (List Nat))
  noRoom : List Nat
  groups : List (List (List Nat))
deriving DecidableEq, Repr, Inhabited

/-- A RoCEv2 packet as the port receives it: device queue pair, whether the ICRC is good, operation (0 SEND, 1 RDMA WRITE,
2 RDMA READ request, 3 RDMA READ response, 4 Acknowledge, 5 NAK, 6 RNR NAK), first and last packet of its message, PSN, remote
address, R_Key and length of a request, data, and the NAK code (0 sequence error). -/
structure RocePkt where
  qp : Nat
  icrc : Bool
  op : Nat
  first : Bool
  last : Bool
  psn : Nat
  va : Nat
  rkey : Nat
  len : Nat
  data : List Byte
  code : Nat
deriving DecidableEq, Repr, Inhabited

/-- Where a management request came from: sub-port as port × 4 + k, source IPv4 address and UDP port, and SEQ. -/
structure MgmtReq where
  sub : Nat
  ip : Nat
  port : Nat
  seq : Nat
deriving DecidableEq, Repr, Inhabited

end Sys2Proof
end

