-- ==== Sys2Proof/Syntax.lean ====
section
/-! DEFINITION. The commands of the KXU9600: one constructor per row of spec/opcode_table.json, with the
object the command acts on and the data the environment supplies with it. -/

namespace Sys2Proof

inductive Instr where
  /-- REGISTER_WRITE (R6). A write to a control register that has no row of its own acts on each field according to its access type. -/
  | registerWrite (off : Nat) (v : Word) (word : Bool) (src : Nat)
  /-- READ_CLEAR_FIELD (R6). A read of a register with RC fields returns their values and then clears them, unless hardware sets a bit in that cycle. -/
  | readClearField (off : Nat) (word : Bool) (src : Nat)
  /-- SYS_LOCK_SET (R9). A write of SYS_LOCK.LOCK = 1 locks every RWL field in the device until the next cold or warm reset. -/
  | sysLockSet
  /-- FAB_LOAD_FULL (R53). A write of FAB_LOAD with START = 1 and PARTIAL = 0 copies the image to the retain buffer and runs the pre-apply checks for a full load. -/
  | fabLoadFull (v : Word) (src : Nat)
  /-- FAB_LOAD_PARTIAL (R59). A write of FAB_LOAD with START = 1 and PARTIAL = 1 starts a reload of the regions named in REGIONS. -/
  | fabLoadPartial (v : Word) (src : Nat)
  /-- PRE_APPLY_DONE (R55). When the pre-apply checks pass, the loader starts quiescing every brew that the load replaces. -/
  | preApplyDone
  /-- BREW_QUIESCENT (R55). A replaced brew becomes quiescent when the end-of-frame beat of its frame in progress has left every tile, and the apply starts once the last one is quiescent. -/
  | brewQuiescent (b : Fin 16)
  /-- QUIESCE_TIMEOUT (R56). When a brew is not quiescent within TMO_MS, the loader forces it quiescent and drops the frame in progress. -/
  | quiesceTimeout
  /-- APPLY_FETCH_DONE (R57). When the apply steps and table fetches are complete, post-apply verification runs and the brews are released or the previous configuration is restored. -/
  | applyFetchDone
  /-- FAB_COMMIT (R144). A write of FAB_COMMIT sets the brew's pending bit and starts the fetch of every enabled large table. -/
  | fabCommit (src : Nat) (v : Word)
  /-- COMMIT_FETCH_DONE (R144). The table fetches of a pending commit complete, or the commit is discarded because a fetch or a check failed. -/
  | commitFetchDone (b : Fin 16)
  /-- ROOT_SOF_EMIT (R144). The brew root emits a frame's start-of-frame beat, which is the frame's commit point. -/
  | rootSofEmit (b : Fin 16)
  /-- TILE_SOF_ARRIVE (R144). A start-of-frame beat reaches a tile, which switches to the latched parameter set. -/
  | tileSofArrive (t : Fin 48)
  /-- FOM_UPDATE (R82). A FOM update of a lane completes, and the loss-of-signal and loss-of-lock detectors are evaluated. -/
  | fomUpdate (l : Fin 96) (centre : Bool) (w : Nat × Nat) (h : Nat × Nat) (taps : List Byte) (ofs : Byte)
  /-- LANE_ENTER_LINK (R86). A lane enters a link and starts bring-up with its quad domain and PLL. -/
  | laneEnterLink (l : Fin 96)
  /-- PLL_LOCK (R29). A PLL started by the kettle locks. -/
  | pllLock (k : Fin 32)
  /-- CDR_LOCK (R86). The CDR of a receive lane locks, and initial adaptation starts. -/
  | cdrLock (l : Fin 96)
  /-- INITIAL_ADAPTATION_DONE (R84). Initial adaptation ends, and the lane comes up when its final FOM reaches LOL_THR. -/
  | initialAdaptationDone (l : Fin 96) (a : AdaptOut)
  /-- ADAPTATION_RETRY_TIMEOUT (R86). After a failed bring-up, initial adaptation is repeated every RETRAIN_MS. -/
  | adaptationRetryTimeout (l : Fin 96)
  /-- LOL_RETRAIN_TIMEOUT (R89). When LOL without LOS has lasted RETRAIN_MS and AUTO_RETRAIN = 1, the lane runs an out-of-service recalibration. -/
  | lolRetrainTimeout (l : Fin 96)
  /-- LINK_REFERENCE_LOST (R79). The link reference leaves its frequency limits or stops, IN_LOST is set and every up lane from 0 to 63 asserts loss of lock. -/
  | linkReferenceLost
  /-- LINK_REFERENCE_RESTORED (R79). The link reference has been within limits for 1 ms, IN_LOST clears and the lanes return through bring-up. -/
  | linkReferenceRestored
  /-- LNK_REFCFG_WRITE (R78). A write to LNK_REFCFG takes effect only while every lane from 0 to 63 is idle, and is otherwise ignored with an event. -/
  | lnkRefcfgWrite (v : Word) (src : Nat)
  /-- RECAL_IN_SERVICE (R90). A write of LNK_RECAL with START = 1 and MODE = 0 starts an in-service recalibration of the lane. -/
  | recalInService (l : Fin 96)
  /-- RECAL_OUT_OF_SERVICE (R91). A write of LNK_RECAL with START = 1 and MODE = 1 runs initial adaptation on the lane, or an impedance recalibration on a transmit lane. -/
  | recalOutOfService (l : Fin 96)
  /-- RECAL_DONE (R90). A recalibration completes, and its trial values replace the data-slice values or are discarded. -/
  | recalDone (l : Fin 96) (before : Byte) (a : AdaptOut)
  /-- BIT_SLIP (R95). A write of LNK_SLIP.SLIP = 1 on an up raw-mode lane requests that its word boundary move one bit later. -/
  | bitSlip (l : Fin 96)
  /-- SLIP_APPLIED (R95). A requested slip is applied, OFFSET advances, the straddling word is discarded and PENDING clears. -/
  | slipApplied (l : Fin 96)
  /-- PRBS_CHECK_LOCK (R96). A PRBS checker sets LOCKED after it has seen 64 error-free bits. -/
  | prbsCheckLock (l : Fin 96) (bits : List Bool)
  /-- IDLE_COLUMN (R98). A control column of IDLE type, unknown type or mixed types is received and, when not valid IDLE, counted in ALIGN_ERR. -/
  | idleColumn (p : Fin 2) (col : List (BitVec 2 × BitVec 64))
  /-- ALIGN_COLUMN (R100). An ALIGN column is received and the lanes are deskewed, aligned, or found to exceed the skew limit. -/
  | alignColumn (p : Fin 2) (col : List (Nat × Nat)) (gap : Nat)
  /-- ALIGN_SEND (R100). The transmitter sends an ALIGN column every 16,384 columns. -/
  | alignSend (p : Fin 2)
  /-- XS_COLUMN (R110). An XS column at version 3 gives the ingest tile the frame's exposure-start time. -/
  | xsColumn (p : Fin 2) (num : BitVec 24)
  /-- CAP_PACKET (R104). As sink, a received CAP packet selects a version, issues the version write, or brings the link up when SELECTED equals v. -/
  | capPacket (p : Fin 2) (mask : BitVec 3) (selected : BitVec 2) (crcOk : Bool)
  /-- CAP_SEND (R103). As source during negotiation, the device sends a CAP packet every 1,024 columns. -/
  | capSend (p : Fin 2)
  /-- NEG_TIMEOUT (R105). As source, when no valid version write has arrived within NEG_MS of the first CAP, the device selects MAXVER. -/
  | negTimeout (p : Fin 2)
  /-- LINK_HALF_ENABLE (R106). Setting ENABLE of a sensor link half starts lane bring-up and then alignment and negotiation. -/
  | linkHalfEnable (p : Fin 2) (tx : Bool) (v : Word) (src : Nat)
  /-- FS_PACKET (R108). An FS packet opens a frame, closes the previous one and detects the frame start, exposing lost frames from its number. -/
  | fsPacket (p : Fin 2) (num : Word) (sgen : Half) (w : Half) (h : Half) (depth : Byte) (crcOk : Bool)
  /-- LD_PACKET (R129). An LD packet delivers one line, and the undelivered lines below it are declared lost and replaced. -/
  | ldPacket (p : Fin 2) (num : Word) (sgen : Half) (payload : List Byte) (crcOk : Bool) (fits : Bool)
  /-- FE_PACKET (R108). An FE packet closes the open frame, and its missing lines become lost line packets. -/
  | fePacket (p : Fin 2) (crcOk : Bool)
  /-- MD_PACKET (R108). An MD packet is taken, or discarded and counted when it arrives inside a frame below version 3. -/
  | mdPacket (p : Fin 2) (payload : List Byte) (crcOk : Bool)
  /-- RAW_CODE_WORD (R113). A raw-mode code word (SOF, SOL, EOL or EOF) is received and aligns the lane or marks a frame or line boundary. -/
  | rawCodeWord (p : Fin 2) (code : List Half × Half) (lanes : Nat) (words : List (List Nat)) (fits : Bool)
  /-- TX_LINE (R111). The transmit half sends a fully buffered line as an LD packet, with an inverted CRC when the line is a drop unit. -/
  | txLine (p : Fin 2)
  /-- SCP_IMMEDIATE (R116). A write of SCP_CMDCTL with GO = 1 requests an immediate transaction on a controller port. -/
  | scpImmediate (p : Fin 4) (v : Word)
  /-- SCP_TRANSACTION_DONE (R116). A transaction on a controller port ends, BUSY clears and STATUS and RDATA are set. -/
  | scpTransactionDone (p : Fin 4) (ack : Bool) (rdata : Half)
  /-- SCP_STRETCH_TIMEOUT (R115). Target clock stretching beyond 10 ms releases the bus and ends the transaction with Timeout. -/
  | scpStretchTimeout (p : Fin 4)
  /-- SCP_BURST_ARM (R117). A write that sets SCP_BDESCk.ARM arms the burst with its fields as they stand. -/
  | scpBurstArm (p : Fin 4) (k : Fin 4) (v : Word)
  /-- SCP_BURST_DISARM (R120). A write of DISARM = 1 returns an armed burst to Idle or aborts a transmitting burst. -/
  | scpBurstDisarm (p : Fin 4) (k : Fin 4) (v : Word)
  /-- SCP_BURST_RELEASE (R118). A burst's release time is reached, it starts on the port and records its SGEN release when SGEN_VALID = 1. -/
  | scpBurstRelease (p : Fin 4)
  /-- SCP_BURST_ENTRY_DONE (R119). A burst entry ends, and the burst continues, completes or stops on a NACK or timeout. -/
  | scpBurstEntryDone (p : Fin 4) (ack : Bool)
  /-- SCP_BMEM_ACCESS (R116). An access to SCP_BMEM_DATA reads or writes burst entry IDX and increments IDX. -/
  | scpBmemAccess (p : Fin 4) (w : Option Word)
  /-- SCP_TFILE_ACCESS (R121). A firmware access to SCP_TFILE_DATA reads or writes the target register file and increments the address. -/
  | scpTfileAccess (p : Fin 4) (w : Option Word)
  /-- SCP_TARGET_READ (R121). A bus read of a target port takes the register-file word atomically and returns it. -/
  | scpTargetRead (p : Fin 4) (addr : Byte × Option Half)
  /-- SCP_TARGET_WRITE (R123). A bus write updates the target register file, and may set the echoed SGEN or the link version. -/
  | scpTargetWrite (p : Fin 4) (addr : Byte × Option Half) (data : Half)
  /-- VSYNC_INPUT_EDGE (R124). An active SENSn_VSYNC edge in input mode latches SLK_VSCAP and sends a capture to the time unit. -/
  | vsyncInputEdge (p : Fin 2)
  /-- HSYNC_PULSE (R124). In output mode, HSYNC pulses every PERIOD ticks, COUNT times after the VSYNC assertion. -/
  | hsyncPulse (p : Fin 2)
  /-- FRAME_END_AT_ROOT (R132). A frame's end-of-frame beat leaves the brew root and the ingest tile writes its frame record. -/
  | frameEndAtRoot (b : Fin 16)
  /-- QUEUE_ARBITRATION (R137). When the brew is free and a frame is a candidate, arbitration selects the frame with the earlier FS arrival. -/
  | queueArbitration (b : Fin 16)
  /-- STRIPE_BOUNDARY (R140). At a stripe boundary of a stripe-interleaved brew, the brew takes the next complete stripe of the other or the same source. -/
  | stripeBoundary (b : Fin 16)
  /-- PLAYBACK_WIDX_WRITE (R153). Firmware advances ING_PB_WIDX to hand playback descriptors to the tile. -/
  | playbackWidxWrite (t : Fin 4) (v : Word) (src : Nat)
  /-- PLAYBACK_DESCRIPTOR_TAKE (R153). When the brew is free, the ring holds a descriptor and any START_TIME is reached, the tile takes it and starts the frame. -/
  | playbackDescriptorTake (t : Fin 4)
  /-- ING_SEQ_LO_READ (R126). A read of ING_SEQ_LO returns the low sequence bits and latches ING_SEQ_HI. -/
  | ingSeqLoRead (t : Fin 4)
  /-- RWC_SITE_GAIN_ACCESS (R143). An access to RWC_SITE_GAIN reads or writes the gain of site IDX and increments RWC_SITE_IDX. -/
  | rwcSiteGainAccess (t : Fin 4) (ctx : Fin 2) (w : Option Word)
  /-- SYN_SITE_GAIN_ACCESS (R143). An access to SYN_SITE_GAIN reads or writes the gain of site IDX and increments SYN_SITE_IDX. -/
  | synSiteGainAccess (t : Fin 4) (ctx : Fin 2) (w : Option Word)
  /-- COL_COEF_DATA_ACCESS (R143). An access to COL_COEF_DATA reads or writes the coefficient at IDX and increments COL_COEF_IDX. -/
  | colCoefDataAccess (t : Fin 8) (ctx : Fin 2) (w : Option Word)
  /-- SYN_COEF_DATA_ACCESS (R143). An access to SYN_COEF_DATA reads or writes the coefficient at IDX and increments SYN_COEF_IDX. -/
  | synCoefDataAccess (t : Fin 4) (ctx : Fin 2) (w : Option Word)
  /-- STATS_FRAME_END (R161). An end-of-frame beat reaching a statistics tile closes the accumulators and starts the record write, or records an overrun. -/
  | statsFrameEnd (t : Fin 4) (fits : Nat)
  /-- STATS_RECORD_WRITTEN (R163). A statistics record is wholly in memory and STA_REC_CTL.WIDX advances. -/
  | statsRecordWritten (t : Fin 4)
  /-- PATTERN_START_INSTANT (R202). At a start instant of its time base, a pattern tile starts a frame when the brew is free, or counts a skip. -/
  | patternStartInstant (t : Fin 2)
  /-- EMU_EXPOSURE_START (R207). An emulated exposure starts at the frame's arrival or at a VSYNC edge, and the XS column is sent. -/
  | emuExposureStart (p : Fin 2)
  /-- EMU_FS_SEND (R207). The emulated FS is sent at exposure start plus SLK_EMU_XS.TICKS, or after the previous FE. -/
  | emuFsSend (p : Fin 2)
  /-- EMU_LINE_PACE (R209). With PACE = 1, the LD of line y starts no earlier than its paced time, and a late line is counted. -/
  | emuLinePace (p : Fin 2)
  /-- B_FRAME_STORE (R215). A frame arriving on input B of an analysis tile is written to the B queue, dropping the oldest unread frame when full. -/
  | bFrameStore (t : Fin 4)
  /-- ANALYSIS_PAIRING (R217). A start-of-frame beat of an A frame selects its partner by sequence or by order, or starts a wait. -/
  | analysisPairing (t : Fin 4)
  /-- ANALYSIS_WAIT_TIMEOUT (R217). When WAIT_US passes without a partner, the A frame is processed as unmatched. -/
  | analysisWaitTimeout (t : Fin 4)
  /-- ANALYSIS_RECORD_WRITTEN (R230). The line CRCs, body and header of an analysis record are in memory and WIDX advances. -/
  | analysisRecordWritten (t : Fin 4)
  /-- CMX_B_FRAME_STORE (R240). A B frame is stored into a free compose slot and becomes the latest complete B frame. -/
  | cmxBFrameStore (t : Fin 4)
  /-- OPK_FRAME_WRITE (R244). An output pack tile writes a frame into the next free slot, or drops it when every slot is skipped. -/
  | opkFrameWrite (t : Fin 4)
  /-- OPK_BUFFER_RECORD (R245). After the last line is in memory, the tile writes a buffer record, and the slot becomes the latest complete frame. -/
  | opkBufferRecord (t : Fin 4)
  /-- SDI_OUT_ENABLE (R251). Setting SDI_OUTn_CFG.EN starts the output at its generator's next frame instant, or sets FMT_ERR. -/
  | sdiOutEnable (n : Fin 16) (v : Word) (src : Nat)
  /-- SDI_OUT_DISABLE (R251). Clearing SDI_OUTn_CFG.EN completes the frame in progress and then removes the carrier. -/
  | sdiOutDisable (n : Fin 16) (v : Word) (src : Nat)
  /-- TG_FRAME_INSTANT (R257). A timing generator reaches a frame instant. -/
  | tgFrameInstant (k : Fin 4) (phase : Half)
  /-- SDI_SLOT_TAKE (R249). Two lines before its first active line, an SDI framer takes the latest complete slot, or repeats the previous frame. -/
  | sdiSlotTake (n : Fin 16) (late1 : List Nat) (late2 : List Nat)
  /-- SDI_RX_FRAME (R256). An SDI input receives a frame, checks its CRCs and TRS, and delivers its active picture to ING2 or ING3. -/
  | sdiRxFrame (m : Fin 8) (x : SdiRx)
  /-- GENLOCK_SOURCE_LOST (R259). The genlock source is lost, and the PLL holds its frequency and sets HOLDOVER. -/
  | genlockSourceLost
  /-- GENLOCK_SOURCE_RETURN (R259). The genlock source returns, and the PLL slews the phase or jams the next frame instant. -/
  | genlockSourceReturn (far : Nat)
  /-- VCE_CFG_WRITE (R293). A write to VCE_CFG takes effect only while no context is Running, Pre-empted or Suspended. -/
  | vceCfgWrite (src : Nat) (v : Word)
  /-- OPEN (R268). A write of VCE_CTXn_CTRL.OPEN reads and checks the descriptor and makes the context Idle or sets OPEN_ERR. -/
  | vceOpen (n : Fin 32)
  /-- CLOSE (R273). A write of CLOSE = 1 closes the context at its next picture boundary. -/
  | vceClose (n : Fin 32)
  /-- RELOAD (R270). A write of RELOAD = 1 makes the context read and check its descriptor again before its next picture. -/
  | vceReload (n : Fin 32)
  /-- FORCE_IRAP (R270). A write of FORCE_IRAP = 1 makes the next encoded picture an IRAP. -/
  | forceIrap (n : Fin 32)
  /-- FLUSH (R273). A write of FLUSH = 1 makes a decode context output its remaining pictures at close. -/
  | vceFlush (n : Fin 32)
  /-- ENCODE_CANDIDATE (R274). A buffer record with VALID = 1 is offered to the bound encode context, which accepts it or counts an input skip. -/
  | encodeCandidate (n : Fin 32)
  /-- DECODE_JOB_TAKE (R287). A decode context takes the next descriptor from its job ring. -/
  | decodeJobTake (n : Fin 32)
  /-- PICTURE_START (R271). A ready picture is granted engines by PRIO and order and starts. -/
  | pictureStart (pix : Nat)
  /-- PICTURE_PREEMPT (R271). A ready PRIO 0 picture pre-empts the engines of the picture with the highest PRIO at their next restart points. -/
  | picturePreempt
  /-- PICTURE_DONE (R292). A picture ends and its report is written to the report ring. -/
  | pictureDone (n : Fin 32) (res : CodecOut)
  /-- BITSTREAM_SPACE_FREE (R281). A waiting encode context finds CAP bytes free in its bitstream ring after the consumer advances RPTR. -/
  | bitstreamSpaceFree (n : Fin 32)
  /-- OUTPUT_SLOT_FREE (R288). A waiting decode context finds a free output slot after firmware advances RIDX. -/
  | outputSlotFree (n : Fin 32)
  /-- CMP_SUBMIT (R295). Firmware advances CMP_Qq_SQ_IDX.WIDX to hand job descriptors to a queue. -/
  | cmpSubmit (q : Fin 8) (widx : Half) (src : Nat)
  /-- CMP_QUEUE_ENABLE (R315). Setting CMP_Qq_CTL.EN enables the queue and resets both of its ring indices. -/
  | cmpQueueEnable (q : Fin 8) (v : Word) (src : Nat)
  /-- CMP_DISABLE (R314). Clearing CMP_CFG.EN ends every job without a completion. -/
  | cmpDisable (v : Word) (src : Nat)
  /-- CMP_JOB_TAKE (R295). A free engine takes the ready job of lowest PRIO, and the job is checked and started. -/
  | cmpJobTake (deflate : Bool)
  /-- CMP_JOB_DONE (R296). A job ends with success or failure and its completion entry is written. -/
  | cmpJobDone (k : Fin 6) (out : List Byte)
  /-- CMP_ABORT (R311). A write of CMP_ABORT with GO = 1 searches the queue for the JOB_ID and aborts the job or reports its state. -/
  | cmpAbort (v : Word)
  /-- CMP_PREEMPT (R313). A ready PRIO 0 job pre-empts the running job of highest PRIO at its next restart point and saves its state. -/
  | cmpPreempt (deflate : Bool)
  /-- DRC_MAP_APPLY (R320). A write of DRC_MAPCTL.APPLY checks the mapping and puts it in force or sets ERR. -/
  | drcMapApply (v : Word)
  /-- DRC_INIT (R326). A write of DRC_CTRL.INIT = 1 with RESUME = 0 starts initial training of the channel. -/
  | drcInit (ch : Fin 8)
  /-- DRC_INIT_RESUME (R327). A write of DRC_CTRL.INIT = 1 with RESUME = 1 brings a channel up from self-refresh with its contents kept. -/
  | drcInitResume (ch : Fin 8)
  /-- DRC_RETRAIN_SHORT (R329). A write of RETRAIN = 1 with FULL = 0 runs a short retrain on subchannel A and then B. -/
  | drcRetrainShort (ch : Fin 8)
  /-- DRC_RETRAIN_FULL (R329). A write of RETRAIN = 1 with FULL = 1 runs training steps 5 to 8 with the row save. -/
  | drcRetrainFull (ch : Fin 8)
  /-- DRC_TRAIN_DONE (R326). A channel's training ends and the channel is in service, or fails with STATE = 5. -/
  | drcTrainDone (ch : Fin 8) (err : Fin 8)
  /-- SHORT_RETRAIN_DUE (R328). A subchannel's short retrain interval passes, and it retrains when no other subchannel is retraining. -/
  | shortRetrainDue (x : Fin 16)
  /-- SHORT_RETRAIN_DONE (R328). A short retrain of a subchannel ends, and the next waiting retrain may start. -/
  | shortRetrainDone
  /-- DRAM_REQUEST (R324). A request reaches a subchannel queue, is ordered against same-block requests and is issued. -/
  | dramRequest (client : Fin 32) (addr : Nat) (write : Bool) (data : List Byte) (mask : BitVec 64) (reads : Bool)
  /-- ALERT_N_ASSERT (R325). An ALERT_N assertion is counted and starts short retrains of both subchannels. -/
  | alertNAssert (ch : Fin 8)
  /-- DRAM_TEMP_READ (R330). Every 32 ms the DRAM device temperatures are read and the channel band is updated. -/
  | dramTempRead (ch : Fin 8) (temps : List (Option Int))
  /-- REFRESH_DUE (R331). A rank's refresh interval passes, and it refreshes or postpones within the limit of 4. -/
  | refreshDue (rank : Fin 32) (postpone : Bool)
  /-- PAGE_AUTO_TIMEOUT (R322). A row opened with an AUTO hint is precharged after AUTO_TMO cycles without access. -/
  | pageAutoTimeout (bank : Fin 512)
  /-- SELF_REFRESH_ENTRY (R332). A channel with no request for IDLE_US issues its postponed refreshes and enters self-refresh. -/
  | selfRefreshEntry (ch : Fin 8)
  /-- STEEP_BOUNDARY (R336). A new steep begins, allowances are refilled and the accounting counters are updated. -/
  | steepBoundary
  /-- SACHET_REQUEST (R354). A channel requests a caddy sachet, which is granted or waits while its class holds its MAX. -/
  | sachetRequest (cls : Fin 7) (chan : Nat)
  /-- SACHET_RELEASE (R355). A channel releases a sachet, which is granted to the oldest waiting request of its class. -/
  | sachetRelease (sachet : Fin 12288)
  /-- MMU_ENABLE (R360). A write of MMU_CTL.EN = 1 turns translation on until reset. -/
  | mmuEnable (v : Word) (src : Nat)
  /-- MMU_UNIT_CFG_WRITE (R360). A write of MMU_UNITu_CFG sets the unit's space and empties its TLB. -/
  | mmuUnitCfgWrite (u : Fin 43) (v : Word) (src : Nat)
  /-- MMU_INVALIDATE (R364). A write of MMU_INV.GO = 1 starts removal of matching TLB entries by scope. -/
  | mmuInvalidate (v : Word) (src : Nat)
  /-- MMU_INVALIDATE_DONE (R364). The matching entries are gone and earlier walks are complete, and BUSY clears. -/
  | mmuInvalidateDone
  /-- TABLE_WALK (R361). A unit that misses its TLB reads the level-1 and level-2 entries and translates, faults or takes a pinned miss. -/
  | tableWalk (u : Fin 43) (va : BitVec 48) (write : Bool) (pinned : Bool)
  /-- MMU_RESUME_RESTART (R369). A write of MMU_RESUME with GO = 1 and ACTION = 0 restarts the unit from its restart point. -/
  | mmuResumeRestart (u : Fin 64)
  /-- MMU_RESUME_FAIL (R369). A write of MMU_RESUME with GO = 1 and ACTION = 1 fails the suspended work as its drop unit. -/
  | mmuResumeFail (u : Fin 64)
  /-- MMU_FAULT_TIMEOUT (R370). A fault pending for FLT_TMO_MS is resolved as ACTION = 1. -/
  | mmuFaultTimeout (u : Fin 43)
  /-- DMA_ENABLE (R378). Setting MMU_DMAc_CTL.EN enables the channel and resets its ring indices. -/
  | dmaEnable (c : Fin 4) (v : Word) (src : Nat)
  /-- DMA_DISABLE (R378). Clearing MMU_DMAc_CTL.EN stops the descriptor in progress and completes it with Aborted. -/
  | dmaDisable (c : Fin 4) (v : Word) (src : Nat)
  /-- DMA_SUBMIT (R376). Firmware advances MMU_DMAc_SQ_IDX.WIDX to hand descriptors to a DMA channel. -/
  | dmaSubmit (c : Fin 4) (widx : Half) (src : Nat)
  /-- DMA_DESCRIPTOR_TAKE (R376). A DMA channel takes the next descriptor in ring order and checks it. -/
  | dmaDescriptorTake (c : Fin 4)
  /-- DMA_DESCRIPTOR_DONE (R377). A DMA descriptor ends and its completion entry is written. -/
  | dmaDescriptorDone (c : Fin 4)
  /-- ETH_PORT_ENABLE (R380). Setting ETH_CFG.EN brings the port up in its selected mode and FEC. -/
  | ethPortEnable (p : Fin 2) (v : Word) (src : Nat)
  /-- ETH_PORT_DISABLE (R391). Clearing ETH_CFG.EN moves every queue pair of the port to Error. -/
  | ethPortDisable (p : Fin 2) (v : Word) (src : Nat)
  /-- ETH_LINK_UP (R382). A sub-port's link comes up, after auto-negotiation when enabled. -/
  | ethLinkUp (p : Fin 2) (k : Fin 4) (agreed : Bool)
  /-- ETH_LINK_DOWN (R391). A sub-port's link goes down, and its queue pairs keep their state. -/
  | ethLinkDown (p : Fin 2) (k : Fin 4)
  /-- ETH_FRAME_RECEIVE (R384). A received frame is checked and delivered, answered (ARP, ICMP) or discarded and counted. -/
  | ethFrameReceive (p : Fin 2) (k : Fin 4) (fcs : Bool) (frame : List Byte)
  /-- ARP_ENTRY_EXPIRE (R385). A resolved ARP entry expires after 60 s. -/
  | arpEntryExpire (p : Fin 2) (k : Fin 4) (ip : Word)
  /-- ROCE_PACKET_RECEIVE (R387). A RoCEv2 packet of a queue pair is received, checked and processed. -/
  | rocePacketReceive (p : Fin 2) (pkt : RocePkt)
  /-- ROCE_RETRY_TIMEOUT (R387). A retransmission timeout passes and the queue pair retransmits Go-back-N or enters Error when retries are exhausted. -/
  | roceRetryTimeout (qp : Fin 64)
  /-- ROCE_RNR_TIMEOUT (R387). An RNR timer passes and the operation is retried. -/
  | roceRnrTimeout (qp : Fin 64)
  /-- QP_KILL (R391). A write of ETH_QP_SEL.KILL = 1 moves queue pair QP to Error and frees it. -/
  | qpKill (v : Word) (src : Nat)
  /-- DISCOVER (R392). A DISCOVER request is answered with the device's identity and state. -/
  | mgmtDiscover (req : MgmtReq)
  /-- CONNECT (R393). A CONNECT request opens a queue pair with an agreed version and MTU, or is refused. -/
  | mgmtConnect (req : MgmtReq) (body : List Byte)
  /-- CONNECT_REPLY_EXPIRE (R394). A kept CONNECT reply expires after 2 s. -/
  | connectReplyExpire (ip : Word) (port : Half) (seq : Word)
  /-- DISCONNECT (R394). A DISCONNECT request kills the named queue pair when it belongs to the requester. -/
  | mgmtDisconnect (req : MgmtReq) (body : List Byte)
  /-- BOOT_SOLICIT (R395). During network boot, the device broadcasts BOOT_SOLICIT every 1 s until an offer arrives. -/
  | bootSolicit
  /-- BOOT_OFFER (R395). The first BOOT_OFFER sets the device's addresses and starts the image reads. -/
  | bootOffer (req : MgmtReq) (body : List Byte)
  /-- BOOT_DATA (R395). A BOOT_DATA reply places its data at its offset and the next BOOT_READ is sent. -/
  | bootData (req : MgmtReq) (body : List Byte)
  /-- BOOT_READ_TIMEOUT (R395). 100 ms without BOOT_DATA resends the BOOT_READ, and after 8 tries restarts the solicit. -/
  | bootReadTimeout
  /-- RECOVER (R509). A RECOVER request in the recovery state runs its ACTION after the reply. -/
  | mgmtRecover (req : MgmtReq) (body : List Byte)
  /-- CCP_ENABLE_FORMAT (R398). Setting CCP_CTL.EN with KEEP = 0 formats the index, freeing every take. -/
  | ccpEnableFormat (v : Word) (src : Nat)
  /-- CCP_ENABLE_KEEP (R398). Setting CCP_CTL.EN with KEEP = 1 adopts the index after checking its CRCs, or formats it. -/
  | ccpEnableKeep (v : Word) (src : Nat)
  /-- CCP_READY (R398). The index is formatted or adopted and CCP_CTL.READY is set. -/
  | ccpReady
  /-- CCP_DISABLE (R406). Clearing CCP_CTL.EN moves every CCP queue pair to Error and stops every stream. -/
  | ccpDisable (v : Word) (src : Nat)
  /-- CCP_DOORBELL (R408). An 8-byte SEND gives the device the host's SQ tail and CQ head. -/
  | ccpDoorbell (q : Fin 64) (send : List Byte)
  /-- LOCAL_QUEUE_DOORBELL (R412). A write of CCP_LQ_SQ_IDX.WIDX rings the local queue's doorbell. -/
  | localQueueDoorbell (widx : Half) (src : Nat)
  /-- SUBMISSION_FETCH (R409). The device fetches submission entries by RDMA READ when completion slots allow and checks each command. -/
  | submissionFetch (q : Fin 65) (entries : List (List Byte))
  /-- COMMAND_COMPLETE (R410). A command ends and its completion is written at the CQ tail with its PHASE. -/
  | commandComplete (q : Fin 65) (cid : Half)
  /-- COALESCE_TIMEOUT (R425). The longest completion hold of COALESCE passes, and the held completions are written. -/
  | coalesceTimeout (q : Fin 65)
  /-- READ (R414). A READ command sends store blocks to the host buffer by RDMA WRITE. -/
  | ccpRead (q : Fin 65) (cid : Half)
  /-- WRITE (R414). A WRITE command fetches host data into class 4 and writes it to the store blocks. -/
  | ccpWrite (q : Fin 65) (cid : Half) (data : List Byte) (fate : Option Nat × Bool)
  /-- CREATE_TAKE (R400). CREATE_TAKE opens a Free take with a name and a reserve of runs. -/
  | createTake (q : Fin 65) (cid : Half)
  /-- CLOSE_TAKE (R399). CLOSE_TAKE moves an Open take to Closed. -/
  | closeTake (q : Fin 65) (cid : Half)
  /-- DELETE_TAKE (R400). DELETE_TAKE frees a take and returns its runs once earlier commands on it are complete. -/
  | deleteTake (q : Fin 65) (cid : Half)
  /-- TAKE_INFO (R399). TAKE_INFO writes the take information to the host buffer. -/
  | takeInfo (q : Fin 65) (cid : Half)
  /-- ABORT (R420). ABORT stops the target command at its next block boundary or reports it complete or not found. -/
  | ccpAbort (q : Fin 65) (cid : Half)
  /-- GET_FRAMES (R415). GET_FRAMES writes the existing frame entries of the requested range to the host. -/
  | getFrames (q : Fin 65) (cid : Half)
  /-- START_STREAM (R402). START_STREAM reads a stream descriptor and starts a recording stream into an Open take. -/
  | startStream (q : Fin 65) (cid : Half) (data : List Byte)
  /-- STOP_STREAM (R406). STOP_STREAM stops the stream once the entry of the frame in progress is written. -/
  | stopStream (q : Fin 65) (cid : Half)
  /-- MAP (R416). MAP returns remote addresses through which the host can read a block range by RDMA READ. -/
  | ccpMap (q : Fin 65) (cid : Half)
  /-- IDENTIFY (R424). IDENTIFY writes the 4,096-byte identify data to the host. -/
  | identify (q : Fin 65) (cid : Half)
  /-- GET_LOG (R424). GET_LOG writes the requested log page, cut to HLEN. -/
  | getLog (q : Fin 65) (cid : Half)
  /-- GET_FEATURE (R425). GET_FEATURE returns the value of a feature in RESULT. -/
  | getFeature (q : Fin 65) (cid : Half)
  /-- SET_FEATURE (R425). SET_FEATURE sets a writable feature. -/
  | setFeature (q : Fin 65) (cid : Half)
  /-- FW_DOWNLOAD (R426). FW_DOWNLOAD copies host bytes into the firmware staging area. -/
  | fwDownload (q : Fin 65) (cid : Half) (data : List Byte)
  /-- FW_COMMIT_WRITE (R507). FW_COMMIT with ACTION 0 verifies the staged image, writes it to the slot and reads it back. -/
  | fwCommitWrite (q : Fin 65) (cid : Half) (program : Bool)
  /-- FW_COMMIT_TRY (R507). FW_COMMIT with ACTION 1 writes the slot and makes it the trial slot. -/
  | fwCommitTry (q : Fin 65) (cid : Half) (program : Bool)
  /-- FW_COMMIT_CONFIRM (R506). FW_COMMIT with ACTION 2 confirms the running firmware. -/
  | fwCommitConfirm (q : Fin 65) (cid : Half)
  /-- FW_COMMIT_TRY_RESET (R507). FW_COMMIT with ACTION 3 writes the trial slot and then causes a warm reset. -/
  | fwCommitTryReset (q : Fin 65) (cid : Half) (program : Bool)
  /-- REG_READ (R427). REG_READ makes COUNT aligned 32-bit reads of the control window. -/
  | regRead (q : Fin 65) (cid : Half)
  /-- REG_WRITE (R427). REG_WRITE makes COUNT aligned 32-bit writes to the control window. -/
  | regWrite (q : Fin 65) (cid : Half) (data : List Byte)
  /-- CREATE_QP (R407). CREATE_QP opens a CCP queue pair from a 64-byte parameter buffer. -/
  | createQp (q : Fin 65) (cid : Half) (data : List Byte)
  /-- DELETE_QP (R428). DELETE_QP kills queue pair QPN. -/
  | deleteQp (q : Fin 65) (cid : Half)
  /-- STREAM_FRAME_APPEND (R403). A recording stream takes its source's next frame and stages its data, submitting compression jobs for kind 0. -/
  | streamFrameAppend (st : Fin 16)
  /-- STREAM_FRAME_ENTRY (R404). Once a frame's data is in DRAM, its entry is written, LENGTH advances and the frame is counted. -/
  | streamFrameEntry (st : Fin 16)
  /-- TIME_INC_WRITE (R431). A write of the increment applies from the next tick, clamped to 1.5–2.5 ns. -/
  | timeIncWrite (hi : Bool) (v : Word) (src : Nat)
  /-- TIME_NOW_READ (R432). A read of TIM_NOW_NS latches the whole counter for the other TIM_NOW registers. -/
  | timeNowRead
  /-- TIME_STEP_SET (R433). A write of TIM_STEP with GO = 1 and MODE = 0 sets the counter to TIM_SET_SEC and TIM_SET_NS. -/
  | timeStepSet (v : Word)
  /-- TIME_STEP_OFFSET (R433). A write of TIM_STEP with GO = 1 and MODE = 1 moves the counter by TIM_OFFS. -/
  | timeStepOffset (v : Word)
  /-- TIME_SLEW (R434). A write to TIM_SLEW.NS starts a slew, replacing any in progress. -/
  | timeSlew (v : Word) (src : Nat)
  /-- SLEW_COMPLETE (R434). The remaining slew amount reaches zero and the slew ends. -/
  | slewComplete
  /-- TRIGGER_ARM (R436). A write of TIM_TRGk_CFG.ARM = 1 arms the trigger with its target and period. -/
  | triggerArm (k : Fin 16) (v : Word)
  /-- TRIGGER_DISARM (R437). A write of DISARM = 1 disarms the trigger, after any firing in the same tick. -/
  | triggerDisarm (k : Fin 16) (v : Word)
  /-- TRIGGER_FIRE (R436). A trigger's target is reached, it fires, its consumers act and it advances by its period or disarms. -/
  | triggerFire (k : Fin 16)
  /-- TRIG_OUT_PULSE_END (R439). A TRIG_OUT pulse ends after WIDTH ticks. -/
  | trigOutPulseEnd (n : Fin 8)
  /-- CAPTURE_EDGE (R440). An active edge on a capture source latches the counter, or counts LOST while VALID = 1. -/
  | captureEdge (j : Fin 11) (rising : Bool)
  /-- CAPTURE_NS_READ (R440). A read of TIM_CAPj_NS returns the captured NS and clears VALID. -/
  | captureNsRead (j : Fin 11)
  /-- PPS_OUT_RISE (R441). PPS_OUT rises at the start of each new second with PPS_EN = 1. -/
  | ppsOutRise
  /-- PPS_OUT_FALL (R441). PPS_OUT falls PPS_WIDTH ms after it rose. -/
  | ppsOutFall
  /-- PTP_RECEIVE (R443). A selected PTP frame is timestamped and, in the device's domain, written to the receive ring. -/
  | ptpReceive (p : Fin 2) (frame : List Byte)
  /-- PTP_TX_SUBMIT (R444). Firmware advances TIM_PTX_WIDX to hand PTP messages to the transmit ring. -/
  | ptpTxSubmit (widx : Half) (src : Nat)
  /-- PTP_TX_DONE (R444). A ring PTP message leaves the sub-port, its timestamp is written and DONE is set. -/
  | ptpTxDone
  /-- PTP_TC_FORWARD (R445). The transparent clock forwards a selected frame to the other port, adding the residence time to Sync and Delay_Req. -/
  | ptpTcForward (p : Fin 2)
  /-- AUDIO_PLL_ENABLE (R448). Setting AUD_PLL_CFG.EN starts the audio PLL, which locks within 20 µs. -/
  | audioPllEnable (v : Word) (src : Nat)
  /-- AUDIO_PORT_START (R453). Setting EN on a port outside any group starts it, resetting its ring indices and frame index. -/
  | audioPortStart (n : Fin 8) (v : Word) (src : Nat)
  /-- AUDIO_PORT_STOP (R455). Clearing a port's EN completes the frame in progress and holds its pins low. -/
  | audioPortStop (n : Fin 8) (v : Word) (src : Nat)
  /-- AUDIO_GROUP_START (R453). A write of START = 1 starts an alignment group at once or makes it wait for its trigger, or is rejected. -/
  | audioGroupStart (g : Fin 2) (v : Word)
  /-- AUDIO_GROUP_STOP (R455). A write of STOP = 1 stops every port of the group after the frame in progress. -/
  | audioGroupStop (g : Fin 2) (v : Word)
  /-- AUDIO_MASK_WRITE (R457). A write to TXMASK or RXMASK sets the pending mask, which becomes active at the next block. -/
  | audioMaskWrite (n : Fin 8) (tx : Bool) (v : Word) (src : Nat)
  /-- AUDIO_TDM_FRAME (R459). A TDM frame begins, and the port sends a staged frame or a zero frame and places the received frame. -/
  | audioTdmFrame (n : Fin 8) (slots : List Nat) (sachet : Bool)
  /-- AUDIO_TX_SUBMIT (R459). Firmware advances the transmit ring WIDX, and the port stages the blocks. -/
  | audioTxSubmit (n : Fin 8) (widx : Half) (src : Nat)
  /-- AUDIO_FRAME_LO_READ (R452). A read of AUD_Pn_FRAME_LO returns the frame index low bits and latches the high bits. -/
  | audioFrameLoRead (n : Fin 8)
  /-- AUDIO_STREAM_SET (R463). An audio stream takes a sample set, completing an audio record when it is full. -/
  | audioStreamSet (st : Fin 16)
  /-- POWER_UP (R470). With VIN in limits and PWR_EN high, the device runs the power-up sequence to the boot ROM start. -/
  | powerUp (vin : Half × Half) (hot : Bool) (vio : BitVec 4)
  /-- POWER_LOSS (R466). Undervoltage, overvoltage or PWR_EN low runs the power-down sequence. -/
  | powerLoss (cause : Fin 3) (recorded : Bool)
  /-- RAIL_FAULT (R468). An output in fault turns off its group and latches FAULT. -/
  | railFault (out : Fin 5)
  /-- RAIL_RETRY (R468). A write of PWR_RAIL.RETRY = 1 restarts the outputs whose FAULT is clear. -/
  | railRetry (v : Word)
  /-- DOMAIN_HOLD (R474). A write of PWR_DOMn.HOLD = 1 demands the domain and keeps it from becoming idle. -/
  | domainHold (d : Fin 148)
  /-- KETTLE_DEMAND (R475). A demand reaches the kettle, which brings up the domain's segment, PLL, switch and clock. -/
  | kettleDemand (d : Fin 148)
  /-- DOMAIN_ON (R475). A Starting domain reaches On and its waiting requester proceeds. -/
  | domainOn (d : Fin 148)
  /-- DOMAIN_IDLE_TIMEOUT (R473). A POLICY 1 domain idle for its IDLE_US becomes Retained. -/
  | domainIdleTimeout (d : Fin 148)
  /-- IDLE_ENTRY (R477). Every application core halts in WFI and the device enters Idle. -/
  | idleEntry
  /-- NAP_ENTRY (R478). After NAP_MS of quiet with NAP_EN, the device enters Nap. -/
  | napEntry
  /-- DOZE_ENTRY (R479). After DOZE_S in Nap with DOZE_EN, the device writes back the L2, places DRAM in self-refresh and enters Doze. -/
  | dozeEntry
  /-- HIBERNATE_ENTRY (R479). After HIB_M in Doze with HIB_EN, the device posts an event and enters Hibernate. -/
  | hibernateEntry
  /-- WAKE (R482). An enabled wake event latches its cause and starts the wake order. -/
  | wake (event : Fin 9)
  /-- WAKE_COMPLETE (R477). Every domain turned off by the state and every channel in service are back, and wake is complete. -/
  | wakeComplete
  /-- HIBERNATE_EXIT (R484). A wake from Hibernate runs power-up from step 3 and the boot flow. -/
  | hibernateExit (hot : Bool)
  /-- CLOCK_SELECT (R483). A write of PWR_CLKSEL.CPU = 1 moves CPUCLK to the core PLL, or is ignored when it is unlocked. -/
  | clockSelect (v : Word) (src : Nat)
  /-- RESIDENCY_CLEAR (R485). A write of PWR_CTL.RES_CLR = 1 clears the residency counters. -/
  | residencyClear (v : Word)
  /-- RESIDENCY_LO_READ (R485). A read of a residency LO register latches its HI register. -/
  | residencyLoRead (counter : Fin 153)
  /-- SENSOR_CONVERSION (R486). A thermal sensor completes a conversion, and the device band and throttle are evaluated. -/
  | sensorConversion (n : Fin 26) (temp : Half)
  /-- SENSOR_TIMEOUT (R487). A sensor with no conversion for 1 ms becomes faulted and reads 115 °C. -/
  | sensorTimeout (n : Fin 26)
  /-- POWERUP_THERMAL_HOLD (R494). During power-up after a shutdown, the supervisor rechecks every 1 ms while a sensor reads 100 °C or more. -/
  | powerupThermalHold
  /-- COSY_XTAL_SWITCH (R545). The cosy clock switches to the crystal after 1 s of clean oscillation. -/
  | cosyXtalSwitch
  /-- CORE_START (R496). A write of CPU_COREc_CTL.START = 1 starts core c at its vector. -/
  | coreStart (c : Fin 4)
  /-- CORE_RESET (R496). A write of CPU_COREc_CTL.RESET = 1 stops core c and returns it to Off. -/
  | coreReset (c : Fin 4)
  /-- WATCHDOG_KICK (R499). A write of CPU_WDOG with KICK = 0x4B11 restarts the watchdog count. -/
  | watchdogKick (v : Half) (src : Nat)
  /-- WATCHDOG_EXPIRE (R499). The watchdog expires and raises its interrupt or causes a warm reset. -/
  | watchdogExpire
  /-- NVS_WRITE (R500). A core write to the non-volatile store is applied in the firmware area or refused with an event. -/
  | nvsWrite (src : Nat) (addr : Nat) (data : BitVec 64) (wide : Bool)
  /-- WARM_RESET (R501). RESET_N, SYS_RESET.WARM, the watchdog or WARMRST causes a warm reset that keeps DRAM and the event state. -/
  | warmReset (cause : Fin 4)
  /-- BOOT_START (R505). Core 0 starts the boot ROM, which tries the QSPI slots, network boot or recovery. -/
  | bootStart (sel : Fin 4)
  /-- BOOT_CONFIRM (R506). A write of SEC_BOOT.CONFIRM = 1 makes the booted slot active and raises the rollback floor. -/
  | bootConfirm (v : Word)
  /-- KEY_REVOKE (R508). A write of SEC_REVOKE bit k revokes key slot k permanently, unless no usable key would remain. -/
  | keyRevoke (v : Word) (src : Nat)
  /-- EVT_POST (R520). A write of EVT_POST posts a firmware event with the writer's source ID. -/
  | evtPost (v : Word) (src : Nat)
  /-- EVENT_PLACE (R515). The recorder takes an intake entry and places its record in an empty or overwritable slot, or discards it. -/
  | eventPlace
  /-- SUMMARY_PLACE (R514). With the FIFO empty, the recorder places a summary record for the oldest suppressed count. -/
  | summaryPlace
  /-- EVT_CLEAR (R518). A write of EVT_CLEAR with KEY = 0x5AFE empties the slots up to SEV and EVT_LAST. -/
  | evtClear (v : Word)
  /-- EVT_CLEAR_DONE (R518). A clear of the event ring ends and BUSY clears. -/
  | evtClearDone
  /-- EVT_LAST_LO_READ (R516). A read of EVT_LAST_LO latches EVT_LAST_HI. -/
  | evtLastLoRead
  /-- FREEZE_N_LOW (R521). FREEZE_N held low for 10 ns requests a freeze. -/
  | freezeNLow
  /-- DBG_FREEZE (R521). A write of DBG_CTL.FREEZE = 1 requests a freeze. -/
  | dbgFreeze (v : Word) (src : Nat)
  /-- FREEZE (R521). The JTAG FREEZE instruction requests a freeze at Update-DR. -/
  | jtagFreeze
  /-- FREEZE_COMPLETE (R522). Once every channel has settled, the remaining clocks stop and FREEZE_ACK and FROZEN are set. -/
  | freezeComplete
  /-- IDCODE (R527). The IDCODE instruction shifts out 0x2960_0E4D. -/
  | idcode
  /-- EXTEST (R527). The EXTEST instruction drives the boundary-scan register onto the lands. -/
  | extest (pins : List Bool) (data : List Bool)
  /-- SAMPLE_PRELOAD (R527). The SAMPLE/PRELOAD instruction samples and preloads the boundary-scan register. -/
  | samplePreload (pins : List Bool) (data : List Bool)
  /-- BYPASS (R527). The BYPASS instruction, or any unknown code, selects the 1-bit bypass register. -/
  | bypass (code : Byte)
  /-- SNAP_SEL (R528). SNAP_SEL selects a snapshot chain and restarts reading at word 0. -/
  | snapSel (chain : Half)
  /-- SNAP_DATA (R528). SNAP_DATA returns the next word of the selected chain, or 0 when not frozen. -/
  | snapData
  /-- MEMACC (R529). MEMACC starts one 64-bit read or write at a physical address, frozen or not. -/
  | memacc (data : BitVec 64) (addr : BitVec 40) (write : Bool) (autoinc : Bool)
  /-- MEMSTREAM (R530). MEMSTREAM returns the next auto-increment read word and starts the read after it. -/
  | memstream
  /-- MEMACC_DONE (R530). A debug memory access completes and its result waits for the next capture. -/
  | memaccDone
  /-- DEBUG_SELF_REFRESH_RETURN (R529). A DRAM channel woken by a debug access returns to self-refresh after 100 µs without one. -/
  | debugSelfRefreshReturn (ch : Fin 8)
  /-- WARMRST (R531). The JTAG WARMRST instruction causes a warm reset that leaves freeze. -/
  | warmrst
  /-- LINK_HALF_DISABLE (R108). Clearing ENABLE of a sensor link half takes the link down and closes any frame that is open. -/
  | linkHalfDisable (p : Fin 2) (tx : Bool) (v : Word) (src : Nat)
  /-- VSYNC_PULSE_END (R124). In output mode, SENSn_VSYNC is released VS_WIDTH ticks of 2 ns after its assertion. -/
  | vsyncPulseEnd (p : Fin 2)
  /-- ANALYSIS_FRAME_END (R230). The end-of-frame beat of an A frame reaching an analysis tile closes its measures, starts the record write or records an overrun, and releases the paired B frame. -/
  | analysisFrameEnd (t : Fin 4)
  /-- JTAG_TRST (R527). Asserting JTAG_TRST_N resets the TAP alone to Test-Logic-Reset with IDCODE loaded. -/
  | jtagTrst
deriving DecidableEq, Repr

end Sys2Proof
end

