-- ==== Sys2Proof/Decode.lean ====
section
/-! DEFINITION. The decoder. The commands of this block are delivered as what they are, not as words: every
row of spec/opcode_table.json gives no bits (`fields` is empty), so no word spells a command. -/

namespace Sys2Proof

/-- The command that a word spells by the table's bits: none, since no row of the table gives bits. -/
def decodeTableWord (_nbits _w : Nat) : Option Instr := none

end Sys2Proof
end

