-- ==== Sys2Proof/Machine/Operands.lean ====
section
/-! DEFINITION. The forms of operands: bit fields of words, signed fields, the byte order of multi-byte fields. -/

namespace Sys2Proof.Machine

/-! ### Bits and byte order (R10) -/

/-- The `n` low bits of `x` from bit `lo`. -/
def bits (x lo n : Nat) : Nat := (x / 2 ^ lo) % 2 ^ n

/-- `x` as a signed number of `n` bits. -/
def sint (x n : Nat) : Int :=
  if 2 ^ (n - 1) ≤ x % 2 ^ n then (x % 2 ^ n : Int) - 2 ^ n else (x % 2 ^ n : Int)

/-- A signed number as `n` bits. -/
def twos (i : Int) (n : Nat) : Nat := (i % (2 ^ n : Int)).toNat

/-- A number as `n` bytes, least significant first. -/
def leBytes : Nat → Nat → List Byte
  | 0, _ => []
  | n + 1, x => BitVec.ofNat 8 x :: leBytes n (x / 256)

/-- The number that bytes spell, least significant first. -/
def leNat : List Byte → Nat
  | [] => 0
  | b :: r => b.toNat + 256 * leNat r

/-- A number as `n` bytes, most significant first. -/
def beBytes (n x : Nat) : List Byte := (leBytes n x).reverse

def beNat (l : List Byte) : Nat := leNat l.reverse

/-- `n` bytes of 0. -/
def zeros (n : Nat) : List Byte := List.replicate n 0

/-- `l` cut or padded with 0 to `n` bytes. -/
def padTo (n : Nat) (l : List Byte) : List Byte := (l ++ zeros (n - l.length)).take n

/-- The little-endian field of `n` bytes at offset `off` of a structure. -/
def field (l : List Byte) (off n : Nat) : Nat := leNat ((l.drop off).take n)

/-- `l` with the bytes `b` at offset `off`. -/
def patch (l : List Byte) (off : Nat) (b : List Byte) : List Byte :=
  l.take off ++ b ++ l.drop (off + b.length)

/-! ### Fields of register words -/

/-- The bits hi..lo of a register word. -/
def getBits (w : Word) (hi lo : Nat) : Nat := ((w >>> lo) &&& (BitVec.allOnes 32 >>> (31 - (hi - lo)))).toNat

/-- Ones at bits hi..lo. -/
def fmask (hi lo : Nat) : Word := (BitVec.allOnes 32 >>> (31 - (hi - lo))) <<< lo

/-- `w` with bits hi..lo replaced by the low bits of `v`. -/
def setBits (w : Word) (hi lo v : Nat) : Word :=
  (w &&& ~~~(fmask hi lo)) ||| ((BitVec.ofNat 32 v <<< lo) &&& fmask hi lo)

end Sys2Proof.Machine
end

