-- ==== Sys2Proof/Config.lean ====
section
/-! DEFINITION. What an implementation fixes, and the free values: constants without a body, so that
nothing in Lean can evaluate one or prove a value of it (assumption log 3). -/

namespace Sys2Proof.Config

/-- A value the spec leaves undefined after a command, taken at the step's free counter (log 3). -/
opaque freeWord : Nat → BitVec 64
opaque freeByte : Nat → Byte
/-- Word `a` of the target register file of port `p` after a cold reset (Table 4.24: undefined; log 4). -/
opaque tfileCold : Nat → Nat → Half
/-- The boot ROM's bytes (R25, R502: the ROM's contents are the device's own; log 5). -/
opaque bootRomByte : Nat → Byte

/-- Byte 1 of an ST 352 payload ID, the code of the standard and mapping that a key names (R252: ST 352's table, which the spec does not
give; log 32). -/
opaque pidStandard : Nat → Byte

/-- FCLK, MCLK and TCLK of Table 1.12, in Hz. -/
def fclkHz : Nat := 1200000000
def mclkHz : Nat := 1600000000
def tclkHz : Nat := 500000000

end Sys2Proof.Config
end

