-- ==== Sys2Proof/Machine/State.lean ====
section
/-! DEFINITION. The machine's state as plain data: all that the spec gives the KXU9600, and the queue of
commands that wait. Reset values: State.reset, the machine right after a cold reset. -/

namespace Sys2Proof.Machine

/-- Register access types of Table 0.2; `rws` is an RW field of a tile page that is shadowed (R143). -/
inductive Acc where
  | ro | rw | rws | rwl | wo | w1c | w1s | rc
deriving DecidableEq, Repr

/-- A field of a control register: the register's window offset and the field's bits hi..lo. -/
structure Fld where
  reg : Nat
  hi : Nat
  lo : Nat
deriving DecidableEq, Repr

/-- One field of a register definition. -/
structure FieldDef where
  hi : Nat
  lo : Nat
  acc : Acc
deriving DecidableEq, Repr

/-- One row of the register map: base offset, the strides and counts of its copies, reset word, fields. -/
structure RegDef where
  name : String
  base : Nat
  dims : List (Nat × Nat)
  reset : Nat
  fields : List FieldDef
deriving DecidableEq, Repr

/-- What the block sends out: a pin level, a packet or column on a serial link, an Ethernet frame body,
a transaction on a sensor control bus, a JTAG capture. `kind` names it, `port` the place, `data` its words. -/
structure Emit where
  kind : String
  port : Nat
  data : List Nat
deriving DecidableEq, Repr, Inhabited

/-- An event in the intake FIFO (R513, Table 22.9). -/
structure Event where
  src : Half
  code : Half
  sev : Fin 8
  time : BitVec 64
  data : BitVec 64
deriving DecidableEq, Repr, Inhabited

/-- A suppressed count of a (SOURCE, CODE) pair (R513, R514). -/
structure Suppressed where
  src : Half
  code : Half
  sev : Fin 8
  time : BitVec 64
  count : Nat
deriving DecidableEq, Repr, Inhabited

/-- A record in a slot of the event ring (Table 22.9). -/
structure EvRecord where
  seq : BitVec 48
  src : Half
  code : Half
  sev : Fin 8
  summary : Bool
  time : BitVec 64
  data : BitVec 64
deriving DecidableEq, Repr, Inhabited

/-- The event recorder in the cosy domain (R512 to R520). `ring` holds the filled slots of 65,536;
`clearing` a clear in progress: its SEV and the EVT_LAST at its write (R518). -/
structure Recorder where
  intake : List Event
  supp : List Suppressed
  ring : Sparse (Option EvRecord)
  nextSeq : BitVec 48
  clearing : Option (Nat × BitVec 48)
  postData : Sparse (BitVec 64)
deriving DecidableEq, Repr

/-- A TLB entry (R363): space, page base, physical base, page size in bytes, permissions. -/
structure TlbEntry where
  space : Nat
  va : Nat
  pa : Nat
  size : Nat
  pin : Bool
  r : Bool
  w : Bool
deriving DecidableEq, Repr

/-- Why an engine's access failed: R33, R26 or R362, R366, or a fault R367 at an address, of a write or a read, of
KIND 0 to 3 (Table 15.7). -/
inductive AccErr where
  | parity
  | translation
  | pinnedMiss
  | fault (va : Nat) (write : Bool) (kind : Nat)
deriving DecidableEq, Repr

/-- Who makes a memory access: its source ID (R511), translation unit, steep client, whether the access is
pinned (Table 15.1); `lost` is what the event of a lost record names (R557). -/
structure Req where
  src : Nat
  unit : Nat
  client : Nat
  pinned : Bool
  lost : Option Nat
deriving DecidableEq, Repr

/-- A TILE record (Table 2.4). -/
structure TileRec where
  tile : Nat
  brew : Nat
  flags : Nat
  rate : Nat
  pad : Nat
  region : Nat
deriving DecidableEq, Repr, Inhabited

/-- A ROUTE record (Table 2.5). -/
structure RouteRec where
  src : Nat
  srcPort : Nat
  dst : Nat
  dstPort : Nat
  region : Nat
deriving DecidableEq, Repr, Inhabited

/-- A BREW record (Table 2.6). -/
structure BrewRec where
  brew : Nat
  root : Nat
  feeder : Nat
  share : Nat
  qdepth : Nat
  maxW : Nat
  maxH : Nat
  pad : Nat
  region : Nat
deriving DecidableEq, Repr, Inhabited

/-- A LANE record (Table 2.7): `lanes` holds all sixteen entries. -/
structure LaneRec where
  link : Nat
  count : Nat
  rate : Nat
  lanes : List Nat
deriving DecidableEq, Repr, Inhabited

/-- A CADDY record (Table 2.9). -/
structure CaddyRec where
  cls : Nat
  reserve : Nat
  weight : Nat
  limit : Nat
  pad : Nat
deriving DecidableEq, Repr, Inhabited

/-- A STEEP client record (Table 2.11). -/
structure SteepRec where
  client : Nat
  cls : Nat
  enforce : Nat
  bursts : Nat
  pad : Nat
deriving DecidableEq, Repr, Inhabited

/-- A POWER record (Table 2.12). -/
structure PowerRec where
  domain : Nat
  policy : Nat
  idleUs : Nat
deriving DecidableEq, Repr, Inhabited

/-- A REGION record (Table 2.13). -/
structure RegionRec where
  region : Nat
  flags : Nat
  brews : Nat
  pad : Nat
deriving DecidableEq, Repr, Inhabited

/-- A PARAM record (Table 2.14). -/
structure ParamRec where
  tile : Nat
  pad : Nat
  off : Nat
  value : Nat
  region : Nat
deriving DecidableEq, Repr, Inhabited

/-- A MOSAIC record (Table 7.2) with its sites as (TYPE, STANDIN) in rows of PH; `raw` is the record's bytes. -/
structure MosaicRec where
  brew : Nat
  ctx : Nat
  preset : Nat
  guideByte : Nat
  ph : Nat
  pv : Nat
  sites : List (Nat × Nat)
  raw : List Byte
  region : Nat
deriving DecidableEq, Repr, Inhabited

/-- A SYNC record (Table 4.6). -/
structure SyncRec where
  link : Nat
  width : Nat
  depth : Nat
  preLen : Nat
  preamble : List Nat
  sof : Nat
  sol : Nat
  eol : Nat
  eof : Nat
  blank : Nat
  activeW : Nat
  activeH : Nat
  order : Nat
  pad : Nat
deriving DecidableEq, Repr, Inhabited

/-- The configuration that a Forat image holds. After a partial load the sections of the regions it replaced
stand in place of the full image's. -/
structure FabCfg where
  version : Nat
  build : Nat
  tiles : List TileRec
  routes : List RouteRec
  brews : List BrewRec
  lanes : List LaneRec
  caddy : Option (List CaddyRec)
  steep : Option (Nat × List SteepRec)
  power : List PowerRec
  regions : List RegionRec
  params : List ParamRec
  mosaics : List MosaicRec
  syncs : List SyncRec
deriving DecidableEq, Repr, Inhabited

/-- A load in progress: the staged configuration, the regions a partial load replaces (bit mask; a full load
replaces all), the brews it replaces, those quiescent, for each section its type, region and index, and the
configuration that was active before the apply, with the tile registers (shadow and current copies) and the caddy partition
in force then (R64). -/
structure LoadRun where
  full : Bool
  mask : Nat
  cfg : FabCfg
  replaced : List Nat
  quiet : List Nat
  sections : List (Nat × Nat × Nat)
  prev : Option FabCfg
  regs : Sparse Word
  cur : Sparse Word
  partition : List CaddyRec
deriving DecidableEq, Repr, Inhabited

/-- A picture: width, height, components per position, and its rows of positions of components. -/
structure Pic where
  w : Nat
  h : Nat
  n : Nat
  rows : List (List (List Nat))
deriving DecidableEq, Repr, Inhabited

/-- A frame from its start at a root to its last tile. `rows` are the lines delivered in ascending order;
`par` and `tabs` the parameter set and tables in force from its commit point (R144); `picks` the second-input
picture a tile took for it; `badAt` the tiles that dropped it on its way; `watch` the register-file word each synthesis tile multiplies by (R204); `slot` the frame-queue slot it holds; `fills` the lines replaced or filled, each counted once (R128). -/
structure Frame where
  tag : FrameTag
  tile : Nat
  ctx : Nat
  link : Nat
  fs : Time
  xs : Time
  xsSrc : Nat
  sgenSrc : Nat
  mismatch : Bool
  w : Nat
  h : Nat
  depth : Nat
  n : Nat
  rows : List (List (List Nat))
  replaced : Nat
  fills : List Nat
  closed : Bool
  emitted : Bool
  dropped : Bool
  queued : Bool
  slot : Option Nat
  waited : Nat
  taken : Nat
  commits : Nat
  badAt : List Nat
  par : Sparse Word
  tabs : Sparse (List Byte)
  sofAt : List Nat
  doneAt : List Nat
  picks : Sparse (Option Pic)
  watch : Sparse Nat
deriving DecidableEq, Repr, Inhabited

/-- A pending SGEN release (R134): the SGEN, its release time (bits 39:0), and frame starts left. -/
structure Release where
  sgen : Nat
  time : Nat
  left : Nat
deriving DecidableEq, Repr, Inhabited

/-- An ingest or pattern tile besides its registers: the sequence counter (R126), pending releases and the
SGEN in effect (R133, R134), its frames from start to end at the root, oldest first, the playback
descriptor to be repeated (R153), frame records that wait for those of earlier frames (R132), and when the last playback
descriptor was taken with the FCLK cycles to the next one (R62). -/
structure RootRun where
  seq : BitVec 44
  releases : List Release
  sgen : Option Nat
  frames : List Frame
  again : Option (List Byte)
  recs : List (BitVec 44 × List Byte)
  pace : Option (BitVec 64 × Nat)
deriving DecidableEq, Repr, Inhabited

/-- A brew besides its registers: the root or feeder whose frame it takes (R137), whether the fetches of its
pending commit are complete with the tables they brought (R144), the commits applied (Table 5.2), the frames
in its tiles, the source of the last stripe and whether the brew waits for a stripe (R140), and the contexts whose latched set waits for its frame
start (R147). -/
structure BrewRun where
  sel : Option Nat
  fetched : Bool
  tabs : Sparse (List Byte)
  commits : Nat
  flow : List Frame
  lastSrc : Nat
  stalled : Bool
  ctxWait : List Nat
deriving DecidableEq, Repr, Inhabited

/-- A lane besides its registers: FOM updates in a row below and above the thresholds of LOS and of LOL (R87), the
recalibration in progress (0 in service, 1 out of service, 2 out of service by the retrain rule of R89), whether a failed
initial adaptation waits for its retry (R86), the state to return to after a recalibration, the transmit equalisation in
use as SWING, PRE, POST (R80), the CTLE code chosen (R84), the sampler offset of the data slice (R85, shown by no register),
and the test-pattern checker: its reference bits, newest first, and its error-free bits in a row (R96). -/
structure LaneRun where
  losLow : Nat
  losOk : Nat
  lolLow : Nat
  lolOk : Nat
  recal : Option Nat
  retry : Bool
  back : Nat
  eq : Nat × Nat × Nat
  ctle : Nat
  ofs : Byte
  prbs : List Bool
  clean : Nat
deriving DecidableEq, Repr, Inhabited

/-- A frame that the link has opened (R108): its FS number and SGEN, size and depth, the next line (lines below it
delivered or declared lost), whether all HEIGHT lines have arrived, and the ingest frame's tag. -/
structure LinkFrame where
  num : Nat
  sgen : Nat
  w : Nat
  h : Nat
  depth : Nat
  next : Nat
  full : Bool
deriving DecidableEq, Repr, Inhabited

/-- The receive half of a sensor link engine besides its registers: good ALIGN columns in a row, the state to go back
to after realignment (0: negotiate) with its version, the version write (0 none, 1 under way, 2 acknowledged, 3 to be
repeated, 4 nothing to write through), the open frame, the previous FS number since the link came up, the lost frames
counted since it, whether packets are being discarded for want of an FS (R109), XS times by frame number, the latest
VSYNC capture, per raw lane the code words seen in a row, and whether a raw line is open. -/
structure RxHalf where
  good : Nat
  back : Nat
  backVer : Nat
  vsel : Nat
  frame : Option LinkFrame
  prevFs : Option Nat
  lostSince : Nat
  skipping : Bool
  xs : List (Nat × Time)
  vscap : Option Time
  rawSeen : Sparse Nat
  rawLine : Bool
deriving DecidableEq, Repr, Inhabited

/-- A frame that the transmit half is sending: tag, frame number and SGEN on the link, the next line, and how many
lines' paced times have passed (R209). -/
structure TxFrame where
  tag : FrameTag
  num : Nat
  sgen : Nat
  next : Nat
  due : Nat
deriving DecidableEq, Repr, Inhabited

/-- The transmit half of a sensor link engine: the version selected in negotiation (0: none), CAPs left to send with
SELECTED set, whether the first CAP has gone, the ALIGN marker count, the number of the next frame, the exposures that
wait for their FS, the frame being sent, the echoed SGEN with its pending values as (SGEN, FSs left) (R123), and the scrambler of each logical
lane, its last 58 bits (R97). -/
structure TxHalf where
  ver : Nat
  capLeft : Nat
  capSent : Bool
  marker : Nat
  next : Nat
  exposed : List (FrameTag × Time)
  cur : Option TxFrame
  echo : Option Nat
  echoes : List (Nat × Nat)
  scr : Sparse Nat
deriving DecidableEq, Repr, Inhabited

/-- An immediate transaction (R116, R104): the engine whose version write it is (2 + engine once the negotiation that issued
it is over), or firmware's. -/
structure ScpTxn where
  vsel : Option Nat
  read : Bool
  addr : Nat
  data : Nat
deriving DecidableEq, Repr, Inhabited

/-- What a controller port has on its bus: an immediate transaction, or entry `i` of burst `k`. -/
inductive ScpCur where
  | imm (t : ScpTxn)
  | entry (k i : Nat)
deriving DecidableEq, Repr, Inhabited

/-- The values a burst was armed with (R117). -/
structure ScpBurst where
  start : Nat
  count : Nat
  sgenValid : Bool
  src : Nat
  sgen : Nat
  time : Nat
deriving DecidableEq, Repr, Inhabited

/-- A sensor control port besides its registers: what is on the bus, waiting immediate transactions, armed bursts,
released bursts that wait for the port as (k, released while the port was busy), an abort asked for the burst on the
bus (R120), the burst memory, and as a target the word after the last one accessed (R122). -/
structure ScpPort where
  cur : Option ScpCur
  imm : List ScpTxn
  bursts : Sparse (Option ScpBurst)
  waiting : List (Nat × Bool)
  abort : Bool
  bmem : Sparse Word
  ptr : Nat
deriving DecidableEq, Repr, Inhabited

/-- A statistics or analysis record being written (R161, R230): sections by offset, header, line CRCs by offset. -/
structure PendRec where
  tag : FrameTag
  ctx : Nat
  body : List (Nat × List Byte)
  header : List Byte
  lines : List (Nat × List Byte)
deriving DecidableEq, Repr, Inhabited

/-- A frame in the B queue of an analysis tile (R215): its slot, tag, size and components, and whether its brew
ended it as a drop unit. -/
structure BEntry where
  slot : Nat
  tag : FrameTag
  w : Nat
  h : Nat
  n : Nat
  dropped : Bool
deriving DecidableEq, Repr, Inhabited

/-- The A frame at an analysis tile (R217): whether its partner is decided, the B slot it reads, the partner's
tag as a number, the record flags the pairing set, and the partner selected while it is still being written (R217, R218). -/
structure AnaCur where
  tag : FrameTag
  ctx : Nat
  decided : Bool
  slot : Option Nat
  tagB : Nat
  flags : Nat
  chosen : Option FrameTag
deriving DecidableEq, Repr, Inhabited

/-- An analysis tile besides its registers. -/
structure AnaRun where
  bq : List BEntry
  cur : List AnaCur
  pend : List PendRec
deriving DecidableEq, Repr, Inhabited

/-- What a compose/overlay tile's latest B frame is (R240, R241). -/
inductive BState where
  | none
  | invalid
  | tooLarge
  | slot (k w h n : Nat)
deriving DecidableEq, Repr, Inhabited

/-- A compose/overlay tile: its latest B frame and the slot an A frame reads. -/
structure CmxRun where
  latest : BState
  reading : Option Nat
deriving DecidableEq, Repr, Inhabited

/-- A frame an output pack tile has written to a slot: the buffer record to come (Table 10.2). `slot` is the slot index, with 4
added for the slots of context 1, which are its own (R141). -/
structure OpkSlot where
  slot : Nat
  tag : FrameTag
  valid : Bool
  w : Nat
  h : Nat
  fmt : Nat
  depth : Nat
  flags : Nat
  space : Nat
  transfer : Nat
  addr : Nat
  pitch : Nat
deriving DecidableEq, Repr, Inhabited

/-- An output pack tile besides its registers: the slot after the last written in each context (R141), records to write, the latest
complete frame with a count of completions, and the slots' frames. -/
structure OpkRun where
  next : Nat
  next1 : Nat
  pend : List OpkSlot
  latest : Option OpkSlot
  count : Nat
deriving DecidableEq, Repr, Inhabited

/-- An SDI output besides its registers: running, stopping at the end of its frame (R251), the slot it holds of
its output pack tile, the completions it has seen, the frame sent last, the timecode counted (R253), the
lines left of the frame, and the audio sample sets of each group that wait for their frame (R254). -/
structure SdiOut where
  running : Bool
  stopping : Bool
  hold : Option Nat
  seen : Nat
  last : Option OpkSlot
  started : Bool
  frames : Nat
  linesLeft : Nat
  audio : Sparse (List (List Nat))
deriving DecidableEq, Repr, Inhabited

/-- The status kept of one received frame (R228, R256). -/
structure SdiKept where
  tile : Nat
  seq : BitVec 44
  flags : Nat
  crcErr : Nat
  pid : Nat
  tc : Nat
deriving DecidableEq, Repr, Inhabited

/-- An SDI input besides its registers: the format and payload ID of the last frame and how many frames in a row
had them (R255), the last payload ID and timecode, whether a timecode has come yet, when the EAV of line 1 of the last frame came
(R258), the status kept of frames in the fabric, and the sample sets
de-embedded per audio group that no stream has taken (R462). -/
structure SdiIn where
  fmt : Nat
  pid : Nat
  same : Nat
  lastPid : Nat
  lastTc : Nat
  tcSeen : Bool
  eav : BitVec 64
  kept : List SdiKept
  audio : Sparse (List (List Nat))
deriving DecidableEq, Repr, Inhabited

/-- A timing generator besides its registers: frame instants passed, the time of the latest, the EAV that it followed (R258), and
whether its phase has been lost in holdover and not been made up (R259). -/
structure TgRun where
  instants : Nat
  lastN : BitVec 64
  ref : BitVec 64
  adrift : Bool
deriving DecidableEq, Repr, Inhabited

/-- A picture the codec has in progress (R271, R272): its frame tag, input or output slot, PIC_NUM, the time it was
taken, type (0 I, 1 P, 2 B), flags, PicOrderCntVal, base QP, the engines it holds and when it started, the access
unit of a decode picture, whether it is chosen for pre-emption and has met a fault since (R372), whether its syntax stream waits for
sachets (R267), the words in its syntax buffer (R266), and what its engines have produced so far. -/
structure CodecRun where
  tag : Nat
  input : Option OpkSlot
  num : Nat
  take : Nat
  kind : Nat
  irap : Bool
  forced : Bool
  poc : Nat
  qp : Nat
  ent : Option Nat
  pix : Nat
  order : Nat
  preempted : Bool
  faulted : Bool
  badRead : Bool
  addr : Nat
  len : Nat
  flags : Nat
  started : Bool
  chosen : Bool
  stopped : Bool
  short : Bool
  words : List (BitVec 64)
  result : Option CodecOut
deriving DecidableEq, Repr, Inhabited

/-- A decoded picture in the order of decoding, not yet output or discarded (R288), with its conformance window in chroma units. -/
structure DecodedPic where
  tag : Nat
  num : Nat
  take : Nat
  kind : Nat
  irap : Bool
  poc : Int
  flags : Nat
  errCtu : Nat
  pic : Planes
  window : List Nat
deriving DecidableEq, Repr, Inhabited

/-- A stream context besides its registers: the descriptor in force, buffer records offered and accepted (R274),
the display index of the next accepted record and of the last IDR, pictures taken since open and since the last
IRAP, B pictures left of a group, requests pending, when it became ready (R271), the picture in progress, per
picture type the last base QP and access-unit length (R282), decoded pictures and how many of them are due for
output, whether a close outputs them, the last picture decoded without CONCEALED (R289), and what holds until the
next IRAP (R290, R291). `vui` is the VUI of the last IRAP (Table 11.6) and `source` the picture its input stage
made (R276 to R278). -/
structure VceCtx where
  desc : List Byte
  offers : List OpkSlot
  cands : List (Nat × OpkSlot)
  shown : Nat
  idrAt : Nat
  taken : Nat
  sinceIrap : Nat
  bLeft : Nat
  force : Bool
  forceReload : Bool
  closing : Bool
  flush : Bool
  reload : Bool
  ready : Option Nat
  pic : Option CodecRun
  rates : List (Option (Nat × Nat))
  dpb : List DecodedPic
  bumps : Nat
  good : Option Planes
  lastPoc : Int
  tainted : Bool
  dropRasl : Bool
  discont : Bool
  unsup : Bool
  vui : List Nat
  source : Option Planes
deriving DecidableEq, Repr, Inhabited

/-- Contexts of the prediction coder (R301): (A, N) by index and (RA, RN) by site. -/
structure PredCtx where
  ctx : List (Nat × Nat)
  runs : List (Nat × Nat)
deriving DecidableEq, Repr, Inhabited

/-- What is left of coding between two stripes: contexts, the last PV reconstructed lines, and how far back yb lies. -/
structure PredRun where
  ctx : PredCtx
  hist : List (List Nat)
  since : Nat
deriving DecidableEq, Repr, Inhabited

/-- A compression job that has been taken (R295): queue, order of taking, descriptor, order of starting once started,
engine, whether its state lies in a save area, suspended at a fault, chosen for pre-emption and stopped by a fault since (R372), whether STATE and stream header have been read,
stripes done, coder state, stream position, and counts. -/
structure CmpJob where
  q : Nat
  take : Nat
  desc : List Byte
  started : Option Nat
  eng : Nat
  held : Bool
  susp : Bool
  chosen : Bool
  stopped : Bool
  preempted : Bool
  faulted : Bool
  begun : Bool
  i : Nat
  run : PredRun
  pos : Nat
  stored : Nat
  clamps : Nat
deriving DecidableEq, Repr, Inhabited

/-- Where a DRAM address lies (R319). -/
structure DramLoc where
  sub : Nat
  ch : Nat
  bg : Nat
  bank : Nat
  rank : Nat
  row : Nat
  col : Nat
deriving DecidableEq, Repr

/-- A write that waits in a subchannel's write queue (R317, R324): block address, bytes, byte enables. -/
structure QWrite where
  addr : Nat
  data : List Byte
  mask : Nat
deriving DecidableEq, Repr

/-- A request that waits at the DRAM point for its client's allowance (R341, R346). -/
structure WaitReq where
  client : Nat
  addr : Nat
  write : Bool
  data : List Byte
  mask : Nat
deriving DecidableEq, Repr

/-- What the DRAM controller holds besides its registers: per subchannel (channel × 2 + sub) the queued
writes; per bank the open row and the hint of its last access; per rank the postponed refreshes; the
channels whose devices a warm reset or freeze left in self-refresh (R333); the subchannel in a short retrain
and those waiting (R328); those whose retrain fell due in self-refresh or a full retrain (R332); whether INIT was
RESUME; per DRAM device (channel × 12 + device) its band (R330); clients by how recently they were served (R340); the DRC_BANDb word whose presets each subchannel works
with, and per rank the refresh interval code in force (R328, R330, R334). -/
structure DramState where
  writes : Sparse (List QWrite)
  rows : Sparse (Option (Nat × Nat))
  postponed : Sparse Nat
  selfRef : Sparse Bool
  short : Option Nat
  shortWait : List Nat
  shortDue : List Nat
  resume : Sparse Bool
  devBands : Sparse Nat
  served : List Nat
  presets : Sparse Word
  refreshes : Sparse Nat
deriving DecidableEq, Repr

/-- One steep client's counters in the steep in progress (R336, R347): bursts charged at the DRAM point,
allowance left at the three points, units of accesses made whole that R341 admits only in later steeps, whether a
request was held or borrowed, and whether a shortfall was reported since STP_CLn_STAT was last read. -/
structure SteepClient where
  charged : Nat
  left : Nat × Nat × Nat
  late : Nat × Nat × Nat
  held : Bool
  borrowed : Bool
  reported : Bool
deriving DecidableEq, Repr

/-- The caddy partition besides its registers: the holder of each granted sachet as (class, channel), requests that wait as
(class, channel), oldest first, the bank of each channel's previous sachet (keyed by the channel's number × 8 + its class), the class 7 RESERVE in force since the first
full load (R356), and the sub-ports whose last PFC frame was XOFF (R386). -/
structure CaddyState where
  held : Sparse (Option (Nat × Nat))
  waits : List (Nat × Nat)
  bank : Sparse Nat
  block7 : Option Nat
  xoff : List Nat
deriving DecidableEq, Repr, Inhabited

/-- A DMA descriptor in progress (R376): its bytes, the row and the offset in it of the next burst, bytes written, and
whether its channel is or was suspended at a fault. -/
structure DmaJob where
  desc : List Byte
  row : Nat
  off : Nat
  bytes : Nat
  susp : Bool
  faulted : Bool
deriving DecidableEq, Repr, Inhabited

/-- A DMA channel besides its registers: the descriptor in progress and the completions not yet consumed. -/
structure DmaRun where
  job : Option DmaJob
  unread : Nat
deriving DecidableEq, Repr, Inhabited

/-- A RoCEv2 message that the device has sent and the host has not acknowledged: its CCP user, operation (0 SEND, 1 RDMA
WRITE, 2 RDMA READ), first PSN, packets, remote address and key, length, data. -/
structure RoceMsg where
  user : Nat
  op : Nat
  psn : Nat
  pkts : Nat
  va : Nat
  key : Nat
  len : Nat
  data : List Byte
deriving DecidableEq, Repr, Inhabited

/-- A message that the host is sending: operation, next address, bytes so far of a SEND, whether its data is still placed. -/
structure RoceRecv where
  op : Nat
  va : Nat
  data : List Byte
  ok : Bool
deriving DecidableEq, Repr, Inhabited

/-- An open queue pair (R387): sub-port as port × 4 + k, host queue pair, host address, MTU code, Error, next PSN to send and
to receive, messages sent, reads that wait for one of sixteen places, retries and RNR retries made, whether a sequence-error
NAK has been sent, and the message being received. -/
structure EthQp where
  sub : Nat
  remote : Nat
  ip : Nat
  mtu : Nat
  error : Bool
  sPsn : Nat
  ePsn : Nat
  msgs : List RoceMsg
  waiting : List RoceMsg
  retries : Nat
  rnr : Nat
  nak : Bool
  cur : Option RoceRecv
deriving DecidableEq, Repr, Inhabited

/-- A CONNECT reply that is kept (R394): source address, UDP port and SEQ of the request, status and body. -/
structure KeptReply where
  ip : Nat
  port : Nat
  seq : Nat
  status : Nat
  body : List Byte
deriving DecidableEq, Repr, Inhabited

/-- A packet that waits: sub-port, priority (8 for untagged), next hop, and what it is. -/
structure EthHeld where
  sub : Nat
  prio : Nat
  hop : Nat
  what : Emit
deriving DecidableEq, Repr, Inhabited

/-- The Ethernet ports besides their registers: queue pairs; resolved ARP entries (address, MAC) per sub-port; packets that
wait for an ARP reply; pauses as (sub-port, priority or 8 for all, end in nanoseconds); packets that wait for their end;
CONNECT replies; and frames that wait for a wake (R481) as (port, sub-port, FCS good, bytes). -/
structure EthState where
  qps : Sparse (Option EthQp)
  arp : Sparse (List (Nat × Nat))
  arpWait : List EthHeld
  pauses : List (Nat × Nat × Nat)
  held : List EthHeld
  replies : List KeptReply
  asleep : List (Nat × Nat × Bool × List Byte)
deriving DecidableEq, Repr, Inhabited

/-- A frame that a recording stream's source offers (Table 17.3): tag, address and bytes in memory or the data itself (audio),
size in samples and lines with pitch, slot, whether the source ended it as a drop unit and whether its slot is being
rewritten (R405). -/
structure FeedItem where
  tag : Nat
  addr : Nat
  len : Nat
  w : Nat
  h : Nat
  pitch : Nat
  slot : Nat
  bad : Bool
  above : Bool
  data : Option (List Byte)
deriving DecidableEq, Repr, Inhabited

/-- A frame that a stream has staged: its data, FLAGS of Table 17.4 and stripes stored. -/
structure StagedFrame where
  item : FeedItem
  data : List Byte
  flags : Nat
  stored : Nat
deriving DecidableEq, Repr, Inhabited

/-- A recording stream (R403 to R406): take, descriptor, frames offered, the frame staged, entries written, and the
STOP_STREAM commands (by stamp) that wait for its end. -/
structure StreamRun where
  take : Nat
  desc : List Byte
  inbox : List FeedItem
  cur : Option StagedFrame
  count : Nat
  stops : List Nat
deriving DecidableEq, Repr, Inhabited

/-- A take (R399): state, name, LENGTH, runs of its data in order, reserved runs not yet used, runs of its frame entries,
frame entries as bytes, entries with BAD, creation time. -/
structure Take where
  state : Nat
  name : List Byte
  length : Nat
  runs : List Nat
  spare : List Nat
  eruns : List Nat
  entries : List (List Byte)
  bad : Nat
  created : Nat
deriving DecidableEq, Repr, Inhabited

/-- A CCP queue (R407 to R410): agreed version, administrative commands, rings with their indices, PHASE, COALESCE and the
completions it holds, and the CIDs of completions not yet consumed. -/
structure CcpQueue where
  ver : Nat
  admin : Bool
  sqAddr : Nat
  sqKey : Nat
  sqDepth : Nat
  cqAddr : Nat
  cqKey : Nat
  cqDepth : Nat
  sqHead : Nat
  sqTail : Nat
  cqHead : Nat
  cqTail : Nat
  phase : Bool
  coMax : Nat
  coHold : Nat
  held : List (List Byte)
  doneIds : List Nat
deriving DecidableEq, Repr, Inhabited

/-- A CCP command in progress: queue (64 the local one), order of fetching, submission entry, blocks moved to DRAM, the blocks of a WRITE that
lie in caddy class 4 after those (R414, R419), whether it is suspended at a fault, and its status and RESULT once decided. -/
structure CcpCmd where
  q : Nat
  stamp : Nat
  sub : List Byte
  moved : Nat
  staged : List (List Byte)
  susp : Bool
  done : Option (Nat × Nat)
deriving DecidableEq, Repr, Inhabited

/-- The capture store besides its registers: takes; queues; commands in progress in the order of fetching; the order counter;
streams; runs of deleted takes with the take and the DELETE_TAKE's stamp (R400); where the index that it holds lies; and the format (false) or adoption
(true) under way. -/
structure CcpState where
  takes : Sparse Take
  queues : Sparse (Option CcpQueue)
  cmds : List CcpCmd
  order : Nat
  streams : Sparse (Option StreamRun)
  dying : List (List Nat × Nat × Nat)
  home : Option Nat
  opening : Option Bool
deriving DecidableEq, Repr, Inhabited

/-- A frame that the transparent clock has waiting (R445): the port it leaves by, its bytes and its ingress time. -/
structure PtpForward where
  port : Nat
  frame : List Byte
  ingress : Nat
deriving DecidableEq, Repr, Inhabited

/-- The time unit besides its registers: the slew in progress (its sign and the amount left in 2⁻³² ns), the targets
of armed triggers in 2⁻³² ns modulo 2⁷², the time of each trigger's latest firing since reset, the TRIG_OUT pins
whose pulse is under way, the PPS_OUT level, the SYNC pins driven (VSYNC of port p as p), HSYNC pulses left per
port, and the number of the next receive entry of the PTP ring (R443). -/
structure TimState where
  slew : Option (Bool × Nat)
  targets : Sparse Nat
  fired : Sparse (Option Time)
  pulses : List Nat
  pps : Bool
  vsync : List Nat
  hsync : Sparse Nat
  prxSeq : Nat
  forwards : List PtpForward
deriving DecidableEq, Repr, Inhabited

/-- A receive audio block that is filling (R458): index and time of its first frame, mask, frames of container bytes,
FLAGS. -/
structure AudBlock where
  start : Nat
  time : Nat
  mask : Nat
  frames : List (List Byte)
  flags : Nat
deriving DecidableEq, Repr, Inhabited

/-- A transmit block that is staged and has not begun (R459): the index of its first frame, MASK, FRAMES, and its frames of container
bytes, or none where the read failed. -/
structure TxBlock where
  start : Nat
  mask : Nat
  count : Nat
  frames : List (Option (List Byte))
deriving DecidableEq, Repr, Inhabited

/-- An audio port besides its registers: running, the index of its next TDM frame, the staged frames of the transmit block that has
begun as (index, container bytes or none where the read failed), the next transmit block, the receive block that is filling, the mask
of the block before it, whether frames were lost since, whether a run of zero frames or of lost frames is under way, and the slots
received last. -/
structure AudPort where
  running : Bool
  next : Nat
  staged : List (Nat × Option (List Byte))
  ahead : Option TxBlock
  block : Option AudBlock
  lastMask : Option Nat
  gap : Bool
  zeroRun : Bool
  lostRun : Bool
  slots : List Nat
deriving DecidableEq, Repr, Inhabited

/-- An audio stream (R462, R463): whether it is recorded, the sample sets of the record that is filling with the time
of the first and whether any was 0 for want of a source, complete records that wait, and the last set. -/
structure AudStream where
  recorded : Bool
  sets : List (List Nat)
  start : Nat
  zeroed : Bool
  done : List (List Byte)
  last : List Nat
deriving DecidableEq, Repr, Inhabited

/-- The power states of Table 20.6. -/
inductive PowerMode where
  | run | idle | nap | doze | hibernate
deriving DecidableEq, Repr

/-- What power control holds besides its registers: whether the cosy supply is up, the state, demands waiting at the kettle in
the order of arrival, the domains and channels a low state turned off, a wake under way, the residency counters with the entries to On (their register
words are latched views) with the cosy clock's phase in 1/3,906,250 of its period, whether a shutdown preceded, whether it holds
the module off until the input has cycled (R494), whether the rails are on, the ticks of TCLK since the watchdog's count
began, and which VIO lands are supplied, SCP_VIO0, SCP_VIO1, SENS_VIO0, SENS_VIO1 (R542). -/
structure PowerState where
  cosy : Bool
  mode : PowerMode
  demands : List Nat
  offDomains : List Nat
  offChannels : List Nat
  waking : Bool
  sres : Sparse (BitVec 64)
  dres : Sparse (BitVec 48)
  ons : Sparse Half
  beat : Nat
  afterShutdown : Bool
  heldOff : Bool
  railsOn : Bool
  wdog : Nat
  vio : Nat
deriving DecidableEq, Repr

/-- The thermal supervisor besides its registers: per sensor whether its last conversion read 125 °C or more,
and whether the hold of power-up is in force (R493, R494). -/
structure ThermalState where
  hot125 : Sparse Bool
  holding : Bool
  shutdowns : BitVec 32
deriving DecidableEq, Repr

/-- The debug port (R527 to R530): the instruction register, the boundary-scan register, the selected chain and its next word,
the access in progress as (address, write data or none), whether reads continue, the result waiting for its capture as (data,
status), the DRAM channels an access has woken, the free counter when the snapshot was taken, and the registers as
they stood then. -/
structure JtagState where
  ir : Nat
  boundary : List Bool
  chain : Nat
  word : Nat
  access : Option (Nat × Option (List Byte))
  auto : Bool
  result : Option (Nat × Nat)
  at_ : Nat
  awake : List Nat
  snap : Nat
  held : Sparse Word
deriving DecidableEq, Repr

/-- The part of the non-volatile store that firmware cannot write (Table 22.2, R503, R507, R508): key slots, revoked
slots, and the boot record: rollback floor, active slot, slot on trial (3 for none) and its attempts, flash slots marked
invalid; the serial number and the two MAC addresses. -/
structure SecStore where
  keys : Sparse (Option (List Byte))
  revoked : Nat
  floor : Nat
  active : Nat
  trial : Nat
  attempts : Nat
  invalid : Nat
  serial : Nat
  mac0 : Nat
  mac1 : Nat
deriving DecidableEq, Repr

/-- Network boot (Table 16.9): whether an offer has been accepted, the server and the image length it gave, the offset of the BOOT_READ outstanding and the
tries made of it, and whether a recovery action asked for it. -/
structure NetBoot where
  offered : Bool
  server : Nat
  len : Nat
  off : Nat
  tries : Nat
deriving DecidableEq, Repr, Inhabited

/-- The boot flow besides its registers: state as DISCOVER reports it (0 boot ROM, 1 recovery, 2 firmware), SEC_BOOT's
SOURCE and BOOTED, BOOT_SEL as the boot ROM sampled it, ROLLBACK and FW_VERSION of the running image, network boot in progress, and the QSPI flash: bytes by
address, an unlisted byte erased. -/
structure BootState where
  phase : Nat
  source : Nat
  booted : Nat
  sel : Nat
  rollback : Nat
  version : Nat
  net : Option NetBoot
  flash : List Host.Cell
deriving DecidableEq, Repr, Inhabited

/-- Why the block stops: no rule of the spec stops it. Every data error is local (R32), so no meaning
raises a fault; the type has no constructor. -/
inductive Fault
deriving DecidableEq, Repr

/-- Refusals. -/
inductive Refusal where
  /-- Raised by Dispatch alone, for a command whose meaning is not written yet. Safe: nothing is claimed of it. -/
  | notModelled (mnemonic : String)
deriving DecidableEq, Repr

/-- The state. -/
structure State where
  /-- every control register of Table 1.6 by window offset; a tile page's word is its shadow copy (R143); the indexed tile memories lie above the window -/
  regs : Sparse Word
  /-- the current copy of the shadowed fields, with which tiles compute (R143) -/
  cur : Sparse Word
  /-- the bytes of DRAM, caddy, non-volatile store and core-local space (Table 1.5) -/
  mem : List Host.Cell
  /-- byte addresses whose stored parity does not match (R317, R318, R358) -/
  badPar : List Nat
  /-- the MODEL's queue of commands, first in, first out -/
  pending : List Instr
  /-- the MODEL's counter of free values taken -/
  free : Nat
  /-- data returned by the last register read command -/
  rdata : List Word
  /-- what the block has sent out, oldest first -/
  out : List Emit
  /-- the time counter (R429) -/
  time : Time
  /-- the event recorder -/
  evt : Recorder
  /-- the TLB of each of 43 units, most recently used first (R363) -/
  tlb : Sparse (List TlbEntry)
  /-- the active image's configuration (R57, R65) -/
  active : Option FabCfg
  /-- the load in progress (R53 to R67) -/
  load : Option LoadRun
  /-- the parameter set each brew latched last (R144) -/
  latched : Sparse Word
  /-- the tables fetched with it: tile × 16 + context × 8 + kind -/
  tabs : Sparse (List Byte)
  /-- ingest and pattern tiles by tile index -/
  roots : Sparse RootRun
  /-- brews by number -/
  brews : Sparse BrewRun
  /-- the 96 serial lanes (chapter 3) -/
  lanes : Sparse LaneRun
  /-- quad PLLs that are locked, bit per quad (R73) -/
  quadPll : Nat
  /-- target register files by port × 65,536 + word address; an unlisted word holds what a cold reset left (Table 4.24) -/
  tfile : Sparse Half
  /-- receive halves of the sensor link engines -/
  rx : Sparse RxHalf
  /-- transmit halves -/
  tx : Sparse TxHalf
  /-- sensor control ports -/
  scp : Sparse ScpPort
  /-- records waiting at statistics tiles (R161) -/
  sta : Sparse (List PendRec)
  /-- exposure-watch samples of synthesis tiles, newest first (R204) -/
  synW : Sparse (List Nat)
  /-- analysis tiles -/
  ana : Sparse AnaRun
  /-- compose/overlay tiles -/
  cmx : Sparse CmxRun
  /-- output pack tiles -/
  opk : Sparse OpkRun
  /-- SDI outputs -/
  sdiOut : Sparse SdiOut
  /-- SDI inputs -/
  sdiIn : Sparse SdiIn
  /-- timing generators -/
  tg : Sparse TgRun
  /-- the 32 codec contexts -/
  vce : Sparse VceCtx
  /-- counts pictures becoming ready and starting, for R271's orders -/
  vceOrder : Nat
  /-- compression jobs taken and not completed, in the order of taking -/
  cmp : List CmpJob
  /-- counts descriptors taken and jobs started -/
  cmpOrder : Nat
  /-- JOB_IDs of the completions of each queue not yet consumed -/
  cmpDone : Sparse (List Nat)
  /-- the DRAM controller -/
  dram : DramState
  /-- the 32 steep clients -/
  steepC : Sparse SteepClient
  /-- bursts admitted in tiers 3 and 4 in the steep in progress (R348) -/
  steepPool : Nat
  /-- requests that wait at the DRAM point -/
  steepWait : List WaitReq
  /-- the caddy's sachets -/
  caddy : CaddyState
  /-- the four DMA channels -/
  dma : Sparse DmaRun
  /-- the Ethernet ports -/
  eth : EthState
  /-- the capture store and its protocol -/
  ccp : CcpState
  /-- the time unit (chapter 18) -/
  tim : TimState
  /-- audio ports -/
  aud : Sparse AudPort
  /-- audio streams -/
  str : Sparse AudStream
  /-- power input and states (chapter 20) -/
  power : PowerState
  /-- thermal management (chapter 21) -/
  thermal : ThermalState
  /-- the cosy clock runs on the crystal, not on the internal RC (R545) -/
  xtal : Bool
  /-- the debug port -/
  jtag : JtagState
  /-- keys, boot record and identity in the non-volatile store -/
  sec : SecStore
  /-- boot (R502 to R507) -/
  boot : BootState
deriving DecidableEq, Repr

/-- The machine right after a cold reset (step 2 of Table 20.3: the cosy domain is up, nothing else is). -/
def State.reset : State where
  regs := []
  cur := []
  mem := []
  badPar := []
  pending := []
  free := 0
  rdata := []
  out := []
  time := ⟨0, 0, 0⟩
  evt := ⟨[], [], [], 0, none, []⟩
  tlb := []
  active := none
  load := none
  latched := []
  tabs := []
  roots := []
  brews := []
  lanes := []
  quadPll := 0
  tfile := []
  rx := []
  tx := []
  scp := []
  sta := []
  synW := []
  ana := []
  cmx := []
  opk := []
  sdiOut := []
  sdiIn := []
  tg := []
  vce := []
  vceOrder := 0
  cmp := []
  cmpOrder := 0
  cmpDone := []
  dram := ⟨[], [], [], [], none, [], [], [], [], [], [], []⟩
  steepC := []
  steepPool := 0
  steepWait := []
  caddy := ⟨[], [], [], none, []⟩
  dma := []
  eth := ⟨[], [], [], [], [], [], []⟩
  ccp := ⟨[], [], [], 0, [], [], none, none⟩
  tim := ⟨none, [], [], [], false, [], [], 0, []⟩
  aud := []
  str := []
  power := ⟨true, .run, [], [], [], false, [], [], [], 0, false, false, false, 0, 0⟩
  thermal := ⟨[], false, 0⟩
  xtal := false
  jtag := ⟨2, [], 0, 0, none, false, none, 0, [], 0, []⟩
  sec := ⟨[], 0, 0, 0, 3, 0, 0, 0, 0, 0⟩
  boot := ⟨0, 0, 0, 0, 0, 0, none, []⟩

end Sys2Proof.Machine
end

