-- ==== Sys2Proof/Machine/Regs.lean ====
section
/-! DEFINITION. The control register window: one definition per register (its offset in the window,
Table 1.6 of 01 and the register tables of chapters 01 to 23) and one per named field, then the register
map with each field's access type and reset value. Written from those tables. -/

namespace Sys2Proof.Machine

/-! ### Register offsets (namespace `R`) and fields (namespace `F`) -/

/-- 01 T1.8. -/
def R.SYS_ID : Nat := 0x0
def F.SYS_ID.ID : Fld := ⟨R.SYS_ID, 31, 0⟩
/-- 01 T1.9. -/
def R.SYS_REV : Nat := 0x4
def F.SYS_REV.STEP_MAJOR : Fld := ⟨R.SYS_REV, 15, 8⟩
def F.SYS_REV.STEP_MINOR : Fld := ⟨R.SYS_REV, 7, 0⟩
/-- 01 T1.10. -/
def R.SYS_CAPS : Nat := 0x8
def F.SYS_CAPS.BREWS : Fld := ⟨R.SYS_CAPS, 31, 24⟩
def F.SYS_CAPS.DRCH : Fld := ⟨R.SYS_CAPS, 23, 16⟩
def F.SYS_CAPS.LANES : Fld := ⟨R.SYS_CAPS, 15, 8⟩
def F.SYS_CAPS.TILES : Fld := ⟨R.SYS_CAPS, 7, 0⟩
/-- 01 T1.11 R9. -/
def R.SYS_LOCK : Nat := 0xc
def F.SYS_LOCK.LOCK : Fld := ⟨R.SYS_LOCK, 0, 0⟩
/-- 22 T22.10. -/
def R.SYS_RESET : Nat := 0x10
def F.SYS_RESET.WARM : Fld := ⟨R.SYS_RESET, 31, 31⟩
def F.SYS_RESET.COUNT : Fld := ⟨R.SYS_RESET, 15, 8⟩
def F.SYS_RESET.CAUSE : Fld := ⟨R.SYS_RESET, 2, 0⟩
/-- 22 T22.12. -/
def R.SEC_KEYSTAT : Nat := 0x10000
def F.SEC_KEYSTAT.REVOKED : Fld := ⟨R.SEC_KEYSTAT, 11, 8⟩
def F.SEC_KEYSTAT.PRESENT : Fld := ⟨R.SEC_KEYSTAT, 3, 0⟩
/-- 22 T22.12. -/
def R.SEC_REVOKE : Nat := 0x10004
def F.SEC_REVOKE.REVOKE : Fld := ⟨R.SEC_REVOKE, 3, 0⟩
/-- 22 T22.12. -/
def R.SEC_ROLLBACK : Nat := 0x10008
def F.SEC_ROLLBACK.FLOOR : Fld := ⟨R.SEC_ROLLBACK, 5, 0⟩
/-- 22 T22.12. -/
def R.SEC_BOOT : Nat := 0x1000c
def F.SEC_BOOT.CONFIRM : Fld := ⟨R.SEC_BOOT, 31, 31⟩
def F.SEC_BOOT.SOURCE : Fld := ⟨R.SEC_BOOT, 25, 24⟩
def F.SEC_BOOT.BOOTED : Fld := ⟨R.SEC_BOOT, 21, 20⟩
def F.SEC_BOOT.ACTIVE : Fld := ⟨R.SEC_BOOT, 17, 16⟩
def F.SEC_BOOT.TRY : Fld := ⟨R.SEC_BOOT, 13, 12⟩
def F.SEC_BOOT.ATTEMPTS : Fld := ⟨R.SEC_BOOT, 1, 0⟩
/-- 22 T22.12. -/
def R.SEC_STAGE_LO : Nat := 0x10010
def F.SEC_STAGE_LO.ADDR : Fld := ⟨R.SEC_STAGE_LO, 31, 21⟩
/-- 22 T22.12. -/
def R.SEC_STAGE_HI : Nat := 0x10014
def F.SEC_STAGE_HI.ADDR : Fld := ⟨R.SEC_STAGE_HI, 7, 0⟩
/-- 02 T2.18. -/
def R.FAB_LOAD_ADDR_LO : Nat := 0x20000
def F.FAB_LOAD_ADDR_LO.ADDR : Fld := ⟨R.FAB_LOAD_ADDR_LO, 31, 3⟩
/-- 02 T2.19. -/
def R.FAB_LOAD_ADDR_HI : Nat := 0x20004
def F.FAB_LOAD_ADDR_HI.ADDR : Fld := ⟨R.FAB_LOAD_ADDR_HI, 7, 0⟩
/-- 02 T2.20. -/
def R.FAB_LOAD_LEN : Nat := 0x20008
def F.FAB_LOAD_LEN.LEN : Fld := ⟨R.FAB_LOAD_LEN, 24, 0⟩
/-- 02 T2.21. -/
def R.FAB_LOAD : Nat := 0x2000c
def F.FAB_LOAD.REGIONS : Fld := ⟨R.FAB_LOAD, 23, 16⟩
def F.FAB_LOAD.PARTIAL : Fld := ⟨R.FAB_LOAD, 1, 1⟩
def F.FAB_LOAD.START : Fld := ⟨R.FAB_LOAD, 0, 0⟩
/-- 02 T2.22. -/
def R.FAB_LOAD_STAT : Nat := 0x20010
def F.FAB_LOAD_STAT.BUSY : Fld := ⟨R.FAB_LOAD_STAT, 31, 31⟩
def F.FAB_LOAD_STAT.PHASE : Fld := ⟨R.FAB_LOAD_STAT, 27, 24⟩
def F.FAB_LOAD_STAT.FAIL_SECTION : Fld := ⟨R.FAB_LOAD_STAT, 23, 16⟩
def F.FAB_LOAD_STAT.CODE : Fld := ⟨R.FAB_LOAD_STAT, 7, 0⟩
/-- 02 T2.23. -/
def R.FAB_REGION_STAT : Nat := 0x20014
def F.FAB_REGION_STAT.RELOADING : Fld := ⟨R.FAB_REGION_STAT, 23, 16⟩
def F.FAB_REGION_STAT.RELOADABLE : Fld := ⟨R.FAB_REGION_STAT, 15, 8⟩
def F.FAB_REGION_STAT.LOADED : Fld := ⟨R.FAB_REGION_STAT, 7, 0⟩
/-- 02 T2.24. -/
def R.FAB_QUIESCE_TMO : Nat := 0x20018
def F.FAB_QUIESCE_TMO.TMO_MS : Fld := ⟨R.FAB_QUIESCE_TMO, 15, 0⟩
/-- 02 T2.25. -/
def R.FAB_RETAIN_LO : Nat := 0x20020
def F.FAB_RETAIN_LO.ADDR : Fld := ⟨R.FAB_RETAIN_LO, 31, 21⟩
/-- 02 T2.26. -/
def R.FAB_RETAIN_HI : Nat := 0x20024
def F.FAB_RETAIN_HI.ADDR : Fld := ⟨R.FAB_RETAIN_HI, 7, 0⟩
/-- 02 T2.27. -/
def R.FAB_IMG_VER : Nat := 0x20028
def F.FAB_IMG_VER.VERSION : Fld := ⟨R.FAB_IMG_VER, 15, 0⟩
/-- 02 T2.28. -/
def R.FAB_IMG_BUILD_LO : Nat := 0x20030
def F.FAB_IMG_BUILD_LO.BUILD : Fld := ⟨R.FAB_IMG_BUILD_LO, 31, 0⟩
/-- 02 T2.29. -/
def R.FAB_IMG_BUILD_HI : Nat := 0x20034
def F.FAB_IMG_BUILD_HI.BUILD : Fld := ⟨R.FAB_IMG_BUILD_HI, 31, 0⟩
/-- 02 T2.30. -/
def R.FAB_COMMIT : Nat := 0x20040
def F.FAB_COMMIT.BREW : Fld := ⟨R.FAB_COMMIT, 3, 0⟩
/-- 02 T2.31. -/
def R.FAB_COMMIT_PEND : Nat := 0x20044
def F.FAB_COMMIT_PEND.PEND : Fld := ⟨R.FAB_COMMIT_PEND, 15, 0⟩
/-- 01 T1.3. -/
def R.FAB_TILE_ID (i : Nat) : Nat := 0x30000 + 0x1000 * i
def F.FAB_TILE_ID.KIND (i : Nat) : Fld := ⟨(R.FAB_TILE_ID i), 15, 8⟩
def F.FAB_TILE_ID.INDEX (i : Nat) : Fld := ⟨(R.FAB_TILE_ID i), 7, 0⟩
/-- 01 T1.4. -/
def R.FAB_TILE_STAT (i : Nat) : Nat := 0x30004 + 0x1000 * i
def F.FAB_TILE_STAT.ASSIGNED (i : Nat) : Fld := ⟨(R.FAB_TILE_STAT i), 31, 31⟩
def F.FAB_TILE_STAT.BREW (i : Nat) : Fld := ⟨(R.FAB_TILE_STAT i), 27, 24⟩
def F.FAB_TILE_STAT.DROPS (i : Nat) : Fld := ⟨(R.FAB_TILE_STAT i), 15, 0⟩
/-- 05 T5.6. -/
def R.ING_CFG (i : Nat) (j : Nat) : Nat := 0x30010 + 0x1000 * i + 0x800 * j
def F.ING_CFG.ENABLE (i : Nat) (j : Nat) : Fld := ⟨(R.ING_CFG i j), 31, 31⟩
def F.ING_CFG.SGEN_MODE (i : Nat) (j : Nat) : Fld := ⟨(R.ING_CFG i j), 30, 29⟩
def F.ING_CFG.LAT (i : Nat) (j : Nat) : Fld := ⟨(R.ING_CFG i j), 28, 27⟩
def F.ING_CFG.XSRC (i : Nat) (j : Nat) : Fld := ⟨(R.ING_CFG i j), 26, 24⟩
def F.ING_CFG.SRCSEL (i : Nat) (j : Nat) : Fld := ⟨(R.ING_CFG i j), 23, 23⟩
def F.ING_CFG.SDI_IN (i : Nat) (j : Nat) : Fld := ⟨(R.ING_CFG i j), 22, 20⟩
def F.ING_CFG.DEPTH (i : Nat) (j : Nat) : Fld := ⟨(R.ING_CFG i j), 19, 16⟩
/-- 05 T5.7. -/
def R.ING_FMT (i : Nat) (j : Nat) : Nat := 0x30014 + 0x1000 * i + 0x800 * j
def F.ING_FMT.WIDTH (i : Nat) (j : Nat) : Fld := ⟨(R.ING_FMT i j), 30, 16⟩
def F.ING_FMT.HEIGHT (i : Nat) (j : Nat) : Fld := ⟨(R.ING_FMT i j), 14, 0⟩
/-- 05 T5.7. -/
def R.ING_FILL (i : Nat) (j : Nat) : Nat := 0x30018 + 0x1000 * i + 0x800 * j
def F.ING_FILL.CODE (i : Nat) (j : Nat) : Fld := ⟨(R.ING_FILL i j), 15, 0⟩
/-- 05 T5.7. -/
def R.ING_SGEN (i : Nat) (j : Nat) : Nat := 0x3001c + 0x1000 * i + 0x800 * j
def F.ING_SGEN.CURRENT (i : Nat) (j : Nat) : Fld := ⟨(R.ING_SGEN i j), 31, 16⟩
def F.ING_SGEN.INIT (i : Nat) (j : Nat) : Fld := ⟨(R.ING_SGEN i j), 15, 0⟩
/-- 05 T5.7. -/
def R.ING_XSOFF (i : Nat) (j : Nat) : Nat := 0x30020 + 0x1000 * i + 0x800 * j
def F.ING_XSOFF.NS (i : Nat) (j : Nat) : Fld := ⟨(R.ING_XSOFF i j), 31, 0⟩
/-- 05 T5.8. -/
def R.ING_FREC_LO (i : Nat) (j : Nat) : Nat := 0x30024 + 0x1000 * i + 0x800 * j
def F.ING_FREC_LO.ADDR (i : Nat) (j : Nat) : Fld := ⟨(R.ING_FREC_LO i j), 31, 6⟩
/-- 05 T5.8. -/
def R.ING_FREC_HI (i : Nat) (j : Nat) : Nat := 0x30028 + 0x1000 * i + 0x800 * j
def F.ING_FREC_HI.ADDR (i : Nat) (j : Nat) : Fld := ⟨(R.ING_FREC_HI i j), 15, 0⟩
/-- 05 T5.8. -/
def R.ING_FREC_CTL (i : Nat) (j : Nat) : Nat := 0x3002c + 0x1000 * i + 0x800 * j
def F.ING_FREC_CTL.WIDX (i : Nat) (j : Nat) : Fld := ⟨(R.ING_FREC_CTL i j), 31, 16⟩
def F.ING_FREC_CTL.LOG2CNT (i : Nat) (j : Nat) : Fld := ⟨(R.ING_FREC_CTL i j), 4, 0⟩
/-- 05 T5.9. -/
def R.ING_FQ_LO (i : Nat) (j : Nat) : Nat := 0x30030 + 0x1000 * i + 0x800 * j
def F.ING_FQ_LO.ADDR (i : Nat) (j : Nat) : Fld := ⟨(R.ING_FQ_LO i j), 31, 16⟩
/-- 05 T5.9. -/
def R.ING_FQ_HI (i : Nat) (j : Nat) : Nat := 0x30034 + 0x1000 * i + 0x800 * j
def F.ING_FQ_HI.ADDR (i : Nat) (j : Nat) : Fld := ⟨(R.ING_FQ_HI i j), 15, 0⟩
/-- 05 T5.9. -/
def R.ING_SEQ_LO (i : Nat) (j : Nat) : Nat := 0x30038 + 0x1000 * i + 0x800 * j
def F.ING_SEQ_LO.SEQ (i : Nat) (j : Nat) : Fld := ⟨(R.ING_SEQ_LO i j), 31, 0⟩
/-- 05 T5.9. -/
def R.ING_SEQ_HI (i : Nat) (j : Nat) : Nat := 0x3003c + 0x1000 * i + 0x800 * j
def F.ING_SEQ_HI.SEQ (i : Nat) (j : Nat) : Fld := ⟨(R.ING_SEQ_HI i j), 11, 0⟩
/-- 05 T5.10. -/
def R.ING_STAT (i : Nat) (j : Nat) : Nat := 0x30040 + 0x1000 * i + 0x800 * j
def F.ING_STAT.LINES_REPLACED (i : Nat) (j : Nat) : Fld := ⟨(R.ING_STAT i j), 31, 16⟩
def F.ING_STAT.FMT_DROPS (i : Nat) (j : Nat) : Fld := ⟨(R.ING_STAT i j), 15, 8⟩
def F.ING_STAT.QUEUE_DROPS (i : Nat) (j : Nat) : Fld := ⟨(R.ING_STAT i j), 7, 0⟩
/-- 05 T5.10. -/
def R.ING_STAT2 (i : Nat) (j : Nat) : Nat := 0x30044 + 0x1000 * i + 0x800 * j
def F.ING_STAT2.COMMIT_ERR (i : Nat) (j : Nat) : Fld := ⟨(R.ING_STAT2 i j), 31, 31⟩
def F.ING_STAT2.QWAIT (i : Nat) (j : Nat) : Fld := ⟨(R.ING_STAT2 i j), 26, 24⟩
def F.ING_STAT2.SGEN_MISMATCH (i : Nat) (j : Nat) : Fld := ⟨(R.ING_STAT2 i j), 15, 0⟩
/-- 05 T5.11. -/
def R.ING_PB_LO (i : Nat) (j : Nat) : Nat := 0x30050 + 0x1000 * i + 0x800 * j
def F.ING_PB_LO.ADDR (i : Nat) (j : Nat) : Fld := ⟨(R.ING_PB_LO i j), 31, 6⟩
/-- 05 T5.11. -/
def R.ING_PB_HI (i : Nat) (j : Nat) : Nat := 0x30054 + 0x1000 * i + 0x800 * j
def F.ING_PB_HI.ADDR (i : Nat) (j : Nat) : Fld := ⟨(R.ING_PB_HI i j), 15, 0⟩
/-- 05 T5.11. -/
def R.ING_PB_CTL (i : Nat) (j : Nat) : Nat := 0x30058 + 0x1000 * i + 0x800 * j
def F.ING_PB_CTL.RIDX (i : Nat) (j : Nat) : Fld := ⟨(R.ING_PB_CTL i j), 31, 16⟩
def F.ING_PB_CTL.LOG2CNT (i : Nat) (j : Nat) : Fld := ⟨(R.ING_PB_CTL i j), 3, 0⟩
/-- 05 T5.11. -/
def R.ING_PB_WIDX (i : Nat) (j : Nat) : Nat := 0x3005c + 0x1000 * i + 0x800 * j
def F.ING_PB_WIDX.WIDX (i : Nat) (j : Nat) : Fld := ⟨(R.ING_PB_WIDX i j), 15, 0⟩
/-- 05 T5.13. -/
def R.RWC_CTRL (i : Nat) (j : Nat) : Nat := 0x34010 + 0x1000 * i + 0x800 * j
def F.RWC_CTRL.BLK_EN (i : Nat) (j : Nat) : Fld := ⟨(R.RWC_CTRL i j), 31, 31⟩
def F.RWC_CTRL.DEF_EN (i : Nat) (j : Nat) : Fld := ⟨(R.RWC_CTRL i j), 30, 30⟩
def F.RWC_CTRL.DYN_EN (i : Nat) (j : Nat) : Fld := ⟨(R.RWC_CTRL i j), 29, 29⟩
def F.RWC_CTRL.SHD_EN (i : Nat) (j : Nat) : Fld := ⟨(R.RWC_CTRL i j), 28, 28⟩
def F.RWC_CTRL.NEG_CLAMP (i : Nat) (j : Nat) : Fld := ⟨(R.RWC_CTRL i j), 27, 27⟩
/-- 05 T5.14. -/
def R.RWC_SITE_IDX (i : Nat) (j : Nat) : Nat := 0x34014 + 0x1000 * i + 0x800 * j
def F.RWC_SITE_IDX.IDX (i : Nat) (j : Nat) : Fld := ⟨(R.RWC_SITE_IDX i j), 5, 0⟩
/-- 05 T5.14. -/
def R.RWC_SITE_BLACK (i : Nat) (j : Nat) : Nat := 0x34018 + 0x1000 * i + 0x800 * j
def F.RWC_SITE_BLACK.BLACK (i : Nat) (j : Nat) : Fld := ⟨(R.RWC_SITE_BLACK i j), 19, 0⟩
/-- 05 T5.14. -/
def R.RWC_SITE_GAIN (i : Nat) (j : Nat) : Nat := 0x3401c + 0x1000 * i + 0x800 * j
def F.RWC_SITE_GAIN.GAIN (i : Nat) (j : Nat) : Fld := ⟨(R.RWC_SITE_GAIN i j), 23, 0⟩
/-- 05 T5.15. -/
def R.RWC_DEF_LO (i : Nat) (j : Nat) : Nat := 0x34020 + 0x1000 * i + 0x800 * j
def F.RWC_DEF_LO.ADDR (i : Nat) (j : Nat) : Fld := ⟨(R.RWC_DEF_LO i j), 31, 6⟩
/-- 05 T5.15. -/
def R.RWC_DEF_HI (i : Nat) (j : Nat) : Nat := 0x34024 + 0x1000 * i + 0x800 * j
def F.RWC_DEF_HI.ADDR (i : Nat) (j : Nat) : Fld := ⟨(R.RWC_DEF_HI i j), 15, 0⟩
/-- 05 T5.15. -/
def R.RWC_DEF_CNT (i : Nat) (j : Nat) : Nat := 0x34028 + 0x1000 * i + 0x800 * j
def F.RWC_DEF_CNT.COUNT (i : Nat) (j : Nat) : Fld := ⟨(R.RWC_DEF_CNT i j), 18, 0⟩
/-- 05 T5.15. -/
def R.RWC_DYN (i : Nat) (j : Nat) : Nat := 0x3402c + 0x1000 * i + 0x800 * j
def F.RWC_DYN.THR (i : Nat) (j : Nat) : Fld := ⟨(R.RWC_DYN i j), 23, 0⟩
/-- 05 T5.16. -/
def R.RWC_SHD_LO (i : Nat) (j : Nat) : Nat := 0x34030 + 0x1000 * i + 0x800 * j
def F.RWC_SHD_LO.ADDR (i : Nat) (j : Nat) : Fld := ⟨(R.RWC_SHD_LO i j), 31, 6⟩
/-- 05 T5.16. -/
def R.RWC_SHD_HI (i : Nat) (j : Nat) : Nat := 0x34034 + 0x1000 * i + 0x800 * j
def F.RWC_SHD_HI.ADDR (i : Nat) (j : Nat) : Fld := ⟨(R.RWC_SHD_HI i j), 15, 0⟩
/-- 05 T5.16. -/
def R.RWC_SHD_GEOM (i : Nat) (j : Nat) : Nat := 0x34038 + 0x1000 * i + 0x800 * j
def F.RWC_SHD_GEOM.GX (i : Nat) (j : Nat) : Fld := ⟨(R.RWC_SHD_GEOM i j), 31, 24⟩
def F.RWC_SHD_GEOM.GY (i : Nat) (j : Nat) : Fld := ⟨(R.RWC_SHD_GEOM i j), 23, 16⟩
def F.RWC_SHD_GEOM.KX (i : Nat) (j : Nat) : Fld := ⟨(R.RWC_SHD_GEOM i j), 11, 8⟩
def F.RWC_SHD_GEOM.KY (i : Nat) (j : Nat) : Fld := ⟨(R.RWC_SHD_GEOM i j), 3, 0⟩
/-- 05 T5.17. -/
def R.RWC_STAT (i : Nat) (j : Nat) : Nat := 0x3403c + 0x1000 * i + 0x800 * j
def F.RWC_STAT.STATIC (i : Nat) (j : Nat) : Fld := ⟨(R.RWC_STAT i j), 31, 16⟩
def F.RWC_STAT.DYNAMIC (i : Nat) (j : Nat) : Fld := ⟨(R.RWC_STAT i j), 15, 0⟩
/-- 07 T7.12. -/
def R.DMS_CFG (i : Nat) (j : Nat) : Nat := 0x38010 + 0x1000 * i + 0x800 * j
def F.DMS_CFG.OUT (i : Nat) (j : Nat) : Fld := ⟨(R.DMS_CFG i j), 31, 30⟩
def F.DMS_CFG.MSKIP (i : Nat) (j : Nat) : Fld := ⟨(R.DMS_CFG i j), 29, 29⟩
def F.DMS_CFG.THR (i : Nat) (j : Nat) : Fld := ⟨(R.DMS_CFG i j), 19, 16⟩
def F.DMS_CFG.ALPHA (i : Nat) (j : Nat) : Fld := ⟨(R.DMS_CFG i j), 12, 8⟩
/-- 07 T7.13. -/
def R.DMS_INFO (i : Nat) (j : Nat) : Nat := 0x38014 + 0x1000 * i + 0x800 * j
def F.DMS_INFO.PH (i : Nat) (j : Nat) : Fld := ⟨(R.DMS_INFO i j), 23, 20⟩
def F.DMS_INFO.PV (i : Nat) (j : Nat) : Fld := ⟨(R.DMS_INFO i j), 19, 16⟩
def F.DMS_INFO.PRESET (i : Nat) (j : Nat) : Fld := ⟨(R.DMS_INFO i j), 15, 8⟩
def F.DMS_INFO.GUIDE (i : Nat) (j : Nat) : Fld := ⟨(R.DMS_INFO i j), 2, 0⟩
/-- 07 T7.15. -/
def R.COL_CTRL (i : Nat) (j : Nat) : Nat := 0x3c010 + 0x1000 * i + 0x800 * j
def F.COL_CTRL.IRM_EN (i : Nat) (j : Nat) : Fld := ⟨(R.COL_CTRL i j), 31, 31⟩
def F.COL_CTRL.MATA_EN (i : Nat) (j : Nat) : Fld := ⟨(R.COL_CTRL i j), 30, 30⟩
def F.COL_CTRL.L1D_EN (i : Nat) (j : Nat) : Fld := ⟨(R.COL_CTRL i j), 29, 29⟩
def F.COL_CTRL.L3D_EN (i : Nat) (j : Nat) : Fld := ⟨(R.COL_CTRL i j), 28, 28⟩
def F.COL_CTRL.MATB_EN (i : Nat) (j : Nat) : Fld := ⟨(R.COL_CTRL i j), 27, 27⟩
def F.COL_CTRL.L1D_SHARED (i : Nat) (j : Nat) : Fld := ⟨(R.COL_CTRL i j), 9, 9⟩
def F.COL_CTRL.L3D_N (i : Nat) (j : Nat) : Fld := ⟨(R.COL_CTRL i j), 8, 8⟩
def F.COL_CTRL.SPACE (i : Nat) (j : Nat) : Fld := ⟨(R.COL_CTRL i j), 2, 0⟩
/-- 07 T7.16. -/
def R.COL_TF (i : Nat) (j : Nat) : Nat := 0x3c014 + 0x1000 * i + 0x800 * j
def F.COL_TF.TFB_DEC (i : Nat) (j : Nat) : Fld := ⟨(R.COL_TF i j), 9, 9⟩
def F.COL_TF.TFA_DEC (i : Nat) (j : Nat) : Fld := ⟨(R.COL_TF i j), 8, 8⟩
def F.COL_TF.TFB_SEL (i : Nat) (j : Nat) : Fld := ⟨(R.COL_TF i j), 7, 4⟩
def F.COL_TF.TFA_SEL (i : Nat) (j : Nat) : Fld := ⟨(R.COL_TF i j), 3, 0⟩
/-- 07 T7.17. -/
def R.COL_COEF_IDX (i : Nat) (j : Nat) : Nat := 0x3c018 + 0x1000 * i + 0x800 * j
def F.COL_COEF_IDX.IDX (i : Nat) (j : Nat) : Fld := ⟨(R.COL_COEF_IDX i j), 5, 0⟩
/-- 07 T7.17. -/
def R.COL_COEF_DATA (i : Nat) (j : Nat) : Nat := 0x3c01c + 0x1000 * i + 0x800 * j
def F.COL_COEF_DATA.COEF (i : Nat) (j : Nat) : Fld := ⟨(R.COL_COEF_DATA i j), 23, 0⟩
/-- 07 T7.19. -/
def R.COL_L1D_LO (i : Nat) (j : Nat) : Nat := 0x3c020 + 0x1000 * i + 0x800 * j
def F.COL_L1D_LO.ADDR (i : Nat) (j : Nat) : Fld := ⟨(R.COL_L1D_LO i j), 31, 6⟩
/-- 07 T7.19. -/
def R.COL_L1D_HI (i : Nat) (j : Nat) : Nat := 0x3c024 + 0x1000 * i + 0x800 * j
def F.COL_L1D_HI.ADDR (i : Nat) (j : Nat) : Fld := ⟨(R.COL_L1D_HI i j), 15, 0⟩
/-- 07 T7.19. -/
def R.COL_L3D_LO (i : Nat) (j : Nat) : Nat := 0x3c028 + 0x1000 * i + 0x800 * j
def F.COL_L3D_LO.ADDR (i : Nat) (j : Nat) : Fld := ⟨(R.COL_L3D_LO i j), 31, 6⟩
/-- 07 T7.19. -/
def R.COL_L3D_HI (i : Nat) (j : Nat) : Nat := 0x3c02c + 0x1000 * i + 0x800 * j
def F.COL_L3D_HI.ADDR (i : Nat) (j : Nat) : Fld := ⟨(R.COL_L3D_HI i j), 15, 0⟩
/-- 07 T7.20. -/
def R.COL_STAT (i : Nat) (j : Nat) : Nat := 0x3c030 + 0x1000 * i + 0x800 * j
def F.COL_STAT.NANS (i : Nat) (j : Nat) : Fld := ⟨(R.COL_STAT i j), 31, 16⟩
def F.COL_STAT.INFS (i : Nat) (j : Nat) : Fld := ⟨(R.COL_STAT i j), 15, 0⟩
/-- 10 T10.5. -/
def R.GEO_CFG (i : Nat) (j : Nat) : Nat := 0x44010 + 0x1000 * i + 0x800 * j
def F.GEO_CFG.WARP_EN (i : Nat) (j : Nat) : Fld := ⟨(R.GEO_CFG i j), 31, 31⟩
def F.GEO_CFG.EDGE (i : Nat) (j : Nat) : Fld := ⟨(R.GEO_CFG i j), 30, 30⟩
/-- 10 T10.5. -/
def R.GEO_OSIZE (i : Nat) (j : Nat) : Nat := 0x44014 + 0x1000 * i + 0x800 * j
def F.GEO_OSIZE.OW (i : Nat) (j : Nat) : Fld := ⟨(R.GEO_OSIZE i j), 30, 16⟩
def F.GEO_OSIZE.OH (i : Nat) (j : Nat) : Fld := ⟨(R.GEO_OSIZE i j), 14, 0⟩
/-- 10 T10.5. -/
def R.GEO_A (i : Nat) (j : Nat) (k : Nat) : Nat := 0x44018 + 0x1000 * i + 0x800 * j + 0x4 * k
def F.GEO_A.A (i : Nat) (j : Nat) (k : Nat) : Fld := ⟨(R.GEO_A i j k), 31, 0⟩
/-- 10 T10.4. -/
def R.GEO_WARP_LO (i : Nat) (j : Nat) : Nat := 0x44030 + 0x1000 * i + 0x800 * j
def F.GEO_WARP_LO.ADDR (i : Nat) (j : Nat) : Fld := ⟨(R.GEO_WARP_LO i j), 31, 6⟩
/-- 10 T10.4. -/
def R.GEO_WARP_HI (i : Nat) (j : Nat) : Nat := 0x44034 + 0x1000 * i + 0x800 * j
def F.GEO_WARP_HI.ADDR (i : Nat) (j : Nat) : Fld := ⟨(R.GEO_WARP_HI i j), 15, 0⟩
/-- 10 T10.4. -/
def R.GEO_WARP_GEOM (i : Nat) (j : Nat) : Nat := 0x44038 + 0x1000 * i + 0x800 * j
def F.GEO_WARP_GEOM.GX (i : Nat) (j : Nat) : Fld := ⟨(R.GEO_WARP_GEOM i j), 31, 24⟩
def F.GEO_WARP_GEOM.GY (i : Nat) (j : Nat) : Fld := ⟨(R.GEO_WARP_GEOM i j), 23, 16⟩
def F.GEO_WARP_GEOM.KX (i : Nat) (j : Nat) : Fld := ⟨(R.GEO_WARP_GEOM i j), 11, 8⟩
def F.GEO_WARP_GEOM.KY (i : Nat) (j : Nat) : Fld := ⟨(R.GEO_WARP_GEOM i j), 3, 0⟩
/-- 10 T10.4. -/
def R.GEO_FILT_LO (i : Nat) (j : Nat) : Nat := 0x4403c + 0x1000 * i + 0x800 * j
def F.GEO_FILT_LO.ADDR (i : Nat) (j : Nat) : Fld := ⟨(R.GEO_FILT_LO i j), 31, 6⟩
/-- 10 T10.4. -/
def R.GEO_FILT_HI (i : Nat) (j : Nat) : Nat := 0x44040 + 0x1000 * i + 0x800 * j
def F.GEO_FILT_HI.ADDR (i : Nat) (j : Nat) : Fld := ⟨(R.GEO_FILT_HI i j), 15, 0⟩
/-- 10 T10.5. -/
def R.GEO_FILL (i : Nat) (j : Nat) (k : Nat) : Nat := 0x44044 + 0x1000 * i + 0x800 * j + 0x4 * k
def F.GEO_FILL.FILL (i : Nat) (j : Nat) (k : Nat) : Fld := ⟨(R.GEO_FILL i j k), 23, 0⟩
/-- 10 T10.5. -/
def R.GEO_STAT (i : Nat) (j : Nat) : Nat := 0x44054 + 0x1000 * i + 0x800 * j
def F.GEO_STAT.FILLED (i : Nat) (j : Nat) : Fld := ⟨(R.GEO_STAT i j), 31, 0⟩
/-- 06 T6.3. -/
def R.STA_CFG (i : Nat) (j : Nat) : Nat := 0x4a010 + 0x1000 * i + 0x800 * j
def F.STA_CFG.FOC_EN (i : Nat) (j : Nat) : Fld := ⟨(R.STA_CFG i j), 31, 31⟩
def F.STA_CFG.AE_EN (i : Nat) (j : Nat) : Fld := ⟨(R.STA_CFG i j), 30, 30⟩
def F.STA_CFG.HIST_EN (i : Nat) (j : Nat) : Fld := ⟨(R.STA_CFG i j), 29, 29⟩
def F.STA_CFG.TAP_EN (i : Nat) (j : Nat) : Fld := ⟨(R.STA_CFG i j), 28, 28⟩
def F.STA_CFG.FCH (i : Nat) (j : Nat) : Fld := ⟨(R.STA_CFG i j), 27, 26⟩
def F.STA_CFG.SCALE (i : Nat) (j : Nat) : Fld := ⟨(R.STA_CFG i j), 20, 16⟩
def F.STA_CFG.HSHIFT (i : Nat) (j : Nat) : Fld := ⟨(R.STA_CFG i j), 11, 8⟩
/-- 06 T6.4. -/
def R.STA_FORG (i : Nat) (j : Nat) : Nat := 0x4a014 + 0x1000 * i + 0x800 * j
def F.STA_FORG.X0 (i : Nat) (j : Nat) : Fld := ⟨(R.STA_FORG i j), 31, 16⟩
def F.STA_FORG.Y0 (i : Nat) (j : Nat) : Fld := ⟨(R.STA_FORG i j), 15, 0⟩
/-- 06 T6.4. -/
def R.STA_FCELL (i : Nat) (j : Nat) : Nat := 0x4a018 + 0x1000 * i + 0x800 * j
def F.STA_FCELL.CW (i : Nat) (j : Nat) : Fld := ⟨(R.STA_FCELL i j), 31, 16⟩
def F.STA_FCELL.CH (i : Nat) (j : Nat) : Fld := ⟨(R.STA_FCELL i j), 15, 0⟩
/-- 06 T6.4. -/
def R.STA_AORG (i : Nat) (j : Nat) : Nat := 0x4a01c + 0x1000 * i + 0x800 * j
def F.STA_AORG.X0 (i : Nat) (j : Nat) : Fld := ⟨(R.STA_AORG i j), 31, 16⟩
def F.STA_AORG.Y0 (i : Nat) (j : Nat) : Fld := ⟨(R.STA_AORG i j), 15, 0⟩
/-- 06 T6.4. -/
def R.STA_ACELL (i : Nat) (j : Nat) : Nat := 0x4a020 + 0x1000 * i + 0x800 * j
def F.STA_ACELL.CW (i : Nat) (j : Nat) : Fld := ⟨(R.STA_ACELL i j), 31, 16⟩
def F.STA_ACELL.CH (i : Nat) (j : Nat) : Fld := ⟨(R.STA_ACELL i j), 15, 0⟩
/-- 06 T6.5. -/
def R.STA_GRIDN (i : Nat) (j : Nat) : Nat := 0x4a024 + 0x1000 * i + 0x800 * j
def F.STA_GRIDN.FNX (i : Nat) (j : Nat) : Fld := ⟨(R.STA_GRIDN i j), 31, 24⟩
def F.STA_GRIDN.FNY (i : Nat) (j : Nat) : Fld := ⟨(R.STA_GRIDN i j), 23, 16⟩
def F.STA_GRIDN.ANX (i : Nat) (j : Nat) : Fld := ⟨(R.STA_GRIDN i j), 15, 8⟩
def F.STA_GRIDN.ANY (i : Nat) (j : Nat) : Fld := ⟨(R.STA_GRIDN i j), 7, 0⟩
/-- 06 T6.5. -/
def R.STA_CLIP (i : Nat) (j : Nat) : Nat := 0x4a028 + 0x1000 * i + 0x800 * j
def F.STA_CLIP.CLIP (i : Nat) (j : Nat) : Fld := ⟨(R.STA_CLIP i j), 15, 0⟩
/-- 06 T6.6. -/
def R.STA_REC_LO (i : Nat) (j : Nat) : Nat := 0x4a02c + 0x1000 * i + 0x800 * j
def F.STA_REC_LO.ADDR (i : Nat) (j : Nat) : Fld := ⟨(R.STA_REC_LO i j), 31, 16⟩
/-- 06 T6.6. -/
def R.STA_REC_HI (i : Nat) (j : Nat) : Nat := 0x4a030 + 0x1000 * i + 0x800 * j
def F.STA_REC_HI.ADDR (i : Nat) (j : Nat) : Fld := ⟨(R.STA_REC_HI i j), 15, 0⟩
/-- 06 T6.6. -/
def R.STA_REC_CTL (i : Nat) (j : Nat) : Nat := 0x4a034 + 0x1000 * i + 0x800 * j
def F.STA_REC_CTL.WIDX (i : Nat) (j : Nat) : Fld := ⟨(R.STA_REC_CTL i j), 31, 16⟩
def F.STA_REC_CTL.LOG2CNT (i : Nat) (j : Nat) : Fld := ⟨(R.STA_REC_CTL i j), 3, 0⟩
/-- 06 T6.7. -/
def R.STA_TAP_LO (i : Nat) (j : Nat) : Nat := 0x4a038 + 0x1000 * i + 0x800 * j
def F.STA_TAP_LO.ADDR (i : Nat) (j : Nat) : Fld := ⟨(R.STA_TAP_LO i j), 31, 16⟩
/-- 06 T6.7. -/
def R.STA_TAP_HI (i : Nat) (j : Nat) : Nat := 0x4a03c + 0x1000 * i + 0x800 * j
def F.STA_TAP_HI.ADDR (i : Nat) (j : Nat) : Fld := ⟨(R.STA_TAP_HI i j), 15, 0⟩
/-- 06 T6.7. -/
def R.STA_TAP_SLOT (i : Nat) (j : Nat) : Nat := 0x4a040 + 0x1000 * i + 0x800 * j
def F.STA_TAP_SLOT.SIZE (i : Nat) (j : Nat) : Fld := ⟨(R.STA_TAP_SLOT i j), 15, 0⟩
/-- 06 T6.8. -/
def R.STA_TAP_CTL (i : Nat) (j : Nat) : Nat := 0x4a044 + 0x1000 * i + 0x800 * j
def F.STA_TAP_CTL.ENC (i : Nat) (j : Nat) : Fld := ⟨(R.STA_TAP_CTL i j), 31, 30⟩
def F.STA_TAP_CTL.COUNT (i : Nat) (j : Nat) : Fld := ⟨(R.STA_TAP_CTL i j), 19, 16⟩
def F.STA_TAP_CTL.DECIM (i : Nat) (j : Nat) : Fld := ⟨(R.STA_TAP_CTL i j), 11, 8⟩
def F.STA_TAP_CTL.WIDX (i : Nat) (j : Nat) : Fld := ⟨(R.STA_TAP_CTL i j), 3, 0⟩
/-- 06 T6.9. -/
def R.STA_STAT (i : Nat) (j : Nat) : Nat := 0x4a048 + 0x1000 * i + 0x800 * j
def F.STA_STAT.INVALID (i : Nat) (j : Nat) : Fld := ⟨(R.STA_STAT i j), 31, 16⟩
def F.STA_STAT.TAP_DROPS (i : Nat) (j : Nat) : Fld := ⟨(R.STA_STAT i j), 15, 0⟩
/-- 08 T8.5. -/
def R.SYN_CFG (i : Nat) (j : Nat) : Nat := 0x4e010 + 0x1000 * i + 0x800 * j
def F.SYN_CFG.SHD_EN (i : Nat) (j : Nat) : Fld := ⟨(R.SYN_CFG i j), 31, 31⟩
def F.SYN_CFG.CODE_EN (i : Nat) (j : Nat) : Fld := ⟨(R.SYN_CFG i j), 30, 30⟩
def F.SYN_CFG.NOISE_EN (i : Nat) (j : Nat) : Fld := ⟨(R.SYN_CFG i j), 29, 29⟩
def F.SYN_CFG.DEF_EN (i : Nat) (j : Nat) : Fld := ⟨(R.SYN_CFG i j), 28, 28⟩
def F.SYN_CFG.QUANT (i : Nat) (j : Nat) : Fld := ⟨(R.SYN_CFG i j), 27, 27⟩
def F.SYN_CFG.KEYTAG (i : Nat) (j : Nat) : Fld := ⟨(R.SYN_CFG i j), 26, 26⟩
def F.SYN_CFG.DEPTH (i : Nat) (j : Nat) : Fld := ⟨(R.SYN_CFG i j), 19, 16⟩
/-- 08 T8.4. -/
def R.SYN_SITE_IDX (i : Nat) (j : Nat) : Nat := 0x4e014 + 0x1000 * i + 0x800 * j
def F.SYN_SITE_IDX.IDX (i : Nat) (j : Nat) : Fld := ⟨(R.SYN_SITE_IDX i j), 5, 0⟩
/-- 08 T8.4. -/
def R.SYN_SITE_BLACK (i : Nat) (j : Nat) : Nat := 0x4e018 + 0x1000 * i + 0x800 * j
def F.SYN_SITE_BLACK.BLACK (i : Nat) (j : Nat) : Fld := ⟨(R.SYN_SITE_BLACK i j), 19, 0⟩
/-- 08 T8.4. -/
def R.SYN_SITE_GAIN (i : Nat) (j : Nat) : Nat := 0x4e01c + 0x1000 * i + 0x800 * j
def F.SYN_SITE_GAIN.GAIN (i : Nat) (j : Nat) : Fld := ⟨(R.SYN_SITE_GAIN i j), 23, 0⟩
/-- 08 T8.6. -/
def R.SYN_COEF_IDX (i : Nat) (j : Nat) : Nat := 0x4e020 + 0x1000 * i + 0x800 * j
def F.SYN_COEF_IDX.IDX (i : Nat) (j : Nat) : Fld := ⟨(R.SYN_COEF_IDX i j), 3, 0⟩
/-- 08 T8.6. -/
def R.SYN_COEF_DATA (i : Nat) (j : Nat) : Nat := 0x4e024 + 0x1000 * i + 0x800 * j
def F.SYN_COEF_DATA.COEF (i : Nat) (j : Nat) : Fld := ⟨(R.SYN_COEF_DATA i j), 23, 0⟩
/-- 08 T8.7. -/
def R.SYN_SEED_LO (i : Nat) (j : Nat) : Nat := 0x4e028 + 0x1000 * i + 0x800 * j
def F.SYN_SEED_LO.SEED (i : Nat) (j : Nat) : Fld := ⟨(R.SYN_SEED_LO i j), 31, 0⟩
/-- 08 T8.7. -/
def R.SYN_SEED_HI (i : Nat) (j : Nat) : Nat := 0x4e02c + 0x1000 * i + 0x800 * j
def F.SYN_SEED_HI.SEED (i : Nat) (j : Nat) : Fld := ⟨(R.SYN_SEED_HI i j), 31, 0⟩
/-- 08 T8.4. -/
def R.SYN_SHD_LO (i : Nat) (j : Nat) : Nat := 0x4e030 + 0x1000 * i + 0x800 * j
def F.SYN_SHD_LO.ADDR (i : Nat) (j : Nat) : Fld := ⟨(R.SYN_SHD_LO i j), 31, 6⟩
/-- 08 T8.4. -/
def R.SYN_SHD_HI (i : Nat) (j : Nat) : Nat := 0x4e034 + 0x1000 * i + 0x800 * j
def F.SYN_SHD_HI.ADDR (i : Nat) (j : Nat) : Fld := ⟨(R.SYN_SHD_HI i j), 15, 0⟩
/-- 08 T8.4. -/
def R.SYN_SHD_GEOM (i : Nat) (j : Nat) : Nat := 0x4e038 + 0x1000 * i + 0x800 * j
def F.SYN_SHD_GEOM.GX (i : Nat) (j : Nat) : Fld := ⟨(R.SYN_SHD_GEOM i j), 31, 24⟩
def F.SYN_SHD_GEOM.GY (i : Nat) (j : Nat) : Fld := ⟨(R.SYN_SHD_GEOM i j), 23, 16⟩
def F.SYN_SHD_GEOM.KX (i : Nat) (j : Nat) : Fld := ⟨(R.SYN_SHD_GEOM i j), 11, 8⟩
def F.SYN_SHD_GEOM.KY (i : Nat) (j : Nat) : Fld := ⟨(R.SYN_SHD_GEOM i j), 3, 0⟩
/-- 08 T8.7. -/
def R.SYN_DEF_LO (i : Nat) (j : Nat) : Nat := 0x4e03c + 0x1000 * i + 0x800 * j
def F.SYN_DEF_LO.ADDR (i : Nat) (j : Nat) : Fld := ⟨(R.SYN_DEF_LO i j), 31, 6⟩
/-- 08 T8.7. -/
def R.SYN_DEF_HI (i : Nat) (j : Nat) : Nat := 0x4e040 + 0x1000 * i + 0x800 * j
def F.SYN_DEF_HI.ADDR (i : Nat) (j : Nat) : Fld := ⟨(R.SYN_DEF_HI i j), 15, 0⟩
/-- 08 T8.7. -/
def R.SYN_DEF_CNT (i : Nat) (j : Nat) : Nat := 0x4e044 + 0x1000 * i + 0x800 * j
def F.SYN_DEF_CNT.COUNT (i : Nat) (j : Nat) : Fld := ⟨(R.SYN_DEF_CNT i j), 18, 0⟩
/-- 08 T8.8. -/
def R.SYN_XGW (i : Nat) (j : Nat) : Nat := 0x4e048 + 0x1000 * i + 0x800 * j
def F.SYN_XGW.EN (i : Nat) (j : Nat) : Fld := ⟨(R.SYN_XGW i j), 31, 31⟩
def F.SYN_XGW.PORT (i : Nat) (j : Nat) : Fld := ⟨(R.SYN_XGW i j), 30, 29⟩
def F.SYN_XGW.LAT (i : Nat) (j : Nat) : Fld := ⟨(R.SYN_XGW i j), 28, 27⟩
def F.SYN_XGW.FRAC (i : Nat) (j : Nat) : Fld := ⟨(R.SYN_XGW i j), 20, 16⟩
def F.SYN_XGW.ADDR (i : Nat) (j : Nat) : Fld := ⟨(R.SYN_XGW i j), 15, 0⟩
/-- 08 T8.8. -/
def R.SYN_STAT (i : Nat) (j : Nat) : Nat := 0x4e04c + 0x1000 * i + 0x800 * j
def F.SYN_STAT.CLIPS (i : Nat) (j : Nat) : Fld := ⟨(R.SYN_STAT i j), 31, 16⟩
def F.SYN_STAT.DEFECTS (i : Nat) (j : Nat) : Fld := ⟨(R.SYN_STAT i j), 15, 0⟩
/-- 08 T8.10. -/
def R.PAT_CFG (i : Nat) (j : Nat) : Nat := 0x52010 + 0x1000 * i + 0x800 * j
def F.PAT_CFG.RUN (i : Nat) (j : Nat) : Fld := ⟨(R.PAT_CFG i j), 31, 31⟩
def F.PAT_CFG.TBASE (i : Nat) (j : Nat) : Fld := ⟨(R.PAT_CFG i j), 30, 29⟩
def F.PAT_CFG.COMPS (i : Nat) (j : Nat) : Fld := ⟨(R.PAT_CFG i j), 28, 27⟩
def F.PAT_CFG.PORT (i : Nat) (j : Nat) : Fld := ⟨(R.PAT_CFG i j), 26, 26⟩
def F.PAT_CFG.TRIG (i : Nat) (j : Nat) : Fld := ⟨(R.PAT_CFG i j), 19, 16⟩
/-- 08 T8.11. -/
def R.PAT_SIZE (i : Nat) (j : Nat) : Nat := 0x52014 + 0x1000 * i + 0x800 * j
def F.PAT_SIZE.WIDTH (i : Nat) (j : Nat) : Fld := ⟨(R.PAT_SIZE i j), 30, 16⟩
def F.PAT_SIZE.HEIGHT (i : Nat) (j : Nat) : Fld := ⟨(R.PAT_SIZE i j), 14, 0⟩
/-- 08 T8.11. -/
def R.PAT_PERIOD (i : Nat) (j : Nat) : Nat := 0x52018 + 0x1000 * i + 0x800 * j
def F.PAT_PERIOD.TICKS (i : Nat) (j : Nat) : Fld := ⟨(R.PAT_PERIOD i j), 31, 0⟩
/-- 08 T8.9. -/
def R.PAT_PROG_LO (i : Nat) (j : Nat) : Nat := 0x5201c + 0x1000 * i + 0x800 * j
def F.PAT_PROG_LO.ADDR (i : Nat) (j : Nat) : Fld := ⟨(R.PAT_PROG_LO i j), 31, 6⟩
/-- 08 T8.9. -/
def R.PAT_PROG_HI (i : Nat) (j : Nat) : Nat := 0x52020 + 0x1000 * i + 0x800 * j
def F.PAT_PROG_HI.ADDR (i : Nat) (j : Nat) : Fld := ⟨(R.PAT_PROG_HI i j), 15, 0⟩
/-- 08 T8.11. -/
def R.PAT_PROG_CNT (i : Nat) (j : Nat) : Nat := 0x52024 + 0x1000 * i + 0x800 * j
def F.PAT_PROG_CNT.COUNT (i : Nat) (j : Nat) : Fld := ⟨(R.PAT_PROG_CNT i j), 8, 0⟩
/-- 08 T8.11. -/
def R.PAT_SGEN (i : Nat) (j : Nat) : Nat := 0x52028 + 0x1000 * i + 0x800 * j
def F.PAT_SGEN.SGEN (i : Nat) (j : Nat) : Fld := ⟨(R.PAT_SGEN i j), 15, 0⟩
/-- 08 T8.11. -/
def R.PAT_SEED_LO (i : Nat) (j : Nat) : Nat := 0x5202c + 0x1000 * i + 0x800 * j
def F.PAT_SEED_LO.SEED (i : Nat) (j : Nat) : Fld := ⟨(R.PAT_SEED_LO i j), 31, 0⟩
/-- 08 T8.11. -/
def R.PAT_SEED_HI (i : Nat) (j : Nat) : Nat := 0x52030 + 0x1000 * i + 0x800 * j
def F.PAT_SEED_HI.SEED (i : Nat) (j : Nat) : Fld := ⟨(R.PAT_SEED_HI i j), 31, 0⟩
/-- 08 T8.9. -/
def R.PAT_FREC_LO (i : Nat) (j : Nat) : Nat := 0x52034 + 0x1000 * i + 0x800 * j
def F.PAT_FREC_LO.ADDR (i : Nat) (j : Nat) : Fld := ⟨(R.PAT_FREC_LO i j), 31, 6⟩
/-- 08 T8.9. -/
def R.PAT_FREC_HI (i : Nat) (j : Nat) : Nat := 0x52038 + 0x1000 * i + 0x800 * j
def F.PAT_FREC_HI.ADDR (i : Nat) (j : Nat) : Fld := ⟨(R.PAT_FREC_HI i j), 15, 0⟩
/-- 08 T8.9. -/
def R.PAT_FREC_CTL (i : Nat) (j : Nat) : Nat := 0x5203c + 0x1000 * i + 0x800 * j
def F.PAT_FREC_CTL.WIDX (i : Nat) (j : Nat) : Fld := ⟨(R.PAT_FREC_CTL i j), 31, 16⟩
def F.PAT_FREC_CTL.LOG2CNT (i : Nat) (j : Nat) : Fld := ⟨(R.PAT_FREC_CTL i j), 4, 0⟩
/-- 08 T8.9. -/
def R.PAT_SEQ_LO (i : Nat) (j : Nat) : Nat := 0x52040 + 0x1000 * i + 0x800 * j
def F.PAT_SEQ_LO.SEQ (i : Nat) (j : Nat) : Fld := ⟨(R.PAT_SEQ_LO i j), 31, 0⟩
/-- 08 T8.9. -/
def R.PAT_SEQ_HI (i : Nat) (j : Nat) : Nat := 0x52044 + 0x1000 * i + 0x800 * j
def F.PAT_SEQ_HI.SEQ (i : Nat) (j : Nat) : Fld := ⟨(R.PAT_SEQ_HI i j), 11, 0⟩
/-- 08 T8.11. -/
def R.PAT_STAT (i : Nat) (j : Nat) : Nat := 0x52048 + 0x1000 * i + 0x800 * j
def F.PAT_STAT.COMMIT_ERR (i : Nat) (j : Nat) : Fld := ⟨(R.PAT_STAT i j), 31, 31⟩
def F.PAT_STAT.SKIPS (i : Nat) (j : Nat) : Fld := ⟨(R.PAT_STAT i j), 15, 0⟩
/-- 09 T9.4. -/
def R.ANA_CFG (i : Nat) (j : Nat) : Nat := 0x54010 + 0x1000 * i + 0x800 * j
def F.ANA_CFG.CMP_EN (i : Nat) (j : Nat) : Fld := ⟨(R.ANA_CFG i j), 31, 31⟩
def F.ANA_CFG.CRC_EN (i : Nat) (j : Nat) : Fld := ⟨(R.ANA_CFG i j), 30, 30⟩
def F.ANA_CFG.LCRC_EN (i : Nat) (j : Nat) : Fld := ⟨(R.ANA_CFG i j), 29, 29⟩
def F.ANA_CFG.HIST_EN (i : Nat) (j : Nat) : Fld := ⟨(R.ANA_CFG i j), 28, 28⟩
def F.ANA_CFG.WF_EN (i : Nat) (j : Nat) : Fld := ⟨(R.ANA_CFG i j), 27, 27⟩
def F.ANA_CFG.VS_EN (i : Nat) (j : Nat) : Fld := ⟨(R.ANA_CFG i j), 26, 26⟩
def F.ANA_CFG.PATCH_EN (i : Nat) (j : Nat) : Fld := ⟨(R.ANA_CFG i j), 25, 25⟩
def F.ANA_CFG.LEGAL_EN (i : Nat) (j : Nat) : Fld := ⟨(R.ANA_CFG i j), 24, 24⟩
def F.ANA_CFG.B_SRC (i : Nat) (j : Nat) : Fld := ⟨(R.ANA_CFG i j), 23, 23⟩
def F.ANA_CFG.CRC_ENC (i : Nat) (j : Nat) : Fld := ⟨(R.ANA_CFG i j), 22, 22⟩
def F.ANA_CFG.SCALE (i : Nat) (j : Nat) : Fld := ⟨(R.ANA_CFG i j), 20, 16⟩
def F.ANA_CFG.EMAP (i : Nat) (j : Nat) : Fld := ⟨(R.ANA_CFG i j), 12, 10⟩
/-- 09 T9.5. -/
def R.ANA_MATCH (i : Nat) (j : Nat) : Nat := 0x54014 + 0x1000 * i + 0x800 * j
def F.ANA_MATCH.MODE (i : Nat) (j : Nat) : Fld := ⟨(R.ANA_MATCH i j), 31, 30⟩
def F.ANA_MATCH.WAIT_US (i : Nat) (j : Nat) : Fld := ⟨(R.ANA_MATCH i j), 29, 16⟩
def F.ANA_MATCH.OFFSET (i : Nat) (j : Nat) : Fld := ⟨(R.ANA_MATCH i j), 15, 0⟩
/-- 09 T9.5. -/
def R.ANA_SHIFT (i : Nat) (j : Nat) : Nat := 0x54018 + 0x1000 * i + 0x800 * j
def F.ANA_SHIFT.WF_COMP (i : Nat) (j : Nat) : Fld := ⟨(R.ANA_SHIFT i j), 31, 30⟩
def F.ANA_SHIFT.HSHIFT (i : Nat) (j : Nat) : Fld := ⟨(R.ANA_SHIFT i j), 27, 24⟩
def F.ANA_SHIFT.WSHIFT (i : Nat) (j : Nat) : Fld := ⟨(R.ANA_SHIFT i j), 19, 16⟩
def F.ANA_SHIFT.VSHIFT (i : Nat) (j : Nat) : Fld := ⟨(R.ANA_SHIFT i j), 11, 8⟩
/-- 09 T9.5. -/
def R.ANA_THR (i : Nat) (j : Nat) : Nat := 0x5401c + 0x1000 * i + 0x800 * j
def F.ANA_THR.PEAK (i : Nat) (j : Nat) : Fld := ⟨(R.ANA_THR i j), 31, 16⟩
def F.ANA_THR.THR (i : Nat) (j : Nat) : Fld := ⟨(R.ANA_THR i j), 15, 0⟩
/-- 09 T9.6. -/
def R.ANA_LEGAL0 (i : Nat) (j : Nat) : Nat := 0x54020 + 0x1000 * i + 0x800 * j
def F.ANA_LEGAL0.HI (i : Nat) (j : Nat) : Fld := ⟨(R.ANA_LEGAL0 i j), 31, 16⟩
def F.ANA_LEGAL0.LO (i : Nat) (j : Nat) : Fld := ⟨(R.ANA_LEGAL0 i j), 15, 0⟩
/-- 09 T9.6. -/
def R.ANA_LEGALC (i : Nat) (j : Nat) : Nat := 0x54024 + 0x1000 * i + 0x800 * j
def F.ANA_LEGALC.HI (i : Nat) (j : Nat) : Fld := ⟨(R.ANA_LEGALC i j), 31, 16⟩
def F.ANA_LEGALC.LO (i : Nat) (j : Nat) : Fld := ⟨(R.ANA_LEGALC i j), 15, 0⟩
/-- 09 T9.6. -/
def R.ANA_EGAIN (i : Nat) (j : Nat) : Nat := 0x54028 + 0x1000 * i + 0x800 * j
def F.ANA_EGAIN.GAIN (i : Nat) (j : Nat) : Fld := ⟨(R.ANA_EGAIN i j), 23, 0⟩
/-- 09 T9.7. -/
def R.ANA_BQ_LO (i : Nat) (j : Nat) : Nat := 0x5402c + 0x1000 * i + 0x800 * j
def F.ANA_BQ_LO.ADDR (i : Nat) (j : Nat) : Fld := ⟨(R.ANA_BQ_LO i j), 31, 16⟩
/-- 09 T9.7. -/
def R.ANA_BQ_HI (i : Nat) (j : Nat) : Nat := 0x54030 + 0x1000 * i + 0x800 * j
def F.ANA_BQ_HI.ADDR (i : Nat) (j : Nat) : Fld := ⟨(R.ANA_BQ_HI i j), 15, 0⟩
/-- 09 T9.7. -/
def R.ANA_BQ_CTL (i : Nat) (j : Nat) : Nat := 0x54034 + 0x1000 * i + 0x800 * j
def F.ANA_BQ_CTL.MPORT (i : Nat) (j : Nat) : Fld := ⟨(R.ANA_BQ_CTL i j), 31, 28⟩
def F.ANA_BQ_CTL.ENC (i : Nat) (j : Nat) : Fld := ⟨(R.ANA_BQ_CTL i j), 27, 27⟩
def F.ANA_BQ_CTL.QDEPTH (i : Nat) (j : Nat) : Fld := ⟨(R.ANA_BQ_CTL i j), 25, 24⟩
def F.ANA_BQ_CTL.SLOT (i : Nat) (j : Nat) : Fld := ⟨(R.ANA_BQ_CTL i j), 15, 0⟩
/-- 09 T9.3. -/
def R.ANA_REC_LO (i : Nat) (j : Nat) : Nat := 0x54038 + 0x1000 * i + 0x800 * j
def F.ANA_REC_LO.ADDR (i : Nat) (j : Nat) : Fld := ⟨(R.ANA_REC_LO i j), 31, 16⟩
/-- 09 T9.3. -/
def R.ANA_REC_HI (i : Nat) (j : Nat) : Nat := 0x5403c + 0x1000 * i + 0x800 * j
def F.ANA_REC_HI.ADDR (i : Nat) (j : Nat) : Fld := ⟨(R.ANA_REC_HI i j), 15, 0⟩
/-- 09 T9.3. -/
def R.ANA_REC_CTL (i : Nat) (j : Nat) : Nat := 0x54040 + 0x1000 * i + 0x800 * j
def F.ANA_REC_CTL.WIDX (i : Nat) (j : Nat) : Fld := ⟨(R.ANA_REC_CTL i j), 31, 16⟩
def F.ANA_REC_CTL.LOG2CNT (i : Nat) (j : Nat) : Fld := ⟨(R.ANA_REC_CTL i j), 3, 0⟩
/-- 09 T9.7. -/
def R.ANA_LCRC_LO (i : Nat) (j : Nat) : Nat := 0x54044 + 0x1000 * i + 0x800 * j
def F.ANA_LCRC_LO.ADDR (i : Nat) (j : Nat) : Fld := ⟨(R.ANA_LCRC_LO i j), 31, 16⟩
/-- 09 T9.7. -/
def R.ANA_LCRC_HI (i : Nat) (j : Nat) : Nat := 0x54048 + 0x1000 * i + 0x800 * j
def F.ANA_LCRC_HI.ADDR (i : Nat) (j : Nat) : Fld := ⟨(R.ANA_LCRC_HI i j), 15, 0⟩
/-- 09 T9.3. -/
def R.ANA_PATCH_LO (i : Nat) (j : Nat) : Nat := 0x5404c + 0x1000 * i + 0x800 * j
def F.ANA_PATCH_LO.ADDR (i : Nat) (j : Nat) : Fld := ⟨(R.ANA_PATCH_LO i j), 31, 6⟩
/-- 09 T9.3. -/
def R.ANA_PATCH_HI (i : Nat) (j : Nat) : Nat := 0x54050 + 0x1000 * i + 0x800 * j
def F.ANA_PATCH_HI.ADDR (i : Nat) (j : Nat) : Fld := ⟨(R.ANA_PATCH_HI i j), 15, 0⟩
/-- 09 T9.8. -/
def R.ANA_PATCH_CNT (i : Nat) (j : Nat) : Nat := 0x54054 + 0x1000 * i + 0x800 * j
def F.ANA_PATCH_CNT.COUNT (i : Nat) (j : Nat) : Fld := ⟨(R.ANA_PATCH_CNT i j), 6, 0⟩
/-- 09 T9.3. -/
def R.ANA_REF_LO (i : Nat) (j : Nat) : Nat := 0x54058 + 0x1000 * i + 0x800 * j
def F.ANA_REF_LO.ADDR (i : Nat) (j : Nat) : Fld := ⟨(R.ANA_REF_LO i j), 31, 6⟩
/-- 09 T9.3. -/
def R.ANA_REF_HI (i : Nat) (j : Nat) : Nat := 0x5405c + 0x1000 * i + 0x800 * j
def F.ANA_REF_HI.ADDR (i : Nat) (j : Nat) : Fld := ⟨(R.ANA_REF_HI i j), 15, 0⟩
/-- 09 T9.8. -/
def R.ANA_REF_FMT (i : Nat) (j : Nat) : Nat := 0x54060 + 0x1000 * i + 0x800 * j
def F.ANA_REF_FMT.FORMAT (i : Nat) (j : Nat) : Fld := ⟨(R.ANA_REF_FMT i j), 31, 30⟩
def F.ANA_REF_FMT.PITCH (i : Nat) (j : Nat) : Fld := ⟨(R.ANA_REF_FMT i j), 11, 0⟩
/-- 09 T9.8. -/
def R.ANA_REF_SIZE (i : Nat) (j : Nat) : Nat := 0x54064 + 0x1000 * i + 0x800 * j
def F.ANA_REF_SIZE.WIDTH (i : Nat) (j : Nat) : Fld := ⟨(R.ANA_REF_SIZE i j), 30, 16⟩
def F.ANA_REF_SIZE.HEIGHT (i : Nat) (j : Nat) : Fld := ⟨(R.ANA_REF_SIZE i j), 14, 0⟩
/-- 09 T9.9. -/
def R.ANA_STAT (i : Nat) (j : Nat) : Nat := 0x54068 + 0x1000 * i + 0x800 * j
def F.ANA_STAT.UNMATCHED (i : Nat) (j : Nat) : Fld := ⟨(R.ANA_STAT i j), 31, 16⟩
def F.ANA_STAT.INVALID (i : Nat) (j : Nat) : Fld := ⟨(R.ANA_STAT i j), 15, 0⟩
/-- 09 T9.9. -/
def R.ANA_STAT2 (i : Nat) (j : Nat) : Nat := 0x5406c + 0x1000 * i + 0x800 * j
def F.ANA_STAT2.B_DROPS (i : Nat) (j : Nat) : Fld := ⟨(R.ANA_STAT2 i j), 31, 16⟩
def F.ANA_STAT2.B_SKIPPED (i : Nat) (j : Nat) : Fld := ⟨(R.ANA_STAT2 i j), 15, 8⟩
def F.ANA_STAT2.BQWAIT (i : Nat) (j : Nat) : Fld := ⟨(R.ANA_STAT2 i j), 2, 0⟩
/-- 10 T10.6. -/
def R.CMX_CFG (i : Nat) (j : Nat) : Nat := 0x58010 + 0x1000 * i + 0x800 * j
def F.CMX_CFG.BSRC (i : Nat) (j : Nat) : Fld := ⟨(R.CMX_CFG i j), 31, 30⟩
def F.CMX_CFG.OFMT (i : Nat) (j : Nat) : Fld := ⟨(R.CMX_CFG i j), 29, 29⟩
/-- 10 T10.6. -/
def R.CMX_POS (i : Nat) (j : Nat) : Nat := 0x58014 + 0x1000 * i + 0x800 * j
def F.CMX_POS.BX (i : Nat) (j : Nat) : Fld := ⟨(R.CMX_POS i j), 31, 16⟩
def F.CMX_POS.BY (i : Nat) (j : Nat) : Fld := ⟨(R.CMX_POS i j), 15, 0⟩
/-- 10 T10.6. -/
def R.CMX_GALPHA (i : Nat) (j : Nat) : Nat := 0x58018 + 0x1000 * i + 0x800 * j
def F.CMX_GALPHA.GA (i : Nat) (j : Nat) : Fld := ⟨(R.CMX_GALPHA i j), 23, 0⟩
/-- 10 T10.6. -/
def R.CMX_OVL_LO (i : Nat) (j : Nat) : Nat := 0x5801c + 0x1000 * i + 0x800 * j
def F.CMX_OVL_LO.ADDR (i : Nat) (j : Nat) : Fld := ⟨(R.CMX_OVL_LO i j), 31, 6⟩
/-- 10 T10.6. -/
def R.CMX_OVL_HI (i : Nat) (j : Nat) : Nat := 0x58020 + 0x1000 * i + 0x800 * j
def F.CMX_OVL_HI.ADDR (i : Nat) (j : Nat) : Fld := ⟨(R.CMX_OVL_HI i j), 15, 0⟩
/-- 10 T10.6. -/
def R.CMX_OVL_FMT (i : Nat) (j : Nat) : Nat := 0x58024 + 0x1000 * i + 0x800 * j
def F.CMX_OVL_FMT.PITCH (i : Nat) (j : Nat) : Fld := ⟨(R.CMX_OVL_FMT i j), 11, 0⟩
/-- 10 T10.6. -/
def R.CMX_OVL_SIZE (i : Nat) (j : Nat) : Nat := 0x58028 + 0x1000 * i + 0x800 * j
def F.CMX_OVL_SIZE.W (i : Nat) (j : Nat) : Fld := ⟨(R.CMX_OVL_SIZE i j), 30, 16⟩
def F.CMX_OVL_SIZE.H (i : Nat) (j : Nat) : Fld := ⟨(R.CMX_OVL_SIZE i j), 14, 0⟩
/-- 10 T10.6. -/
def R.CMX_BBUF_LO (i : Nat) (j : Nat) : Nat := 0x5802c + 0x1000 * i + 0x800 * j
def F.CMX_BBUF_LO.ADDR (i : Nat) (j : Nat) : Fld := ⟨(R.CMX_BBUF_LO i j), 31, 16⟩
/-- 10 T10.6. -/
def R.CMX_BBUF_HI (i : Nat) (j : Nat) : Nat := 0x58030 + 0x1000 * i + 0x800 * j
def F.CMX_BBUF_HI.ADDR (i : Nat) (j : Nat) : Fld := ⟨(R.CMX_BBUF_HI i j), 15, 0⟩
/-- 10 T10.6. -/
def R.CMX_BBUF_CTL (i : Nat) (j : Nat) : Nat := 0x58034 + 0x1000 * i + 0x800 * j
def F.CMX_BBUF_CTL.MPORT (i : Nat) (j : Nat) : Fld := ⟨(R.CMX_BBUF_CTL i j), 31, 28⟩
def F.CMX_BBUF_CTL.SLOT (i : Nat) (j : Nat) : Fld := ⟨(R.CMX_BBUF_CTL i j), 15, 0⟩
/-- 10 T10.6. -/
def R.CMX_STAT (i : Nat) (j : Nat) : Nat := 0x58038 + 0x1000 * i + 0x800 * j
def F.CMX_STAT.B_LOST (i : Nat) (j : Nat) : Fld := ⟨(R.CMX_STAT i j), 31, 16⟩
def F.CMX_STAT.A_DROPS (i : Nat) (j : Nat) : Fld := ⟨(R.CMX_STAT i j), 15, 0⟩
/-- 10 T10.7. -/
def R.OPK_CFG (i : Nat) (j : Nat) : Nat := 0x5c010 + 0x1000 * i + 0x800 * j
def F.OPK_CFG.FMT (i : Nat) (j : Nat) : Fld := ⟨(R.OPK_CFG i j), 31, 29⟩
def F.OPK_CFG.RANGE (i : Nat) (j : Nat) : Fld := ⟨(R.OPK_CFG i j), 28, 28⟩
def F.OPK_CFG.YCC (i : Nat) (j : Nat) : Fld := ⟨(R.OPK_CFG i j), 27, 27⟩
def F.OPK_CFG.CSUB (i : Nat) (j : Nat) : Fld := ⟨(R.OPK_CFG i j), 26, 26⟩
def F.OPK_CFG.DEPTH (i : Nat) (j : Nat) : Fld := ⟨(R.OPK_CFG i j), 19, 16⟩
/-- 10 T10.7. -/
def R.OPK_BUF_LO (i : Nat) (j : Nat) : Nat := 0x5c014 + 0x1000 * i + 0x800 * j
def F.OPK_BUF_LO.ADDR (i : Nat) (j : Nat) : Fld := ⟨(R.OPK_BUF_LO i j), 31, 16⟩
/-- 10 T10.7. -/
def R.OPK_BUF_HI (i : Nat) (j : Nat) : Nat := 0x5c018 + 0x1000 * i + 0x800 * j
def F.OPK_BUF_HI.ADDR (i : Nat) (j : Nat) : Fld := ⟨(R.OPK_BUF_HI i j), 15, 0⟩
/-- 10 T10.7. -/
def R.OPK_BUF_CTL (i : Nat) (j : Nat) : Nat := 0x5c01c + 0x1000 * i + 0x800 * j
def F.OPK_BUF_CTL.COUNT (i : Nat) (j : Nat) : Fld := ⟨(R.OPK_BUF_CTL i j), 17, 16⟩
def F.OPK_BUF_CTL.SLOT (i : Nat) (j : Nat) : Fld := ⟨(R.OPK_BUF_CTL i j), 15, 0⟩
/-- 10 T10.7. -/
def R.OPK_REC_LO (i : Nat) (j : Nat) : Nat := 0x5c020 + 0x1000 * i + 0x800 * j
def F.OPK_REC_LO.ADDR (i : Nat) (j : Nat) : Fld := ⟨(R.OPK_REC_LO i j), 31, 6⟩
/-- 10 T10.7. -/
def R.OPK_REC_HI (i : Nat) (j : Nat) : Nat := 0x5c024 + 0x1000 * i + 0x800 * j
def F.OPK_REC_HI.ADDR (i : Nat) (j : Nat) : Fld := ⟨(R.OPK_REC_HI i j), 15, 0⟩
/-- 10 T10.7. -/
def R.OPK_REC_CTL (i : Nat) (j : Nat) : Nat := 0x5c028 + 0x1000 * i + 0x800 * j
def F.OPK_REC_CTL.WIDX (i : Nat) (j : Nat) : Fld := ⟨(R.OPK_REC_CTL i j), 31, 16⟩
def F.OPK_REC_CTL.LOG2CNT (i : Nat) (j : Nat) : Fld := ⟨(R.OPK_REC_CTL i j), 4, 0⟩
/-- 10 T10.7. -/
def R.OPK_STAT (i : Nat) (j : Nat) : Nat := 0x5c02c + 0x1000 * i + 0x800 * j
def F.OPK_STAT.DROPS (i : Nat) (j : Nat) : Fld := ⟨(R.OPK_STAT i j), 31, 16⟩
def F.OPK_STAT.LAST (i : Nat) (j : Nat) : Fld := ⟨(R.OPK_STAT i j), 1, 0⟩
/-- 03 T3.7. -/
def R.LNK_CTRL (i : Nat) : Nat := 0x60000 + 0x400 * i
def F.LNK_CTRL.AUTO_RETRAIN (i : Nat) : Fld := ⟨(R.LNK_CTRL i), 9, 9⟩
def F.LNK_CTRL.POLARITY (i : Nat) : Fld := ⟨(R.LNK_CTRL i), 8, 8⟩
def F.LNK_CTRL.ADAPT (i : Nat) : Fld := ⟨(R.LNK_CTRL i), 7, 6⟩
/-- 03 T3.8. -/
def R.LNK_STAT (i : Nat) : Nat := 0x60004 + 0x400 * i
def F.LNK_STAT.IN_LINK (i : Nat) : Fld := ⟨(R.LNK_STAT i), 31, 31⟩
def F.LNK_STAT.UP (i : Nat) : Fld := ⟨(R.LNK_STAT i), 30, 30⟩
def F.LNK_STAT.LOS (i : Nat) : Fld := ⟨(R.LNK_STAT i), 29, 29⟩
def F.LNK_STAT.LOL (i : Nat) : Fld := ⟨(R.LNK_STAT i), 28, 28⟩
def F.LNK_STAT.STATE (i : Nat) : Fld := ⟨(R.LNK_STAT i), 26, 24⟩
def F.LNK_STAT.BAND (i : Nat) : Fld := ⟨(R.LNK_STAT i), 18, 16⟩
def F.LNK_STAT.LOS_EVENTS (i : Nat) : Fld := ⟨(R.LNK_STAT i), 15, 8⟩
def F.LNK_STAT.LOL_EVENTS (i : Nat) : Fld := ⟨(R.LNK_STAT i), 7, 0⟩
/-- 03 T3.9. -/
def R.LNK_RATE (i : Nat) : Nat := 0x60008 + 0x400 * i
def F.LNK_RATE.SSC (i : Nat) : Fld := ⟨(R.LNK_RATE i), 16, 16⟩
def F.LNK_RATE.MBPS (i : Nat) : Fld := ⟨(R.LNK_RATE i), 15, 0⟩
/-- 03 T3.10. -/
def R.LNK_TXEQ (i : Nat) : Nat := 0x6000c + 0x400 * i
def F.LNK_TXEQ.OVERRIDE (i : Nat) : Fld := ⟨(R.LNK_TXEQ i), 31, 31⟩
def F.LNK_TXEQ.SWING (i : Nat) : Fld := ⟨(R.LNK_TXEQ i), 20, 16⟩
def F.LNK_TXEQ.POST (i : Nat) : Fld := ⟨(R.LNK_TXEQ i), 12, 8⟩
def F.LNK_TXEQ.PRE (i : Nat) : Fld := ⟨(R.LNK_TXEQ i), 3, 0⟩
/-- 03 T3.11. -/
def R.LNK_RXEQ (i : Nat) : Nat := 0x60010 + 0x400 * i
def F.LNK_RXEQ.OVERRIDE (i : Nat) : Fld := ⟨(R.LNK_RXEQ i), 31, 31⟩
def F.LNK_RXEQ.CTLE (i : Nat) : Fld := ⟨(R.LNK_RXEQ i), 19, 16⟩
def F.LNK_RXEQ.VGA (i : Nat) : Fld := ⟨(R.LNK_RXEQ i), 13, 8⟩
/-- 03 T3.12. -/
def R.LNK_DFE0 (i : Nat) : Nat := 0x60014 + 0x400 * i
def F.LNK_DFE0.TAP4 (i : Nat) : Fld := ⟨(R.LNK_DFE0 i), 31, 24⟩
def F.LNK_DFE0.TAP3 (i : Nat) : Fld := ⟨(R.LNK_DFE0 i), 23, 16⟩
def F.LNK_DFE0.TAP2 (i : Nat) : Fld := ⟨(R.LNK_DFE0 i), 15, 8⟩
def F.LNK_DFE0.TAP1 (i : Nat) : Fld := ⟨(R.LNK_DFE0 i), 7, 0⟩
/-- 03 T3.12. -/
def R.LNK_DFE1 (i : Nat) : Nat := 0x60018 + 0x400 * i
def F.LNK_DFE1.TAP8 (i : Nat) : Fld := ⟨(R.LNK_DFE1 i), 31, 24⟩
def F.LNK_DFE1.TAP7 (i : Nat) : Fld := ⟨(R.LNK_DFE1 i), 23, 16⟩
def F.LNK_DFE1.TAP6 (i : Nat) : Fld := ⟨(R.LNK_DFE1 i), 15, 8⟩
def F.LNK_DFE1.TAP5 (i : Nat) : Fld := ⟨(R.LNK_DFE1 i), 7, 0⟩
/-- 03 T3.13. -/
def R.LNK_FOM (i : Nat) : Nat := 0x6001c + 0x400 * i
def F.LNK_FOM.H (i : Nat) : Fld := ⟨(R.LNK_FOM i), 31, 24⟩
def F.LNK_FOM.W (i : Nat) : Fld := ⟨(R.LNK_FOM i), 23, 16⟩
def F.LNK_FOM.UPDATES (i : Nat) : Fld := ⟨(R.LNK_FOM i), 15, 8⟩
def F.LNK_FOM.FOM (i : Nat) : Fld := ⟨(R.LNK_FOM i), 7, 0⟩
/-- 03 T3.14. -/
def R.LNK_DET (i : Nat) : Nat := 0x60020 + 0x400 * i
def F.LNK_DET.LOL_THR (i : Nat) : Fld := ⟨(R.LNK_DET i), 31, 24⟩
def F.LNK_DET.LOS_THR (i : Nat) : Fld := ⟨(R.LNK_DET i), 23, 16⟩
def F.LNK_DET.LOL_CNT (i : Nat) : Fld := ⟨(R.LNK_DET i), 15, 12⟩
def F.LNK_DET.LOS_CNT (i : Nat) : Fld := ⟨(R.LNK_DET i), 11, 8⟩
def F.LNK_DET.HYST (i : Nat) : Fld := ⟨(R.LNK_DET i), 7, 4⟩
def F.LNK_DET.RETRAIN_MS (i : Nat) : Fld := ⟨(R.LNK_DET i), 3, 0⟩
/-- 03 T3.15. -/
def R.LNK_RECAL (i : Nat) : Nat := 0x60024 + 0x400 * i
def F.LNK_RECAL.BUSY (i : Nat) : Fld := ⟨(R.LNK_RECAL i), 31, 31⟩
def F.LNK_RECAL.RESULT (i : Nat) : Fld := ⟨(R.LNK_RECAL i), 27, 24⟩
def F.LNK_RECAL.FOM_BEFORE (i : Nat) : Fld := ⟨(R.LNK_RECAL i), 23, 16⟩
def F.LNK_RECAL.FOM_AFTER (i : Nat) : Fld := ⟨(R.LNK_RECAL i), 15, 8⟩
def F.LNK_RECAL.MODE (i : Nat) : Fld := ⟨(R.LNK_RECAL i), 1, 1⟩
def F.LNK_RECAL.START (i : Nat) : Fld := ⟨(R.LNK_RECAL i), 0, 0⟩
/-- 03 T3.16. -/
def R.LNK_SLIP (i : Nat) : Nat := 0x60028 + 0x400 * i
def F.LNK_SLIP.PENDING (i : Nat) : Fld := ⟨(R.LNK_SLIP i), 31, 31⟩
def F.LNK_SLIP.WIDTH (i : Nat) : Fld := ⟨(R.LNK_SLIP i), 20, 16⟩
def F.LNK_SLIP.OFFSET (i : Nat) : Fld := ⟨(R.LNK_SLIP i), 12, 8⟩
def F.LNK_SLIP.SLIP (i : Nat) : Fld := ⟨(R.LNK_SLIP i), 0, 0⟩
/-- 03 T3.17. -/
def R.LNK_PRBS (i : Nat) : Nat := 0x6002c + 0x400 * i
def F.LNK_PRBS.LOCKED (i : Nat) : Fld := ⟨(R.LNK_PRBS i), 31, 31⟩
def F.LNK_PRBS.PATTERN (i : Nat) : Fld := ⟨(R.LNK_PRBS i), 11, 8⟩
def F.LNK_PRBS.CHECK (i : Nat) : Fld := ⟨(R.LNK_PRBS i), 1, 1⟩
def F.LNK_PRBS.GEN (i : Nat) : Fld := ⟨(R.LNK_PRBS i), 0, 0⟩
/-- 03 T3.18. -/
def R.LNK_ERRCNT (i : Nat) : Nat := 0x60030 + 0x400 * i
def F.LNK_ERRCNT.ERRORS (i : Nat) : Fld := ⟨(R.LNK_ERRCNT i), 31, 0⟩
/-- 03 T3.19. -/
def R.LNK_REFCFG : Nat := 0x78000
def F.LNK_REFCFG.OUT_EN : Fld := ⟨R.LNK_REFCFG, 19, 16⟩
def F.LNK_REFCFG.SSC : Fld := ⟨R.LNK_REFCFG, 9, 9⟩
def F.LNK_REFCFG.FREQ : Fld := ⟨R.LNK_REFCFG, 8, 8⟩
def F.LNK_REFCFG.SRC : Fld := ⟨R.LNK_REFCFG, 0, 0⟩
/-- 03 T3.20. -/
def R.LNK_REFSTAT : Nat := 0x78004
def F.LNK_REFSTAT.IN_LOST : Fld := ⟨R.LNK_REFSTAT, 1, 1⟩
def F.LNK_REFSTAT.LOCKED : Fld := ⟨R.LNK_REFSTAT, 0, 0⟩
/-- 03 T3.21 T3.5. -/
def R.LNK_PRESET (i : Nat) (j : Nat) : Nat := 0x78100 + 0x20 * i + 0x4 * j
def F.LNK_PRESET.CTLE (i : Nat) (j : Nat) : Fld := ⟨(R.LNK_PRESET i j), 27, 24⟩
def F.LNK_PRESET.SWING (i : Nat) (j : Nat) : Fld := ⟨(R.LNK_PRESET i j), 20, 16⟩
def F.LNK_PRESET.POST (i : Nat) (j : Nat) : Fld := ⟨(R.LNK_PRESET i j), 12, 8⟩
def F.LNK_PRESET.PRE (i : Nat) (j : Nat) : Fld := ⟨(R.LNK_PRESET i j), 3, 0⟩
/-- 04 T4.10. -/
def R.SLK_RXCFG (i : Nat) : Nat := 0x80000 + 0x100 * i
def F.SLK_RXCFG.ENABLE (i : Nat) : Fld := ⟨(R.SLK_RXCFG i), 31, 31⟩
def F.SLK_RXCFG.RAW (i : Nat) : Fld := ⟨(R.SLK_RXCFG i), 30, 30⟩
def F.SLK_RXCFG.MAXVER (i : Nat) : Fld := ⟨(R.SLK_RXCFG i), 29, 28⟩
def F.SLK_RXCFG.SCP (i : Nat) : Fld := ⟨(R.SLK_RXCFG i), 26, 24⟩
def F.SLK_RXCFG.VSEL_ADDR (i : Nat) : Fld := ⟨(R.SLK_RXCFG i), 15, 0⟩
/-- 04 T4.10. -/
def R.SLK_TXCFG (i : Nat) : Nat := 0x80004 + 0x100 * i
def F.SLK_TXCFG.ENABLE (i : Nat) : Fld := ⟨(R.SLK_TXCFG i), 31, 31⟩
def F.SLK_TXCFG.RAW (i : Nat) : Fld := ⟨(R.SLK_TXCFG i), 30, 30⟩
def F.SLK_TXCFG.MAXVER (i : Nat) : Fld := ⟨(R.SLK_TXCFG i), 29, 28⟩
def F.SLK_TXCFG.SCP (i : Nat) : Fld := ⟨(R.SLK_TXCFG i), 26, 24⟩
def F.SLK_TXCFG.NEG_MS (i : Nat) : Fld := ⟨(R.SLK_TXCFG i), 23, 16⟩
def F.SLK_TXCFG.VSEL_ADDR (i : Nat) : Fld := ⟨(R.SLK_TXCFG i), 15, 0⟩
/-- 04 T4.11. -/
def R.SLK_STAT (i : Nat) : Nat := 0x80008 + 0x100 * i
def F.SLK_STAT.RX_STATE (i : Nat) : Fld := ⟨(R.SLK_STAT i), 31, 29⟩
def F.SLK_STAT.TX_STATE (i : Nat) : Fld := ⟨(R.SLK_STAT i), 28, 26⟩
def F.SLK_STAT.RX_VER (i : Nat) : Fld := ⟨(R.SLK_STAT i), 25, 24⟩
def F.SLK_STAT.TX_VER (i : Nat) : Fld := ⟨(R.SLK_STAT i), 23, 22⟩
def F.SLK_STAT.NEG_FAIL (i : Nat) : Fld := ⟨(R.SLK_STAT i), 21, 21⟩
def F.SLK_STAT.SKEW_FAIL (i : Nat) : Fld := ⟨(R.SLK_STAT i), 20, 20⟩
def F.SLK_STAT.RAW_ALIGNED (i : Nat) : Fld := ⟨(R.SLK_STAT i), 15, 0⟩
/-- 04 T4.12. -/
def R.SLK_ERR (i : Nat) : Nat := 0x8000c + 0x100 * i
def F.SLK_ERR.CRC (i : Nat) : Fld := ⟨(R.SLK_ERR i), 31, 16⟩
def F.SLK_ERR.LOST_FRAMES (i : Nat) : Fld := ⟨(R.SLK_ERR i), 15, 8⟩
def F.SLK_ERR.ALIGN_ERR (i : Nat) : Fld := ⟨(R.SLK_ERR i), 7, 0⟩
/-- 04 T4.13. -/
def R.SLK_XSCOMP (i : Nat) : Nat := 0x80010 + 0x100 * i
def F.SLK_XSCOMP.NS (i : Nat) : Fld := ⟨(R.SLK_XSCOMP i), 15, 0⟩
/-- 04 T4.14. -/
def R.SLK_SYNCCTL (i : Nat) : Nat := 0x80014 + 0x100 * i
def F.SLK_SYNCCTL.MODE (i : Nat) : Fld := ⟨(R.SLK_SYNCCTL i), 31, 30⟩
def F.SLK_SYNCCTL.POL (i : Nat) : Fld := ⟨(R.SLK_SYNCCTL i), 29, 29⟩
def F.SLK_SYNCCTL.VS_WIDTH (i : Nat) : Fld := ⟨(R.SLK_SYNCCTL i), 15, 0⟩
/-- 04 T4.15. -/
def R.SLK_HSYNC (i : Nat) : Nat := 0x80018 + 0x100 * i
def F.SLK_HSYNC.PERIOD (i : Nat) : Fld := ⟨(R.SLK_HSYNC i), 31, 16⟩
def F.SLK_HSYNC.COUNT (i : Nat) : Fld := ⟨(R.SLK_HSYNC i), 13, 0⟩
/-- 04 T4.16. -/
def R.SLK_VSCAP (i : Nat) : Nat := 0x8001c + 0x100 * i
def F.SLK_VSCAP.NS (i : Nat) : Fld := ⟨(R.SLK_VSCAP i), 31, 0⟩
/-- 08 T8.13. -/
def R.SLK_EMU (i : Nat) : Nat := 0x80020 + 0x100 * i
def F.SLK_EMU.FOLLOW (i : Nat) : Fld := ⟨(R.SLK_EMU i), 31, 31⟩
def F.SLK_EMU.PACE (i : Nat) : Fld := ⟨(R.SLK_EMU i), 30, 30⟩
def F.SLK_EMU.VS_AT_FS (i : Nat) : Fld := ⟨(R.SLK_EMU i), 29, 29⟩
def F.SLK_EMU.FCNT_EN (i : Nat) : Fld := ⟨(R.SLK_EMU i), 28, 28⟩
/-- 08 T8.13. -/
def R.SLK_EMU_LINE (i : Nat) : Nat := 0x80024 + 0x100 * i
def F.SLK_EMU_LINE.TICKS (i : Nat) : Fld := ⟨(R.SLK_EMU_LINE i), 15, 0⟩
/-- 08 T8.13. -/
def R.SLK_EMU_XS (i : Nat) : Nat := 0x80028 + 0x100 * i
def F.SLK_EMU_XS.TICKS (i : Nat) : Fld := ⟨(R.SLK_EMU_XS i), 31, 0⟩
/-- 08 T8.14. -/
def R.SLK_EMU_STAT (i : Nat) : Nat := 0x8002c + 0x100 * i
def F.SLK_EMU_STAT.MISSES (i : Nat) : Fld := ⟨(R.SLK_EMU_STAT i), 31, 16⟩
def F.SLK_EMU_STAT.LATE (i : Nat) : Fld := ⟨(R.SLK_EMU_STAT i), 15, 0⟩
/-- 08 T8.14. -/
def R.SLK_EMU_FCNT (i : Nat) : Nat := 0x80030 + 0x100 * i
def F.SLK_EMU_FCNT.PORT (i : Nat) : Fld := ⟨(R.SLK_EMU_FCNT i), 17, 16⟩
def F.SLK_EMU_FCNT.ADDR (i : Nat) : Fld := ⟨(R.SLK_EMU_FCNT i), 15, 0⟩
/-- 04 T4.18. -/
def R.SCP_CFG (i : Nat) : Nat := 0x90000 + 0x1000 * i
def F.SCP_CFG.ENABLE (i : Nat) : Fld := ⟨(R.SCP_CFG i), 31, 31⟩
def F.SCP_CFG.ROLE (i : Nat) : Fld := ⟨(R.SCP_CFG i), 30, 30⟩
def F.SCP_CFG.BUS (i : Nat) : Fld := ⟨(R.SCP_CFG i), 29, 29⟩
def F.SCP_CFG.MODE3 (i : Nat) : Fld := ⟨(R.SCP_CFG i), 28, 28⟩
def F.SCP_CFG.I2C_ADDR (i : Nat) : Fld := ⟨(R.SCP_CFG i), 22, 16⟩
def F.SCP_CFG.DIV (i : Nat) : Fld := ⟨(R.SCP_CFG i), 15, 0⟩
/-- 04 T4.19. -/
def R.SCP_FMT (i : Nat) : Nat := 0x90004 + 0x1000 * i
def F.SCP_FMT.READ_OP (i : Nat) : Fld := ⟨(R.SCP_FMT i), 31, 24⟩
def F.SCP_FMT.WRITE_OP (i : Nat) : Fld := ⟨(R.SCP_FMT i), 23, 16⟩
def F.SCP_FMT.CMD (i : Nat) : Fld := ⟨(R.SCP_FMT i), 4, 4⟩
def F.SCP_FMT.ADDR_BYTES (i : Nat) : Fld := ⟨(R.SCP_FMT i), 3, 2⟩
def F.SCP_FMT.DATA_BYTES (i : Nat) : Fld := ⟨(R.SCP_FMT i), 1, 0⟩
/-- 04 T4.20. -/
def R.SCP_CMD (i : Nat) : Nat := 0x90008 + 0x1000 * i
def F.SCP_CMD.ADDR (i : Nat) : Fld := ⟨(R.SCP_CMD i), 31, 16⟩
def F.SCP_CMD.DATA (i : Nat) : Fld := ⟨(R.SCP_CMD i), 15, 0⟩
/-- 04 T4.21. -/
def R.SCP_CMDCTL (i : Nat) : Nat := 0x9000c + 0x1000 * i
def F.SCP_CMDCTL.BUSY (i : Nat) : Fld := ⟨(R.SCP_CMDCTL i), 31, 31⟩
def F.SCP_CMDCTL.STATUS (i : Nat) : Fld := ⟨(R.SCP_CMDCTL i), 30, 28⟩
def F.SCP_CMDCTL.READ (i : Nat) : Fld := ⟨(R.SCP_CMDCTL i), 17, 17⟩
def F.SCP_CMDCTL.GO (i : Nat) : Fld := ⟨(R.SCP_CMDCTL i), 16, 16⟩
def F.SCP_CMDCTL.RDATA (i : Nat) : Fld := ⟨(R.SCP_CMDCTL i), 15, 0⟩
/-- 04 T4.22. -/
def R.SCP_BMEM_IDX (i : Nat) : Nat := 0x90010 + 0x1000 * i
def F.SCP_BMEM_IDX.IDX (i : Nat) : Fld := ⟨(R.SCP_BMEM_IDX i), 9, 0⟩
/-- 04 T4.22. -/
def R.SCP_BMEM_DATA (i : Nat) : Nat := 0x90014 + 0x1000 * i
def F.SCP_BMEM_DATA.ADDR (i : Nat) : Fld := ⟨(R.SCP_BMEM_DATA i), 31, 16⟩
def F.SCP_BMEM_DATA.DATA (i : Nat) : Fld := ⟨(R.SCP_BMEM_DATA i), 15, 0⟩
/-- 04 T4.23. -/
def R.SCP_TGT_CFG (i : Nat) : Nat := 0x90020 + 0x1000 * i
def F.SCP_TGT_CFG.SGEN_EN (i : Nat) : Fld := ⟨(R.SCP_TGT_CFG i), 31, 31⟩
def F.SCP_TGT_CFG.LINK (i : Nat) : Fld := ⟨(R.SCP_TGT_CFG i), 30, 30⟩
def F.SCP_TGT_CFG.LAT (i : Nat) : Fld := ⟨(R.SCP_TGT_CFG i), 29, 28⟩
def F.SCP_TGT_CFG.SGEN_ADDR (i : Nat) : Fld := ⟨(R.SCP_TGT_CFG i), 15, 0⟩
/-- 04 T4.24. -/
def R.SCP_TFILE_ADDR (i : Nat) : Nat := 0x90024 + 0x1000 * i
def F.SCP_TFILE_ADDR.ADDR (i : Nat) : Fld := ⟨(R.SCP_TFILE_ADDR i), 15, 0⟩
/-- 04 T4.24. -/
def R.SCP_TFILE_DATA (i : Nat) : Nat := 0x90028 + 0x1000 * i
def F.SCP_TFILE_DATA.DATA (i : Nat) : Fld := ⟨(R.SCP_TFILE_DATA i), 15, 0⟩
/-- 04 T4.24. -/
def R.SCP_TGT_STAT (i : Nat) : Nat := 0x9002c + 0x1000 * i
def F.SCP_TGT_STAT.READS (i : Nat) : Fld := ⟨(R.SCP_TGT_STAT i), 31, 16⟩
def F.SCP_TGT_STAT.WRITES (i : Nat) : Fld := ⟨(R.SCP_TGT_STAT i), 15, 0⟩
/-- 04 T4.25. -/
def R.SCP_BDESC (i : Nat) (j : Nat) : Nat := 0x90040 + 0x1000 * i + 0x10 * j
def F.SCP_BDESC.ARM (i : Nat) (j : Nat) : Fld := ⟨(R.SCP_BDESC i j), 31, 31⟩
def F.SCP_BDESC.DISARM (i : Nat) (j : Nat) : Fld := ⟨(R.SCP_BDESC i j), 30, 30⟩
def F.SCP_BDESC.STATE (i : Nat) (j : Nat) : Fld := ⟨(R.SCP_BDESC i j), 29, 27⟩
def F.SCP_BDESC.LATE (i : Nat) (j : Nat) : Fld := ⟨(R.SCP_BDESC i j), 26, 26⟩
def F.SCP_BDESC.COUNT (i : Nat) (j : Nat) : Fld := ⟨(R.SCP_BDESC i j), 25, 16⟩
def F.SCP_BDESC.START (i : Nat) (j : Nat) : Fld := ⟨(R.SCP_BDESC i j), 9, 0⟩
/-- 04 T4.26. -/
def R.SCP_BSGEN (i : Nat) (j : Nat) : Nat := 0x90044 + 0x1000 * i + 0x10 * j
def F.SCP_BSGEN.SGEN_VALID (i : Nat) (j : Nat) : Fld := ⟨(R.SCP_BSGEN i j), 31, 31⟩
def F.SCP_BSGEN.SRC (i : Nat) (j : Nat) : Fld := ⟨(R.SCP_BSGEN i j), 30, 30⟩
def F.SCP_BSGEN.TIME_HI (i : Nat) (j : Nat) : Fld := ⟨(R.SCP_BSGEN i j), 23, 16⟩
def F.SCP_BSGEN.SGEN (i : Nat) (j : Nat) : Fld := ⟨(R.SCP_BSGEN i j), 15, 0⟩
/-- 04 T4.27. -/
def R.SCP_BTIME (i : Nat) (j : Nat) : Nat := 0x90048 + 0x1000 * i + 0x10 * j
def F.SCP_BTIME.TIME (i : Nat) (j : Nat) : Fld := ⟨(R.SCP_BTIME i j), 31, 0⟩
/-- 04 T4.27. -/
def R.SCP_BPROG (i : Nat) (j : Nat) : Nat := 0x9004c + 0x1000 * i + 0x10 * j
def F.SCP_BPROG.SENT (i : Nat) (j : Nat) : Fld := ⟨(R.SCP_BPROG i j), 10, 0⟩
/-- 10 T10.8. -/
def R.SDI_GLK_CFG : Nat := 0xa0000
def F.SDI_GLK_CFG.SRC : Fld := ⟨R.SDI_GLK_CFG, 31, 30⟩
def F.SDI_GLK_CFG.IN : Fld := ⟨R.SDI_GLK_CFG, 26, 24⟩
def F.SDI_GLK_CFG.JAM : Fld := ⟨R.SDI_GLK_CFG, 16, 16⟩
/-- 10 T10.8. -/
def R.SDI_GLK_STAT : Nat := 0xa0004
def F.SDI_GLK_STAT.LOCKED : Fld := ⟨R.SDI_GLK_STAT, 31, 31⟩
def F.SDI_GLK_STAT.HOLDOVER : Fld := ⟨R.SDI_GLK_STAT, 30, 30⟩
/-- 10 T10.8. -/
def R.SDI_TCOFS : Nat := 0xa0008
def F.SDI_TCOFS.SEC : Fld := ⟨R.SDI_TCOFS, 31, 0⟩
/-- 10 T10.8. -/
def R.SDI_TG_CFG (i : Nat) : Nat := 0xa0100 + 0x10 * i
def F.SDI_TG_CFG.EN (i : Nat) : Fld := ⟨(R.SDI_TG_CFG i), 31, 31⟩
def F.SDI_TG_CFG.RATE (i : Nat) : Fld := ⟨(R.SDI_TG_CFG i), 27, 24⟩
/-- 10 T10.8. -/
def R.SDI_TG_OFFS (i : Nat) : Nat := 0xa0104 + 0x10 * i
def F.SDI_TG_OFFS.NS (i : Nat) : Fld := ⟨(R.SDI_TG_OFFS i), 31, 0⟩
/-- 10 T10.8. -/
def R.SDI_TG_STAT (i : Nat) : Nat := 0xa0108 + 0x10 * i
def F.SDI_TG_STAT.INCOMPAT (i : Nat) : Fld := ⟨(R.SDI_TG_STAT i), 31, 31⟩
def F.SDI_TG_STAT.JAMS (i : Nat) : Fld := ⟨(R.SDI_TG_STAT i), 23, 16⟩
def F.SDI_TG_STAT.PHASE (i : Nat) : Fld := ⟨(R.SDI_TG_STAT i), 15, 0⟩
/-- 10 T10.8. -/
def R.SDI_OUT_CFG (i : Nat) : Nat := 0xa1000 + 0x100 * i
def F.SDI_OUT_CFG.EN (i : Nat) : Fld := ⟨(R.SDI_OUT_CFG i), 31, 31⟩
def F.SDI_OUT_CFG.PID_OVR (i : Nat) : Fld := ⟨(R.SDI_OUT_CFG i), 30, 30⟩
def F.SDI_OUT_CFG.TG (i : Nat) : Fld := ⟨(R.SDI_OUT_CFG i), 29, 28⟩
def F.SDI_OUT_CFG.OPK (i : Nat) : Fld := ⟨(R.SDI_OUT_CFG i), 25, 24⟩
def F.SDI_OUT_CFG.MAP (i : Nat) : Fld := ⟨(R.SDI_OUT_CFG i), 16, 16⟩
/-- 10 T10.8. -/
def R.SDI_OUT_FMT (i : Nat) : Nat := 0xa1004 + 0x100 * i
def F.SDI_OUT_FMT.RASTER (i : Nat) : Fld := ⟨(R.SDI_OUT_FMT i), 31, 28⟩
def F.SDI_OUT_FMT.RATE (i : Nat) : Fld := ⟨(R.SDI_OUT_FMT i), 27, 24⟩
def F.SDI_OUT_FMT.SAMPLING (i : Nat) : Fld := ⟨(R.SDI_OUT_FMT i), 21, 20⟩
def F.SDI_OUT_FMT.RGB (i : Nat) : Fld := ⟨(R.SDI_OUT_FMT i), 19, 19⟩
/-- 10 T10.8. -/
def R.SDI_OUT_PIDV (i : Nat) : Nat := 0xa1008 + 0x100 * i
def F.SDI_OUT_PIDV.PID (i : Nat) : Fld := ⟨(R.SDI_OUT_PIDV i), 31, 0⟩
/-- 10 T10.8. -/
def R.SDI_OUT_TC (i : Nat) : Nat := 0xa100c + 0x100 * i
def F.SDI_OUT_TC.SRC (i : Nat) : Fld := ⟨(R.SDI_OUT_TC i), 31, 30⟩
def F.SDI_OUT_TC.DF (i : Nat) : Fld := ⟨(R.SDI_OUT_TC i), 29, 29⟩
def F.SDI_OUT_TC.IN (i : Nat) : Fld := ⟨(R.SDI_OUT_TC i), 26, 24⟩
/-- 10 T10.8. -/
def R.SDI_OUT_TCVAL (i : Nat) : Nat := 0xa1010 + 0x100 * i
def F.SDI_OUT_TCVAL.BCD (i : Nat) : Fld := ⟨(R.SDI_OUT_TCVAL i), 31, 0⟩
/-- 10 T10.8. -/
def R.SDI_OUT_AUD (i : Nat) : Nat := 0xa1014 + 0x100 * i
def F.SDI_OUT_AUD.GRP_EN (i : Nat) : Fld := ⟨(R.SDI_OUT_AUD i), 31, 28⟩
def F.SDI_OUT_AUD.STREAM (i : Nat) : Fld := ⟨(R.SDI_OUT_AUD i), 15, 0⟩
/-- 10 T10.8. -/
def R.SDI_OUT_STAT (i : Nat) : Nat := 0xa1018 + 0x100 * i
def F.SDI_OUT_STAT.REPEATS (i : Nat) : Fld := ⟨(R.SDI_OUT_STAT i), 31, 16⟩
def F.SDI_OUT_STAT.UNDERRUNS (i : Nat) : Fld := ⟨(R.SDI_OUT_STAT i), 15, 8⟩
def F.SDI_OUT_STAT.SKIPS (i : Nat) : Fld := ⟨(R.SDI_OUT_STAT i), 7, 4⟩
def F.SDI_OUT_STAT.FMT_ERR (i : Nat) : Fld := ⟨(R.SDI_OUT_STAT i), 3, 3⟩
/-- 10 T10.8. -/
def R.SDI_OUT_AUDSTAT (i : Nat) : Nat := 0xa101c + 0x100 * i
def F.SDI_OUT_AUDSTAT.AUD_SLIPS (i : Nat) : Fld := ⟨(R.SDI_OUT_AUDSTAT i), 15, 0⟩
/-- 10 T10.8. -/
def R.SDI_IN_CFG (i : Nat) : Nat := 0xa3000 + 0x100 * i
def F.SDI_IN_CFG.EN (i : Nat) : Fld := ⟨(R.SDI_IN_CFG i), 31, 31⟩
/-- 10 T10.8. -/
def R.SDI_IN_STAT (i : Nat) : Nat := 0xa3004 + 0x100 * i
def F.SDI_IN_STAT.LOCKED (i : Nat) : Fld := ⟨(R.SDI_IN_STAT i), 31, 31⟩
def F.SDI_IN_STAT.LEVELB (i : Nat) : Fld := ⟨(R.SDI_IN_STAT i), 30, 30⟩
def F.SDI_IN_STAT.RASTER (i : Nat) : Fld := ⟨(R.SDI_IN_STAT i), 27, 24⟩
def F.SDI_IN_STAT.RATE (i : Nat) : Fld := ⟨(R.SDI_IN_STAT i), 23, 20⟩
def F.SDI_IN_STAT.SAMPLING (i : Nat) : Fld := ⟨(R.SDI_IN_STAT i), 17, 16⟩
def F.SDI_IN_STAT.LINKS (i : Nat) : Fld := ⟨(R.SDI_IN_STAT i), 2, 0⟩
/-- 10 T10.8. -/
def R.SDI_IN_ERR (i : Nat) : Nat := 0xa3008 + 0x100 * i
def F.SDI_IN_ERR.CRC_LINES (i : Nat) : Fld := ⟨(R.SDI_IN_ERR i), 31, 16⟩
def F.SDI_IN_ERR.TRS (i : Nat) : Fld := ⟨(R.SDI_IN_ERR i), 15, 8⟩
def F.SDI_IN_ERR.ALIGN (i : Nat) : Fld := ⟨(R.SDI_IN_ERR i), 7, 0⟩
/-- 11 T11.10. -/
def R.VCE_CFG : Nat := 0xb0000
def F.VCE_CFG.EN : Fld := ⟨R.VCE_CFG, 31, 31⟩
def F.VCE_CFG.ENC_PIX : Fld := ⟨R.VCE_CFG, 27, 24⟩
def F.VCE_CFG.ENT_MODE : Fld := ⟨R.VCE_CFG, 17, 16⟩
/-- 11 T11.11. -/
def R.VCE_STAT : Nat := 0xb0004
def F.VCE_STAT.OPEN : Fld := ⟨R.VCE_STAT, 29, 24⟩
def F.VCE_STAT.PIX_BUSY : Fld := ⟨R.VCE_STAT, 13, 8⟩
def F.VCE_STAT.ENT_BUSY : Fld := ⟨R.VCE_STAT, 1, 0⟩
/-- 11 T11.13. -/
def R.VCE_CTX_DESC_LO (i : Nat) : Nat := 0xb1000 + 0x40 * i
def F.VCE_CTX_DESC_LO.ADDR (i : Nat) : Fld := ⟨(R.VCE_CTX_DESC_LO i), 31, 6⟩
/-- 11 T11.13. -/
def R.VCE_CTX_DESC_HI (i : Nat) : Nat := 0xb1004 + 0x40 * i
def F.VCE_CTX_DESC_HI.ADDR (i : Nat) : Fld := ⟨(R.VCE_CTX_DESC_HI i), 15, 0⟩
/-- 11 T11.13. -/
def R.VCE_CTX_SAVE_LO (i : Nat) : Nat := 0xb1008 + 0x40 * i
def F.VCE_CTX_SAVE_LO.ADDR (i : Nat) : Fld := ⟨(R.VCE_CTX_SAVE_LO i), 31, 17⟩
/-- 11 T11.13. -/
def R.VCE_CTX_SAVE_HI (i : Nat) : Nat := 0xb100c + 0x40 * i
def F.VCE_CTX_SAVE_HI.ADDR (i : Nat) : Fld := ⟨(R.VCE_CTX_SAVE_HI i), 15, 0⟩
/-- 11 T11.14. -/
def R.VCE_CTX_CTRL (i : Nat) : Nat := 0xb1010 + 0x40 * i
def F.VCE_CTX_CTRL.OPEN (i : Nat) : Fld := ⟨(R.VCE_CTX_CTRL i), 31, 31⟩
def F.VCE_CTX_CTRL.CLOSE (i : Nat) : Fld := ⟨(R.VCE_CTX_CTRL i), 30, 30⟩
def F.VCE_CTX_CTRL.RELOAD (i : Nat) : Fld := ⟨(R.VCE_CTX_CTRL i), 29, 29⟩
def F.VCE_CTX_CTRL.FORCE_IRAP (i : Nat) : Fld := ⟨(R.VCE_CTX_CTRL i), 28, 28⟩
def F.VCE_CTX_CTRL.FLUSH (i : Nat) : Fld := ⟨(R.VCE_CTX_CTRL i), 27, 27⟩
def F.VCE_CTX_CTRL.STATE (i : Nat) : Fld := ⟨(R.VCE_CTX_CTRL i), 26, 24⟩
def F.VCE_CTX_CTRL.OPEN_ERR (i : Nat) : Fld := ⟨(R.VCE_CTX_CTRL i), 15, 8⟩
/-- 11 T11.15. -/
def R.VCE_CTX_JOB (i : Nat) : Nat := 0xb1014 + 0x40 * i
def F.VCE_CTX_JOB.RIDX (i : Nat) : Fld := ⟨(R.VCE_CTX_JOB i), 31, 16⟩
def F.VCE_CTX_JOB.WIDX (i : Nat) : Fld := ⟨(R.VCE_CTX_JOB i), 15, 0⟩
/-- 11 T11.15. -/
def R.VCE_CTX_BS_WPTR (i : Nat) : Nat := 0xb1018 + 0x40 * i
def F.VCE_CTX_BS_WPTR.OFFSET (i : Nat) : Fld := ⟨(R.VCE_CTX_BS_WPTR i), 31, 0⟩
/-- 11 T11.15. -/
def R.VCE_CTX_BS_RPTR (i : Nat) : Nat := 0xb101c + 0x40 * i
def F.VCE_CTX_BS_RPTR.OFFSET (i : Nat) : Fld := ⟨(R.VCE_CTX_BS_RPTR i), 31, 0⟩
/-- 11 T11.15. -/
def R.VCE_CTX_REP (i : Nat) : Nat := 0xb1020 + 0x40 * i
def F.VCE_CTX_REP.WIDX (i : Nat) : Fld := ⟨(R.VCE_CTX_REP i), 31, 16⟩
/-- 11 T11.15. -/
def R.VCE_CTX_OUT (i : Nat) : Nat := 0xb1024 + 0x40 * i
def F.VCE_CTX_OUT.WIDX (i : Nat) : Fld := ⟨(R.VCE_CTX_OUT i), 23, 16⟩
def F.VCE_CTX_OUT.RIDX (i : Nat) : Fld := ⟨(R.VCE_CTX_OUT i), 7, 0⟩
/-- 11 T11.16. -/
def R.VCE_CTX_STAT1 (i : Nat) : Nat := 0xb1028 + 0x40 * i
def F.VCE_CTX_STAT1.PICTURES (i : Nat) : Fld := ⟨(R.VCE_CTX_STAT1 i), 31, 16⟩
def F.VCE_CTX_STAT1.INPUT_SKIPS (i : Nat) : Fld := ⟨(R.VCE_CTX_STAT1 i), 15, 8⟩
def F.VCE_CTX_STAT1.DROPS (i : Nat) : Fld := ⟨(R.VCE_CTX_STAT1 i), 7, 0⟩
/-- 11 T11.16. -/
def R.VCE_CTX_STAT2 (i : Nat) : Nat := 0xb102c + 0x40 * i
def F.VCE_CTX_STAT2.CONCEALED (i : Nat) : Fld := ⟨(R.VCE_CTX_STAT2 i), 31, 16⟩
def F.VCE_CTX_STAT2.MISSING_REFS (i : Nat) : Fld := ⟨(R.VCE_CTX_STAT2 i), 15, 8⟩
def F.VCE_CTX_STAT2.FLOORS (i : Nat) : Fld := ⟨(R.VCE_CTX_STAT2 i), 7, 0⟩
/-- 12 T12.7. -/
def R.CMP_CFG : Nat := 0xc0000
def F.CMP_CFG.EN : Fld := ⟨R.CMP_CFG, 31, 31⟩
/-- 12 T12.7. -/
def R.CMP_STAT : Nat := 0xc0004
def F.CMP_STAT.BUSY : Fld := ⟨R.CMP_STAT, 5, 0⟩
/-- 12 T12.7. -/
def R.CMP_ABORT : Nat := 0xc0008
def F.CMP_ABORT.GO : Fld := ⟨R.CMP_ABORT, 31, 31⟩
def F.CMP_ABORT.Q : Fld := ⟨R.CMP_ABORT, 26, 24⟩
def F.CMP_ABORT.RESULT : Fld := ⟨R.CMP_ABORT, 1, 0⟩
/-- 12 T12.7. -/
def R.CMP_ABORT_ID : Nat := 0xc000c
def F.CMP_ABORT_ID.JOB_ID : Fld := ⟨R.CMP_ABORT_ID, 31, 0⟩
/-- 12 T12.7. -/
def R.CMP_Q_CTL (i : Nat) : Nat := 0xc0100 + 0x40 * i
def F.CMP_Q_CTL.EN (i : Nat) : Fld := ⟨(R.CMP_Q_CTL i), 31, 31⟩
def F.CMP_Q_CTL.PRIO (i : Nat) : Fld := ⟨(R.CMP_Q_CTL i), 29, 28⟩
def F.CMP_Q_CTL.CLIENT (i : Nat) : Fld := ⟨(R.CMP_Q_CTL i), 20, 16⟩
def F.CMP_Q_CTL.LOG2CNT (i : Nat) : Fld := ⟨(R.CMP_Q_CTL i), 3, 0⟩
/-- 12 T12.7. -/
def R.CMP_Q_SQ_LO (i : Nat) : Nat := 0xc0104 + 0x40 * i
def F.CMP_Q_SQ_LO.ADDR (i : Nat) : Fld := ⟨(R.CMP_Q_SQ_LO i), 31, 6⟩
/-- 12 T12.7. -/
def R.CMP_Q_SQ_HI (i : Nat) : Nat := 0xc0108 + 0x40 * i
def F.CMP_Q_SQ_HI.ADDR (i : Nat) : Fld := ⟨(R.CMP_Q_SQ_HI i), 15, 0⟩
/-- 12 T12.7. -/
def R.CMP_Q_CQ_LO (i : Nat) : Nat := 0xc010c + 0x40 * i
def F.CMP_Q_CQ_LO.ADDR (i : Nat) : Fld := ⟨(R.CMP_Q_CQ_LO i), 31, 6⟩
/-- 12 T12.7. -/
def R.CMP_Q_CQ_HI (i : Nat) : Nat := 0xc0110 + 0x40 * i
def F.CMP_Q_CQ_HI.ADDR (i : Nat) : Fld := ⟨(R.CMP_Q_CQ_HI i), 15, 0⟩
/-- 12 T12.7. -/
def R.CMP_Q_SQ_IDX (i : Nat) : Nat := 0xc0114 + 0x40 * i
def F.CMP_Q_SQ_IDX.RIDX (i : Nat) : Fld := ⟨(R.CMP_Q_SQ_IDX i), 31, 16⟩
def F.CMP_Q_SQ_IDX.WIDX (i : Nat) : Fld := ⟨(R.CMP_Q_SQ_IDX i), 15, 0⟩
/-- 12 T12.7. -/
def R.CMP_Q_CQ_IDX (i : Nat) : Nat := 0xc0118 + 0x40 * i
def F.CMP_Q_CQ_IDX.WIDX (i : Nat) : Fld := ⟨(R.CMP_Q_CQ_IDX i), 31, 16⟩
def F.CMP_Q_CQ_IDX.RIDX (i : Nat) : Fld := ⟨(R.CMP_Q_CQ_IDX i), 15, 0⟩
/-- 12 T12.7. -/
def R.CMP_Q_STAT (i : Nat) : Nat := 0xc011c + 0x40 * i
def F.CMP_Q_STAT.DONE (i : Nat) : Fld := ⟨(R.CMP_Q_STAT i), 31, 16⟩
def F.CMP_Q_STAT.FAILED (i : Nat) : Fld := ⟨(R.CMP_Q_STAT i), 15, 8⟩
def F.CMP_Q_STAT.ABORTED (i : Nat) : Fld := ⟨(R.CMP_Q_STAT i), 7, 0⟩
/-- 12 T12.7. -/
def R.CMP_ENG_SAVE_LO (i : Nat) : Nat := 0xc0400 + 0x20 * i
def F.CMP_ENG_SAVE_LO.ADDR (i : Nat) : Fld := ⟨(R.CMP_ENG_SAVE_LO i), 31, 19⟩
/-- 12 T12.7. -/
def R.CMP_ENG_SAVE_HI (i : Nat) : Nat := 0xc0404 + 0x20 * i
def F.CMP_ENG_SAVE_HI.ADDR (i : Nat) : Fld := ⟨(R.CMP_ENG_SAVE_HI i), 15, 0⟩
/-- 12 T12.7. -/
def R.CMP_ENG_STAT (i : Nat) : Nat := 0xc0408 + 0x20 * i
def F.CMP_ENG_STAT.STATE (i : Nat) : Fld := ⟨(R.CMP_ENG_STAT i), 26, 24⟩
def F.CMP_ENG_STAT.Q (i : Nat) : Fld := ⟨(R.CMP_ENG_STAT i), 18, 16⟩
def F.CMP_ENG_STAT.STRIPE (i : Nat) : Fld := ⟨(R.CMP_ENG_STAT i), 15, 0⟩
/-- 13 T13.6. -/
def R.DRC_CTRL (i : Nat) : Nat := 0xd0000 + 0x4000 * i
def F.DRC_CTRL.INIT (i : Nat) : Fld := ⟨(R.DRC_CTRL i), 31, 31⟩
def F.DRC_CTRL.RESUME (i : Nat) : Fld := ⟨(R.DRC_CTRL i), 30, 30⟩
def F.DRC_CTRL.RETRAIN (i : Nat) : Fld := ⟨(R.DRC_CTRL i), 29, 29⟩
def F.DRC_CTRL.FULL (i : Nat) : Fld := ⟨(R.DRC_CTRL i), 28, 28⟩
def F.DRC_CTRL.STATE (i : Nat) : Fld := ⟨(R.DRC_CTRL i), 26, 24⟩
def F.DRC_CTRL.BAND (i : Nat) : Fld := ⟨(R.DRC_CTRL i), 22, 20⟩
def F.DRC_CTRL.TRAIN_ERR (i : Nat) : Fld := ⟨(R.DRC_CTRL i), 19, 16⟩
/-- 13 T13.6. -/
def R.DRC_SR (i : Nat) : Nat := 0xd0004 + 0x4000 * i
def F.DRC_SR.EN (i : Nat) : Fld := ⟨(R.DRC_SR i), 31, 31⟩
def F.DRC_SR.IDLE_US (i : Nat) : Fld := ⟨(R.DRC_SR i), 15, 0⟩
/-- 13 T13.6. -/
def R.DRC_WQ (i : Nat) : Nat := 0xd0008 + 0x4000 * i
def F.DRC_WQ.HI (i : Nat) : Fld := ⟨(R.DRC_WQ i), 13, 8⟩
def F.DRC_WQ.LO (i : Nat) : Fld := ⟨(R.DRC_WQ i), 5, 0⟩
/-- 13 T13.6. -/
def R.DRC_ERR (i : Nat) : Nat := 0xd000c + 0x4000 * i
def F.DRC_ERR.PARITY_A (i : Nat) : Fld := ⟨(R.DRC_ERR i), 31, 24⟩
def F.DRC_ERR.PARITY_B (i : Nat) : Fld := ⟨(R.DRC_ERR i), 23, 16⟩
def F.DRC_ERR.ALERTS (i : Nat) : Fld := ⟨(R.DRC_ERR i), 15, 8⟩
def F.DRC_ERR.NOTREADY (i : Nat) : Fld := ⟨(R.DRC_ERR i), 7, 0⟩
/-- 13 T13.6. -/
def R.DRC_PERR_LO (i : Nat) : Nat := 0xd0010 + 0x4000 * i
def F.DRC_PERR_LO.ADDR (i : Nat) : Fld := ⟨(R.DRC_PERR_LO i), 31, 6⟩
/-- 13 T13.6. -/
def R.DRC_PERR_HI (i : Nat) : Nat := 0xd0014 + 0x4000 * i
def F.DRC_PERR_HI.VALID (i : Nat) : Fld := ⟨(R.DRC_PERR_HI i), 31, 31⟩
def F.DRC_PERR_HI.SUB (i : Nat) : Fld := ⟨(R.DRC_PERR_HI i), 30, 30⟩
def F.DRC_PERR_HI.FIRST_BYTE (i : Nat) : Fld := ⟨(R.DRC_PERR_HI i), 29, 24⟩
def F.DRC_PERR_HI.NBYTES (i : Nat) : Fld := ⟨(R.DRC_PERR_HI i), 22, 16⟩
def F.DRC_PERR_HI.ADDR (i : Nat) : Fld := ⟨(R.DRC_PERR_HI i), 7, 0⟩
/-- 13 T13.6. -/
def R.DRC_RTRN (i : Nat) : Nat := 0xd0018 + 0x4000 * i
def F.DRC_RTRN.SHORT (i : Nat) : Fld := ⟨(R.DRC_RTRN i), 31, 16⟩
def F.DRC_RTRN.FULL (i : Nat) : Fld := ⟨(R.DRC_RTRN i), 7, 0⟩
/-- 13 T13.7. -/
def R.DRC_MAPCTL : Nat := 0xd2000
def F.DRC_MAPCTL.APPLY : Fld := ⟨R.DRC_MAPCTL, 31, 31⟩
def F.DRC_MAPCTL.ERR : Fld := ⟨R.DRC_MAPCTL, 7, 0⟩
/-- 13 T13.7 T13.2. -/
def R.DRC_MASKLO (i : Nat) : Nat := 0xd2010 + 0x8 * i
def F.DRC_MASKLO.MASK (i : Nat) : Fld := ⟨(R.DRC_MASKLO i), 31, 0⟩
/-- 13 T13.7 T13.2. -/
def R.DRC_MASKHI (i : Nat) : Nat := 0xd2014 + 0x8 * i
def F.DRC_MASKHI.MASK (i : Nat) : Fld := ⟨(R.DRC_MASKHI i), 15, 0⟩
/-- 13 T13.7. -/
def R.DRC_HOME0 : Nat := 0xd2050
def F.DRC_HOME0.CH2 : Fld := ⟨R.DRC_HOME0, 29, 24⟩
def F.DRC_HOME0.CH1 : Fld := ⟨R.DRC_HOME0, 21, 16⟩
def F.DRC_HOME0.CH0 : Fld := ⟨R.DRC_HOME0, 13, 8⟩
def F.DRC_HOME0.SUB : Fld := ⟨R.DRC_HOME0, 5, 0⟩
/-- 13 T13.7. -/
def R.DRC_HOME1 : Nat := 0xd2054
def F.DRC_HOME1.BANK1 : Fld := ⟨R.DRC_HOME1, 29, 24⟩
def F.DRC_HOME1.BANK0 : Fld := ⟨R.DRC_HOME1, 21, 16⟩
def F.DRC_HOME1.BG1 : Fld := ⟨R.DRC_HOME1, 13, 8⟩
def F.DRC_HOME1.BG0 : Fld := ⟨R.DRC_HOME1, 5, 0⟩
/-- 13 T13.7. -/
def R.DRC_HINT (i : Nat) : Nat := 0xd2058 + 0x4 * i
def F.DRC_HINT.HINT (i : Nat) : Fld := ⟨(R.DRC_HINT i), 31, 0⟩
/-- 13 T13.7. -/
def R.DRC_PAGE : Nat := 0xd2060
def F.DRC_PAGE.AUTO_TMO : Fld := ⟨R.DRC_PAGE, 15, 0⟩
/-- 13 T13.7 T13.5. -/
def R.DRC_BAND (i : Nat) : Nat := 0xd2070 + 0x4 * i
def F.DRC_BAND.REF (i : Nat) : Fld := ⟨(R.DRC_BAND i), 31, 30⟩
def F.DRC_BAND.RON (i : Nat) : Fld := ⟨(R.DRC_BAND i), 29, 28⟩
def F.DRC_BAND.RTRN_MS (i : Nat) : Fld := ⟨(R.DRC_BAND i), 27, 16⟩
def F.DRC_BAND.RTT_WR (i : Nat) : Fld := ⟨(R.DRC_BAND i), 11, 8⟩
def F.DRC_BAND.RTT_PARK (i : Nat) : Fld := ⟨(R.DRC_BAND i), 7, 4⟩
def F.DRC_BAND.CTL_ODT (i : Nat) : Fld := ⟨(R.DRC_BAND i), 3, 0⟩
/-- 14 T14.5. -/
def R.STP_PERIOD : Nat := 0xf0000
def F.STP_PERIOD.PERIOD : Fld := ⟨R.STP_PERIOD, 15, 0⟩
/-- 14 T14.5. -/
def R.STP_COUNT : Nat := 0xf0004
def F.STP_COUNT.STEEPS : Fld := ⟨R.STP_COUNT, 31, 0⟩
/-- 14 T14.5. -/
def R.STP_POOL : Nat := 0xf0008
def F.STP_POOL.BORROWED : Fld := ⟨R.STP_POOL, 17, 0⟩
/-- 14 T14.6. -/
def R.STP_CL_CFG (i : Nat) : Nat := 0xf0100 + 0x10 * i
def F.STP_CL_CFG.CLASS (i : Nat) : Fld := ⟨(R.STP_CL_CFG i), 31, 30⟩
def F.STP_CL_CFG.ENFORCE (i : Nat) : Fld := ⟨(R.STP_CL_CFG i), 26, 24⟩
def F.STP_CL_CFG.BURSTS (i : Nat) : Fld := ⟨(R.STP_CL_CFG i), 17, 0⟩
/-- 14 T14.7. -/
def R.STP_CL_LAST (i : Nat) : Nat := 0xf0104 + 0x10 * i
def F.STP_CL_LAST.BURSTS (i : Nat) : Fld := ⟨(R.STP_CL_LAST i), 17, 0⟩
/-- 14 T14.7. -/
def R.STP_CL_PEAK (i : Nat) : Nat := 0xf0108 + 0x10 * i
def F.STP_CL_PEAK.BURSTS (i : Nat) : Fld := ⟨(R.STP_CL_PEAK i), 17, 0⟩
/-- 14 T14.7. -/
def R.STP_CL_STAT (i : Nat) : Nat := 0xf010c + 0x10 * i
def F.STP_CL_STAT.SHORT (i : Nat) : Fld := ⟨(R.STP_CL_STAT i), 31, 16⟩
def F.STP_CL_STAT.OVER (i : Nat) : Fld := ⟨(R.STP_CL_STAT i), 15, 0⟩
/-- 15 T15.6. -/
def R.CAD_AVAIL : Nat := 0x100000
def F.CAD_AVAIL.BANKS : Fld := ⟨R.CAD_AVAIL, 31, 16⟩
def F.CAD_AVAIL.SACHETS : Fld := ⟨R.CAD_AVAIL, 13, 0⟩
/-- 15 T15.6. -/
def R.CAD_FREE : Nat := 0x100004
def F.CAD_FREE.LOW : Fld := ⟨R.CAD_FREE, 29, 16⟩
def F.CAD_FREE.FREE : Fld := ⟨R.CAD_FREE, 13, 0⟩
/-- 15 T15.6. -/
def R.CAD_ERR : Nat := 0x100008
def F.CAD_ERR.PARITY : Fld := ⟨R.CAD_ERR, 15, 0⟩
/-- 15 T15.6. -/
def R.CAD_CL_CFG (i : Nat) : Nat := 0x100100 + 0x10 * i
def F.CAD_CL_CFG.RESERVE (i : Nat) : Fld := ⟨(R.CAD_CL_CFG i), 29, 16⟩
def F.CAD_CL_CFG.LIMIT (i : Nat) : Fld := ⟨(R.CAD_CL_CFG i), 13, 0⟩
/-- 15 T15.6. -/
def R.CAD_CL_SHARE (i : Nat) : Nat := 0x100104 + 0x10 * i
def F.CAD_CL_SHARE.QUOTA (i : Nat) : Fld := ⟨(R.CAD_CL_SHARE i), 29, 16⟩
def F.CAD_CL_SHARE.WEIGHT (i : Nat) : Fld := ⟨(R.CAD_CL_SHARE i), 15, 0⟩
/-- 15 T15.6. -/
def R.CAD_CL_HELD (i : Nat) : Nat := 0x100108 + 0x10 * i
def F.CAD_CL_HELD.PEAK (i : Nat) : Fld := ⟨(R.CAD_CL_HELD i), 29, 16⟩
def F.CAD_CL_HELD.HELD (i : Nat) : Fld := ⟨(R.CAD_CL_HELD i), 13, 0⟩
/-- 15 T15.6. -/
def R.CAD_CL_STAT (i : Nat) : Nat := 0x10010c + 0x10 * i
def F.CAD_CL_STAT.DENIED (i : Nat) : Fld := ⟨(R.CAD_CL_STAT i), 31, 16⟩
def F.CAD_CL_STAT.WAITING (i : Nat) : Fld := ⟨(R.CAD_CL_STAT i), 15, 0⟩
/-- 15 T15.7. -/
def R.MMU_CTL : Nat := 0x110000
def F.MMU_CTL.EN : Fld := ⟨R.MMU_CTL, 31, 31⟩
def F.MMU_CTL.FLT_TMO_MS : Fld := ⟨R.MMU_CTL, 15, 0⟩
/-- 15 T15.7. -/
def R.MMU_FAULT_PEND0 : Nat := 0x110004
def F.MMU_FAULT_PEND0.PEND : Fld := ⟨R.MMU_FAULT_PEND0, 31, 0⟩
/-- 15 T15.7. -/
def R.MMU_FAULT_PEND1 : Nat := 0x110008
def F.MMU_FAULT_PEND1.PEND : Fld := ⟨R.MMU_FAULT_PEND1, 10, 0⟩
/-- 15 T15.7. -/
def R.MMU_INV : Nat := 0x110010
def F.MMU_INV.GO : Fld := ⟨R.MMU_INV, 31, 31⟩
def F.MMU_INV.BUSY : Fld := ⟨R.MMU_INV, 30, 30⟩
def F.MMU_INV.SCOPE : Fld := ⟨R.MMU_INV, 29, 28⟩
def F.MMU_INV.SPACE : Fld := ⟨R.MMU_INV, 19, 16⟩
def F.MMU_INV.PAGES : Fld := ⟨R.MMU_INV, 15, 0⟩
/-- 15 T15.7. -/
def R.MMU_INV_VA_LO : Nat := 0x110014
def F.MMU_INV_VA_LO.VA : Fld := ⟨R.MMU_INV_VA_LO, 31, 16⟩
/-- 15 T15.7. -/
def R.MMU_INV_VA_HI : Nat := 0x110018
def F.MMU_INV_VA_HI.VA : Fld := ⟨R.MMU_INV_VA_HI, 15, 0⟩
/-- 15 T15.7. -/
def R.MMU_RESUME : Nat := 0x11001c
def F.MMU_RESUME.GO : Fld := ⟨R.MMU_RESUME, 31, 31⟩
def F.MMU_RESUME.RESULT : Fld := ⟨R.MMU_RESUME, 25, 24⟩
def F.MMU_RESUME.ACTION : Fld := ⟨R.MMU_RESUME, 8, 8⟩
def F.MMU_RESUME.UNIT : Fld := ⟨R.MMU_RESUME, 5, 0⟩
/-- 15 T15.7. -/
def R.MMU_SPACE_LO (i : Nat) : Nat := 0x110100 + 0x8 * i
def F.MMU_SPACE_LO.ADDR (i : Nat) : Fld := ⟨(R.MMU_SPACE_LO i), 31, 21⟩
/-- 15 T15.7. -/
def R.MMU_SPACE_HI (i : Nat) : Nat := 0x110104 + 0x8 * i
def F.MMU_SPACE_HI.ADDR (i : Nat) : Fld := ⟨(R.MMU_SPACE_HI i), 7, 0⟩
/-- 15 T15.7. -/
def R.MMU_UNIT_CFG (i : Nat) : Nat := 0x110200 + 0x20 * i
def F.MMU_UNIT_CFG.SPACE (i : Nat) : Fld := ⟨(R.MMU_UNIT_CFG i), 3, 0⟩
/-- 15 T15.7. -/
def R.MMU_UNIT_FLT_LO (i : Nat) : Nat := 0x110204 + 0x20 * i
def F.MMU_UNIT_FLT_LO.VA (i : Nat) : Fld := ⟨(R.MMU_UNIT_FLT_LO i), 31, 0⟩
/-- 15 T15.7. -/
def R.MMU_UNIT_FLT_HI (i : Nat) : Nat := 0x110208 + 0x20 * i
def F.MMU_UNIT_FLT_HI.VALID (i : Nat) : Fld := ⟨(R.MMU_UNIT_FLT_HI i), 31, 31⟩
def F.MMU_UNIT_FLT_HI.WRITE (i : Nat) : Fld := ⟨(R.MMU_UNIT_FLT_HI i), 30, 30⟩
def F.MMU_UNIT_FLT_HI.WITHDRAWN (i : Nat) : Fld := ⟨(R.MMU_UNIT_FLT_HI i), 29, 29⟩
def F.MMU_UNIT_FLT_HI.KIND (i : Nat) : Fld := ⟨(R.MMU_UNIT_FLT_HI i), 26, 24⟩
def F.MMU_UNIT_FLT_HI.VA (i : Nat) : Fld := ⟨(R.MMU_UNIT_FLT_HI i), 15, 0⟩
/-- 15 T15.7. -/
def R.MMU_UNIT_STAT (i : Nat) : Nat := 0x11020c + 0x20 * i
def F.MMU_UNIT_STAT.WALKS (i : Nat) : Fld := ⟨(R.MMU_UNIT_STAT i), 31, 16⟩
def F.MMU_UNIT_STAT.PMISS (i : Nat) : Fld := ⟨(R.MMU_UNIT_STAT i), 15, 8⟩
def F.MMU_UNIT_STAT.FAULTS (i : Nat) : Fld := ⟨(R.MMU_UNIT_STAT i), 7, 0⟩
/-- 15 T15.7. -/
def R.MMU_DMA_CTL (i : Nat) : Nat := 0x110800 + 0x40 * i
def F.MMU_DMA_CTL.EN (i : Nat) : Fld := ⟨(R.MMU_DMA_CTL i), 31, 31⟩
def F.MMU_DMA_CTL.CLIENT (i : Nat) : Fld := ⟨(R.MMU_DMA_CTL i), 20, 16⟩
def F.MMU_DMA_CTL.LOG2CNT (i : Nat) : Fld := ⟨(R.MMU_DMA_CTL i), 3, 0⟩
/-- 15 T15.7. -/
def R.MMU_DMA_SQ_LO (i : Nat) : Nat := 0x110804 + 0x40 * i
def F.MMU_DMA_SQ_LO.ADDR (i : Nat) : Fld := ⟨(R.MMU_DMA_SQ_LO i), 31, 6⟩
/-- 15 T15.7. -/
def R.MMU_DMA_SQ_HI (i : Nat) : Nat := 0x110808 + 0x40 * i
def F.MMU_DMA_SQ_HI.ADDR (i : Nat) : Fld := ⟨(R.MMU_DMA_SQ_HI i), 15, 0⟩
/-- 15 T15.7. -/
def R.MMU_DMA_CQ_LO (i : Nat) : Nat := 0x11080c + 0x40 * i
def F.MMU_DMA_CQ_LO.ADDR (i : Nat) : Fld := ⟨(R.MMU_DMA_CQ_LO i), 31, 6⟩
/-- 15 T15.7. -/
def R.MMU_DMA_CQ_HI (i : Nat) : Nat := 0x110810 + 0x40 * i
def F.MMU_DMA_CQ_HI.ADDR (i : Nat) : Fld := ⟨(R.MMU_DMA_CQ_HI i), 15, 0⟩
/-- 15 T15.7. -/
def R.MMU_DMA_SQ_IDX (i : Nat) : Nat := 0x110814 + 0x40 * i
def F.MMU_DMA_SQ_IDX.RIDX (i : Nat) : Fld := ⟨(R.MMU_DMA_SQ_IDX i), 31, 16⟩
def F.MMU_DMA_SQ_IDX.WIDX (i : Nat) : Fld := ⟨(R.MMU_DMA_SQ_IDX i), 15, 0⟩
/-- 15 T15.7. -/
def R.MMU_DMA_CQ_IDX (i : Nat) : Nat := 0x110818 + 0x40 * i
def F.MMU_DMA_CQ_IDX.WIDX (i : Nat) : Fld := ⟨(R.MMU_DMA_CQ_IDX i), 31, 16⟩
def F.MMU_DMA_CQ_IDX.RIDX (i : Nat) : Fld := ⟨(R.MMU_DMA_CQ_IDX i), 15, 0⟩
/-- 15 T15.7. -/
def R.MMU_DMA_STAT (i : Nat) : Nat := 0x11081c + 0x40 * i
def F.MMU_DMA_STAT.DONE (i : Nat) : Fld := ⟨(R.MMU_DMA_STAT i), 31, 16⟩
def F.MMU_DMA_STAT.FAILED (i : Nat) : Fld := ⟨(R.MMU_DMA_STAT i), 15, 8⟩
def F.MMU_DMA_STAT.ABORTED (i : Nat) : Fld := ⟨(R.MMU_DMA_STAT i), 7, 0⟩
/-- 16 T16.11. -/
def R.ETH_CFG (i : Nat) : Nat := 0x120000 + 0x1000 * i
def F.ETH_CFG.EN (i : Nat) : Fld := ⟨(R.ETH_CFG i), 31, 31⟩
def F.ETH_CFG.SPEED (i : Nat) : Fld := ⟨(R.ETH_CFG i), 30, 28⟩
def F.ETH_CFG.FEC (i : Nat) : Fld := ⟨(R.ETH_CFG i), 27, 26⟩
def F.ETH_CFG.AN (i : Nat) : Fld := ⟨(R.ETH_CFG i), 25, 25⟩
def F.ETH_CFG.MTU (i : Nat) : Fld := ⟨(R.ETH_CFG i), 13, 0⟩
/-- 16 T16.11. -/
def R.ETH_STAT (i : Nat) : Nat := 0x120004 + 0x1000 * i
def F.ETH_STAT.LINK (i : Nat) : Fld := ⟨(R.ETH_STAT i), 31, 28⟩
def F.ETH_STAT.FEC_ACT (i : Nat) : Fld := ⟨(R.ETH_STAT i), 27, 26⟩
def F.ETH_STAT.AN_FAIL (i : Nat) : Fld := ⟨(R.ETH_STAT i), 25, 25⟩
/-- 16 T16.11. -/
def R.ETH_MAC_LO (i : Nat) : Nat := 0x120008 + 0x1000 * i
def F.ETH_MAC_LO.ADDR (i : Nat) : Fld := ⟨(R.ETH_MAC_LO i), 31, 0⟩
/-- 16 T16.11. -/
def R.ETH_MAC_HI (i : Nat) : Nat := 0x12000c + 0x1000 * i
def F.ETH_MAC_HI.ADDR (i : Nat) : Fld := ⟨(R.ETH_MAC_HI i), 15, 0⟩
/-- 16 T16.11. -/
def R.ETH_SP_IP (i : Nat) (j : Nat) : Nat := 0x120010 + 0x1000 * i + 0x10 * j
def F.ETH_SP_IP.ADDR (i : Nat) (j : Nat) : Fld := ⟨(R.ETH_SP_IP i j), 31, 0⟩
/-- 16 T16.11. -/
def R.ETH_SP_MASK (i : Nat) (j : Nat) : Nat := 0x120014 + 0x1000 * i + 0x10 * j
def F.ETH_SP_MASK.MASK (i : Nat) (j : Nat) : Fld := ⟨(R.ETH_SP_MASK i j), 31, 0⟩
/-- 16 T16.11. -/
def R.ETH_SP_GW (i : Nat) (j : Nat) : Nat := 0x120018 + 0x1000 * i + 0x10 * j
def F.ETH_SP_GW.ADDR (i : Nat) (j : Nat) : Fld := ⟨(R.ETH_SP_GW i j), 31, 0⟩
/-- 16 T16.11. -/
def R.ETH_PFC (i : Nat) : Nat := 0x120050 + 0x1000 * i
def F.ETH_PFC.TX_EN (i : Nat) : Fld := ⟨(R.ETH_PFC i), 31, 24⟩
def F.ETH_PFC.RX_EN (i : Nat) : Fld := ⟨(R.ETH_PFC i), 23, 16⟩
def F.ETH_PFC.PCP (i : Nat) : Fld := ⟨(R.ETH_PFC i), 15, 13⟩
def F.ETH_PFC.PAUSE_RX (i : Nat) : Fld := ⟨(R.ETH_PFC i), 12, 12⟩
def F.ETH_PFC.DSCP (i : Nat) : Fld := ⟨(R.ETH_PFC i), 5, 0⟩
/-- 16 T16.11 T16.10. -/
def R.ETH_TSCORR (i : Nat) (j : Nat) : Nat := 0x120054 + 0x1000 * i + 0x4 * j
def F.ETH_TSCORR.TX (i : Nat) (j : Nat) : Fld := ⟨(R.ETH_TSCORR i j), 31, 16⟩
def F.ETH_TSCORR.RX (i : Nat) (j : Nat) : Fld := ⟨(R.ETH_TSCORR i j), 15, 0⟩
/-- 16 T16.11. -/
def R.ETH_CNT0 (i : Nat) : Nat := 0x120064 + 0x1000 * i
def F.ETH_CNT0.RX_FCS (i : Nat) : Fld := ⟨(R.ETH_CNT0 i), 31, 16⟩
def F.ETH_CNT0.RX_DISCARD (i : Nat) : Fld := ⟨(R.ETH_CNT0 i), 15, 0⟩
/-- 16 T16.11. -/
def R.ETH_CNT1 (i : Nat) : Nat := 0x120068 + 0x1000 * i
def F.ETH_CNT1.ICRC (i : Nat) : Fld := ⟨(R.ETH_CNT1 i), 31, 24⟩
def F.ETH_CNT1.MGMT_BAD (i : Nat) : Fld := ⟨(R.ETH_CNT1 i), 23, 16⟩
def F.ETH_CNT1.RETRANS (i : Nat) : Fld := ⟨(R.ETH_CNT1 i), 15, 0⟩
/-- 16 T16.11. -/
def R.ETH_MGMT : Nat := 0x122000
def F.ETH_MGMT.EN : Fld := ⟨R.ETH_MGMT, 31, 31⟩
def F.ETH_MGMT.CONNECT_EN : Fld := ⟨R.ETH_MGMT, 30, 30⟩
def F.ETH_MGMT.UDP_PORT : Fld := ⟨R.ETH_MGMT, 15, 0⟩
/-- 16 T16.11. -/
def R.ETH_RETRY : Nat := 0x122004
def F.ETH_RETRY.TMO : Fld := ⟨R.ETH_RETRY, 28, 24⟩
def F.ETH_RETRY.RETRY : Fld := ⟨R.ETH_RETRY, 10, 8⟩
def F.ETH_RETRY.RNR : Fld := ⟨R.ETH_RETRY, 2, 0⟩
/-- 16 T16.11. -/
def R.ETH_KEYTAB_LO : Nat := 0x122008
def F.ETH_KEYTAB_LO.ADDR : Fld := ⟨R.ETH_KEYTAB_LO, 31, 6⟩
/-- 16 T16.11. -/
def R.ETH_KEYTAB_HI : Nat := 0x12200c
def F.ETH_KEYTAB_HI.ADDR : Fld := ⟨R.ETH_KEYTAB_HI, 15, 0⟩
/-- 16 T16.11. -/
def R.ETH_QP_SEL : Nat := 0x122010
def F.ETH_QP_SEL.KILL : Fld := ⟨R.ETH_QP_SEL, 31, 31⟩
def F.ETH_QP_SEL.QP : Fld := ⟨R.ETH_QP_SEL, 5, 0⟩
/-- 16 T16.11. -/
def R.ETH_QP_STAT : Nat := 0x122014
def F.ETH_QP_STAT.STATE : Fld := ⟨R.ETH_QP_STAT, 31, 30⟩
def F.ETH_QP_STAT.PORT : Fld := ⟨R.ETH_QP_STAT, 29, 29⟩
def F.ETH_QP_STAT.SUBPORT : Fld := ⟨R.ETH_QP_STAT, 28, 27⟩
def F.ETH_QP_STAT.MTU : Fld := ⟨R.ETH_QP_STAT, 26, 25⟩
def F.ETH_QP_STAT.REMOTE_QPN : Fld := ⟨R.ETH_QP_STAT, 23, 0⟩
/-- 17 T17.14. -/
def R.CCP_CTL : Nat := 0x130000
def F.CCP_CTL.EN : Fld := ⟨R.CCP_CTL, 31, 31⟩
def F.CCP_CTL.KEEP : Fld := ⟨R.CCP_CTL, 30, 30⟩
def F.CCP_CTL.READY : Fld := ⟨R.CCP_CTL, 0, 0⟩
/-- 17 T17.14. -/
def R.CCP_STAT : Nat := 0x130004
def F.CCP_STAT.STREAMS : Fld := ⟨R.CCP_STAT, 31, 16⟩
def F.CCP_STAT.TAKES : Fld := ⟨R.CCP_STAT, 10, 0⟩
/-- 17 T17.14. -/
def R.CCP_STORE_LO : Nat := 0x130008
def F.CCP_STORE_LO.ADDR : Fld := ⟨R.CCP_STORE_LO, 31, 21⟩
/-- 17 T17.14. -/
def R.CCP_STORE_HI : Nat := 0x13000c
def F.CCP_STORE_HI.ADDR : Fld := ⟨R.CCP_STORE_HI, 15, 0⟩
/-- 17 T17.14. -/
def R.CCP_STORE_BLKS : Nat := 0x130010
def F.CCP_STORE_BLKS.BLKS : Fld := ⟨R.CCP_STORE_BLKS, 26, 0⟩
/-- 17 T17.14. -/
def R.CCP_INDEX_LO : Nat := 0x130014
def F.CCP_INDEX_LO.ADDR : Fld := ⟨R.CCP_INDEX_LO, 31, 21⟩
/-- 17 T17.14. -/
def R.CCP_INDEX_HI : Nat := 0x130018
def F.CCP_INDEX_HI.ADDR : Fld := ⟨R.CCP_INDEX_HI, 15, 0⟩
/-- 17 T17.14. -/
def R.CCP_RWIN_LO : Nat := 0x13001c
def F.CCP_RWIN_LO.ADDR : Fld := ⟨R.CCP_RWIN_LO, 31, 21⟩
/-- 17 T17.14. -/
def R.CCP_RWIN_HI : Nat := 0x130020
def F.CCP_RWIN_HI.ADDR : Fld := ⟨R.CCP_RWIN_HI, 15, 0⟩
/-- 17 T17.14. -/
def R.CCP_RKEY : Nat := 0x130024
def F.CCP_RKEY.KEY : Fld := ⟨R.CCP_RKEY, 31, 0⟩
/-- 17 T17.14. -/
def R.CCP_FREE : Nat := 0x130028
def F.CCP_FREE.RUNS : Fld := ⟨R.CCP_FREE, 17, 0⟩
/-- 17 T17.14. -/
def R.CCP_ERR : Nat := 0x13002c
def F.CCP_ERR.PARITY : Fld := ⟨R.CCP_ERR, 31, 24⟩
def F.CCP_ERR.TRANSLATION : Fld := ⟨R.CCP_ERR, 23, 16⟩
def F.CCP_ERR.NOSPACE : Fld := ⟨R.CCP_ERR, 15, 0⟩
/-- 17 T17.14. -/
def R.CCP_LQ_CTL : Nat := 0x130040
def F.CCP_LQ_CTL.EN : Fld := ⟨R.CCP_LQ_CTL, 31, 31⟩
def F.CCP_LQ_CTL.ADMIN : Fld := ⟨R.CCP_LQ_CTL, 30, 30⟩
def F.CCP_LQ_CTL.LOG2CNT : Fld := ⟨R.CCP_LQ_CTL, 3, 0⟩
/-- 17 T17.14. -/
def R.CCP_LQ_SQ_LO : Nat := 0x130044
def F.CCP_LQ_SQ_LO.ADDR : Fld := ⟨R.CCP_LQ_SQ_LO, 31, 6⟩
/-- 17 T17.14. -/
def R.CCP_LQ_SQ_HI : Nat := 0x130048
def F.CCP_LQ_SQ_HI.ADDR : Fld := ⟨R.CCP_LQ_SQ_HI, 15, 0⟩
/-- 17 T17.14. -/
def R.CCP_LQ_CQ_LO : Nat := 0x13004c
def F.CCP_LQ_CQ_LO.ADDR : Fld := ⟨R.CCP_LQ_CQ_LO, 31, 4⟩
/-- 17 T17.14. -/
def R.CCP_LQ_CQ_HI : Nat := 0x130050
def F.CCP_LQ_CQ_HI.ADDR : Fld := ⟨R.CCP_LQ_CQ_HI, 15, 0⟩
/-- 17 T17.14. -/
def R.CCP_LQ_SQ_IDX : Nat := 0x130054
def F.CCP_LQ_SQ_IDX.RIDX : Fld := ⟨R.CCP_LQ_SQ_IDX, 31, 16⟩
def F.CCP_LQ_SQ_IDX.WIDX : Fld := ⟨R.CCP_LQ_SQ_IDX, 15, 0⟩
/-- 17 T17.14. -/
def R.CCP_LQ_CQ_IDX : Nat := 0x130058
def F.CCP_LQ_CQ_IDX.WIDX : Fld := ⟨R.CCP_LQ_CQ_IDX, 31, 16⟩
def F.CCP_LQ_CQ_IDX.RIDX : Fld := ⟨R.CCP_LQ_CQ_IDX, 15, 0⟩
/-- 17 T17.14. -/
def R.CCP_STR_STAT (i : Nat) : Nat := 0x130100 + 0x10 * i
def F.CCP_STR_STAT.STATE (i : Nat) : Fld := ⟨(R.CCP_STR_STAT i), 31, 30⟩
def F.CCP_STR_STAT.TAKE (i : Nat) : Fld := ⟨(R.CCP_STR_STAT i), 25, 16⟩
def F.CCP_STR_STAT.BAD (i : Nat) : Fld := ⟨(R.CCP_STR_STAT i), 15, 0⟩
/-- 17 T17.14. -/
def R.CCP_STR_FRAMES (i : Nat) : Nat := 0x130104 + 0x10 * i
def F.CCP_STR_FRAMES.FRAMES (i : Nat) : Fld := ⟨(R.CCP_STR_FRAMES i), 31, 0⟩
/-- 18 T18.5. -/
def R.TIM_CTL : Nat := 0x140000
def F.TIM_CTL.LOCKED : Fld := ⟨R.TIM_CTL, 31, 31⟩
def F.TIM_CTL.PPS_EN : Fld := ⟨R.TIM_CTL, 30, 30⟩
def F.TIM_CTL.PPS_WIDTH : Fld := ⟨R.TIM_CTL, 23, 16⟩
/-- 18 T18.5. -/
def R.TIM_INC_LO : Nat := 0x140004
def F.TIM_INC_LO.FRAC : Fld := ⟨R.TIM_INC_LO, 31, 0⟩
/-- 18 T18.5. -/
def R.TIM_INC_HI : Nat := 0x140008
def F.TIM_INC_HI.NS : Fld := ⟨R.TIM_INC_HI, 3, 0⟩
/-- 18 T18.5. -/
def R.TIM_NOW_NS : Nat := 0x14000c
def F.TIM_NOW_NS.NS : Fld := ⟨R.TIM_NOW_NS, 29, 0⟩
/-- 18 T18.5. -/
def R.TIM_NOW_FRAC : Nat := 0x140010
def F.TIM_NOW_FRAC.FRAC : Fld := ⟨R.TIM_NOW_FRAC, 31, 0⟩
/-- 18 T18.5. -/
def R.TIM_NOW_SEC_LO : Nat := 0x140014
def F.TIM_NOW_SEC_LO.SEC : Fld := ⟨R.TIM_NOW_SEC_LO, 31, 0⟩
/-- 18 T18.5. -/
def R.TIM_NOW_SEC_HI : Nat := 0x140018
def F.TIM_NOW_SEC_HI.SEC : Fld := ⟨R.TIM_NOW_SEC_HI, 15, 0⟩
/-- 18 T18.5. -/
def R.TIM_SET_NS : Nat := 0x140020
def F.TIM_SET_NS.NS : Fld := ⟨R.TIM_SET_NS, 29, 0⟩
/-- 18 T18.5. -/
def R.TIM_SET_SEC_LO : Nat := 0x140024
def F.TIM_SET_SEC_LO.SEC : Fld := ⟨R.TIM_SET_SEC_LO, 31, 0⟩
/-- 18 T18.5. -/
def R.TIM_SET_SEC_HI : Nat := 0x140028
def F.TIM_SET_SEC_HI.SEC : Fld := ⟨R.TIM_SET_SEC_HI, 15, 0⟩
/-- 18 T18.5. -/
def R.TIM_OFFS : Nat := 0x14002c
def F.TIM_OFFS.NS : Fld := ⟨R.TIM_OFFS, 31, 0⟩
/-- 18 T18.5. -/
def R.TIM_STEP : Nat := 0x140030
def F.TIM_STEP.GO : Fld := ⟨R.TIM_STEP, 31, 31⟩
def F.TIM_STEP.MODE : Fld := ⟨R.TIM_STEP, 30, 30⟩
def F.TIM_STEP.STEPS : Fld := ⟨R.TIM_STEP, 15, 0⟩
/-- 18 T18.5. -/
def R.TIM_SLEW : Nat := 0x140034
def F.TIM_SLEW.NS : Fld := ⟨R.TIM_SLEW, 31, 0⟩
/-- 18 T18.5. -/
def R.TIM_SLEW_STEP : Nat := 0x140038
def F.TIM_SLEW_STEP.STEP : Fld := ⟨R.TIM_SLEW_STEP, 31, 0⟩
/-- 18 T18.5. -/
def R.TIM_ROUTE : Nat := 0x140040
def F.TIM_ROUTE.AUD1 : Fld := ⟨R.TIM_ROUTE, 29, 25⟩
def F.TIM_ROUTE.AUD0 : Fld := ⟨R.TIM_ROUTE, 24, 20⟩
def F.TIM_ROUTE.FS1 : Fld := ⟨R.TIM_ROUTE, 19, 15⟩
def F.TIM_ROUTE.FS0 : Fld := ⟨R.TIM_ROUTE, 14, 10⟩
def F.TIM_ROUTE.EXP1 : Fld := ⟨R.TIM_ROUTE, 9, 5⟩
def F.TIM_ROUTE.EXP0 : Fld := ⟨R.TIM_ROUTE, 4, 0⟩
/-- 18 T18.5. -/
def R.TIM_IRQ : Nat := 0x140044
def F.TIM_IRQ.FIRED : Fld := ⟨R.TIM_IRQ, 15, 0⟩
/-- 18 T18.5. -/
def R.TIM_IRQ_EN : Nat := 0x140048
def F.TIM_IRQ_EN.EN : Fld := ⟨R.TIM_IRQ_EN, 15, 0⟩
/-- 18 T18.5. -/
def R.TIM_FSLAG (i : Nat) : Nat := 0x14004c + 0x4 * i
def F.TIM_FSLAG.NS (i : Nat) : Fld := ⟨(R.TIM_FSLAG i), 31, 0⟩
/-- 18 T18.5. -/
def R.TIM_PTP : Nat := 0x140060
def F.TIM_PTP.TC_EN : Fld := ⟨R.TIM_PTP, 31, 31⟩
def F.TIM_PTP.RX_EN : Fld := ⟨R.TIM_PTP, 30, 30⟩
def F.TIM_PTP.DOMAIN : Fld := ⟨R.TIM_PTP, 23, 16⟩
def F.TIM_PTP.PORTS : Fld := ⟨R.TIM_PTP, 1, 0⟩
/-- 18 T18.5. -/
def R.TIM_PTP_STAT : Nat := 0x140064
def F.TIM_PTP_STAT.TC_FWD : Fld := ⟨R.TIM_PTP_STAT, 31, 16⟩
def F.TIM_PTP_STAT.TC_DROPS : Fld := ⟨R.TIM_PTP_STAT, 15, 8⟩
/-- 18 T18.5. -/
def R.TIM_PRX_LO : Nat := 0x140068
def F.TIM_PRX_LO.ADDR : Fld := ⟨R.TIM_PRX_LO, 31, 6⟩
/-- 18 T18.5. -/
def R.TIM_PRX_HI : Nat := 0x14006c
def F.TIM_PRX_HI.ADDR : Fld := ⟨R.TIM_PRX_HI, 15, 0⟩
/-- 18 T18.5. -/
def R.TIM_PRX_CTL : Nat := 0x140070
def F.TIM_PRX_CTL.WIDX : Fld := ⟨R.TIM_PRX_CTL, 31, 16⟩
def F.TIM_PRX_CTL.LOG2CNT : Fld := ⟨R.TIM_PRX_CTL, 4, 0⟩
/-- 18 T18.5. -/
def R.TIM_PTX_LO : Nat := 0x140078
def F.TIM_PTX_LO.ADDR : Fld := ⟨R.TIM_PTX_LO, 31, 6⟩
/-- 18 T18.5. -/
def R.TIM_PTX_HI : Nat := 0x14007c
def F.TIM_PTX_HI.ADDR : Fld := ⟨R.TIM_PTX_HI, 15, 0⟩
/-- 18 T18.5. -/
def R.TIM_PTX_CTL : Nat := 0x140080
def F.TIM_PTX_CTL.RIDX : Fld := ⟨R.TIM_PTX_CTL, 31, 16⟩
def F.TIM_PTX_CTL.LOG2CNT : Fld := ⟨R.TIM_PTX_CTL, 4, 0⟩
/-- 18 T18.5. -/
def R.TIM_PTX_WIDX : Nat := 0x140084
def F.TIM_PTX_WIDX.WIDX : Fld := ⟨R.TIM_PTX_WIDX, 15, 0⟩
/-- 18 T18.5. -/
def R.TIM_TRG_CFG (i : Nat) : Nat := 0x140100 + 0x20 * i
def F.TIM_TRG_CFG.ARM (i : Nat) : Fld := ⟨(R.TIM_TRG_CFG i), 31, 31⟩
def F.TIM_TRG_CFG.DISARM (i : Nat) : Fld := ⟨(R.TIM_TRG_CFG i), 30, 30⟩
def F.TIM_TRG_CFG.IRQ (i : Nat) : Fld := ⟨(R.TIM_TRG_CFG i), 29, 29⟩
def F.TIM_TRG_CFG.TIME_HI (i : Nat) : Fld := ⟨(R.TIM_TRG_CFG i), 7, 0⟩
/-- 18 T18.5. -/
def R.TIM_TRG_TIME (i : Nat) : Nat := 0x140104 + 0x20 * i
def F.TIM_TRG_TIME.TIME (i : Nat) : Fld := ⟨(R.TIM_TRG_TIME i), 31, 0⟩
/-- 18 T18.5. -/
def R.TIM_TRG_PERIOD (i : Nat) : Nat := 0x140108 + 0x20 * i
def F.TIM_TRG_PERIOD.NS (i : Nat) : Fld := ⟨(R.TIM_TRG_PERIOD i), 31, 0⟩
/-- 18 T18.5. -/
def R.TIM_TRG_PFRAC (i : Nat) : Nat := 0x14010c + 0x20 * i
def F.TIM_TRG_PFRAC.FRAC (i : Nat) : Fld := ⟨(R.TIM_TRG_PFRAC i), 31, 0⟩
/-- 18 T18.5. -/
def R.TIM_TRG_STAT (i : Nat) : Nat := 0x140110 + 0x20 * i
def F.TIM_TRG_STAT.FIRES (i : Nat) : Fld := ⟨(R.TIM_TRG_STAT i), 31, 16⟩
def F.TIM_TRG_STAT.MISSED (i : Nat) : Fld := ⟨(R.TIM_TRG_STAT i), 15, 0⟩
/-- 18 T18.5. -/
def R.TIM_CAP_NS (i : Nat) : Nat := 0x140300 + 0x10 * i
def F.TIM_CAP_NS.VALID (i : Nat) : Fld := ⟨(R.TIM_CAP_NS i), 31, 31⟩
def F.TIM_CAP_NS.NS (i : Nat) : Fld := ⟨(R.TIM_CAP_NS i), 29, 0⟩
/-- 18 T18.5. -/
def R.TIM_CAP_SEC_LO (i : Nat) : Nat := 0x140304 + 0x10 * i
def F.TIM_CAP_SEC_LO.SEC (i : Nat) : Fld := ⟨(R.TIM_CAP_SEC_LO i), 31, 0⟩
/-- 18 T18.5. -/
def R.TIM_CAP_SEC_HI (i : Nat) : Nat := 0x140308 + 0x10 * i
def F.TIM_CAP_SEC_HI.LOST (i : Nat) : Fld := ⟨(R.TIM_CAP_SEC_HI i), 31, 24⟩
def F.TIM_CAP_SEC_HI.SEC (i : Nat) : Fld := ⟨(R.TIM_CAP_SEC_HI i), 15, 0⟩
/-- 18 T18.5. -/
def R.TIM_CAP_FRAC (i : Nat) : Nat := 0x14030c + 0x10 * i
def F.TIM_CAP_FRAC.FRAC (i : Nat) : Fld := ⟨(R.TIM_CAP_FRAC i), 15, 0⟩
/-- 19 T19.4. -/
def R.AUD_PLL_CFG : Nat := 0x150000
def F.AUD_PLL_CFG.EN : Fld := ⟨R.AUD_PLL_CFG, 31, 31⟩
def F.AUD_PLL_CFG.SRC : Fld := ⟨R.AUD_PLL_CFG, 30, 29⟩
def F.AUD_PLL_CFG.LOCKED : Fld := ⟨R.AUD_PLL_CFG, 28, 28⟩
def F.AUD_PLL_CFG.MCLK_EN : Fld := ⟨R.AUD_PLL_CFG, 27, 27⟩
def F.AUD_PLL_CFG.MCLK_DIV : Fld := ⟨R.AUD_PLL_CFG, 23, 16⟩
def F.AUD_PLL_CFG.N : Fld := ⟨R.AUD_PLL_CFG, 7, 0⟩
/-- 19 T19.4. -/
def R.AUD_PLL_NUM : Nat := 0x150004
def F.AUD_PLL_NUM.NUM : Fld := ⟨R.AUD_PLL_NUM, 23, 0⟩
/-- 19 T19.4. -/
def R.AUD_PLL_DEN : Nat := 0x150008
def F.AUD_PLL_DEN.DEN : Fld := ⟨R.AUD_PLL_DEN, 23, 0⟩
/-- 19 T19.4. -/
def R.AUD_GRP_CFG (i : Nat) : Nat := 0x150010 + 0x4 * i
def F.AUD_GRP_CFG.START (i : Nat) : Fld := ⟨(R.AUD_GRP_CFG i), 31, 31⟩
def F.AUD_GRP_CFG.STOP (i : Nat) : Fld := ⟨(R.AUD_GRP_CFG i), 30, 30⟩
def F.AUD_GRP_CFG.STATE (i : Nat) : Fld := ⟨(R.AUD_GRP_CFG i), 29, 28⟩
def F.AUD_GRP_CFG.ERR (i : Nat) : Fld := ⟨(R.AUD_GRP_CFG i), 27, 27⟩
def F.AUD_GRP_CFG.PORTS (i : Nat) : Fld := ⟨(R.AUD_GRP_CFG i), 7, 0⟩
/-- 19 T19.4. -/
def R.AUD_P_CFG (i : Nat) : Nat := 0x150100 + 0x80 * i
def F.AUD_P_CFG.EN (i : Nat) : Fld := ⟨(R.AUD_P_CFG i), 31, 31⟩
def F.AUD_P_CFG.TX_EN (i : Nat) : Fld := ⟨(R.AUD_P_CFG i), 30, 30⟩
def F.AUD_P_CFG.RX_EN (i : Nat) : Fld := ⟨(R.AUD_P_CFG i), 29, 29⟩
def F.AUD_P_CFG.FMT (i : Nat) : Fld := ⟨(R.AUD_P_CFG i), 28, 27⟩
def F.AUD_P_CFG.FSINV (i : Nat) : Fld := ⟨(R.AUD_P_CFG i), 26, 26⟩
def F.AUD_P_CFG.SLOTS (i : Nat) : Fld := ⟨(R.AUD_P_CFG i), 20, 16⟩
def F.AUD_P_CFG.WIDTH (i : Nat) : Fld := ⟨(R.AUD_P_CFG i), 13, 12⟩
def F.AUD_P_CFG.RATE (i : Nat) : Fld := ⟨(R.AUD_P_CFG i), 9, 8⟩
/-- 19 T19.4. -/
def R.AUD_P_DIV (i : Nat) : Nat := 0x150104 + 0x80 * i
def F.AUD_P_DIV.INT (i : Nat) : Fld := ⟨(R.AUD_P_DIV i), 15, 0⟩
/-- 19 T19.4. -/
def R.AUD_P_DIVF (i : Nat) : Nat := 0x150108 + 0x80 * i
def F.AUD_P_DIVF.NUM (i : Nat) : Fld := ⟨(R.AUD_P_DIVF i), 31, 16⟩
def F.AUD_P_DIVF.DEN (i : Nat) : Fld := ⟨(R.AUD_P_DIVF i), 15, 0⟩
/-- 19 T19.4. -/
def R.AUD_P_TXMASK (i : Nat) : Nat := 0x15010c + 0x80 * i
def F.AUD_P_TXMASK.MASK (i : Nat) : Fld := ⟨(R.AUD_P_TXMASK i), 31, 0⟩
/-- 19 T19.4. -/
def R.AUD_P_RXMASK (i : Nat) : Nat := 0x150110 + 0x80 * i
def F.AUD_P_RXMASK.MASK (i : Nat) : Fld := ⟨(R.AUD_P_RXMASK i), 31, 0⟩
/-- 19 T19.4. -/
def R.AUD_P_TXACT (i : Nat) : Nat := 0x150114 + 0x80 * i
def F.AUD_P_TXACT.MASK (i : Nat) : Fld := ⟨(R.AUD_P_TXACT i), 31, 0⟩
/-- 19 T19.4. -/
def R.AUD_P_RXACT (i : Nat) : Nat := 0x150118 + 0x80 * i
def F.AUD_P_RXACT.MASK (i : Nat) : Fld := ⟨(R.AUD_P_RXACT i), 31, 0⟩
/-- 19 T19.4. -/
def R.AUD_P_TXMARK (i : Nat) : Nat := 0x15011c + 0x80 * i
def F.AUD_P_TXMARK.INDEX (i : Nat) : Fld := ⟨(R.AUD_P_TXMARK i), 31, 0⟩
/-- 19 T19.4. -/
def R.AUD_P_RXMARK (i : Nat) : Nat := 0x150120 + 0x80 * i
def F.AUD_P_RXMARK.INDEX (i : Nat) : Fld := ⟨(R.AUD_P_RXMARK i), 31, 0⟩
/-- 19 T19.4. -/
def R.AUD_P_TXR_LO (i : Nat) : Nat := 0x150124 + 0x80 * i
def F.AUD_P_TXR_LO.ADDR (i : Nat) : Fld := ⟨(R.AUD_P_TXR_LO i), 31, 6⟩
/-- 19 T19.4. -/
def R.AUD_P_TXR_HI (i : Nat) : Nat := 0x150128 + 0x80 * i
def F.AUD_P_TXR_HI.ADDR (i : Nat) : Fld := ⟨(R.AUD_P_TXR_HI i), 15, 0⟩
/-- 19 T19.4. -/
def R.AUD_P_TXR_IDX (i : Nat) : Nat := 0x15012c + 0x80 * i
def F.AUD_P_TXR_IDX.RIDX (i : Nat) : Fld := ⟨(R.AUD_P_TXR_IDX i), 31, 16⟩
def F.AUD_P_TXR_IDX.WIDX (i : Nat) : Fld := ⟨(R.AUD_P_TXR_IDX i), 15, 0⟩
/-- 19 T19.4. -/
def R.AUD_P_RXR_LO (i : Nat) : Nat := 0x150130 + 0x80 * i
def F.AUD_P_RXR_LO.ADDR (i : Nat) : Fld := ⟨(R.AUD_P_RXR_LO i), 31, 6⟩
/-- 19 T19.4. -/
def R.AUD_P_RXR_HI (i : Nat) : Nat := 0x150134 + 0x80 * i
def F.AUD_P_RXR_HI.ADDR (i : Nat) : Fld := ⟨(R.AUD_P_RXR_HI i), 15, 0⟩
/-- 19 T19.4. -/
def R.AUD_P_RXR_IDX (i : Nat) : Nat := 0x150138 + 0x80 * i
def F.AUD_P_RXR_IDX.WIDX (i : Nat) : Fld := ⟨(R.AUD_P_RXR_IDX i), 31, 16⟩
def F.AUD_P_RXR_IDX.RIDX (i : Nat) : Fld := ⟨(R.AUD_P_RXR_IDX i), 15, 0⟩
/-- 19 T19.4. -/
def R.AUD_P_RING (i : Nat) : Nat := 0x15013c + 0x80 * i
def F.AUD_P_RING.TX_LOG2 (i : Nat) : Fld := ⟨(R.AUD_P_RING i), 11, 8⟩
def F.AUD_P_RING.RX_LOG2 (i : Nat) : Fld := ⟨(R.AUD_P_RING i), 3, 0⟩
/-- 19 T19.4. -/
def R.AUD_P_FRAME_LO (i : Nat) : Nat := 0x150140 + 0x80 * i
def F.AUD_P_FRAME_LO.INDEX (i : Nat) : Fld := ⟨(R.AUD_P_FRAME_LO i), 31, 0⟩
/-- 19 T19.4. -/
def R.AUD_P_FRAME_HI (i : Nat) : Nat := 0x150144 + 0x80 * i
def F.AUD_P_FRAME_HI.INDEX (i : Nat) : Fld := ⟨(R.AUD_P_FRAME_HI i), 31, 0⟩
/-- 19 T19.4. -/
def R.AUD_P_STAT (i : Nat) : Nat := 0x150148 + 0x80 * i
def F.AUD_P_STAT.UNDERRUNS (i : Nat) : Fld := ⟨(R.AUD_P_STAT i), 31, 16⟩
def F.AUD_P_STAT.OVERRUNS (i : Nat) : Fld := ⟨(R.AUD_P_STAT i), 15, 0⟩
/-- 19 T19.4. -/
def R.AUD_P_STAT2 (i : Nat) : Nat := 0x15014c + 0x80 * i
def F.AUD_P_STAT2.SKIPS (i : Nat) : Fld := ⟨(R.AUD_P_STAT2 i), 31, 16⟩
def F.AUD_P_STAT2.MASK_ERR (i : Nat) : Fld := ⟨(R.AUD_P_STAT2 i), 15, 0⟩
/-- 19 T19.4. -/
def R.AUD_STR_CFG (i : Nat) : Nat := 0x150800 + 0x10 * i
def F.AUD_STR_CFG.EN (i : Nat) : Fld := ⟨(R.AUD_STR_CFG i), 31, 31⟩
def F.AUD_STR_CFG.SRC (i : Nat) : Fld := ⟨(R.AUD_STR_CFG i), 30, 30⟩
def F.AUD_STR_CFG.VALID (i : Nat) : Fld := ⟨(R.AUD_STR_CFG i), 29, 29⟩
def F.AUD_STR_CFG.PORT (i : Nat) : Fld := ⟨(R.AUD_STR_CFG i), 26, 24⟩
def F.AUD_STR_CFG.GRP (i : Nat) : Fld := ⟨(R.AUD_STR_CFG i), 21, 20⟩
def F.AUD_STR_CFG.SLOT0 (i : Nat) : Fld := ⟨(R.AUD_STR_CFG i), 12, 8⟩
def F.AUD_STR_CFG.BLK (i : Nat) : Fld := ⟨(R.AUD_STR_CFG i), 3, 0⟩
/-- 20 T20.10. -/
def R.PWR_CTL : Nat := 0x160000
def F.PWR_CTL.NAP_EN : Fld := ⟨R.PWR_CTL, 31, 31⟩
def F.PWR_CTL.DOZE_EN : Fld := ⟨R.PWR_CTL, 30, 30⟩
def F.PWR_CTL.HIB_EN : Fld := ⟨R.PWR_CTL, 29, 29⟩
def F.PWR_CTL.RES_CLR : Fld := ⟨R.PWR_CTL, 28, 28⟩
def F.PWR_CTL.LAST : Fld := ⟨R.PWR_CTL, 26, 24⟩
def F.PWR_CTL.IDLE_US : Fld := ⟨R.PWR_CTL, 15, 0⟩
/-- 20 T20.10. -/
def R.PWR_TMR : Nat := 0x160004
def F.PWR_TMR.NAP_MS : Fld := ⟨R.PWR_TMR, 31, 20⟩
def F.PWR_TMR.DOZE_S : Fld := ⟨R.PWR_TMR, 19, 8⟩
def F.PWR_TMR.HIB_M : Fld := ⟨R.PWR_TMR, 7, 0⟩
/-- 20 T20.10. -/
def R.PWR_WAKE_EN : Nat := 0x160008
def F.PWR_WAKE_EN.EN : Fld := ⟨R.PWR_WAKE_EN, 8, 0⟩
/-- 20 T20.10. -/
def R.PWR_WAKE_CAUSE : Nat := 0x16000c
def F.PWR_WAKE_CAUSE.COLD : Fld := ⟨R.PWR_WAKE_CAUSE, 31, 31⟩
def F.PWR_WAKE_CAUSE.CAUSE : Fld := ⟨R.PWR_WAKE_CAUSE, 8, 0⟩
/-- 20 T20.10. -/
def R.PWR_WAKE_VEC_LO : Nat := 0x160010
def F.PWR_WAKE_VEC_LO.ADDR : Fld := ⟨R.PWR_WAKE_VEC_LO, 31, 2⟩
/-- 20 T20.10. -/
def R.PWR_WAKE_VEC_HI : Nat := 0x160014
def F.PWR_WAKE_VEC_HI.ADDR : Fld := ⟨R.PWR_WAKE_VEC_HI, 7, 0⟩
/-- 20 T20.10. -/
def R.PWR_CLKSEL : Nat := 0x160018
def F.PWR_CLKSEL.CPU : Fld := ⟨R.PWR_CLKSEL, 0, 0⟩
/-- 20 T20.10. -/
def R.PWR_PLL : Nat := 0x16001c
def F.PWR_PLL.ON : Fld := ⟨R.PWR_PLL, 23, 16⟩
def F.PWR_PLL.LOCK : Fld := ⟨R.PWR_PLL, 7, 0⟩
/-- 20 T20.10. -/
def R.PWR_KETTLE : Nat := 0x160020
def F.PWR_KETTLE.BUSY : Fld := ⟨R.PWR_KETTLE, 31, 31⟩
def F.PWR_KETTLE.QUEUED : Fld := ⟨R.PWR_KETTLE, 23, 16⟩
def F.PWR_KETTLE.LAST : Fld := ⟨R.PWR_KETTLE, 7, 0⟩
/-- 20 T20.10. -/
def R.PWR_INPUT : Nat := 0x160024
def F.PWR_INPUT.IIN : Fld := ⟨R.PWR_INPUT, 31, 16⟩
def F.PWR_INPUT.VIN_MV : Fld := ⟨R.PWR_INPUT, 15, 0⟩
/-- 20 T20.10. -/
def R.PWR_RAIL : Nat := 0x160028
def F.PWR_RAIL.RETRY : Fld := ⟨R.PWR_RAIL, 31, 31⟩
def F.PWR_RAIL.FAULT : Fld := ⟨R.PWR_RAIL, 20, 16⟩
def F.PWR_RAIL.GOOD : Fld := ⟨R.PWR_RAIL, 4, 0⟩
/-- 20 T20.10. -/
def R.PWR_DOM (i : Nat) : Nat := 0x160100 + 0x4 * i
def F.PWR_DOM.STATE (i : Nat) : Fld := ⟨(R.PWR_DOM i), 31, 30⟩
def F.PWR_DOM.POLICY (i : Nat) : Fld := ⟨(R.PWR_DOM i), 29, 28⟩
def F.PWR_DOM.HOLD (i : Nat) : Fld := ⟨(R.PWR_DOM i), 27, 27⟩
def F.PWR_DOM.IDLE_US (i : Nat) : Fld := ⟨(R.PWR_DOM i), 15, 0⟩
/-- 20 T20.10. -/
def R.PWR_SRES_LO (i : Nat) : Nat := 0x160400 + 0x8 * i
def F.PWR_SRES_LO.TIME (i : Nat) : Fld := ⟨(R.PWR_SRES_LO i), 31, 0⟩
/-- 20 T20.10. -/
def R.PWR_SRES_HI (i : Nat) : Nat := 0x160404 + 0x8 * i
def F.PWR_SRES_HI.TIME (i : Nat) : Fld := ⟨(R.PWR_SRES_HI i), 31, 0⟩
/-- 20 T20.10. -/
def R.PWR_DRES_LO (i : Nat) : Nat := 0x160800 + 0x8 * i
def F.PWR_DRES_LO.TIME (i : Nat) : Fld := ⟨(R.PWR_DRES_LO i), 31, 0⟩
/-- 20 T20.10. -/
def R.PWR_DRES_HI (i : Nat) : Nat := 0x160804 + 0x8 * i
def F.PWR_DRES_HI.ONS (i : Nat) : Fld := ⟨(R.PWR_DRES_HI i), 31, 16⟩
def F.PWR_DRES_HI.TIME (i : Nat) : Fld := ⟨(R.PWR_DRES_HI i), 15, 0⟩
/-- 21 T21.5. -/
def R.THM_CTL : Nat := 0x170000
def F.THM_CTL.FORCE : Fld := ⟨R.THM_CTL, 31, 31⟩
def F.THM_CTL.THROT : Fld := ⟨R.THM_CTL, 29, 28⟩
def F.THM_CTL.SKIP : Fld := ⟨R.THM_CTL, 27, 24⟩
/-- 21 T21.5. -/
def R.THM_STAT : Nat := 0x170004
def F.THM_STAT.THERM : Fld := ⟨R.THM_STAT, 31, 31⟩
def F.THM_STAT.BAND : Fld := ⟨R.THM_STAT, 30, 28⟩
def F.THM_STAT.THROT : Fld := ⟨R.THM_STAT, 27, 26⟩
def F.THM_STAT.SKIP : Fld := ⟨R.THM_STAT, 25, 22⟩
def F.THM_STAT.HOT : Fld := ⟨R.THM_STAT, 20, 16⟩
def F.THM_STAT.TEMP : Fld := ⟨R.THM_STAT, 15, 0⟩
/-- 21 T21.5. -/
def R.THM_MASK : Nat := 0x170008
def F.THM_MASK.MASK : Fld := ⟨R.THM_MASK, 23, 0⟩
/-- 21 T21.5. -/
def R.THM_MODLIM : Nat := 0x17000c
def F.THM_MODLIM.OVER : Fld := ⟨R.THM_MODLIM, 31, 31⟩
def F.THM_MODLIM.LIMIT : Fld := ⟨R.THM_MODLIM, 15, 0⟩
/-- 21 T21.5. -/
def R.THM_SHDN : Nat := 0x170010
def F.THM_SHDN.LAST : Fld := ⟨R.THM_SHDN, 31, 31⟩
def F.THM_SHDN.SENSOR : Fld := ⟨R.THM_SHDN, 28, 24⟩
def F.THM_SHDN.TEMP : Fld := ⟨R.THM_SHDN, 15, 0⟩
/-- 21 T21.5. -/
def R.THM_SHDN_COUNT : Nat := 0x170014
def F.THM_SHDN_COUNT.COUNT : Fld := ⟨R.THM_SHDN_COUNT, 31, 0⟩
/-- 21 T21.5. -/
def R.THM_BAND (i : Nat) : Nat := 0x170040 + 0x4 * i
def F.THM_BAND.THROT (i : Nat) : Fld := ⟨(R.THM_BAND i), 31, 30⟩
def F.THM_BAND.SKIP (i : Nat) : Fld := ⟨(R.THM_BAND i), 27, 24⟩
/-- 21 T21.5. -/
def R.THM_SENS (i : Nat) : Nat := 0x170100 + 0x4 * i
def F.THM_SENS.VALID (i : Nat) : Fld := ⟨(R.THM_SENS i), 31, 31⟩
def F.THM_SENS.FAULT (i : Nat) : Fld := ⟨(R.THM_SENS i), 30, 30⟩
def F.THM_SENS.MASKED (i : Nat) : Fld := ⟨(R.THM_SENS i), 29, 29⟩
def F.THM_SENS.TEMP (i : Nat) : Fld := ⟨(R.THM_SENS i), 15, 0⟩
/-- 22 T22.13. -/
def R.EVT_CFG : Nat := 0x180000
def F.EVT_CFG.MIRROR_EN : Fld := ⟨R.EVT_CFG, 31, 31⟩
def F.EVT_CFG.IRQ_SEV : Fld := ⟨R.EVT_CFG, 10, 8⟩
def F.EVT_CFG.MIN_SEV : Fld := ⟨R.EVT_CFG, 2, 0⟩
/-- 22 T22.13. -/
def R.EVT_STAT : Nat := 0x180004
def F.EVT_STAT.SUPPRESSED : Fld := ⟨R.EVT_STAT, 22, 16⟩
def F.EVT_STAT.INTAKE : Fld := ⟨R.EVT_STAT, 6, 0⟩
/-- 22 T22.13. -/
def R.EVT_LAST_LO : Nat := 0x180008
def F.EVT_LAST_LO.SEQ : Fld := ⟨R.EVT_LAST_LO, 31, 0⟩
/-- 22 T22.13. -/
def R.EVT_LAST_HI : Nat := 0x18000c
def F.EVT_LAST_HI.SEQ : Fld := ⟨R.EVT_LAST_HI, 15, 0⟩
/-- 22 T22.13. -/
def R.EVT_OVER : Nat := 0x180010
def F.EVT_OVER.COUNT : Fld := ⟨R.EVT_OVER, 31, 0⟩
/-- 22 T22.13. -/
def R.EVT_LOSS : Nat := 0x180014
def F.EVT_LOSS.SEV7_LOST : Fld := ⟨R.EVT_LOSS, 31, 24⟩
def F.EVT_LOSS.UNCOUNTED : Fld := ⟨R.EVT_LOSS, 23, 16⟩
def F.EVT_LOSS.DISCARDED : Fld := ⟨R.EVT_LOSS, 15, 8⟩
def F.EVT_LOSS.MIRROR : Fld := ⟨R.EVT_LOSS, 7, 4⟩
def F.EVT_LOSS.FILTERED : Fld := ⟨R.EVT_LOSS, 3, 0⟩
/-- 22 T22.13. -/
def R.EVT_CLEAR : Nat := 0x180018
def F.EVT_CLEAR.KEY : Fld := ⟨R.EVT_CLEAR, 31, 16⟩
def F.EVT_CLEAR.BUSY : Fld := ⟨R.EVT_CLEAR, 15, 15⟩
def F.EVT_CLEAR.SEV : Fld := ⟨R.EVT_CLEAR, 2, 0⟩
/-- 22 T22.13. -/
def R.EVT_MIRROR_LO : Nat := 0x180020
def F.EVT_MIRROR_LO.ADDR : Fld := ⟨R.EVT_MIRROR_LO, 31, 6⟩
/-- 22 T22.13. -/
def R.EVT_MIRROR_HI : Nat := 0x180024
def F.EVT_MIRROR_HI.ADDR : Fld := ⟨R.EVT_MIRROR_HI, 15, 0⟩
/-- 22 T22.13. -/
def R.EVT_MIRROR_CTL : Nat := 0x180028
def F.EVT_MIRROR_CTL.WIDX : Fld := ⟨R.EVT_MIRROR_CTL, 31, 16⟩
def F.EVT_MIRROR_CTL.LOG2CNT : Fld := ⟨R.EVT_MIRROR_CTL, 4, 0⟩
/-- 22 T22.13. -/
def R.EVT_POST_DATA_LO : Nat := 0x180030
def F.EVT_POST_DATA_LO.DATA : Fld := ⟨R.EVT_POST_DATA_LO, 31, 0⟩
/-- 22 T22.13. -/
def R.EVT_POST_DATA_HI : Nat := 0x180034
def F.EVT_POST_DATA_HI.DATA : Fld := ⟨R.EVT_POST_DATA_HI, 31, 0⟩
/-- 22 T22.13. -/
def R.EVT_POST : Nat := 0x180038
def F.EVT_POST.SEV : Fld := ⟨R.EVT_POST, 18, 16⟩
def F.EVT_POST.CODE : Fld := ⟨R.EVT_POST, 15, 0⟩
/-- 23 T23.5. -/
def R.DBG_CTL : Nat := 0x190000
def F.DBG_CTL.FREEZE : Fld := ⟨R.DBG_CTL, 31, 31⟩
def F.DBG_CTL.AUTO_EN : Fld := ⟨R.DBG_CTL, 30, 30⟩
def F.DBG_CTL.AUTO_SEV : Fld := ⟨R.DBG_CTL, 26, 24⟩
/-- 23 T23.5. -/
def R.DBG_STAT : Nat := 0x190004
def F.DBG_STAT.FROZEN : Fld := ⟨R.DBG_STAT, 31, 31⟩
def F.DBG_STAT.SRC : Fld := ⟨R.DBG_STAT, 30, 28⟩
def F.DBG_STAT.DRAM_DIRTY : Fld := ⟨R.DBG_STAT, 7, 0⟩
/-- 22 T22.11. -/
def R.CPU_CORE_CTL (i : Nat) : Nat := 0x1a0000 + 0x20 * i
def F.CPU_CORE_CTL.START (i : Nat) : Fld := ⟨(R.CPU_CORE_CTL i), 31, 31⟩
def F.CPU_CORE_CTL.RESET (i : Nat) : Fld := ⟨(R.CPU_CORE_CTL i), 30, 30⟩
def F.CPU_CORE_CTL.STATE (i : Nat) : Fld := ⟨(R.CPU_CORE_CTL i), 26, 24⟩
/-- 22 T22.11. -/
def R.CPU_CORE_VEC_LO (i : Nat) : Nat := 0x1a0004 + 0x20 * i
def F.CPU_CORE_VEC_LO.ADDR (i : Nat) : Fld := ⟨(R.CPU_CORE_VEC_LO i), 31, 2⟩
/-- 22 T22.11. -/
def R.CPU_CORE_VEC_HI (i : Nat) : Nat := 0x1a0008 + 0x20 * i
def F.CPU_CORE_VEC_HI.ADDR (i : Nat) : Fld := ⟨(R.CPU_CORE_VEC_HI i), 7, 0⟩
/-- 22 T22.11. -/
def R.CPU_IRQ_STAT : Nat := 0x1a0100
def F.CPU_IRQ_STAT.SRC : Fld := ⟨R.CPU_IRQ_STAT, 31, 0⟩
/-- 22 T22.11. -/
def R.CPU_IRQ_EN (i : Nat) : Nat := 0x1a0104 + 0x4 * i
def F.CPU_IRQ_EN.EN (i : Nat) : Fld := ⟨(R.CPU_IRQ_EN i), 31, 0⟩
/-- 22 T22.11. -/
def R.CPU_WDOG : Nat := 0x1a0200
def F.CPU_WDOG.EN : Fld := ⟨R.CPU_WDOG, 31, 31⟩
def F.CPU_WDOG.ACTION : Fld := ⟨R.CPU_WDOG, 30, 30⟩
def F.CPU_WDOG.TIMEOUT_MS : Fld := ⟨R.CPU_WDOG, 29, 16⟩
def F.CPU_WDOG.KICK : Fld := ⟨R.CPU_WDOG, 15, 0⟩
/-- 18 T18.6. -/
def R.GPIO_OUT : Nat := 0x1b0000
def F.GPIO_OUT.OUT : Fld := ⟨R.GPIO_OUT, 31, 0⟩
/-- 18 T18.6. -/
def R.GPIO_OE : Nat := 0x1b0004
def F.GPIO_OE.OE : Fld := ⟨R.GPIO_OE, 31, 0⟩
/-- 18 T18.6. -/
def R.GPIO_IN : Nat := 0x1b0008
def F.GPIO_IN.IN : Fld := ⟨R.GPIO_IN, 31, 0⟩
/-- 18 T18.6. -/
def R.GPIO_TIN_CFG : Nat := 0x1b0010
def F.GPIO_TIN_CFG.LEVEL : Fld := ⟨R.GPIO_TIN_CFG, 31, 24⟩
def F.GPIO_TIN_CFG.EDGE : Fld := ⟨R.GPIO_TIN_CFG, 15, 0⟩
/-- 18 T18.6. -/
def R.GPIO_TOUT_CFG (i : Nat) : Nat := 0x1b0020 + 0x4 * i
def F.GPIO_TOUT_CFG.EN (i : Nat) : Fld := ⟨(R.GPIO_TOUT_CFG i), 31, 31⟩
def F.GPIO_TOUT_CFG.POL (i : Nat) : Fld := ⟨(R.GPIO_TOUT_CFG i), 30, 30⟩
def F.GPIO_TOUT_CFG.TRIG (i : Nat) : Fld := ⟨(R.GPIO_TOUT_CFG i), 27, 24⟩
def F.GPIO_TOUT_CFG.WIDTH (i : Nat) : Fld := ⟨(R.GPIO_TOUT_CFG i), 23, 0⟩

/-! ### The register map, block by block -/

/-- Registers whose base lies in block offset 0x00_0000. -/
def regMap00 : List RegDef := [
  ⟨"SYS_ID", 0x0, [], 0x4b589600, [⟨31, 0, .ro⟩]⟩,
  ⟨"SYS_REV", 0x4, [], 0x100, [⟨15, 8, .ro⟩, ⟨7, 0, .ro⟩]⟩,
  ⟨"SYS_CAPS", 0x8, [], 0x10086030, [⟨31, 24, .ro⟩, ⟨23, 16, .ro⟩, ⟨15, 8, .ro⟩, ⟨7, 0, .ro⟩]⟩,
  ⟨"SYS_LOCK", 0xc, [], 0x0, [⟨0, 0, .w1s⟩]⟩,
  ⟨"SYS_RESET", 0x10, [], 0x0, [⟨31, 31, .wo⟩, ⟨15, 8, .ro⟩, ⟨2, 0, .ro⟩]⟩]

/-- Registers whose base lies in block offset 0x01_0000. -/
def regMap01 : List RegDef := [
  ⟨"SEC_KEYSTAT", 0x10000, [], 0x0, [⟨11, 8, .ro⟩, ⟨3, 0, .ro⟩]⟩,
  ⟨"SEC_REVOKE", 0x10004, [], 0x0, [⟨3, 0, .w1s⟩]⟩,
  ⟨"SEC_ROLLBACK", 0x10008, [], 0x0, [⟨5, 0, .ro⟩]⟩,
  ⟨"SEC_BOOT", 0x1000c, [], 0x0, [⟨31, 31, .wo⟩, ⟨25, 24, .ro⟩, ⟨21, 20, .ro⟩, ⟨17, 16, .ro⟩, ⟨13, 12, .ro⟩, ⟨1, 0, .ro⟩]⟩,
  ⟨"SEC_STAGE_LO", 0x10010, [], 0x0, [⟨31, 21, .rwl⟩]⟩,
  ⟨"SEC_STAGE_HI", 0x10014, [], 0x0, [⟨7, 0, .rwl⟩]⟩]

/-- Registers whose base lies in block offset 0x02_0000. -/
def regMap02 : List RegDef := [
  ⟨"FAB_LOAD_ADDR_LO", 0x20000, [], 0x0, [⟨31, 3, .rw⟩]⟩,
  ⟨"FAB_LOAD_ADDR_HI", 0x20004, [], 0x0, [⟨7, 0, .rw⟩]⟩,
  ⟨"FAB_LOAD_LEN", 0x20008, [], 0x0, [⟨24, 0, .rw⟩]⟩,
  ⟨"FAB_LOAD", 0x2000c, [], 0x0, [⟨23, 16, .wo⟩, ⟨1, 1, .wo⟩, ⟨0, 0, .wo⟩]⟩,
  ⟨"FAB_LOAD_STAT", 0x20010, [], 0xff0000, [⟨31, 31, .ro⟩, ⟨27, 24, .ro⟩, ⟨23, 16, .ro⟩, ⟨7, 0, .ro⟩]⟩,
  ⟨"FAB_REGION_STAT", 0x20014, [], 0x0, [⟨23, 16, .ro⟩, ⟨15, 8, .ro⟩, ⟨7, 0, .ro⟩]⟩,
  ⟨"FAB_QUIESCE_TMO", 0x20018, [], 0x64, [⟨15, 0, .rw⟩]⟩,
  ⟨"FAB_RETAIN_LO", 0x20020, [], 0x0, [⟨31, 21, .rwl⟩]⟩,
  ⟨"FAB_RETAIN_HI", 0x20024, [], 0x0, [⟨7, 0, .rwl⟩]⟩,
  ⟨"FAB_IMG_VER", 0x20028, [], 0x0, [⟨15, 0, .ro⟩]⟩,
  ⟨"FAB_IMG_BUILD_LO", 0x20030, [], 0x0, [⟨31, 0, .ro⟩]⟩,
  ⟨"FAB_IMG_BUILD_HI", 0x20034, [], 0x0, [⟨31, 0, .ro⟩]⟩,
  ⟨"FAB_COMMIT", 0x20040, [], 0x0, [⟨3, 0, .wo⟩]⟩,
  ⟨"FAB_COMMIT_PEND", 0x20044, [], 0x0, [⟨15, 0, .ro⟩]⟩]

/-- Registers whose base lies in block offset 0x03_0000. -/
def regMap03a : List RegDef := [
  ⟨"FAB_TILE_ID", 0x30000, [(0x1000, 48)], 0x0, [⟨15, 8, .ro⟩, ⟨7, 0, .ro⟩]⟩,
  ⟨"FAB_TILE_STAT", 0x30004, [(0x1000, 48)], 0x0, [⟨31, 31, .ro⟩, ⟨27, 24, .ro⟩, ⟨15, 0, .rc⟩]⟩,
  ⟨"ING_CFG", 0x30010, [(0x1000, 2), (0x800, 2)], 0xc0000, [⟨31, 31, .rws⟩, ⟨30, 29, .rws⟩, ⟨28, 27, .rws⟩, ⟨26, 24, .rws⟩, ⟨22, 20, .rws⟩, ⟨19, 16, .rws⟩]⟩,
  ⟨"ING_CFG", 0x32010, [(0x1000, 2), (0x800, 2)], 0xc0000, [⟨31, 31, .rws⟩, ⟨30, 29, .rws⟩, ⟨28, 27, .rws⟩, ⟨26, 24, .rws⟩, ⟨23, 23, .rws⟩, ⟨22, 20, .rws⟩, ⟨19, 16, .rws⟩]⟩,
  ⟨"ING_FMT", 0x30014, [(0x1000, 4), (0x800, 2)], 0x0, [⟨30, 16, .rws⟩, ⟨14, 0, .rws⟩]⟩,
  ⟨"ING_FILL", 0x30018, [(0x1000, 4), (0x800, 2)], 0x0, [⟨15, 0, .rws⟩]⟩,
  ⟨"ING_SGEN", 0x3001c, [(0x1000, 4), (0x800, 2)], 0x0, [⟨31, 16, .ro⟩, ⟨15, 0, .rw⟩]⟩,
  ⟨"ING_XSOFF", 0x30020, [(0x1000, 4), (0x800, 2)], 0x0, [⟨31, 0, .rws⟩]⟩,
  ⟨"ING_FREC_LO", 0x30024, [(0x1000, 4), (0x800, 2)], 0x0, [⟨31, 6, .rw⟩]⟩,
  ⟨"ING_FREC_HI", 0x30028, [(0x1000, 4), (0x800, 2)], 0x0, [⟨15, 0, .rw⟩]⟩,
  ⟨"ING_FREC_CTL", 0x3002c, [(0x1000, 4), (0x800, 2)], 0x4, [⟨31, 16, .ro⟩, ⟨4, 0, .rw⟩]⟩,
  ⟨"ING_FQ_LO", 0x30030, [(0x1000, 4), (0x800, 2)], 0x0, [⟨31, 16, .rw⟩]⟩,
  ⟨"ING_FQ_HI", 0x30034, [(0x1000, 4), (0x800, 2)], 0x0, [⟨15, 0, .rw⟩]⟩,
  ⟨"ING_SEQ_LO", 0x30038, [(0x1000, 4), (0x800, 2)], 0x0, [⟨31, 0, .ro⟩]⟩,
  ⟨"ING_SEQ_HI", 0x3003c, [(0x1000, 4), (0x800, 2)], 0x0, [⟨11, 0, .ro⟩]⟩,
  ⟨"ING_STAT", 0x30040, [(0x1000, 4), (0x800, 2)], 0x0, [⟨31, 16, .rc⟩, ⟨15, 8, .rc⟩, ⟨7, 0, .rc⟩]⟩,
  ⟨"ING_STAT2", 0x30044, [(0x1000, 4), (0x800, 2)], 0x0, [⟨31, 31, .w1c⟩, ⟨26, 24, .ro⟩, ⟨15, 0, .rc⟩]⟩,
  ⟨"ING_PB_LO", 0x32050, [(0x1000, 2), (0x800, 2)], 0x0, [⟨31, 6, .rw⟩]⟩,
  ⟨"ING_PB_HI", 0x32054, [(0x1000, 2), (0x800, 2)], 0x0, [⟨15, 0, .rw⟩]⟩,
  ⟨"ING_PB_CTL", 0x32058, [(0x1000, 2), (0x800, 2)], 0x4, [⟨31, 16, .ro⟩, ⟨3, 0, .rw⟩]⟩,
  ⟨"ING_PB_WIDX", 0x3205c, [(0x1000, 2), (0x800, 2)], 0x0, [⟨15, 0, .rw⟩]⟩,
  ⟨"RWC_CTRL", 0x34010, [(0x1000, 4), (0x800, 2)], 0x0, [⟨31, 31, .rws⟩, ⟨30, 30, .rws⟩, ⟨29, 29, .rws⟩, ⟨28, 28, .rws⟩, ⟨27, 27, .rws⟩]⟩,
  ⟨"RWC_SITE_IDX", 0x34014, [(0x1000, 4), (0x800, 2)], 0x0, [⟨5, 0, .rw⟩]⟩,
  ⟨"RWC_SITE_BLACK", 0x34018, [(0x1000, 4), (0x800, 2)], 0x0, [⟨19, 0, .rws⟩]⟩,
  ⟨"RWC_SITE_GAIN", 0x3401c, [(0x1000, 4), (0x800, 2)], 0x3f8000, [⟨23, 0, .rws⟩]⟩,
  ⟨"RWC_DEF_LO", 0x34020, [(0x1000, 4), (0x800, 2)], 0x0, [⟨31, 6, .rws⟩]⟩,
  ⟨"RWC_DEF_HI", 0x34024, [(0x1000, 4), (0x800, 2)], 0x0, [⟨15, 0, .rws⟩]⟩,
  ⟨"RWC_DEF_CNT", 0x34028, [(0x1000, 4), (0x800, 2)], 0x0, [⟨18, 0, .rws⟩]⟩,
  ⟨"RWC_DYN", 0x3402c, [(0x1000, 4), (0x800, 2)], 0x0, [⟨23, 0, .rws⟩]⟩,
  ⟨"RWC_SHD_LO", 0x34030, [(0x1000, 4), (0x800, 2)], 0x0, [⟨31, 6, .rws⟩]⟩,
  ⟨"RWC_SHD_HI", 0x34034, [(0x1000, 4), (0x800, 2)], 0x0, [⟨15, 0, .rws⟩]⟩]

/-- Registers whose base lies in block offset 0x03_0000. -/
def regMap03b : List RegDef := [
  ⟨"RWC_SHD_GEOM", 0x34038, [(0x1000, 4), (0x800, 2)], 0x2020505, [⟨31, 24, .rws⟩, ⟨23, 16, .rws⟩, ⟨11, 8, .rws⟩, ⟨3, 0, .rws⟩]⟩,
  ⟨"RWC_STAT", 0x3403c, [(0x1000, 4), (0x800, 2)], 0x0, [⟨31, 16, .rc⟩, ⟨15, 0, .rc⟩]⟩,
  ⟨"DMS_CFG", 0x38010, [(0x1000, 4), (0x800, 2)], 0x41000, [⟨31, 30, .rws⟩, ⟨29, 29, .rws⟩, ⟨19, 16, .rws⟩, ⟨12, 8, .rws⟩]⟩,
  ⟨"DMS_INFO", 0x38014, [(0x1000, 4), (0x800, 2)], 0x0, [⟨23, 20, .ro⟩, ⟨19, 16, .ro⟩, ⟨15, 8, .ro⟩, ⟨2, 0, .ro⟩]⟩,
  ⟨"COL_CTRL", 0x3c010, [(0x1000, 8), (0x800, 2)], 0x0, [⟨31, 31, .rws⟩, ⟨30, 30, .rws⟩, ⟨29, 29, .rws⟩, ⟨28, 28, .rws⟩, ⟨27, 27, .rws⟩, ⟨9, 9, .rws⟩, ⟨8, 8, .rws⟩, ⟨2, 0, .rws⟩]⟩,
  ⟨"COL_TF", 0x3c014, [(0x1000, 8), (0x800, 2)], 0x0, [⟨9, 9, .rws⟩, ⟨8, 8, .rws⟩, ⟨7, 4, .rws⟩, ⟨3, 0, .rws⟩]⟩,
  ⟨"COL_COEF_IDX", 0x3c018, [(0x1000, 8), (0x800, 2)], 0x0, [⟨5, 0, .rw⟩]⟩,
  ⟨"COL_COEF_DATA", 0x3c01c, [(0x1000, 8), (0x800, 2)], 0x0, [⟨23, 0, .rws⟩]⟩,
  ⟨"COL_L1D_LO", 0x3c020, [(0x1000, 8), (0x800, 2)], 0x0, [⟨31, 6, .rws⟩]⟩,
  ⟨"COL_L1D_HI", 0x3c024, [(0x1000, 8), (0x800, 2)], 0x0, [⟨15, 0, .rws⟩]⟩,
  ⟨"COL_L3D_LO", 0x3c028, [(0x1000, 8), (0x800, 2)], 0x0, [⟨31, 6, .rws⟩]⟩,
  ⟨"COL_L3D_HI", 0x3c02c, [(0x1000, 8), (0x800, 2)], 0x0, [⟨15, 0, .rws⟩]⟩,
  ⟨"COL_STAT", 0x3c030, [(0x1000, 8), (0x800, 2)], 0x0, [⟨31, 16, .rc⟩, ⟨15, 0, .rc⟩]⟩]

/-- Registers whose base lies in block offset 0x04_0000. -/
def regMap04a : List RegDef := [
  ⟨"GEO_CFG", 0x44010, [(0x1000, 6), (0x800, 2)], 0x0, [⟨31, 31, .rws⟩, ⟨30, 30, .rws⟩]⟩,
  ⟨"GEO_OSIZE", 0x44014, [(0x1000, 6), (0x800, 2)], 0x7800438, [⟨30, 16, .rws⟩, ⟨14, 0, .rws⟩]⟩,
  ⟨"GEO_A", 0x44018, [(0x1000, 6), (0x800, 2), (0x4, 6)], 0x0, [⟨31, 0, .rws⟩]⟩,
  ⟨"GEO_WARP_LO", 0x44030, [(0x1000, 6), (0x800, 2)], 0x0, [⟨31, 6, .rws⟩]⟩,
  ⟨"GEO_WARP_HI", 0x44034, [(0x1000, 6), (0x800, 2)], 0x0, [⟨15, 0, .rws⟩]⟩,
  ⟨"GEO_WARP_GEOM", 0x44038, [(0x1000, 6), (0x800, 2)], 0x2020505, [⟨31, 24, .rws⟩, ⟨23, 16, .rws⟩, ⟨11, 8, .rws⟩, ⟨3, 0, .rws⟩]⟩,
  ⟨"GEO_FILT_LO", 0x4403c, [(0x1000, 6), (0x800, 2)], 0x0, [⟨31, 6, .rws⟩]⟩,
  ⟨"GEO_FILT_HI", 0x44040, [(0x1000, 6), (0x800, 2)], 0x0, [⟨15, 0, .rws⟩]⟩,
  ⟨"GEO_FILL", 0x44044, [(0x1000, 6), (0x800, 2), (0x4, 4)], 0x0, [⟨23, 0, .rws⟩]⟩,
  ⟨"GEO_STAT", 0x44054, [(0x1000, 6), (0x800, 2)], 0x0, [⟨31, 0, .rc⟩]⟩,
  ⟨"STA_CFG", 0x4a010, [(0x1000, 4), (0x800, 2)], 0x4000800, [⟨31, 31, .rws⟩, ⟨30, 30, .rws⟩, ⟨29, 29, .rws⟩, ⟨28, 28, .rws⟩, ⟨27, 26, .rws⟩, ⟨20, 16, .rws⟩, ⟨11, 8, .rws⟩]⟩,
  ⟨"STA_FORG", 0x4a014, [(0x1000, 4), (0x800, 2)], 0x0, [⟨31, 16, .rws⟩, ⟨15, 0, .rws⟩]⟩,
  ⟨"STA_FCELL", 0x4a018, [(0x1000, 4), (0x800, 2)], 0x1000100, [⟨31, 16, .rws⟩, ⟨15, 0, .rws⟩]⟩,
  ⟨"STA_AORG", 0x4a01c, [(0x1000, 4), (0x800, 2)], 0x0, [⟨31, 16, .rws⟩, ⟨15, 0, .rws⟩]⟩,
  ⟨"STA_ACELL", 0x4a020, [(0x1000, 4), (0x800, 2)], 0x1000100, [⟨31, 16, .rws⟩, ⟨15, 0, .rws⟩]⟩,
  ⟨"STA_GRIDN", 0x4a024, [(0x1000, 4), (0x800, 2)], 0x10102018, [⟨31, 24, .rws⟩, ⟨23, 16, .rws⟩, ⟨15, 8, .rws⟩, ⟨7, 0, .rws⟩]⟩,
  ⟨"STA_CLIP", 0x4a028, [(0x1000, 4), (0x800, 2)], 0xffff, [⟨15, 0, .rws⟩]⟩,
  ⟨"STA_REC_LO", 0x4a02c, [(0x1000, 4), (0x800, 2)], 0x0, [⟨31, 16, .rw⟩]⟩,
  ⟨"STA_REC_HI", 0x4a030, [(0x1000, 4), (0x800, 2)], 0x0, [⟨15, 0, .rw⟩]⟩,
  ⟨"STA_REC_CTL", 0x4a034, [(0x1000, 4), (0x800, 2)], 0x2, [⟨31, 16, .ro⟩, ⟨3, 0, .rw⟩]⟩,
  ⟨"STA_TAP_LO", 0x4a038, [(0x1000, 4), (0x800, 2)], 0x0, [⟨31, 16, .rw⟩]⟩,
  ⟨"STA_TAP_HI", 0x4a03c, [(0x1000, 4), (0x800, 2)], 0x0, [⟨15, 0, .rw⟩]⟩,
  ⟨"STA_TAP_SLOT", 0x4a040, [(0x1000, 4), (0x800, 2)], 0x0, [⟨15, 0, .rw⟩]⟩,
  ⟨"STA_TAP_CTL", 0x4a044, [(0x1000, 4), (0x800, 2)], 0x0, [⟨31, 30, .rws⟩, ⟨19, 16, .rw⟩, ⟨11, 8, .rws⟩, ⟨3, 0, .ro⟩]⟩,
  ⟨"STA_STAT", 0x4a048, [(0x1000, 4), (0x800, 2)], 0x0, [⟨31, 16, .rc⟩, ⟨15, 0, .rc⟩]⟩,
  ⟨"SYN_CFG", 0x4e010, [(0x1000, 4), (0x800, 2)], 0xc0000, [⟨31, 31, .rws⟩, ⟨30, 30, .rws⟩, ⟨29, 29, .rws⟩, ⟨28, 28, .rws⟩, ⟨27, 27, .rws⟩, ⟨26, 26, .rws⟩, ⟨19, 16, .rws⟩]⟩,
  ⟨"SYN_SITE_IDX", 0x4e014, [(0x1000, 4), (0x800, 2)], 0x0, [⟨5, 0, .rw⟩]⟩,
  ⟨"SYN_SITE_BLACK", 0x4e018, [(0x1000, 4), (0x800, 2)], 0x0, [⟨19, 0, .rws⟩]⟩,
  ⟨"SYN_SITE_GAIN", 0x4e01c, [(0x1000, 4), (0x800, 2)], 0x3f8000, [⟨23, 0, .rws⟩]⟩,
  ⟨"SYN_COEF_IDX", 0x4e020, [(0x1000, 4), (0x800, 2)], 0x0, [⟨3, 0, .rw⟩]⟩]

/-- Registers whose base lies in block offset 0x04_0000. -/
def regMap04b : List RegDef := [
  ⟨"SYN_COEF_DATA", 0x4e024, [(0x1000, 4), (0x800, 2)], 0x0, [⟨23, 0, .rws⟩]⟩,
  ⟨"SYN_SEED_LO", 0x4e028, [(0x1000, 4), (0x800, 2)], 0x0, [⟨31, 0, .rws⟩]⟩,
  ⟨"SYN_SEED_HI", 0x4e02c, [(0x1000, 4), (0x800, 2)], 0x0, [⟨31, 0, .rws⟩]⟩,
  ⟨"SYN_SHD_LO", 0x4e030, [(0x1000, 4), (0x800, 2)], 0x0, [⟨31, 6, .rws⟩]⟩,
  ⟨"SYN_SHD_HI", 0x4e034, [(0x1000, 4), (0x800, 2)], 0x0, [⟨15, 0, .rws⟩]⟩,
  ⟨"SYN_SHD_GEOM", 0x4e038, [(0x1000, 4), (0x800, 2)], 0x2020505, [⟨31, 24, .rws⟩, ⟨23, 16, .rws⟩, ⟨11, 8, .rws⟩, ⟨3, 0, .rws⟩]⟩,
  ⟨"SYN_DEF_LO", 0x4e03c, [(0x1000, 4), (0x800, 2)], 0x0, [⟨31, 6, .rws⟩]⟩,
  ⟨"SYN_DEF_HI", 0x4e040, [(0x1000, 4), (0x800, 2)], 0x0, [⟨15, 0, .rws⟩]⟩,
  ⟨"SYN_DEF_CNT", 0x4e044, [(0x1000, 4), (0x800, 2)], 0x0, [⟨18, 0, .rws⟩]⟩,
  ⟨"SYN_XGW", 0x4e048, [(0x1000, 4), (0x800, 2)], 0x0, [⟨31, 31, .rws⟩, ⟨30, 29, .rws⟩, ⟨28, 27, .rws⟩, ⟨20, 16, .rws⟩, ⟨15, 0, .rws⟩]⟩,
  ⟨"SYN_STAT", 0x4e04c, [(0x1000, 4), (0x800, 2)], 0x0, [⟨31, 16, .rc⟩, ⟨15, 0, .rc⟩]⟩]

/-- Registers whose base lies in block offset 0x05_0000. -/
def regMap05a : List RegDef := [
  ⟨"PAT_CFG", 0x52010, [(0x1000, 2), (0x800, 2)], 0x8000000, [⟨31, 31, .rws⟩, ⟨30, 29, .rws⟩, ⟨28, 27, .rws⟩, ⟨26, 26, .rws⟩, ⟨19, 16, .rws⟩]⟩,
  ⟨"PAT_SIZE", 0x52014, [(0x1000, 2), (0x800, 2)], 0x7800438, [⟨30, 16, .rws⟩, ⟨14, 0, .rws⟩]⟩,
  ⟨"PAT_PERIOD", 0x52018, [(0x1000, 2), (0x800, 2)], 0x7f28ce, [⟨31, 0, .rws⟩]⟩,
  ⟨"PAT_PROG_LO", 0x5201c, [(0x1000, 2), (0x800, 2)], 0x0, [⟨31, 6, .rw⟩]⟩,
  ⟨"PAT_PROG_HI", 0x52020, [(0x1000, 2), (0x800, 2)], 0x0, [⟨15, 0, .rw⟩]⟩,
  ⟨"PAT_PROG_CNT", 0x52024, [(0x1000, 2), (0x800, 2)], 0x0, [⟨8, 0, .rws⟩]⟩,
  ⟨"PAT_SGEN", 0x52028, [(0x1000, 2), (0x800, 2)], 0x0, [⟨15, 0, .rw⟩]⟩,
  ⟨"PAT_SEED_LO", 0x5202c, [(0x1000, 2), (0x800, 2)], 0x0, [⟨31, 0, .rws⟩]⟩,
  ⟨"PAT_SEED_HI", 0x52030, [(0x1000, 2), (0x800, 2)], 0x0, [⟨31, 0, .rws⟩]⟩,
  ⟨"PAT_FREC_LO", 0x52034, [(0x1000, 2), (0x800, 2)], 0x0, [⟨31, 6, .rw⟩]⟩,
  ⟨"PAT_FREC_HI", 0x52038, [(0x1000, 2), (0x800, 2)], 0x0, [⟨15, 0, .rw⟩]⟩,
  ⟨"PAT_FREC_CTL", 0x5203c, [(0x1000, 2), (0x800, 2)], 0x4, [⟨31, 16, .ro⟩, ⟨4, 0, .rw⟩]⟩,
  ⟨"PAT_SEQ_LO", 0x52040, [(0x1000, 2), (0x800, 2)], 0x0, [⟨31, 0, .ro⟩]⟩,
  ⟨"PAT_SEQ_HI", 0x52044, [(0x1000, 2), (0x800, 2)], 0x0, [⟨11, 0, .ro⟩]⟩,
  ⟨"PAT_STAT", 0x52048, [(0x1000, 2), (0x800, 2)], 0x0, [⟨31, 31, .w1c⟩, ⟨15, 0, .rc⟩]⟩,
  ⟨"ANA_CFG", 0x54010, [(0x1000, 4), (0x800, 2)], 0x0, [⟨31, 31, .rws⟩, ⟨30, 30, .rws⟩, ⟨29, 29, .rws⟩, ⟨28, 28, .rws⟩, ⟨27, 27, .rws⟩, ⟨26, 26, .rws⟩, ⟨25, 25, .rws⟩, ⟨24, 24, .rws⟩, ⟨23, 23, .rws⟩, ⟨22, 22, .rws⟩, ⟨20, 16, .rws⟩, ⟨12, 10, .rws⟩]⟩,
  ⟨"ANA_MATCH", 0x54014, [(0x1000, 4), (0x800, 2)], 0x80000000, [⟨31, 30, .rws⟩, ⟨29, 16, .rws⟩, ⟨15, 0, .rws⟩]⟩,
  ⟨"ANA_SHIFT", 0x54018, [(0x1000, 4), (0x800, 2)], 0x80a0a00, [⟨31, 30, .rws⟩, ⟨27, 24, .rws⟩, ⟨19, 16, .rws⟩, ⟨11, 8, .rws⟩]⟩,
  ⟨"ANA_THR", 0x5401c, [(0x1000, 4), (0x800, 2)], 0xffff0000, [⟨31, 16, .rws⟩, ⟨15, 0, .rws⟩]⟩,
  ⟨"ANA_LEGAL0", 0x54020, [(0x1000, 4), (0x800, 2)], 0x3ac0040, [⟨31, 16, .rws⟩, ⟨15, 0, .rws⟩]⟩,
  ⟨"ANA_LEGALC", 0x54024, [(0x1000, 4), (0x800, 2)], 0x3c00040, [⟨31, 16, .rws⟩, ⟨15, 0, .rws⟩]⟩,
  ⟨"ANA_EGAIN", 0x54028, [(0x1000, 4), (0x800, 2)], 0x3f8000, [⟨23, 0, .rws⟩]⟩,
  ⟨"ANA_BQ_LO", 0x5402c, [(0x1000, 4), (0x800, 2)], 0x0, [⟨31, 16, .rw⟩]⟩,
  ⟨"ANA_BQ_HI", 0x54030, [(0x1000, 4), (0x800, 2)], 0x0, [⟨15, 0, .rw⟩]⟩,
  ⟨"ANA_BQ_CTL", 0x54034, [(0x1000, 4), (0x800, 2)], 0x1000000, [⟨31, 28, .rw⟩, ⟨27, 27, .rw⟩, ⟨25, 24, .rw⟩, ⟨15, 0, .rw⟩]⟩,
  ⟨"ANA_REC_LO", 0x54038, [(0x1000, 4), (0x800, 2)], 0x0, [⟨31, 16, .rw⟩]⟩,
  ⟨"ANA_REC_HI", 0x5403c, [(0x1000, 4), (0x800, 2)], 0x0, [⟨15, 0, .rw⟩]⟩,
  ⟨"ANA_REC_CTL", 0x54040, [(0x1000, 4), (0x800, 2)], 0x2, [⟨31, 16, .ro⟩, ⟨3, 0, .rw⟩]⟩,
  ⟨"ANA_LCRC_LO", 0x54044, [(0x1000, 4), (0x800, 2)], 0x0, [⟨31, 16, .rw⟩]⟩,
  ⟨"ANA_LCRC_HI", 0x54048, [(0x1000, 4), (0x800, 2)], 0x0, [⟨15, 0, .rw⟩]⟩]

/-- Registers whose base lies in block offset 0x05_0000. -/
def regMap05b : List RegDef := [
  ⟨"ANA_PATCH_LO", 0x5404c, [(0x1000, 4), (0x800, 2)], 0x0, [⟨31, 6, .rws⟩]⟩,
  ⟨"ANA_PATCH_HI", 0x54050, [(0x1000, 4), (0x800, 2)], 0x0, [⟨15, 0, .rws⟩]⟩,
  ⟨"ANA_PATCH_CNT", 0x54054, [(0x1000, 4), (0x800, 2)], 0x0, [⟨6, 0, .rws⟩]⟩,
  ⟨"ANA_REF_LO", 0x54058, [(0x1000, 4), (0x800, 2)], 0x0, [⟨31, 6, .rws⟩]⟩,
  ⟨"ANA_REF_HI", 0x5405c, [(0x1000, 4), (0x800, 2)], 0x0, [⟨15, 0, .rws⟩]⟩,
  ⟨"ANA_REF_FMT", 0x54060, [(0x1000, 4), (0x800, 2)], 0x0, [⟨31, 30, .rws⟩, ⟨11, 0, .rws⟩]⟩,
  ⟨"ANA_REF_SIZE", 0x54064, [(0x1000, 4), (0x800, 2)], 0x0, [⟨30, 16, .rws⟩, ⟨14, 0, .rws⟩]⟩,
  ⟨"ANA_STAT", 0x54068, [(0x1000, 4), (0x800, 2)], 0x0, [⟨31, 16, .rc⟩, ⟨15, 0, .rc⟩]⟩,
  ⟨"ANA_STAT2", 0x5406c, [(0x1000, 4), (0x800, 2)], 0x0, [⟨31, 16, .rc⟩, ⟨15, 8, .rc⟩, ⟨2, 0, .ro⟩]⟩,
  ⟨"CMX_CFG", 0x58010, [(0x1000, 4), (0x800, 2)], 0x80000000, [⟨31, 30, .rws⟩, ⟨29, 29, .rws⟩]⟩,
  ⟨"CMX_POS", 0x58014, [(0x1000, 4), (0x800, 2)], 0x0, [⟨31, 16, .rws⟩, ⟨15, 0, .rws⟩]⟩,
  ⟨"CMX_GALPHA", 0x58018, [(0x1000, 4), (0x800, 2)], 0x3f8000, [⟨23, 0, .rws⟩]⟩,
  ⟨"CMX_OVL_LO", 0x5801c, [(0x1000, 4), (0x800, 2)], 0x0, [⟨31, 6, .rws⟩]⟩,
  ⟨"CMX_OVL_HI", 0x58020, [(0x1000, 4), (0x800, 2)], 0x0, [⟨15, 0, .rws⟩]⟩,
  ⟨"CMX_OVL_FMT", 0x58024, [(0x1000, 4), (0x800, 2)], 0x0, [⟨11, 0, .rws⟩]⟩,
  ⟨"CMX_OVL_SIZE", 0x58028, [(0x1000, 4), (0x800, 2)], 0x0, [⟨30, 16, .rws⟩, ⟨14, 0, .rws⟩]⟩,
  ⟨"CMX_BBUF_LO", 0x5802c, [(0x1000, 4), (0x800, 2)], 0x0, [⟨31, 16, .rw⟩]⟩,
  ⟨"CMX_BBUF_HI", 0x58030, [(0x1000, 4), (0x800, 2)], 0x0, [⟨15, 0, .rw⟩]⟩,
  ⟨"CMX_BBUF_CTL", 0x58034, [(0x1000, 4), (0x800, 2)], 0x0, [⟨31, 28, .rw⟩, ⟨15, 0, .rw⟩]⟩,
  ⟨"CMX_STAT", 0x58038, [(0x1000, 4), (0x800, 2)], 0x0, [⟨31, 16, .rc⟩, ⟨15, 0, .rc⟩]⟩,
  ⟨"OPK_CFG", 0x5c010, [(0x1000, 4), (0x800, 2)], 0xa0000, [⟨31, 29, .rws⟩, ⟨28, 28, .rws⟩, ⟨27, 27, .rws⟩, ⟨26, 26, .rws⟩, ⟨19, 16, .rws⟩]⟩,
  ⟨"OPK_BUF_LO", 0x5c014, [(0x1000, 4), (0x800, 2)], 0x0, [⟨31, 16, .rw⟩]⟩,
  ⟨"OPK_BUF_HI", 0x5c018, [(0x1000, 4), (0x800, 2)], 0x0, [⟨15, 0, .rw⟩]⟩,
  ⟨"OPK_BUF_CTL", 0x5c01c, [(0x1000, 4), (0x800, 2)], 0x20000, [⟨17, 16, .rw⟩, ⟨15, 0, .rw⟩]⟩,
  ⟨"OPK_REC_LO", 0x5c020, [(0x1000, 4), (0x800, 2)], 0x0, [⟨31, 6, .rw⟩]⟩,
  ⟨"OPK_REC_HI", 0x5c024, [(0x1000, 4), (0x800, 2)], 0x0, [⟨15, 0, .rw⟩]⟩,
  ⟨"OPK_REC_CTL", 0x5c028, [(0x1000, 4), (0x800, 2)], 0x4, [⟨31, 16, .ro⟩, ⟨4, 0, .rw⟩]⟩,
  ⟨"OPK_STAT", 0x5c02c, [(0x1000, 4), (0x800, 2)], 0x0, [⟨31, 16, .rc⟩, ⟨1, 0, .ro⟩]⟩]

/-- Registers whose base lies in block offset 0x06_0000. -/
def regMap06 : List RegDef := [
  ⟨"LNK_CTRL", 0x60000, [(0x400, 96)], 0x240, [⟨9, 9, .rw⟩, ⟨8, 8, .rw⟩, ⟨7, 6, .rw⟩]⟩,
  ⟨"LNK_STAT", 0x60004, [(0x400, 96)], 0x0, [⟨31, 31, .ro⟩, ⟨30, 30, .ro⟩, ⟨29, 29, .ro⟩, ⟨28, 28, .ro⟩, ⟨26, 24, .ro⟩, ⟨18, 16, .ro⟩, ⟨15, 8, .rc⟩, ⟨7, 0, .rc⟩]⟩,
  ⟨"LNK_RATE", 0x60008, [(0x400, 96)], 0x0, [⟨16, 16, .ro⟩, ⟨15, 0, .ro⟩]⟩,
  ⟨"LNK_TXEQ", 0x6000c, [(0x400, 96)], 0x0, [⟨31, 31, .rw⟩, ⟨20, 16, .rw⟩, ⟨12, 8, .rw⟩, ⟨3, 0, .rw⟩]⟩,
  ⟨"LNK_RXEQ", 0x60010, [(0x400, 96)], 0x0, [⟨31, 31, .rw⟩, ⟨19, 16, .rw⟩, ⟨13, 8, .ro⟩]⟩,
  ⟨"LNK_DFE0", 0x60014, [(0x400, 96)], 0x0, [⟨31, 24, .ro⟩, ⟨23, 16, .ro⟩, ⟨15, 8, .ro⟩, ⟨7, 0, .ro⟩]⟩,
  ⟨"LNK_DFE1", 0x60018, [(0x400, 96)], 0x0, [⟨31, 24, .ro⟩, ⟨23, 16, .ro⟩, ⟨15, 8, .ro⟩, ⟨7, 0, .ro⟩]⟩,
  ⟨"LNK_FOM", 0x6001c, [(0x400, 96)], 0x0, [⟨31, 24, .ro⟩, ⟨23, 16, .ro⟩, ⟨15, 8, .ro⟩, ⟨7, 0, .ro⟩]⟩,
  ⟨"LNK_DET", 0x60020, [(0x400, 96)], 0x20084285, [⟨31, 24, .rw⟩, ⟨23, 16, .rw⟩, ⟨15, 12, .rw⟩, ⟨11, 8, .rw⟩, ⟨7, 4, .rw⟩, ⟨3, 0, .rw⟩]⟩,
  ⟨"LNK_RECAL", 0x60024, [(0x400, 96)], 0x0, [⟨31, 31, .ro⟩, ⟨27, 24, .ro⟩, ⟨23, 16, .ro⟩, ⟨15, 8, .ro⟩, ⟨1, 1, .wo⟩, ⟨0, 0, .wo⟩]⟩,
  ⟨"LNK_SLIP", 0x60028, [(0x400, 96)], 0x0, [⟨31, 31, .ro⟩, ⟨20, 16, .ro⟩, ⟨12, 8, .ro⟩, ⟨0, 0, .wo⟩]⟩,
  ⟨"LNK_PRBS", 0x6002c, [(0x400, 96)], 0x0, [⟨31, 31, .ro⟩, ⟨11, 8, .rw⟩, ⟨1, 1, .rw⟩, ⟨0, 0, .rw⟩]⟩,
  ⟨"LNK_ERRCNT", 0x60030, [(0x400, 96)], 0x0, [⟨31, 0, .rc⟩]⟩]

/-- Registers whose base lies in block offset 0x07_0000. -/
def regMap07 : List RegDef := [
  ⟨"LNK_REFCFG", 0x78000, [], 0x0, [⟨19, 16, .rw⟩, ⟨9, 9, .rw⟩, ⟨8, 8, .rw⟩, ⟨0, 0, .rw⟩]⟩,
  ⟨"LNK_REFSTAT", 0x78004, [], 0x0, [⟨1, 1, .ro⟩, ⟨0, 0, .ro⟩]⟩,
  ⟨"LNK_PRESET", 0x78100, [(0x20, 6), (0x4, 5)], 0x0, [⟨27, 24, .rw⟩, ⟨20, 16, .rw⟩, ⟨12, 8, .rw⟩, ⟨3, 0, .rw⟩]⟩]

/-- Registers whose base lies in block offset 0x08_0000. -/
def regMap08 : List RegDef := [
  ⟨"SLK_RXCFG", 0x80000, [(0x100, 2)], 0x37000000, [⟨31, 31, .rw⟩, ⟨30, 30, .rw⟩, ⟨29, 28, .rw⟩, ⟨26, 24, .rw⟩, ⟨15, 0, .rw⟩]⟩,
  ⟨"SLK_TXCFG", 0x80004, [(0x100, 2)], 0x37050000, [⟨31, 31, .rw⟩, ⟨30, 30, .rw⟩, ⟨29, 28, .rw⟩, ⟨26, 24, .rw⟩, ⟨23, 16, .rw⟩, ⟨15, 0, .rw⟩]⟩,
  ⟨"SLK_STAT", 0x80008, [(0x100, 2)], 0x0, [⟨31, 29, .ro⟩, ⟨28, 26, .ro⟩, ⟨25, 24, .ro⟩, ⟨23, 22, .ro⟩, ⟨21, 21, .ro⟩, ⟨20, 20, .ro⟩, ⟨15, 0, .ro⟩]⟩,
  ⟨"SLK_ERR", 0x8000c, [(0x100, 2)], 0x0, [⟨31, 16, .rc⟩, ⟨15, 8, .rc⟩, ⟨7, 0, .rc⟩]⟩,
  ⟨"SLK_XSCOMP", 0x80010, [(0x100, 2)], 0x0, [⟨15, 0, .rw⟩]⟩,
  ⟨"SLK_SYNCCTL", 0x80014, [(0x100, 2)], 0x0, [⟨31, 30, .rw⟩, ⟨29, 29, .rw⟩, ⟨15, 0, .rw⟩]⟩,
  ⟨"SLK_HSYNC", 0x80018, [(0x100, 2)], 0x0, [⟨31, 16, .rw⟩, ⟨13, 0, .rw⟩]⟩,
  ⟨"SLK_VSCAP", 0x8001c, [(0x100, 2)], 0x0, [⟨31, 0, .ro⟩]⟩,
  ⟨"SLK_EMU", 0x80020, [(0x100, 2)], 0x0, [⟨31, 31, .rw⟩, ⟨30, 30, .rw⟩, ⟨29, 29, .rw⟩, ⟨28, 28, .rw⟩]⟩,
  ⟨"SLK_EMU_LINE", 0x80024, [(0x100, 2)], 0x0, [⟨15, 0, .rw⟩]⟩,
  ⟨"SLK_EMU_XS", 0x80028, [(0x100, 2)], 0x0, [⟨31, 0, .rw⟩]⟩,
  ⟨"SLK_EMU_STAT", 0x8002c, [(0x100, 2)], 0x0, [⟨31, 16, .rc⟩, ⟨15, 0, .rc⟩]⟩,
  ⟨"SLK_EMU_FCNT", 0x80030, [(0x100, 2)], 0x0, [⟨17, 16, .rw⟩, ⟨15, 0, .rw⟩]⟩]

/-- Registers whose base lies in block offset 0x09_0000. -/
def regMap09 : List RegDef := [
  ⟨"SCP_CFG", 0x90000, [(0x1000, 4)], 0x7, [⟨31, 31, .rw⟩, ⟨30, 30, .rw⟩, ⟨29, 29, .rw⟩, ⟨28, 28, .rw⟩, ⟨22, 16, .rw⟩, ⟨15, 0, .rw⟩]⟩,
  ⟨"SCP_FMT", 0x90004, [(0x1000, 4)], 0xa, [⟨31, 24, .rw⟩, ⟨23, 16, .rw⟩, ⟨4, 4, .rw⟩, ⟨3, 2, .rw⟩, ⟨1, 0, .rw⟩]⟩,
  ⟨"SCP_CMD", 0x90008, [(0x1000, 4)], 0x0, [⟨31, 16, .rw⟩, ⟨15, 0, .rw⟩]⟩,
  ⟨"SCP_CMDCTL", 0x9000c, [(0x1000, 4)], 0x0, [⟨31, 31, .ro⟩, ⟨30, 28, .ro⟩, ⟨17, 17, .wo⟩, ⟨16, 16, .wo⟩, ⟨15, 0, .ro⟩]⟩,
  ⟨"SCP_BMEM_IDX", 0x90010, [(0x1000, 4)], 0x0, [⟨9, 0, .rw⟩]⟩,
  ⟨"SCP_BMEM_DATA", 0x90014, [(0x1000, 4)], 0x0, [⟨31, 16, .rw⟩, ⟨15, 0, .rw⟩]⟩,
  ⟨"SCP_TGT_CFG", 0x90020, [(0x1000, 4)], 0x0, [⟨31, 31, .rw⟩, ⟨30, 30, .rw⟩, ⟨29, 28, .rw⟩, ⟨15, 0, .rw⟩]⟩,
  ⟨"SCP_TFILE_ADDR", 0x90024, [(0x1000, 4)], 0x0, [⟨15, 0, .rw⟩]⟩,
  ⟨"SCP_TFILE_DATA", 0x90028, [(0x1000, 4)], 0x0, [⟨15, 0, .rw⟩]⟩,
  ⟨"SCP_TGT_STAT", 0x9002c, [(0x1000, 4)], 0x0, [⟨31, 16, .rc⟩, ⟨15, 0, .rc⟩]⟩,
  ⟨"SCP_BDESC", 0x90040, [(0x1000, 4), (0x10, 4)], 0x0, [⟨31, 31, .w1s⟩, ⟨30, 30, .wo⟩, ⟨29, 27, .ro⟩, ⟨26, 26, .ro⟩, ⟨25, 16, .rw⟩, ⟨9, 0, .rw⟩]⟩,
  ⟨"SCP_BSGEN", 0x90044, [(0x1000, 4), (0x10, 4)], 0x0, [⟨31, 31, .rw⟩, ⟨30, 30, .rw⟩, ⟨23, 16, .rw⟩, ⟨15, 0, .rw⟩]⟩,
  ⟨"SCP_BTIME", 0x90048, [(0x1000, 4), (0x10, 4)], 0x0, [⟨31, 0, .rw⟩]⟩,
  ⟨"SCP_BPROG", 0x9004c, [(0x1000, 4), (0x10, 4)], 0x0, [⟨10, 0, .ro⟩]⟩]

/-- Registers whose base lies in block offset 0x0A_0000. -/
def regMap0A : List RegDef := [
  ⟨"SDI_GLK_CFG", 0xa0000, [], 0x0, [⟨31, 30, .rw⟩, ⟨26, 24, .rw⟩, ⟨16, 16, .rw⟩]⟩,
  ⟨"SDI_GLK_STAT", 0xa0004, [], 0x0, [⟨31, 31, .ro⟩, ⟨30, 30, .ro⟩]⟩,
  ⟨"SDI_TCOFS", 0xa0008, [], 0x0, [⟨31, 0, .rw⟩]⟩,
  ⟨"SDI_TG_CFG", 0xa0100, [(0x10, 4)], 0x9000000, [⟨31, 31, .rw⟩, ⟨27, 24, .rw⟩]⟩,
  ⟨"SDI_TG_OFFS", 0xa0104, [(0x10, 4)], 0x0, [⟨31, 0, .rw⟩]⟩,
  ⟨"SDI_TG_STAT", 0xa0108, [(0x10, 4)], 0x0, [⟨31, 31, .ro⟩, ⟨23, 16, .rc⟩, ⟨15, 0, .ro⟩]⟩,
  ⟨"SDI_OUT_CFG", 0xa1000, [(0x100, 16)], 0x0, [⟨31, 31, .rw⟩, ⟨30, 30, .rw⟩, ⟨29, 28, .rw⟩, ⟨25, 24, .rw⟩, ⟨16, 16, .rw⟩]⟩,
  ⟨"SDI_OUT_FMT", 0xa1004, [(0x100, 16)], 0x29000000, [⟨31, 28, .rw⟩, ⟨27, 24, .rw⟩, ⟨21, 20, .rw⟩, ⟨19, 19, .rw⟩]⟩,
  ⟨"SDI_OUT_PIDV", 0xa1008, [(0x100, 16)], 0x0, [⟨31, 0, .rw⟩]⟩,
  ⟨"SDI_OUT_TC", 0xa100c, [(0x100, 16)], 0x0, [⟨31, 30, .rw⟩, ⟨29, 29, .rw⟩, ⟨26, 24, .rw⟩]⟩,
  ⟨"SDI_OUT_TCVAL", 0xa1010, [(0x100, 16)], 0x0, [⟨31, 0, .rw⟩]⟩,
  ⟨"SDI_OUT_AUD", 0xa1014, [(0x100, 16)], 0x0, [⟨31, 28, .rw⟩, ⟨15, 0, .rw⟩]⟩,
  ⟨"SDI_OUT_STAT", 0xa1018, [(0x100, 16)], 0x0, [⟨31, 16, .rc⟩, ⟨15, 8, .rc⟩, ⟨7, 4, .rc⟩, ⟨3, 3, .ro⟩]⟩,
  ⟨"SDI_OUT_AUDSTAT", 0xa101c, [(0x100, 16)], 0x0, [⟨15, 0, .rc⟩]⟩,
  ⟨"SDI_IN_CFG", 0xa3000, [(0x100, 8)], 0x0, [⟨31, 31, .rw⟩]⟩,
  ⟨"SDI_IN_STAT", 0xa3004, [(0x100, 8)], 0x0, [⟨31, 31, .ro⟩, ⟨30, 30, .ro⟩, ⟨27, 24, .ro⟩, ⟨23, 20, .ro⟩, ⟨17, 16, .ro⟩, ⟨2, 0, .ro⟩]⟩,
  ⟨"SDI_IN_ERR", 0xa3008, [(0x100, 8)], 0x0, [⟨31, 16, .rc⟩, ⟨15, 8, .rc⟩, ⟨7, 0, .rc⟩]⟩]

/-- Registers whose base lies in block offset 0x0B_0000. -/
def regMap0B : List RegDef := [
  ⟨"VCE_CFG", 0xb0000, [], 0x3000000, [⟨31, 31, .rw⟩, ⟨27, 24, .rw⟩, ⟨17, 16, .rw⟩]⟩,
  ⟨"VCE_STAT", 0xb0004, [], 0x0, [⟨29, 24, .ro⟩, ⟨13, 8, .ro⟩, ⟨1, 0, .ro⟩]⟩,
  ⟨"VCE_CTX_DESC_LO", 0xb1000, [(0x40, 32)], 0x0, [⟨31, 6, .rw⟩]⟩,
  ⟨"VCE_CTX_DESC_HI", 0xb1004, [(0x40, 32)], 0x0, [⟨15, 0, .rw⟩]⟩,
  ⟨"VCE_CTX_SAVE_LO", 0xb1008, [(0x40, 32)], 0x0, [⟨31, 17, .rw⟩]⟩,
  ⟨"VCE_CTX_SAVE_HI", 0xb100c, [(0x40, 32)], 0x0, [⟨15, 0, .rw⟩]⟩,
  ⟨"VCE_CTX_CTRL", 0xb1010, [(0x40, 32)], 0x0, [⟨31, 31, .wo⟩, ⟨30, 30, .wo⟩, ⟨29, 29, .wo⟩, ⟨28, 28, .wo⟩, ⟨27, 27, .wo⟩, ⟨26, 24, .ro⟩, ⟨15, 8, .ro⟩]⟩,
  ⟨"VCE_CTX_JOB", 0xb1014, [(0x40, 32)], 0x0, [⟨31, 16, .ro⟩, ⟨15, 0, .rw⟩]⟩,
  ⟨"VCE_CTX_BS_WPTR", 0xb1018, [(0x40, 32)], 0x0, [⟨31, 0, .ro⟩]⟩,
  ⟨"VCE_CTX_BS_RPTR", 0xb101c, [(0x40, 32)], 0x0, [⟨31, 0, .rw⟩]⟩,
  ⟨"VCE_CTX_REP", 0xb1020, [(0x40, 32)], 0x0, [⟨31, 16, .ro⟩]⟩,
  ⟨"VCE_CTX_OUT", 0xb1024, [(0x40, 32)], 0x0, [⟨23, 16, .ro⟩, ⟨7, 0, .rw⟩]⟩,
  ⟨"VCE_CTX_STAT1", 0xb1028, [(0x40, 32)], 0x0, [⟨31, 16, .rc⟩, ⟨15, 8, .rc⟩, ⟨7, 0, .rc⟩]⟩,
  ⟨"VCE_CTX_STAT2", 0xb102c, [(0x40, 32)], 0x0, [⟨31, 16, .rc⟩, ⟨15, 8, .rc⟩, ⟨7, 0, .rc⟩]⟩]

/-- Registers whose base lies in block offset 0x0C_0000. -/
def regMap0C : List RegDef := [
  ⟨"CMP_CFG", 0xc0000, [], 0x0, [⟨31, 31, .rw⟩]⟩,
  ⟨"CMP_STAT", 0xc0004, [], 0x0, [⟨5, 0, .ro⟩]⟩,
  ⟨"CMP_ABORT", 0xc0008, [], 0x0, [⟨31, 31, .wo⟩, ⟨26, 24, .wo⟩, ⟨1, 0, .ro⟩]⟩,
  ⟨"CMP_ABORT_ID", 0xc000c, [], 0x0, [⟨31, 0, .rw⟩]⟩,
  ⟨"CMP_Q_CTL", 0xc0100, [(0x40, 8)], 0x10000004, [⟨31, 31, .rw⟩, ⟨29, 28, .rw⟩, ⟨20, 16, .rw⟩, ⟨3, 0, .rw⟩]⟩,
  ⟨"CMP_Q_SQ_LO", 0xc0104, [(0x40, 8)], 0x0, [⟨31, 6, .rw⟩]⟩,
  ⟨"CMP_Q_SQ_HI", 0xc0108, [(0x40, 8)], 0x0, [⟨15, 0, .rw⟩]⟩,
  ⟨"CMP_Q_CQ_LO", 0xc010c, [(0x40, 8)], 0x0, [⟨31, 6, .rw⟩]⟩,
  ⟨"CMP_Q_CQ_HI", 0xc0110, [(0x40, 8)], 0x0, [⟨15, 0, .rw⟩]⟩,
  ⟨"CMP_Q_SQ_IDX", 0xc0114, [(0x40, 8)], 0x0, [⟨31, 16, .ro⟩, ⟨15, 0, .rw⟩]⟩,
  ⟨"CMP_Q_CQ_IDX", 0xc0118, [(0x40, 8)], 0x0, [⟨31, 16, .ro⟩, ⟨15, 0, .rw⟩]⟩,
  ⟨"CMP_Q_STAT", 0xc011c, [(0x40, 8)], 0x0, [⟨31, 16, .rc⟩, ⟨15, 8, .rc⟩, ⟨7, 0, .rc⟩]⟩,
  ⟨"CMP_ENG_SAVE_LO", 0xc0400, [(0x20, 6)], 0x0, [⟨31, 19, .rw⟩]⟩,
  ⟨"CMP_ENG_SAVE_HI", 0xc0404, [(0x20, 6)], 0x0, [⟨15, 0, .rw⟩]⟩,
  ⟨"CMP_ENG_STAT", 0xc0408, [(0x20, 6)], 0x0, [⟨26, 24, .ro⟩, ⟨18, 16, .ro⟩, ⟨15, 0, .ro⟩]⟩]

/-- Registers whose base lies in block offset 0x0D_0000. -/
def regMap0D : List RegDef := [
  ⟨"DRC_CTRL", 0xd0000, [(0x4000, 8)], 0x0, [⟨31, 31, .wo⟩, ⟨30, 30, .wo⟩, ⟨29, 29, .wo⟩, ⟨28, 28, .wo⟩, ⟨26, 24, .ro⟩, ⟨22, 20, .ro⟩, ⟨19, 16, .ro⟩]⟩,
  ⟨"DRC_SR", 0xd0004, [(0x4000, 8)], 0x3e8, [⟨31, 31, .rw⟩, ⟨15, 0, .rw⟩]⟩,
  ⟨"DRC_WQ", 0xd0008, [(0x4000, 8)], 0x3010, [⟨13, 8, .rw⟩, ⟨5, 0, .rw⟩]⟩,
  ⟨"DRC_ERR", 0xd000c, [(0x4000, 8)], 0x0, [⟨31, 24, .rc⟩, ⟨23, 16, .rc⟩, ⟨15, 8, .rc⟩, ⟨7, 0, .rc⟩]⟩,
  ⟨"DRC_PERR_LO", 0xd0010, [(0x4000, 8)], 0x0, [⟨31, 6, .ro⟩]⟩,
  ⟨"DRC_PERR_HI", 0xd0014, [(0x4000, 8)], 0x0, [⟨31, 31, .w1c⟩, ⟨30, 30, .ro⟩, ⟨29, 24, .ro⟩, ⟨22, 16, .ro⟩, ⟨7, 0, .ro⟩]⟩,
  ⟨"DRC_RTRN", 0xd0018, [(0x4000, 8)], 0x0, [⟨31, 16, .rc⟩, ⟨7, 0, .rc⟩]⟩,
  ⟨"DRC_MAPCTL", 0xd2000, [], 0x0, [⟨31, 31, .w1s⟩, ⟨7, 0, .ro⟩]⟩,
  ⟨"DRC_MASKLO", 0xd2010, [(0x8, 8)], 0x0, [⟨31, 0, .rw⟩]⟩,
  ⟨"DRC_MASKHI", 0xd2014, [(0x8, 8)], 0x0, [⟨15, 0, .rw⟩]⟩,
  ⟨"DRC_HOME0", 0xd2050, [], 0xb0a0908, [⟨29, 24, .rw⟩, ⟨21, 16, .rw⟩, ⟨13, 8, .rw⟩, ⟨5, 0, .rw⟩]⟩,
  ⟨"DRC_HOME1", 0xd2054, [], 0xf0e0d0c, [⟨29, 24, .rw⟩, ⟨21, 16, .rw⟩, ⟨13, 8, .rw⟩, ⟨5, 0, .rw⟩]⟩,
  ⟨"DRC_HINT", 0xd2058, [(0x4, 2)], 0x0, [⟨31, 0, .rw⟩]⟩,
  ⟨"DRC_PAGE", 0xd2060, [], 0x100, [⟨15, 0, .rw⟩]⟩,
  ⟨"DRC_BAND", 0xd2070, [(0x4, 5)], 0x0, [⟨31, 30, .rw⟩, ⟨29, 28, .rw⟩, ⟨27, 16, .rw⟩, ⟨11, 8, .rw⟩, ⟨7, 4, .rw⟩, ⟨3, 0, .rw⟩]⟩]

/-- Registers whose base lies in block offset 0x0F_0000. -/
def regMap0F : List RegDef := [
  ⟨"STP_PERIOD", 0xf0000, [], 0x1000, [⟨15, 0, .ro⟩]⟩,
  ⟨"STP_COUNT", 0xf0004, [], 0x0, [⟨31, 0, .ro⟩]⟩,
  ⟨"STP_POOL", 0xf0008, [], 0x0, [⟨17, 0, .ro⟩]⟩,
  ⟨"STP_CL_CFG", 0xf0100, [(0x10, 32)], 0x87000000, [⟨31, 30, .ro⟩, ⟨26, 24, .ro⟩, ⟨17, 0, .ro⟩]⟩,
  ⟨"STP_CL_LAST", 0xf0104, [(0x10, 32)], 0x0, [⟨17, 0, .ro⟩]⟩,
  ⟨"STP_CL_PEAK", 0xf0108, [(0x10, 32)], 0x0, [⟨17, 0, .rc⟩]⟩,
  ⟨"STP_CL_STAT", 0xf010c, [(0x10, 32)], 0x0, [⟨31, 16, .rc⟩, ⟨15, 0, .rc⟩]⟩]

/-- Registers whose base lies in block offset 0x10_0000. -/
def regMap10 : List RegDef := [
  ⟨"CAD_AVAIL", 0x100000, [], 0xffff2000, [⟨31, 16, .ro⟩, ⟨13, 0, .ro⟩]⟩,
  ⟨"CAD_FREE", 0x100004, [], 0x20002000, [⟨29, 16, .rc⟩, ⟨13, 0, .ro⟩]⟩,
  ⟨"CAD_ERR", 0x100008, [], 0x0, [⟨15, 0, .rc⟩]⟩,
  ⟨"CAD_CL_CFG", 0x100100, [(0x10, 8)], 0x0, [⟨29, 16, .ro⟩, ⟨13, 0, .ro⟩]⟩,
  ⟨"CAD_CL_SHARE", 0x100104, [(0x10, 8)], 0x4920001, [⟨29, 16, .ro⟩, ⟨15, 0, .ro⟩]⟩,
  ⟨"CAD_CL_HELD", 0x100108, [(0x10, 8)], 0x0, [⟨29, 16, .rc⟩, ⟨13, 0, .ro⟩]⟩,
  ⟨"CAD_CL_STAT", 0x10010c, [(0x10, 8)], 0x0, [⟨31, 16, .rc⟩, ⟨15, 0, .ro⟩]⟩]

/-- Registers whose base lies in block offset 0x11_0000. -/
def regMap11 : List RegDef := [
  ⟨"MMU_CTL", 0x110000, [], 0xa, [⟨31, 31, .w1s⟩, ⟨15, 0, .rw⟩]⟩,
  ⟨"MMU_FAULT_PEND0", 0x110004, [], 0x0, [⟨31, 0, .ro⟩]⟩,
  ⟨"MMU_FAULT_PEND1", 0x110008, [], 0x0, [⟨10, 0, .ro⟩]⟩,
  ⟨"MMU_INV", 0x110010, [], 0x0, [⟨31, 31, .wo⟩, ⟨30, 30, .ro⟩, ⟨29, 28, .rw⟩, ⟨19, 16, .rw⟩, ⟨15, 0, .rw⟩]⟩,
  ⟨"MMU_INV_VA_LO", 0x110014, [], 0x0, [⟨31, 16, .rw⟩]⟩,
  ⟨"MMU_INV_VA_HI", 0x110018, [], 0x0, [⟨15, 0, .rw⟩]⟩,
  ⟨"MMU_RESUME", 0x11001c, [], 0x0, [⟨31, 31, .wo⟩, ⟨25, 24, .ro⟩, ⟨8, 8, .wo⟩, ⟨5, 0, .wo⟩]⟩,
  ⟨"MMU_SPACE_LO", 0x110100, [(0x8, 16)], 0x0, [⟨31, 21, .rw⟩]⟩,
  ⟨"MMU_SPACE_HI", 0x110104, [(0x8, 16)], 0x0, [⟨7, 0, .rw⟩]⟩,
  ⟨"MMU_UNIT_CFG", 0x110200, [(0x20, 43)], 0x0, [⟨3, 0, .rw⟩]⟩,
  ⟨"MMU_UNIT_FLT_LO", 0x110204, [(0x20, 43)], 0x0, [⟨31, 0, .ro⟩]⟩,
  ⟨"MMU_UNIT_FLT_HI", 0x110208, [(0x20, 43)], 0x0, [⟨31, 31, .ro⟩, ⟨30, 30, .ro⟩, ⟨29, 29, .ro⟩, ⟨26, 24, .ro⟩, ⟨15, 0, .ro⟩]⟩,
  ⟨"MMU_UNIT_STAT", 0x11020c, [(0x20, 43)], 0x0, [⟨31, 16, .rc⟩, ⟨15, 8, .rc⟩, ⟨7, 0, .rc⟩]⟩,
  ⟨"MMU_DMA_CTL", 0x110800, [(0x40, 4)], 0x1f0004, [⟨31, 31, .rw⟩, ⟨20, 16, .rw⟩, ⟨3, 0, .rw⟩]⟩,
  ⟨"MMU_DMA_SQ_LO", 0x110804, [(0x40, 4)], 0x0, [⟨31, 6, .rw⟩]⟩,
  ⟨"MMU_DMA_SQ_HI", 0x110808, [(0x40, 4)], 0x0, [⟨15, 0, .rw⟩]⟩,
  ⟨"MMU_DMA_CQ_LO", 0x11080c, [(0x40, 4)], 0x0, [⟨31, 6, .rw⟩]⟩,
  ⟨"MMU_DMA_CQ_HI", 0x110810, [(0x40, 4)], 0x0, [⟨15, 0, .rw⟩]⟩,
  ⟨"MMU_DMA_SQ_IDX", 0x110814, [(0x40, 4)], 0x0, [⟨31, 16, .ro⟩, ⟨15, 0, .rw⟩]⟩,
  ⟨"MMU_DMA_CQ_IDX", 0x110818, [(0x40, 4)], 0x0, [⟨31, 16, .ro⟩, ⟨15, 0, .rw⟩]⟩,
  ⟨"MMU_DMA_STAT", 0x11081c, [(0x40, 4)], 0x0, [⟨31, 16, .rc⟩, ⟨15, 8, .rc⟩, ⟨7, 0, .rc⟩]⟩]

/-- Registers whose base lies in block offset 0x12_0000. -/
def regMap12 : List RegDef := [
  ⟨"ETH_CFG", 0x120000, [(0x1000, 2)], 0x5dc, [⟨31, 31, .rw⟩, ⟨30, 28, .rw⟩, ⟨27, 26, .rw⟩, ⟨25, 25, .rw⟩, ⟨13, 0, .rw⟩]⟩,
  ⟨"ETH_STAT", 0x120004, [(0x1000, 2)], 0x0, [⟨31, 28, .ro⟩, ⟨27, 26, .ro⟩, ⟨25, 25, .ro⟩]⟩,
  ⟨"ETH_MAC_LO", 0x120008, [(0x1000, 2)], 0x0, [⟨31, 0, .rwl⟩]⟩,
  ⟨"ETH_MAC_HI", 0x12000c, [(0x1000, 2)], 0x0, [⟨15, 0, .rwl⟩]⟩,
  ⟨"ETH_SP_IP", 0x120010, [(0x1000, 2), (0x10, 4)], 0x0, [⟨31, 0, .rw⟩]⟩,
  ⟨"ETH_SP_MASK", 0x120014, [(0x1000, 2), (0x10, 4)], 0x0, [⟨31, 0, .rw⟩]⟩,
  ⟨"ETH_SP_GW", 0x120018, [(0x1000, 2), (0x10, 4)], 0x0, [⟨31, 0, .rw⟩]⟩,
  ⟨"ETH_PFC", 0x120050, [(0x1000, 2)], 0x701a, [⟨31, 24, .rw⟩, ⟨23, 16, .rw⟩, ⟨15, 13, .rw⟩, ⟨12, 12, .rw⟩, ⟨5, 0, .rw⟩]⟩,
  ⟨"ETH_TSCORR", 0x120054, [(0x1000, 2), (0x4, 4)], 0x0, [⟨31, 16, .rw⟩, ⟨15, 0, .rw⟩]⟩,
  ⟨"ETH_CNT0", 0x120064, [(0x1000, 2)], 0x0, [⟨31, 16, .rc⟩, ⟨15, 0, .rc⟩]⟩,
  ⟨"ETH_CNT1", 0x120068, [(0x1000, 2)], 0x0, [⟨31, 24, .rc⟩, ⟨23, 16, .rc⟩, ⟨15, 0, .rc⟩]⟩,
  ⟨"ETH_MGMT", 0x122000, [], 0x8000bab8, [⟨31, 31, .rw⟩, ⟨30, 30, .rw⟩, ⟨15, 0, .rw⟩]⟩,
  ⟨"ETH_RETRY", 0x122004, [], 0xe000707, [⟨28, 24, .rw⟩, ⟨10, 8, .rw⟩, ⟨2, 0, .rw⟩]⟩,
  ⟨"ETH_KEYTAB_LO", 0x122008, [], 0x0, [⟨31, 6, .rw⟩]⟩,
  ⟨"ETH_KEYTAB_HI", 0x12200c, [], 0x0, [⟨15, 0, .rw⟩]⟩,
  ⟨"ETH_QP_SEL", 0x122010, [], 0x0, [⟨31, 31, .wo⟩, ⟨5, 0, .rw⟩]⟩,
  ⟨"ETH_QP_STAT", 0x122014, [], 0x0, [⟨31, 30, .ro⟩, ⟨29, 29, .ro⟩, ⟨28, 27, .ro⟩, ⟨26, 25, .ro⟩, ⟨23, 0, .ro⟩]⟩]

/-- Registers whose base lies in block offset 0x13_0000. -/
def regMap13 : List RegDef := [
  ⟨"CCP_CTL", 0x130000, [], 0x0, [⟨31, 31, .rw⟩, ⟨30, 30, .rw⟩, ⟨0, 0, .ro⟩]⟩,
  ⟨"CCP_STAT", 0x130004, [], 0x0, [⟨31, 16, .ro⟩, ⟨10, 0, .ro⟩]⟩,
  ⟨"CCP_STORE_LO", 0x130008, [], 0x0, [⟨31, 21, .rw⟩]⟩,
  ⟨"CCP_STORE_HI", 0x13000c, [], 0x0, [⟨15, 0, .rw⟩]⟩,
  ⟨"CCP_STORE_BLKS", 0x130010, [], 0x0, [⟨26, 0, .rw⟩]⟩,
  ⟨"CCP_INDEX_LO", 0x130014, [], 0x0, [⟨31, 21, .rw⟩]⟩,
  ⟨"CCP_INDEX_HI", 0x130018, [], 0x0, [⟨15, 0, .rw⟩]⟩,
  ⟨"CCP_RWIN_LO", 0x13001c, [], 0x0, [⟨31, 21, .rw⟩]⟩,
  ⟨"CCP_RWIN_HI", 0x130020, [], 0x0, [⟨15, 0, .rw⟩]⟩,
  ⟨"CCP_RKEY", 0x130024, [], 0x0, [⟨31, 0, .rw⟩]⟩,
  ⟨"CCP_FREE", 0x130028, [], 0x0, [⟨17, 0, .ro⟩]⟩,
  ⟨"CCP_ERR", 0x13002c, [], 0x0, [⟨31, 24, .rc⟩, ⟨23, 16, .rc⟩, ⟨15, 0, .rc⟩]⟩,
  ⟨"CCP_LQ_CTL", 0x130040, [], 0x4, [⟨31, 31, .rw⟩, ⟨30, 30, .rw⟩, ⟨3, 0, .rw⟩]⟩,
  ⟨"CCP_LQ_SQ_LO", 0x130044, [], 0x0, [⟨31, 6, .rw⟩]⟩,
  ⟨"CCP_LQ_SQ_HI", 0x130048, [], 0x0, [⟨15, 0, .rw⟩]⟩,
  ⟨"CCP_LQ_CQ_LO", 0x13004c, [], 0x0, [⟨31, 4, .rw⟩]⟩,
  ⟨"CCP_LQ_CQ_HI", 0x130050, [], 0x0, [⟨15, 0, .rw⟩]⟩,
  ⟨"CCP_LQ_SQ_IDX", 0x130054, [], 0x0, [⟨31, 16, .ro⟩, ⟨15, 0, .rw⟩]⟩,
  ⟨"CCP_LQ_CQ_IDX", 0x130058, [], 0x0, [⟨31, 16, .ro⟩, ⟨15, 0, .rw⟩]⟩,
  ⟨"CCP_STR_STAT", 0x130100, [(0x10, 16)], 0x0, [⟨31, 30, .ro⟩, ⟨25, 16, .ro⟩, ⟨15, 0, .rc⟩]⟩,
  ⟨"CCP_STR_FRAMES", 0x130104, [(0x10, 16)], 0x0, [⟨31, 0, .ro⟩]⟩]

/-- Registers whose base lies in block offset 0x14_0000. -/
def regMap14a : List RegDef := [
  ⟨"TIM_CTL", 0x140000, [], 0x640000, [⟨31, 31, .rw⟩, ⟨30, 30, .rw⟩, ⟨23, 16, .rw⟩]⟩,
  ⟨"TIM_INC_LO", 0x140004, [], 0x0, [⟨31, 0, .rw⟩]⟩,
  ⟨"TIM_INC_HI", 0x140008, [], 0x2, [⟨3, 0, .rw⟩]⟩,
  ⟨"TIM_NOW_NS", 0x14000c, [], 0x0, [⟨29, 0, .ro⟩]⟩,
  ⟨"TIM_NOW_FRAC", 0x140010, [], 0x0, [⟨31, 0, .ro⟩]⟩,
  ⟨"TIM_NOW_SEC_LO", 0x140014, [], 0x0, [⟨31, 0, .ro⟩]⟩,
  ⟨"TIM_NOW_SEC_HI", 0x140018, [], 0x0, [⟨15, 0, .ro⟩]⟩,
  ⟨"TIM_SET_NS", 0x140020, [], 0x0, [⟨29, 0, .rw⟩]⟩,
  ⟨"TIM_SET_SEC_LO", 0x140024, [], 0x0, [⟨31, 0, .rw⟩]⟩,
  ⟨"TIM_SET_SEC_HI", 0x140028, [], 0x0, [⟨15, 0, .rw⟩]⟩,
  ⟨"TIM_OFFS", 0x14002c, [], 0x0, [⟨31, 0, .rw⟩]⟩,
  ⟨"TIM_STEP", 0x140030, [], 0x0, [⟨31, 31, .wo⟩, ⟨30, 30, .wo⟩, ⟨15, 0, .rc⟩]⟩,
  ⟨"TIM_SLEW", 0x140034, [], 0x0, [⟨31, 0, .rw⟩]⟩,
  ⟨"TIM_SLEW_STEP", 0x140038, [], 0x400000, [⟨31, 0, .rw⟩]⟩,
  ⟨"TIM_ROUTE", 0x140040, [], 0x0, [⟨29, 25, .rw⟩, ⟨24, 20, .rw⟩, ⟨19, 15, .rw⟩, ⟨14, 10, .rw⟩, ⟨9, 5, .rw⟩, ⟨4, 0, .rw⟩]⟩,
  ⟨"TIM_IRQ", 0x140044, [], 0x0, [⟨15, 0, .w1c⟩]⟩,
  ⟨"TIM_IRQ_EN", 0x140048, [], 0x0, [⟨15, 0, .rw⟩]⟩,
  ⟨"TIM_FSLAG", 0x14004c, [(0x4, 2)], 0x0, [⟨31, 0, .ro⟩]⟩,
  ⟨"TIM_PTP", 0x140060, [], 0x7f0000, [⟨31, 31, .rw⟩, ⟨30, 30, .rw⟩, ⟨23, 16, .rw⟩, ⟨1, 0, .rw⟩]⟩,
  ⟨"TIM_PTP_STAT", 0x140064, [], 0x0, [⟨31, 16, .rc⟩, ⟨15, 8, .rc⟩]⟩,
  ⟨"TIM_PRX_LO", 0x140068, [], 0x0, [⟨31, 6, .rw⟩]⟩,
  ⟨"TIM_PRX_HI", 0x14006c, [], 0x0, [⟨15, 0, .rw⟩]⟩,
  ⟨"TIM_PRX_CTL", 0x140070, [], 0x4, [⟨31, 16, .ro⟩, ⟨4, 0, .rw⟩]⟩,
  ⟨"TIM_PTX_LO", 0x140078, [], 0x0, [⟨31, 6, .rw⟩]⟩,
  ⟨"TIM_PTX_HI", 0x14007c, [], 0x0, [⟨15, 0, .rw⟩]⟩,
  ⟨"TIM_PTX_CTL", 0x140080, [], 0x4, [⟨31, 16, .ro⟩, ⟨4, 0, .rw⟩]⟩,
  ⟨"TIM_PTX_WIDX", 0x140084, [], 0x0, [⟨15, 0, .rw⟩]⟩,
  ⟨"TIM_TRG_CFG", 0x140100, [(0x20, 16)], 0x0, [⟨31, 31, .w1s⟩, ⟨30, 30, .wo⟩, ⟨29, 29, .rw⟩, ⟨7, 0, .rw⟩]⟩,
  ⟨"TIM_TRG_TIME", 0x140104, [(0x20, 16)], 0x0, [⟨31, 0, .rw⟩]⟩,
  ⟨"TIM_TRG_PERIOD", 0x140108, [(0x20, 16)], 0x0, [⟨31, 0, .rw⟩]⟩]

/-- Registers whose base lies in block offset 0x14_0000. -/
def regMap14b : List RegDef := [
  ⟨"TIM_TRG_PFRAC", 0x14010c, [(0x20, 16)], 0x0, [⟨31, 0, .rw⟩]⟩,
  ⟨"TIM_TRG_STAT", 0x140110, [(0x20, 16)], 0x0, [⟨31, 16, .rc⟩, ⟨15, 0, .rc⟩]⟩,
  ⟨"TIM_CAP_NS", 0x140300, [(0x10, 11)], 0x0, [⟨31, 31, .rc⟩, ⟨29, 0, .ro⟩]⟩,
  ⟨"TIM_CAP_SEC_LO", 0x140304, [(0x10, 11)], 0x0, [⟨31, 0, .ro⟩]⟩,
  ⟨"TIM_CAP_SEC_HI", 0x140308, [(0x10, 11)], 0x0, [⟨31, 24, .rc⟩, ⟨15, 0, .ro⟩]⟩,
  ⟨"TIM_CAP_FRAC", 0x14030c, [(0x10, 11)], 0x0, [⟨15, 0, .ro⟩]⟩]

/-- Registers whose base lies in block offset 0x15_0000. -/
def regMap15 : List RegDef := [
  ⟨"AUD_PLL_CFG", 0x150000, [], 0x280027, [⟨31, 31, .rw⟩, ⟨30, 29, .rw⟩, ⟨28, 28, .ro⟩, ⟨27, 27, .rw⟩, ⟨23, 16, .rw⟩, ⟨7, 0, .rw⟩]⟩,
  ⟨"AUD_PLL_NUM", 0x150004, [], 0x192, [⟨23, 0, .rw⟩]⟩,
  ⟨"AUD_PLL_DEN", 0x150008, [], 0x4e2, [⟨23, 0, .rw⟩]⟩,
  ⟨"AUD_GRP_CFG", 0x150010, [(0x4, 2)], 0x0, [⟨31, 31, .wo⟩, ⟨30, 30, .wo⟩, ⟨29, 28, .ro⟩, ⟨27, 27, .ro⟩, ⟨7, 0, .rw⟩]⟩,
  ⟨"AUD_P_CFG", 0x150100, [(0x80, 8)], 0x8012100, [⟨31, 31, .rw⟩, ⟨30, 30, .rw⟩, ⟨29, 29, .rw⟩, ⟨28, 27, .rw⟩, ⟨26, 26, .rw⟩, ⟨20, 16, .rw⟩, ⟨13, 12, .rw⟩, ⟨9, 8, .rw⟩]⟩,
  ⟨"AUD_P_DIV", 0x150104, [(0x80, 8)], 0x0, [⟨15, 0, .rw⟩]⟩,
  ⟨"AUD_P_DIVF", 0x150108, [(0x80, 8)], 0x1, [⟨31, 16, .rw⟩, ⟨15, 0, .rw⟩]⟩,
  ⟨"AUD_P_TXMASK", 0x15010c, [(0x80, 8)], 0x3, [⟨31, 0, .rw⟩]⟩,
  ⟨"AUD_P_RXMASK", 0x150110, [(0x80, 8)], 0x3, [⟨31, 0, .rw⟩]⟩,
  ⟨"AUD_P_TXACT", 0x150114, [(0x80, 8)], 0x3, [⟨31, 0, .ro⟩]⟩,
  ⟨"AUD_P_RXACT", 0x150118, [(0x80, 8)], 0x3, [⟨31, 0, .ro⟩]⟩,
  ⟨"AUD_P_TXMARK", 0x15011c, [(0x80, 8)], 0x0, [⟨31, 0, .ro⟩]⟩,
  ⟨"AUD_P_RXMARK", 0x150120, [(0x80, 8)], 0x0, [⟨31, 0, .ro⟩]⟩,
  ⟨"AUD_P_TXR_LO", 0x150124, [(0x80, 8)], 0x0, [⟨31, 6, .rw⟩]⟩,
  ⟨"AUD_P_TXR_HI", 0x150128, [(0x80, 8)], 0x0, [⟨15, 0, .rw⟩]⟩,
  ⟨"AUD_P_TXR_IDX", 0x15012c, [(0x80, 8)], 0x0, [⟨31, 16, .ro⟩, ⟨15, 0, .rw⟩]⟩,
  ⟨"AUD_P_RXR_LO", 0x150130, [(0x80, 8)], 0x0, [⟨31, 6, .rw⟩]⟩,
  ⟨"AUD_P_RXR_HI", 0x150134, [(0x80, 8)], 0x0, [⟨15, 0, .rw⟩]⟩,
  ⟨"AUD_P_RXR_IDX", 0x150138, [(0x80, 8)], 0x0, [⟨31, 16, .ro⟩, ⟨15, 0, .rw⟩]⟩,
  ⟨"AUD_P_RING", 0x15013c, [(0x80, 8)], 0x404, [⟨11, 8, .rw⟩, ⟨3, 0, .rw⟩]⟩,
  ⟨"AUD_P_FRAME_LO", 0x150140, [(0x80, 8)], 0x0, [⟨31, 0, .ro⟩]⟩,
  ⟨"AUD_P_FRAME_HI", 0x150144, [(0x80, 8)], 0x0, [⟨31, 0, .ro⟩]⟩,
  ⟨"AUD_P_STAT", 0x150148, [(0x80, 8)], 0x0, [⟨31, 16, .rc⟩, ⟨15, 0, .rc⟩]⟩,
  ⟨"AUD_P_STAT2", 0x15014c, [(0x80, 8)], 0x0, [⟨31, 16, .rc⟩, ⟨15, 0, .rc⟩]⟩,
  ⟨"AUD_STR_CFG", 0x150800, [(0x10, 16)], 0x2, [⟨31, 31, .rw⟩, ⟨30, 30, .rw⟩, ⟨29, 29, .ro⟩, ⟨26, 24, .rw⟩, ⟨21, 20, .rw⟩, ⟨12, 8, .rw⟩, ⟨3, 0, .rw⟩]⟩]

/-- Registers whose base lies in block offset 0x16_0000. -/
def regMap16 : List RegDef := [
  ⟨"PWR_CTL", 0x160000, [], 0x64, [⟨31, 31, .rw⟩, ⟨30, 30, .rw⟩, ⟨29, 29, .rw⟩, ⟨28, 28, .wo⟩, ⟨26, 24, .ro⟩, ⟨15, 0, .rw⟩]⟩,
  ⟨"PWR_TMR", 0x160004, [], 0xa00a3c, [⟨31, 20, .rw⟩, ⟨19, 8, .rw⟩, ⟨7, 0, .rw⟩]⟩,
  ⟨"PWR_WAKE_EN", 0x160008, [], 0x1ff, [⟨8, 0, .rw⟩]⟩,
  ⟨"PWR_WAKE_CAUSE", 0x16000c, [], 0x80000000, [⟨31, 31, .w1c⟩, ⟨8, 0, .w1c⟩]⟩,
  ⟨"PWR_WAKE_VEC_LO", 0x160010, [], 0x0, [⟨31, 2, .rw⟩]⟩,
  ⟨"PWR_WAKE_VEC_HI", 0x160014, [], 0x0, [⟨7, 0, .rw⟩]⟩,
  ⟨"PWR_CLKSEL", 0x160018, [], 0x0, [⟨0, 0, .rw⟩]⟩,
  ⟨"PWR_PLL", 0x16001c, [], 0x0, [⟨23, 16, .ro⟩, ⟨7, 0, .ro⟩]⟩,
  ⟨"PWR_KETTLE", 0x160020, [], 0x0, [⟨31, 31, .ro⟩, ⟨23, 16, .ro⟩, ⟨7, 0, .ro⟩]⟩,
  ⟨"PWR_INPUT", 0x160024, [], 0x0, [⟨31, 16, .ro⟩, ⟨15, 0, .ro⟩]⟩,
  ⟨"PWR_RAIL", 0x160028, [], 0x0, [⟨31, 31, .wo⟩, ⟨20, 16, .w1c⟩, ⟨4, 0, .ro⟩]⟩,
  ⟨"PWR_DOM", 0x160100, [(0x4, 148)], 0x10000064, [⟨31, 30, .ro⟩, ⟨29, 28, .ro⟩, ⟨27, 27, .rw⟩, ⟨15, 0, .ro⟩]⟩,
  ⟨"PWR_SRES_LO", 0x160400, [(0x8, 5)], 0x0, [⟨31, 0, .ro⟩]⟩,
  ⟨"PWR_SRES_HI", 0x160404, [(0x8, 5)], 0x0, [⟨31, 0, .ro⟩]⟩,
  ⟨"PWR_DRES_LO", 0x160800, [(0x8, 148)], 0x0, [⟨31, 0, .ro⟩]⟩,
  ⟨"PWR_DRES_HI", 0x160804, [(0x8, 148)], 0x0, [⟨31, 16, .ro⟩, ⟨15, 0, .ro⟩]⟩]

/-- Registers whose base lies in block offset 0x17_0000. -/
def regMap17 : List RegDef := [
  ⟨"THM_CTL", 0x170000, [], 0x0, [⟨31, 31, .rw⟩, ⟨29, 28, .rw⟩, ⟨27, 24, .rw⟩]⟩,
  ⟨"THM_STAT", 0x170004, [], 0x0, [⟨31, 31, .ro⟩, ⟨30, 28, .ro⟩, ⟨27, 26, .ro⟩, ⟨25, 22, .ro⟩, ⟨20, 16, .ro⟩, ⟨15, 0, .ro⟩]⟩,
  ⟨"THM_MASK", 0x170008, [], 0x0, [⟨23, 0, .rwl⟩]⟩,
  ⟨"THM_MODLIM", 0x17000c, [], 0x2f8, [⟨31, 31, .w1c⟩, ⟨15, 0, .rw⟩]⟩,
  ⟨"THM_SHDN", 0x170010, [], 0x0, [⟨31, 31, .w1c⟩, ⟨28, 24, .ro⟩, ⟨15, 0, .ro⟩]⟩,
  ⟨"THM_SHDN_COUNT", 0x170014, [], 0x0, [⟨31, 0, .ro⟩]⟩,
  ⟨"THM_BAND", 0x170040, [(0x4, 5)], 0x0, [⟨31, 30, .rw⟩, ⟨27, 24, .rw⟩]⟩,
  ⟨"THM_SENS", 0x170100, [(0x4, 26)], 0x0, [⟨31, 31, .ro⟩, ⟨30, 30, .ro⟩, ⟨29, 29, .ro⟩, ⟨15, 0, .ro⟩]⟩]

/-- Registers whose base lies in block offset 0x18_0000. -/
def regMap18 : List RegDef := [
  ⟨"EVT_CFG", 0x180000, [], 0x400, [⟨31, 31, .rw⟩, ⟨10, 8, .rw⟩, ⟨2, 0, .rwl⟩]⟩,
  ⟨"EVT_STAT", 0x180004, [], 0x0, [⟨22, 16, .ro⟩, ⟨6, 0, .ro⟩]⟩,
  ⟨"EVT_LAST_LO", 0x180008, [], 0x0, [⟨31, 0, .ro⟩]⟩,
  ⟨"EVT_LAST_HI", 0x18000c, [], 0x0, [⟨15, 0, .ro⟩]⟩,
  ⟨"EVT_OVER", 0x180010, [], 0x0, [⟨31, 0, .ro⟩]⟩,
  ⟨"EVT_LOSS", 0x180014, [], 0x0, [⟨31, 24, .ro⟩, ⟨23, 16, .ro⟩, ⟨15, 8, .ro⟩, ⟨7, 4, .ro⟩, ⟨3, 0, .ro⟩]⟩,
  ⟨"EVT_CLEAR", 0x180018, [], 0x0, [⟨31, 16, .wo⟩, ⟨15, 15, .ro⟩, ⟨2, 0, .wo⟩]⟩,
  ⟨"EVT_MIRROR_LO", 0x180020, [], 0x0, [⟨31, 6, .rw⟩]⟩,
  ⟨"EVT_MIRROR_HI", 0x180024, [], 0x0, [⟨15, 0, .rw⟩]⟩,
  ⟨"EVT_MIRROR_CTL", 0x180028, [], 0x4, [⟨31, 16, .ro⟩, ⟨4, 0, .rw⟩]⟩,
  ⟨"EVT_POST_DATA_LO", 0x180030, [], 0x0, [⟨31, 0, .rw⟩]⟩,
  ⟨"EVT_POST_DATA_HI", 0x180034, [], 0x0, [⟨31, 0, .rw⟩]⟩,
  ⟨"EVT_POST", 0x180038, [], 0x0, [⟨18, 16, .wo⟩, ⟨15, 0, .wo⟩]⟩]

/-- Registers whose base lies in block offset 0x19_0000. -/
def regMap19 : List RegDef := [
  ⟨"DBG_CTL", 0x190000, [], 0x7000000, [⟨31, 31, .wo⟩, ⟨30, 30, .rwl⟩, ⟨26, 24, .rwl⟩]⟩,
  ⟨"DBG_STAT", 0x190004, [], 0x0, [⟨31, 31, .ro⟩, ⟨30, 28, .ro⟩, ⟨7, 0, .ro⟩]⟩]

/-- Registers whose base lies in block offset 0x1A_0000. -/
def regMap1A : List RegDef := [
  ⟨"CPU_CORE_CTL", 0x1a0000, [(0x20, 4)], 0x0, [⟨31, 31, .w1s⟩, ⟨30, 30, .wo⟩, ⟨26, 24, .ro⟩]⟩,
  ⟨"CPU_CORE_VEC_LO", 0x1a0004, [(0x20, 4)], 0x0, [⟨31, 2, .rw⟩]⟩,
  ⟨"CPU_CORE_VEC_HI", 0x1a0008, [(0x20, 4)], 0x0, [⟨7, 0, .rw⟩]⟩,
  ⟨"CPU_IRQ_STAT", 0x1a0100, [], 0x0, [⟨31, 0, .w1c⟩]⟩,
  ⟨"CPU_IRQ_EN", 0x1a0104, [(0x4, 4)], 0x0, [⟨31, 0, .rw⟩]⟩,
  ⟨"CPU_WDOG", 0x1a0200, [], 0x3e80000, [⟨31, 31, .w1s⟩, ⟨30, 30, .rwl⟩, ⟨29, 16, .rwl⟩, ⟨15, 0, .wo⟩]⟩]

/-- Registers whose base lies in block offset 0x1B_0000. -/
def regMap1B : List RegDef := [
  ⟨"GPIO_OUT", 0x1b0000, [], 0x0, [⟨31, 0, .rw⟩]⟩,
  ⟨"GPIO_OE", 0x1b0004, [], 0x0, [⟨31, 0, .rw⟩]⟩,
  ⟨"GPIO_IN", 0x1b0008, [], 0x0, [⟨31, 0, .ro⟩]⟩,
  ⟨"GPIO_TIN_CFG", 0x1b0010, [], 0x0, [⟨31, 24, .ro⟩, ⟨15, 0, .rw⟩]⟩,
  ⟨"GPIO_TOUT_CFG", 0x1b0020, [(0x4, 8)], 0x0, [⟨31, 31, .rw⟩, ⟨30, 30, .rw⟩, ⟨27, 24, .rw⟩, ⟨23, 0, .rw⟩]⟩]

/-- The registers that can lie in 64 KiB block `b` of the window (the tile and lane pages span several blocks). -/
def regMapOf (b : Nat) : List RegDef :=
  match b with
  | 0x0 => regMap00
  | 0x1 => regMap01
  | 0x2 => regMap02
  | 0x3 => regMap03a ++ regMap03b
  | 0x4 => regMap03a ++ regMap03b ++ regMap04a ++ regMap04b
  | 0x5 => regMap03a ++ regMap03b ++ regMap04a ++ regMap04b ++ regMap05a ++ regMap05b
  | 0x6 => regMap06
  | 0x7 => regMap06 ++ regMap07
  | 0x8 => regMap08
  | 0x9 => regMap09
  | 0xa => regMap0A
  | 0xb => regMap0B
  | 0xc => regMap0C
  | 0xd => regMap0D
  | 0xe => regMap0D
  | 0xf => regMap0F
  | 0x10 => regMap10
  | 0x11 => regMap11
  | 0x12 => regMap12
  | 0x13 => regMap13
  | 0x14 => regMap14a ++ regMap14b
  | 0x15 => regMap15
  | 0x16 => regMap16
  | 0x17 => regMap17
  | 0x18 => regMap18
  | 0x19 => regMap19
  | 0x1a => regMap1A
  | 0x1b => regMap1B
  | _ => []

/-- Reset words that depend on the instance (Tables 1.3, 3.5, 10.5, 13.2, 13.5, 15.6, 16.10, 21.5). -/
def resetExceptions0 : List (Nat × Nat) := [
  (0x30000, 0x100), (0x31000, 0x101), (0x32000, 0x102), (0x33000, 0x103), (0x34000, 0x204), (0x35000, 0x205),
  (0x36000, 0x206), (0x37000, 0x207), (0x38000, 0x308), (0x39000, 0x309), (0x3a000, 0x30a), (0x3b000, 0x30b),
  (0x3c000, 0x40c), (0x3d000, 0x40d), (0x3e000, 0x40e), (0x3f000, 0x40f), (0x40000, 0x410), (0x41000, 0x411),
  (0x42000, 0x412), (0x43000, 0x413), (0x44000, 0x514), (0x44018, 0x10000), (0x44028, 0x10000), (0x44818, 0x10000)]
def resetExceptions1 : List (Nat × Nat) := [
  (0x44828, 0x10000), (0x45000, 0x515), (0x45018, 0x10000), (0x45028, 0x10000), (0x45818, 0x10000), (0x45828, 0x10000),
  (0x46000, 0x516), (0x46018, 0x10000), (0x46028, 0x10000), (0x46818, 0x10000), (0x46828, 0x10000), (0x47000, 0x517),
  (0x47018, 0x10000), (0x47028, 0x10000), (0x47818, 0x10000), (0x47828, 0x10000), (0x48000, 0x518), (0x48018, 0x10000),
  (0x48028, 0x10000), (0x48818, 0x10000), (0x48828, 0x10000), (0x49000, 0x519), (0x49018, 0x10000), (0x49028, 0x10000)]
def resetExceptions2 : List (Nat × Nat) := [
  (0x49818, 0x10000), (0x49828, 0x10000), (0x4a000, 0x61a), (0x4b000, 0x61b), (0x4c000, 0x61c), (0x4d000, 0x61d),
  (0x4e000, 0x71e), (0x4f000, 0x71f), (0x50000, 0x720), (0x51000, 0x721), (0x52000, 0x822), (0x53000, 0x823),
  (0x54000, 0x924), (0x55000, 0x925), (0x56000, 0x926), (0x57000, 0x927), (0x58000, 0xa28), (0x59000, 0xa29),
  (0x5a000, 0xa2a), (0x5b000, 0xa2b), (0x5c000, 0xb2c), (0x5d000, 0xb2d), (0x5e000, 0xb2e), (0x5f000, 0xb2f)]
def resetExceptions3 : List (Nat × Nat) := [
  (0x78100, 0x6000000), (0x78104, 0x6000000), (0x78108, 0x7000000), (0x7810c, 0x8000000), (0x78110, 0x8000000), (0x78120, 0x100802),
  (0x78124, 0x100802), (0x78128, 0x120902), (0x7812c, 0x140a03), (0x78130, 0x140a03), (0x78140, 0x400), (0x78144, 0x400),
  (0x78148, 0x500), (0x7814c, 0x600), (0x78150, 0x600), (0x78160, 0x4000000), (0x78164, 0x4000000), (0x78168, 0x5000000),
  (0x7816c, 0x6000000), (0x78170, 0x6000000), (0x78180, 0x7000000), (0x78184, 0x7000000), (0x78188, 0x8000000), (0x7818c, 0x9000000)]
def resetExceptions4 : List (Nat × Nat) := [
  (0x78190, 0x9000000), (0x781a0, 0x140a04), (0x781a4, 0x140a04), (0x781a8, 0x160b04), (0x781ac, 0x180c05), (0x781b0, 0x180c05),
  (0xd2010, 0x10410100), (0xd2014, 0x4), (0xd2018, 0x20820200), (0xd201c, 0x8), (0xd2020, 0x41040400), (0xd2024, 0x10),
  (0xd2028, 0x82080800), (0xd202c, 0x20), (0xd2030, 0x4101000), (0xd2034, 0x1), (0xd2038, 0x8202000), (0xd203c, 0x2),
  (0xd2040, 0x10404000), (0xd2044, 0x4), (0xd2048, 0x20808000), (0xd204c, 0x8), (0xd2070, 0x2000245), (0xd2074, 0x1000245)]
def resetExceptions5 : List (Nat × Nat) := [
  (0xd2078, 0x40800245), (0xd207c, 0x80400345), (0xd2080, 0x80200345), (0x100170, 0x10000000), (0x100174, 0x0), (0x120054, 0xe601c00),
  (0x120058, 0x13003c00), (0x12005c, 0xf001200), (0x120060, 0x18801e40), (0x121054, 0xe601c00), (0x121058, 0x13003c00), (0x12105c, 0xf001200),
  (0x121060, 0x18801e40), (0x17004c, 0x44000000), (0x170050, 0x80000000)]
def resetExceptions : List (Nat × Nat) :=
  resetExceptions0 ++ resetExceptions1 ++ resetExceptions2 ++ resetExceptions3 ++ resetExceptions4 ++ resetExceptions5

/-- `d` has an instance at offset `off`: the strides of its dimensions divide the distance from its base. -/
def dimsCover : List (Nat × Nat) → Nat → Bool
  | [], r => r == 0
  | (stride, count) :: rest, r => decide (r / stride < count) && dimsCover rest (r % stride)

def RegDef.covers (d : RegDef) (off : Nat) : Bool :=
  decide (d.base ≤ off) && dimsCover d.dims (off - d.base)

/-- The register at window offset `off`, if one is implemented there (R5 of 01 for the rest). -/
def regDefAt (off : Nat) : Option RegDef :=
  (regMapOf (off / 0x10000)).find? (fun d => d.covers off)

def exceptionAt : List (Nat × Nat) → Nat → Option Nat
  | [], _ => none
  | (k, v) :: rest, off => if k = off then some v else exceptionAt rest off

/-- The word a register holds at reset: its table's reset values; 0 where no register is (R5). -/
def resetWord (off : Nat) : Word :=
  match regDefAt off with
  | none => 0
  | some d => BitVec.ofNat 32 ((exceptionAt resetExceptions off).getD d.reset)

end Sys2Proof.Machine
end

