-- ==== Sys2Proof/Machine/Ops.lean ====
section
/-! DEFINITION. The named operations over sparse tables, registers, memory bytes and time. -/

namespace Sys2Proof.Machine

/-! ### Sparse tables -/

/-- Entry `x` of a sparse table with default `d`. -/
def sget {α : Type} (d : α) : Sparse α → Nat → α
  | [], _ => d
  | (k, v) :: r, x => if k = x then v else sget d r x

/-- The table without entry `x`. -/
def serase {α : Type} : Sparse α → Nat → Sparse α
  | [], _ => []
  | (k, v) :: r, x => if k = x then serase r x else (k, v) :: serase r x

/-- `v` put at `x` before the first larger index. -/
def sinsert {α : Type} : Sparse α → Nat → α → Sparse α
  | [], x, v => [(x, v)]
  | (k, w) :: r, x, v => if x < k then (x, v) :: (k, w) :: r else (k, w) :: sinsert r x v

/-- Entry `x` set to `v`; an entry equal to the default is not listed. -/
def sset {α : Type} [DecidableEq α] (d : α) (l : Sparse α) (x : Nat) (v : α) : Sparse α :=
  if v = d then serase l x else sinsert (serase l x) x v

/-- The canonical form of a sparse table: indices strictly rising, no entry equal to the default. -/
def Canonical {α : Type} [DecidableEq α] (d : α) (l : Sparse α) : Bool :=
  decide ((l.map Prod.fst).Pairwise (· < ·)) && l.all (fun e => decide (e.2 ≠ d))

/-- The entries of `src` with indices in [lo, hi) replace those of `dst`. -/
def scopy {α : Type} (src dst : Sparse α) (lo hi : Nat) : Sparse α :=
  dst.filter (fun e => decide (e.1 < lo)) ++ src.filter (fun e => decide (lo ≤ e.1 ∧ e.1 < hi)) ++
    dst.filter (fun e => decide (hi ≤ e.1))

/-- The table without its entries in [lo, hi). -/
def sclear {α : Type} (l : Sparse α) (lo hi : Nat) : Sparse α :=
  l.filter (fun e => decide (e.1 < lo ∨ hi ≤ e.1))

/-- `a` put before the first entry of an ordered list that it does not come after. -/
def insertBy {α : Type} (le : α → α → Bool) (a : α) : List α → List α
  | [] => [a]
  | b :: r => if le a b then a :: b :: r else b :: insertBy le a r

/-- A list in order; entries that tie keep their places. -/
def isort {α : Type} (le : α → α → Bool) : List α → List α
  | [] => []
  | a :: r => insertBy le a (isort le r)

/-! ### Registers -/

/-- The word a register holds (a tile page: its shadow copy). -/
def State.reg (s : State) (off : Nat) : Word := sget (resetWord off) s.regs off

def State.wreg (s : State) (off : Nat) (w : Word) : State :=
  { s with regs := sset (resetWord off) s.regs off w }

/-- The current copy of a shadowed register (R143). -/
def State.regCur (s : State) (off : Nat) : Word := sget (resetWord off) s.cur off

/-- The value of a field. -/
def State.get (s : State) (f : Fld) : Nat := getBits (s.reg f.reg) f.hi f.lo

/-- The value of a field's current copy. -/
def State.getCur (s : State) (f : Fld) : Nat := getBits (s.regCur f.reg) f.hi f.lo

def State.on (s : State) (f : Fld) : Bool := decide (s.get f = 1)
def State.onCur (s : State) (f : Fld) : Bool := decide (s.getCur f = 1)

/-- A field written by hardware. -/
def State.put (s : State) (f : Fld) (v : Nat) : State :=
  s.wreg f.reg (setBits (s.reg f.reg) f.hi f.lo v)

/-- A flag written by hardware. -/
def State.putB (s : State) (f : Fld) (b : Bool) : State := s.put f (if b then 1 else 0)

/-- An address held as two registers: `hi` above bit 32, `lo` whole. -/
def State.addr (s : State) (lo hi : Nat) : Nat := (s.reg lo).toNat + 2 ^ 32 * (s.reg hi).toNat

def State.addrCur (s : State) (lo hi : Nat) : Nat := (s.regCur lo).toNat + 2 ^ 32 * (s.regCur hi).toNat

/-! ### The indexed tile memories, above the register window (R143, Tables 5.14, 7.18, 8.6) -/

/-- Base of the indexed words of tile `t`, context `c`. -/
def ixBase (t c : Nat) : Nat := 0x2000000 + 0x10000 * t + 0x8000 * c
/-- BLACK of site `i` (reset 0). -/
def ixBlack (t c i : Nat) : Nat := ixBase t c + 4 * i
/-- GAIN of site `i` (reset 1.0). -/
def ixGain (t c i : Nat) : Nat := ixBase t c + 0x1000 + 4 * i
/-- Coefficient `i` of a colour or synthesis tile. -/
def ixCoef (t c i : Nat) : Nat := ixBase t c + 0x2000 + 4 * i

/-- Reset values of the colour coefficients (Table 7.18). -/
def colCoefReset (i : Nat) : Nat :=
  if i < 36 then (if i % 4 = (i % 12) / 4 then 0x3F8000 else 0)
  else if i = 37 then 0x457FF0 else if i = 39 then 0x420000 else 0

/-- Reset values of the synthesis coefficients (Table 8.6). -/
def synCoefReset (i : Nat) : Nat :=
  if i < 5 then 0x3F8000 else if i < 10 then 0 else if i < 13 then 0x3EAAAB else 0x3F8000

/-- Reset value of an indexed word. -/
def ixReset (off : Nat) : Word :=
  let t := (off - 0x2000000) / 0x10000
  let r := off % 0x8000
  BitVec.ofNat 32 (if r < 0x1000 then 0 else if r < 0x2000 then 0x3F8000
    else if t < 20 then colCoefReset ((r - 0x2000) / 4) else synCoefReset ((r - 0x2000) / 4))

/-- An indexed word's shadow copy, current copy, and a write of the shadow copy. -/
def State.ix (s : State) (off : Nat) : Nat := (sget (ixReset off) s.regs off).toNat
def State.ixCur (s : State) (off : Nat) : Nat := (sget (ixReset off) s.cur off).toNat
def State.wix (s : State) (off v : Nat) : State :=
  { s with regs := sset (ixReset off) s.regs off (BitVec.ofNat 32 v) }

/-! ### Memory bytes (Table 1.5) -/

/-- What a byte of memory that nothing has written reads as (log 2). -/
def memDefault : Byte := 0

def State.byte (s : State) (a : Nat) : Byte := sget memDefault s.mem a

def State.setByte (s : State) (a : Nat) (b : Byte) : State := { s with mem := sset memDefault s.mem a b }

def State.bytes (s : State) (a n : Nat) : List Byte := (List.range n).map (fun i => s.byte (a + i))

/-- Bytes as cells from address `a`, those that read as the default left out. -/
def cellsOf : Nat → List Byte → List Host.Cell
  | _, [] => []
  | a, b :: r => if b = memDefault then cellsOf (a + 1) r else (a, b) :: cellsOf (a + 1) r

def State.setBytes (s : State) (a : Nat) (l : List Byte) : State :=
  { s with mem := scopy (cellsOf a l) s.mem a (a + l.length) }

/-- The canonical form of memory. -/
abbrev Memory.wf (m : List Host.Cell) : Bool := Canonical memDefault m

/-- The regions of the physical address map (Table 1.5). -/
inductive Region where
  | dram | caddy | window | nvs | bootRom | coreLocal | outside
deriving DecidableEq, Repr

def region (a : Nat) : Region :=
  if a < 0x4000000000 then .dram
  else if a < 0x4003000000 then .caddy
  else if 0x4100000000 ≤ a ∧ a < 0x4102000000 then .window
  else if 0x4140000000 ≤ a ∧ a < 0x4140400000 then .nvs
  else if 0x4180000000 ≤ a ∧ a < 0x4180040000 then .bootRom
  else if 0x41C0000000 ≤ a ∧ a < 0x41C1000000 then .coreLocal
  else .outside

/-! ### Time -/

/-- The nanosecond count N (R430): SEC × 10⁹ + NS modulo 2⁶⁴. -/
def timeN (t : Time) : BitVec 64 := BitVec.ofNat 64 (t.sec.toNat * 1000000000 + t.ns.toNat)

def State.now (s : State) : BitVec 64 := timeN s.time

/-- The low 40 bits of the nanosecond count (R435). -/
def State.now40 (s : State) : Nat := s.now.toNat % 2 ^ 40

/-! ### Outputs and free values -/

def State.emit (s : State) (kind : String) (port : Nat) (data : List Nat) : State :=
  { s with out := s.out ++ [⟨kind, port, data⟩] }

/-- A value the spec leaves undefined: the free constant at the counter, which moves on (log 3). -/
def State.takeFree (s : State) : BitVec 64 × State :=
  (Config.freeWord s.free, { s with free := s.free + 1 })

/-- `n` bytes the spec leaves undefined. -/
def State.takeFreeBytes (s : State) (n : Nat) : List Byte × State :=
  ((List.range n).map (fun i => Config.freeByte (s.free + i)), { s with free := s.free + n })

/-- Apply a list of state changes in order. -/
def State.andThen (s : State) (l : List (State → State)) : State := l.foldl (fun s f => f s) s

/-- A state change made only when a condition holds. -/
def State.when (s : State) (c : Bool) (f : State → State) : State := if c then f s else s

end Sys2Proof.Machine
end

