-- ==== Sys2Proof/Machine/Flags.lean ====
section
/-! DEFINITION. Flags and counters: saturating count fields, interrupt and wake latches, and the posting of
an event into the recorder's intake (R513, R554). -/

namespace Sys2Proof

/-- A frame tag as a 64-bit number: Table 5.1 puts the source in bits 63:60, the sequence number in 59:16
and the settings generation in 15:0. -/
def FrameTag.toNat (t : FrameTag) : Nat := t.src.toNat * 2 ^ 60 + t.seq.toNat * 2 ^ 16 + t.sgen.toNat

end Sys2Proof

namespace Sys2Proof.Machine

/-- The largest value of a field. -/
def Fld.max (f : Fld) : Nat := 2 ^ (f.hi + 1 - f.lo) - 1

/-- A count field plus `n`, saturating. -/
def State.bumpBy (s : State) (f : Fld) (n : Nat) : State := s.put f (min (s.get f + n) f.max)

def State.bump (s : State) (f : Fld) : State := s.bumpBy f 1

/-- A count field plus 1, modulo its width. -/
def State.incr (s : State) (f : Fld) : State := s.put f (s.get f + 1)

/-- Bit `k` of a field. -/
def State.bit (s : State) (f : Fld) (k : Nat) : Bool := (s.get f).testBit k

/-- Bit `k` of a field set or cleared. -/
def State.setBit (s : State) (f : Fld) (k : Nat) (b : Bool) : State :=
  if b then s.put f (s.get f ||| 2 ^ k)
  else s.put f (s.get f - if (s.get f).testBit k then 2 ^ k else 0)

/-- A latched interrupt source of Table 22.1 (R497). -/
def State.irq (s : State) (k : Nat) : State := s.setBit F.CPU_IRQ_STAT.SRC k true

/-- A wake event latched in PWR_WAKE_CAUSE whether it wakes the device or not (R480). -/
def State.latchWake (s : State) (k : Nat) : State := s.setBit F.PWR_WAKE_CAUSE.CAUSE k true

/-- Add 1 to the suppressed count of a pair, if it has one (R513). -/
def addSuppressed (e : Event) : List Suppressed → Option (List Suppressed)
  | [] => none
  | x :: r =>
    if x.src = e.src ∧ x.code = e.code then
      some ({ x with count := min (x.count + 1) (2 ^ 32 - 1), sev := if x.sev < e.sev then e.sev else x.sev } :: r)
    else (addSuppressed e r).map (x :: ·)

/-- An event that finds no intake entry it may use is coalesced (R513). -/
def State.coalesce (s : State) (e : Event) : State :=
  match addSuppressed e s.evt.supp with
  | some l => { s with evt := { s.evt with supp := l } }
  | none =>
    if s.evt.supp.length < 32 then
      { s with evt := { s.evt with supp := s.evt.supp ++ [⟨e.src, e.code, e.sev, e.time, 1⟩] } }
    else s.bump F.EVT_LOSS.UNCOUNTED

/-- An event enters the intake FIFO, is coalesced, or is filtered (R513). Entries 57 to 64 accept only
severities 6 and 7. -/
def State.intake (s : State) (e : Event) : State :=
  if e.sev.val < s.get F.EVT_CFG.MIN_SEV then s.bump F.EVT_LOSS.FILTERED
  else if s.evt.intake.length < (if 6 ≤ e.sev then 64 else 56) then
    { s with evt := { s.evt with intake := s.evt.intake ++ [e] } }
  else s.coalesce e

/-- Post an event: SOURCE, CODE = category and DETAIL, severity, DATA (R511, R554). An event of severity 5
or higher is a wake event (Table 20.7). -/
def State.post (s : State) (src : Nat) (sev : Fin 8) (cat detail data : Nat) : State :=
  (s.when (decide (5 ≤ sev)) (fun s => s.latchWake 7)).intake
    ⟨BitVec.ofNat 16 src, BitVec.ofNat 16 (cat * 4096 + detail % 4096), sev, s.now, BitVec.ofNat 64 data⟩

/-- The event of a register write that is ignored or refused (category 0x1 of Table 22.8). -/
def State.postIgnored (s : State) (src : Nat) (sev : Fin 8) (off : Nat) : State := s.post src sev 1 (off % 4096) off

/-- Source IDs (R511). -/
def srcTile (t : Nat) : Nat := 0x0200 + t
def srcFab : Nat := 0x02FF
def srcSupervisor : Nat := 0x1A04
def srcDebug : Nat := 0x1900
def srcCore (c : Nat) : Nat := 0x1A00 + c

/-! ### When the block acts -/

/-- A freeze is in progress or complete (R521). -/
def State.freezing (s : State) : Bool := decide (s.get F.DBG_STAT.SRC ≠ 0)

/-- Nothing but the cosy domain and the debug port acts: a freeze holds every other clock and request (R522), in Hibernate and
without power the rest of the device is off. -/
def State.dark (s : State) : Bool := s.freezing || !s.power.cosy || s.power.mode == .hibernate

/-- The outcome of a command of a block that a freeze stops: `t`, or no effect in the dark. -/
def State.running (s t : State) : Host.Outcome State Fault Refusal := .next (if s.dark then s else t)

end Sys2Proof.Machine
end

