-- ==== Sys2Proof/Machine/Access.lean ====
section
/-! DEFINITION. The memory path: DRAM location and blocks with parity (chapter 13), the charge to steep
clients (chapter 14), translation (chapter 15), engine reads and writes, and the writing of a ring record. -/

namespace Sys2Proof.Machine

/-! ### DRAM location (R319) -/

/-- Parity of a number's bits 37:6. -/
def parity37_6 (x : Nat) : Nat := ((List.range 32).filter (fun i => x.testBit (i + 6))).length % 2

/-- Select bit `i` in the order of Table 13.2. -/
def State.selectMask (s : State) (i : Nat) : Nat :=
  (s.reg (R.DRC_MASKLO i)).toNat + 2 ^ 32 * (s.reg (R.DRC_MASKHI i)).toNat

def State.homeBit (s : State) : Nat → Nat
  | 0 => s.get F.DRC_HOME0.SUB
  | 1 => s.get F.DRC_HOME0.CH0
  | 2 => s.get F.DRC_HOME0.CH1
  | 3 => s.get F.DRC_HOME0.CH2
  | 4 => s.get F.DRC_HOME1.BG0
  | 5 => s.get F.DRC_HOME1.BG1
  | 6 => s.get F.DRC_HOME1.BANK0
  | _ => s.get F.DRC_HOME1.BANK1

def State.selectBit (s : State) (a i : Nat) : Nat := parity37_6 (a &&& s.selectMask i)

/-- The bits of `a` at the given positions, lowest first. -/
def gather (a : Nat) : List Nat → Nat
  | [] => 0
  | p :: r => (if a.testBit p then 1 else 0) + 2 * gather a r

/-- Address bits 37:6 that are no home bits, ascending. -/
def State.plainBits (s : State) : List Nat :=
  ((List.range 32).map (· + 6)).filter (fun p => !((List.range 8).map s.homeBit).contains p)

def State.dramLoc (s : State) (a : Nat) : DramLoc :=
  let p := s.plainBits
  { sub := s.selectBit a 0
    ch := s.selectBit a 1 + 2 * s.selectBit a 2 + 4 * s.selectBit a 3
    bg := s.selectBit a 4 + 2 * s.selectBit a 5
    bank := s.selectBit a 6 + 2 * s.selectBit a 7
    col := 16 * gather a (p.take 6)
    rank := gather a ((p.drop 6).take 1)
    row := gather a ((p.drop 7).take 17) }

/-- Channel × 2 + subchannel. -/
def DramLoc.subIdx (l : DramLoc) : Nat := 2 * l.ch + l.sub

/-- Key of a bank among all banks of the device. -/
def DramLoc.bankKey (l : DramLoc) : Nat := ((l.subIdx * 2 + l.rank) * 4 + l.bg) * 4 + l.bank

/-! ### Steep charge (R336, R337, R345) -/

def steepIdle : SteepClient := ⟨0, (0, 0, 0), (0, 0, 0), false, false, false⟩

def State.client (s : State) (c : Nat) : SteepClient := sget steepIdle s.steepC c
def State.setClient (s : State) (c : Nat) (x : SteepClient) : State :=
  { s with steepC := sset steepIdle s.steepC c x }

/-- The entry of a triple for point `p`, and the triple with it set. -/
def atPoint (x : Nat × Nat × Nat) (p : Nat) : Nat := if p = 0 then x.1 else if p = 1 then x.2.1 else x.2.2

def setPoint (x : Nat × Nat × Nat) (p v : Nat) : Nat × Nat × Nat :=
  if p = 0 then (v, x.2) else if p = 1 then (x.1, v, x.2.2) else (x.1, x.2.1, v)

def pointLeft (x : SteepClient) (p : Nat) : Nat := atPoint x.left p

def setPointLeft (x : SteepClient) (p v : Nat) : SteepClient := { x with left := setPoint x.left p v }

/-- The tier of Table 14.2 in which a request of client `c` is admitted at point `p`. -/
def State.tier (s : State) (c p : Nat) : Nat :=
  let cls := s.get (F.STP_CL_CFG.CLASS c)
  if !s.bit (F.STP_CL_CFG.ENFORCE c) p || decide (2 ≤ cls) then 4
  else if 0 < pointLeft (s.client c) p then (if cls = 0 then 1 else 2)
  else if cls = 0 then 0 else 3

/-- A request of client `c` charged `n` units at point `p`: 0 DRAM, 1 caddy ports, 2 crossbar memory ports.
Tier 0 stands for a strict client whose allowance is spent: its request waits and is charged to the next steep that
has allowance for it (R341). -/
def State.charge (s : State) (c p n : Nat) : State :=
  let t := s.tier c p
  let x := s.client c
  if t = 0 then s.setClient c { x with held := true, late := setPoint x.late p (atPoint x.late p + n) }
  else
    let x := { x with charged := if p = 0 then x.charged + n else x.charged, borrowed := x.borrowed || decide (t = 3) }
    let x := if s.bit (F.STP_CL_CFG.ENFORCE c) p then setPointLeft x p (pointLeft x p - n) else x
    { s.setClient c x with steepPool := s.steepPool + (if p = 0 ∧ 3 ≤ t then n else 0) }

/-! ### Parity marks (R317, R318, R358) -/

def State.markBad (s : State) (l : List Nat) : State :=
  { s with badPar := (s.badPar.filter (fun a => !l.contains a)) ++ l }

def State.clearBad (s : State) (l : List Nat) : State :=
  { s with badPar := s.badPar.filter (fun a => !l.contains a) }

/-- The failing bytes of the 64-byte block at `a`, as offsets. -/
def State.badIn (s : State) (a : Nat) : List Nat :=
  (List.range 64).filter (fun i => s.badPar.contains (a + i))

/-! ### DRAM blocks -/

def drcSrc (ch : Nat) : Nat := 0x0D00 + ch

/-- A mapping is in force and the block's channel is in service, in self-refresh, or retraining in full. -/
def State.dramReady (s : State) (a : Nat) : Bool :=
  s.on F.DRC_MAPCTL.APPLY &&
    (let st := s.get (F.DRC_CTRL.STATE (s.dramLoc a).ch); st == 2 || st == 3 || st == 4)

/-- A request before a mapping or channel is in service (R321). -/
def State.dramFail (s : State) (a : Nat) : State :=
  (s.bump (F.DRC_ERR.NOTREADY 0)).post 0x0D00 4 4
    (if s.on F.DRC_MAPCTL.APPLY then (s.dramLoc a).subIdx else 0xFFF) a

/-- A short retrain of subchannel `x` starts, or waits its turn (R328). -/
def State.startShort (s : State) (x : Nat) : State :=
  match s.dram.short with
  | none => { s with dram := { s.dram with short := some x } }
  | some _ => { s with dram := { s.dram with shortWait := s.dram.shortWait ++ [x] } }

/-- A request to a channel in self-refresh starts the exit; short retrains that fell due run first (R332). -/
def State.exitSelfRefresh (s : State) (ch : Nat) : State :=
  if s.get (F.DRC_CTRL.STATE ch) = 3 then
    let due := s.dram.shortDue.filter (fun x => x / 2 == ch)
    let s := s.put (F.DRC_CTRL.STATE ch) 2
    let s := { s with dram := { s.dram with shortDue := s.dram.shortDue.filter (fun x => !(x / 2 == ch)) } }
    due.foldl State.startShort s
  else s

/-- A read parity error of the block at `a` is counted, captured and posted (R33, R323). -/
def State.dramParity (s : State) (a : Nat) (bad : List Nat) : State :=
  let l := s.dramLoc a
  let s := s.bump (if l.sub = 0 then F.DRC_ERR.PARITY_A l.ch else F.DRC_ERR.PARITY_B l.ch)
  let s := if s.on (F.DRC_PERR_HI.VALID l.ch) then s else
    s.andThen [(·.put (F.DRC_PERR_LO.ADDR l.ch) (a / 64)), (·.put (F.DRC_PERR_HI.ADDR l.ch) (a / 2 ^ 32)),
      (·.put (F.DRC_PERR_HI.SUB l.ch) l.sub), (·.put (F.DRC_PERR_HI.FIRST_BYTE l.ch) (bad.headD 0)),
      (·.put (F.DRC_PERR_HI.NBYTES l.ch) bad.length), (·.put (F.DRC_PERR_HI.VALID l.ch) 1)]
  s.post (drcSrc l.ch) 4 4 l.subIdx a

/-- The open row and hint of the block's bank after an access (R322): 0 AUTO, 1 OPEN, 2 CLOSE. -/
def State.touchRow (s : State) (a hint : Nat) : State :=
  let l := s.dramLoc a
  let shut := decide (hint = 2 ∨ hint = 0 ∧ s.get F.DRC_PAGE.AUTO_TMO = 0)
  { s with dram := { s.dram with rows := sset none s.dram.rows l.bankKey (if shut then none else some (l.row, hint)) } }

/-- The page hint of a client (R322); a request of no client carries AUTO, 3 acts as AUTO. -/
def State.hintOf (s : State) (c : Nat) : Nat :=
  if 32 ≤ c then 0 else
    let h := bits (s.get (F.DRC_HINT.HINT (c / 16))) (2 * (c % 16)) 2
    if h = 3 then 0 else h

/-- A whole block stored with a byte-enable mask: the enabled bytes are written with new parity. A merge whose
read meets a parity error stores inverted parity for every byte not enabled (R317, R318). -/
def State.storeBlock (s : State) (a : Nat) (data : List Byte) (mask : Nat) : State :=
  let full := (List.range 64).all (fun i => mask.testBit i)
  let bad := s.badIn a
  let en := ((List.range 64).filter (fun i => mask.testBit i)).map (· + a)
  let dis := ((List.range 64).filter (fun i => !mask.testBit i)).map (· + a)
  let old := s.bytes a 64
  let new := (List.range 64).map (fun i => if mask.testBit i then data.getD i 0 else old.getD i 0)
  let s1 := (s.setBytes a new).clearBad en
  if full || bad.isEmpty then s1 else (s1.dramParity a bad).markBad dis

/-- Issue queued writes to DRAM, in arrival order. -/
def State.issueAll (s : State) : List QWrite → State
  | [] => s
  | w :: r => (s.storeBlock w.addr w.data w.mask).issueAll r

def State.queueOf (s : State) (x : Nat) : List QWrite := sget [] s.dram.writes x

/-- The writes queued for the block at `a` are issued before a read of it, those queued before them in the
block's own order (R324). Data is never forwarded. -/
def State.drainBlock (s : State) (a : Nat) : State :=
  let x := (s.dramLoc a).subIdx
  let q := s.queueOf x
  let s := s.issueAll (q.filter (fun w => w.addr == a))
  { s with dram := { s.dram with writes := sset [] s.dram.writes x (q.filter (fun w => !(w.addr == a))) } }

/-- A subchannel drains its write queue down to `n` entries, oldest first. -/
def State.drainTo (s : State) (x n : Nat) : State :=
  let q := s.queueOf x
  let k := q.length - n
  let s := s.issueAll (q.take k)
  { s with dram := { s.dram with writes := sset [] s.dram.writes x (q.drop k) } }

/-- A read of the 64-byte block at `a` by client `c`. -/
def State.dramRead (s : State) (c a : Nat) : Option (List Byte) × State :=
  if !s.dramReady a then (none, s.dramFail a) else
    let s := s.exitSelfRefresh (s.dramLoc a).ch
    let s := ((s.charge c 0 1).drainBlock a).touchRow a (s.hintOf c)
    let bad := s.badIn a
    if bad.isEmpty then (some (s.bytes a 64), s) else (none, s.dramParity a bad)

/-- A write to the block at `a`: failed and discarded before the channel is in service (R321), else issued
after the block's queued writes. A write with a partial mask counts as 2 (R337). -/
def State.dramWrite (s : State) (c a : Nat) (data : List Byte) (mask : Nat) : State :=
  if !s.dramReady a then s.dramFail a else
    let full := (List.range 64).all (fun i => mask.testBit i)
    let s := s.exitSelfRefresh (s.dramLoc a).ch
    let s := ((s.charge c 0 (if full then 1 else 2)).drainBlock a).touchRow a (s.hintOf c)
    s.storeBlock a data mask

/-! ### Physical accesses within one 64-byte block -/

/-- The bank of a caddy address (R350). -/
def caddyBank (a : Nat) : Nat := ((a - 0x4000000000) / 4096) % 16

/-- A caddy read that meets a parity error (R358). -/
def State.caddyParity (s : State) (a : Nat) : State :=
  (s.bump F.CAD_ERR.PARITY).post 0x1000 4 4 (0x100 + caddyBank a) (a / 64 * 64)

/-- Byte mask of `n` bytes from offset `o` of a block. -/
def byteMask (o n : Nat) : Nat := (2 ^ n - 1) * 2 ^ o

/-- `n` steps of the CRC-32C shift register. -/
def crcTableStep (c : BitVec 32) : Nat → BitVec 32
  | 0 => c
  | n + 1 => crcTableStep (if c.getLsbD 0 then (c >>> 1) ^^^ 0x82F63B78#32 else c >>> 1) n

def crc32cAux (c : BitVec 32) : List Byte → BitVec 32
  | [] => c
  | b :: r => crc32cAux (crcTableStep (c ^^^ b.setWidth 32) 8) r

/-- CRC-32C (Castagnoli, reflected, initial and final value all ones). -/
def crc32c (l : List Byte) : Nat := (~~~(crc32cAux (BitVec.allOnes 32) l)).toNat

def EvRecord.bytes (e : EvRecord) : List Byte :=
  let b := leBytes 6 e.seq.toNat ++ leBytes 2 e.src.toNat ++ leBytes 2 e.code.toNat ++
    leBytes 1 (e.sev.val + (if e.summary then 8 else 0) + 0x20) ++ [0] ++ leBytes 8 e.time.toNat ++
    leBytes 8 e.data.toNat
  b ++ leBytes 4 (crc32c b)

/-- The bytes of an empty slot of the event ring (Table 22.9): SEQ reads all ones, the others 0 (log 6). -/
def emptySlotBytes : List Byte := List.replicate 6 0xFF ++ zeros 26

/-- The base of the non-volatile store and of its parts (Table 22.2). -/
def nvsBase : Nat := 0x4140000000

def State.nvsByte (s : State) (a : Nat) : Byte :=
  let o := a - nvsBase
  if o < 0x200000 then
    (match sget none s.evt.ring (o / 32) with
      | none => emptySlotBytes
      | some e => e.bytes).getD (o % 32) 0
  else s.byte a

/-- A byte read by physical address outside DRAM and caddy. The control window answers only aligned 32-bit
accesses (R3), so a byte of it reads 0. -/
def State.physByte (s : State) (a : Nat) : Byte :=
  match region a with
  | .nvs => s.nvsByte a
  | .bootRom => Config.bootRomByte (a - 0x4180000000)
  | .dram => s.byte a
  | .caddy => s.byte a
  | _ => 0

/-- An access outside the map (R26): a severity-4 event whose source is the requester. -/
def State.outsideMap (s : State) (src unit a : Nat) : State := s.post src 4 5 unit a

/-- A request of at most 64 bytes that passes a crossbar memory port or an ingest path is charged there (R18, R337, R345). -/
def State.chargePort (s : State) (r : Req) : State := if r.unit < 16 then s.charge r.client 2 1 else s

/-- An engine's read of `n` bytes at physical `a`, inside one 64-byte block. Core-local space is private to
its core (Table 1.5), so for an engine it is outside the map. -/
def State.physRead (s : State) (r : Req) (a n : Nat) : Except AccErr (List Byte) × State :=
  match region a with
  | .dram =>
    match s.dramRead r.client (a / 64 * 64) with
    | (some b, s) => (.ok ((b.drop (a % 64)).take n), s)
    | (none, s) => (.error .parity, s)
  | .caddy =>
    let s := s.charge r.client 1 1
    if (List.range n).any (fun i => s.badPar.contains (a + i)) then (.error .parity, s.caddyParity a)
    else (.ok (s.bytes a n), s)
  | .outside => (.error .translation, s.outsideMap r.src r.unit (r.lost.getD a))
  | .coreLocal => (.error .translation, s.outsideMap r.src r.unit (r.lost.getD a))
  | _ => (.ok ((List.range n).map (fun i => s.physByte (a + i))), s)

/-- An engine's write inside one 64-byte block. The store's own rule refuses writes to it (R500), the window
ignores what is no aligned 32-bit access (R3), and the ROM cannot be written. -/
def State.physWrite (s : State) (r : Req) (a : Nat) (b : List Byte) : Except AccErr Unit × State :=
  match region a with
  | .dram => (.ok (), s.dramWrite r.client (a / 64 * 64) (zeros (a % 64) ++ b) (byteMask (a % 64) b.length))
  | .caddy =>
    let s := s.charge r.client 1 1
    (.ok (), (s.setBytes a b).clearBad ((List.range b.length).map (· + a)))
  | .nvs => (.ok (), s.post r.src 3 1 (a % 4096) a)
  | .outside => (.error .translation, s.outsideMap r.src r.unit (r.lost.getD a))
  | .coreLocal => (.error .translation, s.outsideMap r.src r.unit (r.lost.getD a))
  | _ => (.ok (), s)

/-! ### Translation (R359 to R367) -/

/-- Remove the `n`-th of the bounds: keep the 64 most recent entries. -/
def State.tlbOf (s : State) (u : Nat) : List TlbEntry := sget [] s.tlb u

def State.setTlb (s : State) (u : Nat) (l : List TlbEntry) : State :=
  { s with tlb := sset [] s.tlb u (l.take 64) }

def TlbEntry.hit (e : TlbEntry) (space va : Nat) : Bool :=
  e.space == space && decide (e.va ≤ va ∧ va < e.va + e.size)

/-- A walk read of an 8-byte table entry by physical address, charged to client 30. -/
def State.walkRead (s : State) (r : Req) (a : Nat) : Except AccErr Nat × State :=
  if region a = .dram then
    match s.dramRead 30 (a / 64 * 64) with
    | (some b, s) => (.ok (leNat ((b.drop (a % 64)).take 8)), s)
    | (none, s) => (.error .parity, s)
  else (.error .translation, s.post r.src 5 5 r.unit (r.lost.getD a))

/-- The two-level walk (R361, R362, Tables 15.2 and 15.3). A malformed entry, valid or not, answers the translation-error
response and posts a severity-5 event that names a lost record (R557); V = 0 answers the fault's KIND. -/
def State.walk (s : State) (r : Req) (space va : Nat) : Except AccErr TlbEntry × State :=
  let s := s.bump (F.MMU_UNIT_STAT.WALKS r.unit)
  let base := s.addr (R.MMU_SPACE_LO space) (R.MMU_SPACE_HI space)
  match s.walkRead r (base + 8 * (va / 2 ^ 30)) with
  | (.error e, s) => (.error e, s)
  | (.ok l1, s) =>
    if bits l1 1 16 ≠ 0 ∨ l1 / 2 ^ 40 ≠ 0 then (.error .translation, s.post r.src 5 5 r.unit (r.lost.getD va))
    else if l1 % 2 = 0 then (.error (.fault va false 0), s)
    else
      match s.walkRead r (bits l1 17 23 * 2 ^ 17 + 8 * bits va 16 14) with
      | (.error e, s) => (.error e, s)
      | (.ok l2, s) =>
        let ps := l2.testBit 4
        if bits l2 5 11 ≠ 0 ∨ bits l2 40 16 ≠ 0 ∨ (ps ∧ bits l2 16 5 ≠ 0) then
          (.error .translation, s.post r.src 5 5 r.unit (r.lost.getD va))
        else if l2 % 2 = 0 then (.error (.fault va false 1), s)
        else
          let size := if ps then 2 ^ 21 else 2 ^ 16
          let e : TlbEntry := ⟨space, va / size * size, (bits l2 16 24 * 2 ^ 16) / size * size, size,
            l2.testBit 3, l2.testBit 1, l2.testBit 2⟩
          (.ok e, s.setTlb r.unit (e :: s.tlbOf r.unit))

/-- A pinned miss (R34, R366): counted, and a severity-5 event is posted that names a lost record (R557). -/
def State.pinnedMiss (s : State) (r : Req) (va : Nat) : State :=
  (s.bump (F.MMU_UNIT_STAT.PMISS r.unit)).post r.src 5 5 r.unit (r.lost.getD va)

/-- The physical address of an access, or why it fails. With MMU_CTL.EN = 0 every unit translates by
identity and every access counts as pinned with its page valid (R360). -/
def State.translate (s : State) (r : Req) (va : Nat) (write : Bool) : Except AccErr Nat × State :=
  if !s.on F.MMU_CTL.EN then
    if 2 ^ 40 ≤ va % 2 ^ 48 then (.error .translation, s.outsideMap r.src r.unit (r.lost.getD va))
    else (.ok (va % 2 ^ 48), s)
  else
    let va := va % 2 ^ 48
    let space := s.get (F.MMU_UNIT_CFG.SPACE r.unit)
    let found : Except AccErr TlbEntry × State :=
      match (s.tlbOf r.unit).find? (fun e => e.hit space va) with
      | some e => (.ok e, s.setTlb r.unit (e :: (s.tlbOf r.unit).filter (fun x => !(x == e))))
      | none => s.walk r space va
    match found with
    | (.error (.fault _ _ k), s) =>
      if r.pinned then (.error .pinnedMiss, s.pinnedMiss r va) else (.error (.fault va write k), s)
    | (.error e, s) => (.error e, s)
    | (.ok e, s) =>
      let allowed := if write then e.w else e.r
      if r.pinned then
        if e.pin && allowed then (.ok (e.pa + (va - e.va)), s) else (.error .pinnedMiss, s.pinnedMiss r va)
      else if allowed then (.ok (e.pa + (va - e.va)), s)
      else (.error (.fault va write (if write then 2 else 3)), s)

/-! ### Engine accesses -/

/-- Pieces of [a, a + n) cut at 64-byte boundaries. -/
def pieces : Nat → Nat → Nat → List (Nat × Nat)
  | 0, _, _ => []
  | fuel + 1, a, n =>
    if n = 0 then [] else
      let k := min n (64 - a % 64)
      (a, k) :: pieces fuel (a + k) (n - k)

/-- Read the pieces in order, stopping at the first that fails. -/
def State.readPieces (s : State) (r : Req) : List (Nat × Nat) → Except AccErr (List Byte) × State
  | [] => (.ok [], s)
  | (a, k) :: rest =>
    match s.translate r a false with
    | (.error e, s) => (.error e, s)
    | (.ok pa, s) =>
      match (s.chargePort r).physRead r pa k with
      | (.error e, s) => (.error e, s)
      | (.ok b, s) =>
        match s.readPieces r rest with
        | (.error e, s) => (.error e, s)
        | (.ok b', s) => (.ok (b ++ b'), s)

/-- An engine's read of `n` bytes at virtual address `va`. -/
def State.engRead (s : State) (r : Req) (va n : Nat) : Except AccErr (List Byte) × State :=
  s.readPieces r (pieces (n / 64 + 2) va n)

/-- Write the pieces in order, stopping at the first that fails; the bytes written before it stay. -/
def State.writePieces (s : State) (r : Req) : List (Nat × Nat) → List Byte → Except AccErr Unit × State
  | [], _ => (.ok (), s)
  | (a, k) :: rest, b =>
    match s.translate r a true with
    | (.error e, s) => (.error e, s)
    | (.ok pa, s) =>
      match (s.chargePort r).physWrite r pa (b.take k) with
      | (.error e, s) => (.error e, s)
      | (.ok _, s) => s.writePieces r rest (b.drop k)

/-- An engine's write at virtual address `va`. -/
def State.engWrite (s : State) (r : Req) (va : Nat) (b : List Byte) : Except AccErr Unit × State :=
  s.writePieces r (pieces (b.length / 64 + 2) va b.length) b

/-- The number of slots 2^LOG2CNT with LOG2CNT held to its limits. -/
def ringSize (log lo hi : Nat) : Nat := 2 ^ min (max log lo) hi

/-- A record written into a ring (R132): the index advances only after the whole record is in memory; a record
whose write fails is lost and the index stays on its slot (R557). Answers whether it was written. -/
def State.ringRecord (s : State) (r : Req) (base slot count : Nat) (widx : Fld) (b : List Byte) : Bool × State :=
  match s.engWrite r (base + slot * (s.get widx % count)) b with
  | (.ok _, s) => (true, s.put widx ((s.get widx % count + 1) % count))
  | (.error _, s) => (false, s)

/-! ### Faults of units (R368, R371) -/

/-- A unit suspends with a fault at `va` (R368). -/
def State.unitFault (s : State) (src unit va : Nat) (write : Bool) (kind : Nat) : State :=
  s.andThen [
    (·.setBit (if unit < 32 then F.MMU_FAULT_PEND0.PEND else F.MMU_FAULT_PEND1.PEND) (unit % 32) true),
    (·.put (F.MMU_UNIT_FLT_LO.VA unit) va), (·.put (F.MMU_UNIT_FLT_HI.VA unit) (va / 2 ^ 32)),
    (·.putB (F.MMU_UNIT_FLT_HI.WRITE unit) write), (·.put (F.MMU_UNIT_FLT_HI.KIND unit) kind),
    (·.put (F.MMU_UNIT_FLT_HI.WITHDRAWN unit) 0), (·.put (F.MMU_UNIT_FLT_HI.VALID unit) 1),
    (·.bump (F.MMU_UNIT_STAT.FAULTS unit)), (·.post src 2 5 unit va)]

/-- The pending bit of a unit clears and no fault is held. -/
def State.clearFault (s : State) (unit : Nat) : State :=
  (s.setBit (if unit < 32 then F.MMU_FAULT_PEND0.PEND else F.MMU_FAULT_PEND1.PEND) (unit % 32) false).put
    (F.MMU_UNIT_FLT_HI.VALID unit) 0

/-- The fault of suspended work is withdrawn (R371). -/
def State.withdrawFault (s : State) (unit : Nat) : State :=
  if s.on (F.MMU_UNIT_FLT_HI.VALID unit) then (s.clearFault unit).put (F.MMU_UNIT_FLT_HI.WITHDRAWN unit) 1 else s

end Sys2Proof.Machine
end

