-- ==== Sys2Proof/Machine/Kettle.lean ====
section
/-! DEFINITION. Power domains and the kettle (R472 to R476), and which domain a register lies in (R474, R28). -/

namespace Sys2Proof.Machine

def State.dom (s : State) (d : Nat) : Nat := s.get (F.PWR_DOM.STATE d)
def State.domOn (s : State) (d : Nat) : Bool := decide (s.dom d = 2)

/-- The domain whose state governs an access to a register (Table 20.5 and the list of blocks without a domain
of their own). None: the cosy domain, and blocks for which no domain is named (log 7). -/
def domainOf (off : Nat) : Option Nat :=
  match off / 0x10000 with
  | 0x01 => some 146
  | 0x02 => some 141
  | 0x03 | 0x04 | 0x05 => if off < 0x60000 then some ((off - 0x30000) / 0x1000) else none
  | 0x06 | 0x07 =>
    if off < 0x78000 then some (48 + (off - 0x60000) / 0x400 / 4)
    else if off < 0x79000 then some 142 else none
  | 0x08 => if off < 0x80200 then some (137 + (off - 0x80000) / 0x100) else none
  | 0x09 => if off < 0x94000 then some (135 + (off - 0x90000) / 0x1000 / 2) else none
  | 0x0A =>
    if off < 0xA1000 then some 143
    else if off < 0xA2000 then some (127 + (off - 0xA1000) / 0x100 / 4)
    else if 0xA3000 ≤ off ∧ off < 0xA3800 then some (131 + (off - 0xA3000) / 0x100 / 4) else none
  | 0x0F | 0x10 | 0x11 => some 140
  | 0x12 => if off < 0x122000 then some (124 + (off - 0x120000) / 0x1000) else none
  | 0x13 => some 126
  | 0x14 => some 145
  | 0x15 => if 0x150100 ≤ off ∧ off < 0x150500 then some (133 + (off - 0x150100) / 0x80 / 4)
            else if off < 0x150010 then some 144 else none
  | 0x19 => some 147
  | 0x1A => some 139
  | _ => none

/-- The register ranges whose state is lost when a domain goes Off (R473). -/
def domainRanges (d : Nat) : List (Nat × Nat) :=
  if d < 48 then [(0x30000 + 0x1000 * d, 0x30000 + 0x1000 * d + 0x1000), (ixBase d 0, ixBase d 0 + 0x10000)]
  else if d < 72 then [(0x60000 + 0x1000 * (d - 48), 0x60000 + 0x1000 * (d - 48) + 0x1000)]
  else if d = 124 ∨ d = 125 then [(0x120000 + 0x1000 * (d - 124), 0x121000 + 0x1000 * (d - 124))]
  else if d = 126 then [(0x130000, 0x140000)]
  else if 127 ≤ d ∧ d < 131 then [(0xA1000 + 0x400 * (d - 127), 0xA1400 + 0x400 * (d - 127))]
  else if d = 131 ∨ d = 132 then [(0xA3000 + 0x400 * (d - 131), 0xA3400 + 0x400 * (d - 131))]
  else if d = 133 ∨ d = 134 then [(0x150100 + 0x200 * (d - 133), 0x150300 + 0x200 * (d - 133))]
  else if d = 135 ∨ d = 136 then [(0x90000 + 0x2000 * (d - 135), 0x92000 + 0x2000 * (d - 135))]
  else if d = 137 ∨ d = 138 then [(0x80000 + 0x100 * (d - 137), 0x80100 + 0x100 * (d - 137))]
  else if d = 139 then [(0x1A0000, 0x1B0000)]
  else if d = 140 then [(0xF0000, 0x120000)]
  else if d = 141 then [(0x20000, 0x30000)]
  else if d = 142 then [(0x78000, 0x79000)]
  else if d = 143 then [(0xA0000, 0xA1000)]
  else if d = 144 then [(0x150000, 0x150010)]
  else if d = 145 then [(0x140000, 0x150000)]
  else if d = 146 then [(0x10000, 0x20000)]
  else if d = 147 then [(0x190000, 0x1A0000)]
  else []

/-- Registers in the given ranges return to their reset values, shadow and current copies alike. -/
def State.resetRanges (s : State) (l : List (Nat × Nat)) : State :=
  l.foldl (fun s r => { s with regs := sclear s.regs r.1 r.2, cur := sclear s.cur r.1 r.2 }) s

/-- The segment that serves a domain (chapter 1, list under Table 1.1); a segment serves itself (log 8). -/
def segmentOf (d : Nat) : Nat :=
  if 139 ≤ d ∧ d ≤ 142 then d
  else if d < 48 ∨ (105 ≤ d ∧ d < 119) then 141
  else if (72 ≤ d ∧ d < 105) then 140
  else if (48 ≤ d ∧ d < 72) ∨ (127 ≤ d ∧ d ≤ 138) ∨ d = 143 ∨ d = 144 then 142
  else 139

/-- The PLL bits of PWR_PLL that clock a domain (Table 1.12; log 8): every segment runs on the core PLL, segment 2 with the stream
crossbar on the fabric PLL as well. Ethernet lanes have PLLs of their own. -/
def pllOf (d : Nat) : List Nat :=
  if d = 141 then [0, 2]
  else if d < 48 ∨ (89 ≤ d ∧ d < 105) ∨ (113 ≤ d ∧ d < 119) then [0]
  else if 72 ≤ d ∧ d < 89 then [1]
  else if 105 ≤ d ∧ d < 113 then [3]
  else if d = 145 then [4]
  else if (48 ≤ d ∧ d < 64) ∨ d = 137 ∨ d = 138 then [5]
  else if (64 ≤ d ∧ d < 70) ∨ (127 ≤ d ∧ d < 133) ∨ d = 143 then [6]
  else if d = 133 ∨ d = 134 ∨ d = 144 then [7]
  else if d = 70 ∨ d = 71 ∨ d = 124 ∨ d = 125 then []
  else [2]

/-- A port that comes from Off has its MAC address from the non-volatile store (Table 16.11). -/
def State.loadMac (s : State) (d : Nat) : State :=
  if s.dom d = 0 ∧ (d = 124 ∨ d = 125) then
    let a := if d = 124 then s.sec.mac0 else s.sec.mac1
    (s.put (F.ETH_MAC_LO.ADDR (d - 124)) a).put (F.ETH_MAC_HI.ADDR (d - 124)) (a / 2 ^ 32)
  else s

/-- An entry to On is counted; the count saturates (R485). -/
def State.countOn (s : State) (d : Nat) : State :=
  let n := sget (0 : Half) s.power.ons d
  { s with power := { s.power with ons := sset 0 s.power.ons d (if n = 0xFFFF then n else n + 1) } }

/-- A domain enters On: an entry is counted (R485) and the kettle names it. -/
def State.domainOn (s : State) (d : Nat) : State :=
  if s.dom d = 2 then s else
    ((s.loadMac d).countOn d).andThen [(·.put (F.PWR_DOM.STATE d) 2), (·.put F.PWR_KETTLE.LAST d)]

/-- A PLL started and locked (R29: within 20 µs). -/
def State.startPll (s : State) (k : Nat) : State := s.setBit F.PWR_PLL.ON k true

/-- A domain goes Off and its register state is lost (R473). Its PWR_DOM register is in the cosy domain. -/
def State.domainOff (s : State) (d : Nat) : State :=
  (s.put (F.PWR_DOM.STATE d) 0).resetRanges (domainRanges d)

/-- The kettle stops a PLL when the last domain that it clocks leaves On (R476). -/
def State.stopIdlePll (s : State) (d : Nat) : State :=
  (pllOf d).foldl (fun s k =>
    if (List.range 148).any (fun e => (pllOf e).contains k && (s.dom e == 2 || s.dom e == 1)) then s
    else (s.setBit F.PWR_PLL.ON k false).setBit F.PWR_PLL.LOCK k false) s

/-- A demand on the kettle. A domain at POLICY 0 is not brought up (R474), nor that of a tile in no brew (R21); one On or
Starting needs nothing. -/
def State.demand (s : State) (d : Nat) : State :=
  if (d < 48 ∧ s.on (F.FAB_TILE_STAT.ASSIGNED d) = false) ∨ s.dom d = 2 ∨ s.dom d = 1 ∨ s.power.demands.contains d ∨ s.get (F.PWR_DOM.POLICY d) = 0 then s
  else { s with power := { s.power with demands := s.power.demands ++ [d] } }

/-- A domain brought On whole in one step, its segment and PLLs first (R475), by a requester that waits. -/
def State.bringUp (s : State) (d : Nat) : State :=
  let s := s.domainOn (segmentOf d)
  let s := (pllOf d).foldl (fun s k => (s.startPll k).setBit F.PWR_PLL.LOCK k true) s
  s.domainOn d

/-- How an access to a register meets its domain (R474): on, off (R28), or after a Retained domain is back. -/
def State.reachable (s : State) (off : Nat) : Bool :=
  match domainOf off with
  | none => true
  | some d => decide (s.dom d = 2 ∨ s.dom d = 3)

/-- An access to a register of a Retained domain is a demand and waits until the domain is On (R474). -/
def State.touchDomain (s : State) (off : Nat) : State :=
  match domainOf off with
  | none => s
  | some d => if s.dom d = 3 then s.bringUp d else s

end Sys2Proof.Machine
end

