-- ==== Sys2Proof/Machine/Forat.lean ====
section
/-! DEFINITION. The Forat image: its layout (R40 to R43, Tables 2.1 to 2.14, 4.6, 7.2 to 7.4), and the
pre-apply checks of Table 2.15 that depend on the image's bytes and the active image. -/

namespace Sys2Proof.Machine

/-! ### Tiles (Table 1.2) -/

inductive TileKind where
  | ing | rwc | dms | col | geo | sta | syn | pat | ana | cmx | opk
deriving DecidableEq, Repr

def tileKind (t : Nat) : TileKind :=
  if t < 4 then .ing else if t < 8 then .rwc else if t < 12 then .dms else if t < 20 then .col
  else if t < 26 then .geo else if t < 30 then .sta else if t < 34 then .syn else if t < 36 then .pat
  else if t < 40 then .ana else if t < 44 then .cmx else .opk

/-- A tile's index among those of its kind. -/
def kindIdx (t : Nat) : Nat :=
  match tileKind t with
  | .ing => t | .rwc => t - 4 | .dms => t - 8 | .col => t - 12 | .geo => t - 20 | .sta => t - 26
  | .syn => t - 30 | .pat => t - 34 | .ana => t - 36 | .cmx => t - 40 | .opk => t - 44

def isRootKind (t : Nat) : Bool := tileKind t == .ing || tileKind t == .pat
/-- Two pixel inputs: analysis and compose/overlay. -/
def hasInputB (t : Nat) : Bool := tileKind t == .ana || tileKind t == .cmx
/-- Tiles whose only output is a memory output (R13). -/
def hasMemOut (t : Nat) : Bool := tileKind t == .sta || tileKind t == .opk

/-! ### Layout -/

/-- `l` cut into pieces of `k` bytes. -/
def chunksAux (k : Nat) : Nat → List Byte → List (List Byte)
  | 0, _ => []
  | n + 1, l => l.take k :: chunksAux k n (l.drop k)

def chunks (k : Nat) (l : List Byte) : List (List Byte) := if k = 0 then [] else chunksAux k (l.length / k) l

/-- A section entry (Table 2.2) with its index and body. -/
structure Sec where
  idx : Nat
  typ : Nat
  req : Bool
  region : Nat
  pad : Nat
  off : Nat
  len : Nat
  crc : Nat
  body : List Byte

/-- The bytes of an image from `o`, `n` of them. -/
def slice (img : List Byte) (o n : Nat) : List Byte := (img.drop o).take n

def sectionsOf (img : List Byte) : List Sec :=
  (List.range (field img 0x0C 2)).map (fun i =>
    let e := slice img (0x40 + 16 * i) 16
    let off := field e 4 4
    let len := field e 8 4
    ⟨i, field e 0 2 % 0x8000, decide (0x8000 ≤ field e 0 2), field e 2 1, field e 3 1, off, len, field e 12 4,
      slice img off len⟩)

def parseTile (r : Nat) (b : List Byte) : TileRec :=
  ⟨field b 0 1, field b 1 1, field b 2 1, field b 4 2, field b 3 1 + field b 6 2, r⟩
def parseRoute (r : Nat) (b : List Byte) : RouteRec := ⟨field b 0 1, field b 1 1, field b 2 1, field b 3 1, r⟩
def parseBrew (r : Nat) (b : List Byte) : BrewRec :=
  ⟨field b 0 1, field b 1 1, field b 2 1, field b 3 1, field b 4 1, field b 8 2, field b 10 2,
    field b 5 3 + field b 12 4, r⟩
def parseLane (b : List Byte) : LaneRec :=
  ⟨field b 0 1, field b 1 1, field b 2 2, (List.range 16).map (fun i => field b (4 + i) 1)⟩
def parseCaddy (b : List Byte) : CaddyRec := ⟨field b 0 1, field b 2 2, field b 4 2, field b 6 2, field b 1 1⟩
def parseSteep (b : List Byte) : SteepRec := ⟨field b 0 1, field b 1 1, field b 2 1, field b 4 4, field b 3 1⟩
def parsePower (b : List Byte) : PowerRec := ⟨field b 0 1, field b 1 1, field b 2 2⟩
def parseRegion (b : List Byte) : RegionRec := ⟨field b 0 1, field b 1 1, field b 2 2, field b 4 4⟩
def parseParam (r : Nat) (b : List Byte) : ParamRec := ⟨field b 0 1, field b 1 1, field b 2 2, field b 4 4, r⟩
def parseSync (b : List Byte) : SyncRec :=
  { link := field b 0 1, width := field b 1 1, depth := field b 2 1, preLen := field b 3 1
    preamble := [field b 4 2, field b 6 2, field b 8 2], sof := field b 10 2, sol := field b 12 2
    eol := field b 14 2, eof := field b 16 2, blank := field b 18 2, activeW := field b 20 2
    activeH := field b 22 2, order := field b 24 1, pad := field b 25 7 }

/-- The presets of Table 7.4 as (PH, PV, TYPEs row by row): 0 R, 1 G, 2 B, 3 C, 4 IR. -/
def presetSites : Nat → Nat × Nat × List Nat
  | 1 => (2, 2, [0, 1, 1, 2])
  | 2 => (2, 2, [1, 0, 2, 1])
  | 3 => (2, 2, [1, 2, 0, 1])
  | 4 => (2, 2, [2, 1, 1, 0])
  | 5 => (4, 4, [3, 0, 3, 1, 0, 3, 1, 3, 3, 1, 3, 2, 1, 3, 2, 3])
  | 6 => (2, 2, [0, 1, 4, 2])
  | 7 => (4, 4, [2, 1, 0, 1, 1, 4, 1, 4, 0, 1, 2, 1, 1, 4, 1, 4])
  | 8 => (4, 4, [0, 0, 1, 1, 0, 0, 1, 1, 1, 1, 2, 2, 1, 1, 2, 2])
  | _ => (1, 1, [3])

/-- One MOSAIC record (Table 7.2); a preset brings its own period and sites. -/
def parseMosaic (r : Nat) (b : List Byte) : MosaicRec :=
  let p := field b 2 1
  if p = 0 then
    let ph := field b 4 1
    let pv := field b 5 1
    ⟨field b 0 1, field b 1 1, p, field b 3 1, ph, pv,
      (List.range (ph * pv)).map (fun i => (field b (8 + i) 1 % 8, bits (field b (8 + i) 1) 4 3)), b, r⟩
  else
    let (ph, pv, l) := presetSites p
    ⟨field b 0 1, field b 1 1, p, field b 3 1, ph, pv, l.map (fun t => (t, 0)), b, r⟩

/-- The variable-length records of a MOSAIC body; none when a LENGTH does not fit. -/
def splitMosaic : Nat → List Byte → Option (List (List Byte))
  | 0, _ => none
  | n + 1, l =>
    if l.isEmpty then some [] else
      let k := field l 6 2
      if k < 8 ∨ l.length < k then none else (splitMosaic n (l.drop k)).map (l.take k :: ·)

def mosaicPieces (l : List Byte) : Option (List (List Byte)) := splitMosaic (l.length / 8 + 1) l

/-- The record size of a section type (Table 2.3); 0 for a variable size. -/
def recSize : Nat → Nat
  | 1 => 8 | 2 => 4 | 3 => 16 | 4 => 20 | 5 => 8 | 6 => 8 | 7 => 4 | 8 => 8 | 9 => 8 | 11 => 32 | _ => 0

def isGlobalType (t : Nat) : Bool := [4, 5, 6, 7, 8, 11].contains t
def isKnownType (t : Nat) : Bool := decide (1 ≤ t ∧ t ≤ 11)

/-- A body is a whole number of records, after the STEEP preamble (R42). -/
def Sec.whole (x : Sec) : Bool :=
  if x.typ = 6 then decide (8 ≤ x.len ∧ (x.len - 8) % 8 = 0)
  else if x.typ = 10 then (mosaicPieces x.body).isSome
  else if isKnownType x.typ then decide (x.len % recSize x.typ = 0) else true

def bodiesOf (l : List Sec) (t : Nat) : List (Nat × List Byte) := (l.filter (fun x => x.typ == t)).map (fun x => (x.region, x.body))

/-- The records of all sections of one type. -/
def recsOf {α : Type} (l : List Sec) (t : Nat) (f : Nat → List Byte → α) : List α :=
  (bodiesOf l t).flatMap (fun x => (chunks (recSize t) x.2).map (f x.1))

def cfgOf (img : List Byte) : FabCfg :=
  let l := sectionsOf img
  { version := field img 4 2
    build := field img 0x10 8
    tiles := recsOf l 1 parseTile
    routes := recsOf l 2 parseRoute
    brews := recsOf l 3 parseBrew
    lanes := recsOf l 4 (fun _ => parseLane)
    caddy := if l.any (fun x => x.typ == 5) then some (recsOf l 5 (fun _ => parseCaddy)) else none
    steep := (bodiesOf l 6).head?.map (fun x => (field x.2 0 4 + 2 ^ 32 * field x.2 4 4, (chunks 8 (x.2.drop 8)).map parseSteep))
    power := recsOf l 7 (fun _ => parsePower)
    regions := recsOf l 8 (fun _ => parseRegion)
    params := recsOf l 9 parseParam
    mosaics := (bodiesOf l 10).flatMap (fun x => ((mosaicPieces x.2).getD []).map (parseMosaic x.1))
    syncs := recsOf l 11 (fun _ => parseSync) }

/-! ### Checks. Each answers the fault's CODE and FAIL_SECTION, or nothing. -/

abbrev Check := Option (Nat × Nat)

def check (ok : Bool) (code sec : Nat) : Check := if ok then none else some (code, sec)

/-- The first fault of a list of checks. -/
def firstOf : List Check → Check
  | [] => none
  | none :: r => firstOf r
  | some x :: _ => some x

def allZero (l : List Byte) : Bool := l.all (· == 0)

/-- Checks 2 to 7: the header (Table 2.1, R40). `len` is FAB_LOAD_LEN. -/
def checkHeader (img : List Byte) (len : Nat) : Check :=
  let n := field img 8 4
  let flags := field img 0x0E 2
  firstOf [
    check (field img 0 4 == 0x54415246 && field img 6 2 == 0x40) 0x10 0xFF,
    check (field img 4 2 == 3 || field img 4 2 == 4) 0x11 0xFF,
    check (n == len && decide (256 ≤ n ∧ n ≤ 0x1000000 ∧ n % 8 = 0)) 0x12 0xFF,
    check (field img 0x3C 4 == crc32c (img.take 0x3C)) 0x13 0xFF,
    check (field img 0x1F 1 == 0 && allZero (slice img 0x28 20) && decide (flags < 2) &&
      (field img 4 2 == 4 || field img 0x1E 1 == 0) && (flags == 1 || field img 0x20 8 == 0)) 0x13 0xFF,
    check (field img 0x18 4 == 0x4B589600) 0x14 0xFF,
    check (decide (field img 0x1C 1 ≤ 1)) 0x15 0xFF]

/-- Checks 8 and 9: the key slot and the signature (R41). -/
def State.checkKey (s : State) (img : List Byte) : Check :=
  let k := field img 0x1D 1
  match (if k < 4 ∧ ¬ s.sec.revoked.testBit k then sget none s.sec.keys k else none) with
  | none => some (0x16, 0xFF)
  | some key => check (edVerify key (img.take (img.length - 64)) (img.drop (img.length - 64))) 0x17 0xFF

/-- Two byte ranges overlap. A range of no bytes that begins strictly inside another counts as overlapping it: the spec does
not say (DESIGN CHOICE, log 16). -/
def overlaps (a n b m : Nat) : Bool := decide (a < b + m ∧ b < a + n)

/-- Check 10 for one section, given the entries before it (R40, R42); the multiplicity of types binds a full image. -/
def Sec.okIn (x : Sec) (full : Bool) (imgLen count : Nat) (earlier : List Sec) : Bool :=
  x.pad == 0 && decide (x.region ≤ 7) && decide (x.off % 8 = 0) && decide (x.off + x.len ≤ imgLen) &&
  !overlaps x.off x.len 0 (0x40 + 16 * count) && !overlaps x.off x.len (imgLen - 64) 64 &&
  earlier.all (fun y => !overlaps x.off x.len y.off y.len) && x.whole &&
  (!isGlobalType x.typ || x.region == 0) &&
  (!full || !isKnownType x.typ || earlier.all (fun y => !(y.typ == x.typ && y.region == x.region)))

def checkTableFrom (full : Bool) (imgLen count : Nat) (earlier : List Sec) : List Sec → Check
  | [] => none
  | x :: r => if x.okIn full imgLen count earlier then checkTableFrom full imgLen count (earlier ++ [x]) r else some (0x18, x.idx)

/-- Check 10: the section table. -/
def checkTable (img : List Byte) (l : List Sec) : Check :=
  firstOf [check (decide (1 ≤ l.length ∧ l.length ≤ 64 ∧ 0x40 + 16 * l.length + 64 ≤ img.length)) 0x18 0xFF,
    checkTableFrom (field img 0x0E 2 % 2 == 0) img.length l.length [] l]

def failIdx (l : List Sec) (p : Sec → Bool) (code : Nat) : Check :=
  match l.find? p with
  | some x => some (code, x.idx)
  | none => none

/-- Checks 11 and 12: section CRCs and types (R43). -/
def checkSections (img : List Byte) (l : List Sec) : Check :=
  firstOf [failIdx l (fun x => x.crc != crc32c x.body) 0x19,
    failIdx l (fun x => !isKnownType x.typ && x.req || field img 4 2 == 3 && x.typ == 8) 0x1A]

/-- The section of a type and region, for FAIL_SECTION. -/
def secOf (l : List Sec) (t r : Nat) : Nat :=
  match l.find? (fun x => x.typ == t && x.region == r) with
  | some x => x.idx
  | none => 0xFF

/-- The records that a section's body holds. -/
def Sec.count (x : Sec) : Nat :=
  if x.typ = 10 then ((mosaicPieces x.body).getD []).length else (x.len + recSize x.typ - 1) / recSize x.typ

/-- The section that holds record `n` of those that the sections of a type hold in order. -/
def secAt : List Sec → Nat → Nat
  | [], _ => 0xFF
  | x :: r, n => if n < x.count then x.idx else secAt r (n - x.count)

/-- A fault of the first record that breaks a rule, in its section. -/
def failRec {α : Type} (l : List Sec) (t code : Nat) (recs : List α) (bad : α → Bool) : Check :=
  match recs.findIdx? bad with
  | some n => some (code, secAt (l.filter (fun x => x.typ == t)) n)
  | none => none

/-- Regions that a partial image replaces, as a mask. -/
def FabCfg.regionMask (c : FabCfg) : Nat := c.regions.foldl (fun m r => m ||| 2 ^ r.region) 0

/-- RELOADABLE regions of an image, as a mask (R68: none in a version 3 image). -/
def FabCfg.reloadable (c : FabCfg) : Nat :=
  (c.regions.filter (fun r => r.flags % 2 == 1)).foldl (fun m r => m ||| 2 ^ r.region) 0

/-- Check 13: partial-load conditions (R59); `part` is FAB_LOAD.PARTIAL, `mask` FAB_LOAD.REGIONS. -/
def checkPartial (img : List Byte) (c : FabCfg) (active : Option FabCfg) (part : Bool) (mask : Nat) : Check :=
  if !part then check (field img 0x0E 2 == 0) 0x21 0xFF else
    match active with
    | none => some (0x21, 0xFF)
    | some a =>
      firstOf [
        check (field img 0x0E 2 == 1 && a.version == 4 && decide (mask ≠ 0) && mask == c.regionMask &&
          c.regions.all (fun r => decide (1 ≤ r.region ∧ r.region ≤ 7) && a.reloadable.testBit r.region) &&
          c.lanes.isEmpty && c.caddy.isNone && c.steep.isNone && c.power.isEmpty && c.syncs.isEmpty &&
          (sectionsOf img).all (fun x => !List.contains [4, 5, 6, 7, 11] x.typ)) 0x21 0xFF,
        check (field img 0x20 8 == 0 || field img 0x20 8 == a.build) 0x22 0xFF]

/-- Tiles that may feed a route of the image from outside it: those of the active image's other regions (R60). -/
def outsideTiles (active : Option FabCfg) (part : Bool) (mask : Nat) : List TileRec :=
  if part then
    match active with
    | none => []
    | some a => a.tiles.filter (fun t => !mask.testBit t.region)
  else []

/-- Follow input-A routes up to the root; at most 48 steps in a tree without a cycle (R20). -/
def reachesRoot (routes : List RouteRec) (root : Nat) : Nat → Nat → Bool
  | 0, _ => false
  | n + 1, t =>
    if t = root then true else
      match routes.find? (fun r => r.dst == t && r.dstPort == 0) with
      | some r => reachesRoot routes root n r.src
      | none => false

/-- No route path leads from a tile back to itself, input-B routes included (R20). -/
def upstreamOf (routes : List RouteRec) : Nat → List Nat → List Nat
  | 0, seen => seen
  | n + 1, seen =>
    upstreamOf routes n ((routes.filter (fun r => seen.contains r.dst && !seen.contains r.src)).foldl
      (fun l r => if l.contains r.src then l else l ++ [r.src]) seen)

/-- A tile lies on a cycle of routes. Input-B routes count, those between brews included: the spec names only a brew's own
routes (DESIGN CHOICE, log 17). -/
def onCycle (routes : List RouteRec) (t : Nat) : Bool :=
  (upstreamOf routes 48 ((routes.filter (fun r => r.dst == t)).map (·.src))).contains t

/-- Routes that a partial load leaves in place: those of the active image's other regions (R61). -/
def keptRoutes (active : Option FabCfg) (part : Bool) (mask : Nat) : List RouteRec :=
  if part then
    match active with
    | none => []
    | some a => a.routes.filter (fun r => !mask.testBit r.region)
  else []

/-- A ROUTE record is sound in itself and against the tiles known (R13, R44, R220). Of tiles outside a partial image only the
source of a route into input B may be one (R60). -/
def routeOk (c : FabCfg) (known : List TileRec) (r : RouteRec) : Bool :=
  let has (t : Nat) := c.tiles.any (fun x => x.tile == t)
  r.srcPort == 0 && decide (r.src < 48) && (if r.dst < 48 ∧ r.dstPort = 1 then known.any (fun x => x.tile == r.src) else has r.src) &&
  (if r.dst = 0xFF then decide (r.dstPort < 12) && [TileKind.opk, .sta, .ana].contains (tileKind r.src)
   else if r.dst = 0xFE then decide (r.dstPort < 2) && tileKind r.src == .opk
   else decide (r.dst < 48) && has r.dst && !hasMemOut r.src && !isRootKind r.dst &&
     (r.dstPort == 0 || r.dstPort == 1 && hasInputB r.dst) &&
     (let b (t : Nat) := (known.find? (fun x => x.tile == t)).map (·.brew)
      if r.dstPort = 0 then b r.src == b r.dst
      else !(tileKind r.dst == .ana && c.brews.any (fun w => some w.brew == b r.dst && w.share == 1 && w.feeder != 0xFF))))

/-- A BREW record and its tiles (R20, R22, R44). QDEPTH above 4 and reserved bytes that are not 0 fail here: the spec names no
check for them (DESIGN CHOICE, log 17). -/
def brewOk (c : FabCfg) (b : BrewRec) : Bool :=
  let ts := c.tiles.filter (fun t => t.brew == b.brew)
  decide (b.brew < 16) && decide (b.root < 48) && isRootKind b.root && (b.feeder == 0xFF || decide (b.share < 2)) && decide (b.qdepth ≤ 4) && b.pad == 0 &&
  decide (64 ≤ b.maxW ∧ b.maxW ≤ 16384 ∧ 16 ≤ b.maxH ∧ b.maxH ≤ 12288) &&
  (b.feeder == 0xFF || decide (b.feeder < 4) && decide (b.root < 4) && ts.any (fun t => t.tile == b.feeder && t.flags == 2)) &&
  ts.any (fun t => t.tile == b.root && t.flags == 1) &&
  ts.all (fun t => t.flags != 1 || t.tile == b.root) && ts.all (fun t => t.flags != 2 || t.tile == b.feeder) &&
  ts.all (fun t => t.flags != 0 || reachesRoot c.routes b.root 48 t.tile && !isRootKind t.tile)

/-- A TILE record (Table 2.4). Reserved bytes or a RATE that are not 0 where the table gives 0 fail here: the spec names no
check for them (DESIGN CHOICE, log 17). -/
def tileOk (c : FabCfg) (t : TileRec) : Bool :=
  decide (t.tile < 48) && t.pad == 0 && decide (t.flags < 3) && (isRootKind t.tile || t.rate == 0) &&
  c.brews.any (fun b => b.brew == t.brew) && decide ((c.tiles.filter (fun x => x.tile == t.tile)).length = 1) &&
  (t.flags != 2 || c.routes.all (fun r => r.src != t.tile && r.dst != t.tile))

/-- Route counts of a tile's output and inputs among all the routes in force (R16, R20, R44). -/
def tileRoutesOk (routes : List RouteRec) (t : TileRec) : Bool :=
  let out := routes.filter (fun r => r.src == t.tile)
  decide (out.length ≤ 4) && !onCycle routes t.tile &&
  [0, 1].all (fun p => decide ((routes.filter (fun r => r.dst == t.tile && r.dstPort == p)).length ≤ 1)) &&
  (tileKind t.tile != .sta || decide (out.length = 1) && out.all (fun r => r.dst == 0xFF)) &&
  (tileKind t.tile != .opk || decide (out.length = 1) && out.all (fun r => decide (0xFE ≤ r.dst)))

/-- A MOSAIC record (R173). -/
def mosaicOk (c : FabCfg) (m : MosaicRec) : Bool :=
  c.brews.any (fun b => b.brew == m.brew && b.region == m.region && (m.ctx == 0 || b.share == 1)) &&
  decide (m.ctx < 2) && decide (m.preset ≤ 9) &&
  decide ((c.mosaics.filter (fun x => x.brew == m.brew && x.ctx == m.ctx)).length = 1) &&
  (if m.preset = 0 then
    decide (1 ≤ m.ph ∧ m.ph ≤ 8 ∧ 1 ≤ m.pv ∧ m.pv ≤ 8) && m.raw.length == 8 + (m.ph * m.pv + 7) / 8 * 8 &&
    allZero (m.raw.drop (8 + m.ph * m.pv)) && (slice m.raw 8 (m.ph * m.pv)).all (fun x => x &&& 0x88#8 == 0)
   else field m.raw 4 1 == 0 && field m.raw 5 1 == 0 && m.raw.length == 8) &&
  m.sites.all (fun x => decide (x.1 ≤ 5) && (if x.1 = 5 then decide (x.2 ≤ 4) else x.2 == 0)) &&
  m.sites.any (fun x => x.1 != 5) &&
  (m.guideByte == 0xFF || decide (m.guideByte ≤ 4) && m.sites.any (fun x => x.1 == m.guideByte))

def needsMosaic (t : Nat) : Bool := [TileKind.rwc, .dms, .sta, .syn, .ana].contains (tileKind t)

/-- Check 14: tiles, routes, brews, parameters, mosaics (R44, R51, R173, R191, R220). -/
def checkTiles (l : List Sec) (c : FabCfg) (out : List TileRec) (kept : List RouteRec) : Check :=
  let known := c.tiles ++ out
  let routes := c.routes ++ kept
  firstOf [
    failRec l 1 0x1B c.tiles (fun t => !tileOk c t),
    failRec l 2 0x1B c.routes (fun r => !routeOk c known r),
    failRec l 1 0x1B c.tiles (fun t => !tileRoutesOk routes t),
    failRec l 2 0x1B c.routes (fun r => out.any (fun t => (t.tile == r.src || t.tile == r.dst) && !tileRoutesOk routes t)),
    failRec l 3 0x1B c.brews (fun b => !brewOk c b || (c.brews.filter (fun x => x.brew == b.brew)).length != 1),
    failRec l 9 0x1B c.params (fun p => p.pad != 0 || decide (p.off < 0x10) || decide (0xFFC < p.off) || p.off % 4 != 0 ||
      !c.tiles.any (fun t => t.tile == p.tile && t.region == p.region)),
    failRec l 10 0x1B c.mosaics (fun m => !mosaicOk c m),
    match c.brews.find? (fun b => c.tiles.any (fun t => t.brew == b.brew && needsMosaic t.tile) &&
        !c.mosaics.any (fun m => m.brew == b.brew && m.ctx == 0)) with
    | some b => some (0x1B, secOf l 10 b.region)
    | none => none]

/-- Check 15: pixel rates (R24, R45). A RATE of 0 or above 9,600 on an ingest or pattern tile (Table 2.4) fails here: the spec
names no code for it (DESIGN CHOICE, log 17). In a partial load the ingest tiles outside it count with their rates. -/
def checkRates (l : List Sec) (c : FabCfg) (out : List TileRec) : Check :=
  let rate (t : Nat) := ((c.tiles.find? (fun x => x.tile == t)).map (·.rate)).getD 0
  firstOf [
    failRec l 1 0x1C c.tiles (fun t => isRootKind t.tile && (t.rate == 0 || decide (9600 < t.rate))),
    failRec l 3 0x1C c.brews (fun b => b.feeder != 0xFF && b.share == 1 && (decide (4800 < rate b.root) || decide (4800 < rate b.feeder))),
    check (decide ((((c.tiles ++ out).filter (fun t => decide (t.tile < 4))).map (·.rate)).sum ≤ 19200)) 0x1C 0xFF]

/-- The lanes a LANE record bonds, in logical order. -/
def LaneRec.used (r : LaneRec) : List Nat := r.lanes.take r.count

/-- A LANE record against Tables 2.7, 2.8 and 3.1 (R46). -/
def laneOk (r : LaneRec) : Bool :=
  let isSens := decide (r.link < 4)
  let range := if r.link < 2 then some (0, 32) else if r.link < 4 then some (32, 64)
    else if 0x10 ≤ r.link ∧ r.link < 0x20 then some (64, 80) else if 0x20 ≤ r.link ∧ r.link < 0x28 then some (80, 88) else none
  match range with
  | none => false
  | some (lo, hi) =>
    (if isSens then decide (1 ≤ r.count ∧ r.count ≤ 16) && decide (1000 ≤ r.rate ∧ r.rate ≤ 16000)
     else [1, 2, 4].contains r.count && r.rate == 0) &&
    r.used.all (fun x => decide (lo ≤ x ∧ x < hi)) && (r.lanes.drop r.count).all (· == 0xFF)

/-- No element twice. -/
def noRepeats : List Nat → Bool
  | [] => true
  | x :: r => !r.contains x && noRepeats r

/-- A SYNC record (R112, Table 4.6). -/
def syncOk (c : FabCfg) (y : SyncRec) : Bool :=
  match c.lanes.find? (fun r => r.link == y.link) with
  | none => false
  | some r =>
    decide (y.link < 4) && decide (8 ≤ y.width ∧ y.width ≤ 16) && decide (8 ≤ y.depth ∧ y.depth ≤ y.width) && decide (1 ≤ y.preLen ∧ y.preLen ≤ 3) &&
    y.activeW % r.count == 0 && noRepeats [y.sof % 2 ^ y.width, y.sol % 2 ^ y.width, y.eol % 2 ^ y.width, y.eof % 2 ^ y.width] &&
    decide (y.order < 2) && y.pad == 0

/-- Check 16: lanes (R46, R73, R112). -/
def checkLanes (l : List Sec) (c : FabCfg) : Check :=
  let quadRate := c.lanes.flatMap (fun r => if r.link < 4 then r.used.map (fun x => (x / 4, r.rate)) else [])
  firstOf [
    check (c.lanes.all laneOk && noRepeats (c.lanes.map (·.link)) && noRepeats (c.lanes.flatMap (·.used)) &&
      quadRate.all (fun p => quadRate.all (fun q => p.1 != q.1 || p.2 == q.2))) 0x1D (secOf l 4 0),
    check (c.syncs.all (syncOk c) && noRepeats (c.syncs.map (·.link))) 0x1D (secOf l 11 0)]

/-- Check 17: caddy (R47, R356). `fixed` is the class 7 RESERVE in force since the first full load. -/
def checkCaddy (l : List Sec) (c : FabCfg) (fixed : Option Nat) : Check :=
  match c.caddy with
  | none => none
  | some rs =>
    let r7 := ((rs.find? (fun r => r.cls == 7)).map (·.reserve)).getD 0
    check (decide ((rs.map (·.reserve)).sum ≤ 12288) && noRepeats (rs.map (·.cls)) &&
      rs.all (fun r => decide (r.cls ≤ 7) && r.pad == 0 && (r.limit == 0 || decide (r.reserve ≤ r.limit))) &&
      (match fixed with | some x => x == r7 | none => true)) 0x1E (secOf l 5 0)

/-- Check 18: steep (R48). -/
def checkSteep (l : List Sec) (c : FabCfg) : Check :=
  match c.steep with
  | none => none
  | some (p, rs) =>
    check (p % 256 == 0 && decide (1024 ≤ p ∧ p ≤ 32768) &&
      decide (((rs.filter (fun r => r.cls < 2)).map (·.bursts)).sum ≤ 4 * p) && noRepeats (rs.map (·.client)) &&
      rs.all (fun r => decide (r.client < 32) && decide (r.cls ≤ 2) && decide (r.enforce < 8) && r.pad == 0 && (r.cls != 2 || r.bursts == 0)))
      0x1F (secOf l 6 0)

/-- The region a brew belongs to (R50). -/
def regionOfBrew (c : FabCfg) (b : Nat) : Nat :=
  ((c.regions.find? (fun r => r.brews.testBit b)).map (·.region)).getD 0

/-- Check 19, R50 and R68. -/
def checkRegions (img : List Byte) (l : List Sec) (c : FabCfg) (out : List TileRec) : Check :=
  let regionOf (t : Nat) := ((c.tiles ++ out).find? (fun x => x.tile == t)).map (·.region)
  firstOf [
    check (c.regions.all (fun r => decide (1 ≤ r.region ∧ r.region ≤ 7) && decide (r.flags < 2) && r.pad == 0) &&
      noRepeats (c.regions.map (·.region)) &&
      (List.range 16).all (fun b => decide ((c.regions.filter (fun r => r.brews.testBit b)).length ≤ 1)) &&
      (field img 4 2 == 3 || field img 0x1E 1 == c.regions.length)) 0x20 (secOf l 8 0),
    failIdx l (fun x => x.region != 0 && !c.regions.any (fun r => r.region == x.region)) 0x20,
    failRec l 3 0x20 c.brews (fun b => b.region != regionOfBrew c b.brew),
    failRec l 1 0x20 c.tiles (fun t => t.region != regionOfBrew c t.brew),
    failRec l 2 0x20 c.routes (fun r =>
      if 0xFE ≤ r.dst then regionOf r.src != some r.region
      else regionOf r.dst != some r.region || r.dstPort == 0 && regionOf r.src != some r.region)]

/-- Check 19, R60: what a partial image may touch. -/
def checkPartialTiles (l : List Sec) (c : FabCfg) (active : Option FabCfg) (mask : Nat) : Check :=
  match active with
  | none => none
  | some a =>
    let others := a.tiles.filter (fun t => !mask.testBit t.region)
    firstOf [
      failRec l 1 0x20 c.tiles (fun t => others.any (fun x => x.tile == t.tile) || !mask.testBit t.region),
      failRec l 3 0x20 c.brews (fun b => a.brews.any (fun x => x.brew == b.brew && !mask.testBit x.region)),
      check (a.routes.all (fun r => mask.testBit r.region || r.dst ≥ 0xFE || r.dstPort == 0 ||
        (match a.tiles.find? (fun t => t.tile == r.src) with
          | none => true
          | some t => !mask.testBit t.region || c.tiles.any (fun x => x.tile == t.tile && x.brew == t.brew)))) 0x20 0xFF]

/-- Check 20: power (R49). -/
def checkPower (l : List Sec) (c : FabCfg) : Check :=
  check (c.power.all (fun r => decide (r.domain ≤ 147 ∧ r.policy ≤ 2)) && noRepeats (c.power.map (·.domain))) 0x25 (secOf l 7 0)

/-- Checks 2 to 20 of Table 2.15 in order. `fixed` as in `checkCaddy`. -/
def State.checkImage (s : State) (img : List Byte) (len mask : Nat) (part : Bool) (fixed : Option Nat) : Check :=
  match firstOf [checkHeader img len] with
  | some x => some x
  | none =>
    let l := sectionsOf img
    let c := cfgOf img
    let out := outsideTiles s.active part mask
    firstOf [s.checkKey img, checkTable img l, checkSections img l, checkPartial img c s.active part mask,
      checkTiles l c out (keptRoutes s.active part mask), checkRates l c out, checkLanes l c, checkCaddy l c fixed, checkSteep l c,
      checkRegions img l c out, if part then checkPartialTiles l c s.active mask else none, checkPower l c]

end Sys2Proof.Machine
end

