-- ==== Sys2Proof/Machine/Fp24.lean ====
section
/-! DEFINITION. fp24 (R169 to R171): the exact value of a component, exact expressions with the special
values of IEEE 754, the one rounding rnd, and the transfer functions (R185, R186). -/

namespace Sys2Proof.Machine

/-- An exact value: NaN, a signed infinity, or a rational number. -/
inductive XR where
  | nan
  | inf (neg : Bool)
  | fin (q : Rat)
deriving DecidableEq, Repr, Inhabited

/-- 2 to an integer power. -/
def pow2 (e : Int) : Rat := if 0 ≤ e then ((2 ^ e.toNat : Nat) : Rat) else 1 / ((2 ^ (-e).toNat : Nat) : Rat)

/-- The canonical NaN (R171) and 1.0. -/
def fpNaN : Nat := 0x7FC000
def fpOne : Nat := 0x3F8000
def fpInf (neg : Bool) : Nat := if neg then 0xFF8000 else 0x7F8000

/-- The value of an fp24 code (Table 7.1). -/
def fpVal (c : Nat) : XR :=
  let e := bits c 15 8
  let m := c % 32768
  let neg := c.testBit 23
  if e = 255 then (if m = 0 then .inf neg else .nan)
  else
    let a : Rat := if e = 0 then (m : Rat) * pow2 (-141) else ((32768 + m : Nat) : Rat) * pow2 ((e : Int) - 142)
    .fin (if neg then -a else a)

namespace XR

def neg : XR → XR
  | nan => nan
  | inf b => inf (!b)
  | fin q => fin (-q)

def add : XR → XR → XR
  | nan, _ => nan
  | _, nan => nan
  | inf a, inf b => if a = b then inf a else nan
  | inf a, fin _ => inf a
  | fin _, inf b => inf b
  | fin p, fin q => fin (p + q)

def sub (a b : XR) : XR := a.add b.neg

def mul : XR → XR → XR
  | nan, _ => nan
  | _, nan => nan
  | inf a, inf b => inf (a != b)
  | inf a, fin q => if q = 0 then nan else inf (a != decide (q < 0))
  | fin p, inf b => if p = 0 then nan else inf (decide (p < 0) != b)
  | fin p, fin q => fin (p * q)

/-- Product with a rational constant. -/
def scale (a : XR) (k : Rat) : XR := a.mul (fin k)

def abs : XR → XR
  | nan => nan
  | inf _ => inf false
  | fin q => fin (if q < 0 then -q else q)

/-- a < b; false when either is NaN. -/
def lt : XR → XR → Bool
  | nan, _ => false
  | _, nan => false
  | inf a, inf b => a && !b
  | inf a, fin _ => a
  | fin _, inf b => !b
  | fin p, fin q => decide (p < q)

def le : XR → XR → Bool
  | nan, _ => false
  | _, nan => false
  | a, b => !lt b a

/-- Sum of a list, from 0. -/
def sum (l : List XR) : XR := l.foldl add (fin 0)

def isNaN : XR → Bool
  | nan => true
  | _ => false

end XR

/-- Nearest integer, a tie to the even one. -/
def roundEven (q : Rat) : Int :=
  let f := q.floor
  let d := q - (f : Rat)
  if d < 1 / 2 then f else if 1 / 2 < d then f + 1 else if f % 2 = 0 then f else f + 1

/-- ⌊log₂ a⌋ of a positive rational. -/
def ilog2 (a : Rat) : Int :=
  let n := a.num.toNat.log2
  let d := a.den.log2
  let e : Int := (n : Int) - (d : Int)
  if pow2 e ≤ a then e else e - 1

/-- A magnitude rounded to a binary format of `p` fraction bits with exponents from -126: the code below the
sign, which runs on from binade to binade. -/
def roundMag (a : Rat) (p : Nat) : Nat :=
  if a ≤ 0 then 0 else
    let e := max (ilog2 a) (-126)
    let m := (roundEven (a * pow2 ((p : Int) - e))).toNat
    (e + 126).toNat * 2 ^ p + m

/-- rnd (R170). -/
def rnd : XR → Nat
  | .nan => fpNaN
  | .inf b => fpInf b
  | .fin q =>
    let c := roundMag (if q < 0 then -q else q) 15
    let neg := decide (q < 0)
    if 255 * 32768 ≤ c then fpInf neg
    else if c = 0 then 0
    else c + (if neg then 0x800000 else 0)

/-- A rational rounded to IEEE 754 binary32, nearest even. -/
def f32 (q : Rat) : Rat :=
  let a := if q < 0 then -q else q
  if a = 0 then 0 else
    let e := max (ilog2 a) (-126)
    let r := ((roundEven (a * pow2 (23 - e)) : Int) : Rat) * pow2 (e - 23)
    if q < 0 then -r else r

def fpIsNaN (c : Nat) : Bool := (fpVal c).isNaN
def fpIsInf (c : Nat) : Bool := c % 0x800000 == 0x7F8000

/-! ### Logarithm and power in fixed point of 192 fraction bits (log 9) -/

def fixP : Nat := 192
def toFix (q : Rat) : Int := (q * pow2 fixP).floor
def ofFix (i : Int) : Rat := (i : Rat) * pow2 (-(fixP : Int))
def fixMul (a b : Int) : Int := a * b / 2 ^ fixP

/-- Σ z^(2i+1)/(2i+1) from term `k` on, `n` terms. -/
def atanhTerms (z2 : Int) : Nat → Nat → Int → Int
  | 0, _, _ => 0
  | n + 1, k, t => t / (2 * k + 1 : Nat) + atanhTerms z2 n (k + 1) (fixMul t z2)

/-- ln m for 1 ≤ m < 2. -/
def lnUnit (m : Rat) : Int :=
  let z := toFix ((m - 1) / (m + 1))
  2 * atanhTerms (fixMul z z) 64 0 z

def ln2Fix : Int := 2 * atanhTerms (toFix (1 / 9)) 64 0 (toFix (1 / 3))

/-- ln q, q > 0. -/
def lnFix (q : Rat) : Int :=
  let e := ilog2 q
  lnUnit (q / pow2 e) + e * ln2Fix

def expTerms (r : Int) : Nat → Nat → Int → Int
  | 0, _, _ => 0
  | n + 1, k, t => t + expTerms r n (k + 1) (fixMul t r / (k + 1 : Nat))

/-- e to a fixed-point power. -/
def expFix (x : Int) : Rat :=
  let k := x / ln2Fix
  ofFix (expTerms (x - k * ln2Fix) 64 0 (2 ^ fixP)) * pow2 k

/-- q to the power a, q ≥ 0. -/
def powR (q a : Rat) : Rat := if q ≤ 0 then 0 else expFix (toFix (a * ofFix (lnFix q)))

def lnR (q : Rat) : Rat := ofFix (lnFix q)
def log2R (q : Rat) : Rat := lnR q / ofFix ln2Fix
def exp2R (q : Rat) : Rat := expFix (toFix (q * ofFix ln2Fix))

/-! ### Transfer functions (Table 7.7) -/

def pqC1 : Rat := 3424 / 4096
def pqC2 : Rat := 2413 / 128
def pqC3 : Rat := 2392 / 128
def hlgA : Rat := 17883277 / 100000000
def hlgB : Rat := 28466892 / 100000000
def hlgC : Rat := 55991073 / 100000000
def acesA : Rat := 105402377416545 / 10000000000000
def acesB : Rat := 729055341958355 / 10000000000000000

/-- The formula of a curve's curved branch, encode or decode, at x ≥ 0. -/
def curveAt (sel : Nat) (dec : Bool) (x : Rat) : Rat :=
  match sel, dec with
  | 1, false => 1099 / 1000 * powR x (9 / 20) - 99 / 1000
  | 1, true => powR ((x + 99 / 1000) / (1099 / 1000)) (20 / 9)
  | 2, false => powR x (5 / 12)
  | 2, true => powR x (12 / 5)
  | 3, false => 1055 / 1000 * powR x (5 / 12) - 55 / 1000
  | 3, true => powR ((x + 55 / 1000) / (1055 / 1000)) (12 / 5)
  | 4, false =>
    let y := powR x (2610 / 16384)
    powR ((pqC1 + pqC2 * y) / (1 + pqC3 * y)) (2523 / 32)
  | 4, true =>
    let y := powR x (32 / 2523)
    powR ((if y < pqC1 then 0 else y - pqC1) / (pqC2 - pqC3 * y)) (16384 / 2610)
  | 5, false => hlgA * lnR (12 * x - hlgB) + hlgC
  | 5, true => (expFix (toFix ((x - hlgC) / hlgA)) + hlgB) / 12
  | 6, false => (log2R x + 972 / 100) / (1752 / 100)
  | 6, true => exp2R (x * (1752 / 100) - 972 / 100)
  | 7, false => 625 / 10000 * log2R (x + 1 / 256) + 625 / 1000
  | 7, true => exp2R (16 * x - 10) - 1 / 256
  | _, _ => x

/-- HLG's square branch, which has nodes as the curved branch has. -/
def hlgLow (dec : Bool) (x : Rat) : Rat := if dec then x * x / 3 else powR (3 * x) (1 / 2)

/-- The linear branch of a curve as (a, b, breakpoint, whether the breakpoint itself lies in it). -/
def linearBranch (sel : Nat) (dec : Bool) : Option (Rat × Rat × Rat × Bool) :=
  let enc : Option (Rat × Rat × Rat × Bool) :=
    match sel with
    | 1 => some (9 / 2, 0, 18 / 1000, false)
    | 3 => some (1292 / 100, 0, 31308 / 10000000, true)
    | 6 => some (acesA, acesB, 78125 / 10000000, true)
    | 7 => some (16 / ofFix ln2Fix, 125 / 1000, 0, false)
    | _ => none
  match enc with
  | none => none
  | some (a, b, p, incl) =>
    if dec then some (f32 (1 / a), f32 (-b / a), f32 (if incl then a * p + b else curveAt sel false p), incl)
    else some (f32 a, f32 b, f32 p, incl)

/-- Step 3 to 5 of R185 for x > 0 given as its fp24 code, with the branch formula `f` and K. -/
def nodesOut (f : Rat → Rat) (k c : Nat) : Rat :=
  let e := bits c 15 8
  let m := c % 32768
  let i := m / 2 ^ (15 - k)
  let t : Rat := ((m % 2 ^ (15 - k) : Nat) : Rat) / ((2 ^ (15 - k) : Nat) : Rat)
  let node (n : Nat) : Rat :=
    if e = 0 then pow2 (-126) * (n : Rat) / ((2 ^ k : Nat) : Rat)
    else pow2 ((e : Int) - 127) * (1 + (n : Rat) / ((2 ^ k : Nat) : Rat))
  let a := f32 (f (node i))
  let b := f32 (f (node (i + 1)))
  a + (b - a) * t

/-- A curve at a finite input whose sign has been dealt with: `q` its value, `c` its code (c's sign bit is only
set where the linear branch takes negative inputs). -/
def curveFin (sel : Nat) (dec : Bool) (q : Rat) (c : Nat) : Nat :=
  let k := if dec then 11 else 8
  let low := decide (sel = 5) && decide (q ≤ (if dec then f32 (1 / 2) else f32 (1 / 12)))
  let f := if low then hlgLow dec else curveAt sel dec
  match linearBranch sel dec with
  | some (a, b, p, incl) =>
    if q < p ∨ (incl ∧ q = p) then rnd (.fin (a * q + b))
    else if q = 0 then rnd (.fin (f 0)) else rnd (.fin (nodesOut f k c))
  | none => if q = 0 then rnd (.fin (f 0)) else rnd (.fin (nodesOut f k c))

/-- The upper (and symmetric lower) decode limit, as an fp24 code. -/
def decodeLimit : Nat → Nat
  | 1 => 0x408000 | 2 => 0x408000 | 3 => 0x408000 | 4 => 0x3F8000 | 5 => 0x3FC000 | 6 => 0x3FBBE6 | _ => 0x400000

/-- fp24 with the sign turned. -/
def fpNeg (c : Nat) : Nat := if c % 0x800000 = 0 then c else if c.testBit 23 then c - 0x800000 else c + 0x800000

/-- A transfer function stage (R185, R186). -/
def transfer (sel : Nat) (dec : Bool) (c : Nat) : Nat :=
  if sel = 0 ∨ 8 ≤ sel then c else
    if fpIsNaN c then fpNaN else
      let odd := sel = 1 ∨ sel = 2 ∨ sel = 3 ∨ sel = 5
      let neg := c.testBit 23 && c % 0x800000 != 0
      let mag := c % 0x800000
      if odd then
        let mag := if dec ∧ decodeLimit sel < mag then decodeLimit sel else mag
        let r := if mag = 0x7F8000 then fpInf false
          else match fpVal mag with
            | .fin q => curveFin sel dec q mag
            | _ => fpNaN
        if neg then fpNeg r else r
      else if sel = 4 then
        let mag := if neg then 0 else if dec ∧ decodeLimit 4 < mag then decodeLimit 4 else mag
        match fpVal mag with
        | .fin q => curveFin 4 dec q mag
        | _ => fpNaN
      else
        let c := if dec ∧ !neg ∧ decodeLimit sel < mag then decodeLimit sel else c
        match fpVal c with
        | .fin q => curveFin sel dec q c
        | .inf b => fpInf b
        | .nan => fpNaN

end Sys2Proof.Machine
end

