-- ==== Sys2Proof/Machine/Raw.lean ====
section
/-! DEFINITION. Pictures, parameter sets and mosaics as the tiles use them, and the raw-correction tile
(R148 to R152, R558). -/

namespace Sys2Proof.Machine

/-! ### Pictures -/

/-- Component `c` of position (x, y). -/
def Pic.at (p : Pic) (c x y : Nat) : Nat := (((p.rows.getD y []).getD x []).getD c 0)

/-- A picture from the value of each component of each position. -/
def Pic.build (w h n : Nat) (f : Nat → Nat → Nat → Nat) : Pic :=
  ⟨w, h, n, (List.range h).map (fun y => (List.range w).map (fun x => (List.range n).map (fun c => f c x y)))⟩

/-- Positions of a picture in raster order. -/
def Pic.positions (p : Pic) : List (Nat × Nat) :=
  (List.range p.h).flatMap (fun y => (List.range p.w).map (fun x => (x, y)))

def emptyPic : Pic := ⟨0, 0, 0, []⟩

/-! ### Parameter sets (R144) -/

/-- The parameter set and tables a frame is processed with. -/
structure Par where
  words : Sparse Word
  tabs : Sparse (List Byte)

def Par.get (p : Par) (f : Fld) : Nat := getBits (sget (resetWord f.reg) p.words f.reg) f.hi f.lo
def Par.on (p : Par) (f : Fld) : Bool := decide (p.get f = 1)
def Par.addr (p : Par) (lo hi : Nat) : Nat :=
  (sget (resetWord lo) p.words lo).toNat + 2 ^ 32 * (sget (resetWord hi) p.words hi).toNat
/-- An indexed tile word (site and coefficient memories). -/
def Par.ix (p : Par) (off : Nat) : Nat := (sget (ixReset off) p.words off).toNat

/-- Key of table `k` of tile `t`, context `c`. -/
def tabKey (t c k : Nat) : Nat := 32 * t + 16 * c + k
def Par.tab (p : Par) (t c k : Nat) : List Byte := sget [] p.tabs (tabKey t c k)

/-- Tables by kind: 0 defect list, 1 shading grid, 2 L1D, 3 L3D, 4 pattern program, 5 patches, 6 warp grid,
7 filter table. -/
def tabDef : Nat := 0
def tabShade : Nat := 1
def tabL1D : Nat := 2
def tabL3D : Nat := 3
def tabProg : Nat := 4
def tabPatch : Nat := 5
def tabWarp : Nat := 6
def tabFilt : Nat := 7

/-! ### Mosaics (R172, R174) -/

/-- A brew with no mosaic: one site of no particular type (SDI input, playback of pictures). -/
def plainMosaic : MosaicRec := ⟨0, 0, 9, 0xFF, 1, 1, [(3, 0)], [], 0⟩

/-- TYPE and STANDIN of the site of (x, y). -/
def MosaicRec.siteAt (m : MosaicRec) (x y : Nat) : Nat × Nat :=
  m.sites.getD ((y % m.pv) * m.ph + x % m.ph) (3, 0)

/-- The site index s of (x, y). -/
def MosaicRec.s (m : MosaicRec) (x y : Nat) : Nat := 8 * (y % m.pv) + x % m.ph

/-- The channel type of a site, an M site's stand-in in its place. -/
def MosaicRec.chan (m : MosaicRec) (x y : Nat) : Nat :=
  let t := m.siteAt x y
  if t.1 = 5 then t.2 else t.1

def MosaicRec.isM (m : MosaicRec) (x y : Nat) : Bool := (m.siteAt x y).1 == 5

/-- The guide channel in use (R174): the given one, else the type with the most sites, first of G, C, R, B, IR. -/
def MosaicRec.guide (m : MosaicRec) : Nat :=
  if m.guideByte ≠ 0xFF then m.guideByte else
    let cnt (k : Nat) := (m.sites.filter (fun x => x.1 == k)).length
    [1, 3, 0, 2, 4].foldl (fun best k => if cnt best < cnt k then k else best) 1

/-- The record of a brew's context: a context 1 without a record of its own uses that of context 0 (R174). -/
def FabCfg.mosaicOf (c : FabCfg) (brew ctx : Nat) : Option MosaicRec :=
  match c.mosaics.find? (fun m => m.brew == brew && m.ctx == ctx) with
  | some m => some m
  | none => c.mosaics.find? (fun m => m.brew == brew && m.ctx == 0)

/-! ### Lens shading (R151) -/

/-- The exact gain of plane `p` at (x, y) of a grid of 16-byte nodes. -/
def shadeGain (tab : List Byte) (gx gy kx ky p x y : Nat) : Rat :=
  let node (i j : Nat) : Nat := field tab (16 * ((min j (gy - 1)) * gx + min i (gx - 1)) + 2 * p) 2
  let i := x / 2 ^ kx
  let j := y / 2 ^ ky
  let fx := x - i * 2 ^ kx
  let fy := y - j * 2 ^ ky
  let n := (node i j * (2 ^ kx - fx) + node (i + 1) j * fx) * (2 ^ ky - fy) +
    (node i (j + 1) * (2 ^ kx - fx) + node (i + 1) (j + 1) * fx) * fy
  (n : Rat) / ((2 ^ (12 + kx + ky) : Nat) : Rat)

/-- The grid covers a frame of MAX_W × MAX_H (R151). -/
def gridOk (gx gy kx ky w h : Nat) : Bool :=
  decide (gx ≤ 129 ∧ gy ≤ 97 ∧ 5 ≤ kx ∧ kx ≤ 10 ∧ 5 ≤ ky ∧ ky ≤ 10 ∧
    (w - 1) / 2 ^ kx + 2 ≤ gx ∧ (h - 1) / 2 ^ ky + 2 ≤ gy)

/-! ### Raw correction -/

/-- What a raw-correction tile works with for one component of one frame. -/
structure RawView where
  w : Nat
  h : Nat
  ch : Nat → Nat → Nat
  isStatic : Nat → Nat → Bool
  b : Nat → Nat → Nat

/-- nearest (R149): the nearest sample of channel `c0` within 8 positions in one direction. -/
def RawView.nearest (v : RawView) (c0 : Nat) (x y dx dy : Int) : Nat → Nat → Option XR
  | 0, _ => none
  | n + 1, k =>
    let u := x + (k : Int) * dx
    let w := y + (k : Int) * dy
    if u < 0 ∨ w < 0 ∨ (v.w : Int) ≤ u ∨ (v.h : Int) ≤ w then none
    else if v.ch u.toNat w.toNat = c0 ∧ !v.isStatic u.toNat w.toNat then some (fpVal (v.b u.toNat w.toNat))
    else v.nearest c0 x y dx dy n (k + 1)

/-- The neighbours left, right, up, down. -/
def RawView.around (v : RawView) (x y : Nat) : Option XR × Option XR × Option XR × Option XR :=
  let f (dx dy : Int) := v.nearest (v.ch x y) x y dx dy 8 1
  (f (-1) 0, f 1 0, f 0 (-1), f 0 1)

def half (a b : XR) : Nat := rnd ((a.add b).scale (1 / 2))

/-- correct (R149). -/
def RawView.correct (v : RawView) (isM : Bool) (x y : Nat) : Nat :=
  match v.around x y with
  | (some l, some r, some u, some d) =>
    if l.isNaN || r.isNaN || u.isNaN || d.isNaN then fpNaN
    else if (l.sub r).abs.le (u.sub d).abs then half l r
    else if (l.sub r).isNaN || (u.sub d).isNaN then fpNaN else half u d
  | (some l, some r, _, _) => half l r
  | (_, _, some u, some d) => half u d
  | (l, r, u, d) =>
    let p := [l, r, u, d].filterMap id
    if p.isEmpty then (if isM then 0 else v.b x y)
    else rnd ((XR.sum p).scale (1 / (p.length : Rat)))

/-- The comparisons that decide a dynamic defect have a NaN operand or are invalid: the output is the canonical NaN (R171). -/
def RawView.dynamicNaN (v : RawView) (thr : XR) (x y : Nat) : Bool :=
  match v.around x y with
  | (some l, some r, some u, some d) =>
    let b := fpVal (v.b x y)
    [l, r, u, d, b, thr].any XR.isNaN || [l, r, u, d].any (fun q => (b.sub q).isNaN)
  | _ => false

/-- A dynamic defect (R149). -/
def RawView.isDynamic (v : RawView) (thr : XR) (x y : Nat) : Bool :=
  match v.around x y with
  | (some l, some r, some u, some d) =>
    let b := fpVal (v.b x y)
    let mx (p q : XR) := if p.lt q then q else p
    let mn (p q : XR) := if q.lt p then q else p
    if [l, r, u, d, b].any XR.isNaN then false
    else thr.lt (b.sub (mx (mx l r) (mx u d))) || thr.lt ((mn (mn l r) (mn u d)).sub b)
  | _ => false

/-- The positions of a defect list (R150): bits 31:18 y, 17:4 x. -/
def defectPositions (tab : List Byte) : List (Nat × Nat) :=
  (chunks 4 tab).map (fun e => (bits (leNat e) 4 14, bits (leNat e) 18 14))

/-- Zero is +0 (R152). -/
def plusZero (c : Nat) : Nat := if c % 0x800000 = 0 then 0 else c

/-- The output of raw-correction tile `t` in context `k`, with the static and dynamic corrections made. -/
def rawCorrect (p : Par) (m : MosaicRec) (t k : Nat) (i : Pic) : Pic × Nat × Nat :=
  let j := t - 4
  let mono := i.n == 1
  let black := Pic.build i.w i.h i.n (fun c x y =>
    let v := i.at c x y
    if p.on (F.RWC_CTRL.BLK_EN j k) then
      rnd ((((fpVal v).scale 16).sub (.fin (p.ix (ixBlack t k (m.s x y))))).mul (fpVal (p.ix (ixGain t k (m.s x y)))) |>.scale (1 / 16))
    else v)
  let defEn := p.on (F.RWC_CTRL.DEF_EN j k)
  let dynEn := p.on (F.RWC_CTRL.DYN_EN j k)
  let list := if defEn then defectPositions (p.tab t k tabDef) else []
  let isStatic (x y : Nat) : Bool := m.isM x y || list.contains (x, y)
  let view (c : Nat) : RawView := ⟨i.w, i.h, fun x y => if mono then m.chan x y else c, isStatic, fun x y => black.at c x y⟩
  let thr := fpVal (p.get (F.RWC_DYN.THR j k))
  let dyn (c x y : Nat) : Bool := dynEn && !isStatic x y && (view c).isDynamic thr x y
  let fixed := Pic.build i.w i.h i.n (fun c x y =>
    if dynEn && !isStatic x y && (view c).dynamicNaN thr x y then fpNaN
    else if (defEn && isStatic x y) || dyn c x y then (view c).correct (m.isM x y) x y else black.at c x y)
  let count (f : Nat → Nat → Nat → Bool) : Nat :=
    (i.positions.map (fun q => ((List.range i.n).filter (fun c => f c q.1 q.2)).length)).sum
  let out := Pic.build i.w i.h i.n (fun c x y =>
    let d := fixed.at c x y
    let d := if p.on (F.RWC_CTRL.SHD_EN j k) then
        rnd ((fpVal d).scale (shadeGain (p.tab t k tabShade) (p.get (F.RWC_SHD_GEOM.GX j k)) (p.get (F.RWC_SHD_GEOM.GY j k))
          (p.get (F.RWC_SHD_GEOM.KX j k)) (p.get (F.RWC_SHD_GEOM.KY j k)) (if mono then m.chan x y else c) x y))
      else d
    plusZero (if p.on (F.RWC_CTRL.NEG_CLAMP j k) && (fpVal d).lt (.fin 0) then 0 else d))
  (out, count (fun _ x y => defEn && isStatic x y), count dyn)

end Sys2Proof.Machine
end

