-- ==== Sys2Proof/Machine/Colour.lean ====
section
/-! DEFINITION. The demosaic tile (R175 to R177), the colour tile (R179 to R186, R188) and integer encoding
(R189, R190). -/

namespace Sys2Proof.Machine

/-! ### Demosaic -/

/-- A coordinate moved by whole periods into [0, n) (R175). -/
def shiftIn (u : Int) (period n : Nat) : Nat :=
  if 0 ≤ u ∧ u < n then u.toNat
  else if u < 0 then (u + ((-u).toNat + period - 1) / period * period).toNat
  else (u - ((u.toNat - n) / period + 1 : Nat) * period).toNat

/-- What the demosaic pseudocode of R176 works with. -/
structure DmsView where
  w : Nat
  h : Nat
  ph : Nat
  pv : Nat
  chv : Nat → Nat → Option Nat
  v : Nat → Nat → Nat
  g : Nat
  thr : Nat
  alpha : Nat

def DmsView.shift (d : DmsView) (u w : Int) : Nat × Nat := (shiftIn u d.ph d.w, shiftIn w d.pv d.h)

/-- near: the nearest sample of channel `k` along one direction, with its distance. -/
def DmsView.near (d : DmsView) (x y dx dy : Int) (k : Nat) : Nat → Nat → Option (XR × Nat)
  | 0, _ => none
  | f + 1, n =>
    let (u, w) := d.shift (x + n * dx) (y + n * dy)
    if d.chv u w = some k then some (fpVal (d.v u w), n) else d.near x y dx dy k f (n + 1)

/-- (a·db + b·da)/(da + db). -/
def interp (a : XR) (da : Nat) (b : XR) (db : Nat) : XR :=
  ((a.scale (db : Rat)).add (b.scale (da : Rat))).scale (1 / ((da + db : Nat) : Rat))

/-- axis: the guide estimate and gradient along one axis. -/
def DmsView.axis (d : DmsView) (x y : Nat) (dx dy : Int) : Option (Nat × XR) :=
  match d.near x y (-dx) (-dy) d.g 8 1, d.near x y dx dy d.g 8 1 with
  | some (a, da), some (b, db) =>
    let lap : XR := match d.chv x y with
      | none => .fin 0
      | some k =>
        match d.near x y (-dx) (-dy) k 8 1, d.near x y dx dy k 8 1 with
        | some (p, dp), some (q, dq) => (fpVal (d.v x y)).sub (interp p dp q dq)
        | _, _ => .fin 0
    some (rnd ((interp a da b db).add (lap.scale ((d.alpha : Rat) / 32))), (b.sub a).abs.add lap.abs)
  | _, _ => none

def offsets9 : List (Int × Int) :=
  (List.range 9).flatMap (fun (j : Nat) => (List.range 9).map (fun (i : Nat) => ((i : Int) - 4, (j : Int) - 4)))

/-- window: the weighted 9 × 9 estimate of channel `k`; `ref` is the guide plane, or none. -/
def DmsView.window (d : DmsView) (x y k : Nat) (ref : Option (Nat → Nat → Nat)) : Nat :=
  let samples := offsets9.filterMap (fun o =>
    let (u, w) := d.shift ((x : Int) + o.1) ((y : Int) + o.2)
    if d.chv u w = some k then
      let wt := (5 - max o.1.natAbs o.2.natAbs) ^ 2
      let e := match ref with
        | none => fpVal (d.v u w)
        | some g => fpVal (rnd ((fpVal (d.v u w)).sub (fpVal (g u w))))
      some (wt, e)
    else none)
  let den := (samples.map (·.1)).sum
  let num := XR.sum (samples.map (fun p => p.2.scale (p.1 : Rat)))
  let q := rnd (num.scale (1 / (den : Rat)))
  match ref with
  | none => q
  | some g => rnd ((fpVal (g x y)).add (fpVal q))

/-- Pass 1: the guide plane. -/
def DmsView.guideAt (d : DmsView) (x y : Nat) : Nat :=
  if d.chv x y = some d.g then d.v x y else
    match d.axis x y 1 0, d.axis x y 0 1 with
    | none, none => d.window x y d.g none
    | some (e, _), none => e
    | none, some (e, _) => e
    | some (h, hg), some (u, ug) =>
      if hg.isNaN || ug.isNaN then fpNaN
      else if (hg.scale 16).lt (ug.scale ((16 : Rat) - d.thr)) then h
      else if (ug.scale 16).lt (hg.scale ((16 : Rat) - d.thr)) then u
      else half (fpVal h) (fpVal u)

/-- The output of demosaic tile `t` in context `k` (R176, R177). -/
def demosaic (p : Par) (m : MosaicRec) (t k : Nat) (i : Pic) : Pic :=
  let j := t - 8
  let skip := p.on (F.DMS_CFG.MSKIP j k)
  let chv (x y : Nat) : Option Nat := if m.isM x y && skip then none else some (m.chan x y)
  let d : DmsView := ⟨i.w, i.h, m.ph, m.pv, chv, fun x y => i.at 0 x y, m.guide, p.get (F.DMS_CFG.THR j k),
    min (p.get (F.DMS_CFG.ALPHA j k)) 16⟩
  let gp := Pic.build i.w i.h 1 (fun _ x y => d.guideAt x y)
  let g (x y : Nat) : Nat := gp.at 0 x y
  let views := m.sites.filterMap (fun s => if s.1 = 5 then (if skip then none else some s.2) else some s.1)
  let single := (List.range 5).countP (fun k => m.sites.any (fun s => s.1 == k)) == 1
  let plane (c x y : Nat) : Nat :=
    if c = m.guide ∨ (single && decide (c < 3)) then g x y
    else if !views.contains c then 0
    else if chv x y = some c then d.v x y else d.window x y c (some g)
  let planes := match p.get (F.DMS_CFG.OUT j k) with
    | 1 => [0, 1, 2, 3]
    | 2 => [0, 1, 2, 4]
    | _ => [0, 1, 2]
  Pic.build i.w i.h planes.length (fun c x y => plane (planes.getD c 0) x y)

/-! ### Colour -/

/-- Σ K_j × in_j, one rounding (R180). -/
def dot (k v : List Nat) : Nat := rnd (XR.sum (List.zipWith (fun a b => (fpVal a).mul (fpVal b)) k v))

/-- A node position (R181): (i, f), or none for NaN. An infinite input takes an end of the axis whatever DMIN and KS are. -/
def nodePos (dmin ks nodes x : Nat) : Option (Nat × Nat) :=
  let top := (nodes - 1) * 65536
  let at_ (pf : Nat) : Option (Nat × Nat) := let i := min (pf / 65536) (nodes - 2); some (i, pf - i * 65536)
  match fpVal x with
  | .nan => none
  | .inf neg => at_ (if neg then 0 else top)
  | v =>
    match (v.sub (fpVal dmin)).mul (fpVal ks) with
    | .nan => none
    | .inf neg => at_ (if neg then 0 else top)
    | .fin q => at_ (min ((q * 65536).floor.toNat) top)

/-- Word `i` of a table of 4-byte words. -/
def tabWord (tab : List Byte) (i : Nat) : Nat := field tab (4 * i) 4

/-- L1D (R182). -/
def lut1 (tab : List Byte) (shared : Bool) (dmin ks c x : Nat) : Nat :=
  match nodePos dmin ks 4096 x with
  | none => fpNaN
  | some (i, f) =>
    let base := if shared then 0 else 4096 * c
    let a := fpVal (tabWord tab (base + i))
    let b := fpVal (tabWord tab (base + i + 1))
    rnd (a.add ((b.sub a).scale ((f : Rat) / 65536)))

/-- L3D (R183). -/
def lut3 (tab : List Byte) (n dmin ks : Nat) (v : List Nat) : List Nat :=
  match nodePos dmin ks n (v.getD 0 0), nodePos dmin ks n (v.getD 1 0), nodePos dmin ks n (v.getD 2 0) with
  | some (i, fr), some (j, fg), some (k, fb) =>
    (List.range 3).map (fun c =>
      let nd (a b d : Nat) : XR := fpVal (tabWord tab (3 * ((i + a) + n * (j + b) + n * n * (k + d)) + c))
      let c000 := nd 0 0 0
      let c111 := nd 1 1 1
      let t (a b : XR) (f : Nat) : XR := (a.sub b).scale (f : Rat)
      let s := c000.scale 65536
      let s :=
        if fg ≤ fr ∧ fb ≤ fg then ((s.add (t (nd 1 0 0) c000 fr)).add (t (nd 1 1 0) (nd 1 0 0) fg)).add (t c111 (nd 1 1 0) fb)
        else if fb ≤ fr ∧ fg ≤ fb then ((s.add (t (nd 1 0 0) c000 fr)).add (t (nd 1 0 1) (nd 1 0 0) fb)).add (t c111 (nd 1 0 1) fg)
        else if fr ≤ fb ∧ fg ≤ fr then ((s.add (t (nd 0 0 1) c000 fb)).add (t (nd 1 0 1) (nd 0 0 1) fr)).add (t c111 (nd 1 0 1) fg)
        else if fr ≤ fg ∧ fb ≤ fr then ((s.add (t (nd 0 1 0) c000 fg)).add (t (nd 1 1 0) (nd 0 1 0) fr)).add (t c111 (nd 1 1 0) fb)
        else if fb ≤ fg ∧ fr ≤ fb then ((s.add (t (nd 0 1 0) c000 fg)).add (t (nd 0 1 1) (nd 0 1 0) fb)).add (t c111 (nd 0 1 1) fr)
        else ((s.add (t (nd 0 0 1) c000 fb)).add (t (nd 0 1 1) (nd 0 0 1) fg)).add (t c111 (nd 0 1 1) fr)
      rnd (s.scale (1 / 65536)))
  | _, _, _ => [fpNaN, fpNaN, fpNaN]

/-- A colour tile's stages on one position (R179); `v` has three or four components. -/
def colourAt (p : Par) (t k : Nat) (v : List Nat) : List Nat :=
  let j := t - 12
  let coef (i : Nat) : Nat := p.ix (ixCoef t k i)
  let row (b c : Nat) : List Nat := (List.range 4).map (fun i => coef (b + 4 * c + i))
  let rgb := v.take 3
  let irm := p.on (F.COL_CTRL.IRM_EN j k)
  let rest := if irm then [] else v.drop 3
  let v1 := if irm then [0, 1, 2].map (fun c => dot (row 0 c) (rgb ++ [v.getD 3 0])) else rgb
  let v2 := if p.on (F.COL_CTRL.MATA_EN j k) then [0, 1, 2].map (fun c => dot (row 12 c) (v1 ++ [fpOne])) else v1
  let v3 := v2.map (transfer (p.get (F.COL_TF.TFA_SEL j k)) (p.on (F.COL_TF.TFA_DEC j k)))
  let v4 := if p.on (F.COL_CTRL.L1D_EN j k) then
      [0, 1, 2].map (fun c => lut1 (p.tab t k tabL1D) (p.on (F.COL_CTRL.L1D_SHARED j k)) (coef 36) (coef 37) c (v3.getD c 0))
    else v3
  let v5 := if p.on (F.COL_CTRL.L3D_EN j k) then
      lut3 (p.tab t k tabL3D) (if p.on (F.COL_CTRL.L3D_N j k) then 65 else 33) (coef 38) (coef 39) v4
    else v4
  let v6 := if p.on (F.COL_CTRL.MATB_EN j k) then [0, 1, 2].map (fun c => dot (row 24 c) (v5 ++ [fpOne])) else v5
  v6.map (transfer (p.get (F.COL_TF.TFB_SEL j k)) (p.on (F.COL_TF.TFB_DEC j k))) ++ rest

/-- Positions of a picture with a NaN component, and with an infinite one and no NaN (Table 7.20). -/
def specials (p : Pic) : Nat × Nat :=
  let all := p.rows.flatMap id
  ((all.filter (fun v => v.any fpIsNaN)).length,
   (all.filter (fun v => !v.any fpIsNaN && v.any fpIsInf)).length)

/-- The output of colour tile `t` in context `k`. A one-component input v is taken as (v, v, v). -/
def colour (p : Par) (t k : Nat) (i : Pic) : Pic :=
  let f (v : List Nat) : List Nat := colourAt p t k (if i.n = 1 then [v.getD 0 0, v.getD 0 0, v.getD 0 0] else v)
  let n := if i.n = 4 ∧ ¬ p.on (F.COL_CTRL.IRM_EN (t - 12) k) then 4 else 3
  { i with n := n, rows := i.rows.map (fun r => r.map f) }

/-- The tags a colour tile sends on (R188): colour space and transfer. -/
def colourTags (p : Par) (t k : Nat) (tags : Nat × Nat) : Nat × Nat :=
  let j := t - 12
  let sp := let x := p.get (F.COL_CTRL.SPACE j k); if x = 7 then 0 else x
  let stage (sel : Nat) (dec : Bool) : Option Nat := if sel = 0 ∨ 8 ≤ sel ∨ dec then none else some sel
  let enc := match stage (p.get (F.COL_TF.TFB_SEL j k)) (p.on (F.COL_TF.TFB_DEC j k)) with
    | some x => some x
    | none => stage (p.get (F.COL_TF.TFA_SEL j k)) (p.on (F.COL_TF.TFA_DEC j k))
  match sp, enc with
  | 0, none => tags
  | _, e => (sp, e.getD 0)

/-! ### Integer encoding -/

/-- An exact component as an N-bit code (R189, R190). -/
def quantiseX (n : Nat) (narrow chroma : Bool) (v : XR) : Nat :=
  let q : Nat := 2 ^ (n - 8)
  let sc : Nat := if narrow then (if chroma then 224 * q else 219 * q) else 2 ^ n - 1
  let o : Nat := if narrow then (if chroma then 128 * q else 16 * q) else if chroma then 2 ^ (n - 1) else 0
  let lo : Nat := if narrow then q else 0
  let hi : Nat := if narrow then 2 ^ n - q - 1 else 2 ^ n - 1
  match v with
  | .nan => o
  | .inf neg => if neg then lo else hi
  | .fin x => (min (max (roundEven (x * (sc : Rat) + (o : Rat))) (lo : Int)) (hi : Int)).toNat

/-- An fp24 component as an N-bit code. -/
def quantise (n : Nat) (narrow chroma : Bool) (v : Nat) : Nat := quantiseX n narrow chroma (fpVal v)

end Sys2Proof.Machine
end

