-- ==== Sys2Proof/Machine/Measure.lean ====
section
/-! DEFINITION. What statistics and analysis tiles measure of a picture: the integer view and planes (R154,
R155, R213), the statistics record (R156 to R159, Table 6.1), the raw tap's layout (R165), and the analysis
record (R222 to R227, R229, Tables 9.1 and 9.2). -/

namespace Sys2Proof.Machine

/-! ### Integer view -/

/-- u of R154; `scale` is the signed exponent. -/
def uView (scale : Int) (v : Nat) : Nat :=
  match fpVal v with
  | .nan => 0
  | .inf neg => if neg then 0 else 65535
  | .fin q => (min (max (roundEven (q * pow2 scale)) 0) 65535).toNat

/-- The plane a position's component `c` contributes to (R155). `mOk` tells that the stream has passed a raw
correction with DEF_EN = 1. -/
def planeOf (m : MosaicRec) (n : Nat) (mOk : Bool) (c x y : Nat) : Option Nat :=
  if n ≠ 1 then some c
  else if m.isM x y && !mOk then none else some (min (m.chan x y) 3)

/-- The contributions of a picture: (x, y, plane, u). -/
def contributions (m : MosaicRec) (mOk : Bool) (scale : Int) (i : Pic) : List (Nat × Nat × Nat × Nat) :=
  i.positions.flatMap (fun (x, y) => (List.range i.n).filterMap (fun c =>
    (planeOf m i.n mOk c x y).map (fun p => (x, y, p, uView scale (i.at c x y)))))

/-- Entries of a histogram: counts by bin of (bin, …) over a list, saturating at 2³² − 1. -/
def countBins (n : Nat) (l : List Nat) : List Nat :=
  (List.range n).map (fun b => min ((l.filter (· == b)).length) (2 ^ 32 - 1))

/-! ### Window grids (R156) -/

structure Grid where
  x0 : Nat
  y0 : Nat
  cw : Nat
  ch : Nat
  nx : Nat
  ny : Nat

/-- The cell that holds (x, y). -/
def Grid.cellOf (g : Grid) (x y : Nat) : Option (Nat × Nat) :=
  if g.x0 ≤ x ∧ g.y0 ≤ y ∧ (x - g.x0) / g.cw < g.nx ∧ (y - g.y0) / g.ch < g.ny then
    some ((x - g.x0) / g.cw, (y - g.y0) / g.ch)
  else none

def Grid.aligned (g : Grid) (ph pv : Nat) : Bool :=
  g.x0 % ph == 0 && g.cw % ph == 0 && g.y0 % pv == 0 && g.ch % pv == 0

def Grid.sizeOk (g : Grid) (mx my : Nat) : Bool :=
  decide (8 ≤ g.cw ∧ g.cw ≤ 4096 ∧ 8 ≤ g.ch ∧ g.ch ≤ 4096 ∧ 1 ≤ g.nx ∧ g.nx ≤ mx ∧ 1 ≤ g.ny ∧ g.ny ≤ my)

def Grid.cells (g : Grid) : List (Nat × Nat) :=
  (List.range g.ny).flatMap (fun j => (List.range g.nx).map (fun i => (i, j)))

def staFocus (p : Par) (j k : Nat) : Grid :=
  ⟨p.get (F.STA_FORG.X0 j k), p.get (F.STA_FORG.Y0 j k), p.get (F.STA_FCELL.CW j k), p.get (F.STA_FCELL.CH j k),
    p.get (F.STA_GRIDN.FNX j k), p.get (F.STA_GRIDN.FNY j k)⟩
def staExposure (p : Par) (j k : Nat) : Grid :=
  ⟨p.get (F.STA_AORG.X0 j k), p.get (F.STA_AORG.Y0 j k), p.get (F.STA_ACELL.CW j k), p.get (F.STA_ACELL.CH j k),
    p.get (F.STA_GRIDN.ANX j k), p.get (F.STA_GRIDN.ANY j k)⟩

/-- The periods of R155. -/
def periodsFor (m : MosaicRec) (n : Nat) : Nat × Nat := if n = 1 then (m.ph, m.pv) else (1, 1)

/-- An enabled grid is out of alignment for a frame (R156). -/
def gridFault (p : Par) (m : MosaicRec) (j k n : Nat) : Bool :=
  let (ph, pv) := periodsFor m n
  p.on (F.STA_CFG.FOC_EN j k) && !(staFocus p j k).aligned ph pv ||
    (p.on (F.STA_CFG.AE_EN j k) || p.on (F.STA_CFG.HIST_EN j k)) && !(staExposure p j k).aligned ph pv

/-- Focus sums of one cell (R157): F1 and F2. -/
def focusCell (g : Grid) (m : MosaicRec) (mOk : Bool) (scale : Int) (fch : Nat) (i : Pic) (cell : Nat × Nat) : Nat × Nat :=
  let ph := (periodsFor m i.n).1
  let terms := (i.positions.flatMap (fun (x, y) => (List.range i.n).filterMap (fun c =>
    if planeOf m i.n mOk c x y = some fch ∧ ph ≤ x ∧ x + ph < i.w ∧ g.cellOf x y = some cell then
      let u (x : Nat) : Int := uView scale (i.at c x y)
      some ((u (x + ph) - u (x - ph)).natAbs, ((2 * u x - u (x - ph) - u (x + ph)) ^ 2).toNat)
    else none)))
  ((terms.map (·.1)).sum, (terms.map (·.2)).sum)

/-- The sections of a statistics record that are written: offset and bytes (Table 6.1). -/
def statsBody (p : Par) (m : MosaicRec) (mOk : Bool) (j k : Nat) (i : Pic) : List (Nat × List Byte) :=
  let scale := sint (p.get (F.STA_CFG.SCALE j k)) 5
  let fg := staFocus p j k
  let ag := staExposure p j k
  let con := contributions m mOk scale i
  let foc := if p.on (F.STA_CFG.FOC_EN j k) then
      fg.cells.map (fun c =>
        let (f1, f2) := focusCell fg m mOk scale (p.get (F.STA_CFG.FCH j k)) i c
        (0x40 + 16 * (16 * c.2 + c.1), leBytes 8 f1 ++ leBytes 8 f2))
    else []
  let hist := if p.on (F.STA_CFG.HIST_EN j k) then
      (List.range 4).map (fun pl =>
        let l := con.filterMap (fun (x, y, q, u) =>
          if q = pl ∧ (ag.cellOf x y).isSome then some (min 255 (u / 2 ^ min (p.get (F.STA_CFG.HSHIFT j k)) 8)) else none)
        (0x1040 + 1024 * pl, (countBins 256 l).flatMap (leBytes 4)))
    else []
  let ae := if p.on (F.STA_CFG.AE_EN j k) then
      ag.cells.map (fun c =>
        let l := con.filter (fun (x, y, _, _) => ag.cellOf x y == some c)
        let us (pl : Nat) := (l.filter (fun e => e.2.2.1 == pl)).map (fun e => e.2.2.2)
        (0x2040 + 48 * (32 * c.2 + c.1),
          (List.range 4).flatMap (fun pl => leBytes 8 (us pl).sum) ++
          (List.range 4).flatMap (fun pl => leBytes 4 ((us pl).filter (fun u => decide (p.get (F.STA_CLIP.CLIP j k) ≤ u))).length)))
    else []
  foc ++ hist ++ ae

/-- A record header with its CRC in bytes 0x3C to 0x3F. -/
def withCrc (b : List Byte) : List Byte :=
  let h := padTo 0x3C b
  h ++ leBytes 4 (crc32c h)

/-! ### Raw taps and B queues (R165, R215) -/

/-- Bytes of one component: 2 in U16, 4 in FP24. -/
def encBytes (fp : Bool) : Nat := if fp then 4 else 2

/-- The pitch P of R165. -/
def tapPitch (w n : Nat) (fp : Bool) : Nat := (w * n * encBytes fp + 63) / 64 * 64

/-- The bytes of one row as R165 lays them out, without padding. -/
def rowBytes (fp : Bool) (scale : Int) (row : List (List Nat)) : List Byte :=
  row.flatMap (fun v => v.flatMap (fun c => if fp then leBytes 4 c else leBytes 2 (uView scale c)))

/-- A row read back (R215). -/
def rowOfBytes (fp : Bool) (scale : Int) (w n : Nat) (b : List Byte) : List (List Nat) :=
  (List.range w).map (fun x => (List.range n).map (fun c =>
    let k := encBytes fp
    let v := field b (k * (n * x + c)) k
    if fp then v % 2 ^ 24 else rnd (.fin ((v : Rat) * pow2 (-scale)))))

/-! ### Analysis -/

/-- Frame CRC serialisation (R224) of rows. -/
def crcSerial (fp : Bool) (scale : Int) (rows : List (List (List Nat))) : List Byte := rows.flatMap (rowBytes fp scale)

/-- PSNR (R223): the largest n with 10ⁿ ≤ (PEAK² × N / SSE)^2560, by an estimate put right exactly. -/
def psnr (peak n sse : Nat) : Nat :=
  if sse = 0 then 0xFFFF else
    let num := peak * peak * n
    if num < sse then 0 else
      let ok (k : Nat) : Bool := decide (10 ^ k * (sse ^ 64) ^ 40 ≤ (num ^ 64) ^ 40)
      let est := ((2560 : Rat) * lnR ((num : Rat) / (sse : Rat)) / lnR 10).floor.toNat
      let r := if ok (est + 1) then est + 1 else if ok est then est else est - 1
      min r 0xFFFF

/-- The compare measures of two pictures of one size (R222). -/
structure Compare where
  bitdiff : Nat
  overthr : Nat
  first : Nat × Nat
  sse : List Nat
  maxdiff : List Nat

def absDiff (a b : Nat) : Nat := if a ≤ b then b - a else a - b

def overThr (scale : Int) (thr : Nat) (a b : Pic) (x y : Nat) : Bool :=
  (List.range a.n).any (fun c => decide (thr < absDiff (uView scale (a.at c x y)) (uView scale (b.at c x y))))

def comparePics (scale : Int) (thr : Nat) (a b : Pic) : Compare :=
  let diff (x y : Nat) := (List.range a.n).any (fun c => a.at c x y != b.at c x y)
  let d := a.positions.filter (fun q => diff q.1 q.2)
  let per (c : Nat) := a.positions.map (fun q => absDiff (uView scale (a.at c q.1 q.2)) (uView scale (b.at c q.1 q.2)))
  { bitdiff := d.length
    overthr := (a.positions.filter (fun q => overThr scale thr a b q.1 q.2)).length
    first := d.headD (0xFFFF, 0xFFFF)
    sse := (List.range a.n).map (fun c => ((per c).map (fun e => e * e)).sum)
    maxdiff := (List.range a.n).map (fun c => (per c).foldl max 0) }

/-- The patch list (R226): (X0, Y0, X1, Y1). -/
def patchList (tab : List Byte) : List (Nat × Nat × Nat × Nat) :=
  (chunks 8 tab).map (fun e => (field e 0 2, field e 2 2, field e 4 2, field e 6 2))

def sdiInInit : SdiIn := ⟨0, 0, 0, 0, 0, false, 0, [], []⟩

/-- The SDI status of a frame (R228): SDI_INPUT and the fields of Table 9.2. -/
structure SdiFrame where
  input : Nat
  flags : Nat
  crcErr : Nat
  pid : Nat
  tc : Nat

/-- The sections of an analysis record from input A alone (Table 9.1), LEGAL_SDI apart. -/
def anaBodyA (p : Par) (m : MosaicRec) (mOk : Bool) (t k : Nat) (a : Pic) : List (Nat × List Byte) :=
  let j := t - 36
  let scale := sint (p.get (F.ANA_CFG.SCALE j k)) 5
  let con := contributions m mOk scale a
  let u (c x y : Nat) : Nat := uView scale (a.at c x y)
  let hist := if p.on (F.ANA_CFG.HIST_EN j k) then
      (List.range 4).map (fun pl => (0x100 + 1024 * pl, (countBins 256 (con.filterMap (fun e =>
        if e.2.2.1 = pl then some (min 255 (e.2.2.2 / 2 ^ min (p.get (F.ANA_SHIFT.HSHIFT j k)) 8)) else none))).flatMap (leBytes 4)))
    else []
  let wf := if p.on (F.ANA_CFG.WF_EN j k) then
      let ws := 2 ^ min (p.get (F.ANA_SHIFT.WSHIFT j k)) 10
      [(0x1100, (countBins 8192 (a.positions.map (fun q =>
        64 * (128 * q.1 / a.w) + min 63 (u (p.get (F.ANA_SHIFT.WF_COMP j k)) q.1 q.2 / ws)))).flatMap (leBytes 4))]
    else []
  let vs := if p.on (F.ANA_CFG.VS_EN j k) ∧ a.n ≠ 1 then
      let sh := 2 ^ min (p.get (F.ANA_SHIFT.VSHIFT j k)) 10
      [(0x9100, (countBins 4096 (a.positions.map (fun q =>
        64 * min 63 (u 2 q.1 q.2 / sh) + min 63 (u 1 q.1 q.2 / sh)))).flatMap (leBytes 4))]
    else []
  let patch := if p.on (F.ANA_CFG.PATCH_EN j k) then
      (patchList (p.tab t k tabPatch)).zipIdx.map (fun (e, n) =>
        let l := a.positions.filter (fun q => decide (e.1 ≤ q.1 ∧ q.1 < e.2.2.1 ∧ e.2.1 ≤ q.2 ∧ q.2 < e.2.2.2))
        let us (c : Nat) := if c < a.n then l.map (fun q => u c q.1 q.2) else []
        (0xD100 + 64 * n, leBytes 4 l.length ++ zeros 4 ++ (List.range 3).flatMap (fun c => leBytes 8 (us c).sum) ++
          (List.range 3).flatMap (fun c => leBytes 8 ((us c).map (fun v => v * v)).sum) ++ zeros 8))
    else []
  hist ++ wf ++ vs ++ patch

/-- The LEGAL_SDI block (Table 9.2). -/
def legalSdi (p : Par) (j k : Nat) (a : Pic) (sdi : Option SdiFrame) : List (Nat × List Byte) :=
  let scale := sint (p.get (F.ANA_CFG.SCALE j k)) 5
  let out (f g : Fld) (c : Nat) (q : Nat × Nat) : Bool :=
    decide (c < a.n) && (let v := uView scale (a.at c q.1 q.2); decide (v < p.get f ∨ p.get g < v))
  let legal := if p.on (F.ANA_CFG.LEGAL_EN j k) then
      [(0x80, leBytes 4 (a.positions.filter (out (F.ANA_LEGAL0.LO j k) (F.ANA_LEGAL0.HI j k) 0)).length ++
        leBytes 4 (a.positions.filter (fun q => out (F.ANA_LEGALC.LO j k) (F.ANA_LEGALC.HI j k) 1 q ||
          out (F.ANA_LEGALC.LO j k) (F.ANA_LEGALC.HI j k) 2 q)).length)]
    else []
  legal ++ (match sdi with
    | none => []
    | some s => [(0x88, leBytes 1 s.input ++ leBytes 1 s.flags ++ zeros 2 ++ leBytes 4 s.crcErr ++ leBytes 4 s.pid ++
        leBytes 8 s.tc ++ zeros 36)])

/-- The error map (R229). -/
def errorMap (p : Par) (t k : Nat) (a : Pic) (b : Option Pic) : Pic :=
  let j := t - 36
  match b with
  | none => a
  | some b =>
    let scale := sint (p.get (F.ANA_CFG.SCALE j k)) 5
    let f (g : XR → XR → XR) : Pic := Pic.build a.w a.h a.n (fun c x y => rnd (g (fpVal (a.at c x y)) (fpVal (b.at c x y))))
    match p.get (F.ANA_CFG.EMAP j k) with
    | 1 => b
    | 2 => f XR.sub
    | 3 => f (fun u v => ((u.sub v).abs).mul (fpVal (p.get (F.ANA_EGAIN.GAIN j k))))
    | 4 => Pic.build a.w a.h a.n (fun _ x y => if overThr scale (p.get (F.ANA_THR.THR j k)) a b x y then fpOne else 0)
    | _ => a

/-- A frame in FORMAT 0, 1 or 2 of Table 5.4: bytes of one row read as a row of positions. -/
def formatRow (fmt w : Nat) (b : List Byte) : List (List Nat) :=
  match fmt with
  | 1 => (List.range w).map (fun x => [0, 1, 2].map (fun c => rnd (.fin ((field b (6 * x + 2 * c) 2 : Nat) : Rat))))
  | 2 => (List.range w).map (fun x => [0, 1, 2].map (fun c => field b (12 * x + 4 * c) 4 % 2 ^ 24))
  | _ => (List.range w).map (fun x => [rnd (.fin ((field b (2 * x) 2 : Nat) : Rat))])

/-- Bytes of one row in a format. -/
def formatRowBytes (fmt w : Nat) : Nat := match fmt with | 1 => 6 * w | 2 => 12 * w | _ => 2 * w
def formatComps (fmt : Nat) : Nat := if fmt = 1 ∨ fmt = 2 then 3 else 1

end Sys2Proof.Machine
end

