-- ==== Sys2Proof/Machine/Guard.lean ====
section
/-! DEFINITION. What every register access meets before it acts: power domains (R28, R474), tiles in no brew
(R21) or in a brew being loaded (R62), SYS_LOCK (R9, R552), and the action of each access type (Table 0.2). -/

namespace Sys2Proof.Machine

/-- The tile in whose page an offset lies. -/
def tileOfOff (off : Nat) : Option Nat := if 0x30000 ≤ off ∧ off < 0x60000 then some ((off - 0x30000) / 0x1000) else none

/-- The source ID of the block that holds a register (R511). -/
def blockSrc (off : Nat) : Nat :=
  match off / 0x10000 with
  | 0x02 => srcFab
  | 0x03 | 0x04 | 0x05 => srcTile ((off - 0x30000) / 0x1000)
  | 0x06 | 0x07 => if off < 0x78000 then 0x0600 + (off - 0x60000) / 0x400 else 0x0600
  | 0x08 => 0x0800 + (off - 0x80000) / 0x100 % 2
  | 0x09 => 0x0900 + (off - 0x90000) / 0x1000 % 4
  | 0x0D | 0x0E => 0x0D00 + (off - 0xD0000) / 0x4000
  | 0x12 => 0x1200 + (off - 0x120000) / 0x1000 % 2
  | b => b * 0x100

/-- A brew of whose tiles a load in progress holds the frames and registers: from the start of quiesce (R62). -/
def State.held (s : State) (b : Nat) : Bool :=
  match s.load with
  | none => false
  | some l => decide (2 ≤ s.get F.FAB_LOAD_STAT.PHASE) && l.replaced.contains b

/-- The brew that holds a tile. -/
def State.brewOf (s : State) (t : Nat) : Option Nat :=
  if s.on (F.FAB_TILE_STAT.ASSIGNED t) then some (s.get (F.FAB_TILE_STAT.BREW t)) else none

/-- An offset of the page of a tile whose brew has no stripe interleave at which context 1's registers would stand: reserved
(R141). -/
def State.ctxPage (s : State) (off : Nat) : Bool :=
  match tileOfOff off with
  | none => false
  | some t => decide (0x800 ≤ off % 0x1000) && (match s.brewOf t with
    | none => false
    | some b => match s.active.bind (fun c => c.brews.find? (fun r => r.brew == b)) with
      | none => true
      | some r => !(r.feeder != 0xFF && r.share == 1))

/-- A tile page that R62 closes to writes. -/
def State.heldPage (s : State) (off : Nat) : Bool :=
  match tileOfOff off with
  | none => false
  | some t => match s.brewOf t with
    | none => false
    | some b => s.held b

def State.locked (s : State) : Bool := s.on F.SYS_LOCK.LOCK

/-- A written field takes effect by its access type; WO and RO fields and the RC ones keep their stored bits. -/
def FieldDef.apply (f : FieldDef) (locked : Bool) (v w : Word) : Word :=
  let m := fmask f.hi f.lo
  match f.acc with
  | .rw | .rws => (w &&& ~~~m) ||| (v &&& m)
  | .rwl => if locked then w else (w &&& ~~~m) ||| (v &&& m)
  | .w1c => w &&& ~~~(v &&& m)
  | .w1s => w ||| (v &&& m)
  | _ => w

def RegDef.apply (d : RegDef) (locked : Bool) (v old : Word) : Word := d.fields.foldl (fun w f => f.apply locked v w) old

/-- The bits a write can set: everything that is no field of the register is ignored (R4). -/
def RegDef.known (d : RegDef) (v : Word) : Word := d.fields.foldl (fun w f => w ||| (v &&& fmask f.hi f.lo)) 0

/-- After SYS_LOCK, a write whose value for an RWL field differs from the field's posts one event (R552). -/
def State.lockEvent (s : State) (src off : Nat) (v : Word) : State :=
  match regDefAt off with
  | none => s
  | some d =>
    if s.locked && d.fields.any (fun f => f.acc == .rwl && ((v ^^^ s.reg off) &&& fmask f.hi f.lo) != 0) then s.postIgnored src 3 off else s

/-- The word stored by a write to `off`. -/
def State.written (s : State) (off : Nat) (v : Word) : Word :=
  match regDefAt off with
  | none => s.reg off
  | some d => d.apply s.locked v (s.reg off)

/-- A register write that acts on each field according to its access type (R6). -/
def State.plainWrite (s : State) (src off : Nat) (v : Word) : State :=
  (s.lockEvent src off v).wreg off (s.written off v)

/-- A write that reaches its register acts; one to an offset that the tile's brew leaves reserved has no effect (R5, R141), one
whose block's domain is off posts a severity-2 event naming the block (R28), and one into a page that R62 closes has no
effect. -/
def State.guardWrite (s : State) (off : Nat) (act : State → State) : State :=
  if s.ctxPage off then s
  else if !s.reachable off then s.postIgnored (blockSrc off) 2 off
  else if s.heldPage off then s
  else act (s.touchDomain off)

/-- A read that reaches its register; one whose block's domain is off reads 0, FAB_TILE_ID apart (R21, R28), and so does one of
an offset that the tile's brew leaves reserved (R5, R141). -/
def State.guardRead (s : State) (off : Nat) (act : State → Word × State) : Word × State :=
  if s.ctxPage off then (0, s) else
  match tileOfOff off with
  | some _ => if s.reachable off then act (s.touchDomain off) else if off % 0x1000 = 0 then (resetWord off, s) else (0, s)
  | none => if s.reachable off then act (s.touchDomain off) else (0, s)

/-- The data a read command returns. -/
def State.answer (r : Word × State) : State := { r.2 with rdata := [r.1] }

end Sys2Proof.Machine
end

