-- ==== Sys2Proof/Machine/TimeBase.lean ====
section
/-! DEFINITION. The counter of the time unit and its tick (R429 to R434), comparison against time (R435), capture
channels (R440), trigger times and the frame-start lag (R439). -/

namespace Sys2Proof.Machine

/-- One nanosecond in units of 2⁻³² ns, and one second. -/
def fracNs : Nat := 2 ^ 32
def secNs : Int := 1000000000

/-- The increment in units of 2⁻³² ns, held to its limits (R431). -/
def State.tickInc (s : State) : Nat :=
  min (max (s.get F.TIM_INC_HI.NS * fracNs + s.get F.TIM_INC_LO.FRAC) (3 * 2 ^ 31)) (5 * 2 ^ 31)

/-- The slew step of one tick, held to 2⁻⁸ ns (R434). -/
def State.slewStep (s : State) : Nat := min (s.get F.TIM_SLEW_STEP.STEP) 0x01000000

/-- The counter moved by a signed amount in 2⁻³² ns, the carry or borrow passing into SEC. -/
def timeAdd (t : Time) (d : Int) : Time :=
  let x : Int := ((t.ns.toNat * fracNs + t.frac.toNat : Nat) : Int) + d
  let whole := x / (fracNs : Int)
  let sec := ((t.sec.toNat : Nat) : Int) + whole / secNs
  ⟨BitVec.ofInt 48 sec, BitVec.ofNat 30 (whole % secNs).toNat, BitVec.ofNat 32 (x % (fracNs : Int)).toNat⟩

/-- What a tick adds of the slew, and the slew left (R434). -/
def State.slewTick (s : State) : Int × Option (Bool × Nat) :=
  match s.tim.slew with
  | none => (0, none)
  | some (neg, left) =>
    let k := min left s.slewStep
    (if neg then -((k : Nat) : Int) else ((k : Nat) : Int), if left ≤ s.slewStep then none else some (neg, left - k))

/-- One tick of TCLK (R429, R434). -/
def State.tick (s : State) : State :=
  let (d, sl) := s.slewTick
  { s with time := timeAdd s.time (((s.tickInc : Nat) : Int) + d), tim := { s.tim with slew := sl } }

/-- N[39:0] less a target, as a signed 40-bit number: the target is reached when it is 0 or more (R435). -/
def State.past (s : State) (target : Nat) : Int := -(sint ((target + 2 ^ 40 - s.now40) % 2 ^ 40) 40)

/-- A 40-bit target is reached (R435). -/
def State.reached (s : State) (target : Nat) : Bool := decide (0 ≤ s.past target)

/-- Nanoseconds as a time. -/
def timeOfNs (n : Nat) : Time := ⟨BitVec.ofNat 48 (n / 1000000000), BitVec.ofNat 30 (n % 1000000000), 0⟩

/-- A time less a number of nanoseconds. -/
def timeMinusNs (t : Time) (n : Nat) : Time := timeAdd t (-((n * fracNs : Nat) : Int))

/-! ### Captures (R440) -/

def State.capture (s : State) (j : Nat) : State :=
  if s.on (F.TIM_CAP_NS.VALID j) then s.bump (F.TIM_CAP_SEC_HI.LOST j)
  else s.andThen [(·.put (F.TIM_CAP_NS.NS j) s.time.ns.toNat), (·.put (F.TIM_CAP_SEC_LO.SEC j) s.time.sec.toNat),
    (·.put (F.TIM_CAP_SEC_HI.SEC j) (s.time.sec.toNat / 2 ^ 32)), (·.put (F.TIM_CAP_FRAC.FRAC j) (s.time.frac.toNat / 2 ^ 16)),
    (·.put (F.TIM_CAP_NS.VALID j) 1)]

/-- A read of TIM_CAPj_NS returns the capture and clears VALID. -/
def rdCapNs (j : Nat) (s : State) : Word × State := (s.reg (R.TIM_CAP_NS j), s.put (F.TIM_CAP_NS.VALID j) 0)

/-! ### Trigger times -/

/-- The latest firing since reset of the trigger that a route field selects, when the field enables it. -/
def State.routeFired (s : State) (f : Fld) : Option Time :=
  if (s.get f).testBit 4 then sget none s.tim.fired (s.get f % 16) else none

def routeExp (p : Nat) : Fld := if p = 0 then F.TIM_ROUTE.EXP0 else F.TIM_ROUTE.EXP1
def routeFs (p : Nat) : Fld := if p = 0 then F.TIM_ROUTE.FS0 else F.TIM_ROUTE.FS1

/-- A signed count held to 32 bits. -/
def sat32 (d : Int) : Nat := twos (min (max d (-(2 ^ 31))) (2 ^ 31 - 1)) 32

/-- An FS reaches ingest tile `p` (R439): the lag behind the latest firing of its trigger. -/
def State.fsLag (s : State) (p : Nat) : State :=
  match s.routeFired (routeFs p) with
  | none => s
  | some t => s.put (F.TIM_FSLAG.NS p) (sat32 (sint (s.now - timeN t).toNat 64))

end Sys2Proof.Machine
end

