-- ==== Sys2Proof/Machine/Audio.lean ====
section
/-! DEFINITION. Audio ports and audio streams (chapter 19). A TDM frame is one step: the slots received come with it,
the slots sent go out. -/

namespace Sys2Proof.Machine

def audInit : AudPort := ⟨false, 0, [], none, none, none, false, false, false, []⟩
def State.audP (s : State) (n : Nat) : AudPort := sget audInit s.aud n
def State.setAud (s : State) (n : Nat) (x : AudPort) : State := { s with aud := sset audInit s.aud n x }
def strInit : AudStream := ⟨false, [], 0, false, [], []⟩
def State.strS (s : State) (k : Nat) : AudStream := sget strInit s.str k
def State.setStr (s : State) (k : Nat) (x : AudStream) : State := { s with str := sset strInit s.str k x }

def srcAud (n : Nat) : Nat := 0x1500 + n

/-- Accesses of a port (R447): unit 21, client 20, pinned. -/
def audReq (n : Nat) (lost : Option Nat) : Req := ⟨srcAud n, 21, 20, true, lost⟩

/-- Slot width in bits, container bytes, slots per frame. -/
def State.audWidth (s : State) (n : Nat) : Nat := match s.get (F.AUD_P_CFG.WIDTH n) with | 0 => 16 | 1 => 24 | _ => 32
def State.audC (s : State) (n : Nat) : Nat := if s.audWidth n = 16 then 2 else 4
def State.audSlots (s : State) (n : Nat) : Nat := if s.get (F.AUD_P_CFG.FMT n) = 0 then 2 else s.get (F.AUD_P_CFG.SLOTS n) + 1

/-- Slots set in a mask, ascending. -/
def maskSlots (m : Nat) : List Nat := (List.range 32).filter (fun i => m.testBit i)

/-- Frame size and frames per block of a mask (R456). -/
def State.frameBytes (s : State) (n m : Nat) : Nat := (maskSlots m).length * s.audC n
def State.framesPerBlock (s : State) (n m : Nat) : Nat := 4064 / max 1 (s.frameBytes n m)

/-- A slot's sample in its container, and back. -/
def State.contain (s : State) (n v : Nat) : List Byte := leBytes (s.audC n) (v % 2 ^ s.audWidth n * 2 ^ (8 * s.audC n - s.audWidth n))
def State.uncontain (s : State) (n : Nat) (b : List Byte) : Nat := leNat b / 2 ^ (8 * s.audC n - s.audWidth n)

def logOf (v : Nat) : Nat := min (max v 1) 12
def State.txRing (s : State) (n : Nat) : Nat := 2 ^ logOf (s.get (F.AUD_P_RING.TX_LOG2 n))
def State.rxRing (s : State) (n : Nat) : Nat := 2 ^ logOf (s.get (F.AUD_P_RING.RX_LOG2 n))

/-! ### The PLL (R448) -/

def State.anyPort (s : State) : Bool := (List.range 8).any (fun n => s.on (F.AUD_P_CFG.EN n))

/-- A write of AUD_PLL_CFG, AUD_PLL_NUM or AUD_PLL_DEN: ignored, with an event, while any port is enabled. AUD_MCLK_OUT carries the PLL's
clock by its divisor, or is held low (0). -/
def wrAudPll (src off : Nat) (v : Word) (s : State) : State :=
  if s.anyPort then s.postIgnored src 3 off
  else
    let was := s.on F.AUD_PLL_CFG.EN
    let s := s.plainWrite src off v
    let s := s.emit "audMclk" 0 [if s.on F.AUD_PLL_CFG.MCLK_EN then max 4 (s.get F.AUD_PLL_CFG.MCLK_DIV) else 0]
    if s.on F.AUD_PLL_CFG.EN && !was then (s.demand 144).startPll 7
    else if was && !s.on F.AUD_PLL_CFG.EN then ((s.put F.AUD_PLL_CFG.LOCKED 0).setBit F.PWR_PLL.ON 7 false).setBit F.PWR_PLL.LOCK 7 false
    else s

def execAudioPllEnable (v : Word) (src : Nat) (s : State) : Host.Outcome State Fault Refusal :=
  s.running (s.guardWrite R.AUD_PLL_CFG (wrAudPll src R.AUD_PLL_CFG (v ||| 0x80000000)))

/-! ### Receive blocks (R456, R458) -/

def AudBlock.bytes (b : AudBlock) (port : Nat) : List Byte :=
  padTo 4096 (leBytes 8 b.start ++ leBytes 8 b.time ++ leBytes 4 b.mask ++ leBytes 2 b.frames.length ++ leBytes 1 b.flags ++
    leBytes 1 port ++ zeros 8 ++ b.frames.flatten)

/-- The ring has no free slot. -/
def State.rxFull (s : State) (n : Nat) : Bool :=
  (s.get (F.AUD_P_RXR_IDX.WIDX n) + 1) % s.rxRing n == s.get (F.AUD_P_RXR_IDX.RIDX n) % s.rxRing n

/-- Frames that could not be placed: counted, and one event for the run. -/
def State.audOverrun (s : State) (n k : Nat) : State :=
  let x := s.audP n
  let s := (s.bumpBy (F.AUD_P_STAT.OVERRUNS n) k).setAud n { x with gap := true, lostRun := true }
  if x.lostRun then s else s.post (srcAud n) 3 2 7 0

/-- The receive block is written to its slot; WIDX advances after the whole of it. One that cannot be written is lost
with its frames (R461). -/
def State.closeBlock (s : State) (n : Nat) : State :=
  let x := s.audP n
  match x.block with
  | none => s
  | some b =>
    let s := s.setAud n { x with block := none, lastMask := some b.mask }
    let w := s.get (F.AUD_P_RXR_IDX.WIDX n) % s.rxRing n
    match s.engWrite (audReq n none) (s.addr (R.AUD_P_RXR_LO n) (R.AUD_P_RXR_HI n) / 4096 * 4096 + 4096 * w) (b.bytes n) with
    | (.ok _, s) => s.put (F.AUD_P_RXR_IDX.WIDX n) ((w + 1) % s.rxRing n)
    | (.error _, s) => s.audOverrun n b.frames.length

/-- The frame of index `f` is placed in the receive block, which begins if none is filling. -/
def State.placeFrame (s : State) (n f : Nat) (slots : List Nat) (sachet : Bool) : State :=
  let data (m : Nat) : List Byte := (maskSlots m).flatMap (fun i => s.contain n (slots.getD i 0))
  let x := s.audP n
  let pending := s.get (F.AUD_P_RXMASK.MASK n)
  let full (s : State) : State :=
    match (s.audP n).block with
    | some b => if s.framesPerBlock n b.mask ≤ b.frames.length then s.closeBlock n else s
    | none => s
  match x.block with
  | some b => full (s.setAud n { x with block := some { b with frames := b.frames ++ [data b.mask] } })
  | none =>
    let begin_ (s : State) : State :=
      if s.get (F.AUD_P_RXACT.MASK n) = pending then s
      else (s.put (F.AUD_P_RXACT.MASK n) pending).put (F.AUD_P_RXMARK.INDEX n) f
    if pending = 0 then begin_ s
    else if s.rxFull n || !sachet then s.audOverrun n 1
    else
      let s := begin_ s
      let mark := match x.lastMask with | some m => m != pending | none => false
      let b : AudBlock := ⟨f, s.now.toNat, pending, [data pending], (if mark then 1 else 0) + (if x.gap then 2 else 0)⟩
      full (s.setAud n { s.audP n with block := some b, gap := false, lostRun := false })

/-! ### Transmit (R459 to R461) -/

/-- The frames of a ring block, read one by one; a frame whose read fails is zeroed. -/
def State.stageFrames (s : State) (n base fb : Nat) : Nat → Nat → List (Option (List Byte)) × State
  | 0, _ => ([], s)
  | k + 1, i =>
    match s.engRead (audReq n none) (base + 32 + fb * i) fb with
    | (.ok b, s) => let (r, s) := s.stageFrames n base fb k (i + 1); (some b :: r, s)
    | (.error _, s) => let (r, s) := s.stageFrames n base fb k (i + 1); (none :: r, s)

/-- The next ring block is staged. The frames of one whose header cannot be read are absent. -/
def State.stageBlock (s : State) (n : Nat) : State :=
  let i := s.get (F.AUD_P_TXR_IDX.RIDX n) % s.txRing n
  let base := s.addr (R.AUD_P_TXR_LO n) (R.AUD_P_TXR_HI n) / 4096 * 4096 + 4096 * i
  let s := s.put (F.AUD_P_TXR_IDX.RIDX n) ((i + 1) % s.txRing n)
  match s.engRead (audReq n none) base 32 with
  | (.error _, s) => s
  | (.ok h, s) =>
    let k := field h 0x14 2
    let m := field h 0x10 4
    let (l, s) := s.stageFrames n base (s.frameBytes n m) (min k (s.framesPerBlock n m)) 0
    s.setAud n { s.audP n with ahead := some ⟨field h 0 8, m, k, l⟩ }

/-- A staged block begins at frame `f`; the pending mask comes into force with it (R457). A block whose MASK differs or whose FRAMES is
out of range is absent and counted (R460). -/
def State.beginTx (s : State) (n f : Nat) (b : TxBlock) : State :=
  let pending := s.get (F.AUD_P_TXMASK.MASK n)
  let s := if s.get (F.AUD_P_TXACT.MASK n) = pending then s
    else (s.put (F.AUD_P_TXACT.MASK n) pending).put (F.AUD_P_TXMARK.INDEX n) f
  let s := s.setAud n { s.audP n with ahead := none }
  if b.mask ≠ pending ∨ b.count = 0 ∨ s.framesPerBlock n pending < b.count then s.bumpBy (F.AUD_P_STAT2.MASK_ERR n) b.count
  else s.setAud n { s.audP n with staged := b.frames.mapIdx (fun i x => (b.start + i, x)) }

/-- Late frames go, and blocks are staged and begun, until a frame of index `f` or later stands first, the next block is not due, or
the ring is empty. -/
def State.stageFor (s : State) (n f : Nat) : Nat → State
  | 0 => s
  | fuel + 1 =>
    let x := s.audP n
    let late := (x.staged.takeWhile (fun e => decide (e.1 < f))).length
    let s := (s.setAud n { x with staged := x.staged.drop late }).bumpBy (F.AUD_P_STAT2.SKIPS n) late
    if !(s.audP n).staged.isEmpty then s
    else match (s.audP n).ahead with
      | some b => if f < b.start then s else (s.beginTx n f b).stageFor n f fuel
      | none =>
        if s.get (F.AUD_P_TXR_IDX.RIDX n) % s.txRing n = s.get (F.AUD_P_TXR_IDX.WIDX n) % s.txRing n then s
        else (s.stageBlock n).stageFor n f fuel

/-- A zero frame for lack of data: counted, and one event for the run. -/
def State.audUnderrun (s : State) (n : Nat) : State :=
  let x := s.audP n
  let s := (s.bump (F.AUD_P_STAT.UNDERRUNS n)).setAud n { x with zeroRun := true }
  if x.zeroRun then s else s.post (srcAud n) 3 2 7 0

/-- The slots that go out in frame `f`. -/
def State.sendFrame (s : State) (n f : Nat) : List Nat × State :=
  let k := s.audSlots n
  let blank := List.replicate k 0
  if !s.on (F.AUD_P_CFG.TX_EN n) then (blank, s)
  else if s.get (F.AUD_P_TXMASK.MASK n) = 0 ∧ (s.audP n).staged.isEmpty then
    (blank, if s.get (F.AUD_P_TXACT.MASK n) = 0 then s else (s.put (F.AUD_P_TXACT.MASK n) 0).put (F.AUD_P_TXMARK.INDEX n) f)
  else
    let s := s.stageFor n f (2 * s.txRing n + 3)
    match (s.audP n).staged with
    | (i, d) :: rest =>
      if i ≠ f then (blank, s.audUnderrun n)
      else
        let s := s.setAud n { s.audP n with staged := rest }
        match d with
        | none => (blank, s.audUnderrun n)
        | some b =>
          let m := maskSlots (s.get (F.AUD_P_TXACT.MASK n))
          let vals := (chunks (s.audC n) b).map (s.uncontain n)
          ((List.range k).map (fun i => match m.findIdx? (· == i) with | some j => vals.getD j 0 | none => 0),
            s.setAud n { s.audP n with zeroRun := false })
    | [] => (blank, s.audUnderrun n)

/-! ### The pins (R450, R451) -/

/-- Periods of the PLL's clock in half-period `k` of BCLK, counted from the port's start: an exact accumulator of R (R450). -/
def State.halfPeriod (s : State) (n k : Nat) : Nat :=
  let den := max 1 (s.get (F.AUD_P_DIVF.DEN n))
  let r := max 2 (s.get (F.AUD_P_DIV.INT n)) * den + s.get (F.AUD_P_DIVF.NUM n)
  (k + 1) * r / den - k * r / den

/-- FSYNC at bit `i` of a frame of `len` bits, bit 0 the first of slot 0 (Table 19.1). -/
def fsync (fmt len i : Nat) : Bool :=
  match fmt with
  | 0 => decide (len / 2 ≤ (i + 1) % len)
  | 2 => i == 0
  | _ => (i + 1) % len == 0

/-- What a frame puts on the pins, bit after bit: the lengths of the low half of BCLK, which its falling edge begins, and of its high
half, FSYNC, and DOUT, each slot's most significant bit first (R451). -/
def State.tdmPins (s : State) (n f : Nat) (slots : List Nat) : List Nat :=
  let w := s.audWidth n
  let bits := slots.flatMap (fun v => (List.range w).map (fun i => if v.testBit (w - 1 - i) then 1 else 0))
  let len := bits.length
  (bits.mapIdx (fun i b =>
    let k := 2 * (f * len + i)
    [s.halfPeriod n k, s.halfPeriod n (k + 1), if fsync (s.get (F.AUD_P_CFG.FMT n)) len i != s.on (F.AUD_P_CFG.FSINV n) then 1 else 0, b])).flatten

/-- A TDM frame of a running port. -/
def State.tdmFrame (s : State) (n : Nat) (slots : List Nat) (sachet : Bool) : State :=
  let x := s.audP n
  if !x.running then s else
    let f := x.next
    let s := s.setAud n { x with next := (f + 1) % 2 ^ 64, slots := slots }
    let s := s.put (F.AUD_P_FRAME_LO.INDEX n) f
    let (out, s) := s.sendFrame n f
    let s := (s.emit "audTx" n out).emit "audPins" n (s.tdmPins n f out)
    if s.on (F.AUD_P_CFG.RX_EN n) then s.placeFrame n f slots sachet else s

def execAudioTdmFrame (n : Fin 8) (slots : List Nat) (sachet : Bool) (s : State) : Host.Outcome State Fault Refusal :=
  s.running (s.tdmFrame n.val slots sachet)

/-! ### Starting and stopping (R453 to R455, R464) -/

/-- A port begins at frame index 0. -/
def State.portRun (s : State) (n : Nat) : State :=
  (s.setAud n { audInit with running := true }).put (F.AUD_P_FRAME_LO.INDEX n) 0

/-- A port stops: the receive block in progress is written with the frames it holds. -/
def State.portStop (s : State) (n : Nat) : State :=
  if !(s.audP n).running then s else
    let s := s.closeBlock n
    (s.setAud n { s.audP n with running := false, staged := [], ahead := none }).emit "audTx" n []

def State.groupOf (s : State) (n : Nat) : Option Nat := [0, 1].find? (fun g => (s.get (F.AUD_GRP_CFG.PORTS g)).testBit n)

/-- A write of AUD_Pn_CFG: while EN = 1 only the clearing of EN acts. -/
def wrAudCfg (n src : Nat) (v : Word) (s : State) : State :=
  if s.on (F.AUD_P_CFG.EN n) then
    if v.getLsbD 31 then s.postIgnored src 3 (R.AUD_P_CFG n) else (s.portStop n).put (F.AUD_P_CFG.EN n) 0
  else
    let s := s.plainWrite src (R.AUD_P_CFG n) v
    if !s.on (F.AUD_P_CFG.EN n) then s else
      let s := s.andThen [(·.put (F.AUD_P_TXR_IDX.RIDX n) 0), (·.put (F.AUD_P_TXR_IDX.WIDX n) 0), (·.put (F.AUD_P_RXR_IDX.RIDX n) 0),
        (·.put (F.AUD_P_RXR_IDX.WIDX n) 0), (·.put (F.AUD_P_FRAME_LO.INDEX n) 0), (·.put (F.AUD_P_FRAME_HI.INDEX n) 0)]
      let s := s.setAud n audInit
      match s.groupOf n with
      | none => s.portRun n
      | some _ => s

def execAudioPortStart (n : Fin 8) (v : Word) (src : Nat) (s : State) : Host.Outcome State Fault Refusal :=
  s.running (s.guardWrite (R.AUD_P_CFG n.val) (wrAudCfg n.val src (v ||| 0x80000000)))

def execAudioPortStop (n : Fin 8) (v : Word) (src : Nat) (s : State) : Host.Outcome State Fault Refusal :=
  s.running (s.guardWrite (R.AUD_P_CFG n.val) (wrAudCfg n.val src (v &&& 0x7FFFFFFF)))

/-- The registers that R464 closes while the port is enabled. -/
def wrAudClosed (n src off : Nat) (v : Word) (s : State) : State :=
  if s.on (F.AUD_P_CFG.EN n) then s.postIgnored src 3 off else s.plainWrite src off v

/-- What all ports of a group must share (R454). -/
def State.groupKey (s : State) (n : Nat) : List Nat :=
  [s.get (F.AUD_P_CFG.FMT n), s.get (F.AUD_P_CFG.SLOTS n), s.get (F.AUD_P_CFG.WIDTH n), s.get (F.AUD_P_CFG.RATE n),
    s.get (F.AUD_P_CFG.FSINV n), (s.reg (R.AUD_P_DIV n)).toNat, (s.reg (R.AUD_P_DIVF n)).toNat]

def State.groupPorts (s : State) (g : Nat) : List Nat := maskSlots (s.get (F.AUD_GRP_CFG.PORTS g))

/-- Why a START is rejected (R454). -/
def State.groupBad (s : State) (g : Nat) : Bool :=
  let l := s.groupPorts g
  let o := 1 - g
  l.any (fun n => !s.on (F.AUD_P_CFG.EN n)) ||
  l.any (fun n => s.groupKey n != s.groupKey (l.headD 0)) ||
  (s.get (F.AUD_GRP_CFG.STATE o) != 0 && l.any (fun n => (s.groupPorts o).contains n))

/-- All ports of a group that are enabled start frame 0 at one instant. -/
def State.groupRun (s : State) (g : Nat) : State :=
  ((s.groupPorts g).filter (fun n => s.on (F.AUD_P_CFG.EN n))).foldl State.portRun (s.put (F.AUD_GRP_CFG.STATE g) 2)

def routeAud (g : Nat) : Fld := if g = 0 then F.TIM_ROUTE.AUD0 else F.TIM_ROUTE.AUD1

/-- A firing of trigger `k` starts the groups that wait for it (Table 19.2). -/
def State.audTrigger (s : State) (k : Nat) : State :=
  [0, 1].foldl (fun s g =>
    if s.get (F.AUD_GRP_CFG.STATE g) == 1 && (s.get (routeAud g)).testBit 4 && s.get (routeAud g) % 16 == k then s.groupRun g else s) s

/-- A write of AUD_GRPg_CFG. A write with STOP stops the group and starts nothing. -/
def wrAudGrp (g : Nat) (v : Word) (s : State) : State :=
  if v.getLsbD 30 then
    let s := (s.groupPorts g).foldl State.portStop (s.put (F.AUD_GRP_CFG.STATE g) 0)
    s.put (F.AUD_GRP_CFG.PORTS g) (getBits v 7 0)
  else
    let s := s.put (F.AUD_GRP_CFG.PORTS g) (getBits v 7 0)
    if !v.getLsbD 31 || s.get (F.AUD_GRP_CFG.STATE g) != 0 then s
    else if s.groupBad g then (s.put (F.AUD_GRP_CFG.ERR g) 1).post 0x1500 3 1 (R.AUD_GRP_CFG g % 4096) (R.AUD_GRP_CFG g)
    else
      let s := s.put (F.AUD_GRP_CFG.ERR g) 0
      if (s.get (routeAud g)).testBit 4 then s.put (F.AUD_GRP_CFG.STATE g) 1 else s.groupRun g

def execAudioGroupStart (g : Fin 2) (v : Word) (s : State) : Host.Outcome State Fault Refusal :=
  s.running (s.guardWrite (R.AUD_GRP_CFG g.val) (wrAudGrp g.val ((v ||| 0x80000000) &&& 0xBFFFFFFF)))

def execAudioGroupStop (g : Fin 2) (v : Word) (s : State) : Host.Outcome State Fault Refusal :=
  s.running (s.guardWrite (R.AUD_GRP_CFG g.val) (wrAudGrp g.val (v ||| 0x40000000)))

def execAudioMaskWrite (n : Fin 8) (tx : Bool) (v : Word) (src : Nat) (s : State) : Host.Outcome State Fault Refusal :=
  let off := if tx then R.AUD_P_TXMASK n.val else R.AUD_P_RXMASK n.val
  s.running (s.guardWrite off (fun s => s.plainWrite src off v))

def execAudioTxSubmit (n : Fin 8) (widx : Half) (src : Nat) (s : State) : Host.Outcome State Fault Refusal :=
  s.running (s.guardWrite (R.AUD_P_TXR_IDX n.val) (fun s => s.plainWrite src (R.AUD_P_TXR_IDX n.val) (widx.setWidth 32)))

/-- A read of AUD_Pn_FRAME_LO: the index of the TDM frame on the pins, its high bits latched. -/
def rdAudFrameLo (n : Nat) (s : State) : Word × State :=
  let f := (s.audP n).next - 1
  (BitVec.ofNat 32 f, s.put (F.AUD_P_FRAME_HI.INDEX n) (f / 2 ^ 32))

def execAudioFrameLoRead (n : Fin 8) (s : State) : Host.Outcome State Fault Refusal :=
  s.running (State.answer (s.guardRead (R.AUD_P_FRAME_LO n.val) (rdAudFrameLo n.val)))

/-! ### Streams (R462, R463) -/

/-- The sample set that a stream's source gives now, and the state with it taken. -/
def State.streamSource (s : State) (k : Nat) : Option (List Nat) × State :=
  let p := s.get (F.AUD_STR_CFG.PORT k)
  if s.get (F.AUD_STR_CFG.SRC k) = 0 then
    let x := s.audP p
    let s0 := s.get (F.AUD_STR_CFG.SLOT0 k)
    if x.running && s.get (F.AUD_P_CFG.RATE p) == 1 && decide (s0 + 3 < s.audSlots p) then
      let w := s.audWidth p
      let top (v : Nat) : Nat := if w = 16 then v % 2 ^ 16 * 256 else if w = 24 then v % 2 ^ 24 else v % 2 ^ 32 / 256
      (some ([0, 1, 2, 3].map (fun i => top (x.slots.getD (s0 + i) 0))), s)
    else (none, s)
  else
    let g := s.get (F.AUD_STR_CFG.GRP k)
    let x := sget sdiInInit s.sdiIn p
    if !s.on (F.SDI_IN_STAT.LOCKED p) then (none, s)
    else
      match sget [] x.audio g with
      | [] => (none, s)
      | a :: r => (some a, { s with sdiIn := sset sdiInInit s.sdiIn p { x with audio := sset [] x.audio g r } })

/-- An audio record (R463). -/
def audioRecord (start : Nat) (sets : List (List Nat)) (zeroed : Bool) : List Byte :=
  leBytes 8 start ++ leBytes 4 sets.length ++ leBytes 4 (if zeroed then 1 else 0) ++
    sets.flatMap (fun c => [0, 1, 2, 3].flatMap (fun i => leBytes 4 (c.getD i 0 % 2 ^ 24 * 256)))

def sdiOutInit : SdiOut := ⟨false, false, none, 0, none, false, 0, 0, []⟩
def State.sdiO (s : State) (n : Nat) : SdiOut := sget sdiOutInit s.sdiOut n
def State.setSdiO (s : State) (n : Nat) (x : SdiOut) : State := { s with sdiOut := sset sdiOutInit s.sdiOut n x }

/-- A sample set waits at the groups of running SDI outputs that the stream feeds, for the frame that embeds it (R254). -/
def State.embedSet (s : State) (k : Nat) (v : List Nat) : State :=
  ((List.range 16).flatMap (fun n => (List.range 4).map (fun g => (n, g)))).foldl (fun s (p : Nat × Nat) =>
    let x := s.sdiO p.1
    if x.running && s.bit (F.SDI_OUT_AUD.GRP_EN p.1) p.2 && bits (s.get (F.SDI_OUT_AUD.STREAM p.1)) (4 * p.2) 4 == k then
      s.setSdiO p.1 { x with audio := sset [] x.audio p.2 (sget [] x.audio p.2 ++ [v]) }
    else s) s

/-- A stream takes a sample set, 0 while its source breaks its conditions. -/
def State.streamSet (s : State) (k : Nat) : State :=
  if !s.on (F.AUD_STR_CFG.EN k) then s.put (F.AUD_STR_CFG.VALID k) 0 else
    let (v, s) := s.streamSource k
    let s := s.putB (F.AUD_STR_CFG.VALID k) v.isSome
    let set := v.getD [0, 0, 0, 0]
    let s := s.embedSet k set
    let x := { s.strS k with last := set }
    if !x.recorded then s.setStr k x else
      let start := if x.sets.isEmpty then s.now.toNat else x.start
      let zero := (!x.sets.isEmpty && x.zeroed) || v.isNone
      let sets := x.sets ++ [set]
      if 2 ^ (min (s.get (F.AUD_STR_CFG.BLK k)) 5 + 8) ≤ sets.length then
        s.setStr k { x with sets := [], zeroed := false, done := x.done ++ [audioRecord start sets zero] }
      else s.setStr k { x with sets := sets, start := start, zeroed := zero }

def execAudioStreamSet (st : Fin 16) (s : State) : Host.Outcome State Fault Refusal := s.running (s.streamSet st.val)

end Sys2Proof.Machine
end

