-- ==== Sys2Proof/Machine/Geometry.lean ====
section
/-! DEFINITION. The geometry tile (R233 to R237), compose/overlay (R239), and output packing (R242, R243). -/

namespace Sys2Proof.Machine

/-! ### Geometry -/

/-- An affine coefficient: signed, 16 fractional bits (k = 0 .. 5 for A00, A01, A02, A10, A11, A12). -/
def geoA (p : Par) (j c k : Nat) : Int := sint (p.get (F.GEO_A.A j c k)) 32

/-- The warp node (dx, dy) in sixteenths of a pixel. -/
def warpNode (tab : List Byte) (gx gy i j : Nat) : Int × Int :=
  let o := 4 * ((min j (gy - 1)) * gx + min i (gx - 1))
  (sint (field tab o 2) 16, sint (field tab (o + 2) 2) 16)

/-- DX and DY (R234). -/
def warpAt (tab : List Byte) (gx gy kx ky x y : Nat) : Int × Int :=
  let i := x / 2 ^ kx
  let j := y / 2 ^ ky
  let fx : Int := ((x - i * 2 ^ kx : Nat) : Int)
  let fy : Int := ((y - j * 2 ^ ky : Nat) : Int)
  let cx : Int := 2 ^ kx
  let cy : Int := 2 ^ ky
  let s (f : Int × Int → Int) : Int :=
    (f (warpNode tab gx gy i j) * (cx - fx) + f (warpNode tab gx gy (i + 1) j) * fx) * (cy - fy) +
    (f (warpNode tab gx gy i (j + 1)) * (cx - fx) + f (warpNode tab gx gy (i + 1) (j + 1)) * fx) * fy
  let d (v : Int) : Int := v * 4096 / (cx * cy)
  (d (s (·.1)), d (s (·.2)))

/-- Filter coefficient: `v` 0 for H, 1 for V. The V values follow 1,024 values of H, of which 64 phases of 8 taps use the first 512
(DEDUCED, log 38: R235 gives both numbers). -/
def filt (tab : List Byte) (v p k : Nat) : Int := sint (field tab (2 * (1024 * v + 8 * p + k)) 2) 16

/-- The source position of output (X, Y), in 2⁻¹⁶ pixel (R233). -/
def geoSource (p : Par) (t c x y : Nat) : Int × Int :=
  let j := t - 20
  let (dx, dy) := if p.on (F.GEO_CFG.WARP_EN j c) then
      warpAt (p.tab t c tabWarp) (p.get (F.GEO_WARP_GEOM.GX j c)) (p.get (F.GEO_WARP_GEOM.GY j c))
        (p.get (F.GEO_WARP_GEOM.KX j c)) (p.get (F.GEO_WARP_GEOM.KY j c)) x y
    else (0, 0)
  (geoA p j c 0 * x + geoA p j c 1 * y + geoA p j c 2 + dx, geoA p j c 3 * x + geoA p j c 4 * y + geoA p j c 5 + dy)

/-- The output of geometry tile `t` in context `c`, with the positions that used a fill tap. -/
def geometry (p : Par) (t c : Nat) (i : Pic) : Pic × Nat :=
  let j := t - 20
  let ow := p.get (F.GEO_OSIZE.OW j c)
  let oh := p.get (F.GEO_OSIZE.OH j c)
  let tab := p.tab t c tabFilt
  let edge := p.on (F.GEO_CFG.EDGE j c)
  let inside (u w : Int) : Bool := decide (0 ≤ u ∧ u < i.w ∧ 0 ≤ w ∧ w < i.h)
  let tap (k : Nat) (u w : Int) : XR :=
    if inside u w then fpVal (i.at k u.toNat w.toNat)
    else if edge then fpVal (p.get (F.GEO_FILL.FILL j c k))
    else fpVal (i.at k (min (max u 0) ((i.w : Int) - 1)).toNat (min (max w 0) ((i.h : Int) - 1)).toNat)
  let taps : List (Nat × Nat) := (List.range 8).flatMap (fun a => (List.range 8).map (fun b => (b, a)))
  let value (k x y : Nat) : Nat :=
    let (sx, sy) := geoSource p t c x y
    let ix := sx / 65536
    let iy := sy / 65536
    let px := ((sx / 1024) % 64).toNat
    let py := ((sy / 1024) % 64).toNat
    rnd (XR.sum (taps.map (fun (a, b) =>
      (tap k (ix - 3 + a) (iy - 3 + b)).scale (((filt tab 1 py b * filt tab 0 px a : Int) : Rat) / ((2 ^ 28 : Nat) : Rat)))))
  let fills (x y : Nat) : Bool :=
    let (sx, sy) := geoSource p t c x y
    edge && taps.any (fun (a, b) => !inside (sx / 65536 - 3 + a) (sy / 65536 - 3 + b))
  let out := Pic.build ow oh i.n value
  (out, (out.positions.filter (fun q => fills q.1 q.2)).length)

/-- The conditions of R237 on a geometry tile's settings and tables. -/
def geometryOk (p : Par) (t c : Nat) : Bool :=
  let j := t - 20
  let ow := p.get (F.GEO_OSIZE.OW j c)
  let oh := p.get (F.GEO_OSIZE.OH j c)
  let warp := p.on (F.GEO_CFG.WARP_EN j c)
  let tab := p.tab t c tabFilt
  let wt := p.tab t c tabWarp
  let wmax : Nat := if warp then ((List.range (wt.length / 4)).map (fun n => (sint (field wt (4 * n + 2) 2) 16).natAbs)).foldl max 0 else 0
  [0, 1].all (fun v => (List.range 64).all (fun q => (((List.range 8).map (filt tab v q)).sum) == 16384)) &&
  [0, 1, 3, 4].all (fun k => decide ((geoA p j c k).natAbs ≤ 2 ^ 19)) && decide (0 < geoA p j c 4) &&
  decide ((((geoA p j c 3).natAbs * (ow - 1) : Nat) : Rat) / 65536 + 2 * ((wmax : Rat) / 16) + 8 ≤ 256) &&
  decide (64 ≤ ow ∧ ow ≤ 16384 ∧ 16 ≤ oh ∧ oh ≤ 12288) &&
  (!warp || gridOk (p.get (F.GEO_WARP_GEOM.GX j c)) (p.get (F.GEO_WARP_GEOM.GY j c)) (p.get (F.GEO_WARP_GEOM.KX j c))
    (p.get (F.GEO_WARP_GEOM.KY j c)) ow oh)

/-! ### Compose and overlay (R239) -/

/-- An overlay at (BX, BY) with global alpha `g`: its colour components are premultiplied; `alpha` answers aB. -/
def compose (g : Nat) (bx by_ : Nat) (a b : Pic) (col : Nat → Nat → Nat → XR) (alpha : Nat → Nat → XR) : Pic :=
  Pic.build a.w a.h a.n (fun c x y =>
    let v := a.at c x y
    if c < 3 ∧ bx ≤ x ∧ x < bx + b.w ∧ by_ ≤ y ∧ y < by_ + b.h then
      let u := x - bx
      let w := y - by_
      rnd (((fpVal g).mul (col c u w)).add ((fpVal v).mul ((XR.fin 1).sub ((fpVal g).mul (alpha u w)))))
    else v)

/-- Overlay from a B frame: aB is component 3 of four, and 1 otherwise (R240). -/
def composeB (g bx by_ : Nat) (a b : Pic) : Pic :=
  compose g bx by_ a b (fun c x y => fpVal (b.at c x y)) (fun x y => if b.n = 4 then fpVal (b.at 3 x y) else .fin 1)

/-- Overlay from an RGBA8 plane held as a picture of byte values. -/
def composeRgba8 (g bx by_ : Nat) (a b : Pic) : Pic :=
  compose g bx by_ a b (fun c x y => .fin ((b.at c x y : Rat) / 255)) (fun x y => .fin ((b.at 3 x y : Rat) / 255))

/-! ### Output packing -/

/-- The settings of an output pack tile: FMT, N, narrow range, YCC, CSUB. -/
structure Pack where
  fmt : Nat
  n : Nat
  narrow : Bool
  ycc : Bool
  mean : Bool

def packOf (p : Par) (t c : Nat) : Pack :=
  let j := t - 44
  let f := p.get (F.OPK_CFG.FMT j c)
  let d := p.get (F.OPK_CFG.DEPTH j c)
  ⟨if 4 ≤ f then 0 else f, if 8 ≤ d ∧ d ≤ 16 then d else 16, !p.on (F.OPK_CFG.RANGE j c), p.on (F.OPK_CFG.YCC j c),
    p.on (F.OPK_CFG.CSUB j c)⟩

/-- The RAW code of a component. -/
def rawCode (n : Nat) (v : XR) : Nat :=
  match v with
  | .nan => 0
  | .inf neg => if neg then 0 else 2 ^ n - 1
  | .fin q => (min (max (roundEven q) 0) (2 ^ n - 1)).toNat

/-- Codes packed contiguously, low bit first, in bytes padded with zero bits to `len` bytes (R243). -/
def packBits (n : Nat) (codes : List Nat) (len : Nat) : List Byte :=
  leBytes len (codes.foldr (fun c acc => acc * 2 ^ n + c % 2 ^ n) 0)

/-- Component `c` of a chroma group, its positions given (R242). -/
def groupValue (k : Pack) (i : Pic) (c : Nat) (pos : List (Nat × Nat)) : XR :=
  if k.mean then (XR.sum (pos.map (fun q => fpVal (i.at c q.1 q.2)))).scale (1 / (pos.length : Rat))
  else fpVal (i.at c (pos.headD (0, 0)).1 (pos.headD (0, 0)).2)

/-- The lines of codes of a packed picture in order (Table 10.1). -/
def packLines (k : Pack) (i : Pic) : List (List Nat) :=
  let code (c : Nat) (v : XR) : Nat := if k.fmt = 0 then rawCode k.n v else quantiseX k.n k.narrow (k.ycc && c != 0) v
  let one (c x y : Nat) : Nat := code c (fpVal (i.at c x y))
  match k.fmt with
  | 1 => (List.range i.h).map (fun y => (List.range i.w).flatMap (fun x => [one 0 x y, one 1 x y, one 2 x y]))
  | 2 => (List.range i.h).map (fun y => (List.range (i.w / 2)).flatMap (fun q =>
      let g (c : Nat) := code c (groupValue k i c [(2 * q, y), (2 * q + 1, y)])
      [g 1, one 0 (2 * q) y, g 2, one 0 (2 * q + 1) y]))
  | 3 => (List.range i.h).map (fun y => (List.range i.w).map (fun x => one 0 x y)) ++
      (List.range (i.h / 2)).map (fun r => (List.range (i.w / 2)).flatMap (fun q =>
        let g (c : Nat) := code c (groupValue k i c [(2 * q, 2 * r), (2 * q + 1, 2 * r), (2 * q, 2 * r + 1), (2 * q + 1, 2 * r + 1)])
        [g 1, g 2]))
  | _ => (List.range i.h).map (fun y => (List.range i.w).map (fun x => one 0 x y))

/-- Codes on a line of width `w` in a format. -/
def lineCodes (fmt w : Nat) : Nat := match fmt with | 1 => 3 * w | 2 => 2 * w | _ => w

/-- The pitch of a packed line in bytes. -/
def packPitch (k : Pack) (w : Nat) : Nat := (lineCodes k.fmt w * k.n + 511) / 512 * 64

/-- The bytes of a packed picture line by line. -/
def packBytes (k : Pack) (i : Pic) : List (List Byte) :=
  (packLines k i).map (fun l => packBits k.n l (packPitch k i.w))

end Sys2Proof.Machine
end

