-- ==== Sys2Proof/Machine/Synth.lean ====
section
/-! DEFINITION. The synthesis tile (R191 to R194, R197, R198) and the pattern program (R200, R201). -/

namespace Sys2Proof.Machine

/-- Quotient, with the special values of IEEE 754. -/
def XR.div : XR → XR → XR
  | .nan, _ => .nan
  | _, .nan => .nan
  | .inf _, .inf _ => .nan
  | .inf a, .fin q => .inf (a != decide (q < 0))
  | .fin _, .inf _ => .fin 0
  | .fin p, .fin q => if q = 0 then (if p = 0 then .nan else .inf (decide (p < 0))) else .fin (p / q)

/-! ### The counter-based generator (R197) -/

def mix64 (z : BitVec 64) : BitVec 64 :=
  let k : BitVec 64 := 0xD6E8FEB86659FD93#64
  let z := (z ^^^ (z >>> 32)) * k
  let z := (z ^^^ (z >>> 32)) * k
  z ^^^ (z >>> 32)

/-- draw: a 64-bit number for a position, site type and draw index. -/
def draw (seed tag : BitVec 64) (x y t d : Nat) : Nat :=
  let c : BitVec 64 := BitVec.ofNat 64 ((y * 2 ^ 20) ||| (x * 2 ^ 6) ||| (t * 8) ||| d)
  (mix64 (mix64 (mix64 (c ^^^ seed) ^^^ tag) ^^^ seed)).toNat

/-- gauss: twelve uniforms of 16 bits. -/
def gauss (seed tag : BitVec 64) (x y t d0 : Nat) : Rat :=
  let s := ((List.range 3).map (fun d =>
    let r := draw seed tag x y t (d0 + d)
    ((List.range 4).map (fun i => bits r (16 * i) 16)).sum)).sum
  (((s : Int) - 393210 : Int) : Rat) / 65536

/-- λ^j/j! for j = 0 .. n, added up. -/
def poissonSum (lam : Rat) : Nat → Nat → Rat → Rat
  | 0, _, _ => 0
  | n + 1, j, term => term + poissonSum lam n (j + 1) (term * lam / ((j + 1 : Nat) : Rat))

/-- T[q][k] (R198). -/
def poissonT (q k : Nat) : Nat :=
  let lam : Rat := (q : Rat) / 16
  min (2 ^ 32 - 1) ((expFix (toFix (-lam)) * poissonSum lam (k + 1) 0 1 * ((2 ^ 32 : Nat) : Rat)).floor.toNat)

/-- The first k < 127 with u < T[q][k], else 127. -/
def poissonPick (q u : Nat) : Nat → Nat → Nat
  | 0, k => k
  | n + 1, k => if u < poissonT q k then k else poissonPick q u n (k + 1)

/-- ⌊√n⌋ by bisection from bit `b` down. -/
def isqrtAux (n : Nat) : Nat → Nat → Nat
  | 0, r => r
  | b + 1, r => if (r + 2 ^ b) * (r + 2 ^ b) ≤ n then isqrtAux n b (r + 2 ^ b) else isqrtAux n b r

def isqrt (n : Nat) : Nat := isqrtAux n (n.log2 / 2 + 1) 0

/-- √q as a rational whose rounding to 16 significant bits is that of the exact root. -/
def sqrtR (q : Rat) : Rat :=
  if q ≤ 0 then 0 else
    let e := ilog2 q / 2
    let n := (q * pow2 (2 * (24 - e)))
    let r := isqrt n.floor.toNat
    ((r : Rat) + (if ((r * r : Nat) : Rat) = n then 0 else 1 / 2)) * pow2 (e - 24)

/-- noise (R197): `kk` and `sg` are the coefficients NK and NSIG of the channel type. -/
def noise (seed tag : BitVec 64) (a : Nat) (x y t : Nat) (kk sg : Nat) : Nat :=
  match fpVal a with
  | .nan => a
  | .inf _ => a
  | .fin q =>
    let z1 := gauss seed tag x y t 1
    let z2 := gauss seed tag x y t 4
    let read := (fpVal sg).scale z2
    match fpVal kk with
    | .nan => fpNaN
    | .inf neg => if q ≤ 0 ∨ neg then rnd ((XR.fin q).add read) else fpNaN
    | .fin g =>
      if q ≤ 0 ∨ g ≤ 0 then rnd ((XR.fin q).add read) else
        let lam := q / g
        let e : XR :=
          if lam < 32 then
            let n := (16 * lam).floor.toNat
            let k := if 0 < n then poissonPick n (draw seed tag x y t 0 / 2 ^ 32) 127 0 else 0
            .fin ((k : Rat) + (lam - (n : Rat) / 16))
          else (XR.fin lam).add ((fpVal (rnd (.fin (sqrtR lam)))).mul (.fin z1))
        rnd ((e.mul (.fin g)).add read)

/-! ### Synthesis -/

/-- The defect entries of Table 8.1 as (x, y, KIND, VALUE). -/
def synDefects (tab : List Byte) : List (Nat × Nat × Nat × Nat) :=
  (chunks 8 tab).map (fun e => (bits (field e 0 4) 4 14, bits (field e 0 4) 18 14, field e 0 1 % 16, field e 4 4 % 2 ^ 24))

/-- quant (R194), with whether the clamp changed the value. -/
def quantRaw (depth v : Nat) : Nat × Bool :=
  let hi : Int := 2 ^ depth - 1
  match fpVal v with
  | .nan => (0, true)
  | .inf neg => (if neg then 0 else rnd (.fin hi), true)
  | .fin q =>
    let r := roundEven q
    (rnd (.fin ((min (max r 0) hi : Int) : Rat)), decide (r < 0 ∨ hi < r))

/-- The depth a field gives: 8 to 16, other values act as 16. -/
def depthOf (d : Nat) : Nat := if 8 ≤ d ∧ d ≤ 16 then d else 16

/-- The output of synthesis tile `t` in context `k` for a frame with tag `tag` and watched word `w`, with the
positions clamped and the defect entries applied. -/
def synthesise (p : Par) (m : MosaicRec) (t k : Nat) (tag : FrameTag) (w : Nat) (i : Pic) : Pic × Nat × Nat :=
  let j := t - 30
  let coef (n : Nat) : Nat := p.ix (ixCoef t k n)
  let on (f : Fld) : Bool := p.on f
  let xg : XR := if on (F.SYN_XGW.EN j k) then .fin ((w : Rat) / ((2 ^ min (p.get (F.SYN_XGW.FRAC j k)) 16 : Nat) : Rat)) else .fin 1
  let seed : BitVec 64 := BitVec.ofNat 64 (p.get (F.SYN_SEED_LO.SEED j k) + 2 ^ 32 * p.get (F.SYN_SEED_HI.SEED j k))
  let key : BitVec 64 := BitVec.ofNat 64 (if on (F.SYN_CFG.KEYTAG j k) then tag.seq.toNat * 2 ^ 16 else
    tag.src.toNat * 2 ^ 60 + tag.seq.toNat * 2 ^ 16 + tag.sgen.toNat)
  let defs := if on (F.SYN_CFG.DEF_EN j k) then synDefects (p.tab t k tabDef) else []
  let depth := depthOf (p.get (F.SYN_CFG.DEPTH j k))
  let beforeQuant (x y : Nat) : Nat :=
    let (ty, st) := m.siteAt x y
    let ch := if ty = 5 then st else ty
    let s := m.s x y
    let v := fun c => fpVal (i.at c x y)
    let base : XR :=
      if ch ≤ 2 then v ch else if i.n = 4 then v 3
      else if ch = 3 then XR.sum ([0, 1, 2].map (fun c => (fpVal (coef (10 + c))).mul (v c)))
      else .fin 0
    let a := rnd ((xg.mul (if ty = 5 then fpVal (coef 13) else .fin 1)).mul base)
    let a := if on (F.SYN_CFG.SHD_EN j k) then
        let g := shadeGain (p.tab t k tabShade) (p.get (F.SYN_SHD_GEOM.GX j k)) (p.get (F.SYN_SHD_GEOM.GY j k))
          (p.get (F.SYN_SHD_GEOM.KX j k)) (p.get (F.SYN_SHD_GEOM.KY j k)) ch x y
        if g = 0 then 0 else rnd ((fpVal a).scale (1 / g))
      else a
    let a := if on (F.SYN_CFG.CODE_EN j k) then
        let g := p.ix (ixGain t k s)
        if g % 0x800000 = 0 then 0 else rnd ((fpVal a).div (fpVal g))
      else a
    let a := if on (F.SYN_CFG.NOISE_EN j k) then noise seed key a x y ty (coef ch) (coef (5 + ch)) else a
    let a := if on (F.SYN_CFG.CODE_EN j k) then rnd ((fpVal a).add (.fin ((p.ix (ixBlack t k s) : Rat) / 16))) else a
    match defs.find? (fun e => e.1 == x && e.2.1 == y) with
    | none => a
    | some (_, _, kind, val) =>
      if kind = 0 then val else if kind = 1 then rnd ((fpVal a).add (fpVal val)) else rnd ((fpVal a).mul (fpVal val))
  let pre := Pic.build i.w i.h 1 (fun _ x y => beforeQuant x y)
  let q := on (F.SYN_CFG.QUANT j k)
  let out := if q then Pic.build i.w i.h 1 (fun _ x y => (quantRaw depth (pre.at 0 x y)).1) else pre
  (out, if q then (i.positions.filter (fun c => (quantRaw depth (pre.at 0 c.1 c.2)).2)).length else 0,
    (defs.filter (fun e => decide (e.1 < i.w ∧ e.2.1 < i.h))).length)

/-! ### Pattern program -/

/-- The records of a program up to its end (R200). -/
def programRecs (tab : List Byte) : List (List Byte) := (chunks 48 tab).takeWhile (fun r => field r 0 1 != 0)

/-- A record passes its check (R200). -/
def programRecOk (r : List Byte) : Bool :=
  let op := field r 0 1
  decide (op ≤ 7) && decide (field r 4 2 < field r 8 2) && decide (field r 6 2 < field r 10 2) &&
  !((op == 4 || op == 7) && field r 2 2 == 0) && field r 1 1 == 0 && field r 0x2C 4 == 0

/-- What a record makes of component `c` of (x, y), which was `old`. -/
def patternOp (seed : BitVec 64) (tag : FrameTag) (r : List Byte) (c x y old : Nat) : Nat :=
  let x0 := field r 4 2
  let y0 := field r 6 2
  let x1 := field r 8 2
  let y1 := field r 10 2
  let p := field r 2 2
  let a := field r (0x0C + 4 * c) 4 % 2 ^ 24
  let b := field r (0x1C + 4 * c) 4 % 2 ^ 24
  let ramp (n : Nat) : Nat := rnd ((fpVal a).add ((fpVal b).scale (n : Rat)))
  if x < x0 ∨ x1 ≤ x ∨ y < y0 ∨ y1 ≤ y then old else
    match field r 0 1 with
    | 1 => a
    | 2 => ramp (x - x0)
    | 3 => ramp (y - y0)
    | 4 => if ((x - x0) / p + (y - y0) / p) % 2 = 0 then a else b
    | 5 =>
      let bar := 8 * (x - x0) / (x1 - x0)
      if c = 3 then a
      else if bar.testBit (if c = 0 then 1 else if c = 1 then 2 else 0) then b else a
    | 6 => rnd ((fpVal a).add ((fpVal b).scale (gauss seed (BitVec.ofNat 64 (tag.src.toNat * 2 ^ 60 + tag.seq.toNat * 2 ^ 16 + tag.sgen.toNat)) x y c 1)))
    | 7 => if 44 ≤ (x - x0) / p then old else if tag.seq.toNat.testBit ((x - x0) / p) then a else b
    | _ => old

/-- The frame that pattern tile `t` draws (R200, R201); no mosaic makes COMPS = 0 act as 1. -/
def patternPic (p : Par) (t : Nat) (m : Option MosaicRec) (tag : FrameTag) (w h : Nat) : Pic :=
  let j := t - 34
  let seed : BitVec 64 := BitVec.ofNat 64 (p.get (F.PAT_SEED_LO.SEED j 0) + 2 ^ 32 * p.get (F.PAT_SEED_HI.SEED j 0))
  let recs := programRecs (p.tab t 0 tabProg)
  let full (c x y : Nat) : Nat := recs.foldl (fun v r => patternOp seed tag r c x y v) 0
  match p.get (F.PAT_CFG.COMPS j 0), m with
  | 0, some m => Pic.build w h 1 (fun _ x y => full (min (m.chan x y) 3) x y)
  | 2, _ => Pic.build w h 4 full
  | _, _ => Pic.build w h 3 full

end Sys2Proof.Machine
end

