-- ==== Sys2Proof/Machine/Tables.lean ====
section
/-! DEFINITION. The large tables that a commit or a load fetches, and the checks of their owning chapters
(R144, R146, R150, R151, R156, R184, R193, R200, R226, R237, R243, R246, R22). -/

namespace Sys2Proof.Machine

/-- A table to fetch: its kind, engine virtual address and size in bytes. -/
structure TabReq where
  kind : Nat
  addr : Nat
  size : Nat

/-- The tables that tile `t` enables in context `c` under a parameter set. -/
def tableReqs (p : Par) (t c : Nat) : List TabReq :=
  let opt (b : Bool) (k a n : Nat) : List TabReq := if b then [⟨k, a, n⟩] else []
  let j := kindIdx t
  match tileKind t with
  | .rwc =>
    opt (p.on (F.RWC_CTRL.DEF_EN j c) && decide (p.get (F.RWC_DEF_CNT.COUNT j c) ≤ 262144)) tabDef
      (p.addr (R.RWC_DEF_LO j c) (R.RWC_DEF_HI j c)) (4 * p.get (F.RWC_DEF_CNT.COUNT j c)) ++
    opt (p.on (F.RWC_CTRL.SHD_EN j c)) tabShade (p.addr (R.RWC_SHD_LO j c) (R.RWC_SHD_HI j c))
      (16 * p.get (F.RWC_SHD_GEOM.GX j c) * p.get (F.RWC_SHD_GEOM.GY j c))
  | .col =>
    opt (p.on (F.COL_CTRL.L1D_EN j c)) tabL1D (p.addr (R.COL_L1D_LO j c) (R.COL_L1D_HI j c))
      (if p.on (F.COL_CTRL.L1D_SHARED j c) then 16384 else 49152) ++
    opt (p.on (F.COL_CTRL.L3D_EN j c)) tabL3D (p.addr (R.COL_L3D_LO j c) (R.COL_L3D_HI j c))
      (if p.on (F.COL_CTRL.L3D_N j c) then 3295500 else 431244)
  | .syn =>
    opt (p.on (F.SYN_CFG.DEF_EN j c) && decide (p.get (F.SYN_DEF_CNT.COUNT j c) ≤ 262144)) tabDef
      (p.addr (R.SYN_DEF_LO j c) (R.SYN_DEF_HI j c)) (8 * p.get (F.SYN_DEF_CNT.COUNT j c)) ++
    opt (p.on (F.SYN_CFG.SHD_EN j c)) tabShade (p.addr (R.SYN_SHD_LO j c) (R.SYN_SHD_HI j c))
      (16 * p.get (F.SYN_SHD_GEOM.GX j c) * p.get (F.SYN_SHD_GEOM.GY j c))
  | .pat =>
    opt (c == 0 && decide (p.get (F.PAT_PROG_CNT.COUNT j c) ≤ 256)) tabProg (p.addr (R.PAT_PROG_LO j c) (R.PAT_PROG_HI j c))
      (48 * p.get (F.PAT_PROG_CNT.COUNT j c))
  | .ana =>
    opt (p.on (F.ANA_CFG.PATCH_EN j c) && decide (p.get (F.ANA_PATCH_CNT.COUNT j c) ≤ 64)) tabPatch
      (p.addr (R.ANA_PATCH_LO j c) (R.ANA_PATCH_HI j c)) (8 * p.get (F.ANA_PATCH_CNT.COUNT j c))
  | .geo =>
    opt (p.on (F.GEO_CFG.WARP_EN j c)) tabWarp (p.addr (R.GEO_WARP_LO j c) (R.GEO_WARP_HI j c))
      (4 * p.get (F.GEO_WARP_GEOM.GX j c) * p.get (F.GEO_WARP_GEOM.GY j c)) ++
    opt true tabFilt (p.addr (R.GEO_FILT_LO j c) (R.GEO_FILT_HI j c)) 4096
  | _ => []

/-- Strictly rising keys. -/
def rising : List Nat → Bool
  | a :: b :: r => decide (a < b) && rising (b :: r)
  | _ => true

/-- A defect list of entries of `k` bytes whose bits 3:0 are at most `kind` (R150, R193). -/
def defectListOk (k kind : Nat) (tab : List Byte) : Bool :=
  let e := (chunks k tab).map (fun x => field x 0 4)
  rising (e.map (· / 16)) && e.all (fun x => decide (x % 16 ≤ kind))

/-- Words whose bits 31:24 are 0 (R184). -/
def wordsOk (tab : List Byte) : Bool := (chunks 4 tab).all (fun w => field w 3 1 == 0)

/-- The tile that feeds input `port` of `t`. -/
def FabCfg.feeds (c : FabCfg) (t port : Nat) : Option Nat :=
  (c.routes.find? (fun r => r.dst == t && r.dstPort == port)).map (·.src)

/-- The ingest tile whose frames context `ctx` of the brew rooted at `t` carries: the feeder in context 1 (R141). -/
def FabCfg.sourceFor (c : FabCfg) (t ctx : Nat) : Nat :=
  if ctx = 0 then t else ((c.brews.find? (fun b => b.root == t)).map (·.feeder)).getD t

/-- The component count of a tile's output where the settings decide it (none for a playback root), by
following input A up to the root. -/
def compsOut (p : Par) (c : FabCfg) (ctx : Nat) : Nat → Nat → Option Nat
  | 0, _ => none
  | n + 1, t =>
    let j := kindIdx t
    let up := match c.feeds t 0 with
      | some u => compsOut p c ctx n u
      | none => none
    match tileKind t with
    | .ing =>
      let r := c.sourceFor t ctx
      if r < 2 then some 1 else if p.on (F.ING_CFG.SRCSEL r ctx) then none else some 3
    | .pat => some (match p.get (F.PAT_CFG.COMPS j 0) with
      | 0 => if (c.mosaicOf (((c.tiles.find? (fun x => x.tile == t)).map (·.brew)).getD 16) 0).isSome then 1 else 3
      | 2 => 4
      | _ => 3)
    | .dms => some (match p.get (F.DMS_CFG.OUT j ctx) with | 1 => 4 | 2 => 4 | _ => 3)
    | .col => up.map (fun k => if k = 4 ∧ ¬ p.on (F.COL_CTRL.IRM_EN j ctx) then 4 else 3)
    | .syn => some 1
    | _ => up

/-- The size of the frames at a tile's output, by the same walk. -/
def sizeOut (p : Par) (c : FabCfg) (ctx : Nat) : Nat → Nat → Nat × Nat
  | 0, _ => (0, 0)
  | n + 1, t =>
    let j := kindIdx t
    match tileKind t with
    | .ing =>
      let r := c.sourceFor t ctx
      (p.get (F.ING_FMT.WIDTH r ctx), p.get (F.ING_FMT.HEIGHT r ctx))
    | .pat => (p.get (F.PAT_SIZE.WIDTH j 0), p.get (F.PAT_SIZE.HEIGHT j 0))
    | .geo => (p.get (F.GEO_OSIZE.OW j ctx), p.get (F.GEO_OSIZE.OH j ctx))
    | _ => match c.feeds t 0 with
      | some u => sizeOut p c ctx n u
      | none => (0, 0)

/-- The output pack requirement of R243 and R246. -/
def packOk (p : Par) (c : FabCfg) (t ctx : Nat) : Bool :=
  let k := packOf p t ctx
  let (w, h) := sizeOut p c ctx 48 t
  let raw := match compsOut p c ctx 48 t with | some n => n == 1 | none => true
  (if c.routes.any (fun r => r.src == t && r.dst == 0xFE) then p.get (F.OPK_CFG.FMT (t - 44) ctx) == 0 else true) &&
  (match k.fmt with
   | 0 => raw
   | 2 => w % 2 == 0
   | 3 => w % 2 == 0 && h % 2 == 0
   | _ => true)

/-- A fault of tile `t`'s tables or settings: the kind of the table at fault, or none for a register check. -/
def tileFault (p : Par) (c : FabCfg) (b : BrewRec) (t ctx : Nat) : Option (Option Nat) :=
  let j := kindIdx t
  let tab (k : Nat) := p.tab t ctx k
  let rule (ok : Bool) (x : Option Nat) : Option (Option Nat) := if ok then none else some x
  let first : List (Option (Option Nat)) → Option (Option Nat) := fun l => (l.filterMap id).head?
  match tileKind t with
  | .rwc => first [
      rule (!p.on (F.RWC_CTRL.DEF_EN j ctx) || decide (p.get (F.RWC_DEF_CNT.COUNT j ctx) ≤ 262144)) none,
      rule (!p.on (F.RWC_CTRL.DEF_EN j ctx) || defectListOk 4 0 (tab tabDef)) (some tabDef),
      rule (!p.on (F.RWC_CTRL.SHD_EN j ctx) || gridOk (p.get (F.RWC_SHD_GEOM.GX j ctx)) (p.get (F.RWC_SHD_GEOM.GY j ctx))
        (p.get (F.RWC_SHD_GEOM.KX j ctx)) (p.get (F.RWC_SHD_GEOM.KY j ctx)) b.maxW b.maxH) none]
  | .syn => first [
      rule (!p.on (F.SYN_CFG.DEF_EN j ctx) || decide (p.get (F.SYN_DEF_CNT.COUNT j ctx) ≤ 262144)) none,
      rule (!p.on (F.SYN_CFG.DEF_EN j ctx) || defectListOk 8 2 (tab tabDef)) (some tabDef),
      rule (!p.on (F.SYN_CFG.SHD_EN j ctx) || gridOk (p.get (F.SYN_SHD_GEOM.GX j ctx)) (p.get (F.SYN_SHD_GEOM.GY j ctx))
        (p.get (F.SYN_SHD_GEOM.KX j ctx)) (p.get (F.SYN_SHD_GEOM.KY j ctx)) b.maxW b.maxH) none]
  | .col => first [
      rule (!p.on (F.COL_CTRL.L1D_EN j ctx) || wordsOk (tab tabL1D)) (some tabL1D),
      rule (!p.on (F.COL_CTRL.L3D_EN j ctx) || wordsOk (tab tabL3D)) (some tabL3D)]
  | .pat =>
    if ctx = 1 then none else
      let w := p.get (F.PAT_SIZE.WIDTH j 0)
      let h := p.get (F.PAT_SIZE.HEIGHT j 0)
      let whole := match (if p.get (F.PAT_CFG.COMPS j 0) = 0 then c.mosaicOf b.brew 0 else none) with
        | some m => w % m.ph == 0 && h % m.pv == 0
        | none => true
      first [
        rule (decide (64 ≤ w ∧ w ≤ b.maxW ∧ 16 ≤ h ∧ h ≤ b.maxH) && whole) none,
        rule (decide (p.get (F.PAT_PROG_CNT.COUNT j 0) ≤ 256)) none,
        rule ((programRecs (tab tabProg)).all programRecOk) (some tabProg)]
  | .sta => rule ((staFocus p j ctx).sizeOk 16 16 && (staExposure p j ctx).sizeOk 32 24) none
  | .ana => first [
      rule (!p.on (F.ANA_CFG.PATCH_EN j ctx) || decide (p.get (F.ANA_PATCH_CNT.COUNT j ctx) ≤ 64)) none,
      rule (!p.on (F.ANA_CFG.PATCH_EN j ctx) || (patchList (tab tabPatch)).all (fun e => decide (e.1 < e.2.2.1 ∧ e.2.1 < e.2.2.2))) (some tabPatch)]
  | .geo => rule (geometryOk p t ctx) (some tabFilt)
  | .opk => rule (packOk p c t ctx) none
  | _ => none

/-! ### Fetching -/

/-- The contexts a brew's tiles keep (R141). -/
def BrewRec.ctxs (b : BrewRec) : List Nat := if b.feeder ≠ 0xFF ∧ b.share = 1 then [0, 1] else [0]

def FabCfg.tilesOf (c : FabCfg) (b : Nat) : List Nat := (c.tiles.filter (fun t => t.brew == b)).map (·.tile)

/-- Why a commit or a verification failed (Table 22.14): the tile, the cause and the address of the table. -/
structure TabFault where
  tile : Nat
  cause : Nat
  addr : Nat

/-- A port number of a register field: 12 to 15 act as 0. -/
def mport (v : Nat) : Nat := if v < 12 then v else 0

/-- Who fetches the tables of tile `t` for context `c`: unit 16, steep client 28, pinned; an analysis tile fetches its patch list
through its own memory port (R232). -/
def State.tabReq (s : State) (t c : Nat) : Req :=
  if tileKind t = .ana then
    let p := mport (s.get (F.ANA_BQ_CTL.MPORT (t - 36) c))
    ⟨srcTile t, p, p, true, none⟩
  else ⟨srcTile t, 16, 28, true, none⟩

/-- Read a list of tables into a sparse table set, up to the first error. -/
def State.fetchList (s : State) (t c : Nat) (acc : Sparse (List Byte)) : List TabReq → Except TabFault (Sparse (List Byte)) × State
  | [] => (.ok acc, s)
  | q :: r =>
    match s.engRead (s.tabReq t c) q.addr q.size with
    | (.ok b, s) => s.fetchList t c (sset [] acc (tabKey t c q.kind) b) r
    | (.error .parity, s) => (.error ⟨t, 1, q.addr⟩, s)
    | (.error _, s) => (.error ⟨t, 2, q.addr⟩, s)

/-- Fetch and check the tables of tiles and contexts in turn. -/
def State.fetchTiles (s : State) (words : Sparse Word) (c : FabCfg) (b : BrewRec) (acc : Sparse (List Byte)) :
    List (Nat × Nat) → Except TabFault (Sparse (List Byte)) × State
  | [] => (.ok acc, s)
  | (t, ctx) :: r =>
    let reqs := tableReqs ⟨words, []⟩ t ctx
    match s.fetchList t ctx acc reqs with
    | (.error e, s) => (.error e, s)
    | (.ok acc, s) =>
      match tileFault ⟨words, acc⟩ c b t ctx with
      | none => s.fetchTiles words c b acc r
      | some k => (.error ⟨t, 3, ((k.bind (fun k => reqs.find? (fun q => q.kind == k))).map (·.addr)).getD 0⟩, s)

/-- All tables of a brew under the words `words`. -/
def State.fetchBrew (s : State) (words : Sparse Word) (c : FabCfg) (b : BrewRec) : Except TabFault (Sparse (List Byte)) × State :=
  s.fetchTiles words c b [] ((c.tilesOf b.brew).flatMap (fun t => b.ctxs.map (fun k => (t, k))))

end Sys2Proof.Machine
end

