-- ==== Sys2Proof/Machine/Brew.lean ====
section
/-! DEFINITION. Brews: frame starts and identity (R126, R127, R133, R134), lines (R128, R129), frame records
(R132), the frame queue (R137 to R140), and commits (R143 to R147). -/

namespace Sys2Proof.Machine

/-! ### What the active image says -/

def rootInit : RootRun := ⟨0, [], none, [], none, [], none⟩
def brewInit : BrewRun := ⟨none, false, [], 0, [], 1, true, []⟩

def State.root (s : State) (t : Nat) : RootRun := sget rootInit s.roots t
def State.setRoot (s : State) (t : Nat) (r : RootRun) : State := { s with roots := sset rootInit s.roots t r }
def State.brew (s : State) (b : Nat) : BrewRun := sget brewInit s.brews b
def State.setBrew (s : State) (b : Nat) (r : BrewRun) : State := { s with brews := sset brewInit s.brews b r }

def State.cfg (s : State) : FabCfg := s.active.getD default

/-- The BREW record of a brew in the fabric. -/
def State.brewRec (s : State) (b : Nat) : Option BrewRec := s.cfg.brews.find? (fun r => r.brew == b)

/-- The brew that an ingest or pattern tile is the root or the feeder of, and the context its frames have. -/
def State.brewOfRoot (s : State) (t : Nat) : Option (BrewRec × Nat) :=
  match s.cfg.brews.find? (fun r => r.root == t || r.feeder == t && r.feeder != 0xFF) with
  | none => none
  | some r => some (r, if r.root ≠ t ∧ r.share = 1 then 1 else 0)

/-- The context whose registers an ingest tile works by: 1 at the feeder of a brew in stripe interleave, whose frames context 1
serves (R141). -/
def State.ingCtx (s : State) (t : Nat) : Nat :=
  match s.brewOfRoot t with
  | some (_, c) => c
  | none => 0

/-- The sources of a brew: its root and its feeder. -/
def BrewRec.sources (b : BrewRec) : List Nat := if b.feeder = 0xFF then [b.root] else [b.root, b.feeder]
def BrewRec.two (b : BrewRec) : Bool := b.feeder != 0xFF
def BrewRec.striped (b : BrewRec) : Bool := b.two && b.share == 1
def BrewRec.depth (b : BrewRec) : Nat := if b.qdepth = 0 then 2 else b.qdepth
def BrewRec.slotSize (b : BrewRec) : Nat := (b.maxW * b.maxH * 2 + 65535) / 65536 * 65536

/-- The mosaic a source's frames carry; SDI input and picture playback carry none (R128). -/
def State.mosaicFor (s : State) (b : BrewRec) (f : Frame) : MosaicRec :=
  if f.n = 1 then (s.cfg.mosaicOf b.brew f.ctx).getD plainMosaic else plainMosaic

/-! ### Parameters: `cur` is what a tile computes with, `latched` the set its brew latched last (R144) -/

/-- The register and index ranges of a tile's context. -/
def tileRanges (t c : Nat) : List (Nat × Nat) :=
  let p := 0x30000 + 0x1000 * t
  [(p + 0x800 * c + 0x10, p + 0x800 * c + 0x800), (ixBase t c, ixBase t c + 0x8000)]

def copyRanges (src dst : Sparse Word) (l : List (Nat × Nat)) : Sparse Word :=
  l.foldl (fun d r => scopy src d r.1 r.2) dst

/-- Tables of a tile and context in a table set. -/
def copyTabs (src dst : Sparse (List Byte)) (t c : Nat) : Sparse (List Byte) :=
  scopy src dst (tabKey t c 0) (tabKey t c 16)

/-- A tile switches to a parameter set. -/
def State.switchTile (s : State) (t c : Nat) (par : Sparse Word) : State :=
  { s with cur := copyRanges par s.cur (tileRanges t c) }

def State.parOf (f : Frame) : Par := ⟨f.par, f.tabs⟩

/-! ### Drop units -/

/-- Rows of Table 1.15 from 0. -/
def rowIngest : Nat := 0
def rowBrew : Nat := 1
def rowStats : Nat := 2
def rowAnalysis : Nat := 3

/-- A unit dropped by tile `t`: counted in FAB_TILE_STAT.DROPS, and one event posted (R32; severity log 10). -/
def State.dropUnit (s : State) (t : Nat) (sev : Fin 8) (row : Nat) (tag : FrameTag) : State :=
  (s.bump (F.FAB_TILE_STAT.DROPS t)).post (srcTile t) sev 2 row tag.toNat

/-! ### Frame records (R132, R203, Table 5.2) -/

def Frame.flagWord (f : Frame) (dropped lost : Bool) : Nat :=
  (if dropped then 1 else 0) + (if lost then 2 else 0) + 4 * f.xsSrc + 16 * f.sgenSrc +
  (if f.queued then 64 else 0) + 128 * f.ctx + (if f.mismatch then 256 else 0)

def frameRecord (f : Frame) (brew : Nat) (dropped lost : Bool) : List Byte :=
  let z (x : Nat) := if lost then 0 else x
  let b := leBytes 8 f.tag.toNat ++ leBytes 8 (z f.xs.sec.toNat) ++ leBytes 4 (z f.xs.ns.toNat) ++
    leBytes 4 f.fs.ns.toNat ++ leBytes 8 f.fs.sec.toNat ++ leBytes 2 (z f.w) ++ leBytes 2 (z f.h) ++
    leBytes 4 (z f.link) ++ leBytes 2 (min f.replaced 0xFFFF) ++ leBytes 2 f.commits ++
    leBytes 2 (f.flagWord dropped lost) ++ leBytes 1 brew ++ leBytes 1 (z f.depth) ++
    leBytes 4 (min f.waited 0xFFFFFFFF) ++ zeros 8
  b ++ leBytes 4 (crc32c b)

/-- The ring of a root's frame records: base, slots, index field. -/
def State.frecRing (s : State) (t : Nat) : Nat × Nat × Fld :=
  if tileKind t = .pat then
    let j := t - 34
    (s.addr (R.PAT_FREC_LO j 0) (R.PAT_FREC_HI j 0), ringSize (s.get (F.PAT_FREC_CTL.LOG2CNT j 0)) 4 16, F.PAT_FREC_CTL.WIDX j 0)
  else
    let c := s.ingCtx t
    (s.addr (R.ING_FREC_LO t c) (R.ING_FREC_HI t c), ringSize (s.get (F.ING_FREC_CTL.LOG2CNT t c)) 4 16, F.ING_FREC_CTL.WIDX t c)

/-- Who makes an ingest tile's own accesses (R18); a pattern tile has no path of its own (log 11). -/
def rootReq (t : Nat) (lost : Option Nat) : Req :=
  if tileKind t = .pat then ⟨srcTile t, 16, 28, true, lost⟩ else ⟨srcTile t, 12 + t, 12 + t, true, lost⟩

/-- Sequence number `a` comes before `b` in a run. -/
def seqBefore (a b : BitVec 44) : Bool := decide (0 < (b - a).toNat ∧ (b - a).toNat < 2 ^ 43)

/-- The records of a source that no earlier frame holds back are written. -/
def State.writeFrecs (s : State) (t : Nat) : List (BitVec 44 × List Byte) → State
  | [] => s.setRoot t { s.root t with recs := [] }
  | x :: r =>
    if (s.root t).frames.any (fun g => seqBefore g.tag.seq x.1) then s.setRoot t { s.root t with recs := x :: r } else
      let (base, n, w) := s.frecRing t
      ((s.ringRecord (rootReq t (some (field x.2 0 8))) base 64 n w x.2).2).writeFrecs t r

/-- The one frame record of a sequence number, written in sequence order: the record of a frame dropped while an earlier one is
still on its way waits for that one's (R132). -/
def State.putFrameRecord (s : State) (f : Frame) (brew : Nat) (dropped lost : Bool) : State :=
  s.writeFrecs f.tile (insertBy (fun a b => !seqBefore b.1 a.1) (f.tag.seq, frameRecord f brew dropped lost) (s.root f.tile).recs)

/-- A frame dropped whole as a brew-output drop unit (R32, R36): counted, one event, its record, in which a frame that waited
in the queue carries the time it waited. -/
def State.dropFrame (s : State) (f : Frame) (brew : Nat) (sev : Fin 8) : State :=
  (s.dropUnit f.tile sev rowBrew f.tag).putFrameRecord
    (if f.queued && !f.emitted then { f with waited := (s.now - timeN f.fs).toNat } else f) brew true false

/-! ### Settings generations (R133, R134) -/

/-- Releases at a frame start: one start less for each; the latest that is due takes effect. -/
def dueReleases (l : List Release) : Option Nat × List Release :=
  let m := l.map (fun r => { r with left := r.left - 1 })
  (((m.filter (fun r => r.left == 0)).getLast?).map (·.sgen), m.filter (fun r => r.left != 0))

/-- A release recorded against source `t` (R118, R134): a ninth discards the oldest pending one. -/
def State.recordRelease (s : State) (t sgen time : Nat) : State :=
  let r := s.root t
  let new : Release := ⟨sgen, time, s.getCur (F.ING_CFG.LAT t (s.ingCtx t)) + 1⟩
  if r.releases.length < 8 then s.setRoot t { r with releases := r.releases ++ [new] } else
    let old := r.releases.headD new
    ((s.setRoot t { r with releases := r.releases.drop 1 ++ [new] }).bump (F.ING_STAT2.SGEN_MISMATCH t (s.ingCtx t))).post
      (srcTile t) 3 8 (0x100 + t) (old.sgen + old.time % 2 ^ 40 * 2 ^ 16)

/-! ### Frame starts (R126) -/

/-- What a source says of a frame at its start. -/
structure Arrival where
  link : Nat
  w : Nat
  h : Nat
  depth : Nat
  n : Nat
  fs : Time
  xs : Time
  xsSrc : Nat
  echo : Option Nat
  fixed : Option Nat

/-- The SGEN and SGEN_SRC of a frame (R133). -/
def State.sgenFor (s : State) (t : Nat) (a : Arrival) : Nat × Nat :=
  let init := s.get (F.ING_SGEN.INIT t (s.ingCtx t))
  let declared := ((s.root t).sgen.getD init, 1)
  match a.fixed with
  | some g => (g, 2)
  | none =>
    if 2 ≤ t then (init, 2) else
      match s.getCur (F.ING_CFG.SGEN_MODE t (s.ingCtx t)) with
      | 0 => match a.echo with
        | some g => (g, 0)
        | none => declared
      | 1 => declared
      | _ => (init, 2)

/-- The sequence number and SGEN registers of a source (Tables 5.9 and 8.9). ING_SEQ_HI and PAT_SEQ_HI hold what a read of the
low half latched. -/
def State.showSeq (s : State) (t : Nat) (tag : FrameTag) : State :=
  if tileKind t = .pat then
    s.put (F.PAT_SEQ_LO.SEQ (t - 34) 0) tag.seq.toNat
  else
    (s.put (F.ING_SEQ_LO.SEQ t (s.ingCtx t)) tag.seq.toNat).put (F.ING_SGEN.CURRENT t (s.ingCtx t)) tag.sgen.toNat

def srcNumber (t : Nat) : Nat := if tileKind t = .pat then 4 + (t - 34) else t

/-- A start is detected: the frame receives the counter value, the counter increments, releases take effect
for S0 and S1, and the SGEN is fixed (R126, R134, R136). -/
def State.newFrame (s : State) (t ctx : Nat) (a : Arrival) (commits : Nat) : Frame × State :=
  let r := s.root t
  let (due, rest) := if t < 2 then dueReleases r.releases else (none, r.releases)
  let s := s.setRoot t { r with seq := r.seq + 1, releases := rest, sgen := if due.isSome then due else r.sgen }
  let (g, gs) := s.sgenFor t a
  let tag : FrameTag := ⟨BitVec.ofNat 4 (srcNumber t), r.seq, BitVec.ofNat 16 g⟩
  ({ (default : Frame) with
      tag := tag, tile := t, ctx := ctx, link := a.link, fs := a.fs, xs := a.xs, xsSrc := a.xsSrc, sgenSrc := gs
      w := a.w, h := a.h, depth := a.depth, n := a.n, commits := commits }, s.showSeq t tag)

/-- The format check of R127, with the limits of R22: the least size of a frame, the multiples of the mosaic periods (R174) and
the brew's MAX_W and MAX_H. -/
def State.formatOk (s : State) (b : BrewRec) (f : Frame) : Bool :=
  let t := f.tile
  let m := s.mosaicFor b f
  let c := s.ingCtx t
  s.getCur (F.ING_FMT.WIDTH t c) == f.w && s.getCur (F.ING_FMT.HEIGHT t c) == f.h &&
  (s.onCur (F.ING_CFG.SRCSEL t c) && decide (2 ≤ t) || depthOf (s.getCur (F.ING_CFG.DEPTH t c)) == f.depth) &&
  decide (64 ≤ f.w ∧ 16 ≤ f.h) && decide (f.w ≤ b.maxW ∧ f.h ≤ b.maxH) && f.w % m.ph == 0 && f.h % m.pv == 0

/-- Frames of a brew that hold a queue slot. -/
def State.slotsHeld (s : State) (l : List Nat) : List Nat := (l.flatMap (fun t => (s.root t).frames)).filterMap (·.slot)

def freeSlot (held : List Nat) (n : Nat) : Option Nat := (List.range n).find? (fun k => !held.contains k)

/-- The frame a source offers to its brew: its oldest. -/
def State.headOf (s : State) (t : Nat) : Option Frame := (s.root t).frames.head?

def State.pushFrame (s : State) (f : Frame) : State :=
  let r := s.root f.tile
  s.setRoot f.tile { r with frames := r.frames ++ [f] }

/-- Change the frames of a source. -/
def State.mapFrames (s : State) (t : Nat) (g : List Frame → List Frame) : State :=
  let r := s.root t
  s.setRoot t { r with frames := g r.frames }

/-- The oldest waiting frame of a source: not the one its brew is reading. -/
def State.waiting (s : State) (b : BrewRec) (t : Nat) : List Frame :=
  if b.striped then ((s.root t).frames).filter (fun f => f.taken == 0)
  else if (s.brew b.brew).sel = some t then (s.root t).frames.drop 1 else (s.root t).frames

/-- Remove the oldest waiting frame of a source. -/
def State.dropWaiting (s : State) (b : BrewRec) (t : Nat) : State :=
  match (s.waiting b t).head? with
  | none => s
  | some f => ((s.mapFrames t (fun l => l.filter (fun g => g.tag != f.tag))).bump (F.ING_STAT.QUEUE_DROPS t (s.ingCtx t))).dropFrame f b.brew 4

/-- A frame that must wait takes a slot; when none is free, the oldest frame of the lowest-priority source
present is dropped, which may be the arriving one (R139, R140). -/
def State.enqueue (s : State) (b : BrewRec) (f : Frame) : State :=
  let group := if b.striped then [f.tile] else b.sources
  let f := { f with queued := true }
  match freeSlot (s.slotsHeld group) b.depth with
  | some k => s.pushFrame { f with slot := some k }
  | none =>
    let present := (group.filter (fun t => t == f.tile || !(s.waiting b t).isEmpty)).foldl max 0
    if (s.waiting b present).isEmpty then ((s.bump (F.ING_STAT.QUEUE_DROPS f.tile (s.ingCtx f.tile))).dropFrame f b.brew 4)
    else
      let s := s.dropWaiting b present
      match freeSlot (s.slotsHeld group) b.depth with
      | some k => s.pushFrame { f with slot := some k }
      | none => (s.bump (F.ING_STAT.QUEUE_DROPS f.tile (s.ingCtx f.tile))).dropFrame f b.brew 4

/-- Earlier of two times as (N, source index). -/
def earlier (a b : Frame) : Bool :=
  let x := (timeN a.fs).toNat
  let y := (timeN b.fs).toNat
  decide (x < y) || x == y && decide (a.tile ≤ b.tile)

/-- A frame whose start is detected enters its brew: it is dropped (R62, R127), streams, or waits (R137, R138). -/
def State.enterFrame (s : State) (b : BrewRec) (f : Frame) : State :=
  if s.held b.brew then s.dropFrame f b.brew 4
  else if tileKind f.tile = .ing ∧ !s.formatOk b f then
    (s.bump (F.ING_STAT.FMT_DROPS f.tile (s.ingCtx f.tile))).dropFrame f b.brew 3
  else if !b.two then s.pushFrame f
  else if b.striped then s.enqueue b f
  else
    let br := s.brew b.brew
    match br.sel with
    | some _ => s.enqueue b f
    | none =>
      let rivals := b.sources.filterMap (fun t => s.headOf t)
      let wins := rivals.all (fun g => earlier f g)
      if wins ∧ f.tile = b.root then (s.pushFrame f).setBrew b.brew { br with sel := some f.tile }
      else
        let s := s.enqueue b f
        if wins ∧ (s.headOf f.tile).map (·.tag) = some f.tag then
          s.setBrew b.brew { s.brew b.brew with sel := some f.tile }
        else s

/-- The whole of a frame start at an ingest tile whose ENABLE is set; without it the frame is ignored. -/
def State.frameStart (s : State) (t : Nat) (a : Arrival) : State :=
  match s.brewOfRoot t with
  | none => s
  | some (b, ctx) =>
    if !s.onCur (F.ING_CFG.ENABLE t (s.ingCtx t)) then s else
      let (f, s) := s.newFrame t ctx a (s.brew b.brew).commits
      s.enterFrame b f

/-- A frame lost on the link (R109): it consumes a sequence number, is counted as a drop unit and has a record
with LOST = 1. -/
def State.frameLost (s : State) (t : Nat) (a : Arrival) : State :=
  match s.brewOfRoot t with
  | none => s
  | some (b, ctx) =>
    if !s.onCur (F.ING_CFG.ENABLE t (s.ingCtx t)) then s else
      let (f, s) := s.newFrame t ctx a (s.brew b.brew).commits
      ((s.bump (F.FAB_TILE_STAT.DROPS t)).post (srcTile t) 3 2 rowBrew f.tag.toNat).putFrameRecord f b.brew false true

/-! ### Lines (R128, R129) -/

/-- The open frame of a source: the one whose lines arrive. -/
def State.openFrame (s : State) (t : Nat) : Option Frame := ((s.root t).frames.filter (fun f => !f.closed)).getLast?

/-- The fill row of R128. -/
def fillRow (f : Frame) (code : Nat) : List (List Nat) := List.replicate f.w (List.replicate f.n (rnd (.fin (code : Rat))))

/-- Line `rows.length` of a frame replaced by the line PV before it, or filled. -/
def replaceLine (pv code : Nat) (f : Frame) : Frame :=
  let y := f.rows.length
  { f with rows := f.rows ++ [if pv ≤ y then f.rows.getD (y - pv) [] else fillRow f code], replaced := f.replaced + 1, fills := f.fills ++ [y] }

/-- Lines lost below line `y`: replaced, each a drop unit counted once (R128, R129). -/
def State.replaceUpTo (s : State) (b : BrewRec) : Nat → Nat → Frame → Frame × State
  | 0, _, f => (f, s)
  | n + 1, y, f =>
    if y ≤ f.rows.length then (f, s) else
      let g := replaceLine (s.mosaicFor b f).pv (s.getCur (F.ING_FILL.CODE f.tile (s.ingCtx f.tile))) f
      let s := (s.bump (F.ING_STAT.LINES_REPLACED f.tile (s.ingCtx f.tile))).dropUnit f.tile 4 rowIngest f.tag
      s.replaceUpTo b n y g

/-- Put a frame back among its source's frames. -/
def State.updateFrame (s : State) (f : Frame) : State :=
  s.mapFrames f.tile (fun l => l.map (fun g => if g.tag = f.tag then f else g))

/-- A queued frame's line is written to its slot; what a slot holds has no defined meaning (R138, log 3). Answers why the write
failed, when it did. -/
def State.slotWrite (s : State) (b : BrewRec) (f : Frame) (y : Nat) : Option AccErr × State :=
  match f.slot with
  | none => (none, s)
  | some k =>
    let base := s.addr (R.ING_FQ_LO b.root 0) (R.ING_FQ_HI b.root 0)
    let idx := if b.striped ∧ f.tile ≠ b.root then b.depth + k else k
    let (bytes, s) := s.takeFreeBytes (2 * f.w)
    match s.engWrite (rootReq b.root (some f.tag.toNat)) (base + idx * b.slotSize + 2 * f.w * y) bytes with
    | (.ok _, s) => (none, s)
    | (.error e, s) => (some e, s)

/-- Line `y` arrives at an ingest tile with its samples; `fits` tells that the line buffer could hold it (R31).
One that arrives after its line was declared lost is discarded. One whose write to the queue fails is lost (R32), and where
the write meets a pinned miss the frame is the drop unit (R34, Table 15.1). -/
def State.lineArrives (s : State) (t y : Nat) (row : List (List Nat)) (fits : Bool) : State :=
  match s.brewOfRoot t, s.openFrame t with
  | some (b, _), some f =>
    if y < f.rows.length ∨ f.h ≤ y then s else
      let (f, s) := s.replaceUpTo b y y f
      let lose (f : Frame) (s : State) : State :=
        let (f, s) := s.replaceUpTo b 1 (y + 1) f
        s.updateFrame f
      if !fits then lose f s else
        match s.slotWrite b f y with
        | (none, s) => s.updateFrame { f with rows := f.rows ++ [row] }
        | (some .pinnedMiss, s) => s.updateFrame { f with rows := f.rows ++ [row], dropped := true }
        | (some _, s) => lose f s
  | _, _ => s

/-- The next line of the open frame is lost. -/
def State.lineLost (s : State) (t : Nat) : State :=
  match s.brewOfRoot t, s.openFrame t with
  | some (b, _), some f =>
    if f.h ≤ f.rows.length then s else
      let (f, s) := s.replaceUpTo b 1 (f.rows.length + 1) f
      s.updateFrame f
  | _, _ => s

/-- The open frame closes: lines not delivered are lost and replaced. -/
def State.frameClose (s : State) (t : Nat) : State :=
  match s.brewOfRoot t, s.openFrame t with
  | some (b, _), some f =>
    let (f, s) := s.replaceUpTo b f.h f.h f
    s.updateFrame { f with closed := true }
  | _, _ => s

/-! ### Commits (R144 to R147) -/

/-- The event of a discarded commit (R146, Table 22.14). -/
def State.commitFault (s : State) (b : BrewRec) (e : TabFault) : State :=
  let s := s.setBit F.FAB_COMMIT_PEND.PEND b.brew false
  let s := s.setBrew b.brew { s.brew b.brew with fetched := false, tabs := [] }
  let s := if tileKind b.root = .pat then s.put (F.PAT_STAT.COMMIT_ERR (b.root - 34) 0) 1 else s.put (F.ING_STAT2.COMMIT_ERR b.root (s.ingCtx b.root)) 1
  s.post (srcTile e.tile) 4 0 (b.brew * 256 + e.cause) e.addr

/-- The fetches of a brew's pending commit complete: the tables and settings are checked (R144, R146). -/
def State.commitFetch (s : State) (b : BrewRec) : State :=
  match s.fetchBrew s.regs s.cfg b with
  | (.ok tabs, s) => s.setBrew b.brew { s.brew b.brew with fetched := true, tabs := tabs }
  | (.error e, s) => s.commitFault b e

/-- A brew's pending commit has tables to fetch. -/
def State.commitHasTables (s : State) (b : BrewRec) : Bool :=
  (s.cfg.tilesOf b.brew).any (fun t => b.ctxs.any (fun c => !(tableReqs ⟨s.regs, []⟩ t c).isEmpty))

/-- FAB_COMMIT (R71, R62, R144, R145): the pending bit is set and the fetches start, afresh when a commit was
pending. A commit with no table to fetch has all its fetches complete. -/
def State.commitWrite (s : State) (src b : Nat) : State :=
  match s.brewRec b with
  | none => s.postIgnored src 3 R.FAB_COMMIT
  | some r =>
    if s.held b then s.postIgnored src 3 R.FAB_COMMIT else
      let s := s.setBit F.FAB_COMMIT_PEND.PEND b true
      let s := s.setBrew b { s.brew b with fetched := false, tabs := [] }
      if s.commitHasTables r then s else s.commitFetch r

/-- The first setting of a brew that breaks a check of its owning chapter, under the shadow copies and the tables fetched. -/
def State.settingFault (s : State) (b : BrewRec) (tabs : Sparse (List Byte)) : Option TabFault :=
  ((s.cfg.tilesOf b.brew).flatMap (fun t => b.ctxs.map (fun c => (t, c)))).findSome? (fun (p : Nat × Nat) =>
    (tileFault ⟨s.regs, tabs⟩ s.cfg b p.1 p.2).map (fun k =>
      ⟨p.1, 3, ((k.bind (fun k => (tableReqs ⟨s.regs, []⟩ p.1 p.2).find? (fun q => q.kind == k))).map (·.addr)).getD 0⟩))

/-- At a commit point with a pending commit whose fetches are complete, the shadow copies of every tile of the
brew are latched as one set, and COMMITS increments (R144); a set that breaks a check by then is discarded (R146, R156). In
stripe interleave the pending bit stays until both contexts have taken effect (R147). -/
def State.commitLatch (s : State) (b : BrewRec) : State :=
  if !(s.bit F.FAB_COMMIT_PEND.PEND b.brew && (s.brew b.brew).fetched) then s else
  match s.settingFault b (s.brew b.brew).tabs with
  | some e => s.commitFault b e
  | none =>
    let r := s.brew b.brew
    let ts : List (Nat × Nat) := (s.cfg.tilesOf b.brew).flatMap (fun t => b.ctxs.map (fun c => (t, c)))
    let s := { s with
      latched := ts.foldl (fun d (p : Nat × Nat) => copyRanges s.regs d (tileRanges p.1 p.2)) s.latched
      tabs := ts.foldl (fun d (p : Nat × Nat) => copyTabs r.tabs d p.1 p.2) s.tabs }
    let s := s.setBrew b.brew { r with fetched := false, tabs := [], commits := (r.commits + 1) % 65536,
                                       ctxWait := if b.striped then [0, 1] else [] }
    if b.striped then s else s.setBit F.FAB_COMMIT_PEND.PEND b.brew false

/-- Context `c` of a striped brew begins a frame: its latched set takes effect (R147). -/
def State.ctxStarts (s : State) (b : BrewRec) (c : Nat) : State :=
  let r := s.brew b.brew
  let w := r.ctxWait.filter (· != c)
  let s := s.setBrew b.brew { r with ctxWait := w }
  if r.ctxWait.isEmpty then s else if w.isEmpty then s.setBit F.FAB_COMMIT_PEND.PEND b.brew false else s

/-- The root emits the start-of-frame beat of frame `f`, which is its commit point: the frame is processed with
the set in force from here on, and the sources switch with it; in stripe interleave only the source of the frame (R147). -/
def State.emitSof (s : State) (b : BrewRec) (f : Frame) : State :=
  let s := s.commitLatch b
  let s := if b.striped then s.ctxStarts b f.ctx else s
  let f := { f with emitted := true, par := s.latched, tabs := s.tabs, commits := (s.brew b.brew).commits,
                    waited := if f.queued then (s.now - timeN f.fs).toNat else 0 }
  (if b.striped then s.switchTile f.tile f.ctx s.latched
    else b.sources.foldl (fun s t => s.switchTile t 0 s.latched) s).updateFrame f

/-! ### The frame a brew delivers -/

/-- The frame a brew that is not striped delivers: its root's oldest, or that of the selected source. -/
def State.currentFrame (s : State) (b : BrewRec) : Option Frame :=
  if b.two then (s.brew b.brew).sel.bind s.headOf else s.headOf b.root

/-- The brew is free (R137): it delivers no frame. -/
def State.brewFree (s : State) (b : BrewRec) : Bool :=
  if b.two then (s.brew b.brew).sel.isNone && !b.striped else (s.root b.root).frames.isEmpty

/-- Arbitration (R137): the frame with the earlier FS arrival time goes first, on equal times the lower source. -/
def State.arbitrate (s : State) (b : BrewRec) : State :=
  if !b.two ∨ b.striped ∨ (s.brew b.brew).sel.isSome then s else
    let c := b.sources.filterMap s.headOf
    match c.find? (fun f => c.all (fun g => earlier f g)) with
    | none => s
    | some f => s.setBrew b.brew { s.brew b.brew with sel := some f.tile }

/-- Lines of the next stripe of a source's oldest frame, when it has been fully written (R140). -/
def State.stripeReady (s : State) (t : Nat) : Option Frame :=
  match s.headOf t with
  | none => none
  | some f => if f.taken < f.h ∧ min (f.taken + 16) f.h ≤ f.rows.length then some f else none

/-- A stripe boundary (R140): the next stripe of the other source when it is written, otherwise of the same, otherwise the brew
waits. A brew that waits takes the first stripe to be complete, that of the lower source index when both are. The first stripe
of a frame is its commit point (R147). -/
def State.stripeBoundary (s : State) (b : BrewRec) : State :=
  if !b.striped then s else
    let br := s.brew b.brew
    let src (i : Nat) := if i = 0 then b.root else b.feeder
    let first := if br.stalled then (if b.root < b.feeder then 0 else 1) else if br.lastSrc = 0 then 1 else 0
    let pick := match s.stripeReady (src first) with
      | some f => some (first, f)
      | none => (s.stripeReady (src (1 - first))).map (fun f => (1 - first, f))
    match pick with
    | none => s.setBrew b.brew { br with stalled := true }
    | some (i, f) =>
      let s := s.setBrew b.brew { br with lastSrc := i, stalled := false }
      let s := if f.taken = 0 then s.emitSof b f else s
      s.mapFrames f.tile (fun l => l.map (fun g => if g.tag = f.tag then { g with taken := min (g.taken + 16) g.h } else g))

/-- The frame that ends at a root: it leaves its source, its slot is read and freed. Lines of a queued frame
whose slot read fails are replaced (R138, R128), each counted once; a pinned miss drops the frame (R34). -/
def State.readSlot (s : State) (b : BrewRec) (f : Frame) : Nat → Frame × State
  | 0 => (f, s)
  | n + 1 =>
    let (f, s) := s.readSlot b f n
    match f.slot with
    | none => (f, s)
    | some k =>
      let base := s.addr (R.ING_FQ_LO b.root 0) (R.ING_FQ_HI b.root 0)
      let idx := if b.striped ∧ f.tile ≠ b.root then b.depth + k else k
      match s.engRead (rootReq b.root (some f.tag.toNat)) (base + idx * b.slotSize + 2 * f.w * n) (2 * f.w) with
      | (.ok _, s) => (f, s)
      | (.error .pinnedMiss, s) => ({ f with dropped := true }, s)
      | (.error _, s) =>
        if f.fills.contains n then (f, s) else
          let pv := (s.mosaicFor b f).pv
          let row := if pv ≤ n then f.rows.getD (n - pv) [] else fillRow f (s.getCur (F.ING_FILL.CODE f.tile (s.ingCtx f.tile)))
          ({ f with rows := f.rows.set n row, replaced := f.replaced + 1, fills := f.fills ++ [n] },
            (s.bump (F.ING_STAT.LINES_REPLACED f.tile (s.ingCtx f.tile))).dropUnit f.tile 4 rowIngest f.tag)

end Sys2Proof.Machine
end

