-- ==== Sys2Proof/Machine/Caddy.lean ====
section
/-! DEFINITION. The caddy's sachets (R350 to R357) and the flow control of class 4 (R386). -/

namespace Sys2Proof.Machine

/-! ### Partition (R352, R353, R356) -/

/-- The first sachet of the class 7 block. -/
def State.blockStart (s : State) : Nat := 12288 - min (s.get (F.CAD_CL_CFG.RESERVE 7)) 12288

/-- MAX_c (R353). -/
def State.classMax (s : State) (c : Nat) : Nat :=
  let m := s.get (F.CAD_CL_CFG.RESERVE c) + s.get (F.CAD_CL_SHARE.QUOTA c)
  let l := s.get (F.CAD_CL_CFG.LIMIT c)
  if l ≠ 0 ∧ l < m then l else m

/-- A bank that counts toward A (CAD_AVAIL.BANKS). -/
def State.bankCounts (s : State) (b : Nat) : Bool := s.bit F.CAD_AVAIL.BANKS b

def State.sachetHolder (s : State) (k : Nat) : Option (Nat × Nat) := sget none s.caddy.held k

/-- The lowest-numbered free sachet of bank `b` below the class 7 block. -/
def State.freeIn (s : State) (b : Nat) : Option Nat :=
  ((List.range 768).map (fun i => 16 * i + b)).find? (fun k => decide (k < s.blockStart) && (s.sachetHolder k).isNone)

/-- The key of channel `chan` of class `c` among the channels of every class. -/
def chanKey (c chan : Nat) : Nat := 8 * chan + c

/-- The banks after that of a channel's previous sachet, ascending modulo 16. With no previous sachet, from bank 0. -/
def State.bankOrder (s : State) (c chan : Nat) : List Nat :=
  (List.range 16).map (fun i => (sget 15 s.caddy.bank (chanKey c chan) + 1 + i) % 16)

/-- The sachet that R354 grants to a channel: of a bank that is On, else of one that the kettle brings On. -/
def State.chooseSachet (s : State) (c chan : Nat) : Option Nat :=
  let banks := (s.bankOrder c chan).filter s.bankCounts
  match (banks.filter (fun b => s.domOn (89 + b))).filterMap s.freeIn with
  | k :: _ => some k
  | [] => (banks.filterMap s.freeIn).head?

/-! ### PFC of class 4 (R386) -/

/-- Sachets of class 4 that sub-port `x` = port × 4 + k holds. -/
def State.class4 (s : State) (x : Nat) : Nat := (s.caddy.held.filter (fun e => e.2 == some (4, x))).length

/-- XOFF above 75 % of the class's MAX, XON below 50 %. -/
def State.pfcCheck (s : State) (x : Nat) : State :=
  let en := s.get (F.ETH_PFC.TX_EN (x / 4))
  let n := s.class4 x
  let m := s.classMax 4
  let set l := { s with caddy := { s.caddy with xoff := l } }
  if en = 0 ∨ 8 ≤ x then s
  else if 3 * m < 4 * n ∧ !s.caddy.xoff.contains x then (set (s.caddy.xoff ++ [x])).emit "pfc xoff" x [en]
  else if 2 * n < m ∧ s.caddy.xoff.contains x then (set (s.caddy.xoff.filter (· != x))).emit "pfc xon" x [en]
  else s

/-! ### Grant, wait, release (R354 to R356) -/

/-- HELD of a class and its peak, and the free count and its low mark. -/
def State.countHeld (s : State) (c held free : Nat) : State :=
  s.andThen [(·.put (F.CAD_CL_HELD.HELD c) held), (fun s => s.put (F.CAD_CL_HELD.PEAK c) (max (s.get (F.CAD_CL_HELD.PEAK c)) held)),
    (·.put F.CAD_FREE.FREE free), fun s => s.put F.CAD_FREE.LOW (min (s.get F.CAD_FREE.LOW) free)]

/-- Sachet `k` is granted to a channel; its bank comes On first. -/
def State.grantSachet (s : State) (c chan k : Nat) : State :=
  let s := if s.domOn (89 + k % 16) then s else s.bringUp (89 + k % 16)
  let s := { s with caddy := { s.caddy with held := sset none s.caddy.held k (some (c, chan)), bank := sset 15 s.caddy.bank (chanKey c chan) (k % 16) } }
  let s := s.countHeld c (s.get (F.CAD_CL_HELD.HELD c) + 1) (s.get F.CAD_FREE.FREE - (if k < s.blockStart then 1 else 0))
  (s.emit "sachet granted" chan [c, k]).when (decide (c = 4)) (·.pfcCheck chan)

/-- A request of a class below its MAX is granted a sachet where one is free. -/
def State.tryGrant (s : State) (c chan : Nat) : Option State :=
  if s.get (F.CAD_CL_HELD.HELD c) < s.classMax c then (s.chooseSachet c chan).map (s.grantSachet c chan) else none

/-- A request (R354, R355). -/
def State.sachetRequest (s : State) (c chan : Nat) : State :=
  match s.tryGrant c chan with
  | some s => s
  | none =>
    let s := (s.bump (F.CAD_CL_STAT.DENIED c)).bumpBy (F.CAD_CL_STAT.WAITING c) 1
    { s with caddy := { s.caddy with waits := s.caddy.waits ++ [(c, chan)] } }

/-- The request leaves the waiting list. -/
def State.unwait (s : State) (w : Nat × Nat) : State :=
  ({ s with caddy := { s.caddy with waits := s.caddy.waits.erase w } }).put (F.CAD_CL_STAT.WAITING w.1) (s.get (F.CAD_CL_STAT.WAITING w.1) - 1)

/-- The oldest waiting request that can be granted is, whatever its class (R356). -/
def State.serveWaits (s : State) : List (Nat × Nat) → State
  | [] => s
  | w :: r =>
    match (s.unwait w).tryGrant w.1 w.2 with
    | some s => s
    | none => s.serveWaits r

/-- A channel releases sachet `k`: the oldest waiting request of its class takes it (R355); a sachet of the class 7 block
passes to firmware (R356). -/
def State.sachetRelease (s : State) (k : Nat) : State :=
  match s.sachetHolder k with
  | none => s
  | some (c, chan) =>
    let below := decide (k < s.blockStart)
    let s := { s with caddy := { s.caddy with held := sset none s.caddy.held k none } }
    let s := s.countHeld c (s.get (F.CAD_CL_HELD.HELD c) - 1) (s.get F.CAD_FREE.FREE + (if below then 1 else 0))
    let s := s.when (decide (c = 4)) (·.pfcCheck chan)
    match s.caddy.waits.find? (fun w => w.1 == c) with
    | some w =>
      if below && s.bankCounts (k % 16) && decide (s.get (F.CAD_CL_HELD.HELD c) < s.classMax c) then (s.unwait w).grantSachet c w.2 k
      else s.serveWaits s.caddy.waits
    | none => s.serveWaits s.caddy.waits

/-- Bank `b` holds a granted sachet or one of the class 7 block (R357). -/
def State.bankInUse (s : State) (b : Nat) : Bool :=
  s.caddy.held.any (fun e => e.1 % 16 == b) || (List.range 16).any (fun i => decide (s.blockStart + i < 12288) && (s.blockStart + i) % 16 == b)

/-! ### A new partition (step 2 of Table 2.16) -/

/-- The partition that the records of a CADDY section give: A and the quotas follow from the banks whose POLICY is not 0. -/
def State.repartition (s : State) (recs : List CaddyRec) : State :=
  let r c := recs.find? (fun x => x.cls == c)
  let reserve c := ((r c).map (·.reserve)).getD 0
  let weight c := ((r c).map (·.weight)).getD 0
  let limit c := ((r c).map (·.limit)).getD 0
  let s := (List.range 8).foldl (fun s c => (s.put (F.CAD_CL_CFG.RESERVE c) (reserve c)).put (F.CAD_CL_CFG.LIMIT c) (limit c)) s
  let banks := (List.range 16).filter (fun b => s.get (F.PWR_DOM.POLICY (89 + b)) ≠ 0)
  let avail := ((List.range s.blockStart).filter (fun k => banks.contains (k % 16))).length
  let total := (List.range 7).foldl (fun n c => n + weight c) 0
  let shared := avail - (List.range 7).foldl (fun n c => n + reserve c) 0
  let s := (List.range 8).foldl (fun s c =>
    (s.put (F.CAD_CL_SHARE.WEIGHT c) (weight c)).put (F.CAD_CL_SHARE.QUOTA c)
      (if c = 7 ∨ total = 0 then 0 else shared * weight c / total)) s
  let used := (s.caddy.held.filter (fun e => decide (e.1 < s.blockStart))).length
  s.andThen [(·.put F.CAD_AVAIL.BANKS (banks.foldl (fun m b => m + 2 ^ b) 0)), (·.put F.CAD_AVAIL.SACHETS avail),
    (·.put F.CAD_FREE.FREE (avail - used)), fun s => s.put F.CAD_FREE.LOW (min (s.get F.CAD_FREE.LOW) (avail - used))]

/-- The records of the partition in force. -/
def State.partition (s : State) : List CaddyRec :=
  (List.range 8).map (fun c => ⟨c, s.get (F.CAD_CL_CFG.RESERVE c), s.get (F.CAD_CL_SHARE.WEIGHT c), s.get (F.CAD_CL_CFG.LIMIT c), 0⟩)

/-! ### Commands -/

def execSachetRequest (cls : Fin 7) (chan : Nat) (s : State) : Host.Outcome State Fault Refusal := s.running (s.sachetRequest cls chan)

end Sys2Proof.Machine
end

