-- ==== Sys2Proof/Machine/Feed.lean ====
section
/-! DEFINITION. What the sources of recording streams offer to them (Table 17.3, R405), and the data that CCP keeps. -/

namespace Sys2Proof.Machine

def State.stream (s : State) (k : Nat) : Option StreamRun := sget none s.ccp.streams k
def State.setStream (s : State) (k : Nat) (x : Option StreamRun) : State :=
  { s with ccp := { s.ccp with streams := sset none s.ccp.streams k x } }

def StreamRun.kind (x : StreamRun) : Nat := field x.desc 0 1
def StreamRun.src (x : StreamRun) : Nat := field x.desc 1 1

/-- Streams that record a source; the two kinds of tap share theirs. -/
def State.streamsOf (s : State) (kind src : Nat) : List (Nat × StreamRun) :=
  s.ccp.streams.filterMap (fun e => e.2.bind (fun x =>
    if (x.kind == kind || (x.kind ≤ 1 && kind ≤ 1)) && x.src == src && s.get (F.CCP_STR_STAT.STATE e.1) == 1 then some (e.1, x) else none))

/-- A frame is offered to the stream that records its source. -/
def State.feed (s : State) (kind src : Nat) (i : FeedItem) : State :=
  (s.streamsOf kind src).foldl (fun s e => s.setStream e.1 (some { e.2 with inbox := e.2.inbox ++ [i] })) s

/-- Statistics tile `t` begins to rewrite tap slot `k`: a stream that has not read it is overtaken. -/
def State.overtake (s : State) (t k : Nat) : State :=
  let mark (i : FeedItem) : FeedItem := if i.slot = k then { i with above := true } else i
  (s.streamsOf 0 t).foldl (fun s e => s.setStream e.1 (some { e.2 with inbox := e.2.inbox.map mark })) s

/-- A stream holds slot `k` of output pack tile `t`. -/
def State.streamHolds (s : State) (t k : Nat) : Bool :=
  (s.streamsOf 4 t).any (fun e => e.2.inbox.any (fun i => i.slot == k))

/-- The takes of the index with those that a stream was recording Closed: as it is adopted after the streams end without completion
(R398, R423). -/
def State.closedTakes (s : State) : Sparse Take :=
  s.ccp.takes.map (fun e => if s.ccp.streams.any (fun x => (x.2.map (fun y => y.take == e.1)).getD false) then (e.1, { e.2 with state := 2 }) else e)

/-- What a warm reset leaves of the capture store: its index (R423). -/
def State.storeKept (s : State) : CcpState := { State.reset.ccp with takes := s.closedTakes, home := s.ccp.home }

/-- The stream that records a source. -/
def State.recording (s : State) (kind src : Nat) : Bool :=
  s.ccp.streams.any (fun e => match e.2 with
    | some x => (x.kind == kind || (x.kind ≤ 1 && kind ≤ 1)) && x.src == src
    | none => false)

end Sys2Proof.Machine
end

