-- ==== Sys2Proof/Machine/SyntaxBuf.lean ====
section
/-! DEFINITION. The codec's syntax buffer (R266, R267): its elements and their words (Table 11.3), the order of a picture's
stream, the encoder's tools as they show in it (R261, Table 11.2), and the order in which engines work on CTUs (R264). -/

namespace Sys2Proof.Machine

/-! ### Elements (Table 11.3) -/

/-- An element with the fields of its word; raw words follow PARAM, SIDE, PU and COEF. -/
inductive Element where
  | pic (ctx type irap num poc : Nat)
  | param (chroma depthY depthC ctb minCb minTb maxTb sao amp tmvp signs skip pcm lists weights : Nat)
  | ref (list index long subst buf poc : Nat)
  | slice (addr qp type dependent noDeblock beta tc cb cr : Nat)
  | side (type n : Nat)
  | row (r qp : Nat)
  | ctu (c floor last : Nat)
  | sao (cidx type band edge offsets : Nat)
  | cu (x y size mode part bypass qp : Nat)
  | intra (m0 m1 m2 m3 mc : Nat)
  | pu (part dir merge idx r0 r1 : Nat)
  | tu (x y size cbf skip qp : Nat)
  | coef (cidx scan n last : Nat)
  | rowEnd (r : Nat)
  | picEnd (status ctb : Nat)
deriving DecidableEq, Repr, Inhabited

/-- The fields of a word by their widths, from bit 55 down. -/
def fieldsOf (w : Nat) : Nat → List Nat → List Nat
  | _, [] => []
  | top, k :: r => (w / 2 ^ (top - k)) % 2 ^ k :: fieldsOf w (top - k) r

/-- A word of a KIND from its fields and their widths. -/
def wordOf (kind : Nat) (l : List (Nat × Nat)) : Nat :=
  kind * 2 ^ 56 + (l.foldl (fun (a : Nat × Nat) f => (a.1 + f.2 % 2 ^ f.1 * 2 ^ (a.2 - f.1), a.2 - f.1)) (0, 56)).1

/-- The word of an element. -/
def Element.word : Element → Nat
  | .pic c t i n p => wordOf 1 [(5, c), (2, t), (1, i), (16, n), (32, p)]
  | .param c y d b mc mt xt so amp tm sg sk pcm li we => wordOf 2 [(2, c), (3, y), (3, d), (2, b), (2, mc), (2, mt), (2, xt), (1, so),
      (1, amp), (1, tm), (1, sg), (1, sk), (1, pcm), (1, li), (1, we)]
  | .ref l i g u b p => wordOf 3 [(1, l), (4, i), (1, g), (1, u), (5, b), (12, 0), (32, p)]
  | .slice a q t d n b tc cb cr => wordOf 4 [(16, a), (6, q), (2, t), (1, d), (1, n), (4, b), (4, tc), (5, cb), (5, cr)]
  | .side t n => wordOf 5 [(4, t), (4, 0), (16, n)]
  | .row r q => wordOf 6 [(16, r), (6, q)]
  | .ctu c f e => wordOf 7 [(12, c), (1, f), (1, e)]
  | .sao c t b e o => wordOf 8 [(2, c), (2, t), (5, b), (2, e), (5, 0), (40, o)]
  | .cu x y s m p b q => wordOf 9 [(4, x), (4, y), (2, s), (2, m), (3, p), (1, b), (6, q)]
  | .intra a b c d e => wordOf 10 [(6, a), (6, b), (6, c), (6, d), (6, e)]
  | .pu p d m i a b => wordOf 11 [(2, p), (2, d), (1, m), (3, i), (4, a), (4, b)]
  | .tu x y s c k q => wordOf 12 [(4, x), (4, y), (2, s), (3, c), (3, k), (6, q)]
  | .coef c s n l => wordOf 13 [(2, c), (2, s), (4, 0), (16, n), (16, l)]
  | .rowEnd r => wordOf 14 [(16, r)]
  | .picEnd st c => wordOf 15 [(8, st), (16, c)]

/-- The element a word's KIND and fields spell; none for KIND 0x00 and 0x10 to 0xFF. -/
def elementOf (w : Nat) : Option Element :=
  let f (l : List Nat) : List Nat := fieldsOf w 56 l
  match w / 2 ^ 56 with
  | 1 => match f [5, 2, 1, 16, 32] with | [a, b, c, d, e] => some (.pic a b c d e) | _ => none
  | 2 => match f [2, 3, 3, 2, 2, 2, 2, 1, 1, 1, 1, 1, 1, 1, 1] with
    | [a, b, c, d, e, g, h, i, j, k, l, m, n, o, p] => some (.param a b c d e g h i j k l m n o p)
    | _ => none
  | 3 => match f [1, 4, 1, 1, 5, 12, 32] with | [a, b, c, d, e, _, g] => some (.ref a b c d e g) | _ => none
  | 4 => match f [16, 6, 2, 1, 1, 4, 4, 5, 5] with | [a, b, c, d, e, g, h, i, j] => some (.slice a b c d e g h i j) | _ => none
  | 5 => match f [4, 4, 16] with | [a, _, b] => some (.side a b) | _ => none
  | 6 => match f [16, 6] with | [a, b] => some (.row a b) | _ => none
  | 7 => match f [12, 1, 1] with | [a, b, c] => some (.ctu a b c) | _ => none
  | 8 => match f [2, 2, 5, 2, 5, 40] with | [a, b, c, d, _, e] => some (.sao a b c d e) | _ => none
  | 9 => match f [4, 4, 2, 2, 3, 1, 6] with | [a, b, c, d, e, g, h] => some (.cu a b c d e g h) | _ => none
  | 10 => match f [6, 6, 6, 6, 6] with | [a, b, c, d, e] => some (.intra a b c d e) | _ => none
  | 11 => match f [2, 2, 1, 3, 4, 4] with | [a, b, c, d, e, g] => some (.pu a b c d e g) | _ => none
  | 12 => match f [4, 4, 2, 3, 3, 6] with | [a, b, c, d, e, g] => some (.tu a b c d e g) | _ => none
  | 13 => match f [2, 2, 4, 16, 16] with | [a, b, _, c, d] => some (.coef a b c d) | _ => none
  | 14 => (f [16]).head?.map .rowEnd
  | 15 => match f [8, 16] with | [a, b] => some (.picEnd a b) | _ => none
  | _ => none

/-- The raw words that follow an element. -/
def Element.raw : Element → Nat
  | .param .. => 1
  | .side _ n => n
  | .pu .. => 1
  | .coef _ _ n _ => n
  | _ => 0

/-- The reserved values and the ranges within an element's own fields: COEF's N, statuses, types. -/
def Element.ok : Element → Bool
  | .pic _ t _ _ _ => decide (t ≤ 2)
  | .slice _ _ t _ _ _ _ _ _ => decide (t ≤ 2)
  | .side t _ => decide (t ≤ 2)
  | .sao c t _ _ _ => decide (c ≤ 2 ∧ t ≤ 2)
  | .pu _ d _ _ _ _ => decide (1 ≤ d)
  | .coef c _ n l => decide (c ≤ 2) && n == (l + 4) / 4
  | .picEnd st _ => decide (st ≤ 3)
  | _ => true

/-! ### The order of a stream (R266) -/

/-- A reader's place in a stream: the elements so far, newest first, raw words still to come of the newest, those that came, rows
ended, CTUs of the open row, CTUs in all, whether an element was wrong, and whether PIC_END has come. -/
structure SynRead where
  elems : List Element := []
  raw : Nat := 0
  raws : List Nat := []
  rows : Nat := 0
  cols : Nat := 0
  ctus : Nat := 0
  bad : Bool := false
  ended : Bool := false
deriving DecidableEq, Repr, Inhabited

/-- KIND of an element. -/
def Element.kind (e : Element) : Nat := e.word / 2 ^ 56

/-- The KINDs that may follow a KIND in a stream. -/
def follows : Nat → List Nat
  | 1 => [2]
  | 2 | 3 => [3, 4]
  | 4 | 5 => [4, 5, 6]
  | 6 => [7]
  | 7 | 8 => [8, 9]
  | 9 => [10, 11, 9, 7, 14]
  | 10 => [12, 9, 7, 14]
  | 11 => [11, 12, 9, 7, 14]
  | 12 | 13 => [13, 12, 9, 7, 14]
  | 14 => [6, 15]
  | _ => []

/-- Whether `e` may follow the elements so far: an intra CU has an INTRA element, an inter or skip CU PU elements, a PCM CU neither;
SAO elements rise in cIdx; PIC_END with a status other than 0 ends the stream anywhere. -/
def mayFollow (l : List Element) (e : Element) : Bool :=
  match l.head? with
  | none => e.kind == 1
  | some p =>
    (match e with | .picEnd (_ + 1) _ => true | _ => false) ||
    (follows p.kind).contains e.kind &&
    (match p, e with
      | .cu _ _ _ m _ _ _, .intra .. => m == 0
      | .cu _ _ _ m _ _ _, .pu .. => m == 1 || m == 2
      | .cu _ _ _ m _ _ _, _ => m == 3
      | .sao c _ _ _ _, .sao d _ _ _ _ => decide (c < d)
      | _, _ => true)

/-- One word is read: a raw word, or an element, which must be of a known KIND with its unused bits 0, in its place, and count
rows and columns in order. -/
def SynRead.feed (x : SynRead) (w : BitVec 64) : SynRead :=
  if x.bad then x else
  if x.ended then { x with bad := true } else
  if 0 < x.raw then { x with raw := x.raw - 1, raws := x.raws ++ [w.toNat] } else
    match elementOf w.toNat with
    | none => { x with bad := true }
    | some e =>
      if e.word ≠ w.toNat ∨ !e.ok ∨ !mayFollow x.elems e then { x with bad := true } else
        let y := { x with elems := e :: x.elems, raw := e.raw }
        match e with
        | .row r _ => { y with bad := decide (r ≠ x.rows), cols := 0 }
        | .ctu c _ _ => { y with bad := decide (c ≠ x.cols), cols := x.cols + 1, ctus := x.ctus + 1 }
        | .rowEnd r => { y with bad := decide (r ≠ x.rows), rows := x.rows + 1 }
        | .picEnd .. => { y with ended := true }
        | _ => y

/-- The stream of a picture as its reader finds it. -/
def readSyntax (words : List (BitVec 64)) : SynRead := words.foldl SynRead.feed {}

/-- The element PIC, and PARAM. -/
def SynRead.pic (x : SynRead) : Option Element := x.elems.reverse.head?
def SynRead.param (x : SynRead) : Option Element := (x.elems.reverse.drop 1).head?
/-- PARAM's raw word, the first of the stream: width and height, and the conformance window left, right, top and bottom. -/
def SynRead.width (x : SynRead) : Nat := (x.raws.getD 0 0) % 2 ^ 16
def SynRead.height (x : SynRead) : Nat := (x.raws.getD 0 0) / 2 ^ 16 % 2 ^ 16
def SynRead.window (x : SynRead) : List Nat := (List.range 4).map (fun i => (x.raws.getD 0 0) / 2 ^ (32 + 8 * i) % 2 ^ 8)
/-- log2 of the CTB size. -/
def SynRead.ctb (x : SynRead) : Nat := match x.param with | some (.param _ _ _ b ..) => b + 4 | _ => 6
/-- Reference pictures that R289 substituted. -/
def SynRead.substs (x : SynRead) : Nat := (x.elems.filter (fun e => match e with | .ref _ _ _ 1 _ _ => true | _ => false)).length
/-- PIC_END's status and its CTU. -/
def SynRead.status (x : SynRead) : Nat × Nat := match x.elems with | .picEnd st c :: _ => (st, c) | _ => (1, x.ctus)

/-- A stream whole and in order: `cols` CTUs in each of `rows` rows. -/
def SynRead.whole (x : SynRead) (cols rows : Nat) : Bool :=
  !x.bad && x.ended && x.rows == rows && x.ctus == cols * rows

/-! ### The encoder's tools (R261, Table 11.2) -/

/-- Whether an element is one that the encoder writes, in a picture of type `kind` (0 I, 1 P, 2 B). -/
def encoderElement (kind : Nat) : Element → Bool
  | .ref l i long sub _ _ => long == 0 && sub == 0 && (match kind with | 1 => l == 0 && decide (i < 2) | 2 => i == 0 | _ => false)
  | .slice _ _ t d nd _ _ _ _ => t == 2 - kind && d == 0 && nd == 0
  | .side .. => false
  | .cu _ _ _ m p b _ => decide (m < 3) && decide (p < 4) && b == 0
  | .picEnd st c => st == 0 && c == 0xFFFF
  | _ => true

/-- The first CTUs of the slices: one slice, or one every `per` CTU rows. -/
def sliceStarts (cols rows per : Nat) : List Nat :=
  if per = 0 then [0] else (List.range ((rows + per - 1) / per)).map (fun i => i * per * cols)

def SynRead.slices (x : SynRead) : List Nat :=
  x.elems.reverse.filterMap (fun e => match e with | .slice a .. => some a | _ => none)

/-- The stream of an encoded picture: the elements of Table 11.2, the PARAM it fixes and the slices of SLICE_ROWS. -/
def SynRead.encoded (x : SynRead) (kind chroma depth w h sliceRows : Nat) (sao : Bool) : Bool :=
  let cols := (w + 63) / 64
  let rows := (h + 63) / 64
  x.whole cols rows && x.elems.all (encoderElement kind) && x.slices == sliceStarts cols rows sliceRows &&
  (match x.param with
    | some (.param c y d 2 0 0 3 so 0 _ 1 1 0 0 0) => c == chroma && y + 8 == depth && d + 8 == depth && (so == 1) == sao
    | _ => false) &&
  (kind == 0 || x.elems.any (fun e => match e with | .ref .. => true | _ => false)) &&
  x.width == (w + 7) / 8 * 8 && x.height == (h + 7) / 8 * 8

/-- CTU elements from CTU `k` on carry FLOOR (R285); the words between are raw or of other elements. -/
def markFloor (k : Nat) : Nat → Nat → List (BitVec 64) → List (BitVec 64)
  | _, _, [] => []
  | raw + 1, i, w :: r => w :: markFloor k raw i r
  | 0, i, w :: r =>
    match elementOf w.toNat with
    | some (.ctu c _ e) => BitVec.ofNat 64 (Element.ctu c (if k ≤ i then 1 else 0) e).word :: markFloor k 0 (i + 1) r
    | some e => w :: markFloor k e.raw i r
    | none => w :: markFloor k 0 i r

/-! ### The order of work on CTUs (R264) -/

/-- How far the engines of a picture are: pixel CTUs complete in each row, and CTUs that the entropy engine has completed, which it
takes in raster order. -/
structure CtuWork where
  pix : List Nat := []
  ent : Nat := 0
deriving DecidableEq, Repr, Inhabited

/-- CTU (c, r) may start: CTU (c + 2, r − 1) or the whole row above is complete; in encoding a row starts when the entropy engine has
completed row r − 3, in decoding a CTU when the entropy engine has written it. -/
def CtuWork.pixelMay (x : CtuWork) (encode : Bool) (cols c r : Nat) : Bool :=
  (r == 0 || decide (min (c + 3) cols ≤ x.pix.getD (r - 1) 0)) &&
  (if encode then decide (cols * (r - 2) ≤ x.ent) else decide (r * cols + c < x.ent))

/-- One completed CTU of a pixel engine, or of the entropy engine: none where R264 or R267 does not let it happen then. -/
def CtuWork.take (x : CtuWork) (encode : Bool) (cols rows : Nat) : CtuStep → Option CtuWork
  | .pixel r =>
    let c := x.pix.getD r 0
    if r < rows ∧ c < cols ∧ x.pixelMay encode cols c r = true then some { x with pix := x.pix.set r (c + 1) } else none
  | .entropy =>
    if x.ent < cols * rows ∧ (encode = false ∨ x.ent % cols < x.pix.getD (x.ent / cols) 0) then some { x with ent := x.ent + 1 } else none

/-- The work after a list of completed CTUs. -/
def CtuWork.run (encode : Bool) (cols rows : Nat) : CtuWork → List CtuStep → Option CtuWork
  | x, [] => some x
  | x, e :: r => (x.take encode cols rows e).bind (fun y => CtuWork.run encode cols rows y r)

/-- The engines can complete `n` CTUs of a picture in this order. -/
def ctuOrderOk (encode : Bool) (cols rows n : Nat) (l : List CtuStep) : Bool :=
  match CtuWork.run encode cols rows ⟨List.replicate rows 0, 0⟩ l with
  | none => false
  | some x => decide (n ≤ x.ent) && x.pix.foldl (· + ·) 0 == x.ent

end Sys2Proof.Machine
end

