-- ==== Sys2Proof/Machine/Codec.lean ====
section
/-! DEFINITION. The video codec (chapter 11): stream contexts (R268 to R273), the encoder's input, rate control and
access units (R274 to R286), the decoder's output, errors and reports (R287 to R292). -/

namespace Sys2Proof.Machine

/-! ### Contexts -/

def vceInit : VceCtx :=
  ⟨[], [], [], 0, 0, 0, 0, 0, false, false, false, false, false, none, none, [none, none, none], [], 0, none, -1,
    false, false, true, false, [], none⟩

def State.vceC (s : State) (n : Nat) : VceCtx := sget vceInit s.vce n
def State.setVce (s : State) (n : Nat) (x : VceCtx) : State := { s with vce := sset vceInit s.vce n x }
def State.vceState (s : State) (n : Nat) : Nat := s.get (F.VCE_CTX_CTRL.STATE n)
def State.setVceState (s : State) (n v : Nat) : State := s.put (F.VCE_CTX_CTRL.STATE n) v
def srcVce (n : Nat) : Nat := 0x0B00 + n

/-- Field of `k` bytes at offset `o` of the descriptor (Table 11.4). -/
def VceCtx.d (x : VceCtx) (o k : Nat) : Nat := field x.desc o k
def VceCtx.decodes (x : VceCtx) : Bool := x.d 0 1 == 1
def VceCtx.prio (x : VceCtx) : Nat := x.d 4 1
/-- B pictures between anchors. -/
def gopB (g : Nat) : Nat := if g % 4 = 2 then bits g 4 2 + 1 else 0

/-- An access of context `n` through `unit`: encode contexts are steep client 21, decode contexts 22; a PRIO 0
context's accesses are pinned (R269, Table 15.1). -/
def VceCtx.req (x : VceCtx) (n unit : Nat) (pinned : Bool) : Req :=
  ⟨srcVce n, unit, if x.decodes then 22 else 21, pinned || x.prio == 0, none⟩

/-! ### Open checks (R268, Table 11.5) -/

/-- The reserved bytes of the descriptor and its CRC. -/
def descClean (d : List Byte) : Bool :=
  field d 0xFC 4 == crc32c (d.take 0xFC) &&
  [(0x34, 4), (0x4C, 4), (0x5D, 3), (0x69, 7), (0x79, 7), (0x8E, 110)].all (fun (o, n) => field d o n == 0) &&
  field d 0x14 1 < 8 && field d 0x17 1 < 64 && field d 0x23 1 < 16

def descProfileOk (d : List Byte) : Bool :=
  let f := field d
  let p := f 1 1
  decide (f 0 1 ≤ 1) && (p == 1 || p == 2 || p == 4) && decide (f 2 1 ≤ 186 ∧ f 3 1 ≤ 1 ∧ f 4 1 ≤ 2) &&
  (if f 0 1 = 0 then
    (f 5 1 == 1 || f 5 1 == 2 && p == 4) && (f 6 1 == 8 || f 6 1 == 10 && p != 1) &&
    decide (64 ≤ f 8 2 ∧ f 8 2 ≤ 8192 ∧ 64 ≤ f 0xA 2 ∧ f 0xA 2 ≤ 4352) && f 8 2 % 2 == 0 && f 0xA 2 % 2 == 0
  else decide (1 ≤ f 8 2 ∧ f 8 2 ≤ 8192 ∧ 1 ≤ f 0xA 2 ∧ f 0xA 2 ≤ 4352))

/-- The size of the cropped and rotated image (R276 step 4). -/
def rotated (orient w h : Nat) : Nat × Nat := if orient % 2 = 1 then (h, w) else (w, h)

/-- The scaling ratios of R276. -/
def ratioOk (rw rh w h : Nat) : Bool := decide (w ≤ rw ∧ rw ≤ 8 * w ∧ h ≤ rh ∧ rh ≤ 8 * h)

/-- Every phase of a scaler filter sums to 16,384. -/
def filtSums (tab : List Byte) (v : Nat) : Bool :=
  (List.range 64).all (fun p => (List.range 8).foldl (fun a k => a + filt tab v p k) (0 : Int) == 16384)

/-- The filter table serves an image of rw × rh. -/
def filtOk (d tab : List Byte) (rw rh : Nat) : Bool :=
  let sx := rw != field d 8 2
  let sy := rh != field d 0xA 2
  !(sx || sy) || field d 0x38 8 != 0 && field d 0x38 8 % 64 == 0 && (!sx || filtSums tab 0) && (!sy || filtSums tab 1)

/-- The crop, ratio and filter checks; a whole-frame crop is checked when a frame is taken (log 13). -/
def descCropOk (d tab : List Byte) : Bool :=
  let f := field d
  let (x, y, w, h) := (f 0xC 2, f 0xE 2, f 0x10 2, f 0x12 2)
  x % 2 == 0 && y % 2 == 0 && w % 2 == 0 && h % 2 == 0 && decide (f 0x15 1 ≤ 1) &&
  (w == 0 ||
    let (rw, rh) := rotated (f 0x14 1) w h
    decide (x + w ≤ 16384 ∧ y + h ≤ 12288) && ratioOk rw rh (f 8 2) (f 0xA 2) && filtOk d tab rw rh)

def descRateOk (d : List Byte) : Bool :=
  let f := field d
  (List.range 5).all (fun i => decide (f (0x1C + i) 1 ≤ 51)) && decide (1 ≤ f 0x21 1 ∧ f 0x21 1 ≤ 6) &&
  decide (f 0x17 1 % 4 ≤ 2) && decide (gopB (f 0x17 1) ≤ 3) && decide (f 0x1A 1 ≤ 1 ∧ f 0x1B 1 ≤ 1 ∧ f 7 1 ≤ 3) &&
  decide (1 ≤ f 0x16 1 ∧ f 0x16 1 ≤ 4 ∧ gopB (f 0x17 1) + 1 ≤ f 0x16 1) && decide (4096 ≤ f 0x24 4 ∧ f 0x24 4 ≤ 16777215)

/-- 2F of R268 for a descriptor. -/
def twoF (d : List Byte) : Nat :=
  if field d 0 1 = 0 then (if field d 5 1 = 2 then 4 else 3) else if field d 1 1 = 4 then 4 else 3

def descRingsOk (d : List Byte) : Bool :=
  let f := field d
  let enc := f 0 1 == 0
  let up (n : Nat) := (n + 63) / 64 * 64
  f 0x60 8 % 64 == 0 && decide (4 ≤ f 0x68 1 ∧ f 0x68 1 ≤ 12) &&
  f 0x50 8 % 65536 == 0 && f 0x58 4 % 65536 == 0 && decide ((if enc then 4 else 2) ≤ f 0x5C 1 ∧ f 0x5C 1 ≤ 32) &&
  decide ((twoF d + 1) * up (f 8 2) * up (f 0xA 2) ≤ f 0x58 4 / f 0x5C 1 / 65536 * 65536) &&
  (if enc then f 0x40 8 % 4096 == 0 && f 0x48 4 % 4096 == 0 && decide (2 * f 0x24 4 ≤ f 0x48 4)
   else f 0x70 8 % 32 == 0 && decide (1 ≤ f 0x78 1 ∧ f 0x78 1 ≤ 12) && f 0x80 8 % 65536 == 0 && f 0x88 4 % 65536 == 0 &&
    decide (2 ≤ f 0x8C 1 ∧ f 0x8C 1 ≤ 16 ∧ f 0x8D 1 ≤ 1))

/-- A pinned access to the page of `va` through `unit` would succeed. -/
def State.pagePinned (s : State) (r : Req) (va : Nat) : Bool :=
  match (s.translate { r with pinned := true } va true).1 with
  | .ok _ => true
  | .error _ => false

def State.vceSave (s : State) (n : Nat) : Nat := s.addr (R.VCE_CTX_SAVE_LO n) (R.VCE_CTX_SAVE_HI n)

/-- The code of the first open check that fails, 0 when none does, with the descriptor that was read. -/
def State.openCheck (s : State) (n : Nat) : Nat × List Byte × State :=
  let r : Req := { vceInit.req n 22 false with pinned := false }
  match s.engRead r (s.addr (R.VCE_CTX_DESC_LO n) (R.VCE_CTX_DESC_HI n)) 256 with
  | (.error _, s) => (1, [], s)
  | (.ok d, s) =>
    let save := s.vceSave n
    let (tab, s) := if field d 0 1 = 0 ∧ field d 0x38 8 ≠ 0 then
        (match s.engRead r (field d 0x38 8) 4096 with
          | (.ok t, s) => (t, s)
          | (.error _, s) => (([] : List Byte), s))
      else ([], s)
    let enc := field d 0 1 == 0
    (if !descClean d then 1 else if !descProfileOk d then 2
      else if !([save, save + 65536].all (s.pagePinned r)) then 3
      else if enc && !descCropOk d tab then 4
      else if enc && !descRateOk d then 5
      else if !descRingsOk d then 6 else 0, d, s)

/-! ### Readiness (R271, R281) -/

/-- Codes of the ring from WPTR: where the next access unit starts, when CAP bytes are free from there (R281). -/
def State.auStart (s : State) (n : Nat) (x : VceCtx) : Option Nat :=
  let size := x.d 0x48 4
  let cap := x.d 0x24 4
  let w := s.get (F.VCE_CTX_BS_WPTR.OFFSET n)
  let r := s.get (F.VCE_CTX_BS_RPTR.OFFSET n) % max size 1
  let up := (w + 63) / 64 * 64
  let start := if up + cap ≤ size then up else 0
  let used := (w + size - r) % max size 1
  let skip := if w ≤ start then start - w else size - w + start
  if skip + cap + used < size then some start else none

/-- An IRAP is due (R270, IRAP_PERIOD). -/
def VceCtx.irapDue (x : VceCtx) : Bool :=
  x.taken == 0 || x.force || x.d 0x18 2 != 0 && decide (x.d 0x18 2 ≤ x.sinceIrap)

/-- The accepted record that is coded next, and the B pictures of its group that follow it: an anchor is coded
before the B pictures that precede it in display order. -/
def VceCtx.nextPick (x : VceCtx) : Option (Nat × Nat × Nat) :=
  let b := gopB (x.d 0x17 1)
  if x.cands.isEmpty then none
  else if x.irapDue then some (0, 0, x.bLeft - 1)
  else if 0 < x.bLeft then some (0, 2, x.bLeft - 1)
  else if b = 0 then some (0, if x.d 0x17 1 % 4 = 0 then 0 else 1, 0)
  else if b < x.cands.length then some (b, 1, b)
  else none

/-- A context with work becomes ready, or waits for ring space (R281). -/
def State.vceRefresh (s : State) (n : Nat) : State :=
  let x := s.vceC n
  let st := s.vceState n
  if (st ≠ 1 ∧ st ≠ 6) ∨ x.pic.isSome ∨ x.decodes ∨ x.closing ∨ x.bumps ≠ 0 then s
  else if x.nextPick.isNone then (s.setVceState n 1).setVce n { x with ready := none }
  else match s.auStart n x with
    | none => (s.setVceState n 6).setVce n { x with ready := none }
    | some _ =>
      if x.ready.isSome then s.setVceState n 1
      else ({ s with vceOrder := s.vceOrder + 1 }.setVceState n 1).setVce n { x with ready := some s.vceOrder }

/-- Entropy engine `e` serves decoding (R263). -/
def State.entDecodes (s : State) (e : Nat) : Bool :=
  match s.get F.VCE_CFG.ENT_MODE with
  | 1 => false
  | 2 => true
  | _ => e == 1

def State.entBusy (s : State) (e : Nat) : Bool := s.vce.any (fun c => (c.2.pic.bind (·.ent)) == some e)
def State.pixBusy (s : State) (e : Nat) : Bool := s.vce.any (fun c => match c.2.pic with | some r => r.pix.testBit e | none => false)

def State.freeEnt (s : State) (dec : Bool) : Option Nat :=
  (List.range 2).find? (fun e => s.entDecodes e == dec && !s.entBusy e)

/-- Pixel engine `e` serves decoding: the first ENC_PIX encode. -/
def State.pixDecodes (s : State) (e : Nat) : Bool := decide (min (s.get F.VCE_CFG.ENC_PIX) 6 ≤ e)

/-- The free pixel engines of a direction among `want`, as a mask. -/
def State.freePix (s : State) (dec : Bool) (want : Nat) : Nat :=
  (List.range 6).foldl (fun m e => if want.testBit e && s.pixDecodes e == dec && !s.pixBusy e then m + 2 ^ e else m) 0

def lowestBit (m : Nat) : Nat := ((List.range 6).find? (fun e => m.testBit e)).getD 0
def CodecRun.entUnit (r : CodecRun) : Nat := 22 + r.ent.getD 0
def CodecRun.pixUnit (r : CodecRun) : Nat := 24 + lowestBit r.pix

/-! ### Reports (R292, Table 11.8) -/

def flagIf (b : Bool) (k : Nat) : Nat := if b then 2 ^ k else 0

/-- What a report says besides the context's own fields. -/
structure ReportOf where
  tag : Nat
  addr : Nat := 0
  len : Nat := 0
  poc : Int := 0
  num : Nat := 0
  w : Nat := 0
  h : Nat := 0
  cap : Nat := 0
  floorCtu : Nat := 0xFFFF
  errCtu : Nat := 0xFFFF
  flags : Nat := 0
  kind : Nat := 0
  qpFirst : Nat := 0
  qpLast : Nat := 0
  rises : Nat := 0
  slot : Nat := 0
  take : Nat := 0

def ReportOf.bytes (r : ReportOf) (n done : Nat) : List Byte :=
  withCrc (leBytes 8 r.tag ++ leBytes 8 r.addr ++ leBytes 4 r.len ++ leBytes 4 (twos r.poc 32) ++ leBytes 4 r.num ++
    leBytes 2 r.w ++ leBytes 2 r.h ++ leBytes 4 r.cap ++ leBytes 2 r.floorCtu ++ leBytes 2 r.errCtu ++ leBytes 2 r.flags ++
    leBytes 1 r.kind ++ leBytes 1 r.qpFirst ++ leBytes 1 r.qpLast ++ leBytes 1 r.rises ++ leBytes 1 n ++ leBytes 1 r.slot ++
    leBytes 4 r.take ++ leBytes 4 done ++ zeros 4)

/-- A report is written to the report ring; answers whether it is in memory. -/
def State.vceReport (s : State) (n : Nat) (unit : Nat) (r : ReportOf) : Bool × State :=
  let x := s.vceC n
  let s := s.when (r.flags.testBit 1) (·.bump (F.VCE_CTX_STAT1.DROPS n))
  match s.ringRecord { x.req n unit true with lost := some r.tag } (x.d 0x60 8) 64 (2 ^ x.d 0x68 1) (F.VCE_CTX_REP.WIDX n)
      (r.bytes n (s.now.toNat % 2 ^ 32)) with
  | (true, s) => (true, ((s.bump (F.VCE_CTX_STAT1.PICTURES n)).irq 4).feed 2 n ⟨r.tag, r.addr, r.len, 0, 0, 0, 0, r.flags.testBit 1, false, none⟩)
  | (false, s) => (false, s)

/-- The flags a picture carries from its run. -/
def CodecRun.flagWord (r : CodecRun) : Nat := flagIf r.forced 10 + flagIf r.preempted 12 + flagIf r.faulted 13

/-- A unit of the codec suspends (R272, R368). A fault of a picture that is chosen for pre-emption is not reported: its engines abandon
the work after their last restart points, and stop there (R372). -/
def State.vceSuspend (s : State) (n unit va : Nat) (write : Bool) (kind : Nat) : State :=
  let x := s.vceC n
  if (x.pic.map (·.chosen)).getD false then s.setVce n { x with pic := x.pic.map (fun r => { r with stopped := true }) } else
    ((s.setVceState n 4).setVce n { x with pic := x.pic.map (fun r => { r with faulted := true }) }).unitFault
      (srcVce n) unit va write kind

/-! ### The chain of class 6 sachets (R266, R267) -/

/-- Sachets of the syntax buffer of context `n`: its channel of class 6. -/
def State.chainOf (s : State) (n : Nat) : List Nat := (s.caddy.held.filter (fun e => e.2 == some (6, n))).map (·.1)

/-- The producer asks for one sachet after another until it holds `need`, or one request waits. -/
def State.chainGrow (s : State) (n need : Nat) : Nat → State
  | 0 => s
  | fuel + 1 =>
    if need ≤ (s.chainOf n).length ∨ s.caddy.waits.contains (6, n) = true then s else (s.sachetRequest 6 n).chainGrow n need fuel

/-- The chain returns to the pool: PIC_END has been consumed, or the context closes. -/
def State.chainFree (s : State) (n : Nat) : State :=
  let s := if s.caddy.waits.contains (6, n) then s.unwait (6, n) else s
  (s.chainOf n).foldl State.sachetRelease s

/-- Sachets that hold a stream: 512 words each. -/
def chainNeed (words : List (BitVec 64)) : Nat := (words.length + 511) / 512

/-! ### Closing (R273) -/

/-- Free values over memory whose layout the spec leaves to the device (save areas, reference pools; log 14). -/
def State.scramble (s : State) (r : Req) (a n : Nat) : Except AccErr Unit × State :=
  let (b, s) := s.takeFreeBytes n
  s.engWrite r a b

/-- The bytes of a picture in an output slot, and its pitch (R288). -/
def outBytes (fmt : Nat) (p : Planes) : List Byte × Nat :=
  let row (k pitch : Nat) (l : List Nat) : List Byte := padTo pitch (l.flatMap (leBytes k))
  let mid := 2 ^ (p.depthC - 1)
  if fmt = 1 then
    let pitch := (6 * p.w + 63) / 64 * 64
    let chromaAt (c : List (List Nat)) (x y : Nat) : Nat :=
      match p.chroma with
      | 0 => mid
      | 1 => (c.getD (y / 2) []).getD (x / 2) 0
      | 2 => (c.getD y []).getD (x / 2) 0
      | _ => (c.getD y []).getD x 0
    ((List.range p.h).flatMap (fun y => row 2 pitch ((List.range p.w).flatMap (fun x =>
      [(p.y.getD y []).getD x 0, chromaAt p.cb x y, chromaAt p.cr x y]))), pitch)
  else
    let k := if max p.depth (if p.chroma = 0 then 0 else p.depthC) = 8 then 1 else 2
    let pitch := (p.w * k + 63) / 64 * 64
    let chroma := if p.chroma = 0 then [] else
      (p.cb.zip p.cr).flatMap (fun (a, b) => row k pitch ((a.zip b).flatMap (fun (u, v) => [u, v])))
    (p.y.flatMap (row k pitch) ++ chroma, pitch)

/-- Horizontal and vertical luma samples of a chroma sample. -/
def chromaStep (p : Planes) : Nat × Nat := (if p.chroma = 1 ∨ p.chroma = 2 then 2 else 1, if p.chroma = 1 then 2 else 1)

/-- A picture within its conformance window: left, right, top and bottom in chroma units (R288). -/
def cropTo (win : List Nat) (p : Planes) : Planes :=
  let (sx, sy) := chromaStep p
  let (l, r, t, b) := (win.getD 0 0, win.getD 1 0, win.getD 2 0, win.getD 3 0)
  let cut (u v w h : Nat) (m : List (List Nat)) : List (List Nat) := ((m.drop v).take h).map (fun row => (row.drop u).take w)
  let (w, h) := (p.w - sx * (l + r), p.h - sy * (t + b))
  { p with w := w, h := h, y := cut (sx * l) (sy * t) w h p.y, cb := cut l t (w / sx) (h / sy) p.cb, cr := cut l t (w / sx) (h / sy) p.cr }

/-- The decoded picture of lowest PicOrderCntVal: the next one output (C.5.2). -/
def lowestPoc : List DecodedPic → Option DecodedPic
  | [] => none
  | p :: r => match lowestPoc r with
    | none => some p
    | some q => if p.poc ≤ q.poc then some p else some q

/-- A report of a decoded picture. -/
def DecodedPic.report (d : DecodedPic) (addr pitch slot extra : Nat) : ReportOf :=
  let p : Planes := cropTo d.window d.pic
  { tag := d.tag, addr := addr, len := pitch, poc := d.poc, num := d.num, w := p.w, h := p.h, errCtu := d.errCtu
    flags := d.flags + extra, kind := d.kind + (if d.irap then 4 else 0), slot := slot, take := d.take }

/-- The units that serve a context in output: those of its picture, or the first of its direction. -/
def VceCtx.outUnit (x : VceCtx) : Nat := match x.pic with | some r => r.pixUnit | none => 29
def VceCtx.repUnit (x : VceCtx) : Nat := match x.pic with | some r => r.entUnit | none => 23

/-- Decoded pictures due are output in order while slots are free (R288). -/
def State.vceDrain (s : State) (n : Nat) : Nat → State
  | 0 => s
  | fuel + 1 =>
    let x := s.vceC n
    if x.bumps = 0 then s else
    match lowestPoc x.dpb with
    | none => s.setVce n { x with bumps := 0 }
    | some d =>
      let cnt := max (x.d 0x8C 1) 1
      let slot := s.get (F.VCE_CTX_OUT.WIDX n) % cnt
      let next := (slot + 1) % cnt
      if next = s.get (F.VCE_CTX_OUT.RIDX n) % cnt then s.setVceState n 6 else
        let (bytes, pitch) := outBytes (x.d 0x8D 1) (cropTo d.window d.pic)
        let a := x.d 0x80 8 + slot * x.d 0x88 4
        let rest := { x with dpb := x.dpb.filter (· != d), bumps := x.bumps - 1 }
        match s.engWrite (x.req n x.outUnit false) a bytes with
        | (.ok _, s) =>
          let s := (s.put (F.VCE_CTX_OUT.WIDX n) next).setVce n rest
          (s.vceReport n x.repUnit (d.report a pitch slot 1)).2.vceDrain n fuel
        | (.error (.fault va w k), s) => s.vceSuspend n x.outUnit va w k
        | (.error _, s) =>
          let s := (s.setVce n rest).post (srcVce n) 4 2 4 d.tag
          (s.vceReport n x.repUnit (d.report 0 0 0 (2 + 128))).2.vceDrain n fuel

/-- Pictures discarded without output, each with its report (R273). -/
def State.vceDiscard (s : State) (n : Nat) : List DecodedPic → State
  | [] => s
  | d :: r => (s.vceReport n (s.vceC n).repUnit (d.report 0 0 0 128)).2.vceDiscard n r

/-- The context reaches Closed: held slots and sachets are released. -/
def State.vceClosed (s : State) (n : Nat) : State := ((s.chainFree n).setVce n vceInit).setVceState n 0

/-- At a picture boundary a closing context outputs or discards what it has and closes; another returns to Idle. -/
def State.vceBoundary (s : State) (n : Nat) : State :=
  let x := s.vceC n
  if !x.closing then
    if s.vceState n = 4 ∨ x.bumps ≠ 0 then s else
      ((s.setVce n { x with pic := none }).setVceState n 1).vceRefresh n
  else if x.bumps ≠ 0 ∧ (s.vceState n = 4 ∨ s.vceState n = 6) then s
  else if x.flush && !x.dpb.isEmpty then
    let s := (s.setVce n { x with bumps := x.dpb.length }).vceDrain n (x.dpb.length + 1)
    if (s.vceC n).bumps = 0 then s.vceClosed n else s
  else (s.vceDiscard n x.dpb).vceClosed n

/-! ### The input stage (R275 to R278) -/

/-- Codes of an output slot's frame as full-resolution components (R276 step 1): `lines` are its lines of codes in
the sample order of Table 10.1. -/
def expandChroma (fmt w h : Nat) (lines : List (List Nat)) (c x y : Nat) : Nat :=
  match fmt with
  | 1 => (lines.getD y []).getD (3 * x + c) 0
  | 2 => (lines.getD y []).getD (4 * (x / 2) + (match c with | 0 => 1 + 2 * (x % 2) | 1 => 0 | _ => 2)) 0
  | 3 => if c = 0 then (lines.getD y []).getD x 0 else (lines.getD (h + y / 2) []).getD (2 * (min x (w - 1) / 2) + (c - 1)) 0
  | _ => (lines.getD y []).getD x 0

/-- Unpack codes of `n` bits, low bit first. -/
def unpackCodes (n count : Nat) (b : List Byte) : List Nat :=
  let v := leNat b
  (List.range count).map (fun i => bits v (i * n) n)

/-- Source position of an output position after mirror and rotation (R276 steps 3 and 4), in a crop of w × h. -/
def unrotate (orient w h x y : Nat) : Nat × Nat :=
  let (u, v) := match orient % 4 with
    | 0 => (x, y)
    | 1 => (y, h - 1 - x)
    | 2 => (w - 1 - x, h - 1 - y)
    | _ => (w - 1 - y, x)
  if orient.testBit 2 then (w - 1 - u, v) else (u, v)

/-- The scaler of R277: taps and the factor of one axis at output position `p`. -/
def scaleTaps (tab : List Byte) (v size out p : Nat) : List (Nat × Int) :=
  if size = out then [(p, 1)] else
    let step : Int := ((size * 65536 / out : Nat) : Int)
    let sx : Int := (step - 65536) / 2 + p * step
    let i := sx / 65536
    let ph := ((sx / 1024) % 64).toNat
    (List.range 8).map (fun (k : Nat) => ((min (max (i - 3 + (k : Int)) 0) ((size : Int) - 1)).toNat, filt tab v ph k))

def scaleAt (at_ : Nat → Nat → Nat) (tab : List Byte) (nin rw rh w h x y : Nat) : Nat :=
  let hx := scaleTaps tab 0 rw w x
  let vy := scaleTaps tab 1 rh h y
  let sum : Int := vy.foldl (fun a (v : Nat × Int) => hx.foldl (fun a (u : Nat × Int) => a + v.2 * u.2 * (at_ u.1 v.1 : Int)) a) 0
  let den : Nat := (if rw = w then 1 else 16384) * (if rh = h then 1 else 16384)
  (min (max (roundEven ((sum : Rat) / (den : Rat))) 0) (2 ^ nin - 1)).toNat

/-- The depth conversion of R278. -/
def toDepth (nin depth : Nat) (q : Rat) : Nat :=
  if nin ≤ depth then (roundEven q).toNat * 2 ^ (depth - nin)
  else (min (roundEven (q / ((2 ^ (nin - depth) : Nat) : Rat))) (2 ^ depth - 1)).toNat

/-- The picture the input stage hands to the pixel engines (R276 to R278). -/
def inputStage (d tab : List Byte) (k : OpkSlot) (lines : List (List Nat)) : Planes :=
  let f := field d
  let whole := f 0x10 2 == 0
  let (cx, cy, cw, ch) := if whole then (0, 0, k.w, k.h) else (f 0xC 2, f 0xE 2, f 0x10 2, f 0x12 2)
  let o := f 0x14 1
  let (rw, rh) := rotated o cw ch
  let (w, h) := (f 8 2, f 0xA 2)
  let src (c x y : Nat) : Nat :=
    let (u, v) := unrotate o cw ch x y
    expandChroma k.fmt k.w k.h lines c (cx + u) (cy + v)
  let img (c : Nat) : List (List Nat) :=
    (List.range h).map (fun y => (List.range w).map (fun x => scaleAt (src c) tab k.depth rw rh w h x y))
  let depth := f 6 1
  let up (n : Nat) := (n + 7) / 8 * 8
  let fill (l : List (List Nat)) (cols rows : Nat) : List (List Nat) :=
    (List.range rows).map (fun y => (List.range cols).map (fun x => (l.getD (min y (l.length - 1)) []).getD (min x ((l.headD []).length - 1)) 0))
  let vs := if f 5 1 = 1 then 2 else 1
  let reduce (l : List (List Nat)) : List (List Nat) :=
    (List.range (h / vs)).map (fun y => (List.range (w / 2)).map (fun x =>
      let at_ (dx dy : Nat) : Nat := (l.getD (vs * y + dy) []).getD (2 * x + dx) 0
      let g := (List.range vs).flatMap (fun dy => [at_ 0 dy, at_ 1 dy])
      if f 0x15 1 = 0 then at_ 0 0
      else (roundEven ((g.foldl (· + ·) 0 : Nat) / (g.length : Rat))).toNat))
  let conv (l : List (List Nat)) := l.map (·.map (fun (v : Nat) => toDepth k.depth depth (v : Rat)))
  { w := up w, h := up h, chroma := f 5 1, depth := depth, depthC := depth, y := fill (conv (img 0)) (up w) (up h)
    cb := fill (conv (reduce (img 1))) (up w / 2) (up h / vs), cr := fill (conv (reduce (img 2))) (up w / 2) (up h / vs) }

/-- A frame the encoder can code (R275); a whole-frame crop also meets R276's ratios (log 13). -/
def frameFits (d tab : List Byte) (k : OpkSlot) : Bool :=
  let f := field d
  let whole := f 0x10 2 == 0
  (k.fmt == 1 || k.fmt == 2 || k.fmt == 3) && k.flags.testBit 2 && decide (8 ≤ k.depth ∧ k.depth ≤ 16) &&
  (if whole then
    let (rw, rh) := rotated (f 0x14 1) k.w k.h
    ratioOk rw rh (f 8 2) (f 0xA 2) && filtOk d tab rw rh
  else decide (f 0xC 2 + f 0x10 2 ≤ k.w ∧ f 0xE 2 + f 0x12 2 ≤ k.h))

/-! ### Rate control (R282 to R285) -/

/-- The step δ of R282 from the last access unit's length `b` and the target `t`. -/
def qpStep (b t : Nat) : Int :=
  if 2 * t ≤ b then 2 else if 5 * t ≤ 4 * b then 1 else if 2 * b ≤ t then -2 else if 5 * b ≤ 4 * t then -1 else 0

/-- The base QP of a picture (R282). -/
def VceCtx.baseQp (x : VceCtx) (kind : Nat) : Nat :=
  let q0 := x.d (0x1C + kind) 1
  if x.d 0x1B 1 = 0 then q0 else
    match x.rates.getD kind none with
    | none => q0
    | some (q, b) =>
      let tt := match kind with | 0 => 4 * x.d 0x28 4 | 1 => x.d 0x28 4 | _ => x.d 0x28 4 / 2
      (min (max ((q : Int) + qpStep b tt) (x.d 0x1F 1)) (x.d 0x20 1)).toNat

/-- Row QPs (R283): the QP of the last row, the rows at which it rose, and whether the condition held. `used r` is
the bytes through the end of row r. -/
def rowQps (cap step maxQp rows : Nat) (used : Nat → Nat) : Nat → Nat × Nat × Bool → Nat × Nat × Bool
  | 0, acc => acc
  | k + 1, (qp, rises, raised) =>
    let r := rows - (k + 1)
    if r < 3 then rowQps cap step maxQp rows used k (qp, rises, raised) else
      let u := used (r - 3)
      if ((cap : Int) - u) * ((r - 2 : Nat) : Int) < (((rows - (r - 2)) * u : Nat) : Int) then
        let q := min (qp + step) maxQp
        rowQps cap step maxQp rows used k (max q qp, if qp < q then rises + 1 else rises, true)
      else rowQps cap step maxQp rows used k (qp, rises, raised)

/-- The first CTU coded at the floor (R284). -/
def floorCtu (cap total perCtu : Nat) : Nat → List Nat → Option Nat
  | _, [] => none
  | k, e :: r => if (cap : Int) - e < 32 + (perCtu * (total - 1 - k) : Nat) then some k else floorCtu cap total perCtu (k + 1) r

/-! ### Access units (R279, R280, Table 11.6) -/

/-- Emulation prevention within a NAL unit's payload. -/
def escapeNal : Nat → List Byte → List Byte
  | _, [] => []
  | z, b :: r =>
    if 2 ≤ z ∧ b.toNat ≤ 3 then 3 :: b :: escapeNal (if b = 0 then 1 else 0) r
    else b :: escapeNal (if b = 0 then z + 1 else 0) r

def tagUuid : List Byte := [0x4B, 0x59, 0x4F, 0x4E, 0x45, 0x4E, 0x2D, 0x58, 0x49, 0x55, 0x52, 0x41, 0x2D, 0x54, 0x41, 0x47]

/-- The SEI message of R280 as a NAL unit with its start code. -/
def seiNal (tag : Nat) : List Byte := [0, 0, 0, 1, 0x4E, 1] ++ escapeNal 0 ([5, 24] ++ tagUuid ++ leBytes 8 tag ++ [0x80])

/-- An access unit delimiter (pic_type by picture type). -/
def audNal (kind : Nat) : List Byte := [0, 0, 0, 1, 0x46, 1, BitVec.ofNat 8 (32 * kind + 16)]

/-- What precedes the slice segments. -/
def auHeader (x : VceCtx) (r : CodecRun) (params : List Byte) : List Byte :=
  (if (x.d 0x23 1).testBit 0 then audNal r.kind else []) ++ (if r.irap then params else []) ++
  (if (x.d 0x23 1).testBit 2 then seiNal r.tag else [])

/-- The VUI fields of Table 11.6. -/
def vuiOf (x : VceCtx) (k : OpkSlot) : List Nat :=
  [match k.space with | 1 => 1 | 2 => 9 | 3 => 12 | _ => 2, match k.space with | 1 => 1 | 2 => 9 | _ => 2,
   match k.transfer with | 1 => 1 | 2 => 1 | 3 => 13 | 4 => 16 | 5 => 18 | _ => 2, if k.flags.testBit 1 then 1 else 0,
   x.d 0x30 4, x.d 0x2C 4]

/-! ### Encoding -/

/-- An encode picture dropped (R286): its report carries DROPPED, the next is coded as an IRAP. -/
def State.encodeDrop (s : State) (n : Nat) : State :=
  let x := s.vceC n
  match x.pic with
  | none => s
  | some r =>
    let s := (s.chainFree n).post (srcVce n) 4 2 4 r.tag
    let s := (s.vceReport n r.entUnit
      { tag := r.tag, poc := r.poc, num := r.num, w := (x.d 8 2 + 7) / 8 * 8, h := (x.d 0xA 2 + 7) / 8 * 8, cap := x.d 0x24 4
        flags := 2 + r.flagWord, kind := r.kind + (if r.irap then 4 else 0), qpFirst := r.qp, qpLast := r.qp
        slot := (r.input.map (·.slot % 4)).getD 0, take := r.take }).2
    let x := s.vceC n
    (s.setVce n { x with pic := none, force := true }).setVceState n 1 |>.vceBoundary n

/-- The input picture's lines of codes. -/
def slotLines (k : OpkSlot) (b : List Byte) : List (List Nat) :=
  (chunks k.pitch b).map (unpackCodes k.depth (lineCodes k.fmt k.w))

def slotHeight (k : OpkSlot) : Nat := if k.fmt = 3 then k.h + k.h / 2 else k.h

/-- The end of an encode picture: its input is read, and its access unit and report are written (R279 to R286).
A fault suspends the unit, and what the engines produced is kept for the restart. CTUs at the floor carry FLOOR (R285). -/
def State.encodeDone (s : State) (n : Nat) (params : List Byte) (ends : List Nat) (slices : List Byte) : State :=
  let x := s.vceC n
  match x.pic with
  | none => s
  | some r =>
    match r.input, s.auStart n x with
    | some k, some start =>
      match s.engRead (x.req n r.pixUnit false) k.addr (k.pitch * slotHeight k) with
      | (.error (.fault va w kd), s) => s.vceSuspend n r.pixUnit va w kd
      | (.error _, s) => s.encodeDrop n
      | (.ok b, s) =>
        match s.engRead (x.req n r.pixUnit false) (x.d 0x38 8) (if x.d 0x38 8 = 0 then 0 else 4096) with
        | (.error (.fault va w kd), s) => s.vceSuspend n r.pixUnit va w kd
        | (.error _, s) => s.encodeDrop n
        | (.ok tab, s) =>
          let cap := x.d 0x24 4
          let head := auHeader x r params
          let ends := ends.map (· + head.length)
          let cols := (x.d 8 2 + 63) / 64
          let rows := (x.d 0xA 2 + 63) / 64
          let (qpLast, rises, raised) := rowQps cap (x.d 0x21 1) (x.d 0x20 1) rows (fun q => ends.getD ((q + 1) * cols - 1) 0) rows (r.qp, 0, false)
          let fl := floorCtu cap (rows * cols) (if r.kind = 0 then 2 else 1) 0 ends
          let au := (head ++ slices).take cap
          let s := s.setVce n { x with pic := some { r with words := markFloor (fl.getD (rows * cols)) 0 0 r.words } }
          let a := x.d 0x40 8 + start
          match s.engWrite (x.req n r.entUnit false) a au with
          | (.error (.fault va w kd), s) => s.vceSuspend n r.entUnit va w kd
          | (.error _, s) => s.encodeDrop n
          | (.ok _, s) =>
            let s := if r.kind = 2 then s else (s.scramble (x.req n r.pixUnit false) (x.d 0x50 8) (x.d 0x58 4)).2
            let s := s.when fl.isSome (·.bump (F.VCE_CTX_STAT2.FLOORS n))
            let (written, s) := s.vceReport n r.entUnit
              { tag := r.tag, addr := a, len := au.length, poc := r.poc, num := r.num, w := (x.d 8 2 + 7) / 8 * 8
                h := (x.d 0xA 2 + 7) / 8 * 8, cap := cap, floorCtu := fl.getD 0xFFFF
                flags := 1 + flagIf raised 8 + flagIf fl.isSome 9 + r.flagWord, kind := r.kind + (if r.irap then 4 else 0)
                qpFirst := r.qp, qpLast := qpLast, rises := rises, slot := k.slot % 4, take := r.take }
            let s := s.chainFree n
            let s := s.when written (·.put (F.VCE_CTX_BS_WPTR.OFFSET n) ((start + au.length) % max (x.d 0x48 4) 1))
            let x := { s.vceC n with
              pic := none
              rates := x.rates.set r.kind (some (r.qp, au.length))
              vui := if r.irap && (x.d 0x23 1).testBit 1 then vuiOf x k else x.vui
              source := some (inputStage x.desc tab k (slotLines k b)) }
            ((s.setVce n x).setVceState n 1).vceBoundary n
    | _, _ => s.encodeDrop n

/-! ### Decoding -/

/-- Samples from CTU `k` on are those of the substitute picture, or mid-grey without one (R289, R290). -/
def conceal (good : Option Planes) (ctb k : Nat) (p : Planes) : Planes :=
  let size := 2 ^ max ctb 4
  let cols := (p.w + size - 1) / size
  let sub (g : Planes → List (List Nat)) (depth x y : Nat) : Nat :=
    match good with
    | some q => ((g q).getD y []).getD x (2 ^ (depth - 1))
    | none => 2 ^ (depth - 1)
  let hs := if p.chroma = 1 ∨ p.chroma = 2 then 2 else 1
  let vs := if p.chroma = 1 then 2 else 1
  let plane (g : Planes → List (List Nat)) (depth hs vs : Nat) : List (List Nat) :=
    (g p).zipIdx.map (fun (row, y) => row.zipIdx.map (fun (v, x) =>
      if (y * vs / size) * cols + x * hs / size < k then v else sub g depth x y))
  { p with y := plane (·.y) p.depth 1 1, cb := plane (·.cb) p.depthC hs vs, cr := plane (·.cr) p.depthC hs vs }

/-- What a decode comes to: PicOrderCntVal, type, IRAP and RASL, the picture and its conformance window, substitutions of R289, PIC_END's
status and CTU, an unparsed slice header, log2 of the CTB size, a stream outside R260 (R291), the first picture of a coded video
sequence, and pictures that C.5.2 outputs. -/
structure Decoded where
  poc : Int
  kind : Nat
  irap : Bool
  rasl : Bool
  pic : Planes
  window : List Nat
  subs : Nat
  status : Nat
  at_ : Nat
  header : Bool
  ctb : Nat
  outside : Bool
  first : Bool
  bump : Nat

/-- Whether a stream lies outside Table 11.1, beyond what the descriptor accepts, or needs more reference buffers than REF_COUNT − 1
(R260, R262, R291). Main Still Picture decodes as Main. -/
def streamOutside (d : List Byte) (k : Sps) (p : Planes) : Bool :=
  let prof := if k.profile = 3 then 1 else k.profile
  k.extension || !(prof == 1 || prof == 2 || prof == 4) || decide (field d 1 1 < prof) ||
  !(if prof = 4 then decide (p.chroma ≤ 2) else p.chroma == 1) ||
  !(if prof = 1 then p.depth == 8 && p.depthC == 8 else decide (8 ≤ p.depth ∧ p.depth ≤ 10 ∧ 8 ≤ p.depthC ∧ p.depthC ≤ 10)) ||
  decide (field d 8 2 < p.w ∨ field d 0xA 2 < p.h ∨ field d 0x5C 1 - 1 < k.refs)

/-- The columns and rows of CTUs of a picture. -/
def ctuGrid (ctb w h : Nat) : Nat × Nat := ((w + 2 ^ ctb - 1) / 2 ^ ctb, (h + 2 ^ ctb - 1) / 2 ^ ctb)

/-- The stream that a reader found is that of picture `r` of context `n` with planes `p`. -/
def decodeAgrees (n : Nat) (r : CodecRun) (p : Planes) (x : SynRead) : Bool :=
  (match x.pic with | some (.pic c _ _ num _) => c == n && num == r.num % 65536 | _ => false) &&
  (match x.param with
    | some (.param c y d ..) => c == p.chroma && y + 8 == p.depth && d + 8 == p.depthC && x.width == p.w && x.height == p.h
    | _ => x.status.1 != 0) &&
  (x.bad || x.status.1 != 0 || (let (c, w) := ctuGrid x.ctb p.w p.h; x.whole c w))

/-- What a decode picture's stream and planes say (R266, R289, R290): a word that its reader does not know is a syntax error at the CTU
where it stands. -/
def decodedOf (d : List Byte) (x : SynRead) (k : Sps) (rasl : Bool) (p : Planes) (header first : Bool) (bump : Nat) : Decoded :=
  let (kind, irap, poc) : Nat × Bool × Int := match x.pic with
    | some (.pic _ t i _ v) => (t, i == 1, if v < 2 ^ 31 then (v : Int) else (v : Int) - 2 ^ 32)
    | _ => (1, false, 0)
  let (st, c) := if x.bad then (1, x.ctus) else x.status
  ⟨poc, kind, irap, rasl, p, x.window, x.substs, st, if c = 0xFFFF then 0 else c, header, x.ctb, streamOutside d k p || st == 3, first, bump⟩

/-- A decode context takes the state it leaves a picture with, shows what is due, and comes to its boundary (R288). -/
def State.decodeLeft (s : State) (n : Nat) (x : VceCtx) (fuel : Nat) : State :=
  (((s.setVce n x).setVceState n 1).vceDrain n fuel).vceBoundary n

/-- Pictures that the decoder must show: all of them at the end of a sequence (R288). -/
def bumpsDue (x : VceCtx) (r : CodecRun) (o : Decoded) (l : List DecodedPic) : Nat :=
  if r.flags.testBit 0 then l.length else min (x.bumps + o.bump) l.length

/-- A picture of an unsupported stream: reported and not shown (R260, R291). -/
def State.decodeUnsup (s : State) (n : Nat) (x : VceCtx) (r : CodecRun) (o : Decoded) : State :=
  let shown : Planes := cropTo o.window o.pic
  let s := if o.first || !x.unsup then s.post (srcVce n) 4 2 4 r.tag else s
  let s := (s.vceReport n r.entUnit
    { tag := r.tag, poc := o.poc, num := r.num, w := shown.w, h := shown.h, flags := 2 + 64 + 128 + r.flagWord
      kind := o.kind + (if o.irap then 4 else 0), take := r.take }).2
  s.decodeLeft n { s.vceC n with unsup := true, bumps := bumpsDue x r o x.dpb } (x.dpb.length + 1)

/-- A RASL picture whose references are absent: reported and not shown (R290). -/
def State.decodeRasl (s : State) (n : Nat) (x : VceCtx) (r : CodecRun) (o : Decoded) : State :=
  let shown : Planes := cropTo o.window o.pic
  let s := (s.vceReport n r.entUnit
    { tag := r.tag, poc := o.poc, num := r.num, w := shown.w, h := shown.h, flags := 128 + r.flagWord, kind := o.kind, take := r.take }).2
  s.decodeLeft n { s.vceC n with bumps := bumpsDue x r o x.dpb } (x.dpb.length + 1)

/-- A decoded picture enters the reference pool, concealed from where its words or its data failed (R289, R290). -/
def State.decodeShown (s : State) (n : Nat) (x : VceCtx) (r : CodecRun) (o : Decoded) (bad : Bool) : State :=
  let noRasl := if o.irap then x.tainted || x.discont else x.dropRasl
  let tainted := if o.irap then false else x.tainted
  let syn := (o.header || o.status == 1) && !bad
  let at_ : Option Nat := if o.header then some 0 else if bad then some (if o.status = 0 then 0 else o.at_) else if syn then some o.at_ else none
  let poc := if o.header then x.lastPoc + 1 else o.poc
  let p := match at_ with | some k => conceal x.good o.ctb k o.pic | none => o.pic
  let con := at_.isSome || decide (0 < o.subs) || tainted
  let s := s.andThen [
    (·.when (decide (0 < o.subs)) (fun s => (s.bumpBy (F.VCE_CTX_STAT2.MISSING_REFS n) o.subs).post (srcVce n) 3 0 0 0)),
    (·.when syn (·.post (srcVce n) 3 2 4 r.tag)), (·.when bad (·.post (srcVce n) 4 2 4 r.tag)),
    (·.when con (·.bump (F.VCE_CTX_STAT2.CONCEALED n)))]
  let d : DecodedPic := ⟨r.tag, r.num, r.take, o.kind, o.irap, poc,
    flagIf con 2 + flagIf (decide (0 < o.subs)) 3 + flagIf syn 4 + flagIf bad 5 + r.flagWord, at_.getD 0xFFFF, p, o.window⟩
  let dpb := x.dpb ++ [d]
  let s := (s.scramble (x.req n r.pixUnit false) (x.d 0x50 8) (x.d 0x58 4)).2
  s.decodeLeft n { s.vceC n with
    unsup := false, dpb := dpb, bumps := bumpsDue x r o dpb, lastPoc := poc, good := if con then x.good else some p
    tainted := tainted || at_.isSome, dropRasl := noRasl, discont := if o.irap then false else x.discont } (dpb.length + 1)

/-- The end of a decode picture (R287 to R291). -/
def State.decodeWith (s : State) (n : Nat) (o : Decoded) : State :=
  let x := s.vceC n
  match x.pic with
  | none => s
  | some r =>
    match s.engRead (x.req n r.entUnit false) r.addr r.len with
    | (.error (.fault va w kd), s) => s.vceSuspend n r.entUnit va w kd
    | (res, s) =>
      let s := s.chainFree n
      if o.outside || x.unsup && !o.irap then s.decodeUnsup n x r o
      else if o.rasl && (if o.irap then x.tainted || x.discont else x.dropRasl) then s.decodeRasl n x r o
      else s.decodeShown n x r o (r.badRead || o.status == 2 || (match res with | .ok _ => false | .error _ => true))

/-- A picture of one grey, for a context that has decoded none. -/
def greyPicture (w h : Nat) : Planes := ⟨w, h, 0, 8, 8, List.replicate h (List.replicate w 128), [], []⟩

/-- A decode picture whose work fails as its drop unit is concealed whole (Table 1.15, R369, R374). -/
def State.decodeFail (s : State) (n : Nat) : State :=
  let x := s.vceC n
  match x.pic with
  | none => s
  | some r =>
    let p : Planes := x.good.getD (greyPicture (x.d 8 2) (x.d 0xA 2))
    let s := s.setVce n { x with pic := some { r with badRead := true, len := 0, chosen := false } }
    match r.result with
    | some (.decoded k rasl p h f b words _) => s.decodeWith n (decodedOf x.desc (readSyntax words) k rasl p h f b)
    | _ => s.decodeWith n ⟨x.lastPoc + 1, 1, false, false, p, [], 0, 2, 0, true, 6, false, false, 1⟩

/-- The picture of a context fails as its drop unit. -/
def State.vceFail (s : State) (n : Nat) : State := if (s.vceC n).decodes then s.decodeFail n else s.encodeDrop n

/-- Whether an outcome is one that the engines of picture `r` can have: the stream is the picture's and, in encoding, of Table 11.2's
tools, and its CTUs were completed in an order of R264. -/
def outcomeOk (n : Nat) (d : List Byte) (r : CodecRun) : CodecOut → Bool
  | .coded _ ends _ words steps =>
    let x := readSyntax words
    let (w, h) := (field d 8 2, field d 0xA 2)
    let (c, k) := ctuGrid 6 w h
    field d 0 1 == 0 && ends.length == c * k && x.encoded r.kind (field d 5 1) (field d 6 1) w h (field d 0x22 1) ((field d 0x23 1).testBit 3) &&
    x.pic == some (.pic n r.kind (if r.irap then 1 else 0) (r.num % 65536) (r.poc % 2 ^ 32)) && ctuOrderOk true c k (c * k) steps
  | .decoded _ _ p _ _ _ words steps =>
    let x := readSyntax words
    let (c, k) := ctuGrid x.ctb p.w p.h
    field d 0 1 == 1 && decodeAgrees n r p x && ctuOrderOk false c k x.ctus steps

/-- The work of a picture whose syntax stream its chain holds. -/
def State.vceWork (s : State) (n : Nat) (o : CodecOut) : State :=
  match o with
  | .coded p e b _ _ => s.encodeDone n p e b
  | .decoded k rasl p h f b words _ => s.decodeWith n (decodedOf (s.vceC n).desc (readSyntax words) k rasl p h f b)

/-- The words of an outcome's stream. -/
def outWords : CodecOut → List (BitVec 64)
  | .coded _ _ _ w _ => w
  | .decoded _ _ _ _ _ _ w _ => w

/-- The engines of a picture end their work with what they produced. Its producer waits while class 6 has no sachet for its stream
(R267). -/
def State.vceFinish (s : State) (n : Nat) (o : CodecOut) : State :=
  let x := s.vceC n
  match x.pic with
  | none => s
  | some r =>
    if !outcomeOk n x.desc r o then s else
      let need := chainNeed (outWords o)
      let s := s.chainGrow n need need
      let full := decide (need ≤ (s.chainOf n).length)
      let s := s.setVce n { x with pic := some { r with result := some o, words := outWords o, short := !full } }
      if full then (s.setVceState n 2).vceWork n o else s.setVceState n 6

/-- The first context whose stream waits for a sachet that it now holds. -/
def State.chainReady (s : State) : Option (Nat × CodecOut) :=
  s.vce.findSome? (fun c => match c.2.pic with
    | some r => if r.short && !s.caddy.waits.contains (6, c.1) && s.vceState c.1 == 6 then r.result.map (fun o => (c.1, o)) else none
    | none => none)

/-- Pictures that waited for sachets go on. -/
def State.vceChains (s : State) : Nat → State
  | 0 => s
  | fuel + 1 => match s.chainReady with
    | none => s
    | some (n, o) => (s.vceFinish n o).vceChains fuel

/-! ### Resolution of a codec unit's fault (R369) -/

/-- The context whose picture a codec unit serves, or whose output it writes. -/
def State.vceOfUnit (s : State) (u : Nat) : Option Nat :=
  ((s.vce.find? (fun c => s.vceState c.1 == 4 && (match c.2.pic with
    | some r => r.entUnit == u || r.pixUnit == u
    | none => c.2.outUnit == u))).map (·.1))

/-- The suspended unit restarts from its restart point. -/
def State.vceRestart (s : State) (n : Nat) : State :=
  let x := s.vceC n
  let s := s.setVceState n 2
  match x.pic.bind (·.result) with
  | some o => if x.bumps ≠ 0 then (s.vceDrain n (x.dpb.length + 1)).vceBoundary n else s.vceFinish n o
  | none => if x.bumps ≠ 0 then (s.vceDrain n (x.dpb.length + 1)).vceBoundary n else s

/-- The suspended work fails with a translation error. -/
def State.vceFailFault (s : State) (n : Nat) : State :=
  let x := s.vceC n
  if x.bumps ≠ 0 then
    match lowestPoc x.dpb with
    | none => s
    | some d =>
      let s := ((s.setVce n { x with dpb := x.dpb.filter (· != d), bumps := x.bumps - 1 }).post (srcVce n) 4 2 4 d.tag).setVceState n 2
      (((s.vceReport n x.repUnit (d.report 0 0 0 (2 + 128))).2).vceDrain n (x.dpb.length + 1)).vceBoundary n
  else s.vceFail n

/-! ### Control writes -/

/-- OPEN of a Closed context (R268). -/
def State.vceOpen (s : State) (n : Nat) : State :=
  if s.vceState n ≠ 0 then s else
    match s.openCheck n with
    | (0, d, s) =>
      s.andThen [(·.setVce n { vceInit with desc := d }), (·.setVceState n 1), (·.put (F.VCE_CTX_CTRL.OPEN_ERR n) 0),
        (·.wreg (R.VCE_CTX_JOB n) 0), (·.wreg (R.VCE_CTX_BS_WPTR n) 0), (·.wreg (R.VCE_CTX_BS_RPTR n) 0),
        (·.wreg (R.VCE_CTX_REP n) 0), (·.wreg (R.VCE_CTX_OUT n) 0)]
    | (e, _, s) => (s.put (F.VCE_CTX_CTRL.OPEN_ERR n) e).post (srcVce n) 3 0 e 0

/-- The picture of a context whose work is still to come or waits for sachets: taken and not begun, or short of its stream's room. -/
def VceCtx.owes (x : VceCtx) : Bool := (x.pic.map (fun r => r.short || !r.started)).getD false

/-- CLOSE takes effect at the next picture boundary (R273); a suspended picture is aborted and its fault withdrawn
(R371). -/
def State.vceClose (s : State) (n : Nat) : State :=
  let st := s.vceState n
  if st = 0 then s else
    let x := s.vceC n
    let goes := decide (st = 2 ∨ st = 3) || x.owes
    let s := s.setVce n { x with closing := true, ready := if goes then x.ready else none }
    if goes then s
    else if st = 4 then
      let u := (x.pic.map (fun r => [r.entUnit, r.pixUnit])).getD [x.outUnit]
      ((u.foldl State.withdrawFault s).setVceState n 2).vceFailFault n
    else ((s.setVce n { s.vceC n with pic := none }).setVceState n 5).vceBoundary n

/-- The changes of a descriptor that make the next encoded picture an IRAP (R270). -/
def reshapes (a b : List Byte) : Bool :=
  [(1, 3), (5, 2), (8, 12), (0x14, 1), (0x17, 1)].any (fun (o, k) => field a o k != field b o k)

/-- Fields that a reload may not change (R270). -/
def rebinds (a b : List Byte) : Bool :=
  [(0, 1), (7, 1), (0x40, 8), (0x50, 8), (0x60, 8), (0x70, 8), (0x80, 8)].any (fun (o, k) => field a o k != field b o k)

/-- Before the next picture, a context asked to reload reads and checks its descriptor again (R270). -/
def State.vceReloadNow (s : State) (n : Nat) : State :=
  let x := s.vceC n
  if !x.reload then s else
    let s := s.setVce n { x with reload := false }
    match s.openCheck n with
    | (e, d, s) =>
      let x := s.vceC n
      let e := if e ≠ 0 then e else if rebinds x.desc d then 2 else 0
      if e ≠ 0 then (s.put (F.VCE_CTX_CTRL.OPEN_ERR n) e).post (srcVce n) 3 0 e 0
      else (s.setVce n { x with desc := d, force := x.force || !x.decodes && reshapes x.desc d }).put (F.VCE_CTX_CTRL.OPEN_ERR n) 0

/-- The effect of a write of VCE_CTXn_CTRL, bit by bit (Table 11.14). A FLUSH in the write of a CLOSE comes first. -/
def wrVceCtrl (n : Nat) (v : Word) (s : State) : State :=
  let isOpen := s.vceState n != 0
  let s := s.when (v.getLsbD 31) (·.vceOpen n)
  let upd (b : Bool) (f : VceCtx → VceCtx) (s : State) : State := if b && isOpen then s.setVce n (f (s.vceC n)) else s
  let s := upd (v.getLsbD 29) (fun x => { x with reload := true }) s
  let s := upd (v.getLsbD 28) (fun x => { x with force := true }) s
  let s := upd (v.getLsbD 27) (fun x => { x with flush := true }) s
  s.when (v.getLsbD 30 && isOpen) (·.vceClose n)

/-- A write of VCE_CFG (R293). -/
def wrVceCfg (src : Nat) (v : Word) (s : State) : State :=
  if s.vce.any (fun c => [2, 3, 4].contains (s.vceState c.1)) then s.postIgnored src 3 R.VCE_CFG
  else s.plainWrite src R.VCE_CFG v

/-- The other VCE registers: an address register of a context that is not Closed is not written (R293). -/
def wrVce (src off : Nat) (v : Word) (s : State) : State :=
  let n := (off - 0xB1000) / 0x40
  let o := off % 0x40
  if off = R.VCE_CFG then wrVceCfg src v s
  else if off < 0xB1000 then s.plainWrite src off v
  else if o < 0x10 ∧ s.vceState n ≠ 0 then s.postIgnored src 3 off
  else if o = 0x10 then wrVceCtrl n v s
  else s.plainWrite src off v

/-! ### The commands -/

def execVceCfgWrite (src : Nat) (v : Word) (s : State) : Host.Outcome State Fault Refusal :=
  s.running (s.guardWrite R.VCE_CFG (wrVceCfg src v))

def execVceOpen (n : Fin 32) (s : State) : Host.Outcome State Fault Refusal :=
  s.running (s.guardWrite (R.VCE_CTX_CTRL n.val) (wrVceCtrl n.val 0x80000000))

def execVceClose (n : Fin 32) (s : State) : Host.Outcome State Fault Refusal :=
  s.running (s.guardWrite (R.VCE_CTX_CTRL n.val) (wrVceCtrl n.val 0x40000000))

def execVceReload (n : Fin 32) (s : State) : Host.Outcome State Fault Refusal :=
  s.running (s.guardWrite (R.VCE_CTX_CTRL n.val) (wrVceCtrl n.val 0x20000000))

def execForceIrap (n : Fin 32) (s : State) : Host.Outcome State Fault Refusal :=
  s.running (s.guardWrite (R.VCE_CTX_CTRL n.val) (wrVceCtrl n.val 0x10000000))

def execVceFlush (n : Fin 32) (s : State) : Host.Outcome State Fault Refusal :=
  s.running (s.guardWrite (R.VCE_CTX_CTRL n.val) (wrVceCtrl n.val 0x08000000))

/-- The oldest offered record is accepted, or skipped when HOLD slots are held (R274). -/
def State.encodeCandidate (s : State) (n : Nat) : State :=
  let x := s.vceC n
  match x.offers with
  | [] => s
  | k :: r =>
    let held := x.cands.length + (if x.pic.isSome then 1 else 0)
    if x.d 0x16 1 ≤ held then (s.setVce n { x with offers := r }).bump (F.VCE_CTX_STAT1.INPUT_SKIPS n)
    else (s.setVce n { x with offers := r, cands := x.cands ++ [(x.shown, k)], shown := x.shown + 1 }).vceRefresh n

def execEncodeCandidate (n : Fin 32) (s : State) : Host.Outcome State Fault Refusal := s.running (s.encodeCandidate n.val)

/-- The codec is enabled and its kettle domain on. -/
def State.vceOn (s : State) : Bool := s.on F.VCE_CFG.EN && s.reachable R.VCE_CFG

/-- The next descriptor of a job ring is taken (R287, Table 11.7). -/
def State.decodeJobTake (s : State) (n : Nat) : State :=
  if s.vceState n ≠ 1 ∨ (s.vceC n).pic.isSome ∨ !(s.vceC n).decodes ∨ (s.vceC n).closing ∨ !s.vceOn then s else
    let s := s.vceReloadNow n
    let x := s.vceC n
    let size := 2 ^ x.d 0x78 1
    let i := s.get (F.VCE_CTX_JOB.RIDX n) % size
    if i = s.get (F.VCE_CTX_JOB.WIDX n) % size then s else
      let (b, s) := s.engRead (x.req n 23 true) (x.d 0x70 8 + 32 * i) 32
      let s := s.put (F.VCE_CTX_JOB.RIDX n) ((i + 1) % size)
      let (bad, j) := match b with | .ok j => (false, j) | .error _ => (true, zeros 32)
      let r : CodecRun := { (default : CodecRun) with
        tag := field j 0x10 8, num := x.taken, take := s.now.toNat % 2 ^ 32, addr := field j 0 8
        len := field j 8 4 % 2 ^ 24, flags := field j 0xC 2, badRead := bad }
      { s with vceOrder := s.vceOrder + 1 }.setVce n { x with
        pic := some r, taken := x.taken + 1, ready := some s.vceOrder, discont := x.discont || r.flags.testBit 1 }

def execDecodeJobTake (n : Fin 32) (s : State) : Host.Outcome State Fault Refusal := s.running (s.decodeJobTake n.val)

/-- Whether context `a` goes before `b`: PRIO, then when it became ready, then its number (R271). -/
def beforeIn (a b : Nat × VceCtx) : Bool :=
  let ra := a.2.ready.getD 0
  let rb := b.2.ready.getD 0
  decide (a.2.prio < b.2.prio ∨ a.2.prio = b.2.prio ∧ (ra < rb ∨ ra = rb ∧ a.1 ≤ b.1))

def minBy {α : Type} (le : α → α → Bool) : List α → Option α
  | [] => none
  | a :: r => match minBy le r with
    | none => some a
    | some b => if le a b then some a else some b

/-- A picture that was pre-empted is restored on free engines of its direction (R271, R374). -/
def State.vceResumePic (s : State) (n : Nat) (r : CodecRun) (ent pix : Nat) : State :=
  let x := s.vceC n
  let r := { r with ent := some ent, pix := pix, order := s.vceOrder, chosen := false, stopped := false }
  let s := { s with vceOrder := s.vceOrder + 1 }.setVce n { x with pic := some r, ready := none }
  match s.engRead (x.req n r.entUnit true) (s.vceSave n) 131072 with
  | (.ok _, s) => s.setVceState n 2
  | (.error _, s) => (s.setVceState n 2).vceFail n

/-- An encode context takes its next accepted frame (R275, R282). -/
def State.encodeTake (s : State) (n ent pix : Nat) : State :=
  let s := s.vceReloadNow n
  let x := s.vceC n
  match x.nextPick, s.auStart n x with
  | some (i, kind, left), some _ =>
    match x.cands[i]? with
    | none => s
    | some (shown, k) =>
      let rest := x.cands.eraseIdx i
      let (tab, s) := if x.d 0x38 8 = 0 then (([] : List Byte), s) else
        (match s.engRead (x.req n (24 + lowestBit pix) false) (x.d 0x38 8) 4096 with
          | (.ok t, s) => (t, s)
          | (.error _, s) => ([], s))
      if !frameFits x.desc tab k then
        let s := s.post (srcVce n) 3 2 4 k.tag.toNat
        let s := (s.vceReport n (22 + ent)
          { tag := k.tag.toNat, num := x.taken, cap := x.d 0x24 4, flags := 2 + 2048, slot := k.slot % 4, take := s.now.toNat % 2 ^ 32 }).2
        (s.setVce n { x with cands := rest, bLeft := if i = 0 then left else x.bLeft, ready := none }).vceRefresh n
      else
        let irap := x.irapDue
        let idr := irap && (x.taken == 0 || x.d 0x1A 1 == 0)
        let idrAt := if idr then shown else x.idrAt
        let r : CodecRun := { (default : CodecRun) with
          tag := k.tag.toNat, input := some k, num := x.taken, take := s.now.toNat % 2 ^ 32, kind := kind, irap := irap
          forced := x.force && x.taken != 0, poc := shown - idrAt, qp := x.baseQp kind, ent := some ent, pix := pix
          order := s.vceOrder, started := true }
        { s with vceOrder := s.vceOrder + 1 }.setVce n { x with
          pic := some r, cands := rest, taken := x.taken + 1, sinceIrap := if irap then 1 else x.sinceIrap + 1, bLeft := left
          force := false, idrAt := idrAt, ready := none } |>.setVceState n 2
  | _, _ => (s.setVce n { x with ready := none }).vceRefresh n

/-- The first ready picture whose direction has engines free starts (R271). `pix` names the pixel engines that take
rows of it. -/
def State.pictureStart (s : State) (pix : Nat) : State :=
  if !s.vceOn then s else
    let ready := s.vce.filter (fun c => c.2.ready.isSome && (s.freeEnt c.2.decodes).isSome && s.freePix c.2.decodes pix != 0)
    match minBy beforeIn ready with
    | none => s
    | some (n, x) =>
      let ent := (s.freeEnt x.decodes).getD 0
      let pm := s.freePix x.decodes pix
      match x.pic with
      | some r =>
        if r.started then s.vceResumePic n r ent pm
        else
          { s with vceOrder := s.vceOrder + 1 }.setVce n { x with
            pic := some { r with ent := some ent, pix := pm, order := s.vceOrder, started := true }, ready := none } |>.setVceState n 2
      | none => s.encodeTake n ent pm

def execPictureStart (pix : Nat) (s : State) : Host.Outcome State Fault Refusal := s.running (s.pictureStart pix)

/-- Context `n` has left its engines, with what the save of its state came to (R271). -/
def vcePreempted (n : Nat) (x : VceCtx) (r : CodecRun) : Except AccErr Unit × State → State
  | (.error _, s) => s.vceFail n
  | (.ok _, s) =>
    { s with vceOrder := s.vceOrder + 1 }.setVce n { x with
      pic := some { r with ent := none, pix := 0, preempted := true, chosen := false, stopped := false, short := false }, ready := some s.vceOrder } |>.setVceState n 3

/-- A picture chosen for pre-emption has come to its restart point: its state goes to the context's save area. -/
def State.vceStopped (s : State) (n : Nat) (x : VceCtx) (r : CodecRun) : State :=
  vcePreempted n x r (s.scramble (x.req n r.entUnit true) (s.vceSave n) 131072)

/-- Pictures of a direction that hold engines and are not PRIO 0. -/
def State.vceVictims (s : State) (dec : Bool) : List (Nat × VceCtx) :=
  s.vce.filter (fun c => c.2.decodes == dec && c.2.prio != 0 &&
    (match c.2.pic with | some r => r.ent.isSome && ([2, 4].contains (s.vceState c.1) || r.short) | none => false))

/-- The picture of highest PRIO value, on a tie the one that started last. -/
def lastStarted (a b : Nat × VceCtx) : Bool :=
  let oa : Nat := (a.2.pic.map (fun r => r.order)).getD 0
  let ob : Nat := (b.2.pic.map (fun r => r.order)).getD 0
  decide (b.2.prio < a.2.prio ∨ a.2.prio = b.2.prio ∧ ob ≤ oa)

def VceCtx.isChosen (x : VceCtx) : Bool := (x.pic.map (·.chosen)).getD false

/-- A ready PRIO 0 picture without a free engine pre-empts the picture of highest PRIO value, on a tie the one that
started last (R271, R371 to R374). That picture is first chosen; at the next of these commands it has reached its restart points, and
its state is saved. A suspended one stands at its restart point already. -/
def State.picturePreempt (s : State) : State :=
  let need := s.vce.filter (fun c => c.2.ready.isSome && c.2.prio == 0 &&
    ((s.freeEnt c.2.decodes).isNone || s.freePix c.2.decodes 63 == 0))
  match minBy beforeIn need with
  | none => s
  | some (_, want) =>
    let l := s.vceVictims want.decodes
    match (match l.find? (fun c => c.2.isChosen) with | some c => some c | none => minBy lastStarted l) with
    | none => s
    | some (n, x) =>
      match x.pic with
      | none => s
      | some r =>
        if s.vceState n = 4 then ([r.entUnit, r.pixUnit].foldl State.withdrawFault s).vceStopped n x r
        else if r.chosen then s.vceStopped n x r
        else s.setVce n { x with pic := some { r with chosen := true } }

def execPicturePreempt (s : State) : Host.Outcome State Fault Refusal := s.running s.picturePreempt

/-- A running picture ends (R292); one that met a fault after it was chosen for pre-emption does not go on (R372). -/
def State.pictureDone (s : State) (n : Nat) (o : CodecOut) : State :=
  if s.vceState n = 2 && !(((s.vceC n).pic.map (·.stopped)).getD true) then (s.vceFinish n o).vceChains s.vce.length else s

def execPictureDone (n : Fin 32) (res : CodecOut) (s : State) : Host.Outcome State Fault Refusal := s.running (s.pictureDone n.val res)

def execBitstreamSpaceFree (n : Fin 32) (s : State) : Host.Outcome State Fault Refusal :=
  s.running (if s.vceState n.val = 6 ∧ !(s.vceC n.val).decodes then s.vceRefresh n.val else s)

/-- A decode context that waits for an output slot goes on when one is free (R288). -/
def State.outputSlotFree (s : State) (n : Nat) : State :=
  if s.vceState n = 6 && (s.vceC n).decodes && decide ((s.vceC n).bumps ≠ 0) then
    let x := s.vceC n
    ((s.setVceState n (if x.closing then 5 else 1)).vceDrain n (x.dpb.length + 1)).vceBoundary n
  else s

/-- A sachet returns to the pool: pictures whose streams waited for it go on (R267, R355). -/
def execSachetRelease (sachet : Fin 12288) (s : State) : Host.Outcome State Fault Refusal :=
  s.running ((s.sachetRelease sachet).vceChains s.vce.length)

def execOutputSlotFree (n : Fin 32) (s : State) : Host.Outcome State Fault Refusal := s.running (s.outputSlotFree n.val)

end Sys2Proof.Machine
end

