-- ==== Sys2Proof/Machine/ScpCmds.lean ====
section
/-! DEFINITION. Sensor control ports (R114 to R123, R559, R560): transactions on the bus, bursts, the target
register file. The bus itself is outside the block: what a port puts on it is sent out, and what the other side
answers comes with the command that ends a transaction. -/

namespace Sys2Proof.Machine

def scpInit : ScpPort := ⟨none, [], [], [], false, [], 0⟩
def State.scpP (s : State) (p : Nat) : ScpPort := sget scpInit s.scp p
def State.setScp (s : State) (p : Nat) (x : ScpPort) : State := { s with scp := sset scpInit s.scp p x }

def rxInit : RxHalf := ⟨0, 0, 0, 0, none, none, 0, false, [], none, [], false⟩
def txInit : TxHalf := ⟨0, 0, false, 0, 0, [], none, none, [], []⟩
def State.rxH (s : State) (p : Nat) : RxHalf := sget rxInit s.rx p
def State.setRx (s : State) (p : Nat) (x : RxHalf) : State := { s with rx := sset rxInit s.rx p x }
def State.txH (s : State) (p : Nat) : TxHalf := sget txInit s.tx p
def State.setTx (s : State) (p : Nat) (x : TxHalf) : State := { s with tx := sset txInit s.tx p x }

/-- The source ID of a port, and of a sensor link engine. -/
def srcScp (p : Nat) : Nat := 0x0900 + p
def srcSlk (p : Nat) : Nat := 0x0800 + p

/-! ### Words of the bus (R114) -/

def State.addrBytes (s : State) (p : Nat) : Nat := if s.get (F.SCP_FMT.ADDR_BYTES p) = 1 then 1 else 2
def State.dataBytes (s : State) (p : Nat) : Nat := if s.get (F.SCP_FMT.DATA_BYTES p) = 1 then 1 else 2

/-- The bytes a controller puts on the wire for a transaction. -/
def State.wire (s : State) (p : Nat) (read : Bool) (addr data : Nat) : List Nat :=
  let nums (l : List Byte) : List Nat := l.map (·.toNat)
  let a := s.addrBytes p
  let d := nums (beBytes (s.dataBytes p) data)
  if s.on (F.SCP_CFG.BUS p) then
    let dev := 2 * s.get (F.SCP_CFG.I2C_ADDR p)
    if read then dev :: nums (beBytes a addr) ++ [dev + 1] else dev :: nums (beBytes a addr) ++ d
  else if s.on (F.SCP_FMT.CMD p) then
    (if read then s.get (F.SCP_FMT.READ_OP p) else s.get (F.SCP_FMT.WRITE_OP p)) :: nums (beBytes a addr) ++ (if read then [] else d)
  else
    let m := 2 ^ (8 * a - 1)
    nums (beBytes a (addr % m + (if read then m else 0))) ++ (if read then [] else d)

/-- The port is an enabled controller; with ENABLE = 0 it sends nothing (R559). -/
def State.isController (s : State) (p : Nat) : Bool := s.on (F.SCP_CFG.ENABLE p) && !s.on (F.SCP_CFG.ROLE p)

/-- What a port drives, while SCP_VIO(p div 2) is there: without it the lands are high-impedance (R541, R542). -/
def State.emitScp (s : State) (kind : String) (p : Nat) (data : List Nat) : State :=
  if s.power.vio.testBit (p / 2) then s.emit kind p data else s

/-! ### What the port runs next (R560) -/

/-- Entry `i` of a burst goes onto the bus. -/
def State.sendEntry (s : State) (p k i : Nat) : State :=
  let x := s.scpP p
  match sget none x.bursts k with
  | none => s
  | some b =>
    let e := (sget 0 x.bmem ((b.start + i) % 1024)).toNat
    (s.setScp p { x with cur := some (.entry k i) }).emitScp "scp" p (s.wire p false (e / 65536) (e % 65536))

/-- The signed 40-bit order of two release times as seen from now: the one reached earlier goes first (R118). -/
def State.beforeRelease (s : State) (a b : Nat × ScpBurst) : Bool :=
  decide (s.past b.2.time < s.past a.2.time ∨ s.past a.2.time = s.past b.2.time ∧ a.1 ≤ b.1)

/-- Released bursts that wait for a port, in the order of R118. -/
def State.inOrder (s : State) (x : ScpPort) : List (Nat × Bool) :=
  isort (fun a b => match sget none x.bursts a.1, sget none x.bursts b.1 with
    | some p, some q => s.beforeRelease (a.1, p) (b.1, q)
    | _, _ => true) x.waiting

/-- A free controller port takes a waiting immediate transaction first, else the first burst that waits. -/
def State.scpNext (s : State) (p : Nat) : State :=
  let x := s.scpP p
  if x.cur.isSome || !s.isController p then s else
    match x.imm, s.inOrder x with
    | t :: r, _ => (s.setScp p { x with cur := some (.imm t), imm := r }).emitScp "scp" p (s.wire p t.read t.addr t.data)
    | [], (k, late) :: r =>
      let s := s.setScp p { x with waiting := r, abort := false }
      let s := s.andThen [(·.put (F.SCP_BDESC.STATE p k) 2), (·.putB (F.SCP_BDESC.LATE p k) late), (·.put (F.SCP_BPROG.SENT p k) 0)]
      s.sendEntry p k 0
    | [], [] => s

/-- The port is neither free nor without a waiting immediate transaction. -/
def ScpPort.busy (x : ScpPort) : Bool := x.cur.isSome || !x.imm.isEmpty

/-- A burst reaches a final state. -/
def State.burstEnds (s : State) (p k st : Nat) : State :=
  let x := s.scpP p
  ((s.setScp p { x with cur := none, abort := false, bursts := sset none x.bursts k none }).andThen
    [(·.put (F.SCP_BDESC.STATE p k) st), (·.put (F.SCP_BDESC.ARM p k) 0)]).scpNext p

/-! ### Immediate transactions (R116, R559) -/

/-- A write of SCP_CMDCTL. -/
def wrScpCmdctl (p : Nat) (v : Word) (s : State) : State :=
  if !v.getLsbD 16 || s.on (F.SCP_CMDCTL.BUSY p) then s
  else if !s.on (F.SCP_CFG.ENABLE p) then s.put (F.SCP_CMDCTL.STATUS p) 4
  else if s.on (F.SCP_CFG.ROLE p) then s.put (F.SCP_CMDCTL.STATUS p) 3
  else
    let x := s.scpP p
    let t : ScpTxn := ⟨none, v.getLsbD 17, s.get (F.SCP_CMD.ADDR p), s.get (F.SCP_CMD.DATA p)⟩
    ((s.put (F.SCP_CMDCTL.BUSY p) 1).setScp p { x with imm := x.imm ++ [t] }).scpNext p

def execScpImmediate (p : Fin 4) (v : Word) (s : State) : Host.Outcome State Fault Refusal :=
  s.running (s.guardWrite (R.SCP_CMDCTL p.val) (wrScpCmdctl p.val v))

/-- The version write of engine `e` ends (R104): it is repeated after a failure. One whose negotiation is over (2 + engine) leaves
the next one's alone. -/
def State.vselDone (s : State) (e : Nat) (ok : Bool) : State :=
  let s := if e < 2 then s.setRx e { s.rxH e with vsel := if ok then 2 else 3 } else s
  if ok then s else s.post (srcSlk (e % 2)) 4 3 (e % 2) 0

/-- An immediate transaction ends with a status: 0 OK, 1 NACK, 2 Timeout. -/
def State.immEnds (s : State) (p status rdata : Nat) : State :=
  let x := s.scpP p
  match x.cur with
  | some (.imm t) =>
    let s := s.setScp p { x with cur := none }
    let s := match t.vsel with
      | some e => s.vselDone e (status == 0)
      | none =>
        let s := (s.put (F.SCP_CMDCTL.BUSY p) 0).put (F.SCP_CMDCTL.STATUS p) status
        if t.read ∧ status = 0 then s.put (F.SCP_CMDCTL.RDATA p) (rdata % 2 ^ (8 * s.dataBytes p)) else s
    s.scpNext p
  | _ => s

/-- SPI has no acknowledgement, so a transaction of it ends with status OK. -/
def execScpTransactionDone (p : Fin 4) (ack : Bool) (rdata : Half) (s : State) : Host.Outcome State Fault Refusal :=
  s.running (s.immEnds p.val (if ack || !s.on (F.SCP_CFG.BUS p.val) then 0 else 1) rdata.toNat)

/-! ### Bursts (R117 to R120) -/

/-- Bursts armed and not yet released, with their values. -/
def State.armed (s : State) (p : Nat) : List (Nat × ScpBurst) :=
  let x := s.scpP p
  ((List.range 4).filter (fun k => s.get (F.SCP_BDESC.STATE p k) == 1 && !x.waiting.any (fun w => w.1 == k))).filterMap
    (fun k => (sget none x.bursts k).map (fun b => (k, b)))

/-- A burst is released: its SGEN is recorded against its source (R118), and it waits for the port. -/
def State.releaseBurst (s : State) (p : Nat) (e : Nat × ScpBurst) : State :=
  let x := s.scpP p
  let s := s.setScp p { x with waiting := x.waiting ++ [(e.1, x.busy || !x.waiting.isEmpty)] }
  if e.2.sgenValid then s.recordRelease e.2.src e.2.sgen e.2.time else s

/-- Every burst whose release time is reached is released, in order of release time, then of k. A port that is no enabled controller
any more releases nothing: its bursts stay armed (R559; DESIGN CHOICE, log 30, which holds R118's record of SGEN back too). -/
def State.releaseDue (s : State) (p : Nat) : State :=
  if !s.isController p then s else
  let due := isort s.beforeRelease ((s.armed p).filter (fun e => s.reached e.2.time))
  (due.foldl (fun s e => s.releaseBurst p e) s).scpNext p

def execScpBurstRelease (p : Fin 4) (s : State) : Host.Outcome State Fault Refusal := s.running (s.releaseDue p.val)

/-- A burst is armed or transmitting, so its fields and entries are not written (R117). -/
def State.burstHeld (s : State) (p k : Nat) : Bool := s.get (F.SCP_BDESC.STATE p k) == 1 || s.get (F.SCP_BDESC.STATE p k) == 2

/-- DISARM on an armed or transmitting burst (R120). -/
def State.disarm (s : State) (p k : Nat) : State :=
  let x := s.scpP p
  if s.get (F.SCP_BDESC.STATE p k) = 1 then
    ((s.setScp p { x with bursts := sset none x.bursts k none, waiting := x.waiting.filter (fun w => w.1 != k) }).put
      (F.SCP_BDESC.STATE p k) 0).put (F.SCP_BDESC.ARM p k) 0
  else if s.get (F.SCP_BDESC.STATE p k) = 2 then s.setScp p { x with abort := true }
  else s

/-- The burst is armed with the fields as they stand; a release time already passed releases it at once. -/
def State.arm (s : State) (p k : Nat) : State :=
  let x := s.scpP p
  let b : ScpBurst := ⟨s.get (F.SCP_BDESC.START p k), s.get (F.SCP_BDESC.COUNT p k) + 1, s.on (F.SCP_BSGEN.SGEN_VALID p k),
    s.get (F.SCP_BSGEN.SRC p k), s.get (F.SCP_BSGEN.SGEN p k), s.get (F.SCP_BTIME.TIME p k) + 2 ^ 32 * s.get (F.SCP_BSGEN.TIME_HI p k)⟩
  let s := (s.setScp p { x with bursts := sset none x.bursts k (some b) }).andThen
    [(·.put (F.SCP_BDESC.STATE p k) 1), (·.put (F.SCP_BDESC.ARM p k) 1), (·.put (F.SCP_BDESC.LATE p k) 0)]
  if s.reached b.time then s.releaseDue p else s

/-- A write of SCP_BDESCk (R117, R120, R559). -/
def wrScpBdesc (p k : Nat) (v : Word) (s : State) : State :=
  let off := v.getLsbD 30
  if s.burstHeld p k then (if off then s.disarm p k else s)
  else
    let s := (s.put (F.SCP_BDESC.COUNT p k) (getBits v 25 16)).put (F.SCP_BDESC.START p k) (getBits v 9 0)
    if off || !v.getLsbD 31 then s
    else if !s.on (F.SCP_CFG.ENABLE p) then s.put (F.SCP_BDESC.STATE p k) 7
    else if s.on (F.SCP_CFG.ROLE p) then s.put (F.SCP_BDESC.STATE p k) 6
    else s.arm p k

def execScpBurstArm (p : Fin 4) (k : Fin 4) (v : Word) (s : State) : Host.Outcome State Fault Refusal :=
  s.running (s.guardWrite (R.SCP_BDESC p.val k.val) (wrScpBdesc p.val k.val (v ||| 0x80000000)))

def execScpBurstDisarm (p : Fin 4) (k : Fin 4) (v : Word) (s : State) : Host.Outcome State Fault Refusal :=
  s.running (s.guardWrite (R.SCP_BDESC p.val k.val) (wrScpBdesc p.val k.val (v ||| 0x40000000)))

/-- SCP_BSGENk and SCP_BTIMEk while the burst is armed or transmitting are not written (R117). -/
def wrScpBurstReg (p k src off : Nat) (v : Word) (s : State) : State :=
  if s.burstHeld p k then s else s.plainWrite src off v

/-- The event of a stopped burst (R119, Table 22.14). -/
def State.burstStops (s : State) (p k i cause : Nat) : State :=
  let x := s.scpP p
  let a := match sget none x.bursts k with
    | some b => (sget 0 x.bmem ((b.start + i) % 1024)).toNat / 65536
    | none => 0
  (s.post (srcScp p) 4 3 (0x400 + 0x10 * p + k) (s.get (F.SCP_BPROG.SENT p k) + 2 ^ 16 * cause + 2 ^ 32 * a)).burstEnds p k 5

/-- A burst entry ends (R119, R120): acknowledged, or not (cause 0), or timed out (cause 1). A DISARM recorded before this end
takes effect, at the last entry as well. A port that has been disabled meanwhile sends no further entry, and the burst ends with STATE = 7
(R559; DESIGN CHOICE, log 30). -/
def State.entryEnds (s : State) (p : Nat) (ok : Bool) (cause : Nat) : State :=
  let x := s.scpP p
  match x.cur with
  | some (.entry k i) =>
    if !ok then s.burstStops p k i cause
    else
      let s := s.put (F.SCP_BPROG.SENT p k) (i + 1)
      let n := match sget none x.bursts k with | some b => b.count | none => 0
      if x.abort then s.burstEnds p k 4
      else if n ≤ i + 1 then s.burstEnds p k 3
      else if !s.isController p then s.burstEnds p k 7
      else s.sendEntry p k (i + 1)
  | _ => s

def execScpBurstEntryDone (p : Fin 4) (ack : Bool) (s : State) : Host.Outcome State Fault Refusal :=
  s.running (s.entryEnds p.val (ack || !s.on (F.SCP_CFG.BUS p.val)) 0)

/-- Clock stretching beyond 10 ms releases the bus and ends the transaction with Timeout (R115, R119). -/
def execScpStretchTimeout (p : Fin 4) (s : State) : Host.Outcome State Fault Refusal :=
  s.running ((match (s.scpP p.val).cur with
    | some (.imm _) => s.immEnds p.val 2 0
    | some (.entry _ _) => s.entryEnds p.val false 1
    | none => s))

/-! ### Burst memory -/

/-- An entry of a burst that is armed or transmitting. -/
def State.entryHeld (s : State) (p i : Nat) : Bool :=
  (List.range 4).any (fun k => s.burstHeld p k && (match sget none (s.scpP p).bursts k with
    | some b => decide ((i + 1024 - b.start) % 1024 < b.count)
    | none => false))

def wrScpBmem (p : Nat) (v : Word) (s : State) : State :=
  let i := s.get (F.SCP_BMEM_IDX.IDX p)
  let x := s.scpP p
  (if s.entryHeld p i then s else s.setScp p { x with bmem := sset 0 x.bmem i v }).incr (F.SCP_BMEM_IDX.IDX p)

def rdScpBmem (p : Nat) (s : State) : Word × State :=
  (sget 0 (s.scpP p).bmem (s.get (F.SCP_BMEM_IDX.IDX p)), s.incr (F.SCP_BMEM_IDX.IDX p))

/-- A read or write of a data register. -/
def State.access (s : State) (off : Nat) (rd : State → Word × State) (wr : Word → State → State) (w : Option Word) : State :=
  match w with
  | none => State.answer (s.guardRead off rd)
  | some v => s.guardWrite off (wr v)

def execScpBmemAccess (p : Fin 4) (w : Option Word) (s : State) : Host.Outcome State Fault Refusal :=
  s.running (s.access (R.SCP_BMEM_DATA p.val) (rdScpBmem p.val) (wrScpBmem p.val) w)

/-! ### The target register file (R121 to R123, R105) -/

/-- The word of a target register file; one that nothing has written since a cold reset is undefined (Table 4.24, log 4). -/
def State.tfileWord (s : State) (p a : Nat) : Half := sget (Config.tfileCold p a) s.tfile (65536 * p + a)

def State.setTfile (s : State) (p a : Nat) (v : Half) : State :=
  { s with tfile := sinsert (serase s.tfile (65536 * p + a)) (65536 * p + a) v }

def wrScpTfile (p : Nat) (v : Word) (s : State) : State :=
  (s.setTfile p (s.get (F.SCP_TFILE_ADDR.ADDR p)) (v.setWidth 16)).incr (F.SCP_TFILE_ADDR.ADDR p)

def rdScpTfile (p : Nat) (s : State) : Word × State :=
  ((s.tfileWord p (s.get (F.SCP_TFILE_ADDR.ADDR p))).setWidth 32, s.incr (F.SCP_TFILE_ADDR.ADDR p))

def execScpTfileAccess (p : Fin 4) (w : Option Word) (s : State) : Host.Outcome State Fault Refusal :=
  s.running (s.access (R.SCP_TFILE_DATA p.val) (rdScpTfile p.val) (wrScpTfile p.val) w)

/-- The port is an enabled target. -/
def State.isTarget (s : State) (p : Nat) : Bool := s.on (F.SCP_CFG.ENABLE p) && s.on (F.SCP_CFG.ROLE p)

/-- The bits of an address on the bus (R114): ADDR_BYTES bytes, less the read bit of SPI without a command byte. -/
def State.addrBits (s : State) (p : Nat) : Nat :=
  8 * s.addrBytes p - (if !s.on (F.SCP_CFG.BUS p) && !s.on (F.SCP_FMT.CMD p) then 1 else 0)

/-- The word a bus access names: the address it carries, or, when it carries none, the word after the last one accessed, which only
I²C has (R122). -/
def State.targetAddr (s : State) (p : Nat) (a : Option Nat) : Option Nat :=
  match a with
  | some v => some (v % 2 ^ s.addrBits p)
  | none => if s.on (F.SCP_CFG.BUS p) then some ((s.scpP p).ptr % 2 ^ s.addrBits p) else none

/-- The command byte of an SPI access is the one of its direction. Another byte is no access of the register file (DESIGN CHOICE,
log 31). Without a command byte, and on I²C, the direction is the read bit's. -/
def State.targetOp (s : State) (p : Nat) (read : Bool) (op : Nat) : Bool :=
  s.on (F.SCP_CFG.BUS p) || !s.on (F.SCP_FMT.CMD p) ||
    op == (if read then s.get (F.SCP_FMT.READ_OP p) else s.get (F.SCP_FMT.WRITE_OP p))

/-- Sequential accesses go on at the next word. -/
def State.targetNext (s : State) (p a : Nat) : State := s.setScp p { s.scpP p with ptr := a + 1 }

/-- A bus read takes the whole word (R121). -/
def State.targetRead (s : State) (p a : Nat) : State :=
  ((s.bump (F.SCP_TGT_STAT.READS p)).targetNext p a).emitScp "scpTarget" p [(s.tfileWord p a).toNat % 2 ^ (8 * s.dataBytes p)]

/-- A bus access of a port that is an enabled target, with its command byte and address. -/
def State.targetAccess (s : State) (p : Nat) (read : Bool) (op : Nat) (a : Option Nat) (act : Nat → State) : State :=
  if !s.isTarget p || !s.targetOp p read op then s else
    match s.targetAddr p a with
    | some x => act x
    | none => s

def execScpTargetRead (p : Fin 4) (addr : Byte × Option Half) (s : State) : Host.Outcome State Fault Refusal :=
  s.running (s.targetAccess p.val true addr.1.toNat (addr.2.map (·.toNat)) (s.targetRead p.val))

/-- The value a sink writes selects the version of a negotiating transmit half, once (R105). -/
def State.versionWritten (s : State) (p a v e : Nat) : State :=
  let x := s.txH e
  if s.get (F.SLK_STAT.TX_STATE e) = 3 ∧ x.ver = 0 ∧ s.get (F.SLK_TXCFG.SCP e) = p ∧ s.get (F.SLK_TXCFG.VSEL_ADDR e) = a ∧
      1 ≤ v ∧ v ≤ max 1 (s.get (F.SLK_TXCFG.MAXVER e)) then
    s.setTx e { x with ver := v, capLeft := 16 }
  else s

/-- A bus write (R121, R123, R105). One of one data byte changes the low byte of the word. -/
def State.targetWrite (s : State) (p a : Nat) (v : Half) : State :=
  let old := (s.tfileWord p a).toNat
  let one := decide (s.dataBytes p = 1)
  let val := if one then v.toNat % 256 else v.toNat
  let s := ((s.bump (F.SCP_TGT_STAT.WRITES p)).targetNext p a).setTfile p a (BitVec.ofNat 16 (if one then old / 256 * 256 + val else val))
  let s := if s.on (F.SCP_TGT_CFG.SGEN_EN p) && s.get (F.SCP_TGT_CFG.SGEN_ADDR p) == a then
      let e := s.get (F.SCP_TGT_CFG.LINK p)
      let x := s.txH e
      s.setTx e { x with echoes := x.echoes ++ [(val, s.get (F.SCP_TGT_CFG.LAT p) + 1)] }
    else s
  (s.versionWritten p a val 0).versionWritten p a val 1

def execScpTargetWrite (p : Fin 4) (addr : Byte × Option Half) (data : Half) (s : State) : Host.Outcome State Fault Refusal :=
  s.running (s.targetAccess p.val false addr.1.toNat (addr.2.map (·.toNat)) (fun a => s.targetWrite p.val a data))

end Sys2Proof.Machine
end

