-- ==== Sys2Proof/Machine/Tiles.lean ====
section
/-! DEFINITION. The tiles of a brew at work on a frame: what each passes on (chapters 5, 7, 8, 9, 10), statistics
records and taps (R160 to R168), the B queue, pairing and records of analysis tiles (R214 to R232), compose slots
(R240, R241), and output pack slots and records (R244, R245). A frame's picture is computed from its lines with
the parameter set latched at its commit point, when a sink needs it. -/

namespace Sys2Proof.Machine

/-! ### A frame on its way -/

/-- The record of the brew that holds tile `t`. -/
def State.brewOfTile (s : State) (t : Nat) : Option BrewRec :=
  ((s.cfg.tiles.find? (fun r => r.tile == t)).map (·.brew)).bind s.brewRec

/-- The tiles from `t` back to its root. -/
def chainTo (c : FabCfg) : Nat → Nat → List Nat
  | 0, _ => []
  | n + 1, t => t :: (match c.feeds t 0 with | some u => chainTo c n u | none => [])

/-- Frames of a brew whose start-of-frame beat has left the root, oldest first. -/
def State.inBrew (s : State) (b : BrewRec) : List Frame :=
  (s.brew b.brew).flow ++ b.sources.flatMap (fun t => ((s.root t).frames).filter (·.emitted))

/-- A frame of a brew put back where it stands. -/
def State.putFlow (s : State) (b : BrewRec) (f : Frame) : State :=
  let s := s.updateFrame f
  let r := s.brew b.brew
  s.setBrew b.brew { r with flow := r.flow.map (fun g => if g.tag = f.tag then f else g) }

/-- The sinks a frame of a brew must leave: statistics, analysis and output pack tiles, and second inputs of other
tiles as 100 + tile. -/
def FabCfg.sinks (c : FabCfg) (b : Nat) : List Nat :=
  (c.tilesOf b).filter (fun t => tileKind t == .sta || tileKind t == .opk || tileKind t == .ana) ++
  ((c.routes.filter (fun r => r.dst < 48 && r.dstPort == 1 && (c.tilesOf b).contains r.src)).map (fun r => 100 + r.dst))

/-- A sink is done with a frame; a frame that every sink is done with is in no tile any more, and the SDI status
kept for it goes (R228). -/
def State.sinkDone (s : State) (b : BrewRec) (f : Frame) (key : Nat) : State :=
  let f := { f with doneAt := f.doneAt ++ [key] }
  let s := s.putFlow b f
  let r := s.brew b.brew
  if r.flow.any (fun g => g.tag == f.tag) && (s.cfg.sinks b.brew).all (fun k => f.doneAt.contains k) then
    let s := s.setBrew b.brew { r with flow := r.flow.filter (fun g => g.tag != f.tag) }
    { s with sdiIn := s.sdiIn.map (fun e => (e.1, { e.2 with kept := e.2.kept.filter (fun k => !(k.seq == f.tag.seq && f.tile == k.tile)) })) }
  else s

/-- The brew has ended the frame as a drop unit (R162, R241). -/
def Frame.bad (f : Frame) : Bool := f.dropped || !f.badAt.isEmpty

/-- The frame is a drop unit by the time it reaches tile `t`. -/
def Frame.badFor (f : Frame) (c : FabCfg) (t : Nat) : Bool :=
  f.dropped || (chainTo c 48 t).any (fun u => u != t && f.badAt.contains u)

/-- The oldest frame whose end-of-frame beat has left the root, that tile `t` has begun and not ended. -/
def State.endingAt (s : State) (b : BrewRec) (t : Nat) : Option Frame :=
  (s.brew b.brew).flow.find? (fun f => f.sofAt.contains t && !f.doneAt.contains t)

/-! ### What tiles pass on -/

/-- A stream at a point of a brew: picture, colour-space and transfer tags (R188), whether it has passed a raw
correction with DEF_EN = 1. -/
structure Stream where
  pic : Pic
  space : Nat
  transfer : Nat
  mOk : Bool

/-- The mosaic of a brew and context. -/
def FabCfg.mosaicAt (c : FabCfg) (b k : Nat) : MosaicRec := (c.mosaicOf b k).getD plainMosaic

/-- The picture that enters at the root. -/
def rootPic (c : FabCfg) (b : BrewRec) (f : Frame) : Pic :=
  if tileKind f.tile = .pat then patternPic ⟨f.par, f.tabs⟩ f.tile (c.mosaicOf b.brew 0) f.tag f.w f.h
  else ⟨f.w, f.h, f.n, f.rows⟩

/-- Overlay B of a compose tile on a picture (R239, R240). -/
def overlay (p : Par) (t k : Nat) (a b : Pic) : Pic :=
  let j := t - 40
  let g := p.get (F.CMX_GALPHA.GA j k)
  let x := p.get (F.CMX_POS.BX j k)
  let y := p.get (F.CMX_POS.BY j k)
  if p.get (F.CMX_CFG.BSRC j k) = 1 ∧ !p.on (F.CMX_CFG.OFMT j k) then composeRgba8 g x y a b else composeB g x y a b

/-- The output of tile `t` for a frame; statistics and output pack tiles stand for their input. -/
def tileOut (c : FabCfg) (b : BrewRec) (f : Frame) : Nat → Nat → Stream
  | 0, _ => ⟨emptyPic, 0, 0, false⟩
  | n + 1, t =>
    let p : Par := ⟨f.par, f.tabs⟩
    let k := f.ctx
    let m := c.mosaicAt b.brew k
    let i : Stream := match c.feeds t 0 with | some u => tileOut c b f n u | none => ⟨emptyPic, 0, 0, false⟩
    match tileKind t with
    | .ing => ⟨rootPic c b f, 0, 0, false⟩
    | .pat => ⟨rootPic c b f, 0, 0, false⟩
    | .rwc => { i with pic := (rawCorrect p m t k i.pic).1, mOk := i.mOk || p.on (F.RWC_CTRL.DEF_EN (t - 4) k) }
    | .dms => { i with pic := demosaic p m t k i.pic }
    | .col =>
      let (sp, tr) := colourTags p t k (i.space, i.transfer)
      { i with pic := colour p t k i.pic, space := sp, transfer := tr }
    | .geo => { i with pic := (geometry p t k i.pic).1 }
    | .syn => { i with pic := (synthesise p m t k f.tag (sget 0 f.watch t) i.pic).1 }
    | .ana => { i with pic := errorMap p t k i.pic (sget none f.picks t) }
    | .cmx => match sget none f.picks t with
      | some o => { i with pic := overlay p t k i.pic o }
      | none => i
    | .sta => i
    | .opk => i

/-- Input A of tile `t`. -/
def tileIn (c : FabCfg) (b : BrewRec) (f : Frame) (t : Nat) : Stream :=
  match c.feeds t 0 with | some u => tileOut c b f 48 u | none => ⟨emptyPic, 0, 0, false⟩

/-- Width, height and components at the output of tile `t`. -/
def dimsOut (c : FabCfg) (f : Frame) : Nat → Nat → Nat × Nat × Nat
  | 0, _ => (0, 0, 0)
  | n + 1, t =>
    let p : Par := ⟨f.par, f.tabs⟩
    let k := f.ctx
    let i : Nat × Nat × Nat := match c.feeds t 0 with | some u => dimsOut c f n u | none => (0, 0, 0)
    match tileKind t with
    | .ing => (f.w, f.h, f.n)
    | .pat => (f.w, f.h, f.n)
    | .dms => (i.1, i.2.1, match p.get (F.DMS_CFG.OUT (t - 8) k) with | 1 => 4 | 2 => 4 | _ => 3)
    | .col => (i.1, i.2.1, if i.2.2 = 4 ∧ !p.on (F.COL_CTRL.IRM_EN (t - 12) k) then 4 else 3)
    | .syn => (i.1, i.2.1, 1)
    | .geo => (p.get (F.GEO_OSIZE.OW (t - 20) k), p.get (F.GEO_OSIZE.OH (t - 20) k), i.2.2)
    | _ => i

def dimsIn (c : FabCfg) (f : Frame) (t : Nat) : Nat × Nat × Nat :=
  match c.feeds t 0 with | some u => dimsOut c f 48 u | none => (0, 0, 0)

/-! ### Memory ports (R18, R168, R232) -/

/-- The memory port a tile's route names. -/
def FabCfg.portOf (c : FabCfg) (t : Nat) : Option Nat := (c.routes.find? (fun r => r.src == t && r.dst == 0xFF)).map (·.dstPort)

/-- The transmit half a tile's route names. -/
def FabCfg.txOf (c : FabCfg) (t : Nat) : Option Nat := (c.routes.find? (fun r => r.src == t && r.dst == 0xFE)).map (·.dstPort)

/-- An access of tile `t` through memory port `p`: unit p and client p. -/
def portReq (t p : Nat) (lost : Option Nat) : Req := ⟨srcTile t, p, p, true, lost⟩

/-- Write pieces at offsets from a base, up to the first that fails. -/
def State.writeSections (s : State) (r : Req) (base : Nat) : List (Nat × List Byte) → Bool × State
  | [] => (true, s)
  | (o, b) :: rest =>
    match s.engWrite r (base + o) b with
    | (.error _, s) => (false, s)
    | (.ok _, s) => s.writeSections r base rest

/-- Lines of a picture written at a pitch from a base, up to the first that fails; answers how many were. -/
def State.writeLines (s : State) (r : Req) (pitch : Nat) : Nat → List (List Byte) → Nat × State
  | _, [] => (0, s)
  | a, b :: rest =>
    match s.engWrite r a b with
    | (.error _, s) => (0, s)
    | (.ok _, s) => let (n, s) := s.writeLines r pitch (a + pitch) rest; (n + 1, s)

/-- Lines read at a pitch, or none when a read fails. -/
def State.readLines (s : State) (r : Req) (pitch len : Nat) : Nat → Nat → Option (List (List Byte)) × State
  | _, 0 => (some [], s)
  | a, n + 1 =>
    match s.engRead r a len with
    | (.error _, s) => (none, s)
    | (.ok b, s) =>
      match s.readLines r pitch len (a + pitch) n with
      | (some l, s) => (some (b :: l), s)
      | (none, s) => (none, s)

/-- A result record: sections and line CRCs first, header last; the index advances after the whole record is in
memory, and a lost record leaves it (R163, R230, R557). LOG2CNT is 1 to 8 (Table 6.6). -/
def State.resultRecord (s : State) (r : Req) (base log : Nat) (widx : Fld) (lcrc : Nat) (x : PendRec) : State :=
  let n := ringSize log 1 8
  let k := s.get widx % n
  match s.writeSections r (lcrc + 131072 * k) x.lines with
  | (false, s) => s
  | (true, s) =>
    match s.writeSections r (base + 65536 * k) x.body with
    | (false, s) => s
    | (true, s) =>
      match s.engWrite r (base + 65536 * k) x.header with
      | (.error _, s) => s
      | (.ok _, s) => s.put widx ((k + 1) % n)

/-! ### Statistics (R160 to R168) -/

def State.staPend (s : State) (t : Nat) : List PendRec := sget [] s.sta t
def State.setSta (s : State) (t : Nat) (l : List PendRec) : State := { s with sta := sset [] s.sta t l }

/-- What the raw tap did for a frame: whether it used a slot, the slot, lines written, abandoned, truncated. -/
structure TapOut where
  used : Bool
  slot : Nat
  lines : Nat
  bad : Bool
  trunc : Bool

/-- Whether a tap slot is due for a frame: TAP_EN, slots of some size, and every (DECIM + 1)th sequence number (R165). -/
def State.tapDue (s : State) (j : Nat) (f : Frame) (p : Par) : Bool :=
  p.on (F.STA_CFG.TAP_EN j f.ctx) && s.get (F.STA_TAP_SLOT.SIZE j f.ctx) != 0 && f.tag.seq.toNat % (p.get (F.STA_TAP_CTL.DECIM j f.ctx) + 1) == 0

/-- The raw tap (R165 to R167); a slot size of 0 disables it (Table 6.7). `fits` is the number of lines its write buffer could hold. -/
def State.tap (s : State) (t port fits : Nat) (f : Frame) (p : Par) (i : Pic) : TapOut × State :=
  let j := t - 26
  let k := f.ctx
  if !s.tapDue j f p then (⟨false, 0, 0, false, false⟩, s) else
    let fp := p.get (F.STA_TAP_CTL.ENC j k) == 1
    let scale := sint (p.get (F.STA_CFG.SCALE j k)) 5
    let n := s.get (F.STA_TAP_CTL.COUNT j k) + 1
    let slot := s.get (F.STA_TAP_CTL.WIDX j k) % n
    let size := s.get (F.STA_TAP_SLOT.SIZE j k) * 65536
    let pitch := tapPitch i.w i.n fp
    let room := if pitch = 0 then 0 else size / pitch
    let want := min i.h room
    let take := min want fits
    let base := s.addr (R.STA_TAP_LO j k) (R.STA_TAP_HI j k) + slot * size
    let (done, s) := (s.overtake t slot).writeLines (portReq t port none) pitch base ((i.rows.take take).map (rowBytes fp scale))
    let bad := decide (done < want)
    let s := s.put (F.STA_TAP_CTL.WIDX j k) ((slot + 1) % n)
    (⟨true, slot, done, bad, decide (room < i.h)⟩, s.when bad (·.bump (F.STA_STAT.TAP_DROPS j k)))

/-- A record whose measures stand: the frame is whole, no record of its context waits above it, and its grids fit (R162, R163). -/
def State.statsValid (s : State) (b : BrewRec) (f : Frame) (t : Nat) : Bool :=
  !f.bad && !(s.staPend t).any (fun x => x.ctx == f.ctx) &&
    !gridFault ⟨f.par, f.tabs⟩ (s.cfg.mosaicAt b.brew f.ctx) (t - 26) f.ctx (tileIn s.cfg b f t).pic.n

/-- The header of a statistics record (Table 6.4). -/
def State.statsHeader (s : State) (b : BrewRec) (f : Frame) (t : Nat) (tp : TapOut) : List Byte :=
  let j := t - 26
  let k := f.ctx
  let p : Par := ⟨f.par, f.tabs⟩
  let (w, h, n) := dimsIn s.cfg f t
  let flags := flagIf (s.statsValid b f t) 0 + flagIf f.bad 1 + flagIf ((s.staPend t).any (fun x => x.ctx == k)) 2 + flagIf tp.used 3 +
    flagIf tp.bad 4 + flagIf tp.trunc 5 + flagIf (k == 1) 6 + flagIf (gridFault p (s.cfg.mosaicAt b.brew k) j k (tileIn s.cfg b f t).pic.n) 7
  withCrc (leBytes 8 f.tag.toNat ++ leBytes 2 flags ++ leBytes 1 t ++ leBytes 1 b.brew ++ leBytes 2 f.commits ++
    leBytes 2 w ++ leBytes 2 h ++ leBytes 1 (p.get (F.STA_GRIDN.FNX j k)) ++ leBytes 1 (p.get (F.STA_GRIDN.FNY j k)) ++
    leBytes 1 (p.get (F.STA_GRIDN.ANX j k)) ++ leBytes 1 (p.get (F.STA_GRIDN.ANY j k)) ++ leBytes 1 n ++
    leBytes 1 (twos (sint (p.get (F.STA_CFG.SCALE j k)) 5) 8) ++ leBytes 4 (if tp.used then tp.slot else 0) ++ leBytes 4 tp.lines)

/-- The record of a frame: its measures where they stand (R161 to R163). -/
def State.statsRecord (s : State) (b : BrewRec) (f : Frame) (t : Nat) (tp : TapOut) : PendRec :=
  let i := tileIn s.cfg b f t
  ⟨f.tag, f.ctx, if s.statsValid b f t then statsBody ⟨f.par, f.tabs⟩ (s.cfg.mosaicAt b.brew f.ctx) i.mOk (t - 26) f.ctx i.pic else [],
    s.statsHeader b f t tp, []⟩

/-- Streams that take the tap's slots go on with the frame's (R408). -/
def State.tapFeed (s : State) (f : Frame) (t : Nat) (i : Pic) (tp : TapOut) : State :=
  let j := t - 26
  let k := f.ctx
  let p : Par := ⟨f.par, f.tabs⟩
  let pitch := tapPitch i.w i.n (p.get (F.STA_TAP_CTL.ENC j k) == 1)
  let size := s.get (F.STA_TAP_SLOT.SIZE j k) * 65536
  s.when (s.tapDue j f p) (·.feed 0 t ⟨f.tag.toNat, s.addr (R.STA_TAP_LO j k) (R.STA_TAP_HI j k) + tp.slot * size,
    i.h * pitch, i.w * i.n, i.h, pitch, tp.slot, f.bad || !tp.used || tp.bad || tp.trunc, false, none⟩)

/-- An end-of-frame beat reaches statistics tile `t` (R156, R161, R162). -/
def State.statsFrameEnd (s : State) (t fits : Nat) : State :=
  match s.brewOfTile t with
  | none => s
  | some b =>
    match s.endingAt b t with
    | none => s
    | some f =>
      let i := (tileIn s.cfg b f t).pic
      let valid := s.statsValid b f t
      let q := s.tap t ((s.cfg.portOf t).getD 0) fits f ⟨f.par, f.tabs⟩ i
      let s := (q.2.setSta t (s.staPend t ++ [s.statsRecord b f t q.1])).tapFeed f t i q.1
      let s := if valid then s else (s.bump (F.STA_STAT.INVALID (t - 26) f.ctx)).dropUnit t 4 rowStats f.tag
      s.sinkDone b f t

def execStatsFrameEnd (t : Fin 4) (fits : Nat) (s : State) : Host.Outcome State Fault Refusal :=
  s.running (s.statsFrameEnd (26 + t.val) fits)

/-- The oldest record that waits is written (R163). The records of both contexts go to one ring, that of context 0 (R164). -/
def State.statsRecordWritten (s : State) (t : Nat) : State :=
  match s.staPend t with
  | [] => s
  | x :: r =>
    let j := t - 26
    (s.setSta t r).resultRecord (portReq t ((s.cfg.portOf t).getD 0) (some x.tag.toNat))
      (s.addr (R.STA_REC_LO j 0) (R.STA_REC_HI j 0)) (s.get (F.STA_REC_CTL.LOG2CNT j 0)) (F.STA_REC_CTL.WIDX j 0) 0 x

def execStatsRecordWritten (t : Fin 4) (s : State) : Host.Outcome State Fault Refusal := s.running (s.statsRecordWritten (26 + t.val))

/-! ### The B queue (R215, R216) -/

def anaInit : AnaRun := ⟨[], [], []⟩
def State.anaRun (s : State) (t : Nat) : AnaRun := sget anaInit s.ana t
def State.setAna (s : State) (t : Nat) (x : AnaRun) : State := { s with ana := sset anaInit s.ana t x }

/-- An access of analysis tile `t` for context `k` (R232). -/
def State.anaReq (s : State) (t k : Nat) (lost : Option Nat) : Req := portReq t (mport (s.get (F.ANA_BQ_CTL.MPORT (t - 36) k))) lost

/-- The frame that reaches the second input of tile `t` at its end, with its brew and stream. -/
def State.endingB (s : State) (t : Nat) : Option (BrewRec × Frame × Nat) :=
  match s.cfg.feeds t 1 with
  | none => none
  | some u => (s.brewOfTile u).bind (fun b =>
      ((s.brew b.brew).flow.find? (fun f => !f.doneAt.contains (100 + t))).map (fun f => (b, f, u)))

/-- Slots of the B queue that are held. -/
def AnaRun.heldSlots (x : AnaRun) : List Nat := x.bq.map (·.slot)

/-- A B slot that an A frame reads. -/
def AnaRun.reads (x : AnaRun) (slot : Nat) : Bool := x.cur.any (fun a => a.slot == some slot)

/-- A frame arriving on input B is written to the B queue (R215, R216). -/
def State.bFrameStore (s : State) (t : Nat) : State :=
  match s.endingB t with
  | none => s
  | some (b, f, u) =>
    let j := t - 36
    let s1 := s.sinkDone b f (100 + t)
    if s.onCur (F.ANA_CFG.B_SRC j 0) ∨ 2 ≤ s.getCur (F.ANA_MATCH.MODE j 0) then s1 else
      let i := (tileOut s.cfg b f 48 u).pic
      let fp := s.on (F.ANA_BQ_CTL.ENC j 0)
      let pitch := tapPitch i.w i.n fp
      let size := s.get (F.ANA_BQ_CTL.SLOT j 0) * 65536
      if size < i.h * pitch then s1.bump (F.ANA_STAT2.B_DROPS j 0) else
        let depth := s.get (F.ANA_BQ_CTL.QDEPTH j 0) + 1
        let x := s.anaRun t
        let full := decide (depth ≤ x.bq.length)
        let victim := x.bq.find? (fun e => !x.reads e.slot)
        match full, victim with
        | true, none => s1.bump (F.ANA_STAT2.B_DROPS j 0)
        | _, _ =>
          let (s1, x) := if full then
              (s1.bump (F.ANA_STAT2.B_DROPS j 0), { x with bq := x.bq.filter (fun e => some e != victim) })
            else (s1, x)
          match freeSlot x.heldSlots depth with
          | none => s1
          | some slot =>
            let scale := sint (s.getCur (F.ANA_CFG.SCALE j 0)) 5
            let bad := f.bad
            let base := s.addr (R.ANA_BQ_LO j 0) (R.ANA_BQ_HI j 0) + slot * size
            let (n, s1) := if bad then (i.h, s1) else s1.writeLines (s.anaReq t 0 none) pitch base (i.rows.map (rowBytes fp scale))
            s1.setAna t { x with bq := x.bq ++ [⟨slot, f.tag, i.w, i.h, i.n, bad || decide (n < i.h)⟩] }

def execBFrameStore (t : Fin 4) (s : State) : Host.Outcome State Fault Refusal := s.running (s.bFrameStore (36 + t.val))

/-! ### Pairing (R217 to R221) -/

/-- The A frame at an analysis tile that waits for its partner. -/
def AnaRun.waitingA (x : AnaRun) : Option AnaCur := x.cur.find? (fun a => !a.decided)

/-- The flags of a record that the pairing sets (Table 9.1). -/
def anaUnmatched : Nat := 8
def anaBDropped : Nat := 16
def anaMismatch : Nat := 32
def anaStatic : Nat := 64

/-- The pairing of the A frame `a` at tile `t` is decided: its partner's picture goes with the frame. -/
def State.decidePair (s : State) (t : Nat) (a : AnaCur) (pick : Option Pic) : State :=
  let x := s.anaRun t
  let s := s.setAna t { x with cur := x.cur.map (fun c => if c.tag = a.tag then a else c) }
  let s := s.when (a.flags &&& (anaUnmatched + anaBDropped + anaMismatch) != 0) (·.bump (F.ANA_STAT.UNMATCHED (t - 36) a.ctx))
  match s.brewOfTile t with
  | none => s
  | some b => match (s.inBrew b).find? (fun f => f.tag == a.tag) with
    | none => s
    | some f => s.putFlow b { f with picks := sset none f.picks t pick }

/-- The A frame is paired with entry `e` of the B queue; the flags name why a partner is unusable (R221). -/
def State.pairWith (s : State) (t : Nat) (a : AnaCur) (e : BEntry) : State :=
  let j := t - 36
  let a := { a with decided := true, slot := some e.slot, tagB := e.tag.toNat }
  let dims : Nat × Nat × Nat := match s.brewOfTile t with
    | none => (0, 0, 0)
    | some b => match (s.inBrew b).find? (fun f => f.tag == a.tag) with
      | none => (0, 0, 0)
      | some f => dimsIn s.cfg f t
  if dims ≠ (e.w, e.h, e.n) then s.decidePair t { a with flags := a.flags + anaMismatch } none
  else if e.dropped then s.decidePair t { a with flags := a.flags + anaBDropped } none
  else
    let fp := s.on (F.ANA_BQ_CTL.ENC j 0)
    let scale := sint (s.getCur (F.ANA_CFG.SCALE j 0)) 5
    let pitch := tapPitch e.w e.n fp
    let base := s.addr (R.ANA_BQ_LO j 0) (R.ANA_BQ_HI j 0) + e.slot * (s.get (F.ANA_BQ_CTL.SLOT j 0) * 65536)
    match s.readLines (s.anaReq t 0 none) pitch (e.w * e.n * encBytes fp) base e.h with
    | (some l, s) => s.decidePair t a (some ⟨e.w, e.h, e.n, l.map (rowOfBytes fp scale e.w e.n)⟩)
    | (none, s) => s.decidePair t { a with flags := a.flags + anaBDropped } none

/-- The static reference frame (R219). -/
def State.staticRef (s : State) (t : Nat) (f : Frame) (a : AnaCur) : State :=
  let j := t - 36
  let k := f.ctx
  let p : Par := ⟨f.par, f.tabs⟩
  let fmt := p.get (F.ANA_REF_FMT.FORMAT j k)
  let w := p.get (F.ANA_REF_SIZE.WIDTH j k)
  let h := p.get (F.ANA_REF_SIZE.HEIGHT j k)
  let pitch := 64 * p.get (F.ANA_REF_FMT.PITCH j k)
  let a := { a with decided := true, flags := a.flags + anaStatic }
  if dimsIn s.cfg f t ≠ (w, h, formatComps fmt) then s.decidePair t { a with flags := a.flags + anaMismatch } none
  else match s.readLines (s.anaReq t k none) pitch (formatRowBytes fmt w) (p.addr (R.ANA_REF_LO j k) (R.ANA_REF_HI j k)) h with
    | (some l, s) => s.decidePair t a (some ⟨w, h, formatComps fmt, l.map (formatRow fmt w)⟩)
    | (none, s) => s.decidePair t { a with flags := a.flags + anaBDropped } none

/-- A − B as a signed 44-bit difference. -/
def seqDiff (a b : BitVec 44) : Int := sint (a - b).toNat 44

/-- The partner's sequence number in MODE 0. -/
def State.wantedSeq (s : State) (t : Nat) (a : AnaCur) : BitVec 44 :=
  a.tag.seq + (BitVec.ofNat 16 (s.getCur (F.ANA_MATCH.OFFSET (t - 36) a.ctx))).signExtend 44

/-- The A frame is unmatched. -/
def State.unmatched (s : State) (t : Nat) (a : AnaCur) : State :=
  s.decidePair t { a with decided := true, flags := a.flags + anaUnmatched } none

/-- The frames on input B of tile `t` that have started and are not yet whole in the queue, oldest first. -/
def State.startedB (s : State) (t : Nat) : List Frame :=
  match s.cfg.feeds t 1 with
  | none => []
  | some u =>
    if s.onCur (F.ANA_CFG.B_SRC (t - 36) 0) then [] else
      match s.brewOfTile u with
      | none => []
      | some b => (s.inBrew b).filter (fun f => !f.doneAt.contains (100 + t))

/-- The A frame `a` waits for the B frame `f`, which has begun and is its partner (R217). -/
def State.chooseB (s : State) (t : Nat) (a : AnaCur) (f : Frame) : State :=
  let x := s.anaRun t
  s.setAna t { x with cur := x.cur.map (fun c => if c.tag = a.tag then { c with chosen := some f.tag } else c) }

/-- A partner chosen when it began: it is taken once it stands in the queue; one that no longer comes leaves the frame unmatched. -/
def State.pairChosen (s : State) (t : Nat) (a : AnaCur) (tag : FrameTag) : State :=
  let x := s.anaRun t
  match x.bq.find? (fun e => e.tag == tag && !x.reads e.slot) with
  | some e => s.pairWith t a e
  | none => if (s.startedB t).any (fun f => f.tag == tag) then s else s.unmatched t a

/-- MODE 0: entries below the wanted number go; then the one of that number, queued or begun; one above it ends the wait (R217). -/
def State.pairInOrder (s : State) (t : Nat) (a : AnaCur) (last : Bool) : State :=
  let x := s.anaRun t
  let want := s.wantedSeq t a
  let started := s.startedB t
  let low := x.bq.filter (fun e => decide (seqDiff e.tag.seq want < 0) && !x.reads e.slot)
  let s := (s.setAna t { x with bq := x.bq.filter (fun e => !low.contains e) }).bumpBy (F.ANA_STAT2.B_SKIPPED (t - 36) a.ctx) low.length
  match x.bq.find? (fun e => e.tag.seq == want && !x.reads e.slot) with
  | some e => s.pairWith t a e
  | none =>
    match started.find? (fun f => f.tag.seq == want) with
    | some f => s.chooseB t a f
    | none =>
      if last || x.bq.any (fun e => decide (0 < seqDiff e.tag.seq want)) || started.any (fun f => decide (0 < seqDiff f.tag.seq want)) then
        s.unmatched t a
      else s

/-- MODE 1: the oldest B frame that nothing reads, queued or begun (R217). -/
def State.pairOldest (s : State) (t : Nat) (a : AnaCur) (last : Bool) : State :=
  let x := s.anaRun t
  match x.bq.find? (fun e => !x.reads e.slot) with
  | some e => s.pairWith t a e
  | none =>
    match (s.startedB t).head? with
    | some f => s.chooseB t a f
    | none => if last then s.unmatched t a else s

/-- An A frame selects its partner, when one has started (R217); it is paired with it when the partner's lines are in the queue
(R218). `final` ends the wait. -/
def State.tryPair (s : State) (t : Nat) (final : Bool) : State :=
  match (s.anaRun t).waitingA with
  | none => s
  | some a =>
    let last := final || s.getCur (F.ANA_MATCH.WAIT_US (t - 36) a.ctx) == 0
    match a.chosen with
    | some tag => s.pairChosen t a tag
    | none => if s.getCur (F.ANA_MATCH.MODE (t - 36) a.ctx) = 0 then s.pairInOrder t a last else s.pairOldest t a last

def execAnalysisPairing (t : Fin 4) (s : State) : Host.Outcome State Fault Refusal := s.running (s.tryPair (36 + t.val) false)

def execAnalysisWaitTimeout (t : Fin 4) (s : State) : Host.Outcome State Fault Refusal := s.running (s.tryPair (36 + t.val) true)

/-- A start-of-frame beat of an A frame reaches an analysis tile. -/
def State.anaSof (s : State) (t : Nat) (f : Frame) : State :=
  let j := t - 36
  let x := s.anaRun t
  let a : AnaCur := ⟨f.tag, f.ctx, false, none, 0, 0, none⟩
  let s := s.setAna t { x with cur := x.cur ++ [a] }
  if 2 ≤ s.getCur (F.ANA_MATCH.MODE j f.ctx) then s.decidePair t { a with decided := true } none
  else if s.onCur (F.ANA_CFG.B_SRC j f.ctx) then s.staticRef t f a
  else s

/-! ### Analysis records (R222 to R231) -/

/-- The SDI status kept for a frame (R228): sources ING2 and ING3 with SRCSEL = 0. -/
def State.sdiStatus (s : State) (f : Frame) : Option SdiFrame :=
  if (f.tile = 2 ∨ f.tile = 3) ∧ !s.onCur (F.ING_CFG.SRCSEL f.tile (s.ingCtx f.tile)) then
    let m := s.getCur (F.ING_CFG.SDI_IN f.tile (s.ingCtx f.tile))
    ((sget sdiInInit s.sdiIn m).kept.find? (fun k => k.seq == f.tag.seq && k.tile == f.tile)).map
      (fun k => ⟨m, k.flags, k.crcErr, k.pid, k.tc⟩)
  else none

/-- The measures of a frame are taken: it is whole and no record of its context waits above it (R230, R231). -/
def State.anaMeasured (s : State) (f : Frame) (t : Nat) : Bool := !f.bad && !(s.anaRun t).pend.any (fun r => r.ctx == f.ctx)

/-- A record is valid: measured, with a partner (R231). -/
def State.anaValid (s : State) (f : Frame) (t : Nat) (a : AnaCur) : Bool :=
  s.anaMeasured f t && !(a.flags &&& (anaUnmatched + anaBDropped + anaMismatch) != 0)

/-- The record of a frame with its partner (Table 9.1): the header, the body of its measures, and its line CRCs. -/
def State.anaRecord (s : State) (b : BrewRec) (f : Frame) (t : Nat) (a : AnaCur) : PendRec :=
  let c := s.cfg
  let j := t - 36
  let k := f.ctx
  let p : Par := ⟨f.par, f.tabs⟩
  let i := tileIn c b f t
  let scale := sint (p.get (F.ANA_CFG.SCALE j k)) 5
  let partner := sget none f.picks t
  let measured := s.anaMeasured f t
  let sdi := if measured then s.sdiStatus f else none
  let fp := p.on (F.ANA_CFG.CRC_ENC j k)
  let crcOf (q : Pic) : Nat := crc32c (crcSerial fp scale q.rows)
  let cmp := if measured && p.on (F.ANA_CFG.CMP_EN j k) then partner.map (fun q => comparePics scale (p.get (F.ANA_THR.THR j k)) i.pic q) else none
  let crcOn := measured && p.on (F.ANA_CFG.CRC_EN j k)
  let (w, h, n) := dimsIn c f t
  let flags := flagIf (s.anaValid f t a) 0 + flagIf f.bad 1 + flagIf ((s.anaRun t).pend.any (fun r => r.ctx == k)) 2 + a.flags +
    flagIf (k == 1) 7 + flagIf sdi.isSome 8
  let header := withCrc (leBytes 8 f.tag.toNat ++ leBytes 8 a.tagB ++ leBytes 2 flags ++ leBytes 1 t ++ leBytes 1 b.brew ++
    leBytes 2 f.commits ++ leBytes 2 w ++ leBytes 2 h ++ leBytes 1 n ++ leBytes 1 (twos scale 8) ++
    leBytes 4 (if crcOn then crcOf i.pic else 0) ++
    leBytes 4 (match crcOn, partner with | true, some q => crcOf q | _, _ => 0) ++
    leBytes 4 ((cmp.map (·.bitdiff)).getD 0) ++ leBytes 4 ((cmp.map (·.overthr)).getD 0) ++
    leBytes 2 ((cmp.map (·.first.1)).getD 0) ++ leBytes 2 ((cmp.map (·.first.2)).getD 0))
  let compare : List (Nat × List Byte) := match cmp with
    | none => []
    | some q => (List.range i.pic.n).map (fun e => (0x40 + 16 * e, leBytes 8 (q.sse.getD e 0) ++ leBytes 2 (q.maxdiff.getD e 0) ++
        leBytes 2 (psnr (p.get (F.ANA_THR.PEAK j k)) (w * h) (q.sse.getD e 0)) ++ zeros 4))
  let lineCrcs (o : Nat) (q : Pic) : List (Nat × List Byte) := [(o, q.rows.flatMap (fun r => leBytes 4 (crc32c (rowBytes fp scale r))))]
  let lines : List (Nat × List Byte) := if measured && p.on (F.ANA_CFG.LCRC_EN j k) then
      lineCrcs 0 i.pic ++ (match partner with | some q => lineCrcs 65536 q | none => [])
    else []
  let body := if measured then compare ++ [(0xC0, zeros 64)] ++ legalSdi p j k i.pic sdi ++ anaBodyA p (c.mosaicAt b.brew k) i.mOk t k i.pic else []
  ⟨f.tag, k, body, header, lines⟩

/-- The record of an A frame at its end, and the release of its partner (R217, R230, R231). -/
def State.analysisFrameEnd (s : State) (t : Nat) : State :=
  match s.brewOfTile t with
  | none => s
  | some b =>
    let x := s.anaRun t
    match (s.endingAt b t).bind (fun f => (x.cur.find? (fun a => a.tag == f.tag && a.decided)).map (fun a => (f, a))) with
    | none => s
    | some (f, a) =>
      let valid := s.anaValid f t a
      let s := s.setAna t { x with
        bq := x.bq.filter (fun e => a.slot != some e.slot), cur := x.cur.filter (fun c => c.tag != a.tag)
        pend := x.pend ++ [s.anaRecord b f t a] }
      let s := if valid then s else (s.bump (F.ANA_STAT.INVALID (t - 36) f.ctx)).dropUnit t 4 rowAnalysis f.tag
      s.sinkDone b f t

def execAnalysisFrameEnd (t : Fin 4) (s : State) : Host.Outcome State Fault Refusal := s.running (s.analysisFrameEnd (36 + t.val))

/-- The oldest record that waits is written (R230); both contexts have one ring (R164, R220). -/
def State.analysisRecordWritten (s : State) (t : Nat) : State :=
  let x := s.anaRun t
  match x.pend with
  | [] => s
  | r :: rest =>
    let j := t - 36
    (s.setAna t { x with pend := rest }).resultRecord (s.anaReq t r.ctx (some r.tag.toNat)) (s.addr (R.ANA_REC_LO j 0) (R.ANA_REC_HI j 0))
      (s.get (F.ANA_REC_CTL.LOG2CNT j 0)) (F.ANA_REC_CTL.WIDX j 0) (s.addr (R.ANA_LCRC_LO j 0) (R.ANA_LCRC_HI j 0)) r

def execAnalysisRecordWritten (t : Fin 4) (s : State) : Host.Outcome State Fault Refusal := s.running (s.analysisRecordWritten (36 + t.val))

/-! ### Compose slots (R240, R241) -/

def cmxInit : CmxRun := ⟨.none, none⟩
def State.cmxRun (s : State) (t : Nat) : CmxRun := sget cmxInit s.cmx t
def State.setCmx (s : State) (t : Nat) (x : CmxRun) : State := { s with cmx := sset cmxInit s.cmx t x }
def State.cmxReq (s : State) (t k : Nat) : Req := portReq t (mport (s.get (F.CMX_BBUF_CTL.MPORT (t - 40) k))) none

def State.cmxBase (s : State) (t slot : Nat) : Nat :=
  s.addr (R.CMX_BBUF_LO (t - 40) 0) (R.CMX_BBUF_HI (t - 40) 0) + slot * (s.get (F.CMX_BBUF_CTL.SLOT (t - 40) 0) * 65536)

/-- A B frame is stored into the slot that is neither being read nor holds the latest frame. One that its brew ended
as a drop unit is not complete, nor is one whose write failed. -/
def State.cmxBFrameStore (s : State) (t : Nat) : State :=
  match s.endingB t with
  | none => s
  | some (b, f, u) =>
    let s1 := s.sinkDone b f (100 + t)
    if f.bad || s.held b.brew then s1 else
      let i := (tileOut s.cfg b f 48 u).pic
      let x := s.cmxRun t
      let pitch := tapPitch i.w i.n true
      if s.get (F.CMX_BBUF_CTL.SLOT (t - 40) 0) * 65536 < i.h * pitch then
        (s1.setCmx t { x with latest := .tooLarge }).bump (F.CMX_STAT.B_LOST (t - 40) 0)
      else
        let latest := match x.latest with | .slot k _ _ _ => some k | _ => none
        let slot := ((List.range 3).find? (fun k => x.reading != some k && latest != some k)).getD 0
        let (n, s1) := s1.writeLines (s.cmxReq t 0) pitch (s.cmxBase t slot) (i.rows.map (rowBytes true 0))
        if n = i.h then s1.setCmx t { x with latest := .slot slot i.w i.h i.n } else s1

def execCmxBFrameStore (t : Fin 4) (s : State) : Host.Outcome State Fault Refusal := s.running (s.cmxBFrameStore (40 + t.val))

/-- The A frame becomes a drop unit at compose tile `t` (R241). -/
def State.cmxDrop (s : State) (b : BrewRec) (t : Nat) (f : Frame) : State :=
  ((s.putFlow b { f with badAt := f.badAt ++ [t] }).bump (F.CMX_STAT.A_DROPS (t - 40) f.ctx)).dropUnit t 4 rowBrew f.tag

/-- An A frame takes its overlay at its start-of-frame beat (R240, R241, R63). -/
def State.cmxSof (s : State) (b : BrewRec) (t : Nat) (f : Frame) : State :=
  let j := t - 40
  let k := f.ctx
  let p : Par := ⟨f.par, f.tabs⟩
  let x := s.cmxRun t
  let take (s : State) (i : Pic) : State := s.putFlow b { f with picks := sset none f.picks t (some i) }
  match p.get (F.CMX_CFG.BSRC j k) with
  | 0 => match x.latest with
    | .none => s
    | .invalid => s.cmxDrop b t f
    | .tooLarge => s.cmxDrop b t f
    | .slot slot w h n =>
      let s := s.setCmx t { x with reading := some slot }
      match s.readLines (s.cmxReq t 0) (tapPitch w n true) (4 * w * n) (s.cmxBase t slot) h with
      | (some l, s) => take s ⟨w, h, n, l.map (rowOfBytes true 0 w n)⟩
      | (none, s) => s.cmxDrop b t f
  | 1 =>
    let w := p.get (F.CMX_OVL_SIZE.W j k)
    let h := p.get (F.CMX_OVL_SIZE.H j k)
    let fp := p.on (F.CMX_CFG.OFMT j k)
    match s.readLines (s.cmxReq t k) (64 * p.get (F.CMX_OVL_FMT.PITCH j k)) ((if fp then 16 else 4) * w) (p.addr (R.CMX_OVL_LO j k) (R.CMX_OVL_HI j k)) h with
    | (some l, s) =>
      take s ⟨w, h, 4, l.map (fun r => if fp then rowOfBytes true 0 w 4 r else
        (List.range w).map (fun x => (List.range 4).map (fun c => field r (4 * x + c) 1)))⟩
    | (none, s) => s.cmxDrop b t f
  | _ => s

/-! ### Output pack (R244, R245) -/

def opkInit : OpkRun := ⟨0, 0, [], none, 0⟩
def State.opkRun (s : State) (t : Nat) : OpkRun := sget opkInit s.opk t
def State.setOpk (s : State) (t : Nat) (x : OpkRun) : State := { s with opk := sset opkInit s.opk t x }

/-- The output pack tile whose slots SDI output `n` takes. -/
def State.sdiSource (s : State) (n : Nat) : Nat := 44 + s.get (F.SDI_OUT_CFG.OPK n)

/-- A slot of output pack tile `t` that an SDI framer reads or a codec context holds (R274). -/
def State.slotHeldBy (s : State) (t k : Nat) : Bool :=
  s.streamHolds t k ||
  s.sdiOut.any (fun e => s.sdiSource e.1 == t && e.2.hold == some k) ||
  s.vce.any (fun e => e.2.d 7 1 + 44 == t && !e.2.decodes &&
    (e.2.offers.any (fun q => q.slot == k) || e.2.cands.any (fun q => q.2.slot == k) ||
      (match e.2.pic with | some r => r.input.any (fun q => q.slot == k) | none => false)))

/-- The next slot of context `c` that is not held. -/
def State.opkSlot (s : State) (t c : Nat) : Option Nat :=
  let n := s.get (F.OPK_BUF_CTL.COUNT (t - 44) c) + 1
  let x := s.opkRun t
  ((List.range n).map (fun i => ((if c = 0 then x.next else x.next1) + i) % n + 4 * c)).find? (fun k => !s.slotHeldBy t k)

/-- A frame is written into a slot of its context, or dropped (R244, R141). -/
def State.opkFrameWrite (s : State) (t : Nat) : State :=
  match s.brewOfTile t with
  | none => s
  | some b =>
    match s.endingAt b t, s.cfg.portOf t with
    | some f, some port =>
      let c := s.cfg
      let j := t - 44
      let p : Par := ⟨f.par, f.tabs⟩
      let i := tileIn c b f t
      let k := packOf p t f.ctx
      let pitch := packPitch k i.pic.w
      let lines := packBytes k i.pic
      let x := s.opkRun t
      let size := s.get (F.OPK_BUF_CTL.SLOT j f.ctx) * 65536
      let n := s.get (F.OPK_BUF_CTL.COUNT j f.ctx) + 1
      let made (slot : Nat) (valid : Bool) : OpkSlot :=
        { slot := slot, tag := f.tag, valid := valid, w := i.pic.w, h := i.pic.h, fmt := k.fmt, depth := k.n
          flags := flagIf valid 0 + flagIf (!k.narrow) 1 + flagIf k.ycc 2, space := i.space, transfer := i.transfer
          addr := s.addr (R.OPK_BUF_LO j f.ctx) (R.OPK_BUF_HI j f.ctx) + slot % 4 * size, pitch := pitch }
      let drop (s : State) : State :=
        ((s.setOpk t { x with pend := x.pend ++ [made (4 * f.ctx) false] }).bump (F.OPK_STAT.DROPS j f.ctx)).dropUnit t 4 rowBrew f.tag
      let s := if f.bad then s.setOpk t { x with pend := x.pend ++ [made (4 * f.ctx) false] } else
        match s.opkSlot t f.ctx with
        | none => drop s
        | some slot =>
          if size < pitch * lines.length then drop s else
            let (done, s) := s.writeLines (portReq t port none) pitch (made slot true).addr lines
            if done < lines.length then drop (s.setOpk t x)
            else
              let nx := (slot % 4 + 1) % n
              s.setOpk t { x with next := if f.ctx = 0 then nx else x.next, next1 := if f.ctx = 0 then x.next1 else nx
                                  pend := x.pend ++ [made slot true] }
      s.sinkDone b f t
    | _, _ => s

def execOpkFrameWrite (t : Fin 4) (s : State) : Host.Outcome State Fault Refusal := s.running (s.opkFrameWrite (44 + t.val))

/-- A buffer record (Table 10.2). -/
def OpkSlot.record (k : OpkSlot) : List Byte :=
  withCrc (leBytes 8 k.tag.toNat ++ leBytes 8 k.addr ++ leBytes 4 k.pitch ++ leBytes 2 k.w ++ leBytes 2 k.h ++ leBytes 1 k.fmt ++
    leBytes 1 k.depth ++ leBytes 1 k.flags ++ leBytes 1 (k.slot % 4) ++ leBytes 1 k.space ++ leBytes 1 k.transfer)

/-- A record is offered to every open encode context bound to the tile (R274). -/
def State.offer (s : State) (t : Nat) (k : OpkSlot) : State :=
  (List.range 32).foldl (fun s n =>
    let x := s.vceC n
    if s.vceState n ≠ 0 ∧ !x.decodes ∧ !x.closing ∧ x.d 7 1 + 44 = t then s.setVce n { x with offers := x.offers ++ [k] } else s) s

/-- The oldest buffer record that waits is written to the ring of its context (R245, R141). -/
def State.opkBufferRecord (s : State) (t : Nat) : State :=
  let x := s.opkRun t
  match x.pend with
  | [] => s
  | k :: rest =>
    let j := t - 44
    let c := k.slot / 4
    let s := s.setOpk t { x with pend := rest }
    match s.ringRecord (portReq t ((s.cfg.portOf t).getD 0) (some k.tag.toNat)) (s.addr (R.OPK_REC_LO j c) (R.OPK_REC_HI j c)) 64
        (ringSize (s.get (F.OPK_REC_CTL.LOG2CNT j c)) 4 16) (F.OPK_REC_CTL.WIDX j c) k.record with
    | (false, s) => s
    | (true, s) =>
      let rows := if k.fmt = 3 then k.h + (k.h + 1) / 2 else k.h
      let s := s.feed 4 t ⟨k.tag.toNat, k.addr, rows * k.pitch, k.w, k.h, k.pitch, if k.valid then k.slot else 256, !k.valid, false, none⟩
      if !k.valid then s else
        let x := s.opkRun t
        ((s.setOpk t { x with latest := some k, count := x.count + 1 }).put (F.OPK_STAT.LAST j c) (k.slot % 4)).offer t k

def execOpkBufferRecord (t : Fin 4) (s : State) : Host.Outcome State Fault Refusal := s.running (s.opkBufferRecord (44 + t.val))

/-! ### Start-of-frame and end-of-frame beats -/

/-- The exposure watch of R204: the sample of this beat, and the one the frame uses. Samples are taken while EN = 1. -/
def State.synSof (s : State) (b : BrewRec) (t : Nat) (f : Frame) : State :=
  let j := t - 30
  let p : Par := ⟨f.par, f.tabs⟩
  let k := f.ctx
  if !p.on (F.SYN_XGW.EN j k) then { s with synW := sset [] s.synW t [] } else
    let w := (s.tfileWord (p.get (F.SYN_XGW.PORT j k)) (p.get (F.SYN_XGW.ADDR j k))).toNat
    let l := (w :: sget [] s.synW t).take 4
    let s := { s with synW := sset [] s.synW t l }
    let n := p.get (F.SYN_XGW.LAT j k)
    s.putFlow b { f with watch := sset 0 f.watch t (l.getD (min n (l.length - 1)) 0) }

/-- A frame that reaches a transmit half that is not up is discarded (R212), and counted when nothing has dropped it (R35). -/
def State.opkSof (s : State) (b : BrewRec) (t : Nat) (f : Frame) : State :=
  match s.cfg.txOf t with
  | none => s
  | some h =>
    if s.get (F.SLK_STAT.TX_STATE h) = 4 then s
    else (s.when (!f.bad) (·.dropUnit t 4 rowBrew f.tag)).sinkDone b f t

/-- A start-of-frame beat reaches a tile, which switches to the set latched for the frame (R144). -/
def State.tileSofArrive (s : State) (t : Nat) : State :=
  match s.brewOfTile t with
  | none => s
  | some b =>
    match (s.inBrew b).find? (fun f => !f.sofAt.contains t) with
    | none => s
    | some f =>
      let f := { f with sofAt := f.sofAt ++ [t] }
      let s := (s.putFlow b f).switchTile t f.ctx f.par
      match tileKind t with
      | .syn => s.synSof b t f
      | .ana => s.anaSof t f
      | .cmx => s.cmxSof b t f
      | .opk => s.opkSof b t f
      | _ => s

def execTileSofArrive (t : Fin 48) (s : State) : Host.Outcome State Fault Refusal := s.running (s.tileSofArrive t.val)

/-- What the tiles of a brew count for a frame: corrections, special values, fill positions, clamps. -/
def State.countTile (s : State) (b : BrewRec) (f : Frame) (t : Nat) : State :=
  let c := s.cfg
  let p : Par := ⟨f.par, f.tabs⟩
  let k := f.ctx
  let i := (tileIn c b f t).pic
  match tileKind t with
  | .rwc =>
    let (_, st, dy) := rawCorrect p (c.mosaicAt b.brew k) t k i
    (s.bumpBy (F.RWC_STAT.STATIC (t - 4) k) st).bumpBy (F.RWC_STAT.DYNAMIC (t - 4) k) dy
  | .col =>
    let (na, inf) := specials (colour p t k i)
    (s.bumpBy (F.COL_STAT.NANS (t - 12) k) na).bumpBy (F.COL_STAT.INFS (t - 12) k) inf
  | .geo => s.bumpBy (F.GEO_STAT.FILLED (t - 20) k) (geometry p t k i).2
  | .syn =>
    let (_, cl, de) := synthesise p (c.mosaicAt b.brew k) t k f.tag (sget 0 f.watch t) i
    (s.bumpBy (F.SYN_STAT.CLIPS (t - 30) k) cl).bumpBy (F.SYN_STAT.DEFECTS (t - 30) k) de
  | _ => s

/-- The frame whose end-of-frame beat leaves the root next: emitted and complete. -/
def State.endingAtRoot (s : State) (b : BrewRec) : Option Frame :=
  let ok (f : Frame) : Bool := f.emitted && f.closed && (!b.striped || decide (f.h ≤ f.taken))
  if b.striped then (b.sources.filterMap s.headOf).find? ok
  else (s.currentFrame b).filter ok

/-- The frame stands at transmit half `p`, reached through output pack tile `t`, and its exposure has not started. -/
def State.waitsAt (s : State) (p t : Nat) (f : Frame) : Bool :=
  let x := s.txH p
  f.sofAt.contains t && !f.doneAt.contains t && !x.exposed.any (fun e => e.1 == f.tag) && !x.cur.any (fun c => c.tag == f.tag)

/-- A frame that waits at an up transmit half for a VSYNC edge holds its brew (R208, R17). -/
def State.edgeHolds (s : State) (bn : Nat) (f : Frame) : Bool :=
  (s.cfg.tilesOf bn).any (fun t => tileKind t == .opk && (match s.cfg.txOf t with
    | some p => s.get (F.SLK_STAT.TX_STATE p) == 4 && s.on (F.SLK_EMU.FOLLOW p) && s.waitsAt p t f
    | none => false))

/-- A frame's end-of-frame beat leaves the brew root (R132): its slot is freed, its record is written, and it goes on
through the tiles. An analysis tile of the brew that waits for a partner stalls it (R218). -/
def State.frameEndAtRoot (s : State) (bn : Nat) : State :=
  match s.brewRec bn with
  | none => s
  | some b =>
    match s.endingAtRoot b with
    | none => s
    | some f =>
      if s.edgeHolds bn f || (s.cfg.tilesOf bn).any (fun t => tileKind t == .ana && (s.anaRun t).cur.any (fun a => a.tag == f.tag && !a.decided)) then s else
        let (f, s) := if tileKind f.tile = .pat then (f, s) else s.readSlot b f f.h
        let s := s.mapFrames f.tile (fun l => l.filter (fun g => g.tag != f.tag))
        let r := s.brew bn
        let s := s.setBrew bn { r with sel := if r.sel = some f.tile then none else r.sel, flow := r.flow ++ [{ f with slot := none }] }
        let s := (s.cfg.tilesOf bn).foldl (fun s t => if f.badFor s.cfg t then s else s.countTile b f t) s
        let s := (s.cfg.tilesOf bn).foldl (fun s t => if tileKind t = .cmx then s.setCmx t { s.cmxRun t with reading := none } else s) s
        let bad := f.bad
        let s := s.when (f.dropped && f.badAt.isEmpty) (·.dropUnit f.tile 4 rowBrew f.tag)
        let s := s.putFrameRecord f bn bad false
        if (s.cfg.sinks bn).isEmpty then
          let r := s.brew bn
          s.setBrew bn { r with flow := r.flow.filter (fun g => g.tag != f.tag) }
        else s

def execFrameEndAtRoot (b : Fin 16) (s : State) : Host.Outcome State Fault Refusal := s.running (s.frameEndAtRoot b.val)

end Sys2Proof.Machine
end

