-- ==== Sys2Proof/Machine/BrewCmds.lean ====
section
/-! DEFINITION. The commands of brews: commits, start-of-frame beats, arbitration, stripes, playback (R153),
pattern starts (R200 to R203), and the indexed site and coefficient memories (Tables 5.14, 7.17, 8.6). -/

namespace Sys2Proof.Machine

/-! ### Commits and frame order -/

/-- FAB_COMMIT (R71, R144, R145). -/
def wrFabCommit (src : Nat) (v : Word) (s : State) : State := s.commitWrite src (getBits v 3 0)

def execFabCommit (src : Nat) (v : Word) (s : State) : Host.Outcome State Fault Refusal :=
  s.running (s.guardWrite R.FAB_COMMIT (wrFabCommit src v))

/-- The fetches of a brew's pending commit complete (R144, R146). -/
def State.commitFetchDone (s : State) (bn : Nat) : State :=
  match s.brewRec bn with
  | none => s
  | some b => if s.bit F.FAB_COMMIT_PEND.PEND bn && !(s.brew bn).fetched then s.commitFetch b else s

def execCommitFetchDone (b : Fin 16) (s : State) : Host.Outcome State Fault Refusal := s.running (s.commitFetchDone b.val)

/-- A pattern frame has the size and components of the set latched for it (R201, R203). -/
def State.patternDims (s : State) (b : BrewRec) (f : Frame) : Frame :=
  if tileKind f.tile ≠ .pat then f else
    let p : Par := ⟨f.par, f.tabs⟩
    let j := f.tile - 34
    let w := p.get (F.PAT_SIZE.WIDTH j 0)
    let h := p.get (F.PAT_SIZE.HEIGHT j 0)
    let n := match p.get (F.PAT_CFG.COMPS j 0) with
      | 0 => if (s.cfg.mosaicOf b.brew 0).isSome then 1 else 3
      | 2 => 4
      | _ => 3
    { f with w := w, h := h, n := n }

/-- The brew root emits the start-of-frame beat of the frame it delivers (R144, R556). A brew in quiesce emits none
(R55), and a striped brew's beats leave at stripe boundaries. -/
def State.rootSofEmit (s : State) (bn : Nat) : State :=
  match s.brewRec bn with
  | none => s
  | some b =>
    if b.striped || s.held bn then s else
      match s.currentFrame b with
      | none => s
      | some f =>
        if f.emitted then s else
          let s := s.emitSof b f
          match (s.root f.tile).frames.find? (fun g => g.tag == f.tag) with
          | none => s
          | some g => s.updateFrame (s.patternDims b g)

def execRootSofEmit (b : Fin 16) (s : State) : Host.Outcome State Fault Refusal := s.running (s.rootSofEmit b.val)

def execQueueArbitration (b : Fin 16) (s : State) : Host.Outcome State Fault Refusal :=
  s.running (match s.brewRec b.val with
    | none => s
    | some r => s.arbitrate r)

def execStripeBoundary (b : Fin 16) (s : State) : Host.Outcome State Fault Refusal :=
  s.running (match s.brewRec b.val with
    | none => s
    | some r => s.stripeBoundary r)

/-! ### Playback (R153) -/

def playTiles (t : Nat) : Bool := t == 2 || t == 3

/-- ING_PB_WIDX, in ING2 and ING3 only; unimplemented in ING0 and ING1 (R5). -/
def wrIngPbWidx (t src : Nat) (v : Word) (s : State) : State :=
  if playTiles t then s.plainWrite src (R.ING_PB_WIDX t 0) v else s

def execPlaybackWidxWrite (t : Fin 4) (v : Word) (src : Nat) (s : State) : Host.Outcome State Fault Refusal :=
  s.running (s.guardWrite (R.ING_PB_WIDX t.val 0) (wrIngPbWidx t.val src v))

/-- The form Table 5.4 gives a descriptor. -/
def playbackOk (d : List Byte) : Bool :=
  decide (field d 0x10 1 ≤ 2) && field d 0x11 1 / 4 == 0 && field d 0 8 % 64 == 0 && field d 6 2 == 0 && field d 8 4 % 64 == 0 &&
  field d 0x14 4 == 0 && field d 0x1D 3 == 0

/-- A line of a playback frame as samples. -/
def playbackRow (fmt w : Nat) (l : List Byte) : List (List Nat) :=
  (List.range w).map (fun x =>
    match fmt with
    | 0 => [rnd (.fin ((field l (2 * x) 2 : Nat) : Rat))]
    | 1 => (List.range 3).map (fun c => rnd (.fin ((field l (6 * x + 2 * c) 2 : Nat) : Rat)))
    | _ => (List.range 3).map (fun c => field l (12 * x + 4 * c) 3))

def playbackBytes (fmt w : Nat) : Nat := w * (if fmt = 0 then 2 else if fmt = 1 then 6 else 12)

/-- The start that a descriptor gives its frame. -/
def State.playbackArrival (s : State) (t : Nat) (d : Option (List Byte)) : Arrival :=
  let now := s.time
  match d with
  | none => ⟨0, 0, 0, 0, 1, now, now, 3, none, some (s.get (F.ING_SGEN.INIT t (s.ingCtx t)))⟩
  | some d =>
    let fmt := field d 0x10 1
    let xs := if (field d 0x11 1).testBit 1 then timeOfNs (field d 0x18 8 % 2 ^ 40) else now
    ⟨0, field d 0xC 2, field d 0xE 2, if fmt < 2 then depthOf (s.getCur (F.ING_CFG.DEPTH t (s.ingCtx t))) else 0,
      if fmt = 0 then 1 else 3, now, xs, 3, none, some (field d 0x12 2)⟩

/-- The lines of a playback frame from line `y` on: one whose read fails is lost and replaced (R32, R128), and a pinned miss makes
the frame a drop unit (R34). -/
def State.playLines (s : State) (t fmt w pitch : Nat) : Nat → Nat → Nat → State
  | _, _, 0 => s
  | a, y, n + 1 =>
    (match s.engRead (rootReq t none) a (playbackBytes fmt w) with
      | (.ok b, s) => s.lineArrives t y (playbackRow fmt w b) true
      | (.error .pinnedMiss, s) =>
        let s := s.lineArrives t y (playbackRow fmt w (zeros (playbackBytes fmt w))) true
        match s.openFrame t with
        | some g => s.updateFrame { g with dropped := true }
        | none => s
      | (.error _, s) => s.lineLost t).playLines t fmt w pitch (a + pitch) (y + 1) n

/-- The frame of a good descriptor: its lines are read. -/
def State.playFrame (s : State) (t : Nat) (b : BrewRec) (f : Frame) (d : List Byte) : State :=
  let s := s.enterFrame b f
  match s.openFrame t with
  | none => s
  | some g =>
    if g.tag ≠ f.tag then s else
      let fmt := field d 0x10 1
      (s.playLines t fmt f.w (field d 8 4) (field d 0 8) 0 f.h).frameClose t

/-- A descriptor is taken: RIDX advances, the sequence number is consumed and the frame starts, all at once. -/
def State.playTake (s : State) (t : Nat) (b : BrewRec) (ctx : Nat) (d : Option (List Byte)) : State :=
  let a := s.playbackArrival t d
  let s := s.setRoot t { s.root t with pace := some (s.now, (a.w + 7) / 8 * a.h + 256) }
  let (f, s) := s.newFrame t ctx a (s.brew b.brew).commits
  match d with
  | none => (s.setRoot t { s.root t with again := none }).dropFrame f b.brew 3
  | some d =>
    if playbackOk d then
      (s.setRoot t { s.root t with again := if (field d 0x11 1).testBit 0 then some d else none }).playFrame t b f d
    else (s.setRoot t { s.root t with again := none }).dropFrame f b.brew 3

/-- FCLK cycles that fit in `d` nanoseconds at the effective rate (R30, R492). -/
def State.fclkCycles (s : State) (d : Nat) : Nat :=
  match s.get F.THM_STAT.THROT with
  | 0 => d * 6 / 5
  | 1 => d * 6 * (16 - s.get F.THM_STAT.SKIP) / 80
  | 2 => d * 6 / 10
  | _ => d * 6 / 20

/-- The next descriptor may be taken: the brew is free (R153), or a load holds it and the pace of the previous one has run out
(R62). -/
def State.playbackDue (s : State) (b : BrewRec) (t : Nat) : Bool :=
  if s.held b.brew then
    match (s.root t).pace with
    | none => true
    | some (at_, n) => decide (n ≤ s.fclkCycles (s.now - at_).toNat)
  else if b.striped then ((s.root t).frames.filter (fun f => !f.closed)).isEmpty
  else s.brewFree b

/-- The next playback descriptor, when it is due (R153). In stripe interleave every frame goes to the source's own slots (R140),
so the source is free when it writes none (DEDUCED, log 23). -/
def State.playbackStart (s : State) (t : Nat) : State :=
  match s.brewOfRoot t with
  | none => s
  | some (b, ctx) =>
    let c := s.ingCtx t
    if !(playTiles t && s.onCur (F.ING_CFG.SRCSEL t c) && s.onCur (F.ING_CFG.ENABLE t c) && s.playbackDue b t) then s else
      let n := ringSize (s.get (F.ING_PB_CTL.LOG2CNT t c)) 1 12
      let i := s.get (F.ING_PB_CTL.RIDX t c) % n
      if i = s.get (F.ING_PB_WIDX.WIDX t c) % n then
        match (s.root t).again with
        | none => s
        | some d => s.playTake t b ctx (some d)
      else
        let adv (s : State) : State := s.put (F.ING_PB_CTL.RIDX t c) ((i + 1) % n)
        match s.engRead (rootReq t none) (s.addr (R.ING_PB_LO t c) (R.ING_PB_HI t c) + 32 * i) 32 with
        | (.error _, s) => (adv s).playTake t b ctx none
        | (.ok d, s') =>
          if (field d 0x11 1).testBit 1 && !s.reached (field d 0x18 8 % 2 ^ 40) then s else (adv s').playTake t b ctx (some d)

def execPlaybackDescriptorTake (t : Fin 4) (s : State) : Host.Outcome State Fault Refusal := s.running (s.playbackStart t.val)

/-! ### Pattern starts (R202, R203) -/

/-- A start instant of pattern tile `j`: a frame starts, or the instant is skipped. -/
def State.patternStart (s : State) (j : Nat) : State :=
  let t := 34 + j
  match s.brewOfRoot t with
  | none => s
  | some (b, ctx) =>
    if !s.onCur (F.PAT_CFG.RUN j 0) then s
    else if !s.brewFree b then s.bump (F.PAT_STAT.SKIPS j 0)
    else
      let a : Arrival := ⟨0, s.getCur (F.PAT_SIZE.WIDTH j 0), s.getCur (F.PAT_SIZE.HEIGHT j 0), 0, 3, s.time, s.time, 3, none,
        some (s.get (F.PAT_SGEN.SGEN j 0))⟩
      let (f, s) := s.newFrame t ctx a (s.brew b.brew).commits
      s.enterFrame b { f with closed := true }

/-- A pattern tile whose time base is `base` (0 free-running, 1 trigger, 2 VSYNC). -/
def State.patBase (s : State) (j base : Nat) : Bool :=
  let v := s.getCur (F.PAT_CFG.TBASE j 0)
  (if v = 3 then 0 else v) == base

/-- A start instant of the free-running time base; those of the other two come with their trigger or edge. -/
def execPatternStartInstant (t : Fin 2) (s : State) : Host.Outcome State Fault Refusal :=
  s.running (if s.patBase t.val 0 then s.patternStart t.val else s)

/-! ### Sequence numbers and indexed memories -/

/-- The last sequence number of a source, 0 before the first. -/
def State.lastFrameSeq (s : State) (t : Nat) : Nat := if (s.root t).seq = 0 then 0 else ((s.root t).seq - 1).toNat

/-- A read of ING_SEQ_LO, in context `c`, latches ING_SEQ_HI. -/
def rdIngSeqLo (t c : Nat) (s : State) : Word × State :=
  (s.reg (R.ING_SEQ_LO t c), s.put (F.ING_SEQ_HI.SEQ t c) (if c = s.ingCtx t then s.lastFrameSeq t / 2 ^ 32 else 0))

/-- A read of PAT_SEQ_LO latches PAT_SEQ_HI (Table 8.9). -/
def rdPatSeqLo (j c : Nat) (s : State) : Word × State :=
  (s.reg (R.PAT_SEQ_LO j c), s.put (F.PAT_SEQ_HI.SEQ j c) (if c = 0 then s.lastFrameSeq (34 + j) / 2 ^ 32 else 0))

def execIngSeqLoRead (t : Fin 4) (s : State) : Host.Outcome State Fault Refusal :=
  s.running (State.answer (s.guardRead (R.ING_SEQ_LO t.val 0) (rdIngSeqLo t.val 0)))

/-- The index after an access: the next of `n`; values at or above `n` act as 0. -/
def State.nextIdx (s : State) (f : Fld) (n : Nat) : State := s.put f (((if n ≤ s.get f then 0 else s.get f) + 1) % n)

def State.idxAt (s : State) (f : Fld) (n : Nat) : Nat := if n ≤ s.get f then 0 else s.get f

/-- A write or read of the shadow word at the index, after which the index steps. -/
def wrIndexed (idx : Fld) (n : Nat) (at_ : Nat → Nat) (width : Nat) (v : Word) (s : State) : State :=
  (s.wix (at_ (s.idxAt idx n)) (v.toNat % 2 ^ width)).nextIdx idx n

def rdIndexed (idx : Fld) (n : Nat) (at_ : Nat → Nat) (s : State) : Word × State :=
  (BitVec.ofNat 32 (s.ix (at_ (s.idxAt idx n))), s.nextIdx idx n)

/-- An access through a data register: a read answers, a write acts. -/
def State.indexAccess (s : State) (off : Nat) (idx : Fld) (n : Nat) (at_ : Nat → Nat) (w : Option Word) : State :=
  match w with
  | none => State.answer (s.guardRead off (rdIndexed idx n at_))
  | some v => s.guardWrite off (wrIndexed idx n at_ 24 v)

def execRwcSiteGainAccess (t : Fin 4) (ctx : Fin 2) (w : Option Word) (s : State) : Host.Outcome State Fault Refusal :=
  s.running (s.indexAccess (R.RWC_SITE_GAIN t.val ctx.val) (F.RWC_SITE_IDX.IDX t.val ctx.val) 64 (ixGain (4 + t.val) ctx.val) w)

def execSynSiteGainAccess (t : Fin 4) (ctx : Fin 2) (w : Option Word) (s : State) : Host.Outcome State Fault Refusal :=
  s.running (s.indexAccess (R.SYN_SITE_GAIN t.val ctx.val) (F.SYN_SITE_IDX.IDX t.val ctx.val) 64 (ixGain (30 + t.val) ctx.val) w)

def execColCoefDataAccess (t : Fin 8) (ctx : Fin 2) (w : Option Word) (s : State) : Host.Outcome State Fault Refusal :=
  s.running (s.indexAccess (R.COL_COEF_DATA t.val ctx.val) (F.COL_COEF_IDX.IDX t.val ctx.val) 40 (ixCoef (12 + t.val) ctx.val) w)

def execSynCoefDataAccess (t : Fin 4) (ctx : Fin 2) (w : Option Word) (s : State) : Host.Outcome State Fault Refusal :=
  s.running (s.indexAccess (R.SYN_COEF_DATA t.val ctx.val) (F.SYN_COEF_IDX.IDX t.val ctx.val) 14 (ixCoef (30 + t.val) ctx.val) w)

end Sys2Proof.Machine
end

