-- ==== Sys2Proof/Machine/SensorLink.lean ====
section
/-! DEFINITION. The sensor link engines (R97 to R113), the sync pins (R124), and sensor emulation (R204 to R212).
Link p receive is link p of Table 2.8, link p transmit is link 2 + p. -/

namespace Sys2Proof.Machine

/-! ### Lanes of a link -/

/-- The lanes bonded to a link, in logical order. -/
def FabCfg.linkLanes (c : FabCfg) (link : Nat) : List Nat :=
  match c.lanes.find? (fun r => r.link == link) with
  | some r => r.lanes.take r.count
  | none => []

/-- A lane in a link that sends or checks a test pattern in place of link data (R96). -/
def State.laneTest (s : State) (l : Nat) : Bool :=
  s.on (F.LNK_STAT.IN_LINK l) && (s.on (F.LNK_PRBS.GEN l) || s.on (F.LNK_PRBS.CHECK l))

/-- A lane whose data is valid (R88, R96). -/
def State.laneValid (s : State) (l : Nat) : Bool := s.on (F.LNK_STAT.UP l) && !s.laneTest l

def State.linkValid (s : State) (link : Nat) : Bool :=
  !(s.cfg.linkLanes link).isEmpty && (s.cfg.linkLanes link).all (fun l => s.laneValid l)

/-- A transmit lane is up (Table 3.4). -/
def State.linkSends (s : State) (link : Nat) : Bool :=
  !(s.cfg.linkLanes link).isEmpty && (s.cfg.linkLanes link).all (fun l => s.get (F.LNK_STAT.STATE l) == 4 && !s.laneTest l)

def FabCfg.syncOf (c : FabCfg) (link : Nat) : Option SyncRec := c.syncs.find? (fun r => r.link == link)

/-- A packet of `n` bytes has no block on an invalid lane: block j travels on lane j mod COUNT (R99, R107). -/
def State.packetLanesOk (s : State) (link n : Nat) : Bool := ((s.cfg.linkLanes link).take (n / 8)).all (fun l => s.laneValid l)

/-- The event of a link (category 0x3, the link's identifier). -/
def State.linkEvent (s : State) (p : Nat) (sev : Fin 8) : State := s.post (srcSlk p) sev 3 p 0

/-! ### Receive: up and down (R100, R104, R106) -/

def State.rxState (s : State) (p : Nat) : Nat := s.get (F.SLK_STAT.RX_STATE p)
def State.txState (s : State) (p : Nat) : Nat := s.get (F.SLK_STAT.TX_STATE p)

/-- The link comes up at a version (0 in raw mode). -/
def State.rxUp (s : State) (p v : Nat) : State :=
  let x := s.rxH p
  (s.setRx p { x with prevFs := none, lostSince := 0, skipping := false, frame := none, xs := [] }).andThen
    [(·.put (F.SLK_STAT.RX_STATE p) 4), (·.put (F.SLK_STAT.RX_VER p) v), (·.put (F.SLK_STAT.NEG_FAIL p) 0)]

/-- The frame that the link has open closes: its missing lines are lost (R108). -/
def State.rxClose (s : State) (p : Nat) : State :=
  let x := s.rxH p
  match x.frame with
  | none => s
  | some f => (if f.full then s else s.frameClose p).setRx p { x with frame := none, rawLine := false }

/-- The receive half waits for its lanes, or looks for ALIGN columns when they are valid (Table 4.5). -/
def State.rxLanes (s : State) (p : Nat) : State :=
  if s.rxState p = 1 ∧ s.linkValid p then s.put (F.SLK_STAT.RX_STATE p) 2 else s

/-- Version writes of engine `p` still on a port belong to a negotiation that is over (R104, R106). -/
def State.orphanWrites (s : State) (p : Nat) : State :=
  let old (t : ScpTxn) : ScpTxn := if t.vsel = some p then { t with vsel := some (2 + p) } else t
  [0, 1, 2, 3].foldl (fun (s : State) (q : Nat) =>
    let y := s.scpP q
    s.setScp q { y with imm := y.imm.map old, cur := match y.cur with | some (.imm t) => some (.imm (old t)) | c => c }) s

/-- The link goes down (R106): an open frame closes, and the next alignment negotiates afresh. -/
def State.rxDown (s : State) (p : Nat) : State :=
  let s := s.rxClose p
  let s := s.orphanWrites p
  let x := s.rxH p
  let s := s.setRx p { x with good := 0, back := 0, backVer := 0, vsel := 0, frame := none, prevFs := none, lostSince := 0,
                              skipping := false, xs := [], rawSeen := [], rawLine := false }
  (s.andThen [(·.put (F.SLK_STAT.RX_STATE p) (if s.on (F.SLK_RXCFG.ENABLE p) then 1 else 0)), (·.put (F.SLK_STAT.RX_VER p) 0),
    (·.put (F.SLK_STAT.NEG_FAIL p) 0), (·.put (F.SLK_STAT.RAW_ALIGNED p) 0)]).rxLanes p

/-- The receiver searches for alignment again, without going down (R100, R107). -/
def State.rxRealign (s : State) (p : Nat) : State :=
  let st := s.rxState p
  if st < 2 then s
  else if st = 2 then s.setRx p { s.rxH p with good := 0 }
  else
    let x := s.rxH p
    (s.setRx p { x with good := 0, back := st, backVer := s.get (F.SLK_STAT.RX_VER p) }).andThen
      [(·.put (F.SLK_STAT.RX_STATE p) 2), (·.put (F.SLK_STAT.RX_VER p) 0)]

/-- The receive half is on and sees columns. -/
def State.rxSees (s : State) (p : Nat) : Bool := s.on (F.SLK_RXCFG.ENABLE p) && !s.on (F.SLK_RXCFG.RAW p) && decide (2 ≤ s.rxState p)

/-- Columns are discarded: the receiver realigns a link that has not gone down (R100, R107). -/
def State.rxDiscards (s : State) (p : Nat) : Bool := s.rxState p == 2 && (s.rxH p).back != 0

/-! ### Columns (R97, R98) -/

/-- The first payload byte of a block. -/
def blockType (b : BitVec 2 × BitVec 64) : Nat := b.2.toNat % 256

/-- A column in which every block is a control block of one type, with that type; blocks with an invalid sync header left out. -/
def columnType (col : List (BitVec 2 × BitVec 64)) : Option Nat :=
  match col.filter (fun b => b.1 == 1 || b.1 == 2) with
  | [] => none
  | b :: r => if (b :: r).all (fun e => e.1 == 2 && blockType e == blockType b) then some (blockType b) else none

/-- What the columns of Table 4.1 that carry nothing else at this version are: IDLE, and SOP and ALIGN, whose own commands carry
their effect. -/
def State.columnKnown (s : State) (p ty : Nat) : Bool :=
  ty == 0x1E || ty == 0x33 || ty == 0x55 || (ty == 0x4B && s.rxState p == 4 && s.get (F.SLK_STAT.RX_VER p) == 3)

/-- What a column adds to ALIGN_ERR: one for each block with an invalid sync header, and one when its control blocks are not all
of one known type. -/
def State.columnErrors (s : State) (p : Nat) (col : List (BitVec 2 × BitVec 64)) : Nat :=
  let bad := (col.filter (fun b => b.1 == 0 || b.1 == 3)).length
  bad + (if bad = col.length then 0 else match columnType col with
    | some ty => if s.columnKnown p ty then 0 else 1
    | none => 1)

/-- A control column as the deskew buffer gives it, descrambled, one block a lane with its sync header. -/
def execIdleColumn (p : Fin 2) (col : List (BitVec 2 × BitVec 64)) (s : State) : Host.Outcome State Fault Refusal :=
  s.running (if s.rxSees p.val && !s.rxDiscards p.val then s.bumpBy (F.SLK_ERR.ALIGN_ERR p.val) (s.columnErrors p.val col) else s)

/-- The skew of an ALIGN column is within 16 columns and every lane carries its own index. An entry of `col` is the index a logical
lane's block carries and the columns by which it came after the first. -/
def State.alignOk (s : State) (p : Nat) (col : List (Nat × Nat)) : Bool :=
  col.map (·.1) == List.range (s.cfg.linkLanes p).length && col.all (fun e => decide (e.2 ≤ 16))

/-- An ALIGN column, `gap` columns after the one before it (R100). -/
def State.alignColumn (s : State) (p : Nat) (col : List (Nat × Nat)) (gap : Nat) : State :=
  if !s.rxSees p || !s.linkValid p then s else
    let x := s.rxH p
    if !s.alignOk p col then
      let s := (s.put (F.SLK_STAT.SKEW_FAIL p) 1).linkEvent p 4
      let s := s.rxRealign p
      s.setRx p { s.rxH p with good := 0 }
    else
      let good := if gap = 16384 ∧ 0 < x.good then 2 else 1
      let s := s.setRx p { x with good := good }
      if good < 2 ∨ s.rxState p ≠ 2 then s else
        let s := s.put (F.SLK_STAT.SKEW_FAIL p) 0
        let x := s.rxH p
        (s.setRx p { x with back := 0, backVer := 0 }).andThen
          [(·.put (F.SLK_STAT.RX_STATE p) (if x.back = 0 then 3 else x.back)), (·.put (F.SLK_STAT.RX_VER p) x.backVer)]

def execAlignColumn (p : Fin 2) (col : List (Nat × Nat)) (gap : Nat) (s : State) : Host.Outcome State Fault Refusal :=
  s.running (s.alignColumn p.val col gap)

/-- An XS column (R110); at any version but 3 it is unknown and counted (R98). -/
def State.xsColumn (s : State) (p num : Nat) : State :=
  if !s.rxSees p || s.rxDiscards p then s
  else if s.rxState p = 4 ∧ s.get (F.SLK_STAT.RX_VER p) = 3 then
    let x := s.rxH p
    s.setRx p { x with xs := x.xs ++ [(num, timeMinusNs s.time (s.get (F.SLK_XSCOMP.NS p)))] }
  else s.bump (F.SLK_ERR.ALIGN_ERR p)

def execXsColumn (p : Fin 2) (num : BitVec 24) (s : State) : Host.Outcome State Fault Refusal := s.running (s.xsColumn p.val num.toNat)

/-! ### Capability exchange as sink (R104) -/

/-- The highest version in a mask of 3 bits. -/
def topVersion (m : Nat) : Nat := if m.testBit 2 then 3 else if m.testBit 1 then 2 else if m.testBit 0 then 1 else 0

def State.negFail (s : State) (p : Nat) : State := (s.put (F.SLK_STAT.NEG_FAIL p) 1).linkEvent p 4

/-- The version write: an immediate transaction on the named port, or an event and nothing. -/
def State.versionWrite (s : State) (p v : Nat) : State :=
  let x := s.rxH p
  let q := s.get (F.SLK_RXCFG.SCP p)
  if x.vsel = 1 ∨ x.vsel = 2 ∨ x.vsel = 4 then s
  else if !s.on (F.SCP_CFG.ENABLE q) || s.on (F.SCP_CFG.ROLE q) then
    (s.setRx p { x with vsel := 4 }).linkEvent p 3
  else
    let y := s.scpP q
    ((s.setRx p { x with vsel := 1 }).setScp q
      { y with imm := y.imm ++ [⟨some p, false, s.get (F.SLK_RXCFG.VSEL_ADDR p), v⟩] }).scpNext q

/-- A CAP packet while the link negotiates. The first one with a version in common issues the version write, one with SELECTED = 0
repeats a write that failed, and then SELECTED is judged. -/
def State.capPacket (s : State) (p mask sel : Nat) (crcOk : Bool) : State :=
  if !s.rxSees p ∨ s.rxState p < 3 then s
  else if !(crcOk && s.packetLanesOk p 24) then s.bump (F.SLK_ERR.CRC p)
  else if s.rxState p = 4 then s
  else
    let m := max 1 (s.get (F.SLK_RXCFG.MAXVER p))
    let v := topVersion (mask % 2 ^ m)
    if v = 0 ∨ m < sel then s.negFail p
    else
      let named := decide (s.get (F.SLK_RXCFG.SCP p) < 4)
      let s := if named && ((s.rxH p).vsel == 0 || sel == 0) then s.versionWrite p v else s
      if sel = 0 then s
      else if named && (s.rxH p).vsel != 4 && sel != v then s.negFail p
      else s.rxUp p sel

def execCapPacket (p : Fin 2) (mask : BitVec 3) (selected : BitVec 2) (crcOk : Bool) (s : State) : Host.Outcome State Fault Refusal :=
  s.running (s.capPacket p.val mask.toNat selected.toNat crcOk)

/-! ### Frames (R108, R109, R126, R131) -/

/-- Exposure-start time of a frame whose FS arrives now, and the source it comes from (R131). -/
def State.xsFor (s : State) (p num : Nat) : Time × Nat :=
  let x := s.rxH p
  let fall := (timeMinusNs s.time (s.getCur (F.ING_XSOFF.NS p (s.ingCtx p))), 3)
  let col := ((x.xs.find? (fun e => e.1 == num % 2 ^ 24)).map (·.2)).map (fun t => (t, 0))
  let vs := (if s.get (F.SLK_SYNCCTL.MODE p) = 1 then x.vscap else none).map (fun t => (t, 1))
  let tr := (s.routeFired (routeExp p)).map (fun t => (t, 2))
  match s.getCur (F.ING_CFG.XSRC p (s.ingCtx p)) with
  | 1 => col.getD fall
  | 2 => vs.getD fall
  | 3 => tr.getD fall
  | 4 => fall
  | _ => (col.or (vs.or tr)).getD fall

/-- A frame that the link lost: counted, and a lost frame of the ingest tile (R109). -/
def State.linkLost (s : State) (p : Nat) : State :=
  (s.bump (F.SLK_ERR.LOST_FRAMES p)).frameLost p ⟨0, 0, 0, 0, 1, s.time, s.time, 0, none, none⟩

def State.linkLostN (s : State) (p : Nat) : Nat → State
  | 0 => s
  | n + 1 => (s.linkLost p).linkLostN p n

/-- What an FS number says of the frames since the previous FS (R109). -/
def State.fsNumber (s : State) (p num : Nat) : State :=
  let x := s.rxH p
  if s.get (F.SLK_STAT.RX_VER p) < 2 then s else
    match x.prevFs with
    | none => s
    | some q =>
      let d := sint (num + 2 ^ 32 - q) 32
      if d ≤ 0 then s.linkEvent p 3
      else if d = 1 then s
      else s.linkLostN p ((d - 1).toNat - x.lostSince)

/-- A frame starts at the ingest tile of link `p`. -/
def State.linkStart (s : State) (p num sgen w h depth link : Nat) (echo : Bool) : State :=
  let (xs, src) := s.xsFor p num
  let x := s.rxH p
  let s := s.setRx p { x with
    frame := some ⟨num, sgen, w, h, depth, 0, h == 0⟩, prevFs := some num, lostSince := 0, skipping := false
    xs := match x.xs.findIdx? (fun e => e.1 == num % 2 ^ 24) with | some i => x.xs.drop (i + 1) | none => x.xs }
  (s.fsLag p).frameStart p ⟨link, w, h, depth, 1, s.time, xs, src, if echo then some sgen else none, none⟩

/-- The receive half is up and takes packets. -/
def State.rxTakes (s : State) (p : Nat) : Bool := s.rxSees p && s.rxState p == 4

def State.fsPacket (s : State) (p num sgen w h depth : Nat) (crcOk : Bool) : State :=
  if !s.rxTakes p then s
  else if !(crcOk && s.packetLanesOk p 24) then s.bump (F.SLK_ERR.CRC p)
  else
    let v2 := decide (2 ≤ s.get (F.SLK_STAT.RX_VER p))
    let num := if v2 then num else num % 65536
    ((s.rxClose p).fsNumber p num).linkStart p num sgen w h depth num v2

def execFsPacket (p : Fin 2) (num : Word) (sgen : Half) (w : Half) (h : Half) (depth : Byte) (crcOk : Bool) (s : State) :
    Host.Outcome State Fault Refusal :=
  s.running (s.fsPacket p.val num.toNat sgen.toNat w.toNat h.toNat depth.toNat crcOk)

/-- The length in bytes of an LD payload (R101). -/
def lineBytes (w depth : Nat) : Nat := (w * depth + 63) / 64 * 8

/-- An SGEN in an LD that differs from its frame's (R135): marked and counted once. -/
def State.sgenMismatch (s : State) (p sgen : Nat) (f : LinkFrame) : State :=
  if s.getCur (F.ING_CFG.SGEN_MODE p (s.ingCtx p)) ≠ 0 ∨ s.get (F.SLK_STAT.RX_VER p) < 2 ∨ sgen = f.sgen then s else
    match s.openFrame p with
    | some g => if g.mismatch then s else (s.updateFrame { g with mismatch := true }).bump (F.ING_STAT2.SGEN_MISMATCH p (s.ingCtx p))
    | none => s

/-- Lines below `y` and line `y` itself are settled; at HEIGHT lines the frame closes. -/
def State.lineSettled (s : State) (p y : Nat) (f : LinkFrame) : State :=
  let full := decide (f.h ≤ y + 1)
  let s := s.setRx p { s.rxH p with frame := some { f with next := y + 1, full := full } }
  if full then s.frameClose p else s

/-- The samples of a line as fp24 integers (R130). -/
def sampleRow (codes : List Nat) : List (List Nat) := codes.map (fun c => [rnd (.fin ((c : Nat) : Rat))])

/-- An LD packet (R101, R102, R108, R109, R129). -/
def State.ldPacket (s : State) (p num sgen : Nat) (payload : List Byte) (crcOk fits : Bool) : State :=
  if !s.rxTakes p then s else
    let bad := !(crcOk && s.packetLanesOk p (16 + payload.length))
    let s := if bad then s.bump (F.SLK_ERR.CRC p) else s
    let x := s.rxH p
    let v2 := decide (2 ≤ s.get (F.SLK_STAT.RX_VER p))
    match x.frame with
    | none =>
      if x.skipping then s
      else (s.setRx p { x with skipping := true, lostSince := x.lostSince + 1 }).linkLost p
    | some f =>
      if f.full then (if bad then s else s.bump (F.SLK_ERR.CRC p))
      else if bad then (if v2 then s else (s.lineLost p).lineSettled p f.next f)
      else
        let y := if v2 then num else f.next
        if f.h ≤ y ∨ y < f.next then s.bump (F.SLK_ERR.CRC p)
        else
          let s := s.sgenMismatch p sgen f
          let ok := decide (payload.length = lineBytes f.w f.depth)
          let row := if ok then sampleRow (unpackCodes f.depth f.w payload) else []
          (s.lineArrives p y row (ok && fits)).lineSettled p y f

def execLdPacket (p : Fin 2) (num : Word) (sgen : Half) (payload : List Byte) (crcOk : Bool) (fits : Bool) (s : State) :
    Host.Outcome State Fault Refusal :=
  s.running (s.ldPacket p.val num.toNat sgen.toNat payload crcOk fits)

/-- An FE packet closes the open frame. -/
def State.fePacket (s : State) (p : Nat) (crcOk : Bool) : State :=
  if !s.rxTakes p then s
  else if crcOk && s.packetLanesOk p 16 then s.rxClose p
  else s.bump (F.SLK_ERR.CRC p)

def execFePacket (p : Fin 2) (crcOk : Bool) (s : State) : Host.Outcome State Fault Refusal := s.running (s.fePacket p.val crcOk)

/-- An MD packet inside a frame below version 3 is discarded and counted; else it is taken, which changes nothing the
spec names (R108). -/
def State.mdPacket (s : State) (p : Nat) (payload : List Byte) (crcOk : Bool) : State :=
  if !s.rxTakes p then s
  else if !(crcOk && s.packetLanesOk p (16 + payload.length)) then s.bump (F.SLK_ERR.CRC p)
  else
    match (s.rxH p).frame with
    | some f => if s.get (F.SLK_STAT.RX_VER p) < 3 && !f.full then s.bump (F.SLK_ERR.CRC p) else s
    | none => s

def execMdPacket (p : Fin 2) (payload : List Byte) (crcOk : Bool) (s : State) : Host.Outcome State Fault Refusal :=
  s.running (s.mdPacket p.val payload crcOk)

/-! ### Raw mode (R113) -/

/-- Code words seen in consecutive lines: lanes that saw this one count up, the others start again. With every lane aligned the link
is up, or goes on where a loss of lock stopped it, its frame still open (R106). -/
def State.rawSeenNow (s : State) (p lanes : Nat) : State :=
  let n := (s.cfg.linkLanes p).length
  let x := s.rxH p
  let seen := (List.range n).map (fun k => (k, if lanes.testBit k then min 2 (sget 0 x.rawSeen k + 1) else 0))
  let s := s.setRx p { x with rawSeen := seen.filter (fun e => e.2 != 0) }
  let s := seen.foldl (fun s e => if 2 ≤ e.2 then s.setBit (F.SLK_STAT.RAW_ALIGNED p) e.1 true else s) s
  if s.rxState p = 2 ∧ 0 < n ∧ s.get (F.SLK_STAT.RAW_ALIGNED p) % 2 ^ n = 2 ^ n - 1 then
    let x := s.rxH p
    if x.back = 0 then s.rxUp p 0 else (s.setRx p { x with back := 0, backVer := 0 }).put (F.SLK_STAT.RX_STATE p) x.back
  else s

/-- The samples of a raw line in pixel order. -/
def rawRow (r : SyncRec) (words : List (List Nat)) : List Nat :=
  let n := words.length
  (List.range r.activeW).map (fun i =>
    (if r.order = 0 then (words.getD (i % n) []).getD (i / n) 0 else (words.getD (i / (r.activeW / n)) []).getD (i % (r.activeW / n)) 0)
      % 2 ^ r.depth)

/-- A raw line that has no EOL, or whose word count differs, is lost. -/
def State.rawLineLost (s : State) (p : Nat) : State :=
  match (s.rxH p).frame with
  | none => s
  | some f => if f.full then s else (s.lineLost p).lineSettled p f.next f

/-- The words before a code are the preamble, each compared in its low WIDTH bits (R112). -/
def SyncRec.preambleIs (r : SyncRec) (pre : List Nat) : Bool :=
  pre.map (· % 2 ^ r.width) == (r.preamble.take r.preLen).map (· % 2 ^ r.width)

/-- A code word that the lanes named in `lanes` see: the words before it, its code, and the words that each logical lane delivered since
the last. Words without the preamble are no code word. -/
def State.rawCode (s : State) (p : Nat) (pre : List Nat) (code lanes : Nat) (words : List (List Nat)) (fits : Bool) : State :=
  match s.cfg.syncOf p with
  | none => s
  | some r =>
    if !(s.on (F.SLK_RXCFG.ENABLE p) && s.on (F.SLK_RXCFG.RAW p) && decide (2 ≤ s.rxState p) && r.preambleIs pre) then s else
      let code := code % 2 ^ r.width
      let s := if code = r.sol % 2 ^ r.width ∨ code = r.sof % 2 ^ r.width then s.rawSeenNow p lanes else s
      let n := (s.cfg.linkLanes p).length
      if s.rxState p ≠ 4 ∨ !s.linkValid p ∨ s.get (F.SLK_STAT.RAW_ALIGNED p) % 2 ^ n ≠ 2 ^ n - 1 then s else
        let x := s.rxH p
        let flush (s : State) : State := if x.rawLine then (s.rawLineLost p).setRx p { (s.rawLineLost p).rxH p with rawLine := false } else s
        if code = r.sof % 2 ^ r.width then ((flush s).rxClose p).linkStart p 0 0 r.activeW r.activeH r.depth 0 false
        else if code = r.sol % 2 ^ r.width then
          let s := flush s
          s.setRx p { s.rxH p with rawLine := (s.rxH p).frame.isSome }
        else if code = r.eol % 2 ^ r.width then
          match x.rawLine, x.frame with
          | true, some f =>
            let s := s.setRx p { x with rawLine := false }
            if f.full then s else
              let n := (s.cfg.linkLanes p).length
              let ok := words.length == n && words.all (fun l => l.length == r.activeW / n)
              if ok then (s.lineArrives p f.next (sampleRow (rawRow r words)) fits).lineSettled p f.next f else s.rawLineLost p
          | _, _ => s
        else if code = r.eof % 2 ^ r.width then (flush s).rxClose p
        else s

def execRawCodeWord (p : Fin 2) (code : List Half × Half) (lanes : Nat) (words : List (List Nat)) (fits : Bool) (s : State) :
    Host.Outcome State Fault Refusal :=
  s.running (s.rawCode p.val (code.1.map (·.toNat)) code.2.toNat lanes words fits)

/-! ### Transmit: blocks and columns (R97 to R99) -/

/-- `n` payload bits, lowest first, through the scrambler x^58 + x^39 + 1, whose state is its last 58 bits, newest lowest: the bits as
sent, and the state after them. -/
def scrambleBits : Nat → Nat → Nat → Nat × Nat
  | 0, _, st => (0, st)
  | n + 1, d, st =>
    let o := (d + st / 2 ^ 38 + st / 2 ^ 57) % 2
    let (r, st') := scrambleBits n (d / 2) ((2 * st + o) % 2 ^ 58)
    (o + 2 * r, st')

/-- A block goes out on logical lane `k`: sync header 1 for data, 2 for control, not scrambled, and the scrambled payload.
LNK_CTRL.POLARITY inverts what the lane drives. -/
def State.sendBlock (s : State) (p k : Nat) (b : Bool × Nat) : State :=
  let l := (s.cfg.linkLanes (2 + p)).getD k 0
  let x := s.txH p
  let (v, st) := scrambleBits 64 b.2 (sget 0 x.scr k)
  let h := if b.1 then 2 else 1
  (s.setTx p { x with scr := sset 0 x.scr k st }).emit "slkBlock" l
    (if s.on (F.LNK_CTRL.POLARITY l) then [3 - h, 2 ^ 64 - 1 - v] else [h, v])

/-- A column: one block (control or not, payload) on each lane of the link. -/
def State.sendColumn (s : State) (p : Nat) (col : List (Bool × Nat)) : State :=
  (List.range col.length).foldl (fun s k => s.sendBlock p k (col.getD k (true, 0x1E))) s

/-- A control column: the same block on every lane (R98). -/
def State.sendControl (s : State) (p payload : Nat) : State :=
  s.sendColumn p (List.replicate (s.cfg.linkLanes (2 + p)).length (true, payload))

/-- The data blocks of a packet, 8 bytes each. -/
def packetBlocks (b : List Byte) : List (Bool × Nat) := (List.range (b.length / 8)).map (fun j => (false, leNat ((b.drop (8 * j)).take 8)))

/-- The columns of a packet on `n` lanes: block j on lane j mod n, IDLE blocks on the lanes left in the last (R99). -/
def packetColumns (n : Nat) (b : List Byte) : List (List (Bool × Nat)) :=
  let blocks := packetBlocks b
  (List.range ((blocks.length + n - 1) / n)).map (fun c => (List.range n).map (fun k => blocks.getD (c * n + k) (true, 0x1E)))

/-- A packet goes out after an SOP column. Between one emission and the next the lanes carry IDLE columns. -/
def State.sendPacket (s : State) (p : Nat) (b : List Byte) : State :=
  (packetColumns (s.cfg.linkLanes (2 + p)).length b).foldl (fun s c => s.sendColumn p c) (s.sendControl p 0x55)

/-- A packet of Table 4.2; `bad` inverts its CRC (R111). -/
def packet (ty w0 w1 : Nat) (payload : List Byte) (bad : Bool) : List Byte :=
  let b := leBytes 1 ty ++ [0] ++ leBytes 2 payload.length ++ leBytes 4 w0 ++ leBytes 4 w1 ++ payload
  b ++ leBytes 4 (if bad then 2 ^ 32 - 1 - crc32c b else crc32c b)

/-! ### Transmit: negotiation (R103, R105) -/

def State.txRaw (s : State) (p : Nat) : Bool := s.on (F.SLK_TXCFG.RAW p)
def State.txMax (s : State) (p : Nat) : Nat := max 1 (s.get (F.SLK_TXCFG.MAXVER p))

/-- The transmit half selects a version by itself. -/
def State.txSelect (s : State) (p : Nat) : State :=
  let x := s.txH p
  if s.txState p = 3 ∧ x.ver = 0 then s.setTx p { x with ver := s.txMax p, capLeft := 16 } else s

/-- The transmit link is up. -/
def State.txUp (s : State) (p v : Nat) : State :=
  (s.setTx p { s.txH p with next := 0 }).andThen [(·.put (F.SLK_STAT.TX_STATE p) 4), (·.put (F.SLK_STAT.TX_VER p) v)]

/-- The scramblers of a link's lanes as its lanes begin to carry blocks: free values, no state of theirs is given (log 3). -/
def State.seedLanes (s : State) (p : Nat) : State :=
  (List.range (s.cfg.linkLanes (2 + p)).length).foldl (fun (s : State) (k : Nat) =>
    let (v, s) := s.takeFree
    s.setTx p { s.txH p with scr := sset 0 (s.txH p).scr k (v.toNat % 2 ^ 58) }) s

/-- Once its lanes send, a transmit half negotiates; in raw mode it is up (Table 4.5). -/
def State.txLanes (s : State) (p : Nat) : State :=
  if s.txState p = 1 ∧ s.linkSends (2 + p) then
    if s.txRaw p then s.txUp p 0
    else
      let s := ((s.put (F.SLK_STAT.TX_STATE p) 3).setTx p { s.txH p with ver := 0, capLeft := 0, capSent := false }).seedLanes p
      if s.get (F.SLK_TXCFG.SCP p) < 4 then s else s.txSelect p
  else s

/-- The source identifier of a CAP, which the spec does not give, is a free value (log 3). -/
def State.capSend (s : State) (p : Nat) : State :=
  if s.txState p ≠ 3 then s else
    let x := s.txH p
    let (w1, s) := s.takeFree
    let lanes := s.cfg.linkLanes (2 + p)
    let rate := match s.cfg.lanes.find? (fun r => r.link == 2 + p) with | some r => r.rate | none => 0
    let w0 := 2 ^ s.txMax p - 1 + 256 * x.ver
    let s := s.sendPacket p (packet 0x10 w0 (w1.toNat % 2 ^ 32) (leBytes 1 lanes.length ++ [0] ++ leBytes 2 rate ++ zeros 4) false)
    let y : TxHalf := { s.txH p with capSent := true }
    if x.ver = 0 then s.setTx p y
    else if x.capLeft ≤ 1 then (s.setTx p { y with capLeft := 0 }).txUp p x.ver
    else s.setTx p { y with capLeft := x.capLeft - 1 }

def execCapSend (p : Fin 2) (s : State) : Host.Outcome State Fault Refusal := s.running (s.capSend p.val)

def execNegTimeout (p : Fin 2) (s : State) : Host.Outcome State Fault Refusal :=
  s.running (if (s.txH p.val).capSent then s.txSelect p.val else s)

/-- An ALIGN column, with the lane's index and the marker count on each lane (Table 4.1). -/
def State.alignSend (s : State) (p : Nat) : State :=
  if s.txState p < 3 ∨ s.txRaw p then s else
    let x := s.txH p
    let n := (s.cfg.linkLanes (2 + p)).length
    let col := (List.range n).map (fun k => (true, 0x33 + 256 * k + 65536 * x.marker))
    (s.setTx p { x with marker := (x.marker + 1) % 65536 }).sendColumn p col

def execAlignSend (p : Fin 2) (s : State) : Host.Outcome State Fault Refusal := s.running (s.alignSend p.val)

/-! ### Transmit: frames (R205 to R212) -/

/-- The output pack tile routed to transmit half `p`, with its brew. -/
def State.txTile (s : State) (p : Nat) : Option (BrewRec × Nat) :=
  match (s.cfg.tiles.map (·.tile)).find? (fun t => tileKind t == .opk && s.cfg.txOf t == some p) with
  | none => none
  | some t => (s.brewOfTile t).map (fun b => (b, t))

/-- Frames at the transmit half whose exposure has not started, oldest first. -/
def State.txWaiting (s : State) (p : Nat) : List Frame :=
  match s.txTile p with
  | none => []
  | some (b, t) => (s.inBrew b).filter (fun f => s.waitsAt p t f)

/-- The transmit half goes down: frames it holds are drop units (R212). -/
def State.txDown (s : State) (p : Nat) : State :=
  let s := s.setTx p { s.txH p with ver := 0, capLeft := 0, capSent := false, exposed := [], cur := none }
  let s := s.andThen [(·.put (F.SLK_STAT.TX_STATE p) (if s.on (F.SLK_TXCFG.ENABLE p) then 1 else 0)), (·.put (F.SLK_STAT.TX_VER p) 0)]
  let s := match s.txTile p with
    | none => s
    | some (b, t) => (s.txWaiting p).foldl (fun (s : State) (f : Frame) => (s.dropUnit t 4 rowBrew f.tag).sinkDone b f t) s
  s.txLanes p

/-- The exposure of a waiting frame starts; from version 3 an XS column carries it (R207). -/
def State.exposure (s : State) (p : Nat) (f : Frame) : State :=
  let x := s.txH p
  let num := x.next + x.exposed.length
  let s := s.setTx p { x with exposed := x.exposed ++ [(f.tag, s.time)] }
  if s.get (F.SLK_STAT.TX_VER p) = 3 ∧ !s.txRaw p then s.sendControl p (0x4B + 256 * (num % 2 ^ 24)) else s

/-- With FOLLOW = 0 exposure starts when the frame's start-of-frame beat has reached the half. -/
def State.emuExposure (s : State) (p : Nat) : State :=
  if s.txState p ≠ 4 ∨ s.on (F.SLK_EMU.FOLLOW p) then s else
    match s.txWaiting p with
    | f :: _ => s.exposure p f
    | [] => s

def execEmuExposureStart (p : Fin 2) (s : State) : Host.Outcome State Fault Refusal := s.running (s.emuExposure p.val)

/-- With FOLLOW = 1 an active VSYNC edge starts the exposure of a waiting frame, or is missed (R208). -/
def State.emuEdge (s : State) (p : Nat) : State :=
  if s.txState p ≠ 4 ∨ !s.on (F.SLK_EMU.FOLLOW p) then s else
    match s.txWaiting p, (s.txH p).exposed with
    | f :: _, [] => s.exposure p f
    | _, _ => s.bump (F.SLK_EMU_STAT.MISSES p)

/-! ### Sync pins (R124, R542) -/

/-- What SENSp_VSYNC or SENSp_HSYNC drives, while SENS_VIOp is there: without it the land is high-impedance. -/
def State.emitSens (s : State) (kind : String) (p : Nat) (data : List Nat) : State :=
  if s.power.vio.testBit (2 + p) then s.emit kind p data else s

/-- A write of SLK_SYNCCTL: both pins are high-impedance in modes 0 and 3 and inputs in mode 1, and driven at their idle level in
mode 2. -/
def wrSlkSyncctl (p src : Nat) (v : Word) (s : State) : State :=
  let s := s.plainWrite src (R.SLK_SYNCCTL p) v
  let i := if s.on (F.SLK_SYNCCTL.POL p) then 1 else 0
  s.emitSens "syncPins" p (if s.get (F.SLK_SYNCCTL.MODE p) = 2 then [i, i] else [])

/-- SENSp_VSYNC is asserted, and its HSYNC pulses begin. -/
def State.vsyncAssert (s : State) (p : Nat) : State :=
  if s.get (F.SLK_SYNCCTL.MODE p) ≠ 2 then s else
    { s with tim := { s.tim with vsync := (s.tim.vsync.filter (· != p)) ++ [p], hsync := sset 0 s.tim.hsync p (s.get (F.SLK_HSYNC.COUNT p)) } }.emitSens
      "vsync" p [if s.on (F.SLK_SYNCCTL.POL p) then 0 else 1]

def State.vsyncEnd (s : State) (p : Nat) : State :=
  if s.tim.vsync.contains p then
    { s with tim := { s.tim with vsync := s.tim.vsync.filter (· != p) } }.emitSens "vsync" p [if s.on (F.SLK_SYNCCTL.POL p) then 1 else 0]
  else s

def execVsyncPulseEnd (p : Fin 2) (s : State) : Host.Outcome State Fault Refusal := s.running (s.vsyncEnd p.val)

/-- One HSYNC pulse of one tick. -/
def State.hsyncPulse (s : State) (p : Nat) : State :=
  let n := sget 0 s.tim.hsync p
  if s.get (F.SLK_SYNCCTL.MODE p) ≠ 2 ∨ n = 0 then s else
    let a := if s.on (F.SLK_SYNCCTL.POL p) then 0 else 1
    { s with tim := { s.tim with hsync := sset 0 s.tim.hsync p (n - 1) } }.emitSens "hsync" p [a, 1 - a]

def execHsyncPulse (p : Fin 2) (s : State) : Host.Outcome State Fault Refusal := s.running (s.hsyncPulse p.val)

/-- An active VSYNC edge in input mode: latched, captured, and a start for what follows it (R124, R202, R208). -/
def State.vsyncEdge (s : State) (p : Nat) : State :=
  if s.get (F.SLK_SYNCCTL.MODE p) ≠ 1 then s else
    let s := (s.put (F.SLK_VSCAP.NS p) (s.now.toNat % 2 ^ 32)).setRx p { s.rxH p with vscap := some s.time }
    let s := s.capture (9 + p)
    let s := [0, 1].foldl (fun s j => if s.patBase j 2 && s.getCur (F.PAT_CFG.PORT j 0) == p then s.patternStart j else s) s
    s.emuEdge p

def execVsyncInputEdge (p : Fin 2) (s : State) : Host.Outcome State Fault Refusal := s.running (s.vsyncEdge p.val)

/-! ### Sending a frame -/

/-- Pending echoes at an FS: one FS less for each; the last that is due takes effect (R123). -/
def dueEchoes (l : List (Nat × Nat)) : Option Nat × List (Nat × Nat) :=
  let m := l.map (fun e => (e.1, e.2 - 1))
  (((m.filter (fun e => e.2 == 0)).getLast?).map (·.1), m.filter (fun e => e.2 != 0))

/-- The SGEN that an FS carries (R206). A watched register that nothing has written gives a free value (log 3). -/
def State.echoSgen (s : State) (p : Nat) (f : Frame) : Nat × State :=
  let x := s.txH p
  let (due, rest) := dueEchoes x.echoes
  let echo := due.or x.echo
  let s := s.setTx p { x with echo := echo, echoes := rest }
  if (List.range 4).any (fun n => s.isTarget n && s.on (F.SCP_TGT_CFG.SGEN_EN n) && s.get (F.SCP_TGT_CFG.LINK n) == p) then
    match echo with
    | some g => (g, s)
    | none => let (g, s) := s.takeFree; (g.toNat % 65536, s)
  else (f.tag.sgen.toNat, s)

/-- The words a raw link sends on each lane, of WIDTH bits each, and after them the BLANK word that fills the word periods until
the next code word (R211). LNK_CTRL.POLARITY inverts what the lane drives. -/
def State.rawSend (s : State) (p : Nat) (r : SyncRec) (lane : Nat → List Nat) : State :=
  (List.range (s.cfg.linkLanes (2 + p)).length).foldl (fun s k =>
    let l := (s.cfg.linkLanes (2 + p)).getD k 0
    let w := (lane k ++ [r.blank]).map (· % 2 ^ r.width)
    s.emit "rawTx" l (if s.on (F.LNK_CTRL.POLARITY l) then w.map (2 ^ r.width - 1 - ·) else w)) s

def codeWord (r : SyncRec) (c : Nat) : List Nat := (r.preamble.take r.preLen) ++ [c]

/-- The FS, or in raw mode the SOF, of the frame whose exposure came first leaves the half SLK_EMU_XS.TICKS × 2 ns after that
exposure started, once the previous frame's FE has left (R205, R206, R207, R210, R211). -/
def State.emuFs (s : State) (p : Nat) : State :=
  let x := s.txH p
  match s.txTile p, x.exposed, x.cur with
  | some (b, t), (tag, start) :: rest, none =>
    if s.txState p ≠ 4 ∨ (s.now - timeN start).toNat < 2 * s.get (F.SLK_EMU_XS.TICKS p) then s else
      match (s.inBrew b).find? (fun f => f.tag == tag) with
      | none => s.setTx p { x with exposed := rest }
      | some f =>
        let ver := s.get (F.SLK_STAT.TX_VER p)
        let num := x.next
        let (g, s) := s.echoSgen p f
        let s := s.setTx p { s.txH p with exposed := rest, next := (num + 1) % 2 ^ 32, cur := some ⟨tag, num, g, 0, 0⟩ }
        let k := packOf ⟨f.par, f.tabs⟩ t f.ctx
        let d := dimsIn s.cfg f t
        let s := if s.txRaw p then
            (match s.cfg.syncOf (2 + p) with | some r => s.rawSend p r (fun _ => codeWord r r.sof) | none => s)
          else s.sendPacket p (packet 0x01 (if ver = 1 then num % 65536 else num) (if ver = 1 then 0 else g)
            (leBytes 2 d.1 ++ leBytes 2 d.2.1 ++ leBytes 1 k.n ++ zeros 3) false)
        let s := if s.on (F.SLK_EMU.FCNT_EN p) then
            s.setTfile (s.get (F.SLK_EMU_FCNT.PORT p)) (s.get (F.SLK_EMU_FCNT.ADDR p)) (BitVec.ofNat 16 num) else s
        if s.on (F.SLK_EMU.VS_AT_FS p) then s.vsyncAssert p else s
  | _, _, _ => s

def execEmuFsSend (p : Fin 2) (s : State) : Host.Outcome State Fault Refusal := s.running (s.emuFs p.val)

/-- The line that the transmit half sends next, when it is fully buffered: frame, codes, whether it is a drop unit. The half has a
frame's lines once the whole frame has entered its brew, a frame's content being one value here (DESIGN CHOICE, log 29). -/
def State.txNextLine (s : State) (p : Nat) : Option (BrewRec × Nat × Frame × Pack × List (List Nat)) :=
  match s.txTile p, (s.txH p).cur with
  | some (b, t), some c =>
    match (s.inBrew b).find? (fun f => f.tag == c.tag) with
    | none => none
    | some f =>
      if !f.closed then none else
        let k := packOf ⟨f.par, f.tabs⟩ t f.ctx
        some (b, t, f, k, packLines k (tileIn s.cfg b f t).pic)
  | _, _ => none

/-- The line goes out, and after the last one the FE (R111, R209, R211). Received as a drop unit is a line of a frame that is one, and
a line that the ingest tile lost and replaced (DEDUCED, log 29); its CRC is inverted. -/
def State.sendLine (s : State) (p : Nat) : State :=
  match s.txNextLine p, (s.txH p).cur with
  | some (b, t, f, k, lines), some c =>
    let ver := s.get (F.SLK_STAT.TX_VER p)
    let codes := lines.getD c.next []
    let bad := f.badFor s.cfg t || f.fills.contains c.next
    let s := match s.txRaw p, s.cfg.syncOf (2 + p) with
      | true, some r =>
        let n := (s.cfg.linkLanes (2 + p)).length
        let of (l : Nat) : List Nat := if r.order = 0 then
            ((List.range codes.length).filter (fun i => i % n == l)).map (fun i => codes.getD i 0)
          else (codes.drop (l * (r.activeW / n))).take (r.activeW / n)
        s.rawSend p r (fun l => codeWord r r.sol ++ (of l).map (· % 2 ^ r.depth) ++ codeWord r r.eol)
      | true, none => s
      | false, _ => s.sendPacket p (packet 0x02 (if ver = 1 then 0 else c.next) (if ver = 1 then 0 else c.sgen)
          (packBits k.n codes (lineBytes codes.length k.n)) bad)
    if c.next + 1 < lines.length then s.setTx p { s.txH p with cur := some { c with next := c.next + 1 } }
    else
      let s := match s.txRaw p, s.cfg.syncOf (2 + p) with
        | true, some r => s.rawSend p r (fun _ => codeWord r r.eof)
        | true, none => s
        | false, _ => s.sendPacket p (packet 0x03 (if ver = 1 then c.num % 65536 else c.num) lines.length [] false)
      (s.setTx p { s.txH p with cur := none }).sinkDone b f t
  | _, _ => s

/-- A fully buffered line is sent: at once without pacing, else only when its paced time has passed, late. -/
def State.txLine (s : State) (p : Nat) : State :=
  match (s.txH p).cur with
  | none => s
  | some c =>
    if !s.on (F.SLK_EMU.PACE p) then s.sendLine p
    else if c.next < c.due ∧ (s.txNextLine p).isSome then (s.bump (F.SLK_EMU_STAT.LATE p)).sendLine p
    else s

def execTxLine (p : Fin 2) (s : State) : Host.Outcome State Fault Refusal := s.running (s.txLine p.val)

/-- The next paced time comes (R209): its line starts when it is the one to send and buffered; else it is late. -/
def State.linePace (s : State) (p : Nat) : State :=
  match (s.txH p).cur with
  | none => s
  | some c =>
    if !s.on (F.SLK_EMU.PACE p) then s else
      let s' := s.setTx p { s.txH p with cur := some { c with due := c.due + 1 } }
      if c.next = c.due ∧ (s.txNextLine p).isSome then s'.sendLine p else s'

def execEmuLinePace (p : Fin 2) (s : State) : Host.Outcome State Fault Refusal := s.running (s.linePace p.val)

/-! ### Enabling a half -/

/-- A write of SLK_RXCFG. -/
def wrSlkRxcfg (p src : Nat) (v : Word) (s : State) : State :=
  let was := s.on (F.SLK_RXCFG.ENABLE p)
  let s := s.plainWrite src (R.SLK_RXCFG p) v
  let is := s.on (F.SLK_RXCFG.ENABLE p)
  if is && !was then (s.put (F.SLK_STAT.RX_STATE p) 1).rxLanes p
  else if was && !is then s.rxDown p
  else s

/-- A write of SLK_TXCFG. -/
def wrSlkTxcfg (p src : Nat) (v : Word) (s : State) : State :=
  let was := s.on (F.SLK_TXCFG.ENABLE p)
  let s := s.plainWrite src (R.SLK_TXCFG p) v
  let is := s.on (F.SLK_TXCFG.ENABLE p)
  if is && !was then (s.put (F.SLK_STAT.TX_STATE p) 1).txLanes p
  else if was && !is then s.txDown p
  else s

def State.halfWrite (s : State) (p : Nat) (tx : Bool) (v : Word) (src : Nat) : State :=
  if tx then s.guardWrite (R.SLK_TXCFG p) (wrSlkTxcfg p src v) else s.guardWrite (R.SLK_RXCFG p) (wrSlkRxcfg p src v)

def execLinkHalfEnable (p : Fin 2) (tx : Bool) (v : Word) (src : Nat) (s : State) : Host.Outcome State Fault Refusal :=
  s.running (s.halfWrite p.val tx (v ||| 0x80000000) src)

def execLinkHalfDisable (p : Fin 2) (tx : Bool) (v : Word) (src : Nat) (s : State) : Host.Outcome State Fault Refusal :=
  s.running (s.halfWrite p.val tx (v &&& 0x7FFFFFFF) src)

end Sys2Proof.Machine
end

