-- ==== Sys2Proof/Machine/Lanes.lean ====
section
/-! DEFINITION. Serial lanes (chapter 3): bring-up, figure of merit, loss of signal and of lock, recalibration, presets,
bit-slip and test patterns. What the analogue front end measures comes with the commands. -/

namespace Sys2Proof.Machine

def laneInit : LaneRun := ⟨0, 0, 0, 0, none, false, 0, (0, 0, 0), 0, 0, [], 0⟩
def State.lane (s : State) (l : Nat) : LaneRun := sget laneInit s.lanes l
def State.setLane (s : State) (l : Nat) (x : LaneRun) : State := { s with lanes := sset laneInit s.lanes l x }
def State.laneState (s : State) (l : Nat) : Nat := s.get (F.LNK_STAT.STATE l)

/-! ### Roles (Table 3.1) -/

def laneQuad (l : Nat) : Nat := l / 4

/-- A lane with a receiver and its monitor slice. -/
def laneReceives (l : Nat) : Bool := decide (l < 32 ∨ 80 ≤ l)
/-- A lane that only transmits. -/
def laneSendsOnly (l : Nat) : Bool := !laneReceives l
/-- A lane with a transmitter. -/
def laneSendsAt (l : Nat) : Bool := decide (32 ≤ l ∧ l < 80 ∨ 88 ≤ l)
/-- A lane of an SDI transmit quad. -/
def laneSdiOut (l : Nat) : Bool := decide (64 ≤ l ∧ l < 80)

/-- The preset role of a lane's receiver, and of its transmitter (R94). -/
def rxRole (l : Nat) : Nat := if l < 32 then 0 else if l < 88 then 3 else 4
def txRole (l : Nat) : Nat := if l < 64 then 1 else if l < 80 then 2 else 5

def srcLane (l : Nat) : Nat := 0x0600 + l

/-- The Ethernet speed modes that use all four lanes of the quad (R75). -/
def State.ethUses (s : State) (l : Nat) : Bool :=
  let p := (l - 88) / 4
  decide (88 ≤ l) && s.on (F.ETH_CFG.EN p) && (decide (s.get (F.ETH_CFG.SPEED p) < 2) || l % 4 == 0)

/-- The LANE record that names a lane. -/
def State.laneLink (s : State) (l : Nat) : Option LaneRec := s.cfg.lanes.find? (fun r => (r.lanes.take r.count).contains l)

/-- The lane is in a link (R75). -/
def State.inLink (s : State) (l : Nat) : Bool := if 88 ≤ l then s.ethUses l else (s.laneLink l).isSome

/-- The nominal rate in Mbit/s of a sensor or Ethernet lane, rounded (Tables 3.1 and 16.1); the SDI registers and the received
format set an SDI lane's. -/
def State.laneRate (s : State) (l : Nat) : Nat :=
  if 88 ≤ l then (if s.get (F.ETH_CFG.SPEED ((l - 88) / 4)) = 3 then 10313 else 25781)
  else match s.laneLink l with
    | some r => if r.rate = 0 then s.get (F.LNK_RATE.MBPS l) else r.rate
    | none => 0

def State.band (s : State) : Nat := s.get F.THM_STAT.BAND

/-! ### Transmit equalisation (R80, R81, R94) -/

/-- PRE and POST as the device uses them: scaled down in proportion, rounded down, when their sum is above 40. -/
def scaledCursors (pre post : Nat) : Nat × Nat :=
  if 40 < pre + post then (pre * 40 / (pre + post), post * 40 / (pre + post)) else (pre, post)

/-- SWING, PRE and POST in use. An SDI lane has no SWING of its own (0). -/
def State.txEqWanted (s : State) (l : Nat) : Nat × Nat × Nat :=
  let b := s.band
  let (sw, pre, post) :=
    if s.on (F.LNK_TXEQ.OVERRIDE l) then (s.get (F.LNK_TXEQ.SWING l), s.get (F.LNK_TXEQ.PRE l), s.get (F.LNK_TXEQ.POST l))
    else (s.get (F.LNK_PRESET.SWING (txRole l) b), s.get (F.LNK_PRESET.PRE (txRole l) b), s.get (F.LNK_PRESET.POST (txRole l) b))
  (if laneSdiOut l then 0 else sw, scaledCursors pre post)

/-- Differential peak-to-peak swing in mV; none where the SDI standard fixes it. -/
def swingMv (l sw : Nat) : Option Nat := if laneSdiOut l then none else some (400 + 20 * sw)
/-- The main cursor's weight in 64ths; the pre- and post-cursor weights are −PRE and −POST 64ths. -/
def mainWeight (pre post : Nat) : Nat := 64 - (pre + post)

/-- The equalisation in use from the lane's next 64-UI boundary, which loses no bit. What the lane drives is sent out: the swing in
mV, then the sizes of the pre-cursor, main and post-cursor weights in 64ths. -/
def State.applyTxEq (s : State) (l : Nat) : State :=
  let e := s.txEqWanted l
  (s.setLane l { s.lane l with eq := e }).emit "txEq" l
    ((swingMv l e.1).toList ++ [e.2.1, mainWeight e.2.1 e.2.2, e.2.2])

/-- The band's preset, or LNK_TXEQ under OVERRIDE, is loaded; LNK_STAT.BAND shows the band. -/
def State.loadTxEq (s : State) (l : Nat) : State := (s.applyTxEq l).put (F.LNK_STAT.BAND l) s.band

/-- A write of LNK_TXEQ changes the equalisation of a lane in a link; one that ends OVERRIDE brings in the preset of the band in
force. -/
def wrLnkTxeq (l src : Nat) (v : Word) (s : State) : State :=
  let was := s.on (F.LNK_TXEQ.OVERRIDE l)
  let s := s.plainWrite src (R.LNK_TXEQ l) v
  if !s.inLink l then s
  else if s.on (F.LNK_TXEQ.OVERRIDE l) then s.applyTxEq l
  else if was then s.loadTxEq l
  else s

/-! ### Effects on the links above -/

/-- The sensor receive link that a lane belongs to. -/
def State.rxLinkOf (s : State) (l : Nat) : Option Nat := (s.laneLink l).bind (fun r => if r.link < 2 then some r.link else none)
def State.txLinkOf (s : State) (l : Nat) : Option Nat :=
  (s.laneLink l).bind (fun r => if r.link = 2 ∨ r.link = 3 then some (r.link - 2) else none)

/-- The logical lane `k` of a raw link is aligned no more (R95, R113). -/
def State.rawUnalign (s : State) (p k : Nat) : State :=
  (s.setBit (F.SLK_STAT.RAW_ALIGNED p) k false).setRx p { s.rxH p with rawSeen := serase (s.rxH p).rawSeen k }

/-- Lane `l` of raw link `p` has to find its word boundary again; a framed link knows no such alignment. -/
def State.laneUnalign (s : State) (p l : Nat) : State :=
  match (s.cfg.linkLanes p).findIdx? (· == l) with
  | some k => s.rawUnalign p k
  | none => s

/-- A receive lane's data becomes valid: its link goes on to align, afresh or again (R107, Table 4.5). -/
def State.laneUp (s : State) (l : Nat) : State :=
  match s.rxLinkOf l with
  | some p => if s.rxState p = 1 then s.rxLanes p else ((s.when (s.on (F.SLK_RXCFG.RAW p)) (·.laneUnalign p l)).rxRealign p)
  | none => s

/-- A transmit lane is up. -/
def State.laneSends (s : State) (l : Nat) : State :=
  match s.txLinkOf l with
  | some p => s.txLanes p
  | none => s

/-- Loss of signal on a lane takes its sensor link down (R106). -/
def State.laneDown (s : State) (l : Nat) : State :=
  match s.rxLinkOf l with
  | some p => s.rxDown p
  | none => s

/-! ### Figure of merit (R82, R83) -/

/-- The FOM of a set of openings; a closed centre gives 0. -/
def fomOf (wl wr hu hd : Nat) : Nat := min 255 (4 * min (wl + wr) (hu + hd))

/-- LNK_FOM holds one update. -/
def State.showFom (s : State) (l wl wr hu hd : Nat) : State :=
  s.andThen [(·.put (F.LNK_FOM.W l) (wl + wr)), (·.put (F.LNK_FOM.H l) (hu + hd)), (·.put (F.LNK_FOM.FOM l) (fomOf wl wr hu hd)),
    (·.incr (F.LNK_FOM.UPDATES l))]

def cnt (n : Nat) : Nat := max 1 n

/-- The link reference is out of limits and this lane runs from it (R79). -/
def State.refGone (s : State) (l : Nat) : Bool := decide (l < 64) && s.on F.LNK_REFSTAT.IN_LOST

/-- LOL from the detector's counts: set after LOL_CNT low updates, cleared after as many good ones. While the link reference is out of
limits every update asserts it (R79). -/
def State.lolAfter (s : State) (l : Nat) (y : LaneRun) : Bool :=
  s.refGone l ||
    (if s.on (F.LNK_STAT.LOL l) then decide (y.lolOk < cnt (s.get (F.LNK_DET.LOL_CNT l)))
     else decide (cnt (s.get (F.LNK_DET.LOL_CNT l)) ≤ y.lolLow))

def State.losAfter (s : State) (l : Nat) (y : LaneRun) : Bool :=
  if s.on (F.LNK_STAT.LOS l) then decide (y.losOk < cnt (s.get (F.LNK_DET.LOS_CNT l)))
  else decide (cnt (s.get (F.LNK_DET.LOS_CNT l)) ≤ y.losLow)

/-- The updates in a row below and above each threshold, with one more of `fom` (R87). -/
def State.countFom (s : State) (l fom : Nat) : LaneRun :=
  let x := s.lane l
  let losT := s.get (F.LNK_DET.LOS_THR l)
  let lolT := max (s.get (F.LNK_DET.LOL_THR l)) losT
  let hy := s.get (F.LNK_DET.HYST l)
  let up (b : Bool) (n : Nat) : Nat := if b then n + 1 else 0
  { x with losLow := up (decide (fom < losT)) x.losLow, losOk := up (decide (losT + hy ≤ fom)) x.losOk
           lolLow := up (decide (fom < lolT)) x.lolLow, lolOk := up (decide (lolT + hy ≤ fom)) x.lolOk }

/-- The detectors on one update of `fom` (R87, R88, R89). LOS takes LOL with it and is the cause its event names; an assertion of LOL
that LOS makes, or that comes while LOS is still set, is counted in LOS_EVENTS alone and posts no event of its own (DESIGN
CHOICE, log 24: R88 gives LOL's event and count to LOL without LOS). -/
def State.detect (s : State) (l fom : Nat) : State :=
  let y := s.countFom l fom
  let los := s.on (F.LNK_STAT.LOS l)
  let lol := s.on (F.LNK_STAT.LOL l)
  let los' := s.losAfter l y
  let lol' := (los' && !los) || s.lolAfter l y
  let s := (s.setLane l y).andThen [(·.putB (F.LNK_STAT.LOS l) los'), (·.putB (F.LNK_STAT.LOL l) lol')]
  let s := if los' && !los then (((s.put (F.LNK_STAT.UP l) 0).bump (F.LNK_STAT.LOS_EVENTS l)).post (srcLane l) 4 3 l fom).laneDown l
    else if lol' && !lol then
      let s := s.put (F.LNK_STAT.UP l) 0
      if los' then s else (s.bump (F.LNK_STAT.LOL_EVENTS l)).post (srcLane l) 3 3 l fom
    else s
  if los && !los' then (s.put (F.LNK_STAT.STATE l) 2).put (F.LNK_STAT.UP l) 0
  else if lol && !lol' && !los' then (s.put (F.LNK_STAT.UP l) 1).laneUp l
  else s

/-! ### Continuous adaptation (R85) -/

/-- Eight DFE taps into LNK_DFE0 and LNK_DFE1, and the sampler offset. -/
def State.takeTaps (s : State) (l : Nat) (taps : List Byte) (ofs : Byte) : State :=
  let tap (i : Nat) : Nat := (taps.getD i 0).toNat
  let word (i : Nat) : Word := BitVec.ofNat 32 (tap i + 256 * tap (i + 1) + 65536 * tap (i + 2) + 16777216 * tap (i + 3))
  ((s.setLane l { s.lane l with ofs := ofs }).wreg (R.LNK_DFE0 l) (word 0)).wreg (R.LNK_DFE1 l) (word 4)

/-- The data slice follows the signal: the lane is up, or waits out a loss of lock with AUTO_RETRAIN = 0 (R89), and ADAPT is not
0b00, which freezes every coefficient. -/
def State.adapts (s : State) (l : Nat) : Bool :=
  s.get (F.LNK_CTRL.ADAPT l) != 0 &&
    (s.on (F.LNK_STAT.UP l) || (s.on (F.LNK_STAT.LOL l) && !s.on (F.LNK_STAT.LOS l) && !s.on (F.LNK_CTRL.AUTO_RETRAIN l)))

/-- Where the LMS steps since the last update have brought the data slice. CTLE and VGA stay fixed. -/
def State.follow (s : State) (l : Nat) (taps : List Byte) (ofs : Byte) : State := if s.adapts l then s.takeTaps l taps ofs else s

/-- A FOM update of a receive lane that is in a link and past bring-up; none is made while an adaptation or a recalibration runs.
`taps` and `ofs` are the data slice's as the LMS loop would have them now. -/
def State.fomUpdate (s : State) (l : Nat) (centre : Bool) (wl wr hu hd : Nat) (taps : List Byte) (ofs : Byte) : State :=
  if !laneReceives l || !s.on (F.LNK_STAT.IN_LINK l) || s.laneState l != 4 then s else
    let z (n : Nat) : Nat := if centre then min n 32 else 0
    ((s.follow l taps ofs).showFom l (z wl) (z wr) (z hu) (z hd)).detect l (fomOf (z wl) (z wr) (z hu) (z hd))

def execFomUpdate (l : Fin 96) (centre : Bool) (w h : Nat × Nat) (taps : List Byte) (ofs : Byte) (s : State) :
    Host.Outcome State Fault Refusal :=
  s.running (s.fomUpdate l.val centre w.1 w.2 h.1 h.2 taps ofs)

/-! ### Bring-up (R86, Table 3.4) -/

/-- The quad PLL is locked: a receiver acquires the signal, a transmitter is up with its equalisation. -/
def State.laneClocked (s : State) (l : Nat) : State :=
  if s.laneState l ≠ 1 then s
  else if laneSendsOnly l then ((s.loadTxEq l).andThen [(·.put (F.LNK_STAT.STATE l) 4), (·.put (F.LNK_STAT.UP l) 1)]).laneSends l
  else (if 88 ≤ l then s.loadTxEq l else s).put (F.LNK_STAT.STATE l) 2

/-- A lane enters a link: its quad's domain is on and it waits for the quad PLL. -/
def State.laneEnter (s : State) (l : Nat) : State :=
  if !s.inLink l || s.laneState l != 0 then s else
    let s := s.bringUp (48 + laneQuad l)
    let s := s.andThen [(·.put (F.LNK_STAT.IN_LINK l) 1), (·.put (F.LNK_STAT.STATE l) 1), (·.put (F.LNK_RATE.MBPS l) (s.laneRate l)),
      (·.putB (F.LNK_RATE.SSC l) (decide (l < 64) && s.on F.LNK_REFCFG.SSC && !s.on F.LNK_REFCFG.SRC))]
    if s.quadPll.testBit (laneQuad l) then s.laneClocked l else s

def execLaneEnterLink (l : Fin 96) (s : State) : Host.Outcome State Fault Refusal := s.running (s.laneEnter l.val)

/-- The PLL of a quad locks. -/
def State.quadLock (s : State) (q : Nat) : State :=
  if s.domOn (48 + q) then
    [0, 1, 2, 3].foldl (fun s i => s.laneClocked (4 * q + i)) { s with quadPll := s.quadPll ||| 2 ^ q }
  else s

/-- A recalibration in progress stops with RESULT = 4, its trial values discarded (R92). -/
def State.recalStops (s : State) (l : Nat) : State :=
  match (s.lane l).recal with
  | none => s
  | some _ => (s.setLane l { s.lane l with recal := none }).andThen
      [(·.put (F.LNK_RECAL.BUSY l) 0), (·.put (F.LNK_RECAL.RESULT l) 4), (·.put (F.LNK_STAT.STATE l) (s.lane l).back)]

/-- A lane that is in no link any more is electrically idle (R75), and its link has lost it (R106). A recalibration in progress stops
(R92). -/
def State.laneLeave (s : State) (l : Nat) : State :=
  if s.laneState l = 0 then s else
    (((s.recalStops l).setLane l laneInit).andThen [(·.put (F.LNK_STAT.IN_LINK l) 0), (·.put (F.LNK_STAT.UP l) 0), (·.put (F.LNK_STAT.LOS l) 0),
      (·.put (F.LNK_STAT.LOL l) 0), (·.put (F.LNK_STAT.STATE l) 0), (·.put (F.LNK_RATE.MBPS l) 0), (·.put (F.LNK_RATE.SSC l) 0)]).laneDown l

def execCdrLock (l : Fin 96) (s : State) : Host.Outcome State Fault Refusal :=
  s.running (if s.laneState l.val = 2 then (s.put (F.LNK_STAT.STATE l.val) 3).setLane l.val { s.lane l.val with retry := false } else s)

/-! ### Adaptation (R84) -/

/-- The CTLE codes that a sweep tries, lowest first: the one given with OVERRIDE = 1, else preset − 3 to preset + 3 within 0 to 15. -/
def State.ctleCodes (s : State) (l : Nat) : List Nat :=
  if s.on (F.LNK_RXEQ.OVERRIDE l) then [s.get (F.LNK_RXEQ.CTLE l)]
  else
    let p := s.get (F.LNK_PRESET.CTLE (rxRole l) s.band)
    (List.range (min 15 (p + 3) + 1 - (p - 3))).map (fun i => p - 3 + i)

/-- The code with the highest FOM, and on a tie the lowest code. -/
def bestCode : List Nat → List Byte → Nat × Nat → Nat
  | c :: cs, f :: fs, (best, fom) => bestCode cs fs (if fom < f.toNat then (c, f.toNat) else (best, fom))
  | _, _, (best, _) => best

def State.ctleChosen (s : State) (l : Nat) (sweep : List Byte) : Nat :=
  let codes := s.ctleCodes l
  bestCode (codes.drop 1) (sweep.drop 1) (codes.headD 0, (sweep.headD 0).toNat)

/-- The codes and taps that an adaptation settled on. -/
def State.takeAdapt (s : State) (l : Nat) (a : AdaptOut) : State :=
  let s := s.setLane l { s.lane l with ctle := s.ctleChosen l a.sweep }
  (s.put (F.LNK_RXEQ.VGA l) a.vga).takeTaps l a.taps a.ofs

def adaptFom (a : AdaptOut) : Nat := fomOf (min a.wl 32) (min a.wr 32) (min a.hu 32) (min a.hd 32)

/-- LNK_FOM after an adaptation: the final update, with those of the sweep counted before it. -/
def State.showAdapt (s : State) (l : Nat) (a : AdaptOut) : State :=
  let n := (s.ctleCodes l).length
  (s.put (F.LNK_FOM.UPDATES l) ((s.get (F.LNK_FOM.UPDATES l) + n) % 256)).showFom l (min a.wl 32) (min a.wr 32) (min a.hu 32) (min a.hd 32)

/-- The lane is up. Neither LOS nor LOL stays set, and the detectors count afresh: R88 has UP = 0 while either is set, and R86 sets
UP on the final FOM alone (DEDUCED, log 25). -/
def State.laneComesUp (s : State) (l : Nat) : State :=
  let s := s.setLane l { s.lane l with losLow := 0, losOk := 0, lolLow := 0, lolOk := 0, retry := false }
  (s.andThen [(·.put (F.LNK_STAT.STATE l) 4), (·.put (F.LNK_STAT.LOS l) 0), (·.put (F.LNK_STAT.LOL l) 0), (·.put (F.LNK_STAT.UP l) 1)]).laneUp l

/-- The end of an initial adaptation: up when the final FOM reaches LOL_THR, else an event and another try. -/
def State.adaptEnds (s : State) (l : Nat) (a : AdaptOut) : State :=
  let s := ((s.showAdapt l a).takeAdapt l a).put (F.LNK_STAT.BAND l) s.band
  if s.get (F.LNK_DET.LOL_THR l) ≤ adaptFom a then s.laneComesUp l
  else ((s.setLane l { s.lane l with retry := true }).put (F.LNK_STAT.STATE l) 3).post (srcLane l) 4 3 l (adaptFom a)

def execInitialAdaptationDone (l : Fin 96) (a : AdaptOut) (s : State) : Host.Outcome State Fault Refusal :=
  s.running (if s.laneState l.val = 3 ∧ !(s.lane l.val).retry then s.adaptEnds l.val a else s)

/-- The initial adaptation that failed starts again. -/
def execAdaptationRetryTimeout (l : Fin 96) (s : State) : Host.Outcome State Fault Refusal :=
  s.running (if s.laneState l.val = 3 then s.setLane l.val { s.lane l.val with retry := false } else s)

/-! ### Recalibration (R89 to R92) -/

/-- A recalibration starts; out of service the lane's data becomes invalid. -/
def State.recalStart (s : State) (l mode : Nat) : State :=
  let s := s.setLane l { s.lane l with recal := some mode, back := s.laneState l }
  let s := s.andThen [(·.put (F.LNK_RECAL.BUSY l) 1), (·.put (F.LNK_STAT.STATE l) (if mode = 0 then 5 else 6))]
  if mode = 0 then s else s.put (F.LNK_STAT.UP l) 0

/-- What R92 rejects: a request while one runs, one in service on a lane that is not up or has no monitor slice, any while LOS is set;
and any on a lane whose CDR is not locked, such as one in no link (DESIGN CHOICE, log 26: R91 runs "with the CDR still locked"). -/
def State.recalRejected (s : State) (l mode : Nat) : Bool :=
  s.on (F.LNK_RECAL.BUSY l) || (mode == 0 && (!s.on (F.LNK_STAT.UP l) || laneSendsOnly l)) || s.on (F.LNK_STAT.LOS l) || decide (s.laneState l < 3)

/-- A write of LNK_RECAL. -/
def wrLnkRecal (l : Nat) (v : Word) (s : State) : State :=
  if !v.getLsbD 0 then s else
    let mode := if v.getLsbD 1 then 1 else 0
    if s.recalRejected l mode then s.put (F.LNK_RECAL.RESULT l) 5 else s.recalStart l mode

def execRecalInService (l : Fin 96) (s : State) : Host.Outcome State Fault Refusal :=
  s.running (s.guardWrite (R.LNK_RECAL l.val) (wrLnkRecal l.val 1))

def execRecalOutOfService (l : Fin 96) (s : State) : Host.Outcome State Fault Refusal :=
  s.running (s.guardWrite (R.LNK_RECAL l.val) (wrLnkRecal l.val 3))

/-- A transmit lane's recalibration ends: its impedance is new and it sends again (R91). -/
def State.recalSendDone (s : State) (l back : Nat) : State :=
  (((s.loadTxEq l).put (F.LNK_STAT.STATE l) back).putB (F.LNK_STAT.UP l) (back == 4)).put (F.LNK_RECAL.RESULT l) 1

/-- An in-service recalibration ends (R90). -/
def State.recalInDone (s : State) (l back before : Nat) (a : AdaptOut) : State :=
  let result (r : Nat) (s : State) : State := s.put (F.LNK_RECAL.RESULT l) r
  let s := (s.put (F.LNK_STAT.STATE l) back).put (F.LNK_RECAL.FOM_BEFORE l) before
  if before < s.get (F.LNK_DET.LOS_THR l) then result 3 s
  else
    let s := s.put (F.LNK_RECAL.FOM_AFTER l) (adaptFom a)
    if adaptFom a < s.get (F.LNK_DET.LOS_THR l) then result 3 s
    else if before ≤ adaptFom a then result 1 (s.takeTaps l a.taps a.ofs)
    else result 2 s

/-- An out-of-service recalibration ends (R91): RESULT = 1 with the new values when the final FOM reaches LOL_THR; else RESULT = 2
with the previous values (DESIGN CHOICE, log 26: R91 gives no RESULT of a failure). One that the retrain rule forced, or that the
return of the link reference overtook, is followed by bring-up from CDR acquisition (R86, R79); after another the lane is up again,
a failed one only when neither LOS nor LOL is set. -/
def State.recalOutDone (s : State) (l mode back before : Nat) (a : AdaptOut) : State :=
  let s := ((s.put (F.LNK_RECAL.FOM_BEFORE l) before).put (F.LNK_RECAL.FOM_AFTER l) (adaptFom a)).showAdapt l a
  let ok := decide (s.get (F.LNK_DET.LOL_THR l) ≤ adaptFom a)
  let s := s.put (F.LNK_RECAL.RESULT l) (if ok then 1 else 2)
  let s := if ok then (s.takeAdapt l a).put (F.LNK_STAT.BAND l) s.band else s
  if mode = 2 ∨ back = 2 then s.put (F.LNK_STAT.STATE l) 2
  else if ok then s.laneComesUp l
  else
    let s := s.put (F.LNK_STAT.STATE l) back
    if back = 4 ∧ !s.on (F.LNK_STAT.LOS l) ∧ !s.on (F.LNK_STAT.LOL l) then (s.put (F.LNK_STAT.UP l) 1).laneUp l else s

/-- A recalibration ends. `before` is the FOM on the coefficients in use, `a` what the adaptation measured. -/
def State.recalDone (s : State) (l before : Nat) (a : AdaptOut) : State :=
  match (s.lane l).recal with
  | none => s
  | some mode =>
    let back := (s.lane l).back
    let s := (s.setLane l { s.lane l with recal := none }).put (F.LNK_RECAL.BUSY l) 0
    if laneSendsOnly l then s.recalSendDone l back
    else if mode = 0 then s.recalInDone l back before a
    else s.recalOutDone l mode back before a

def execRecalDone (l : Fin 96) (before : Byte) (a : AdaptOut) (s : State) : Host.Outcome State Fault Refusal :=
  s.running (s.recalDone l.val before.toNat a)

/-- LOL without LOS has lasted RETRAIN_MS. -/
def State.lolTimeout (s : State) (l : Nat) : State :=
  if s.laneState l = 4 ∧ s.on (F.LNK_STAT.LOL l) ∧ !s.on (F.LNK_STAT.LOS l) ∧ s.on (F.LNK_CTRL.AUTO_RETRAIN l) ∧ (s.lane l).recal = none then
    s.recalStart l 2
  else s

def execLolRetrainTimeout (l : Fin 96) (s : State) : Host.Outcome State Fault Refusal := s.running (s.lolTimeout l.val)

/-- On a change of device band, each lane in a link takes the new band's preset (R93). -/
def State.laneBand (s : State) (l : Nat) : State :=
  if !s.on (F.LNK_STAT.IN_LINK l) then s else
    let s := if (laneSendsOnly l || decide (88 ≤ l)) && !s.on (F.LNK_TXEQ.OVERRIDE l) then s.loadTxEq l else s
    if laneReceives l && s.on (F.LNK_STAT.UP l) && !s.on (F.LNK_RXEQ.OVERRIDE l) && (s.lane l).recal.isNone then s.recalStart l 0 else s

/-- LNK_RXEQ as it reads: with OVERRIDE = 0 its CTLE field is the code chosen (Table 3.11). -/
def State.rxeqView (s : State) (l : Nat) : Word :=
  if s.on (F.LNK_RXEQ.OVERRIDE l) then s.reg (R.LNK_RXEQ l) else setBits (s.reg (R.LNK_RXEQ l)) 19 16 (s.lane l).ctle

/-! ### The link reference (R76 to R79) -/

/-- What LINK_REFCLK_OUTn drives: nothing when its OUT_EN bit is clear; else the source, the nominal frequency in kHz and
whether the internal reference is spread (R76, R77). -/
def State.refOut (s : State) (n : Nat) : List Nat :=
  if (s.get F.LNK_REFCFG.OUT_EN).testBit n then
    [s.get F.LNK_REFCFG.SRC, if s.on F.LNK_REFCFG.FREQ then 156250 else 100000,
      if s.on F.LNK_REFCFG.SSC && !s.on F.LNK_REFCFG.SRC then 1 else 0]
  else []

/-- LNK_REFCFG takes effect while lanes 0 to 63 are idle; else it is ignored with an event (R78). The four outputs follow. -/
def wrLnkRefcfg (src : Nat) (v : Word) (s : State) : State :=
  if (List.range 64).all (fun l => s.laneState l == 0) then
    let s := s.plainWrite src R.LNK_REFCFG v
    [0, 1, 2, 3].foldl (fun (s : State) (n : Nat) => s.emit "linkRefOut" n (s.refOut n)) s
  else s.postIgnored src 3 R.LNK_REFCFG

def execLnkRefcfgWrite (v : Word) (src : Nat) (s : State) : Host.Outcome State Fault Refusal :=
  s.running (s.guardWrite R.LNK_REFCFG (wrLnkRefcfg src v))

/-- The reference leaves its limits: every up receive lane from 0 to 63 asserts loss of lock at its next update. -/
def execLinkReferenceLost (s : State) : Host.Outcome State Fault Refusal :=
  s.running (if s.on F.LNK_REFSTAT.IN_LOST then s else (s.put F.LNK_REFSTAT.IN_LOST 1).post 0x0600 5 3 0 0)

/-- A lane that lost lock with the reference goes back to CDR acquisition; one in recalibration does when that ends. -/
def State.refReturns (s : State) (l : Nat) : State :=
  if !(laneReceives l && s.on (F.LNK_STAT.LOL l)) then s
  else if s.laneState l = 4 then s.put (F.LNK_STAT.STATE l) 2
  else if (s.lane l).recal.isSome then s.setLane l { s.lane l with back := 2 }
  else s

/-- The reference has been within limits for 1 ms: the lanes that lost lock return through bring-up. -/
def execLinkReferenceRestored (s : State) : Host.Outcome State Fault Refusal :=
  s.running (if !s.on F.LNK_REFSTAT.IN_LOST then s else
    (List.range 64).foldl State.refReturns (s.put F.LNK_REFSTAT.IN_LOST 0))

/-! ### Bit-slip (R95) -/

/-- The raw word width of a lane, 0 when its link is not in raw mode. -/
def State.slipWidth (s : State) (l : Nat) : Nat :=
  match s.rxLinkOf l with
  | some p => if s.on (F.SLK_RXCFG.RAW p) then (match s.cfg.syncOf p with | some r => r.width | none => 0) else 0
  | none => 0

def wrLnkSlip (l : Nat) (v : Word) (s : State) : State :=
  if v.getLsbD 0 && !s.on (F.LNK_SLIP.PENDING l) && s.on (F.LNK_STAT.UP l) && decide (0 < s.slipWidth l) then s.put (F.LNK_SLIP.PENDING l) 1
  else s

def execBitSlip (l : Fin 96) (s : State) : Host.Outcome State Fault Refusal :=
  s.running (s.guardWrite (R.LNK_SLIP l.val) (wrLnkSlip l.val 1))

/-- The slip is applied: OFFSET advances, and the lane is no longer aligned at its old offset (R95, R113). The word that straddles the
move is among no command's words: a lane delivers whole words at its offset. -/
def State.slipApplied (s : State) (l : Nat) : State :=
  if !s.on (F.LNK_SLIP.PENDING l) then s else
    let w := max 1 (s.slipWidth l)
    let s := (s.put (F.LNK_SLIP.PENDING l) 0).put (F.LNK_SLIP.OFFSET l) ((s.get (F.LNK_SLIP.OFFSET l) + 1) % w)
    match s.rxLinkOf l with
    | some p => s.laneUnalign p l
    | none => s

def execSlipApplied (l : Fin 96) (s : State) : Host.Outcome State Fault Refusal := s.running (s.slipApplied l.val)

/-! ### Test patterns (R96) -/

/-- The polynomials of the patterns as the two bits back that the next bit is the sum of, and whether the sequence is sent inverted
(ITU-T O.150; PRESUMED, log 27: the spec names the recommendation and not its polynomials). -/
def prbsTaps : Nat → Option (Nat × Nat × Bool)
  | 1 => some (7, 6, false)
  | 2 => some (9, 5, false)
  | 3 => some (15, 14, true)
  | 4 => some (23, 18, true)
  | 5 => some (31, 28, true)
  | _ => none

/-- The next bit of a sequence after `h`, newest first, before inversion. -/
def prbsBit (a b : Nat) (h : List Bool) : Bool := h.getD (a - 1) false ^^ h.getD (b - 1) false

/-- What a generator sends in place of link data, its sequence beginning with ones: `n` bits of a pattern. -/
def prbsSend (a b : Nat) (inv : Bool) : Nat → List Bool → List Bool
  | 0, _ => []
  | n + 1, h => let x := prbsBit a b h; (x ^^ inv) :: prbsSend a b inv n (x :: h.take (a - 1))

/-- A lane under test: GEN or CHECK set on a lane in a link. LNK_STAT.STATE reads 7. -/
def State.statView (s : State) (l : Nat) : Word :=
  if s.laneTest l then setBits (s.reg (R.LNK_STAT l)) 26 24 7 else s.reg (R.LNK_STAT l)

/-- A write of LNK_PRBS. A lane whose test ends carries its link's data again. LOCKED clears when CHECK is cleared and at no other
time (DESIGN CHOICE, log 28: the spec says only when it is set). What the transmitter sends, the first bits of the pattern or link data
again, is sent out. -/
def wrLnkPrbs (l src : Nat) (v : Word) (s : State) : State :=
  let was := s.laneTest l
  let s := s.plainWrite src (R.LNK_PRBS l) v
  let s := if s.on (F.LNK_PRBS.CHECK l) then s
    else (s.put (F.LNK_PRBS.LOCKED l) 0).setLane l { s.lane l with prbs := [], clean := 0 }
  let s := match prbsTaps (s.get (F.LNK_PRBS.PATTERN l)) with
    | some (a, b, inv) =>
      if laneSendsAt l && s.on (F.LNK_PRBS.GEN l) && s.on (F.LNK_STAT.IN_LINK l) then
        s.emit "prbs" l (s.get (F.LNK_PRBS.PATTERN l) :: (prbsSend a b inv 64 (List.replicate a true)).map Bool.toNat)
      else s
    | none => s
  if was && !s.laneTest l && s.on (F.LNK_STAT.UP l) then (if laneReceives l then s.laneUp l else s.laneSends l) else s

/-- The checker takes a bit: until it is locked it predicts from the bits received; once 64 in a row were right it is locked, keeps the
sequence by itself and counts the bits that differ. A history of zeros, which no sequence holds, predicts nothing. -/
def checkBit (a b : Nat) (x : List Bool × Nat × Bool × Nat) (bit : Bool) : List Bool × Nat × Bool × Nat :=
  let (h, clean, locked, errors) := x
  let want := prbsBit a b h
  if locked then (want :: h.take (a - 1), clean, true, if bit == want then errors else errors + 1)
  else
    let n := if h.length = a ∧ h.any id ∧ bit == want then clean + 1 else 0
    (bit :: h.take (a - 1), n, decide (64 ≤ n), errors)

/-- The received bits of a lane as its pattern has them: POLARITY and the sequence's own inversion undone. -/
def State.prbsReceived (s : State) (l : Nat) (inv : Bool) (bits : List Bool) : List Bool :=
  bits.map (fun b => b ^^ inv ^^ s.on (F.LNK_CTRL.POLARITY l))

/-- Bits arrive at a receiver whose checker is on. -/
def State.prbsCheck (s : State) (l : Nat) (bits : List Bool) : State :=
  match prbsTaps (s.get (F.LNK_PRBS.PATTERN l)) with
  | none => s
  | some (a, b, inv) =>
    if !(laneReceives l && s.on (F.LNK_STAT.IN_LINK l) && s.on (F.LNK_PRBS.CHECK l)) then s else
      let x := s.lane l
      let r := (s.prbsReceived l inv bits).foldl (checkBit a b) (x.prbs.take a, x.clean, s.on (F.LNK_PRBS.LOCKED l), 0)
      ((s.setLane l { x with prbs := r.1, clean := r.2.1 }).putB (F.LNK_PRBS.LOCKED l) r.2.2.1).bumpBy (F.LNK_ERRCNT.ERRORS l) r.2.2.2

def execPrbsCheckLock (l : Fin 96) (bits : List Bool) (s : State) : Host.Outcome State Fault Refusal := s.running (s.prbsCheck l.val bits)

end Sys2Proof.Machine
end

