-- ==== Sys2Proof/Machine/Net.lean ====
section
/-! DEFINITION. Ethernet frames and IPv4 packets as bytes, from the destination address up to the FCS, which comes apart. -/

namespace Sys2Proof.Machine

/-- A big-endian field of a frame. -/
def beField (l : List Byte) (off n : Nat) : Nat := beNat ((l.drop off).take n)

/-- Bytes before the EtherType's payload: 14, or 18 with one VLAN tag. -/
def macHead (f : List Byte) : Nat := if beField f 12 2 = 0x8100 then 18 else 14

def etherType (f : List Byte) : Nat := beField f (macHead f - 2) 2
def dstMac (f : List Byte) : Nat := beField f 0 6
def srcMac (f : List Byte) : Nat := beField f 6 6

/-- An IPv4 address as ETH_SPk_IP holds it: the first octet in bits 7:0. -/
def ipField (l : List Byte) (off : Nat) : Nat := leNat ((l.drop off).take 4)

/-- The ones' complement sum of 16-bit words. -/
def onesSum : List Byte → Nat
  | [] => 0
  | [a] => a.toNat * 256
  | a :: b :: r => let s := a.toNat * 256 + b.toNat + onesSum r; s % 65536 + s / 65536

/-- An IPv4 packet without options that is no fragment, of a right length and header checksum (R385). -/
def ipOk (f : List Byte) : Bool :=
  let h := f.drop (macHead f)
  etherType f == 0x0800 && (h.headD 0).toNat == 0x45 && decide (20 ≤ beField h 2 2 ∧ beField h 2 2 ≤ h.length) &&
    beField h 6 2 % 0x4000 == 0 && onesSum (h.take 20) == 0xFFFF

def ipSrc (f : List Byte) : Nat := ipField (f.drop (macHead f)) 12
def ipDst (f : List Byte) : Nat := ipField (f.drop (macHead f)) 16
def ipProto (f : List Byte) : Nat := beField (f.drop (macHead f)) 9 1
def ipPayload (f : List Byte) : List Byte := let h := f.drop (macHead f); (h.take (beField h 2 2)).drop 20

/-- UDP ports and payload of an IPv4 frame whose protocol is 17. -/
def udpSrc (f : List Byte) : Nat := beField (ipPayload f) 0 2
def udpDst (f : List Byte) : Nat := beField (ipPayload f) 2 2
def udpData (f : List Byte) : List Byte := ((ipPayload f).take (beField (ipPayload f) 4 2)).drop 8
def isUdp (f : List Byte) : Bool := ipOk f && ipProto f == 17 && decide (8 ≤ beField (ipPayload f) 4 2 ∧ beField (ipPayload f) 4 2 ≤ (ipPayload f).length)

/-- The sub-port's link is up. -/
def State.ethUp (s : State) (p k : Nat) : Bool := (s.get (F.ETH_STAT.LINK p)).testBit k

/-- The ports of 100-gigabit and lower modes: codes 4 to 7 of SPEED act as 0. -/
def State.ethSpeed (s : State) (p : Nat) : Nat := let v := s.get (F.ETH_CFG.SPEED p); if v < 4 then v else 0

/-- The pauses of a sub-port that have not ended, for a packet of priority `prio` (8 for an untagged one). -/
def State.paused (s : State) (sub prio : Nat) : Bool :=
  s.eth.pauses.any (fun e => e.1 == sub && (e.2.1 == 8 || e.2.1 == prio) && decide (s.now.toNat < e.2.2))

/-- A sub-port's IPv4 address, and the PTP multicast address 224.0.1.129, as ETH_SPk_IP holds them. -/
def State.subIp (s : State) (x : Nat) : Nat := s.get (F.ETH_SP_IP.ADDR (x / 4) (x % 4))
def ptpIp : Nat := 0x810100E0

/-- The FEC in use (R381, Table 16.1): 1 RS, 2 clause 74, 3 none. -/
def fecActive (speed fec : Nat) : Nat :=
  if speed = 0 then 1
  else if speed = 3 then (if fec = 2 then 2 else 3)
  else if fec = 0 then 1 else fec

/-- The row of Table 16.10 for a port's mode. -/
def State.tsRow (s : State) (p : Nat) : Nat :=
  match s.ethSpeed p with
  | 0 => 0
  | 3 => 3
  | _ => if s.get (F.ETH_STAT.FEC_ACT p) = 1 then 1 else 2

end Sys2Proof.Machine
end

