-- ==== Sys2Proof/Machine/Reset.lean ====
section
/-! DEFINITION. Cold and warm reset (R501, R555, R333) and the domains that boot needs. -/

namespace Sys2Proof.Machine

/-- Domains that are On when core 0 starts: segments 0 and 1, core 0 and L2, the banks of boot memory (log 15). -/
def bootDomains : List Nat := [139, 140, 119, 123] ++ (List.range 16).map (· + 89)

/-- Core 0 is about to run the boot ROM: step 7 of Table 20.3. -/
def State.startCore0 (s : State) : State := (bootDomains.foldl State.bringUp s).put (F.CPU_CORE_CTL.STATE 0) 1

/-- Registers that a warm reset keeps: the DRAM mapping, wake causes, input readings, residency, and the recorder's
(R501, R555, R320). -/
def keptAtWarm (off : Nat) : Bool :=
  decide (0xD2000 ≤ off ∧ off < 0xD2058) || off == 0x16000C || off == 0x160024 || decide (0x160400 ≤ off ∧ off < 0x160CA0) ||
    decide (0x180008 ≤ off ∧ off < 0x18001C)

/-- The channels whose devices are in self-refresh after a warm reset (R333, R553). -/
def State.refreshing (s : State) (ch : Nat) : Bool :=
  match s.get (F.DRC_CTRL.STATE ch) with
  | 2 | 3 => true
  | 0 => sget false s.dram.selfRef ch
  | _ => false

/-- What both resets keep of the model and of the non-volatile store. -/
def State.coldFrom (s : State) : State :=
  { State.reset with
    pending := s.pending, free := s.free, rdata := s.rdata, out := s.out
    evt := { s.evt with intake := [], supp := [], clearing := none, postData := [] }
    regs := s.regs.filter (fun e => decide (0x180008 ≤ e.1 ∧ e.1 < 0x180010))
    mem := s.mem.filter (fun c => region c.1 == .nvs)
    sec := s.sec
    boot := { State.reset.boot with flash := s.boot.flash }
    thermal := { State.reset.thermal with shutdowns := s.thermal.shutdowns } }

/-- The lanes whose recalibration a reset stops show RESULT = 4 (R92). -/
def State.recalsStopped (t : State) (l : List Nat) : State := l.foldl (fun t k => t.put (F.LNK_RECAL.RESULT k) 4) t

/-- A warm reset with its cause as SYS_RESET.CAUSE codes it. The index of the capture store stays (R423). -/
def State.warmReset (s : State) (cause : Nat) : State :=
  let dirty := if s.on F.DBG_STAT.FROZEN then s.get F.DBG_STAT.DRAM_DIRTY else 0
  let count := s.get F.SYS_RESET.COUNT
  let good := s.get F.PWR_RAIL.GOOD
  let dramKept := (List.range 8).foldl (fun (l : Sparse Bool) c => sset false l c (s.refreshing c || dirty.testBit c)) []
  let s := if s.on F.DBG_STAT.FROZEN then s.emit "FREEZE_ACK" 0 [0] else s
  let t : State := { s.coldFrom with
    regs := s.regs.filter (fun e => keptAtWarm e.1)
    mem := s.mem.filter (fun c => region c.1 == .nvs || region c.1 == .dram)
    badPar := s.badPar.filter (fun a => region a == .dram)
    dram := { State.reset.dram with selfRef := dramKept }
    power := { s.power with mode := .run, demands := [], offDomains := [], offChannels := [], waking := false }
    thermal := { State.reset.thermal with shutdowns := s.thermal.shutdowns }
    xtal := s.xtal
    evt := { s.evt with postData := [] }
    ccp := s.storeKept }
  let t := t.recalsStopped ((s.lanes.filter (fun e => e.2.recal.isSome)).map (·.1))
  t.andThen [(·.put F.SYS_RESET.COUNT (min (count + 1) 255)), (·.put F.SYS_RESET.CAUSE cause), (·.put F.PWR_RAIL.GOOD good), State.startCore0]

end Sys2Proof.Machine
end

