-- ==== Sys2Proof/Machine/Boot.lean ====
section
/-! DEFINITION. Boot (R502 to R508): firmware images and their checks, the order of slots, confirmation, revocation, and
writes to the non-volatile store (R500). -/

namespace Sys2Proof.Machine

/-- The security engine's source ID. -/
def srcSec : Nat := 0x0100

/-- Base of boot memory. -/
def bootMem : Nat := 0x4002000000

/-! ### Images (Tables 22.4 and 22.5) -/

/-- The code of the first check that an image fails, or 0. `room` is how many bytes its source holds. -/
def State.fwCheck (s : State) (img : List Byte) (room : Nat) : Nat :=
  let n := field img 8 4
  let e := field img 0xC 4
  let k := field img 0x1D 1
  let b := img.take n
  if field img 0 4 ≠ 0x5746584B ∨ field img 4 2 ≠ 1 ∨ field img 6 2 ≠ 0x40 then 1
  else if n < 256 ∨ 16777216 < n ∨ n % 8 ≠ 0 ∨ room < n ∨ e % 4 ≠ 0 ∨ n - 64 ≤ e then 2
  else if field img 0x3C 4 ≠ crc32c (img.take 0x3C) then 3
  else if field img 0x18 4 ≠ 0x4B589600 ∨ s.get F.SYS_REV.STEP_MAJOR < field img 0x1C 1 then 4
  else
    match (if k < 4 ∧ ¬ s.sec.revoked.testBit k then sget none s.sec.keys k else none) with
    | none => 5
    | some key =>
      if !edVerify key (b.take (n - 64)) (b.drop (n - 64)) then 6
      else if field img 0x1E 1 < s.sec.floor then 7 else 0

/-- A check that fails posts its code (R504): category 0x7, DATA the FW_VERSION. -/
def State.fwVerify (s : State) (img : List Byte) (room : Nat) : Nat × State :=
  let c := s.fwCheck img room
  (c, if c = 0 then s else s.post srcSec 5 7 c (field img 0x10 8))

/-! ### The QSPI flash -/

/-- An erased byte of the flash. -/
def flashErased : Byte := 0xFF
def State.flashBytes (s : State) (a n : Nat) : List Byte := (List.range n).map (fun i => sget flashErased s.boot.flash (a + i))

/-- The image of a slot: as many bytes as its header names, no more than the slot holds. -/
def State.slotImage (s : State) (k : Nat) : List Byte :=
  let h := s.flashBytes (0x1000000 * k) 64
  h ++ s.flashBytes (0x1000000 * k + 64) (min (field h 8 4) 0x1000000 - 64)

/-- Program a slot. -/
def State.writeSlot (s : State) (k : Nat) (b : List Byte) : State :=
  let cells := ((List.range b.length).zip b).foldl (fun l e => sset flashErased l (0x1000000 * k + e.1) e.2) s.boot.flash
  { s with boot := { s.boot with flash := cells } }

/-! ### Starting firmware -/

/-- A verified image is in boot memory and core 0 jumps to it (R503). -/
def State.runFirmware (s : State) (img : List Byte) (slot source : Nat) : State :=
  let b := img.take (field img 8 4)
  let s := s.setBytes bootMem b
  let s := { s with boot := { s.boot with phase := 2, source := source, booted := slot, rollback := field img 0x1E 1, version := field img 0x10 8, net := none } }
  (s.put (F.CPU_CORE_CTL.STATE 0) 2).emit "core start" 0 [bootMem + field img 0xC 4]

/-- A port that is enabled: the FEC in use, and its lanes in service (R380, R381). -/
def State.ethStart (s : State) (p : Nat) : State :=
  let s := (s.put (F.ETH_STAT.FEC_ACT p) (fecActive (s.ethSpeed p) (s.get (F.ETH_CFG.FEC p)))).put (F.ETH_STAT.AN_FAIL p) 0
  [0, 1, 2, 3].foldl (fun s i => s.laneEnter (88 + 4 * p + i)) s

/-- The addresses of sub-port 0 of ETH0, as an offer gives them; none before one (R395, R509). -/
def State.bootIp (s : State) (ip mask gw : Nat) : State :=
  s.andThen [(·.put (F.ETH_SP_IP.ADDR 0 0) ip), (·.put (F.ETH_SP_MASK.MASK 0 0) mask), (·.put (F.ETH_SP_GW.ADDR 0 0) gw)]

/-- ETH0 comes up at the mode of the reset values of ETH_CFG (R509, R395), with no IP address. -/
def State.bootEth (s : State) : State :=
  let s := ((s.bringUp 124).bringUp 70).bootIp 0 0 0
  if s.on (F.ETH_CFG.EN 0) then s else (s.put (F.ETH_CFG.EN 0) 1).ethStart 0

/-- Network boot begins with BOOT_SOLICIT at link up. -/
def State.startNetBoot (s : State) (source : Nat) : State :=
  let s := s.bootEth
  { s with boot := { s.boot with source := source, net := some ⟨false, 0, 0, 0, 0⟩ } }

def State.enterRecovery (s : State) : State :=
  let s := s.bootEth
  { s with boot := { s.boot with phase := 1, booted := 3, net := none } }

/-- Try slots in order; none where no slot passes. -/
def State.trySlots (s : State) (source : Nat) : List Nat → Option State × State
  | [] => (none, s)
  | k :: r =>
    if s.sec.invalid.testBit k then s.trySlots source r else
      match s.fwVerify (s.slotImage k) 0x1000000 with
      | (0, s) => (some (s.runFirmware (s.slotImage k) k source), s)
      | (_, s) => s.trySlots source r

/-- The order of slots of R505; the attempt is written to the store first. -/
def State.bootSlots (s : State) : State × List Nat :=
  let t := s.sec.trial
  let a := s.sec.active
  if t ≠ 3 ∧ s.sec.attempts < 3 then
    ({ s with sec := { s.sec with attempts := s.sec.attempts + 1 } }, if t = a then [a, 1 - a] else [t, a])
  else (s, [a, 1 - a])

/-- R505. -/
def State.bootFlash (s : State) : State :=
  match s.bootSlots with
  | (s, order) =>
    match s.trySlots 0 order with
    | (some s, _) => s
    | (none, s) => if s.boot.sel = 2 then s.startNetBoot 1 else s.enterRecovery

/-- The source that the pins BOOT_SEL[1:0] choose (Table 22.3). -/
def State.bootRun (s : State) (sel : Nat) : State :=
  let s := { s with boot := { s.boot with sel := sel } }
  match sel with
  | 1 => s.startNetBoot 1
  | 3 => s.enterRecovery
  | _ => s.bootFlash

/-- BOOT_START: core 0 runs the boot ROM, which reports its progress on DBG_UART_TX. -/
def execBootStart (sel : Fin 4) (s : State) : Host.Outcome State Fault Refusal :=
  s.running (if s.get (F.CPU_CORE_CTL.STATE 0) = 1 then
      ((({ s with boot := { s.boot with phase := 0, net := none } }).put (F.CPU_CORE_CTL.STATE 0) 2).emit "uart line" 0 [sel.val]).bootRun sel
    else s)

/-! ### Confirmation and revocation (R506, R508) -/

/-- The running firmware is confirmed. -/
def State.confirm (s : State) : State :=
  let c := s.sec
  let floor := max c.floor s.boot.rollback
  if s.boot.phase ≠ 2 then s
  else if s.boot.booted < 2 then { s with sec := { c with active := s.boot.booted, trial := 3, attempts := 0, floor := floor } }
  else { s with sec := { c with floor := floor } }

def wrSecBoot (v : Word) (s : State) : State := if v.getLsbD 31 then s.confirm else s

def execBootConfirm (v : Word) (s : State) : Host.Outcome State Fault Refusal :=
  s.running (s.guardWrite R.SEC_BOOT (wrSecBoot (v ||| 0x80000000)))

/-- The key slots that hold a key. -/
def State.keysPresent (s : State) : Nat :=
  (List.range 4).foldl (fun m k => if (sget none s.sec.keys k).isSome then m + 2 ^ k else m) 0

/-- A write of SEC_REVOKE (R508). -/
def wrSecRevoke (src : Nat) (v : Word) (s : State) : State :=
  let r := s.sec.revoked ||| getBits v 3 0
  if (List.range 4).any (fun k => s.keysPresent.testBit k && !r.testBit k) then { s with sec := { s.sec with revoked := r } }
  else s.postIgnored src 3 R.SEC_REVOKE

def execKeyRevoke (v : Word) (src : Nat) (s : State) : Host.Outcome State Fault Refusal :=
  s.running (s.guardWrite R.SEC_REVOKE (wrSecRevoke src v))

/-- The SEC registers as they read: from the store and the boot flow (Table 22.12). -/
def rdSec (off : Nat) (s : State) : Word :=
  if off = R.SEC_KEYSTAT then BitVec.ofNat 32 (s.sec.revoked * 256 + s.keysPresent)
  else if off = R.SEC_REVOKE then BitVec.ofNat 32 s.sec.revoked
  else if off = R.SEC_ROLLBACK then BitVec.ofNat 32 s.sec.floor
  else if off = R.SEC_BOOT then
    BitVec.ofNat 32 (s.boot.source * 2 ^ 24 + s.boot.booted * 2 ^ 20 + s.sec.active * 2 ^ 16 + s.sec.trial * 2 ^ 12 + s.sec.attempts)
  else s.reg off

/-! ### The non-volatile store (R500) -/

/-- A write of a 64-bit word by `src`; anything else than an aligned word in the firmware area has no effect. -/
def State.nvsWrite (s : State) (src addr : Nat) (data : List Byte) : State :=
  let o := addr - nvsBase
  if nvsBase ≤ addr ∧ 0x203000 ≤ o ∧ o < 0x3FF000 ∧ addr % 8 = 0 ∧ data.length = 8 then s.setBytes addr data
  else s.post src 3 1 (addr % 4096) addr

def execNvsWrite (src addr : Nat) (data : BitVec 64) (wide : Bool) (s : State) : Host.Outcome State Fault Refusal :=
  s.running (s.nvsWrite src addr (leBytes (if wide then 8 else 4) data.toNat))

/-- WARM_RESET: 0 RESET_N, 1 SYS_RESET.WARM, 2 the watchdog, 3 WARMRST out of a freeze (R531). -/
def execWarmReset (cause : Fin 4) (s : State) : Host.Outcome State Fault Refusal :=
  .next (if !s.power.cosy || s.power.mode == .hibernate || (s.freezing && (cause == 1 || cause == 2)) then s else s.warmReset (cause.val + 1))

end Sys2Proof.Machine
end

