-- ==== Sys2Proof/Machine/Inflate.lean ====
section
/-! DEFINITION. The inverse of DEFLATE (RFC 1951; R308, R309). Bits are listed in stream order, output bytes newest
first while a stream is read. -/

namespace Sys2Proof.Machine

/-- Bytes as bits, least significant first. -/
def lsbBits (b : List Byte) : List Bool := b.flatMap (fun x => (List.range 8).map (fun i => x.getLsbD i))

def lsbNat (l : List Bool) : Nat := l.foldr (fun b a => 2 * a + (if b then 1 else 0)) 0

/-- Take `n` bits as a number, least significant first. -/
def takeBits (n : Nat) (l : List Bool) : Option (Nat × List Bool) :=
  if l.length < n then none else some (lsbNat (l.take n), l.drop n)

/-- A prefix code by the lengths of its symbols: symbols in code order and how many have each length from 1 to 15. -/
structure Huff where
  counts : List Nat
  syms : List Nat

def huffOf (lens : List Nat) : Huff :=
  let at_ (n : Nat) : List Nat := (List.range lens.length).filter (fun i => lens.getD i 0 == n)
  let ls := (List.range 15).map (· + 1)
  ⟨ls.map (fun n => (at_ n).length), ls.flatMap at_⟩

/-- No more codes than the lengths allow. -/
def huffOk (h : Huff) : Bool :=
  decide (((List.range 15).map (fun i => h.counts.getD i 0 * 2 ^ (14 - i))).foldl (· + ·) 0 ≤ 2 ^ 15)

/-- Read a symbol: code so far, first code and index of the current length. -/
def huffRead (h : Huff) : List Nat → Nat → Nat → Nat → List Bool → Option (Nat × List Bool)
  | [], _, _, _, _ => none
  | n :: r, code, first, idx, l =>
    match l with
    | [] => none
    | b :: l =>
      let code := code + (if b then 1 else 0)
      if code < first + n then some (h.syms.getD (idx + (code - first)) 0, l)
      else huffRead h r (2 * code) (2 * (first + n)) (idx + n) l

def huffSym (h : Huff) (l : List Bool) : Option (Nat × List Bool) := huffRead h h.counts 0 0 0 l

/-- Length symbols 257 to 285 and distance symbols 0 to 29: base and extra bits. -/
def lenBase : List (Nat × Nat) := [(3,0),(4,0),(5,0),(6,0),(7,0),(8,0),(9,0),(10,0),(11,1),(13,1),(15,1),(17,1),(19,2),(23,2),(27,2),
  (31,2),(35,3),(43,3),(51,3),(59,3),(67,4),(83,4),(99,4),(115,4),(131,5),(163,5),(195,5),(227,5),(258,0)]
def distBase : List (Nat × Nat) := [(1,0),(2,0),(3,0),(4,0),(5,1),(7,1),(9,2),(13,2),(17,3),(25,3),(33,4),(49,4),(65,5),(97,5),(129,6),
  (193,6),(257,7),(385,7),(513,8),(769,8),(1025,9),(1537,9),(2049,10),(3073,10),(4097,11),(6145,11),(8193,12),(12289,12),(16385,13),(24577,13)]

/-- Copy `n` bytes from `d` back. -/
def copyBack : Nat → Nat → List Byte → List Byte
  | 0, _, out => out
  | n + 1, d, out => copyBack n d (out.getD (d - 1) 0 :: out)

/-- The symbols of a compressed block: bits left and output; the error is 4 StreamError or 1 NoSpace. -/
def inflSyms (limit : Nat) (lit dist : Huff) : Nat → List Bool → List Byte → Except Nat (List Bool × List Byte)
  | 0, _, _ => .error 4
  | fuel + 1, l, out =>
    match huffSym lit l with
    | none => .error 4
    | some (sym, l) =>
      if sym < 256 then
        if limit ≤ out.length then .error 1 else inflSyms limit lit dist fuel l (BitVec.ofNat 8 sym :: out)
      else if sym = 256 then .ok (l, out)
      else
        match lenBase[sym - 257]? with
        | none => .error 4
        | some (lb, le) =>
          match takeBits le l with
          | none => .error 4
          | some (lx, l) =>
            match huffSym dist l with
            | none => .error 4
            | some (ds, l) =>
              match distBase[ds]? with
              | none => .error 4
              | some (db, de) =>
                match takeBits de l with
                | none => .error 4
                | some (dx, l) =>
                  if out.length < db + dx then .error 4
                  else if limit < out.length + lb + lx then .error 1
                  else inflSyms limit lit dist fuel l (copyBack (lb + lx) (db + dx) out)

/-- The code lengths of a dynamic block, `n` in all. -/
def inflLens (h : Huff) (n : Nat) : Nat → List Bool → List Nat → Option (List Nat × List Bool)
  | 0, _, _ => none
  | fuel + 1, l, acc =>
    if acc.length = n then some (acc, l) else
      match huffSym h l with
      | none => none
      | some (sym, l) =>
        if sym < 16 then inflLens h n fuel l (acc ++ [sym]) else
          let (k, base, v) := if sym = 16 then (2, 3, acc.getLast?) else if sym = 17 then (3, 3, some 0) else (7, 11, some 0)
          match takeBits k l, v with
          | some (x, l), some v => if n < acc.length + base + x then none else inflLens h n fuel l (acc ++ List.replicate (base + x) v)
          | _, _ => none

def clOrder : List Nat := [16, 17, 18, 0, 8, 7, 9, 6, 10, 5, 11, 4, 12, 3, 13, 2, 14, 1, 15]

/-- `n` code-length lengths of three bits each. -/
def takeCl : Nat → List Bool → Option (List Nat × List Bool)
  | 0, l => some ([], l)
  | n + 1, l =>
    match takeBits 3 l with
    | none => none
    | some (x, l) => (takeCl n l).map (fun (r, l) => (x :: r, l))

/-- The codes of a dynamic block. -/
def inflDynamic (l : List Bool) : Option (Huff × Huff × List Bool) :=
  match takeBits 14 l with
  | none => none
  | some (x, l) =>
    let hlit := x % 32 + 257
    let hdist := x / 32 % 32 + 1
    match takeCl (x / 1024 + 4) l with
    | none => none
    | some (cl, l) =>
      let lens := (List.range 19).map (fun s => match clOrder.findIdx? (· == s) with | some i => cl.getD i 0 | none => 0)
      let h := huffOf lens
      if !huffOk h || decide (286 < hlit) then none else
        match inflLens h (hlit + hdist) (hlit + hdist + 1) l [] with
        | none => none
        | some (all, l) =>
          let a := huffOf (all.take hlit)
          let b := huffOf (all.drop hlit)
          if huffOk a && huffOk b then some (a, b, l) else none

def fixedLit : Huff := huffOf (List.replicate 144 8 ++ List.replicate 112 9 ++ List.replicate 24 7 ++ List.replicate 8 8)
def fixedDist : Huff := huffOf (List.replicate 30 5)

/-- A block of a stream: its type (0 stored, 1 fixed, 2 dynamic), the bytes it holds, its bits, and the bits it would take stored. -/
structure FlateBlock where
  kind : Nat
  bytes : Nat
  bits : Nat
  asStored : Nat

/-- Blocks up to BFINAL: bits left, output and the blocks, last first. `total` is the number of bits of the stream. -/
def inflBlocks (limit total : Nat) : Nat → List Bool → List Byte → List FlateBlock → Except Nat (List Bool × List Byte × List FlateBlock)
  | 0, _, _, _ => .error 4
  | fuel + 1, l0, out0, blocks =>
    match takeBits 3 l0 with
    | none => .error 4
    | some (h, l) =>
      let body : Except Nat (List Bool × List Byte) :=
        match h / 2 with
        | 0 =>
          let l := l.drop (l.length % 8)
          match takeBits 32 l with
          | none => .error 4
          | some (x, l) =>
            let n := x % 65536
            if n + x / 65536 ≠ 65535 ∨ l.length < 8 * n then .error 4
            else if limit < out0.length + n then .error 1
            else .ok (l.drop (8 * n), ((List.range n).map (fun i => BitVec.ofNat 8 (lsbNat ((l.drop (8 * i)).take 8)))).reverse ++ out0)
        | 1 => inflSyms limit fixedLit fixedDist (total + 1) l out0
        | 2 => match inflDynamic l with
          | none => .error 4
          | some (a, b, l) => inflSyms limit a b (total + 1) l out0
        | _ => .error 4
      match body with
      | .error e => .error e
      | .ok (l, out) =>
        let n := out.length - out0.length
        let blocks := ⟨h / 2, n, l0.length - l.length, 3 + (l0.length - 3) % 8 + 32 + 8 * n⟩ :: blocks
        if h % 2 = 1 then .ok (l, out, blocks) else inflBlocks limit total fuel l out blocks

/-- A stream inflated into at most `limit` bytes: output, input bytes consumed and blocks. -/
def inflate (limit : Nat) (b : List Byte) : Except Nat (List Byte × Nat × List FlateBlock) :=
  let l := lsbBits b
  match inflBlocks limit l.length (l.length + 1) l [] [] with
  | .error e => .error e
  | .ok (rest, out, blocks) => .ok (out.reverse, b.length - rest.length / 8, blocks)

/-- Blocks that are stored. -/
def storedBlocks (l : List FlateBlock) : Nat := (l.filter (fun b => b.kind == 0)).length

/-- A block that the DEFLATE engines may write: at most 65,535 bytes, no dynamic one under FIXED, and a coded one is smaller than the
same bytes stored, which is preferred on a tie (R308). -/
def FlateBlock.written (fixed : Bool) (b : FlateBlock) : Bool :=
  decide (b.bytes ≤ 65535) && !(fixed && b.kind == 2) && (b.kind == 0 || decide (b.bits < b.asStored))

end Sys2Proof.Machine
end

