-- ==== Sys2Proof/Machine/Predict.lean ====
section
/-! DEFINITION. The prediction coder of raw compression (R298 to R304): sublines, stripes, and their inverse. Bits are
listed most significant first. -/

namespace Sys2Proof.Machine

/-- What the coder works with: sample depth D, NEAR, PV, PH, width and RUN_EN. -/
structure PredCfg where
  d : Nat
  near : Nat
  ph : Nat
  pv : Nat
  w : Nat
  run : Bool
deriving DecidableEq, Repr, Inhabited

/-- init() of R301. -/
def predInit (d : Nat) : PredCtx := ⟨List.replicate 512 (max 2 ((2 ^ d + 32) / 64), 1), List.replicate 64 (2, 1)⟩

def bitLen (x : Nat) : Nat := if x = 0 then 0 else Nat.log2 x + 1

/-- cls(g) of R301. -/
def predCls (d g : Nat) : Nat := min 7 (bitLen (g / 2 ^ (d - 10)))

/-- The Rice parameter for (A, N): the least k with N·2^k ≥ A, at most D. -/
def riceK (d : Nat) (a n : Nat) : Nat := ((List.range d).find? (fun k => decide (a ≤ n * 2 ^ k))).getD d

def riceNext (a n m : Nat) : Nat × Nat :=
  let a := (a + m) % 2 ^ 32
  if n + 1 = 64 then (a / 2, 32) else (a, n + 1)

/-- `n` bits of `x`, most significant first. -/
def msbBits : Nat → Nat → List Bool
  | 0, _ => []
  | n + 1, x => x.testBit n :: msbBits n x

def bitsNat (l : List Bool) : Nat := l.foldl (fun a b => 2 * a + (if b then 1 else 0)) 0

/-- The code of M at parameter k (rice of R301). -/
def riceCode (k ew m : Nat) : List Bool :=
  if m / 2 ^ k < 24 then List.replicate (m / 2 ^ k) true ++ false :: msbBits k m
  else List.replicate 24 true ++ msbBits ew m

/-- Read a code: M and the bits left; none when the bits end first. -/
def riceRead (k ew : Nat) (l : List Bool) : Option (Nat × List Bool) :=
  let ones := (l.take 24).takeWhile (·)
  if ones.length = 24 then
    let r := l.drop 24
    if r.length < ew then none else some (bitsNat (r.take ew), r.drop ew)
  else
    let r := l.drop (ones.length + 1)
    if l.length ≤ ones.length ∨ r.length < k then none else some (ones.length * 2 ^ k + bitsNat (r.take k), r.drop k)

/-- nbrs of R301 within a subline: the sample before, the sample before in the line above, and that line from here on
(none before line yb + PV). -/
def predNbrs (d : Nat) (last before : Option Nat) (above : Option (List Nat)) : Nat × Nat × Nat × Nat :=
  match above with
  | none => let a := last.getD (2 ^ (d - 1)); (a, a, a, a)
  | some l =>
    let b := l.headD 0
    (last.getD b, b, before.getD b, match l with | _ :: x :: _ => x | _ => b)

def sampleGap (a b : Nat) : Nat := (a - b) + (b - a)

def predGrad (n : Nat × Nat × Nat × Nat) : Nat := sampleGap n.2.2.2 n.2.1 + sampleGap n.2.1 n.2.2.1 + sampleGap n.2.2.1 n.1

/-- The prediction p of R301. -/
def predValue (n : Nat × Nat × Nat × Nat) : Int :=
  let (a, b, c, _) := n
  if max a b ≤ c then (min a b : Nat) else if c ≤ min a b then (max a b : Nat) else (a : Int) + b - c

def predClamp (d : Nat) (x : Int) : Nat := (min (max x 0) (2 ^ d - 1)).toNat

/-- Move along a subline by `m` positions past samples equal to `a`. -/
def predSkip (m a : Nat) (before : Option Nat) (above : Option (List Nat)) (last : Option Nat) : Option Nat × Option Nat × Option (List Nat) :=
  if m = 0 then (last, before, above) else
    match above with
    | none => (some a, none, none)
    | some l => (some a, some (l.getD (m - 1) 0), some (l.drop m))

/-- One sample in regular mode, encoding: contexts, code, reconstructed sample. -/
def regularEnc (k : PredCfg) (site g : Nat) (n : Nat × Nat × Nat × Nat) (v : Nat) (c : PredCtx) : PredCtx × List Bool × Nat :=
  let p := predValue n
  let e : Int := (v : Int) - p
  let step : Nat := 2 * k.near + 1
  let q : Int := if k.near = 0 then e else
    if e < 0 then -(((e.natAbs + k.near) / step : Nat) : Int) else (((e.natAbs + k.near) / step : Nat) : Int)
  let r := predClamp k.d (p + q * step)
  let m : Nat := if 0 ≤ q then (2 * q).toNat else (-2 * q - 1).toNat
  let j := 8 * site + predCls k.d g
  let (a, nn) := c.ctx.getD j (0, 1)
  ({ c with ctx := c.ctx.set j (riceNext a nn m) }, riceCode (riceK k.d a nn) (k.d + 1) m, r)

/-- One sample in regular mode, decoding. -/
def regularDec (k : PredCfg) (site g : Nat) (n : Nat × Nat × Nat × Nat) (l : List Bool) (c : PredCtx) : Option (PredCtx × List Bool × Nat) :=
  let j := 8 * site + predCls k.d g
  let (a, nn) := c.ctx.getD j (0, 1)
  match riceRead (riceK k.d a nn) (k.d + 1) l with
  | none => none
  | some (m, l) =>
    let q : Int := if m % 2 = 0 then ((m / 2 : Nat) : Int) else -(((m + 1) / 2 : Nat) : Int)
    some ({ c with ctx := c.ctx.set j (riceNext a nn m) }, l, predClamp k.d (predValue n + q * ((2 * k.near + 1 : Nat) : Int)))

/-- A subline encoded from its samples `v`: contexts, bits and reconstructed samples. -/
def sublineEnc (k : PredCfg) (site : Nat) : Nat → PredCtx → Option Nat → Option Nat → Option (List Nat) → List Nat →
    PredCtx × List Bool × List Nat
  | 0, c, _, _, _, _ => (c, [], [])
  | fuel + 1, c, last, before, above, vs =>
    if vs.isEmpty then (c, [], []) else
      let n := predNbrs k.d last before above
      let g := predGrad n
      let a := n.1
      let runs := k.run && decide (g ≤ 3 * k.near)
      let m := if runs then (vs.takeWhile (fun v => decide (sampleGap v a ≤ k.near))).length else 0
      let (ra, rn) := c.runs.getD site (2, 1)
      let (c, code) := if runs then ({ c with runs := c.runs.set site (riceNext ra rn m) }, riceCode (riceK k.d ra rn) 15 m) else (c, [])
      let (last, before, above) := predSkip m a before above last
      match vs.drop m with
      | [] => (c, code, List.replicate m a)
      | v :: rest =>
        let n := predNbrs k.d last before above
        let (c, reg, r) := regularEnc k site (predGrad n) n v c
        let (c, more, out) := sublineEnc k site fuel c (some r) (above.map (fun l => l.headD 0)) (above.map (fun l => l.drop 1)) rest
        (c, code ++ reg ++ more, List.replicate m a ++ r :: out)

/-- A subline of `cnt` samples decoded: contexts, bits left and samples; none for a malformed payload (R310). -/
def sublineDec (k : PredCfg) (site : Nat) : Nat → PredCtx → Option Nat → Option Nat → Option (List Nat) → Nat → List Bool →
    Option (PredCtx × List Bool × List Nat)
  | 0, c, _, _, _, cnt, l => if cnt = 0 then some (c, l, []) else none
  | fuel + 1, c, last, before, above, cnt, l =>
    if cnt = 0 then some (c, l, []) else
      let n := predNbrs k.d last before above
      let g := predGrad n
      let a := n.1
      let runs := k.run && decide (g ≤ 3 * k.near)
      let (ra, rn) := c.runs.getD site (2, 1)
      let run : Option (Nat × List Bool) := if runs then riceRead (riceK k.d ra rn) 15 l else some (0, l)
      match run with
      | none => none
      | some (m, l) =>
        if cnt < m then none else
          let c := if runs then { c with runs := c.runs.set site (riceNext ra rn m) } else c
          if m = cnt then some (c, l, List.replicate m a) else
            let (last, before, above) := predSkip m a before above last
            let n := predNbrs k.d last before above
            match regularDec k site (predGrad n) n l c with
            | none => none
            | some (c, l, r) =>
              match sublineDec k site fuel c (some r) (above.map (fun l => l.headD 0)) (above.map (fun l => l.drop 1)) (cnt - m - 1) l with
              | none => none
              | some (c, l, out) => some (c, l, List.replicate m a ++ r :: out)

/-- Every PH-th sample of a line from phase `i`. -/
def phaseOf (ph w i : Nat) (l : List Nat) : List Nat := ((List.range w).filter (fun x => x % ph == i)).map (fun x => l.getD x 0)

/-- A line put together from its sublines. -/
def mergePhases (ph w : Nat) (subs : List (List Nat)) : List Nat := (List.range w).map (fun x => (subs.getD (x % ph) []).getD (x / ph) 0)

/-- The phases of one line encoded from phase `i` on. -/
def lineEnc (k : PredCfg) (y : Nat) (above : Option (List Nat)) (v : List Nat) : Nat → Nat → PredCtx → PredCtx × List Bool × List (List Nat)
  | 0, _, c => (c, [], [])
  | n + 1, i, c =>
    let vs := phaseOf k.ph k.w i v
    let (c, b, out) := sublineEnc k (8 * (y % k.pv) + i) (vs.length + 1) c none none (above.map (phaseOf k.ph k.w i)) vs
    let (c, b', outs) := lineEnc k y above v n (i + 1) c
    (c, b ++ b', out :: outs)

def lineDec (k : PredCfg) (y : Nat) (above : Option (List Nat)) : Nat → Nat → PredCtx → List Bool → Option (PredCtx × List Bool × List (List Nat))
  | 0, _, c, l => some (c, l, [])
  | n + 1, i, c, l =>
    let cnt := (k.w - i + k.ph - 1) / k.ph
    match sublineDec k (8 * (y % k.pv) + i) (cnt + 1) c none none (above.map (phaseOf k.ph k.w i)) cnt l with
    | none => none
    | some (c, l, out) =>
      match lineDec k y above n (i + 1) c l with
      | none => none
      | some (c, l, outs) => some (c, l, out :: outs)

/-- The line PV above line y when it is no earlier than yb: `hist` are the lines before y, `since` is y − yb. -/
def lineAbove (k : PredCfg) (hist : List (List Nat)) (since : Nat) : Option (List Nat) :=
  if since < k.pv then none else some (hist.getD (hist.length - k.pv) [])

/-- The lines of a stripe from line y, encoded: contexts, bits, and the lines before and with those of the stripe. -/
def stripeEnc (k : PredCfg) : List (List Nat) → Nat → Nat → List (List Nat) → PredCtx → PredCtx × List Bool × List (List Nat)
  | [], _, _, hist, c => (c, [], hist)
  | v :: r, y, since, hist, c =>
    let (c, b, outs) := lineEnc k y (lineAbove k hist since) v k.ph 0 c
    let (c, b', h) := stripeEnc k r (y + 1) (since + 1) (hist ++ [mergePhases k.ph k.w outs]) c
    (c, b ++ b', h)

def stripeDec (k : PredCfg) : Nat → Nat → Nat → List (List Nat) → PredCtx → List Bool → Option (PredCtx × List Bool × List (List Nat))
  | 0, _, _, hist, c, l => some (c, l, hist)
  | n + 1, y, since, hist, c, l =>
    match lineDec k y (lineAbove k hist since) k.ph 0 c l with
    | none => none
    | some (c, l, outs) => stripeDec k n (y + 1) (since + 1) (hist ++ [mergePhases k.ph k.w outs]) c l

/-- Bits as bytes, each filled from bit 7 down; a last part byte is padded with 0. -/
def packMsb : Nat → List Bool → List Byte
  | 0, _ => []
  | n + 1, l => BitVec.ofNat 8 (bitsNat ((l ++ List.replicate 8 false).take 8)) :: packMsb n (l.drop 8)

def unpackMsb (b : List Byte) : List Bool := b.flatMap (fun x => msbBits 8 x.toNat)

/-- The raw size of a stripe of n lines (R299). -/
def rawSize (k : PredCfg) (n : Nat) : Nat := (n * k.w * k.d + 63) / 64 * 8

/-- The contexts before a stripe that may be a RESET stripe. -/
def PredRun.start (x : PredRun) (k : PredCfg) (reset : Bool) : PredRun :=
  if reset then { x with ctx := predInit k.d, since := 0 } else x

/-- Keep the last PV lines. -/
def keepLines (k : PredCfg) (h : List (List Nat)) : List (List Nat) := h.drop (h.length - k.pv)

/-- A stripe encoded: whether it is stored, its payload, and what is left (R300, R304). -/
def encodeStripe (k : PredCfg) (x : PredRun) (y0 : Nat) (lines : List (List Nat)) : Bool × List Byte × PredRun :=
  let n := lines.length
  let raw := rawSize k n
  let (c, b, h) := stripeEnc k lines y0 x.since x.hist x.ctx
  if 8 * raw < b.length then
    (true, padTo raw (leBytes raw ((lines.flatten).foldr (fun v a => v + 2 ^ k.d * a) 0)), ⟨x.ctx, keepLines k (x.hist ++ lines), x.since + n⟩)
  else (false, packMsb ((b.length + 63) / 64 * 8) b, ⟨c, keepLines k h, x.since + n⟩)

/-- A stripe decoded: its lines and what is left; none when it is malformed. -/
def decodeStripe (k : PredCfg) (x : PredRun) (y0 n : Nat) (stored : Bool) (p : List Byte) : Option (List (List Nat) × PredRun) :=
  if stored then
    if p.length ≠ rawSize k n then none else
      let v := leNat p
      let lines := (List.range n).map (fun y => (List.range k.w).map (fun i => bits v ((y * k.w + i) * k.d) k.d))
      some (lines, ⟨x.ctx, keepLines k (x.hist ++ lines), x.since + n⟩)
  else
    match stripeDec k n y0 x.since x.hist x.ctx (unpackMsb p) with
    | none => none
    | some (c, rest, h) => if rest.any (·) then none else some (h.drop (h.length - n), ⟨c, keepLines k h, x.since + n⟩)

end Sys2Proof.Machine
end

