-- ==== Sys2Proof/Machine/Compression.lean ====
section
/-! DEFINITION. Raw compression (chapter 12): queues, jobs, completion, abort and pre-emption. A job's work is done in the
step in which it ends; a fault suspends its engine at a stripe and keeps what was done before. -/

namespace Sys2Proof.Machine

def srcCmp (q : Nat) : Nat := 0x0C00 + q

/-! ### Queues (R295) -/

def State.cmpSize (s : State) (q : Nat) : Nat := 2 ^ min (max (s.get (F.CMP_Q_CTL.LOG2CNT q)) 1) 12
def State.cmpPrio (s : State) (q : Nat) : Nat := min (s.get (F.CMP_Q_CTL.PRIO q)) 2
def State.cmpIds (s : State) (q : Nat) : List Nat := sget [] s.cmpDone q

/-- Accesses of a queue's jobs by unit 30 + engine. -/
def State.cmpReq (s : State) (q k : Nat) (pinned : Bool) (lost : Option Nat) : Req :=
  ⟨srcCmp q, 30 + k, s.get (F.CMP_Q_CTL.CLIENT q), pinned, lost⟩

def CmpJob.d (j : CmpJob) (off n : Nat) : Nat := field j.desc off n
def CmpJob.op (j : CmpJob) : Nat := j.d 0 1
def CmpJob.id (j : CmpJob) : Nat := j.d 0x38 4
def CmpJob.isDeflate (j : CmpJob) : Bool := decide (2 ≤ j.op)
def CmpJob.stripes (j : CmpJob) : Nat := (j.d 0x0A 2 + 15) / 16
def CmpJob.count (j : CmpJob) : Nat := if j.d 0x0E 2 = 0 then j.stripes - j.d 0x0C 2 else j.d 0x0E 2
def CmpJob.cfg (j : CmpJob) : PredCfg := ⟨j.d 2 1, j.d 3 1, j.d 4 1, j.d 5 1, j.d 8 2, (j.d 1 1).testBit 2⟩

/-- The checks of R297. -/
def CmpJob.ok (j : CmpJob) : Bool :=
  let w := j.d 8 2
  let h := j.d 0x0A 2
  let ph := j.d 4 1
  let pv := j.d 5 1
  let fl := j.d 1 1
  let pitch := if j.op = 0 then j.d 0x18 4 else j.d 0x1C 4
  let addr := if j.op = 0 then j.d 0x10 8 else j.d 0x20 8
  field j.desc 0x3C 4 == crc32c (j.desc.take 0x3C) && decide (j.op ≤ 3) && decide (fl < 16) &&
  (fl % 4 == 0 || j.d 0x28 8 != 0) &&
  (j.isDeflate ||
    decide (8 ≤ j.d 2 1 ∧ j.d 2 1 ≤ 16 ∧ j.d 3 1 ≤ 15 ∧ 1 ≤ ph ∧ ph ≤ 8 ∧ 1 ≤ pv ∧ pv ≤ 8 ∧ 64 ≤ w ∧ w ≤ 16384 ∧ 16 ≤ h ∧ h ≤ 12288) &&
    w % ph == 0 && h % pv == 0 && decide (j.d 0x0C 2 < j.stripes ∧ j.d 0x0C 2 + j.d 0x0E 2 ≤ j.stripes) &&
    pitch % 64 == 0 && decide (2 * w ≤ pitch) && addr % 64 == 0 && (fl % 4 == 0 || j.d 0x28 8 % 64 == 0))

/-! ### Engines -/

/-- The job that an engine runs, and the pre-empted job that it holds. -/
def State.cmpRunning (s : State) (k : Nat) : Option CmpJob := s.cmp.find? (fun j => j.started.isSome && j.eng == k && !j.held)
def State.cmpHeld (s : State) (k : Nat) : Option CmpJob := s.cmp.find? (fun j => j.started.isSome && j.eng == k && j.held)

/-- CMP_ENGk_STAT and CMP_STAT.BUSY show the engines. -/
def State.cmpShow (s : State) : State :=
  (List.range 6).foldl (fun s k =>
    let (st, j) := match s.cmpRunning k, s.cmpHeld k with
      | some j, _ => (if j.susp then 3 else 1, some j)
      | none, some j => (2, some j)
      | none, none => (0, none)
    let s := (s.put (F.CMP_ENG_STAT.STATE k) st).put (F.CMP_ENG_STAT.Q k) ((j.map (·.q)).getD 0)
    let s := match j with
      | some j => s.put (F.CMP_ENG_STAT.STRIPE k) (if j.isDeflate then j.i else j.d 0x0C 2 + j.i)
      | none => s
    s.setBit F.CMP_STAT.BUSY k (decide (st ≠ 0))) s

def State.cmpUpdate (s : State) (j : CmpJob) : State := { s with cmp := s.cmp.map (fun x => if x.take = j.take then j else x) }
def State.cmpRemove (s : State) (j : CmpJob) : State := { s with cmp := s.cmp.filter (fun x => x.take != j.take) }

/-- The oldest job of each queue that has not started, where it is of the given kind. -/
def State.cmpReady (s : State) (deflate : Bool) : List CmpJob :=
  ((List.range 8).filterMap (fun q => s.cmp.find? (fun j => j.q == q && j.started.isNone))).filter (fun j => j.isDeflate == deflate)

/-- Lower PRIO first, then the job taken first. -/
def State.cmpBefore (s : State) (a b : CmpJob) : Bool :=
  decide (s.cmpPrio a.q < s.cmpPrio b.q) || s.cmpPrio a.q == s.cmpPrio b.q && decide (a.take ≤ b.take)

def cmpEngines (deflate : Bool) : List Nat := if deflate then [4, 5] else [0, 1, 2, 3]

/-! ### Completion (R296, R310) -/

/-- A completion entry (Table 12.5). -/
def CmpJob.entry (j : CmpJob) (status out inp now : Nat) : List Byte :=
  withCrc28 (leBytes 4 j.id ++ leBytes 1 status ++ leBytes 1 j.op ++ leBytes 2 (flagIf j.preempted 0 + flagIf j.faulted 1 + flagIf (decide (0 < j.clamps)) 2) ++
    leBytes 4 out ++ leBytes 4 inp ++ leBytes 4 j.stored ++ leBytes 4 (min j.clamps (2 ^ 32 - 1)) ++ leBytes 4 (now % 2 ^ 32))
where withCrc28 (b : List Byte) : List Byte := b ++ leBytes 4 (crc32c b)

/-- The memory that a failed job leaves undefined: its output, and STATE where it would have written one. -/
def State.cmpUndefined (s : State) (j : CmpJob) : State :=
  let r := s.cmpReq j.q j.eng false none
  let w := j.d 8 2
  let s := if j.op = 1 then
      (s.scramble r (j.d 0x20 8 + 16 * j.d 0x0C 2 * j.d 0x1C 4) ((min (16 * (j.d 0x0C 2 + j.count)) (j.d 0x0A 2) - 16 * j.d 0x0C 2) * j.d 0x1C 4)).2
    else (s.scramble r (j.d 0x20 8) (j.d 0x1C 4)).2
  if (j.d 1 1).testBit 1 && !j.isDeflate then (s.scramble (s.cmpReq j.q j.eng true none) (j.d 0x28 8) (0x1240 + 2 * w * j.d 5 1)).2 else s

/-- A job leaves with its status: counters, event and completion entry. -/
def State.cmpComplete (s : State) (j : CmpJob) (status out inp : Nat) : State :=
  let q := j.q
  let s := s.cmpRemove j
  let s := if status ≠ 0 ∧ j.started.isSome ∧ status ≠ 5 then s.cmpUndefined j else s
  let s := match status with
    | 0 => s.bump (F.CMP_Q_STAT.DONE q)
    | 6 => s.bump (F.CMP_Q_STAT.ABORTED q)
    | _ => (s.bump (F.CMP_Q_STAT.FAILED q)).post (srcCmp q) (if status = 2 then 4 else 3) 2 5 j.id
  match s.ringRecord (s.cmpReq q j.eng true (some j.id)) (s.addr (R.CMP_Q_CQ_LO q) (R.CMP_Q_CQ_HI q)) 32 (s.cmpSize q) (F.CMP_Q_CQ_IDX.WIDX q)
      (j.entry status (if status = 0 then out else 0) (if status = 0 then inp else 0) s.now.toNat) with
  | (true, s) => { s with cmpDone := sset [] s.cmpDone q (s.cmpIds q ++ [j.id]) }
  | (false, s) => s

/-- A pre-empted job comes back to its engine once no PRIO 0 job is ready; a restore that fails drops it (R313, R374). -/
def State.cmpRestore (s : State) (k : Nat) : State :=
  match s.cmpHeld k, s.cmpRunning k with
  | some j, none =>
    if (s.cmpReady (decide (4 ≤ k))).any (fun x => s.cmpPrio x.q == 0) then s else
      match s.engRead (s.cmpReq j.q k true none) (s.addr (R.CMP_ENG_SAVE_LO k) (R.CMP_ENG_SAVE_HI k)) 64 with
      | (.ok _, s) => s.cmpUpdate { j with held := false }
      | (.error .parity, s) => s.cmpComplete { j with held := false } 2 0 0
      | (.error _, s) => s.cmpComplete { j with held := false } 3 0 0
  | _, _ => s

/-- Queue `q` takes descriptors while it may: a completion slot is left for every job in progress. -/
def State.cmpFetch (s : State) (q : Nat) : Nat → State
  | 0 => s
  | fuel + 1 =>
    let n := s.cmpSize q
    let i := s.get (F.CMP_Q_SQ_IDX.RIDX q) % n
    let busy := (s.cmp.filter (fun j => j.q == q)).length + (s.cmpIds q).length
    if !s.on F.CMP_CFG.EN || !s.on (F.CMP_Q_CTL.EN q) || i == s.get (F.CMP_Q_SQ_IDX.WIDX q) % n || decide (n ≤ busy) then s else
      let s := { s.put (F.CMP_Q_SQ_IDX.RIDX q) ((i + 1) % n) with cmpOrder := s.cmpOrder + 1 }
      let j : CmpJob := { (default : CmpJob) with q := q, take := s.cmpOrder }
      match s.engRead (s.cmpReq q 0 true none) (s.addr (R.CMP_Q_SQ_LO q) (R.CMP_Q_SQ_HI q) + 64 * i) 64 with
      | (.ok b, s) => (({ s with cmp := s.cmp ++ [{ j with desc := b }] } : State)).cmpFetch q fuel
      | (.error .parity, s) => (s.cmpComplete { j with desc := zeros 64 } 2 0 0).cmpFetch q fuel
      | (.error _, s) => (s.cmpComplete { j with desc := zeros 64 } 3 0 0).cmpFetch q fuel

/-- Queues take what they may, pre-empted jobs come back, and the engines' state is shown. -/
def State.cmpPump (s : State) : State :=
  let s := (List.range 8).foldl (fun s q => s.cmpFetch q (s.cmpSize q)) s
  ((List.range 6).foldl State.cmpRestore s).cmpShow

/-! ### Work -/

/-- Why a job's work stops: a status, or a fault. -/
inductive CmpStop where
  | status (n : Nat)
  | fault (va : Nat) (write : Bool) (kind : Nat)

def cmpStop : AccErr → CmpStop
  | .fault va w k => .fault va w k
  | .parity => .status 2
  | _ => .status 3

/-- The samples of a line. -/
def lineSamples (w : Nat) (b : List Byte) : List Nat := (List.range w).map (fun x => field b (2 * x) 2)

/-- Read `n` lines from line `y`. -/
def State.cmpLines (s : State) (r : Req) (src pitch w y : Nat) : Nat → Except AccErr (List (List Nat)) × State
  | 0 => (.ok [], s)
  | n + 1 =>
    match s.engRead r (src + y * pitch) (2 * w) with
    | (.error e, s) => (.error e, s)
    | (.ok b, s) =>
      match s.cmpLines r src pitch w (y + 1) n with
      | (.error e, s) => (.error e, s)
      | (.ok l, s) => (.ok (lineSamples w b :: l), s)

def State.cmpPutLines (s : State) (r : Req) (dst pitch y : Nat) : List (List Nat) → Except AccErr Unit × State
  | [] => (.ok (), s)
  | l :: rest =>
    match s.engWrite r (dst + y * pitch) (l.flatMap (leBytes 2)) with
    | (.error e, s) => (.error e, s)
    | (.ok _, s) => s.cmpPutLines r dst pitch (y + 1) rest

/-- One stripe of PRED_ENCODE (R298, R300, R303 to R305). -/
def State.cmpEncode (s : State) (j : CmpJob) : Except CmpStop CmpJob × State :=
  let r := s.cmpReq j.q j.eng false none
  let k := j.cfg
  let idx := j.d 0x0C 2 + j.i
  let n := min (16 * idx + 16) (j.d 0x0A 2) - 16 * idx
  match s.cmpLines r (j.d 0x10 8) (j.d 0x18 4) k.w (16 * idx) n with
  | (.error e, s) => (.error (cmpStop e), s)
  | (.ok raw, s) =>
    let top := 2 ^ k.d - 1
    let above := ((raw.flatten).filter (fun v => decide (top < v))).length
    let lines := raw.map (fun l => l.map (min top))
    let every := j.d 6 2
    let reset := (j.i == 0 && !(j.d 1 1).testBit 0) || (every != 0 && idx % every == 0)
    let (stored, p, x) := encodeStripe k (j.run.start k reset) (16 * idx) lines
    let head := leBytes 1 (if stored then 1 else 0) ++ leBytes 1 (flagIf reset 0 + flagIf (idx + 1 == j.stripes) 1) ++ leBytes 2 n ++
      leBytes 4 idx ++ leBytes 4 p.length
    let b := head ++ leBytes 4 (crc32c (head ++ p)) ++ p
    if j.d 0x1C 4 < 64 + j.pos + b.length then (.error (.status 1), s) else
      match s.engWrite r (j.d 0x20 8 + 64 + j.pos) b with
      | (.error e, s) => (.error (cmpStop e), s)
      | (.ok _, s) => (.ok { j with i := j.i + 1, run := x, pos := j.pos + b.length, stored := j.stored + (if stored then 1 else 0), clamps := j.clamps + above }, s)

/-- One stripe of PRED_DECODE (R302, R303, R310). `pos` is the input consumed. -/
def State.cmpDecode (s : State) (j : CmpJob) : Except CmpStop CmpJob × State :=
  let r := s.cmpReq j.q j.eng false none
  let k := j.cfg
  let idx := j.d 0x0C 2 + j.i
  let n := min (16 * idx + 16) (j.d 0x0A 2) - 16 * idx
  if j.d 0x18 4 < j.pos + 16 then (.error (.status 4), s) else
  match s.engRead r (j.d 0x10 8 + j.pos) 16 with
  | (.error e, s) => (.error (cmpStop e), s)
  | (.ok h, s) =>
    let len := field h 8 4
    if j.d 0x18 4 < j.pos + 16 + len then (.error (.status 4), s) else
    match s.engRead r (j.d 0x10 8 + j.pos + 16) len with
    | (.error e, s) => (.error (cmpStop e), s)
    | (.ok p, s) =>
      let fl := field h 1 1
      if field h 0xC 4 ≠ crc32c (h.take 12 ++ p) ∨ field h 4 4 ≠ idx ∨ field h 2 2 ≠ n ∨ 1 < field h 0 1 ∨ len % 8 ≠ 0 ∨ 4 ≤ fl then
        (.error (.status 4), s)
      else
        let stored := field h 0 1 == 1
        let every := j.d 6 2
        let reset := (j.i == 0 && !(j.d 1 1).testBit 0) || (every != 0 && idx % every == 0)
        match decodeStripe k (j.run.start k reset) (16 * idx) n stored p with
        | none => (.error (.status 4), s)
        | some (lines, x) =>
          match s.cmpPutLines r (j.d 0x20 8) (j.d 0x1C 4) (16 * idx) lines with
          | (.error e, s) => (.error (cmpStop e), s)
          | (.ok _, s) => (.ok { j with i := j.i + 1, run := x, pos := j.pos + 16 + len, stored := j.stored + (if stored then 1 else 0) }, s)

/-- The stripes that are left; the answer is the job as far as it came, and why it stopped. -/
def State.cmpStripes (s : State) (j : CmpJob) : Nat → (CmpJob × Option CmpStop) × State
  | 0 => ((j, none), s)
  | n + 1 =>
    match (if j.op = 0 then s.cmpEncode j else s.cmpDecode j) with
    | (.error e, s) => ((j, some e), s)
    | (.ok j, s) => s.cmpStripes j n

/-- A state record (Table 12.4) of the coder before stripe `next`. -/
def CmpJob.record (j : CmpJob) : List Byte :=
  let k := j.cfg
  let x := j.run
  let head := leBytes 4 0x5352584B ++ leBytes 1 k.d ++ leBytes 1 k.ph ++ leBytes 1 k.pv ++ leBytes 1 k.near ++ leBytes 2 k.w ++
    leBytes 2 (if k.pv < x.since then 0x8000 else x.since) ++ leBytes 4 (j.d 0x0C 2 + j.count) ++ zeros 44
  let pair (e : Nat × Nat) : List Byte := leBytes 4 e.1 ++ leBytes 4 e.2
  let hist := List.replicate (k.pv - x.hist.length) (List.replicate k.w 0) ++ x.hist
  let body := x.ctx.ctx.flatMap pair ++ x.ctx.runs.flatMap pair ++ hist.flatMap (fun l => l.flatMap (leBytes 2))
  head ++ leBytes 4 (crc32c (head ++ body)) ++ body

/-- The coder's state from a record: none where it does not fit the job (R307). -/
def CmpJob.load (j : CmpJob) (b : List Byte) : Option PredRun :=
  let k := j.cfg
  let body := b.drop 0x40
  if field b 0x3C 4 ≠ crc32c (b.take 0x3C ++ body) ∨ field b 4 1 ≠ k.d ∨ field b 5 1 ≠ k.ph ∨ field b 6 1 ≠ k.pv ∨ field b 7 1 ≠ k.near ∨
      field b 8 2 ≠ k.w ∨ field b 0xC 4 ≠ j.d 0x0C 2 then none
  else
    let pair (e : List Byte) : Nat × Nat := (field e 0 4, field e 4 4)
    some ⟨⟨(chunks 8 (body.take 4096)).map pair, (chunks 8 ((body.drop 4096).take 512)).map pair⟩,
      (chunks (2 * k.w) (body.drop 4608)).map (lineSamples k.w), field b 0xA 2⟩

/-- What a prediction job reads before its first stripe: STATE under CONT, the stream header of a decode (R307, R310). -/
def State.cmpBegin (s : State) (j : CmpJob) : Except CmpStop CmpJob × State :=
  if j.begun then (.ok j, s) else
    let k := j.cfg
    let (st, s) : Except CmpStop PredRun × State :=
      if (j.d 1 1).testBit 0 then
        match s.engRead (s.cmpReq j.q j.eng true none) (j.d 0x28 8) (0x1240 + 2 * k.w * k.pv) with
        | (.error e, s) => (.error (cmpStop e), s)
        | (.ok b, s) => ((match j.load b with | some x => .ok x | none => .error (.status 5)), s)
      else (.ok ⟨predInit k.d, [], 0⟩, s)
    match st with
    | .error e => (.error e, s)
    | .ok x =>
      if j.op = 0 then (.ok { j with begun := true, run := x }, s)
      else if j.d 0x18 4 < 64 then (.error (.status 4), s)
      else
        match s.engRead (s.cmpReq j.q j.eng false none) (j.d 0x10 8) 64 with
        | (.error e, s) => (.error (cmpStop e), s)
        | (.ok h, s) =>
          let want := leBytes 4 0x4352584B ++ [1] ++ leBytes 1 k.d ++ leBytes 1 k.ph ++ leBytes 1 k.pv ++ leBytes 1 k.near ++
            leBytes 1 (flagIf k.run 0 + flagIf ((j.d 1 1).testBit 0) 1) ++ leBytes 2 (j.d 6 2) ++ leBytes 2 k.w ++ leBytes 2 (j.d 0x0A 2) ++
            leBytes 2 (j.d 0x0C 2) ++ leBytes 2 j.count
          if h.take 0x14 ≠ want ∨ field h 0x3C 4 ≠ crc32c (h.take 0x3C) then (.error (.status 4), s)
          else (.ok { j with begun := true, run := x, pos := 64 }, s)

/-- The stream header (Table 12.2). -/
def CmpJob.header (j : CmpJob) : List Byte :=
  let k := j.cfg
  let b := padTo 0x3C (leBytes 4 0x4352584B ++ [1] ++ leBytes 1 k.d ++ leBytes 1 k.ph ++ leBytes 1 k.pv ++ leBytes 1 k.near ++
    leBytes 1 (flagIf k.run 0 + flagIf ((j.d 1 1).testBit 0) 1) ++ leBytes 2 (j.d 6 2) ++ leBytes 2 k.w ++ leBytes 2 (j.d 0x0A 2) ++
    leBytes 2 (j.d 0x0C 2) ++ leBytes 2 j.count ++ leBytes 4 (64 + j.pos) ++ leBytes 8 (j.d 0x30 8) ++ leBytes 4 j.stored ++
    leBytes 4 (min j.clamps (2 ^ 32 - 1)))
  b ++ leBytes 4 (crc32c b)

/-- After the last stripe: the stream header, then STATE under SAVE. Answers OUT_LEN and IN_LEN. -/
def State.cmpFinish (s : State) (j : CmpJob) : Except CmpStop (Nat × Nat) × State :=
  let w := j.d 8 2
  let lines := min (16 * (j.d 0x0C 2 + j.count)) (j.d 0x0A 2) - 16 * j.d 0x0C 2
  let (a, s) : Except CmpStop Unit × State :=
    if j.op = 0 then
      match s.engWrite (s.cmpReq j.q j.eng false none) (j.d 0x20 8) j.header with
      | (.error e, s) => (.error (cmpStop e), s)
      | (.ok _, s) => (.ok (), s)
    else (.ok (), s)
  match a with
  | .error e => (.error e, s)
  | .ok _ =>
    let res := if j.op = 0 then (64 + j.pos, 2 * w * lines) else (2 * w * lines, j.pos)
    if (j.d 1 1).testBit 1 then
      match s.engWrite (s.cmpReq j.q j.eng true none) (j.d 0x28 8) j.record with
      | (.error e, s) => (.error (cmpStop e), s)
      | (.ok _, s) => (.ok res, s)
    else (.ok res, s)

/-- The whole of a prediction job from where it stands. -/
def State.cmpPredict (s : State) (j : CmpJob) : (CmpJob × Except CmpStop (Nat × Nat)) × State :=
  match s.cmpBegin j with
  | (.error e, s) => ((j, .error e), s)
  | (.ok j, s) =>
    match s.cmpStripes j (j.count - j.i) with
    | ((j, some e), s) => ((j, .error e), s)
    | ((j, none), s) => let (r, s) := s.cmpFinish j; ((j, r), s)

/-- The bytes a DEFLATE job may write for its input (R306, R308): they inflate to it, in blocks of the permitted kinds. -/
def deflateOf (fixed : Bool) (inp out : List Byte) : Option Nat :=
  if inp.isEmpty then (if out = [0x03, 0x00] then some 0 else none) else
    match inflate inp.length out with
    | .ok (b, used, blocks) =>
      if b = inp ∧ used = out.length ∧ out.length ≤ inp.length + 5 * ((inp.length + 65534) / 65535) + 2 ∧ blocks.all (·.written fixed) = true then
        some (storedBlocks blocks)
      else none
    | .error _ => none

/-- A DEFLATE or INFLATE job: none where `out` is no encoding of the input. -/
def State.cmpFlate (s : State) (j : CmpJob) (out : List Byte) : Option ((CmpJob × Except CmpStop (Nat × Nat)) × State) :=
  let r := s.cmpReq j.q j.eng false none
  match s.engRead r (j.d 0x10 8) (j.d 0x18 4) with
  | (.error e, s) => some ((j, .error (cmpStop e)), s)
  | (.ok inp, s) =>
    let put (b : List Byte) (used stored : Nat) : Option ((CmpJob × Except CmpStop (Nat × Nat)) × State) :=
      if j.d 0x1C 4 < b.length then some ((j, .error (.status 1)), s) else
        match s.engWrite r (j.d 0x20 8) b with
        | (.error e, s) => some ((j, .error (cmpStop e)), s)
        | (.ok _, s) => some (({ j with stored := stored }, .ok (b.length, used)), s)
    if j.op = 2 then
      match deflateOf ((j.d 1 1).testBit 3) inp out with
      | none => none
      | some stored => put out inp.length stored
    else
      match inflate (j.d 0x1C 4) inp with
      | .error e => some ((j, .error (.status e)), s)
      | .ok (b, used, blocks) => put b used (storedBlocks blocks)

/-- An engine's job faults: the engine suspends and the fault is reported (R312, R368). Of a job that is chosen for pre-emption it is not:
the engine abandons the work after its last restart point and stops there (R372). -/
def State.cmpSuspend (s : State) (j : CmpJob) (unit va : Nat) (write : Bool) (kind : Nat) : State :=
  if j.chosen then (s.cmpUpdate { j with stopped := true }).cmpShow
  else ((s.cmpUpdate { j with susp := true, faulted := true }).unitFault (srcCmp j.q) unit va write kind).cmpShow

/-- The job of engine `k` ends: with its result, with a failure, or suspended at a fault. -/
def State.cmpEnd (s : State) (k : Nat) (out : List Byte) : State :=
  match s.cmpRunning k with
  | none => s
  | some j =>
    if j.susp || j.stopped then s else
      match (if j.isDeflate then s.cmpFlate j out else some (s.cmpPredict j)) with
      | none => s
      | some ((j, .ok (o, i)), s) => (s.cmpComplete j 0 o i).cmpPump
      | some ((j, .error (.status n)), s) => (s.cmpComplete j n 0 0).cmpPump
      | some ((j, .error (.fault va w kd)), s) => s.cmpSuspend j (30 + k) va w kd

def execCmpJobDone (k : Fin 6) (out : List Byte) (s : State) : Host.Outcome State Fault Refusal := s.running (s.cmpEnd k.val out)

/-- The suspended engine restarts from its stripe (R369). -/
def State.cmpRestart (s : State) (k : Nat) : State :=
  match s.cmpRunning k with
  | none => s
  | some j => (s.cmpUpdate { j with susp := false }).cmpShow

/-- The suspended job fails with TranslationError. -/
def State.cmpFailFault (s : State) (k : Nat) : State :=
  match s.cmpRunning k with
  | none => s
  | some j => (s.cmpComplete j 3 0 0).cmpPump

/-! ### Starting, abort, pre-emption -/

/-- The ready job of lowest PRIO of a kind starts on the first free engine that may take it. -/
def State.cmpStart (s : State) (deflate : Bool) : State :=
  let ready := isort s.cmpBefore (s.cmpReady deflate)
  let offers := (cmpEngines deflate).filterMap (fun k =>
    if (s.cmpRunning k).isSome then none
    else (ready.find? (fun j => (s.cmpHeld k).isNone || s.cmpPrio j.q == 0)).map (fun j => (k, j)))
  if !s.on F.CMP_CFG.EN then s else
  match offers with
  | [] => s
  | (k, j) :: _ =>
    let s := { s.bringUp (113 + k) with cmpOrder := s.cmpOrder + 1 }
    let j := { j with started := some s.cmpOrder, eng := k }
    if j.ok then (s.cmpUpdate j).cmpShow else (s.cmpComplete j 5 0 0).cmpPump

def execCmpJobTake (deflate : Bool) (s : State) : Host.Outcome State Fault Refusal := s.running (s.cmpStart deflate)

/-- A write of CMP_ABORT (R311). -/
def wrCmpAbort (v : Word) (s : State) : State :=
  if !v.getLsbD 31 then s else
    let q := getBits v 26 24
    let id := s.get F.CMP_ABORT_ID.JOB_ID
    match s.cmp.find? (fun j => j.q == q && j.id == id) with
    | some j =>
      let s := s.put F.CMP_ABORT.RESULT 1
      ((if j.susp then s.withdrawFault (30 + j.eng) else s).cmpComplete j 6 0 0).cmpPump
    | none => s.put F.CMP_ABORT.RESULT (if (s.cmpIds q).contains id then 2 else 3)

def execCmpAbort (v : Word) (s : State) : Host.Outcome State Fault Refusal :=
  s.running (s.guardWrite R.CMP_ABORT (wrCmpAbort (v ||| 0x80000000)))

/-- The running job that a PRIO 0 job pre-empts: highest PRIO, then the one that started last. -/
def State.cmpVictim (s : State) (deflate : Bool) : Option CmpJob :=
  let l := (cmpEngines deflate).filterMap (fun k => if (s.cmpHeld k).isSome then none else s.cmpRunning k)
  (isort (fun a b => decide (s.cmpPrio b.q < s.cmpPrio a.q) || s.cmpPrio a.q == s.cmpPrio b.q && decide (b.started.getD 0 ≤ a.started.getD 0))
    (l.filter (fun j => decide (0 < s.cmpPrio j.q)))).head?

/-- An engine's save area (R314). -/
def cmpSaveBytes : Nat := 0x80000

/-- Job `j` has left its engine, with what the save of its state came to (R313). -/
def cmpEvicted (j : CmpJob) : Except AccErr Unit × State → State
  | (.ok _, s) => (s.cmpUpdate { j with held := true, susp := false, chosen := false, stopped := false, preempted := true }).cmpShow
  | (.error .parity, s) => (s.cmpComplete j 2 0 0).cmpPump
  | (.error _, s) => (s.cmpComplete j 3 0 0).cmpPump

/-- Job `j` leaves its engine. -/
def State.cmpEvict (s : State) (j : CmpJob) : State :=
  cmpEvicted j (s.scramble (s.cmpReq j.q j.eng true none) (s.addr (R.CMP_ENG_SAVE_LO j.eng) (R.CMP_ENG_SAVE_HI j.eng)) cmpSaveBytes)

/-- A PRIO 0 job is ready and no engine of its kind is free: the victim is chosen, and at the next of these commands it has reached its
restart point, and its state is saved, or it is dropped (R313, R371 to R374). A suspended one stands at its restart point already. What a save area holds has no given meaning. -/
def State.cmpSave (s : State) (deflate : Bool) : State :=
  if !(s.cmpReady deflate).any (fun j => s.cmpPrio j.q == 0) || (cmpEngines deflate).any (fun k => (s.cmpRunning k).isNone) then s else
    let chosen := ((cmpEngines deflate).filterMap s.cmpRunning).find? (·.chosen)
    match (match chosen with | some j => some j | none => s.cmpVictim deflate) with
    | none => s
    | some j =>
      if j.susp then (s.withdrawFault (30 + j.eng)).cmpEvict j
      else if j.chosen then s.cmpEvict j
      else s.cmpUpdate { j with chosen := true }

def execCmpPreempt (deflate : Bool) (s : State) : Host.Outcome State Fault Refusal := s.running (s.cmpSave deflate)

/-! ### Register writes (R314, R315) -/

/-- Every job ends without a completion; faults of suspended ones are withdrawn. -/
def State.cmpStopAll (s : State) : State :=
  ({ s.cmp.foldl (fun s j => if j.susp then s.withdrawFault (30 + j.eng) else s) s with cmp := [] } : State).cmpShow

def wrCmpCfg (src : Nat) (v : Word) (s : State) : State :=
  let was := s.on F.CMP_CFG.EN
  let s := s.plainWrite src R.CMP_CFG v
  if was && !s.on F.CMP_CFG.EN then s.cmpStopAll else s.cmpPump

def execCmpDisable (v : Word) (src : Nat) (s : State) : Host.Outcome State Fault Refusal :=
  s.running (s.guardWrite R.CMP_CFG (wrCmpCfg src (v &&& 0x7FFFFFFF)))

def wrCmpCtl (q src : Nat) (v : Word) (s : State) : State :=
  let off := R.CMP_Q_CTL q
  if s.on (F.CMP_Q_CTL.EN q) then
    let changed := getBits v 20 16 != s.get (F.CMP_Q_CTL.CLIENT q) || getBits v 3 0 != s.get (F.CMP_Q_CTL.LOG2CNT q)
    let s := if changed then s.postIgnored src 3 off else s
    ((s.put (F.CMP_Q_CTL.EN q) (getBits v 31 31)).put (F.CMP_Q_CTL.PRIO q) (getBits v 29 28)).cmpPump
  else
    let s := s.plainWrite src off v
    if s.on (F.CMP_Q_CTL.EN q) then
      ({ (s.wreg (R.CMP_Q_SQ_IDX q) 0).wreg (R.CMP_Q_CQ_IDX q) 0 with cmpDone := sset [] s.cmpDone q [] } : State).cmpPump
    else s

def execCmpQueueEnable (q : Fin 8) (v : Word) (src : Nat) (s : State) : Host.Outcome State Fault Refusal :=
  s.running (s.guardWrite (R.CMP_Q_CTL q.val) (wrCmpCtl q.val src (v ||| 0x80000000)))

/-- A register that keeps its value under a condition; a write that would change it posts an event. -/
def State.closedWrite (s : State) (closed : Bool) (src off : Nat) (v : Word) : State :=
  if closed then (if s.written off v = s.reg off then s else s.postIgnored src 3 off) else s.plainWrite src off v

def wrCmpRing (q src off : Nat) (v : Word) (s : State) : State := s.closedWrite (s.on (F.CMP_Q_CTL.EN q)) src off v
def wrCmpSaveArea (src off : Nat) (v : Word) (s : State) : State := s.closedWrite (s.on F.CMP_CFG.EN) src off v

def wrCmpSqIdx (q src : Nat) (v : Word) (s : State) : State := (s.plainWrite src (R.CMP_Q_SQ_IDX q) v).cmpPump

/-- Firmware has consumed completions up to the new RIDX. -/
def wrCmpCqIdx (q src : Nat) (v : Word) (s : State) : State :=
  let n := s.cmpSize q
  let old := s.get (F.CMP_Q_CQ_IDX.RIDX q) % n
  let s := s.plainWrite src (R.CMP_Q_CQ_IDX q) v
  let k := (s.get (F.CMP_Q_CQ_IDX.RIDX q) % n + n - old) % n
  ({ s with cmpDone := sset [] s.cmpDone q ((s.cmpIds q).drop k) } : State).cmpPump

def execCmpSubmit (q : Fin 8) (widx : Half) (src : Nat) (s : State) : Host.Outcome State Fault Refusal :=
  s.running (s.guardWrite (R.CMP_Q_SQ_IDX q.val) (wrCmpSqIdx q.val src (widx.setWidth 32)))

end Sys2Proof.Machine
end

