-- ==== Sys2Proof/Machine/Roce.lean ====
section
/-! DEFINITION. Sending on the Ethernet ports (R385, R386), the RoCEv2 subset (R387 to R391), and the doorbells that it
brings to CCP queues (R408). Packets that the device sends are shown as what they carry, not as their bytes. -/

namespace Sys2Proof.Machine

def srcEth (p : Nat) : Nat := 0x1200 + p
def srcCcp : Nat := 0x1300

/-! ### Sending (R385, R386) -/

/-- Line rate of a port's sub-port in bits per microsecond. -/
def State.ethRate (s : State) (p : Nat) : Nat :=
  match s.ethSpeed p with
  | 0 => 100000
  | 3 => 10000
  | _ => 25000

/-- A packet leaves its sub-port, or waits for the end of a pause; a sub-port that is down sends nothing. -/
def State.ethOut (s : State) (h : EthHeld) : State :=
  if !s.ethUp (h.sub / 4) (h.sub % 4) then s
  else if s.paused h.sub h.prio || s.eth.held.any (fun x => x.sub == h.sub && x.prio == h.prio) then
    { s with eth := { s.eth with held := s.eth.held ++ [h] } }
  else { s with out := s.out ++ [h.what] }

/-- Packets whose pause has ended leave in order. -/
def State.ethFlush (s : State) : State :=
  let l := s.eth.held
  l.foldl State.ethOut { s with eth := { s.eth with held := [], pauses := s.eth.pauses.filter (fun e => decide (s.now.toNat < e.2.2)) } }

def State.subMac (s : State) (x : Nat) : Nat := s.addr (R.ETH_MAC_LO (x / 4)) (R.ETH_MAC_HI (x / 4)) + x % 4

def broadcastIp : Nat := 0xFFFFFFFF
def broadcastMac : Nat := 0xFFFFFFFFFFFF

/-- The next hop of an IPv4 packet (R385). -/
def State.nextHop (s : State) (x dst : Nat) : Nat :=
  let m := s.get (F.ETH_SP_MASK.MASK (x / 4) (x % 4))
  if dst = broadcastIp ∨ dst &&& m = s.subIp x &&& m then dst else s.get (F.ETH_SP_GW.ADDR (x / 4) (x % 4))

def State.arpOf (s : State) (x : Nat) : List (Nat × Nat) := sget [] s.eth.arp x

/-- An IPv4 packet to `dst`: at once where its next hop is resolved, else after an ARP request (R385). -/
def State.ipSend (s : State) (x prio dst : Nat) (kind : String) (data : List Nat) : State :=
  let hop := s.nextHop x dst
  if hop = broadcastIp then s.ethOut ⟨x, prio, hop, ⟨kind, x, broadcastMac :: dst :: data⟩⟩
  else
    match (s.arpOf x).find? (fun e => e.1 == hop) with
    | some e => s.ethOut ⟨x, prio, hop, ⟨kind, x, e.2 :: dst :: data⟩⟩
    | none =>
      let s := { s with eth := { s.eth with arpWait := s.eth.arpWait ++ [EthHeld.mk x prio hop ⟨kind, x, dst :: data⟩] } }
      s.ethOut ⟨x, 8, hop, ⟨"arp request", x, [s.subMac x, s.subIp x, hop]⟩⟩

/-- An ARP entry is resolved, up to 128 per sub-port; packets that waited for it leave. -/
def State.arpLearn (s : State) (x ip mac : Nat) : State :=
  let l := ((ip, mac) :: (s.arpOf x).filter (fun e => e.1 != ip)).take 128
  let mine := s.eth.arpWait.filter (fun h => h.sub == x && h.hop == ip)
  let s := { s with eth := { s.eth with arp := sset [] s.eth.arp x l, arpWait := s.eth.arpWait.filter (fun h => !(h.sub == x && h.hop == ip)) } }
  mine.foldl (fun s h => s.ethOut { h with what := { h.what with data := mac :: h.what.data } }) s

/-! ### Queue pairs -/

def State.qp (s : State) (q : Nat) : Option EthQp := sget none s.eth.qps q
def State.setQp (s : State) (q : Nat) (x : Option EthQp) : State := { s with eth := { s.eth with qps := sset none s.eth.qps q x } }

/-- Path MTU in bytes by its code. -/
def mtuBytes (c : Nat) : Nat := 1024 * 2 ^ c

/-- RoCEv2 packets carry PCP and DSCP while PFC is sent (R386). -/
def State.rocePrio (s : State) (x : Nat) : Nat := if s.get (F.ETH_PFC.TX_EN (x / 4)) ≠ 0 then s.get (F.ETH_PFC.PCP (x / 4)) else 8

def State.roceOut (s : State) (x : EthQp) (what : String) (data : List Nat) : State :=
  s.ipSend x.sub (s.rocePrio x.sub) x.ip what (s.rocePrio x.sub :: s.get (F.ETH_PFC.DSCP (x.sub / 4)) :: x.remote :: data)

/-- A message goes out, all its packets in order. -/
def State.roceTransmit (s : State) (x : EthQp) (m : RoceMsg) : State :=
  s.roceOut x "roce message" (m.op :: m.psn :: m.pkts :: m.va :: m.key :: m.len :: m.data.map BitVec.toNat)

/-- A new message takes its PSNs and goes out; a seventeenth read waits (Table 16.3). -/
def State.rocePost (s : State) (q : Nat) (m : RoceMsg) : State :=
  match s.qp q with
  | none => s
  | some x =>
    if x.error then s
    else if m.op = 2 ∧ 16 ≤ (x.msgs.filter (fun y => y.op == 2)).length then s.setQp q (some { x with waiting := x.waiting ++ [m] })
    else
      let n := max 1 ((m.len + mtuBytes x.mtu - 1) / mtuBytes x.mtu)
      let m := { m with psn := x.sPsn, pkts := n }
      let x := { x with sPsn := (x.sPsn + n) % 2 ^ 24, msgs := x.msgs ++ [m] }
      (s.setQp q (some x)).roceTransmit x m

/-- Reads that waited go out as places free up. -/
def State.roceWaiting (s : State) (q : Nat) : Nat → State
  | 0 => s
  | n + 1 =>
    match s.qp q with
    | none => s
    | some x =>
      match x.waiting with
      | [] => s
      | m :: r =>
        if 16 ≤ (x.msgs.filter (fun y => y.op == 2)).length then s
        else ((s.setQp q (some { x with waiting := r })).rocePost q m).roceWaiting q n

/-- The commands of a CCP queue end without completion (R411); a suspended one's fault is withdrawn. -/
def State.endCommands (s : State) (q : Nat) : State :=
  let s := if s.ccp.cmds.any (fun c => c.q == q && c.susp) then s.withdrawFault 40 else s
  { s with ccp := { s.ccp with cmds := s.ccp.cmds.filter (fun c => c.q != q) } }

/-- A queue pair enters Error: outstanding operations and the queue's commands end, and its ring is read no more (R388, R411). -/
def State.qpError (s : State) (q : Nat) : State :=
  match s.qp q with
  | none => s
  | some x => (s.setQp q (some { x with error := true, msgs := [], waiting := [], cur := none })).endCommands q

/-- Error after exhausted retries or a NAK: with the event of R388. -/
def State.qpFail (s : State) (q : Nat) : State :=
  match s.qp q with
  | none => s
  | some x => (s.qpError q).post (srcEth (x.sub / 4)) 4 0 2 0

/-- The queue pair is freed. -/
def State.qpFree (s : State) (q : Nat) : State :=
  let s := s.setQp q none
  { s with ccp := { s.ccp with queues := sset none s.ccp.queues q none } }

/-- KILL (R391). -/
def State.qpKill (s : State) (q : Nat) : State := (s.qpError q).qpFree q

/-! ### Acknowledgement and retransmission (R387, R388) -/

/-- `a` comes after `b` in 24-bit sequence arithmetic. -/
def psnAfter (a b : Nat) : Bool := decide (0 < (a + 2 ^ 24 - b) % 2 ^ 24 ∧ (a + 2 ^ 24 - b) % 2 ^ 24 < 2 ^ 23)

def RoceMsg.lastPsn (m : RoceMsg) : Nat := (m.psn + m.pkts - 1) % 2 ^ 24

/-- Messages up to a PSN are acknowledged. -/
def State.roceAck (s : State) (q psn : Nat) : State :=
  match s.qp q with
  | none => s
  | some x =>
    let l := x.msgs.filter (fun m => psnAfter m.lastPsn psn)
    let x' := if l.length < x.msgs.length then { x with msgs := l, retries := 0, rnr := 0 } else { x with msgs := l }
    (s.setQp q (some x')).roceWaiting q x.waiting.length

/-- Go-back-N from the oldest message that is not acknowledged; each packet sent again is counted. -/
def State.roceAgain (s : State) (q : Nat) : State :=
  match s.qp q with
  | none => s
  | some x =>
    let n := x.msgs.foldl (fun n m => n + m.pkts) 0
    x.msgs.foldl (fun s m => s.roceTransmit x m) (s.bumpBy (F.ETH_CNT1.RETRANS (x.sub / 4)) n)

/-- A retransmission timeout, or a NAK for a sequence error, uses one retry. -/
def State.roceRetry (s : State) (q : Nat) : State :=
  match s.qp q with
  | none => s
  | some x =>
    if x.error || x.msgs.isEmpty then s
    else if s.get F.ETH_RETRY.RETRY ≤ x.retries then s.qpFail q
    else (s.setQp q (some { x with retries := x.retries + 1 })).roceAgain q

/-- An RNR timer passes (7 retries mean no limit). -/
def State.roceRnrRetry (s : State) (q : Nat) : State :=
  match s.qp q with
  | none => s
  | some x =>
    let lim := s.get F.ETH_RETRY.RNR
    if x.error || x.msgs.isEmpty then s
    else if lim ≠ 7 ∧ lim ≤ x.rnr then s.qpFail q
    else (s.setQp q (some { x with rnr := x.rnr + 1 })).roceAgain q

/-! ### CCP doorbells (R408, R412) -/

def State.ccpQ (s : State) (q : Nat) : Option CcpQueue := sget none s.ccp.queues q
def State.setCcpQ (s : State) (q : Nat) (x : CcpQueue) : State := { s with ccp := { s.ccp with queues := sset none s.ccp.queues q (some x) } }

/-- SQ_TAIL and CQ_HEAD of a queue take new values; completions up to CQ_HEAD are consumed. -/
def State.ccpRing (s : State) (q tail head : Nat) : State :=
  match s.ccpQ q with
  | none => s
  | some x => s.setCcpQ q { x with sqTail := tail, cqHead := head, doneIds := x.doneIds.drop ((head + x.cqDepth - x.cqHead) % max x.cqDepth 1) }

/-- A SEND of a host to a queue pair is its doorbell. -/
def State.ccpDoorbell (s : State) (q : Nat) (b : List Byte) : State :=
  match s.ccpQ q with
  | none => s
  | some x =>
    if b.length = 8 ∧ field b 0 2 < x.sqDepth ∧ field b 2 2 < x.cqDepth ∧ field b 4 4 = 0 then s.ccpRing q (field b 0 2) (field b 2 2)
    else s.post srcCcp 3 0 0 0

/-! ### Responding (R389, R390) -/

/-- Accesses of the host transport. -/
def ethReq (p : Nat) : Req := ⟨srcEth p, 41, 27, true, none⟩

/-- A message that the transport drops posts one event (R390). -/
def State.roceDropped (s : State) (p : Nat) (e : AccErr) : State :=
  match e with
  | .parity => s.post (srcEth p) 4 2 0 0
  | _ => s

/-- A region check against the key table: `some true` passes, `some false` is a remote access error, none an unreadable table. -/
def State.keyCheck (s : State) (q p va rkey len access : Nat) : Option Bool × State :=
  match s.engRead (ethReq p) (s.addr R.ETH_KEYTAB_LO R.ETH_KEYTAB_HI + 32 * (rkey % 256)) 32 with
  | (.error e, s) => (none, s.roceDropped p e)
  | (.ok e, s) =>
    let base := field e 0 8
    let size := field e 8 8
    let who := field e 0x14 1
    (some (size != 0 && field e 0x10 3 == rkey / 256 && (field e 0x13 1).testBit access && field e 0x13 1 < 4 &&
      allZeros (e.drop 0x15) && (who == 0xFF || who == q) && decide (base ≤ va ∧ va + len ≤ base + size)), s)
where allZeros (l : List Byte) : Bool := l.all (· == 0)

/-- A NAK that ends the queue pair: 2 remote access error, 3 remote operational error. -/
def State.roceNak (s : State) (q : Nat) (x : EthQp) (code : Nat) : State := (s.roceOut x "roce nak" [x.ePsn, code]).qpFail q

/-- Data of an RDMA WRITE is placed; what cannot be is discarded with the rest of its message. -/
def State.roceWrite (s : State) (p : Nat) (c : RoceRecv) (b : List Byte) : RoceRecv × State :=
  if !c.ok then (c, s) else
    match s.engWrite (ethReq p) c.va b with
    | (.ok _, s) => ({ c with va := c.va + b.length }, s)
    | (.error e, s) => ({ c with ok := false }, s.roceDropped p e)

/-- A class 4 sachet is free for a received SEND. -/
def State.class4Free (s : State) (sub : Nat) : Bool :=
  decide (s.get (F.CAD_CL_HELD.HELD 4) < s.classMax 4) && (s.chooseSachet 4 sub).isSome

/-- The packet in sequence of a request. -/
def State.roceRequest (s : State) (q : Nat) (x : EthQp) (k : RocePkt) : State :=
  let p := x.sub / 4
  let done (s : State) (x : EthQp) (n : Nat) : State := (s.setQp q (some { x with ePsn := (x.ePsn + n) % 2 ^ 24, nak := false }))
  let ack (s : State) : State := if k.last then s.roceOut x "roce ack" [k.psn] else s
  match k.op with
  | 0 =>
    if k.first && !s.class4Free x.sub then s.roceOut x "roce rnr nak" [k.psn, 80] else
      let c := (if k.first then some ⟨0, 0, [], true⟩ else x.cur).getD ⟨0, 0, [], true⟩
      let c := { c with data := c.data ++ k.data }
      let s := ack (done s { x with cur := if k.last then none else some c } 1)
      if k.last then s.ccpDoorbell q c.data else s
  | 1 =>
    let start : Option RoceRecv × State :=
      if k.first then
        match s.keyCheck q p k.va k.rkey k.len 1 with
        | (some true, s) => (some ⟨1, k.va, [], true⟩, s)
        | (some false, s) => (none, s)
        | (none, s) => (some ⟨1, k.va, [], false⟩, s)
      else (x.cur, s)
    match start with
    | (none, s) => s.roceNak q x 2
    | (some c, s) =>
      let (c, s) := s.roceWrite p c k.data
      ack (done s { x with cur := if k.last then none else some c } 1)
  | _ =>
    match s.keyCheck q p k.va k.rkey k.len 0 with
    | (some false, s) => s.roceNak q x 2
    | (none, s) => s.roceNak q x 3
    | (some true, s) =>
      match s.engRead (ethReq p) k.va k.len with
      | (.error e, s) => (s.roceDropped p e).roceNak q x 3
      | (.ok b, s) =>
        let n := max 1 ((k.len + mtuBytes x.mtu - 1) / mtuBytes x.mtu)
        (done s x n).roceOut x "roce read response" (k.psn :: b.map BitVec.toNat)

/-- The device is in Nap or Doze, or waking from it. -/
def State.drowsy (s : State) : Bool := s.power.mode == .nap || s.power.mode == .doze || s.power.waking

/-- A RoCEv2 packet reaches port `p` (R387, R388); one that comes while the device sleeps wakes it and is discarded (R481). The data of a read response belongs to the CCP step that waits for it. -/
def State.roceReceive (s : State) (p : Nat) (k : RocePkt) : State :=
  match s.qp k.qp with
  | none => s
  | some x =>
    if x.sub / 4 ≠ p ∨ !s.ethUp p (x.sub % 4) then s
    else if s.drowsy then (s.latchWake (3 + p)).bump (F.ETH_CNT0.RX_DISCARD p)
    else if !k.icrc then s.bump (F.ETH_CNT1.ICRC p)
    else if x.error then s
    else match k.op with
      | 3 => s.roceAck k.qp k.psn
      | 4 => s.roceAck k.qp k.psn
      | 5 =>
        if k.code = 0 then (s.roceAck k.qp ((k.psn + 2 ^ 24 - 1) % 2 ^ 24)).roceRetry k.qp
        else s.qpFail k.qp
      | 6 => s.roceAck k.qp ((k.psn + 2 ^ 24 - 1) % 2 ^ 24)
      | _ =>
        if k.psn = x.ePsn then s.roceRequest k.qp x k
        else if psnAfter k.psn x.ePsn then
          if x.nak then s else (s.setQp k.qp (some { x with nak := true })).roceOut x "roce nak" [x.ePsn, 0]
        else if k.op = 2 then
          match s.keyCheck k.qp p k.va k.rkey k.len 0 with
          | (some true, s) =>
            (match s.engRead (ethReq p) k.va k.len with
              | (.ok b, s) => s.roceOut x "roce read response" (k.psn :: b.map BitVec.toNat)
              | (.error e, s) => (s.roceDropped p e).roceNak k.qp x 3)
          | (some false, s) => s.roceNak k.qp x 2
          | (none, s) => s.roceNak k.qp x 3
        else s.roceOut x "roce ack" [(x.ePsn + 2 ^ 24 - 1) % 2 ^ 24]

/-! ### Commands -/

def execRocePacketReceive (p : Fin 2) (pkt : RocePkt) (s : State) : Host.Outcome State Fault Refusal := s.running (s.ethFlush.roceReceive p pkt)

def execRoceRetryTimeout (qp : Fin 64) (s : State) : Host.Outcome State Fault Refusal := s.running (s.ethFlush.roceRetry qp)

def execRoceRnrTimeout (qp : Fin 64) (s : State) : Host.Outcome State Fault Refusal := s.running (s.ethFlush.roceRnrRetry qp)

/-- A write of ETH_QP_SEL. -/
def wrEthQpSel (src : Nat) (v : Word) (s : State) : State :=
  let s := s.plainWrite src R.ETH_QP_SEL v
  if v.getLsbD 31 then s.ethFlush.qpKill (s.get F.ETH_QP_SEL.QP) else s

def execQpKill (v : Word) (src : Nat) (s : State) : Host.Outcome State Fault Refusal :=
  s.running (s.guardWrite R.ETH_QP_SEL (wrEthQpSel src (v ||| 0x80000000)))

/-- ETH_QP_STAT shows the queue pair that ETH_QP_SEL names. -/
def State.qpStat (s : State) : Word :=
  match s.qp (s.get F.ETH_QP_SEL.QP) with
  | none => 0
  | some x => BitVec.ofNat 32 ((if x.error then 2 else 1) * 2 ^ 30 + x.sub / 4 * 2 ^ 29 + x.sub % 4 * 2 ^ 27 + x.mtu * 2 ^ 25 + x.remote % 2 ^ 24)

end Sys2Proof.Machine
end

