-- ==== Sys2Proof/Machine/TimeCmds.lean ====
section
/-! DEFINITION. The commands of the time unit (chapter 18): the counter's registers, steps and slews, triggers and their
consumers, captures, PPS, the GPIO pins, and PTP. -/

namespace Sys2Proof.Machine

def srcTime : Nat := 0x1400

/-! ### The counter (R431 to R434) -/

def execTimeIncWrite (hi : Bool) (v : Word) (src : Nat) (s : State) : Host.Outcome State Fault Refusal :=
  let off := if hi then R.TIM_INC_HI else R.TIM_INC_LO
  s.running (s.guardWrite off (fun s => s.plainWrite src off v))

/-- A read of TIM_NOW_NS latches the counter (R432). -/
def rdTimNowNs (s : State) : Word × State :=
  let s := s.andThen [(·.put F.TIM_NOW_NS.NS s.time.ns.toNat), (·.put F.TIM_NOW_FRAC.FRAC s.time.frac.toNat),
    (·.put F.TIM_NOW_SEC_LO.SEC s.time.sec.toNat), (·.put F.TIM_NOW_SEC_HI.SEC (s.time.sec.toNat / 2 ^ 32))]
  (s.reg R.TIM_NOW_NS, s)

def execTimeNowRead (s : State) : Host.Outcome State Fault Refusal :=
  s.running (State.answer (s.guardRead R.TIM_NOW_NS rdTimNowNs))

/-- The counter after a step, MODE 0 or 1 (R433). -/
def State.steppedTime (s : State) (mode : Nat) : Time :=
  if mode = 0 then
    ⟨BitVec.ofNat 48 (s.get F.TIM_SET_SEC_LO.SEC + 2 ^ 32 * s.get F.TIM_SET_SEC_HI.SEC), BitVec.ofNat 30 (min (s.get F.TIM_SET_NS.NS) 999999999), 0⟩
  else timeAdd s.time ((s.tickInc : Int) + sint (s.get F.TIM_OFFS.NS) 32 * (fracNs : Int))

/-- A step, with the tick in which it acts. Its event carries the change of N against the count without the step. -/
def State.timeStep (s : State) (mode : Nat) : State :=
  let t := s.steppedTime mode
  let plain := timeAdd s.time (s.tickInc : Int)
  let s := { s with time := t, tim := { s.tim with slew := none } }
  (s.bump F.TIM_STEP.STEPS).post srcTime 2 0 mode (timeN t - timeN plain).toNat

/-- A write of TIM_STEP. -/
def wrTimStep (v : Word) (s : State) : State := if v.getLsbD 31 then s.timeStep (getBits v 30 30) else s

def execTimeStepSet (v : Word) (s : State) : Host.Outcome State Fault Refusal :=
  s.running (s.guardWrite R.TIM_STEP (wrTimStep ((v ||| 0x80000000) &&& 0xBFFFFFFF)))
def execTimeStepOffset (v : Word) (s : State) : Host.Outcome State Fault Refusal :=
  s.running (s.guardWrite R.TIM_STEP (wrTimStep (v ||| 0xC0000000)))

/-- A write of TIM_SLEW starts a slew of that signed number of nanoseconds, in place of any in progress. -/
def wrTimSlew (v : Word) (s : State) : State :=
  let d := v.toInt
  { s with tim := { s.tim with slew := if d = 0 then none else some (decide (d < 0), d.natAbs * fracNs) } }

/-- What TIM_SLEW reads: the amount remaining, rounded toward 0. -/
def slewView (s : State) : Word :=
  match s.tim.slew with
  | none => 0
  | some (neg, left) => let n : Int := ((left / fracNs : Nat) : Int); BitVec.ofInt 32 (if neg then -n else n)

def execTimeSlew (v : Word) (_src : Nat) (s : State) : Host.Outcome State Fault Refusal :=
  s.running (s.guardWrite R.TIM_SLEW (wrTimSlew v))

/-- The last tick of a slew. -/
def State.slewEnds (s : State) : State :=
  match s.tim.slew with
  | some (_, left) => if left ≤ s.slewStep then s.tick else s
  | none => s

def execSlewComplete (s : State) : Host.Outcome State Fault Refusal := s.running s.slewEnds

/-! ### Triggers (R436 to R439) -/

def trgMod : Nat := 2 ^ 72

/-- A write of TIM_TRGk_CFG. -/
def wrTrgCfg (k : Nat) (v : Word) (s : State) : State :=
  if s.on (F.TIM_TRG_CFG.ARM k) then
    if v.getLsbD 30 then s.put (F.TIM_TRG_CFG.ARM k) 0 else s
  else
    let s := (s.put (F.TIM_TRG_CFG.IRQ k) (getBits v 29 29)).put (F.TIM_TRG_CFG.TIME_HI k) (getBits v 7 0)
    if v.getLsbD 31 && !v.getLsbD 30 then
      let t := (s.get (F.TIM_TRG_CFG.TIME_HI k) * 2 ^ 32 + s.get (F.TIM_TRG_TIME.TIME k)) * fracNs
      { s.put (F.TIM_TRG_CFG.ARM k) 1 with tim := { s.tim with targets := sset 0 s.tim.targets k t } }
    else s

/-- The target and period registers keep their values while the trigger is armed (R437). -/
def wrTrgClosed (k src off : Nat) (v : Word) (s : State) : State :=
  if s.on (F.TIM_TRG_CFG.ARM k) then s else s.plainWrite src off v

def execTriggerArm (k : Fin 16) (v : Word) (s : State) : Host.Outcome State Fault Refusal :=
  s.running (s.guardWrite (R.TIM_TRG_CFG k.val) (wrTrgCfg k.val ((v ||| 0x80000000) &&& 0xBFFFFFFF)))
def execTriggerDisarm (k : Fin 16) (v : Word) (s : State) : Host.Outcome State Fault Refusal :=
  s.running (s.guardWrite (R.TIM_TRG_CFG k.val) (wrTrgCfg k.val (v ||| 0x40000000)))

/-- A trigger output's level at its land: active or not. -/
def State.toutLevel (s : State) (n : Nat) (active : Bool) : Nat := if active != s.on (F.GPIO_TOUT_CFG.POL n) then 1 else 0

/-- A firing at TRIG_OUTn: the pulse begins, or its width begins again. -/
def State.toutFire (s : State) (k n : Nat) : State :=
  if !s.on (F.GPIO_TOUT_CFG.EN n) || s.get (F.GPIO_TOUT_CFG.TRIG n) != k then s
  else if s.tim.pulses.contains n then s
  else { s with tim := { s.tim with pulses := s.tim.pulses ++ [n] } }.emit "trigOut" n [s.toutLevel n true]

/-- The consumers of trigger `k` act (Table 18.1). -/
def State.consume (s : State) (k : Nat) : State :=
  let s := (List.range 8).foldl (fun s n => s.toutFire k n) s
  let s := [0, 1].foldl (fun s p => if s.bit (routeExp p) 4 && s.get (routeExp p) % 16 == k && !s.on (F.SLK_EMU.VS_AT_FS p) then s.vsyncAssert p else s) s
  let s := s.audTrigger k
  let s := [0, 1].foldl (fun s j => if s.patBase j 1 && s.getCur (F.PAT_CFG.TRIG j 0) == k then s.patternStart j else s) s
  if s.on (F.TIM_TRG_CFG.IRQ k) then (s.setBit F.TIM_IRQ.FIRED k true).when (s.bit F.TIM_IRQ_EN.EN k) (·.latchWake 2) else s

/-- Trigger `k` fires when its target is reached: it disarms, or its target advances by the smallest whole number of
periods that puts it after N, and the periods left out are counted (R436, R438). -/
def State.trgFire (s : State) (k : Nat) : State :=
  let t := sget 0 s.tim.targets k
  if !s.on (F.TIM_TRG_CFG.ARM k) || !s.reached (t / fracNs) then s else
    let s := { s.bump (F.TIM_TRG_STAT.FIRES k) with tim := { s.tim with fired := sset none s.tim.fired k (some s.time) } }
    let per := s.get (F.TIM_TRG_PERIOD.NS k) * fracNs + s.get (F.TIM_TRG_PFRAC.FRAC k)
    let s := if per = 0 then s.put (F.TIM_TRG_CFG.ARM k) 0
      else
        let behind := ((s.past (t / fracNs)).toNat + 1) * fracNs - t % fracNs
        let m := (behind + per - 1) / per
        { s.bumpBy (F.TIM_TRG_STAT.MISSED k) (m - 1) with tim := { s.tim with targets := sset 0 s.tim.targets k ((t + m * per) % trgMod) } }
    s.consume k

def execTriggerFire (k : Fin 16) (s : State) : Host.Outcome State Fault Refusal := s.running (s.trgFire k.val)

/-- A pulse on TRIG_OUTn ends. -/
def State.toutEnd (s : State) (n : Nat) : State :=
  if s.tim.pulses.contains n then
    { s with tim := { s.tim with pulses := s.tim.pulses.filter (· != n) } }.emit "trigOut" n [s.toutLevel n false]
  else s

def execTrigOutPulseEnd (n : Fin 8) (s : State) : Host.Outcome State Fault Refusal := s.running (s.toutEnd n.val)

/-- A write of GPIO_TOUTn_CFG: the pin takes its level, or is high-impedance (2) and loses its pulse. -/
def wrGpioTout (n src : Nat) (v : Word) (s : State) : State :=
  let s := s.plainWrite src (R.GPIO_TOUT_CFG n) v
  if s.on (F.GPIO_TOUT_CFG.EN n) then s.emit "trigOut" n [s.toutLevel n (s.tim.pulses.contains n)]
  else { s with tim := { s.tim with pulses := s.tim.pulses.filter (· != n) } }.emit "trigOut" n [2]

/-- A write of GPIO_OUT or GPIO_OE: the levels and the pins that are driven. -/
def wrGpio (src off : Nat) (v : Word) (s : State) : State :=
  let s := s.plainWrite src off v
  s.emit "gpio" 0 [s.get F.GPIO_OUT.OUT &&& s.get F.GPIO_OE.OE, s.get F.GPIO_OE.OE]

/-- GPIO_IN: a pin that is not driven has its weak pull-down. -/
def gpioInView (s : State) : Word := BitVec.ofNat 32 (s.get F.GPIO_OUT.OUT &&& s.get F.GPIO_OE.OE)

/-! ### Captures and PPS (R440, R441) -/

/-- An edge at a capture source; TRIG_INj shows its level. -/
def State.captureEdge (s : State) (j : Nat) (rising : Bool) : State :=
  if j < 8 then
    let s := s.setBit F.GPIO_TIN_CFG.LEVEL j rising
    let e := bits (s.get F.GPIO_TIN_CFG.EDGE) (2 * j) 2
    if (if rising then e % 2 == 1 else decide (2 ≤ e)) then (s.capture j).latchWake 0 else s
  else if j = 8 then (if rising then (s.capture 8).latchWake 1 else s)
  else if rising != s.on (F.SLK_SYNCCTL.POL (j - 9)) then s.vsyncEdge (j - 9) else s

def execCaptureEdge (j : Fin 11) (rising : Bool) (s : State) : Host.Outcome State Fault Refusal := s.running (s.captureEdge j.val rising)

def execCaptureNsRead (j : Fin 11) (s : State) : Host.Outcome State Fault Refusal :=
  s.running (State.answer (s.guardRead (R.TIM_CAP_NS j.val) (rdCapNs j.val)))

def State.setPps (s : State) (b : Bool) : State :=
  if s.tim.pps = b then s else { s with tim := { s.tim with pps := b } }.emit "pps" 0 [if b then 1 else 0]

/-- PPS_OUT rises in the tick in which NS has passed to a new second. -/
def execPpsOutRise (s : State) : Host.Outcome State Fault Refusal :=
  s.running (if s.on F.TIM_CTL.PPS_EN && decide (s.time.ns.toNat < 3) then s.setPps true else s)

def execPpsOutFall (s : State) : Host.Outcome State Fault Refusal := s.running (s.setPps false)

/-- A write of TIM_CTL: with PPS_EN = 0, PPS_OUT is held low. -/
def wrTimCtl (src : Nat) (v : Word) (s : State) : State :=
  let s := s.plainWrite src R.TIM_CTL v
  if s.on F.TIM_CTL.PPS_EN then s else s.setPps false

/-! ### PTP (R442 to R445) -/

/-- Accesses to the PTP rings: unit 41, client 27, pinned. -/
def ptpReq : Req := ⟨srcTime, 41, 27, true, none⟩

/-- The counter in units of 2⁻¹⁶ ns. -/
def time16 (t : Time) : Nat := (t.sec.toNat * 1000000000 + t.ns.toNat) * 65536 + t.frac.toNat / 65536

/-- A timestamp (R396): the capture less the RX constant, or plus the TX constant, in units of 2⁻¹⁶ ns. -/
def State.rxStamp (s : State) (p : Nat) : Nat := time16 s.time - s.get (F.ETH_TSCORR.RX p (s.tsRow p)) * 1024
def State.txStamp (s : State) (p : Nat) : Nat := time16 s.time + s.get (F.ETH_TSCORR.TX p (s.tsRow p)) * 1024

/-- The first 14 bytes of a ring entry: a timestamp. -/
def stampBytes (t : Nat) : List Byte :=
  let n := t / 65536
  leBytes 8 (n / 1000000000 % 2 ^ 48) ++ leBytes 4 (n % 1000000000) ++ leBytes 2 (t % 65536)

/-- A frame that the classifier selects. -/
def ptpSelected (f : List Byte) : Bool :=
  let m := udpData f
  isUdp f && (udpDst f == 319 || udpDst f == 320) && decide (34 ≤ m.length) && decide (beField m 0 1 % 16 ≤ 13) && beField m 1 1 % 16 == 2

/-- A selected frame on sub-port 0 of an enabled port, for 224.0.1.129 or the sub-port itself (Table 18.3): forwarded by the
transparent clock, written to the receive ring. -/
def State.ptpReceive (s : State) (p : Nat) (f : List Byte) : State :=
  if !s.bit F.TIM_PTP.PORTS p || !s.ethUp p 0 || !ptpSelected f || (ipDst f != ptpIp && ipDst f != s.subIp (4 * p)) then s else
    let ts := s.rxStamp p
    let tc := s.on F.TIM_PTP.TC_EN
    let fwd := tc && s.ethUp (1 - p) 0
    let s := if fwd then { s with tim := { s.tim with forwards := s.tim.forwards ++ [⟨1 - p, f, ts⟩] } }
      else if tc then s.bump F.TIM_PTP_STAT.TC_DROPS else s
    let m := udpData f
    if !s.on F.TIM_PTP.RX_EN || beField m 4 1 != s.get F.TIM_PTP.DOMAIN then s else
      let e := padTo 128 (stampBytes ts ++ leBytes 1 p ++ leBytes 1 ((if 96 < m.length then 2 else 0) + (if fwd then 4 else 0)) ++
        leBytes 2 (min m.length 96) ++ leBytes 2 (udpDst f) ++ leBytes 4 (ipSrc f) ++ leBytes 4 s.tim.prxSeq ++ zeros 4 ++ m.take 96)
      match s.ringRecord ptpReq (s.addr R.TIM_PRX_LO R.TIM_PRX_HI) 128 (ringSize (s.get F.TIM_PRX_CTL.LOG2CNT) 4 16) F.TIM_PRX_CTL.WIDX e with
      | (true, s) => { s with tim := { s.tim with prxSeq := (s.tim.prxSeq + 1) % 2 ^ 32 } }
      | (false, s) => s

def execPtpReceive (p : Fin 2) (frame : List Byte) (s : State) : Host.Outcome State Fault Refusal := s.running (s.ptpReceive p.val frame)

def execPtpTxSubmit (widx : Half) (src : Nat) (s : State) : Host.Outcome State Fault Refusal :=
  s.running (s.guardWrite R.TIM_PTX_WIDX (fun s => s.plainWrite src R.TIM_PTX_WIDX (widx.setWidth 32)))

/-- The next entry of the transmit ring leaves its sub-port, after every frame that the transparent clock has waiting
there. An entry that cannot be read is passed over. -/
def State.ptpTxDone (s : State) : State :=
  let n := ringSize (s.get F.TIM_PTX_CTL.LOG2CNT) 4 12
  let i := s.get F.TIM_PTX_CTL.RIDX % n
  if i = s.get F.TIM_PTX_WIDX.WIDX % n then s else
    let a := s.addr R.TIM_PTX_LO R.TIM_PTX_HI + 128 * i
    let adv (s : State) : State := s.put F.TIM_PTX_CTL.RIDX ((i + 1) % n)
    match s.engRead ptpReq a 128 with
    | (.error _, s) => adv s
    | (.ok e, s') =>
      let p := field e 0x0E 1 % 2
      if !s.ethUp p 0 || s.paused (4 * p) 8 || s.tim.forwards.any (fun w => w.port == p) then s else
        let len := min (max (field e 0x10 2) 34) 96
        let s := s'.emit "ptpTx" p (field e 0x14 4 :: field e 0x12 2 :: ((e.drop 0x20).take len).map (·.toNat))
        let s := (s.engWrite ptpReq a (stampBytes (s.txStamp p))).2
        adv (s.engWrite ptpReq (a + 0x0F) (leBytes 1 (field e 0x0F 1 ||| 1))).2

def execPtpTxDone (s : State) : Host.Outcome State Fault Refusal := s.running s.ptpTxDone

/-- RFC 1624: a UDP checksum after words of its datagram changed. -/
def fixChecksum (hc : Nat) (old new : List Byte) : Nat :=
  if hc = 0 then 0 else
    let fold (x : Nat) : Nat := let y := x % 65536 + x / 65536; y % 65536 + y / 65536
    let r := 65535 - fold ((65535 - hc) + (65535 - onesSum old) + onesSum new)
    if r = 0 then 65535 else r

/-- The residence time added to the correctionField of Sync and Delay_Req. -/
def corrected (f : List Byte) (residence : Nat) : List Byte :=
  let h := macHead f + 28
  if 1 < beField f h 1 % 16 then f else
    let old := (f.drop (h + 8)).take 8
    let new := beBytes 8 ((beNat old + residence) % 2 ^ 64)
    patch (patch f (h + 8) new) (macHead f + 26) (beBytes 2 (fixChecksum (beField f (macHead f + 26) 2) old new))

/-- The oldest frame that waits for port `p` leaves, or is discarded when 1 ms has passed since its ingress; a pause or a link that is
down makes it wait. -/
def State.tcForward (s : State) (p : Nat) : State :=
  match s.tim.forwards.find? (fun w => w.port == p) with
  | none => s
  | some w =>
    let gone := decide (1000000 * 65536 < s.txStamp p - w.ingress)
    if (s.paused (4 * p) 8 || !s.ethUp p 0) && !gone then s else
    let s := { s with tim := { s.tim with forwards := s.tim.forwards.erase w } }
    if gone then s.bump F.TIM_PTP_STAT.TC_DROPS
    else (s.bump F.TIM_PTP_STAT.TC_FWD).emit "ethTx" (4 * p) ((corrected w.frame (s.txStamp p - w.ingress)).map (·.toNat))

def execPtpTcForward (p : Fin 2) (s : State) : Host.Outcome State Fault Refusal := s.running (s.tcForward p.val)

end Sys2Proof.Machine
end

