-- ==== Sys2Proof/Machine/Mgmt.lean ====
section
/-! DEFINITION. The Ethernet ports (R380 to R386), the management protocol (R392 to R394), network boot (R395) and the
recovery state (R509). -/

namespace Sys2Proof.Machine

/-! ### Ports (R380 to R383, R391) -/

/-- The lanes of sub-port `k` in the port's mode; none where the mode has no such sub-port. -/
def State.subLanes (s : State) (p k : Nat) : List Nat :=
  let l := 88 + 4 * p
  match s.ethSpeed p with
  | 0 => if k = 0 then [l, l + 1, l + 2, l + 3] else []
  | 1 => [l + k]
  | _ => if k = 0 then [l] else []

/-- The port goes down: its queue pairs enter Error and its lanes are idle. -/
def State.ethDisable (s : State) (p : Nat) : State :=
  let s := (s.put (F.ETH_CFG.EN p) 0).put (F.ETH_STAT.LINK p) 0
  let s := [0, 1, 2, 3].foldl (fun s i => s.laneLeave (88 + 4 * p + i)) s
  s.eth.qps.foldl (fun s e => match e.2 with
    | some x => if x.sub / 4 = p then s.qpError e.1 else s
    | none => s) s

/-- A write of ETH_CFG. While EN = 1 it can only clear EN (R383). -/
def wrEthCfg (p src : Nat) (v : Word) (s : State) : State :=
  let off := R.ETH_CFG p
  if s.on (F.ETH_CFG.EN p) then
    if v.getLsbD 31 then s.postIgnored src 3 off
    else
      let s := if (v ^^^ s.reg off) &&& 0x7FFFFFFF = 0 then s else s.postIgnored src 3 off
      s.ethFlush.ethDisable p
  else
    let s := s.plainWrite src off v
    if s.on (F.ETH_CFG.EN p) then s.ethStart p else s

def execEthPortEnable (p : Fin 2) (v : Word) (src : Nat) (s : State) : Host.Outcome State Fault Refusal :=
  s.running (s.guardWrite (R.ETH_CFG p) (wrEthCfg p src (v ||| 0x80000000)))

def execEthPortDisable (p : Fin 2) (v : Word) (src : Nat) (s : State) : Host.Outcome State Fault Refusal :=
  s.running (s.guardWrite (R.ETH_CFG p) (wrEthCfg p src (v &&& 0x7FFFFFFF)))

/-- ETH_MAC and ETH_SPk registers are closed while EN = 1 (R383). -/
def wrEthAddr (p src off : Nat) (v : Word) (s : State) : State :=
  if s.on (F.ETH_CFG.EN p) then s.postIgnored src 3 off else s.plainWrite src off v

/-- ETH_KEYTAB is closed while any queue pair is open. -/
def wrEthKeytab (src off : Nat) (v : Word) (s : State) : State :=
  if s.eth.qps.isEmpty then s.plainWrite src off v else s.postIgnored src 3 off

/-- ETH_LINK_UP: `agreed` says whether a partner that auto-negotiates advertises the mode and FEC (R382). -/
def execEthLinkUp (p : Fin 2) (k : Fin 4) (agreed : Bool) (s : State) : Host.Outcome State Fault Refusal :=
  let l := s.subLanes p k
  s.running (if !s.on (F.ETH_CFG.EN p) || l.isEmpty || !l.all (fun n => s.on (F.LNK_STAT.UP n)) then s
    else if s.on (F.ETH_CFG.AN p) && !agreed then s.put (F.ETH_STAT.AN_FAIL p) 1
    else s.setBit (F.ETH_STAT.LINK p) k true)

def execEthLinkDown (p : Fin 2) (k : Fin 4) (s : State) : Host.Outcome State Fault Refusal :=
  s.running (s.setBit (F.ETH_STAT.LINK p) k false)

def execArpEntryExpire (p : Fin 2) (k : Fin 4) (ip : Word) (s : State) : Host.Outcome State Fault Refusal :=
  let x := 4 * p.val + k
  s.running { s with eth := { s.eth with arp := sset [] s.eth.arp x ((s.arpOf x).filter (fun e => e.1 != ip.toNat)) } }

/-! ### Management messages (R392, R509) -/

/-- A reply: OP + 0x80, the request's SEQ, a status and a body, to the request's source. -/
def State.mgmtReply (s : State) (r : MgmtReq) (op status : Nat) (body : List Nat) : State :=
  s.ipSend r.sub 8 r.ip "management reply" (r.port :: (op + 0x80) :: r.seq :: status :: body)

def State.freeQps (s : State) : Nat := 64 - s.eth.qps.length

/-- DISCOVER: identity, addresses, state, highest CCP version and free queue pairs, in the order of Table 16.6. -/
def State.mgmtDiscover (s : State) (r : MgmtReq) : State :=
  s.mgmtReply r 1 0 [s.get F.SYS_ID.ID, (s.reg R.SYS_REV).toNat, s.sec.serial, s.addr (R.ETH_MAC_LO 0) (R.ETH_MAC_HI 0),
    s.addr (R.ETH_MAC_LO 1) (R.ETH_MAC_HI 1), s.get (F.ETH_SP_IP.ADDR 0 0), s.get (F.ETH_SP_IP.ADDR 1 0), s.boot.phase, 0x0203, s.freeQps]

/-- The highest supported CCP version between two (R393): major 1 or 2, minor 0 to 3. -/
def agreeVersion (lo hi : Nat) : Option Nat :=
  [0x203, 0x202, 0x201, 0x200, 0x103, 0x102, 0x101, 0x100].find? (fun v => decide (lo ≤ v ∧ v ≤ hi))

/-- MTU in force for a port. -/
def State.ethMtu (s : State) (p : Nat) : Nat := min (max (s.get (F.ETH_CFG.MTU p)) 1500) 9000

/-- The queue of CCP parameters (Table 17.5), where they pass. -/
def ccpParams (b : List Byte) (ver : Nat) (admin : Bool) (flags : Nat) : Option CcpQueue :=
  let sq := field b 0 8
  let sd := field b 0xC 2
  let cd := field b 0xE 2
  let cq := field b 0x10 8
  if sq % 64 = 0 ∧ 2 ≤ sd ∧ sd ≤ 4096 ∧ 2 ≤ cd ∧ cd ≤ 4096 ∧ cq % 16 = 0 ∧ field b 0x1C 2 ≤ flags ∧ field b 0x1E 18 = 0 then
    some ⟨ver, admin || (field b 0x1C 2 == 1), sq, field b 8 4, sd, cq, field b 0x18 4, cd, 0, 0, 0, 0, true, 1, 0, [], []⟩
  else none

/-- Steps 2 to 5 of R393 for a body of Table 16.7 from a host on a sub-port: a status (1 Malformed, 2 NoVersion, 3 NoResource), or the
queue pair opened with its first PSN and MTU code. `flags` is the largest FLAGS allowed; the first PSN that the device sends is its own. -/
def State.openQp (s : State) (sub ip : Nat) (b : List Byte) (admin : Bool) (flags : Nat) : (Except Nat (Nat × Nat × Nat × Nat)) × State :=
  let qpn := field b 0 4
  let psn := field b 4 4
  let mtu := field b 8 2
  if b.length ≠ 64 ∨ 2 ^ 24 ≤ qpn ∨ 2 ^ 24 ≤ psn ∨ field b 0xE 2 ≠ 0 ∨ mtu < 1024 then (.error 1, s) else
    match agreeVersion (field b 0xA 2) (field b 0xC 2) with
    | none => (.error 2, s)
    | some ver =>
      match (List.range 64).find? (fun q => (s.qp q).isNone) with
      | none => (.error 3, s)
      | some q =>
        match ccpParams (b.drop 0x10) ver admin flags with
        | none => (.error 1, s)
        | some c =>
          let m := min mtu (s.ethMtu (sub / 4))
          let code := if 4096 ≤ m then 2 else if 2048 ≤ m then 1 else 0
          let (f, s) := s.takeFree
          let first := f.toNat % 2 ^ 24
          let s := s.setQp q (some ⟨sub, qpn, ip, code, false, first, psn, [], [], 0, 0, false, none⟩)
          (.ok (q, first, code, ver), s.setCcpQ q c)

/-- CONNECT (R393, R394): its reply is kept. -/
def State.mgmtConnect (s : State) (r : MgmtReq) (b : List Byte) : State :=
  let keep (s : State) (status : Nat) (body : List Byte) : State :=
    ({ s with eth := { s.eth with replies := s.eth.replies ++ [KeptReply.mk r.ip r.port r.seq status body] } }).mgmtReply r 2 status (body.map BitVec.toNat)
  match s.eth.replies.find? (fun k => k.ip == r.ip && k.port == r.port && k.seq == r.seq) with
  | some k => s.mgmtReply r 2 k.status (k.body.map BitVec.toNat)
  | none =>
    if s.boot.phase ≠ 2 ∨ !s.on F.ETH_MGMT.CONNECT_EN then keep s 4 []
    else
      match s.openQp r.sub r.ip b true 0 with
      | (.error e, s) => keep s e []
      | (.ok (q, psn, code, ver), s) => keep s 0 (leBytes 4 q ++ leBytes 4 psn ++ leBytes 2 (mtuBytes code) ++ leBytes 2 ver ++ zeros 4)

/-- DISCONNECT kills a queue pair of the requesting address (R394). -/
def State.mgmtDisconnect (s : State) (r : MgmtReq) (b : List Byte) : State :=
  let q := field b 0 4
  if s.boot.phase ≠ 2 then s.mgmtReply r 3 4 []
  else if b.length ≠ 4 then s.mgmtReply r 3 1 []
  else
    match s.qp q with
    | some x => if x.ip = r.ip then (s.qpKill q).mgmtReply r 3 0 [] else s.mgmtReply r 3 5 []
    | none => s.mgmtReply r 3 5 []

/-! ### Network boot (R395, Table 16.9) -/

/-- BOOT_READ of the outstanding offset, to the server. -/
def State.bootRead (s : State) : State :=
  match s.boot.net with
  | none => s
  | some n => s.ipSend 0 8 n.server "boot read" [n.off, if n.off = 0 then 1024 else min 1024 (n.len - n.off)]

def State.setNet (s : State) (n : Option NetBoot) : State := { s with boot := { s.boot with net := n } }

/-- BOOT_SOLICIT, from 0.0.0.0 to everyone, while no offer is accepted and ETH0 is up. -/
def State.bootSolicit (s : State) : State :=
  match s.boot.net with
  | none => s
  | some n =>
    if n.offered || !s.ethUp 0 0 then s
    else s.ipSend 0 8 broadcastIp "boot solicit" [s.get F.SYS_ID.ID, (s.reg R.SYS_REV).toNat, s.sec.serial, s.subMac 0]

/-- The first BOOT_OFFER gives the addresses and starts the reads. -/
def State.bootOffer (s : State) (b : List Byte) : State :=
  match s.boot.net with
  | none => s
  | some n =>
    if n.offered || b.length ≠ 32 then s else
      let s := s.bootIp (field b 0 4) (field b 4 4) (field b 8 4)
      (s.setNet (some { n with offered := true, server := field b 12 4, len := field b 16 4, off := 0, tries := 0 })).bootRead

/-- BOOT_DATA for the outstanding read: placed, then the next read, or verification once the image is whole. -/
def State.bootData (s : State) (b : List Byte) : State :=
  match s.boot.net with
  | none => s
  | some n =>
    let len := field b 4 4
    if !n.offered || field b 0 4 ≠ n.off || len = 0 || 1024 < len || b.length < 8 + len || 0x1000000 < n.off + len then s else
      let s := s.setBytes (bootMem + n.off) ((b.drop 8).take len)
      if n.off + len < n.len then (s.setNet (some { n with off := n.off + len, tries := 0 })).bootRead
      else
        let img := s.bytes bootMem n.len
        match (s.setNet none).fwVerify img n.len with
        | (0, s) => s.runFirmware img 3 s.boot.source
        | (_, s) => s.enterRecovery

/-- 100 ms without BOOT_DATA: the same read again, or the start of the sequence after eight. -/
def State.bootTimeout (s : State) : State :=
  match s.boot.net with
  | none => s
  | some n =>
    if !n.offered then s
    else if 8 ≤ n.tries + 1 then ((s.bootIp 0 0 0).setNet (some { n with offered := false, tries := 0 })).bootSolicit
    else (s.setNet (some { n with tries := n.tries + 1 })).bootRead

/-! ### The recovery state (R509) -/

/-- RECOVER: the reply goes first, then the ACTION. -/
def State.mgmtRecover (s : State) (r : MgmtReq) (b : List Byte) : State :=
  let a := field b 0 1
  if s.boot.phase ≠ 1 then s.mgmtReply r 0x20 4 []
  else if b.length ≠ 64 ∨ 3 < a then s.mgmtReply r 0x20 1 []
  else if field b 4 16 ≠ s.sec.serial then s.mgmtReply r 0x20 5 []
  else
    let s := s.mgmtReply r 0x20 0 []
    match a with
    | 0 => s.startNetBoot 1
    | 1 | 2 =>
      (match s.trySlots 2 [a - 1] with
        | (some s, _) => s
        | (none, s) => s)
    | _ => ({ s with sec := { s.sec with trial := 3, attempts := 0 } }).bootFlash

/-! ### Frames (R384, R385, R386, R392) -/

def State.ethDiscard (s : State) (p : Nat) : State := s.bump (F.ETH_CNT0.RX_DISCARD p)
def State.mgmtBad (s : State) (p : Nat) : State := s.bump (F.ETH_CNT1.MGMT_BAD p)

/-- A management datagram: header, body and CRC-32C (Table 16.5). -/
def State.mgmtReceive (s : State) (x ip port : Nat) (m : List Byte) : State :=
  let n := field m 6 2
  let b := (m.drop 16).take n
  let r : MgmtReq := ⟨x, ip, port, field m 8 4⟩
  if field m 0 4 ≠ 0x474D584B ∨ field m 4 1 ≠ 1 ∨ n % 4 ≠ 0 ∨ 1088 < n ∨ m.length ≠ 20 + n ∨
      field m (16 + n) 4 ≠ crc32c (m.take (16 + n)) then s.mgmtBad (x / 4)
  else match field m 5 1 with
    | 0x01 => s.mgmtDiscover r
    | 0x02 => s.mgmtConnect r b
    | 0x03 => s.mgmtDisconnect r b
    | 0x20 => s.mgmtRecover r b
    | 0x90 => if x = 0 then s.bootOffer b else s
    | 0x91 => if x = 0 then s.bootData b else s
    | _ => s.mgmtBad (x / 4)

/-- A pause of `quanta` × 512 bit times for a priority, or for all (8); 0 ends it. -/
def State.setPause (s : State) (x prio quanta : Nat) : State :=
  let l := s.eth.pauses.filter (fun e => !(e.1 == x && e.2.1 == prio))
  let till := s.now.toNat + quanta * 512000 / s.ethRate (x / 4)
  { s with eth := { s.eth with pauses := if quanta = 0 then l else l ++ [(x, prio, till)] } }

/-- A MAC control frame: PAUSE or PFC. -/
def State.macControl (s : State) (x : Nat) (m : List Byte) : State :=
  let p := x / 4
  match beField m 0 2 with
  | 0x0001 => if s.on (F.ETH_PFC.PAUSE_RX p) then s.setPause x 8 (beField m 2 2) else s
  | 0x0101 =>
    (List.range 8).foldl (fun s i =>
      if (beField m 2 2).testBit i && s.bit (F.ETH_PFC.RX_EN p) i then s.setPause x i (beField m (4 + 2 * i) 2) else s) s
  | _ => s.ethDiscard p

/-- An ARP packet: a request for the own address is answered, and either kind resolves its sender. -/
def State.arpReceive (s : State) (x : Nat) (m : List Byte) : State :=
  let op := beField m 6 2
  let mac := beField m 8 6
  let ip := ipField m 14
  if ipField m 24 ≠ s.subIp x ∨ s.subIp x = 0 then s
  else
    let s := s.arpLearn x ip mac
    if op = 1 then s.ethOut ⟨x, 8, ip, ⟨"arp reply", x, [mac, ip, s.subMac x, s.subIp x]⟩⟩ else s

/-- An ICMP echo request is answered with its data. -/
def State.icmpReceive (s : State) (x ip : Nat) (b : List Byte) : State :=
  if beField b 0 1 = 8 ∧ 8 ≤ b.length then
    let z := patch (patch b 0 [0]) 2 (zeros 2)
    s.ipSend x 8 ip "icmp echo reply" ((patch z 2 (beBytes 2 (0xFFFF - onesSum z))).map BitVec.toNat)
  else s.ethDiscard (x / 4)

/-- The MAC address of PTP multicast (Table 18.3). -/
def ptpMac : Nat := 0x01005E000181

/-- The IPv4 destination of a packet for this sub-port: its own, a broadcast, PTP multicast; any while it has no address. -/
def State.ipMine (s : State) (x dst : Nat) : Bool :=
  let m := s.get (F.ETH_SP_MASK.MASK (x / 4) (x % 4))
  dst == s.subIp x || dst == broadcastIp || s.subIp x == 0 || dst == (s.subIp x ||| (0xFFFFFFFF - m)) || dst == ptpIp

/-- An IPv4 packet is delivered. A RoCEv2 packet's own command brings what it carries. -/
def State.ipReceive (s : State) (x : Nat) (f : List Byte) : State :=
  let p := x / 4
  if !ipOk f || !s.ipMine x (ipDst f) then s.ethDiscard p
  else if ipProto f = 1 then s.icmpReceive x (ipSrc f) (ipPayload f)
  else if !isUdp f then s.ethDiscard p
  else if udpDst f = 4791 then s
  else if udpDst f = 319 ∨ udpDst f = 320 then (if x % 4 = 0 ∧ s.bit F.TIM_PTP.PORTS p then s.ptpReceive p f else s.ethDiscard p)
  else if udpDst f = s.get F.ETH_MGMT.UDP_PORT ∧ s.on F.ETH_MGMT.EN then s.mgmtReceive x (ipSrc f) (udpSrc f) (udpData f)
  else s.ethDiscard p

/-- A frame that the MAC takes (Table 16.2). -/
def State.ethDeliver (s : State) (p k : Nat) (fcs : Bool) (f : List Byte) : State :=
  let x := 4 * p + k
  let mtu := s.ethMtu p + (if macHead f = 18 then 22 else 18)
  let d := dstMac f
  let s := if d = s.subMac x then s.latchWake (3 + p) else s
  if !fcs then s.bump (F.ETH_CNT0.RX_FCS p)
  else if f.length + 4 < 64 ∨ mtu < f.length + 4 then s.ethDiscard p
  else if d = 0x0180C2000001 ∧ etherType f = 0x8808 then s.macControl x (f.drop (macHead f))
  else if d ≠ s.subMac x ∧ d ≠ broadcastMac ∧ d ≠ ptpMac then s.ethDiscard p
  else match etherType f with
    | 0x0806 => s.arpReceive x (f.drop (macHead f))
    | 0x0800 => s.ipReceive x f
    | _ => s.ethDiscard p

/-- A frame received: while the device sleeps, it waits in the port's 16 KiB buffer (R481). -/
def State.ethReceive (s : State) (p k : Nat) (fcs : Bool) (f : List Byte) : State :=
  let fcs := fcs && (s.subLanes p k).all (fun n => s.on (F.LNK_STAT.UP n))
  if !s.on (F.ETH_CFG.EN p) || !s.ethUp p k then s
  else if s.drowsy then
    let used := (s.eth.asleep.filter (fun e => e.1 == p)).foldl (fun n e => n + e.2.2.2.length) 0
    let s := if dstMac f = s.subMac (4 * p + k) then s.latchWake (3 + p) else s
    if used + f.length ≤ 16384 then { s with eth := { s.eth with asleep := s.eth.asleep ++ [(p, k, fcs, f)] } } else s.ethDiscard p
  else s.ethDeliver p k fcs f

/-- Frames that waited for the wake are delivered in order. -/
def State.ethAwake (s : State) : State :=
  s.eth.asleep.foldl (fun s e => s.ethDeliver e.1 e.2.1 e.2.2.1 e.2.2.2) { s with eth := { s.eth with asleep := [] } }

/-! ### Commands -/

def execEthFrameReceive (p : Fin 2) (k : Fin 4) (fcs : Bool) (frame : List Byte) (s : State) : Host.Outcome State Fault Refusal :=
  s.running (s.ethFlush.ethReceive p k fcs frame)

def execMgmtDiscover (req : MgmtReq) (s : State) : Host.Outcome State Fault Refusal := s.running (s.ethFlush.mgmtDiscover req)

def execMgmtConnect (req : MgmtReq) (body : List Byte) (s : State) : Host.Outcome State Fault Refusal :=
  s.running (s.ethFlush.mgmtConnect req body)

def execConnectReplyExpire (ip : Word) (port : Half) (seq : Word) (s : State) : Host.Outcome State Fault Refusal :=
  s.running { s with eth := { s.eth with
    replies := s.eth.replies.filter (fun k => !(k.ip == ip.toNat && k.port == port.toNat && k.seq == seq.toNat)) } }

def execMgmtDisconnect (req : MgmtReq) (body : List Byte) (s : State) : Host.Outcome State Fault Refusal :=
  s.running (s.ethFlush.mgmtDisconnect req body)

def execBootSolicit (s : State) : Host.Outcome State Fault Refusal := s.running s.ethFlush.bootSolicit

def execBootOffer (req : MgmtReq) (body : List Byte) (s : State) : Host.Outcome State Fault Refusal :=
  s.running (if req.sub = 0 then s.ethFlush.bootOffer body else s)

def execBootData (req : MgmtReq) (body : List Byte) (s : State) : Host.Outcome State Fault Refusal :=
  s.running (if req.sub = 0 then s.ethFlush.bootData body else s)

def execBootReadTimeout (s : State) : Host.Outcome State Fault Refusal := s.running s.ethFlush.bootTimeout

def execMgmtRecover (req : MgmtReq) (body : List Byte) (s : State) : Host.Outcome State Fault Refusal :=
  s.running (s.ethFlush.mgmtRecover req body)

end Sys2Proof.Machine
end

