-- ==== Sys2Proof/Machine/Ccp.lean ====
section
/-! DEFINITION. The capture store and its command protocol (chapter 17): index, takes, queues, commands and recording streams.
A command's work is done by its own row; its completion is written by COMMAND_COMPLETE. Data that comes from host memory
comes with the row that waits for it. -/

namespace Sys2Proof.Machine

/-! ### Index and runs (R397 to R400) -/

def ccpReq (pinned : Bool) (lost : Option Nat) : Req := ⟨srcCcp, 40, 26, pinned, lost⟩

def freeTake : Take := ⟨0, [], 0, [], [], [], [], 0, 0⟩
def State.take (s : State) (t : Nat) : Take := sget freeTake s.ccp.takes t
def State.storeBase (s : State) : Nat := s.addr R.CCP_STORE_LO R.CCP_STORE_HI
def State.indexBase (s : State) : Nat := s.addr R.CCP_INDEX_LO R.CCP_INDEX_HI
def State.totalRuns (s : State) : Nat := s.get F.CCP_STORE_BLKS.BLKS / 512

/-- Runs that a take, or a deleted take that is still used, holds. -/
def State.usedRuns (s : State) : List Nat :=
  s.ccp.takes.flatMap (fun e => e.2.runs ++ e.2.spare ++ e.2.eruns) ++ s.ccp.dying.flatMap (·.1)

/-- Free runs, lowest-numbered first. -/
def State.freeRuns (s : State) : List Nat := let u := s.usedRuns; (List.range s.totalRuns).filter (fun r => !u.contains r)

/-- CCP_STAT.TAKES and CCP_FREE.RUNS. -/
def State.ccpShow (s : State) : State :=
  (s.put F.CCP_STAT.TAKES s.ccp.takes.length).put F.CCP_FREE.RUNS s.freeRuns.length

/-- The index area, whose layout is the device's own, is written: a pinned access of unit 40. Whether it succeeded. -/
def State.touchIndex (s : State) : Except AccErr Unit × State := s.scramble (ccpReq true none) s.indexBase 64

/-- Take `t` becomes `x` in the index. -/
def State.setTake (s : State) (t : Nat) (x : Take) : State :=
  ({ s with ccp := { s.ccp with takes := sset freeTake s.ccp.takes t x } }).ccpShow

/-- `n` more runs for a take: of its reserve first, then the lowest-numbered free ones. -/
def State.moreRuns (s : State) (x : Take) (n : Nat) : Option (List Nat × Take) :=
  let own := x.spare.take n
  let rest := s.freeRuns.take (n - own.length)
  if own.length + rest.length < n then none else some (own ++ rest, { x with spare := x.spare.drop n })

/-- The stream that records into a take. -/
def State.takeStream (s : State) (t : Nat) : Option Nat :=
  (s.ccp.streams.find? (fun e => match e.2 with | some x => x.take == t | none => false)).map (·.1)

/-- Virtual address of block `k` of a take. -/
def State.blockVa (s : State) (x : Take) (k : Nat) : Nat := s.storeBase + 4096 * (512 * x.runs.getD (k / 512) 0 + k % 512)

/-! ### Commands in progress -/

def CcpCmd.f (c : CcpCmd) (off n : Nat) : Nat := field c.sub off n
def CcpCmd.opc (c : CcpCmd) : Nat := c.f 0 1
def CcpCmd.cid (c : CcpCmd) : Nat := c.f 2 2
def CcpCmd.takeNo (c : CcpCmd) : Nat := c.f 4 2
def CcpCmd.offset (c : CcpCmd) : Nat := c.f 8 4
def CcpCmd.nblk (c : CcpCmd) : Nat := c.f 0xC 4
def CcpCmd.haddr (c : CcpCmd) : Nat := c.f 0x10 8
def CcpCmd.hlen (c : CcpCmd) : Nat := c.f 0x1C 4

def State.setCmd (s : State) (c : CcpCmd) : State :=
  { s with ccp := { s.ccp with cmds := s.ccp.cmds.map (fun x => if x.stamp = c.stamp then c else x) } }

/-- A command's status and RESULT are decided (Table 17.10); errors are counted, and a parity error drops the command (R421). -/
def State.finish (s : State) (c : CcpCmd) (status result : Nat) : State :=
  let s := s.setCmd { c with susp := false, done := some (status, result) }
  match status with
  | 4 => s.bump F.CCP_ERR.NOSPACE
  | 6 => (s.bump F.CCP_ERR.PARITY).post srcCcp 4 2 6 c.cid
  | 7 => s.bump F.CCP_ERR.TRANSLATION
  | _ => s

/-- An access of a command failed: parity, a fault that suspends unit 40 at the command (R422), or a translation error. -/
def State.cmdError (s : State) (c : CcpCmd) (e : AccErr) : State :=
  match e with
  | .parity => s.finish c 6 0
  | .fault va w k => (s.setCmd { c with susp := true }).unitFault srcCcp 40 va w k
  | _ => s.finish c 7 0

/-- The suspended command restarts, or fails with TranslationError (R369, R422). -/
def State.ccpRestart (s : State) : State :=
  { s with ccp := { s.ccp with cmds := s.ccp.cmds.map (fun c => { c with susp := false }) } }

def State.ccpFailFault (s : State) : State :=
  match s.ccp.cmds.find? (·.susp) with
  | none => s
  | some c => s.finish c 7 0

/-- Data for the host buffer: an RDMA WRITE, or for the local queue a pinned write (R412). -/
def State.hostWrite (s : State) (c : CcpCmd) (b : List Byte) : Except AccErr Unit × State :=
  if c.q = 64 then s.engWrite (ccpReq true none) c.haddr b
  else (.ok (), s.rocePost c.q ⟨c.stamp, 1, 0, 0, c.haddr, c.f 0x18 4, b.length, b⟩)

/-- `n` bytes of the host buffer from offset `o`: an RDMA READ whose response is `data`, or a pinned read. -/
def State.hostRead (s : State) (c : CcpCmd) (o n : Nat) (data : List Byte) : Except AccErr (List Byte) × State :=
  if c.q = 64 then s.engRead (ccpReq true none) (c.haddr + o) n
  else (.ok (padTo n data), s.rocePost c.q ⟨c.stamp, 2, 0, 0, c.haddr + o, c.f 0x18 4, n, []⟩)

/-- Answer a command with bytes to the host. -/
def State.answerHost (s : State) (c : CcpCmd) (b : List Byte) (result : Nat) : State :=
  match s.hostWrite c b with
  | (.ok _, s) => s.finish c 0 result
  | (.error e, s) => s.cmdError c e

/-! ### Fetching and checking (R409, R413) -/

/-- First version and whether administrative, by OPC (Table 17.7). -/
def opInfo : Nat → Option (Nat × Bool)
  | 0x01 | 0x02 | 0x03 | 0x04 | 0x05 | 0x06 => some (0x100, false)
  | 0x07 => some (0x101, false)
  | 0x08 => some (0x102, false)
  | 0x09 | 0x0A => some (0x200, false)
  | 0x0B => some (0x201, false)
  | 0x80 | 0x81 | 0x82 | 0x83 | 0x84 | 0x85 => some (0x100, true)
  | 0x86 | 0x87 => some (0x103, true)
  | 0x88 | 0x89 => some (0x200, true)
  | _ => none

/-- Bytes of ARGS that an operation uses, as (offset, size). -/
def argsUsed : Nat → List (Nat × Nat)
  | 0x03 => [(0x20, 28)]
  | 0x07 => [(0x20, 4)]
  | 0x09 | 0x0A | 0x81 | 0x82 | 0x89 => [(0x20, 1)]
  | 0x83 => [(0x20, 1), (0x28, 8)]
  | 0x84 => [(0x20, 4)]
  | 0x85 => [(0x20, 2)]
  | 0x86 | 0x87 => [(0x20, 6)]
  | _ => []

/-- CRC and reserved fields of a submission entry. -/
def CcpCmd.sound (c : CcpCmd) : Bool :=
  let rest := (argsUsed c.opc).foldl (fun b e => patch b e.1 (zeros e.2)) c.sub
  c.f 0x3C 4 == crc32c (c.sub.take 0x3C) && c.f 1 1 == 0 && c.f 6 2 == 0 && ((opInfo c.opc).isNone || field rest 0x20 28 == 0)

/-- The other fields of R413 that need no take. -/
def CcpCmd.fieldsOk (c : CcpCmd) (own ver : Nat) : Bool :=
  let blocks := decide (1 ≤ c.nblk ∧ c.nblk ≤ 8192)
  let aTake := decide (c.takeNo < 1024)
  match c.opc with
  | 0x01 | 0x02 => blocks && aTake && decide (4096 * c.nblk ≤ c.hlen)
  | 0x03 | 0x04 | 0x05 => aTake
  | 0x06 => aTake && decide (64 ≤ c.hlen)
  | 0x07 => decide (c.f 0x22 2 = 0xFFFF ∨ c.f 0x22 2 = own ∨ 0x202 ≤ ver)
  | 0x08 => aTake && decide (1 ≤ c.nblk ∧ c.nblk ≤ 65536)
  | 0x09 => decide (c.f 0x20 1 < 16 ∧ 64 ≤ c.hlen)
  | 0x0A => decide (c.f 0x20 1 < 16)
  | 0x0B => blocks && aTake
  | 0x80 => decide (4096 ≤ c.hlen)
  | 0x84 => decide (c.hlen % 4 = 0 ∧ c.hlen ≤ 1048576 ∧ c.f 0x20 4 + c.hlen ≤ 16777216)
  | 0x85 => decide (c.f 0x20 1 ≤ 1 ∧ c.f 0x21 1 ≤ 3)
  | 0x86 | 0x87 =>
    let n := c.f 0x24 2
    decide (c.f 0x20 4 % 4 = 0 ∧ 1 ≤ n ∧ n ≤ 256 ∧ c.f 0x20 4 + 4 * n ≤ 0x2000000 ∧ 4 * n ≤ c.hlen)
  | 0x88 => decide (64 ≤ c.hlen)
  | _ => true

/-- The status of the checks made as a command is fetched, where one fails. -/
def CcpQueue.checkEntry (x : CcpQueue) (c : CcpCmd) : Option Nat :=
  if !c.sound then some 2
  else match opInfo c.opc with
    | none => some 1
    | some (v, admin) =>
      if x.ver < v then some 1
      else if admin && !x.admin then some 9
      else if !c.fieldsOk c.q x.ver then some 2 else none

/-- How many entries a queue may fetch in one read (R409). -/
def State.fetchable (s : State) (q : Nat) (x : CcpQueue) : Nat :=
  let mine := (s.ccp.cmds.filter (fun c => c.q == q)).length
  let unread := (x.cqTail + x.cqDepth - x.cqHead) % max x.cqDepth 1 + x.held.length
  let waiting := if x.sqTail < x.sqHead then x.sqDepth - x.sqHead else x.sqTail - x.sqHead
  min (min (min 64 waiting) (x.cqDepth - 1 - (mine + unread))) (min (64 - mine) (1024 - s.ccp.cmds.length))

/-- Entries become commands in progress, in order. -/
def State.takeEntries (s : State) (q : Nat) (x : CcpQueue) : List (List Byte) → State
  | [] => s
  | e :: r =>
    let c : CcpCmd := ⟨q, s.ccp.order, padTo 64 e, 0, [], false, none⟩
    let c := { c with done := (x.checkEntry c).map (fun st => (st, 0)) }
    ({ s with ccp := { s.ccp with cmds := s.ccp.cmds ++ [c], order := s.ccp.order + 1 } }).takeEntries q x r

/-- The queue is open: its queue pair is not in Error. -/
def State.queueLive (s : State) (q : Nat) : Bool :=
  s.on F.CCP_CTL.EN && (q == 64 || (match s.qp q with | some x => !x.error | none => false))

/-- SUBMISSION_FETCH: up to 64 entries in one RDMA READ, whose response is `entries`; the local queue reads its ring. -/
def State.submissionFetch (s : State) (q : Nat) (entries : List (List Byte)) : State :=
  match s.ccpQ q with
  | none => s
  | some x =>
    if !s.queueLive q then s else
      let n := s.fetchable q x
      if n = 0 then s else
        let a := x.sqAddr + 64 * x.sqHead
        let (b, s) : Except AccErr (List (List Byte)) × State :=
          if q = 64 then
            match s.engRead (ccpReq true none) a (64 * n) with
            | (.ok b, s) => (.ok (chunks 64 b), s)
            | (.error e, s) => (.error e, s)
          else (.ok (entries.take n), s.rocePost q ⟨s.ccp.order, 2, 0, 0, a, x.sqKey, 64 * n, []⟩)
        match b with
        | .error _ => s
        | .ok l =>
          let head := (x.sqHead + l.length) % x.sqDepth
          let s := s.setCcpQ q { x with sqHead := head }
          let s := if q = 64 then s.put F.CCP_LQ_SQ_IDX.RIDX head else s
          s.takeEntries q x l

/-! ### Completions (R410) -/

/-- The bytes of a completion at a slot (Table 17.8). -/
def completion (cid status head : Nat) (phase : Bool) (result : Nat) : List Byte :=
  leBytes 2 cid ++ leBytes 2 status ++ leBytes 2 head ++ leBytes 2 (if phase then 1 else 0) ++ leBytes 8 result

/-- The tail after `n` completions, and PHASE, which inverts on each wrap. -/
def CcpQueue.advance (x : CcpQueue) (n : Nat) : CcpQueue :=
  if x.cqTail + n < x.cqDepth then { x with cqTail := x.cqTail + n } else { x with cqTail := 0, phase := !x.phase }

/-- Held completions go out, each run up to the ring's end in one RDMA WRITE. -/
def State.flushHeld (s : State) (q : Nat) : Nat → State
  | 0 => s
  | fuel + 1 =>
    match s.ccpQ q with
    | none => s
    | some x =>
      if x.held.isEmpty then s else
        let n := min x.held.length (x.cqDepth - x.cqTail)
        let b := (x.held.take n).flatMap id
        let b := (List.range n).foldl (fun b i => patch b (16 * i + 6) (leBytes 2 (if x.phase then 1 else 0))) b
        let s := s.rocePost q ⟨2 ^ 64, 1, 0, 0, x.cqAddr + 16 * x.cqTail, x.cqKey, 16 * n, b⟩
        (s.setCcpQ q { x.advance n with held := x.held.drop n }).flushHeld q fuel

/-- Runs of deleted takes return to the pool once every command fetched before the DELETE_TAKE on that take, and the
DELETE_TAKE itself, have completed (R400). -/
def State.sweepRuns (s : State) : State :=
  let busy (e : List Nat × Nat × Nat) : Bool := s.ccp.cmds.any (fun c => decide (c.stamp ≤ e.2.2) && c.takeNo == e.2.1 && (opInfo c.opc).isSome)
  ({ s with ccp := { s.ccp with dying := s.ccp.dying.filter busy } }).ccpShow

/-- A decided command whose data the host has acknowledged gets its completion. -/
def State.commandComplete (s : State) (q cid : Nat) : State :=
  match s.ccpQ q, s.ccp.cmds.find? (fun c => c.q == q && c.cid == cid && c.done.isSome) with
  | some x, some c =>
    let owed := match s.qp q with
      | some p => (p.msgs ++ p.waiting).any (fun m => m.user == c.stamp)
      | none => false
    if owed || !s.queueLive q then s else
      let (status, result) := c.done.getD (0, 0)
      let s := { s with ccp := { s.ccp with cmds := s.ccp.cmds.filter (fun y => y.stamp != c.stamp) } }
      let b := completion c.cid status x.sqHead x.phase result
      let s :=
        if q = 64 then
          match s.engWrite (ccpReq true (some c.cid)) (x.cqAddr + 16 * x.cqTail) b with
          | (.ok _, s) =>
            let y := { x.advance 1 with doneIds := x.doneIds ++ [c.cid] }
            ((s.setCcpQ q y).put F.CCP_LQ_CQ_IDX.WIDX y.cqTail).irq 6
          | (.error _, s) => s
        else
          let s := s.setCcpQ q { x with held := x.held ++ [b], doneIds := x.doneIds ++ [c.cid] }
          if x.coHold ≠ 0 ∧ x.held.length + 1 < x.coMax then s else s.flushHeld q 3
      let s := s.sweepRuns
      if c.opc = 0x85 ∧ c.f 0x21 1 = 3 ∧ status = 0 then s.warmReset 2 else s
  | _, _ => s

/-! ### Performing commands -/

/-- Perform a command of a queue by its CID: the first fetched that is not decided. While unit 40 holds a fault commands wait
(R422); before READY they complete with TakeState (R398). -/
def State.perform (s : State) (q cid opc : Nat) (act : CcpCmd → State → State) : State :=
  match s.ccp.cmds.find? (fun c => c.q == q && c.cid == cid && c.opc == opc && c.done.isNone) with
  | none => s
  | some c =>
    if !s.queueLive q || c.susp || s.on (F.MMU_UNIT_FLT_HI.VALID 40) then s
    else if !s.on F.CCP_CTL.READY then s.finish c 5 0
    else act c s

/-- Blocks of a READ or WRITE overlap those of another on the same take. -/
def CcpCmd.meets (a b : CcpCmd) : Bool :=
  a.takeNo == b.takeNo && decide (a.offset < b.offset + b.nblk ∧ b.offset < a.offset + a.nblk)

/-- A READ or WRITE of the queue that a WRITE must let go first (R417). -/
def State.heldBack (s : State) (c : CcpCmd) : Bool :=
  s.ccp.cmds.any (fun e => e.q == c.q && decide (e.stamp < c.stamp) && e.done.isNone && e.meets c && (e.opc == 1 || e.opc == 2))

/-- The newest of the WRITEs that are earlier in a command's queue and not decided, of those that write block `k` of its take. -/
def State.writerOf (s : State) (c : CcpCmd) (k : Nat) : Option CcpCmd :=
  s.ccp.cmds.foldl (fun m e =>
    if e.q == c.q && decide (e.stamp < c.stamp) && e.done.isNone && e.opc == 2 && e.takeNo == c.takeNo &&
      decide (e.offset ≤ k ∧ k < e.offset + e.nblk) then some e else m) none

/-- Block `k` where a WRITE holds it in caddy class 4 (R419). -/
def CcpCmd.stagedAt (e : CcpCmd) (k : Nat) : Option (List Byte) := if e.offset + e.moved ≤ k then e.staged[k - (e.offset + e.moved)]? else none

/-- A READ waits for a block that an earlier WRITE has neither staged nor written, and where it reaches beyond LENGTH for every WRITE
that it meets (R417). -/
def State.readWaits (s : State) (c : CcpCmd) (blocks : Nat) : Bool :=
  (List.range c.nblk).any (fun i => match s.writerOf c (c.offset + i) with
    | none => false
    | some e => decide (blocks ≤ c.offset + c.nblk - 1) || (decide (e.offset + e.moved ≤ c.offset + i) && (e.stagedAt (c.offset + i)).isNone))

/-- Block `k` for a READ: from the caddy where its newest data lie there, else from DRAM. -/
def State.readBlock (s : State) (c : CcpCmd) (x : Take) (k : Nat) : Except AccErr (List Byte) × State :=
  match (s.writerOf c k).bind (·.stagedAt k) with
  | some b => (.ok (padTo 4096 b), s)
  | none => s.engRead (ccpReq false none) (s.blockVa x k) 4096

/-- The blocks of a take from `k`. -/
def State.readBlocks (s : State) (c : CcpCmd) (x : Take) (k : Nat) : Nat → Except AccErr (List Byte) × State
  | 0 => (.ok [], s)
  | n + 1 =>
    match s.readBlock c x k with
    | (.error e, s) => (.error e, s)
    | (.ok b, s) =>
      match s.readBlocks c x (k + 1) n with
      | (.error e, s) => (.error e, s)
      | (.ok r, s) => (.ok (b ++ r), s)

/-- READ (R401, R414): bytes at or beyond LENGTH read as 0. -/
def doRead (c : CcpCmd) (s : State) : State :=
  let x := s.take c.takeNo
  if s.readWaits c ((x.length + 4095) / 4096) then s
  else if x.state = 0 then s.finish c 5 0
  else if (x.length + 4095) / 4096 ≤ c.offset + c.nblk - 1 then s.finish c 3 0
  else
    match s.readBlocks c x c.offset c.nblk with
    | (.error e, s) => s.cmdError c e
    | (.ok b, s) => s.answerHost c (padTo (4096 * c.nblk) (b.take (x.length - 4096 * c.offset))) c.nblk

/-- The parity of every byte of the block at virtual address `va` is inverted (R421). -/
def State.spoilBlock (s : State) (va : Nat) : State :=
  match s.translate (ccpReq false none) va true with
  | (.ok pa, s) => if region pa = .dram then s.markBad ((List.range 4096).map (· + pa)) else s
  | (.error _, s) => s

/-- Staged blocks written one after another: the command as far as it came, and why it stopped (none: a staged parity error). -/
def State.writeBlocks (s : State) (c : CcpCmd) (x : Take) (bad : Option Nat) : List (List Byte) → (CcpCmd × Option (Option AccErr)) × State
  | [] => (({ c with staged := [] }, none), s)
  | b :: r =>
    let va := s.blockVa x (c.offset + c.moved)
    match s.engWrite (ccpReq false none) va b with
    | (.error e, s) => (({ c with staged := b :: r }, some (some e)), s)
    | (.ok _, s) =>
      if bad = some c.moved then (({ c with moved := c.moved + 1 }, some none), s.spoilBlock va)
      else s.writeBlocks { c with moved := c.moved + 1 } x bad r

/-- The next blocks of a WRITE come from the host into caddy class 4. -/
def State.stageBlocks (s : State) (c : CcpCmd) (data : List Byte) : Except AccErr CcpCmd × State :=
  let have_ := c.moved + c.staged.length
  let want := 4096 * (c.nblk - have_)
  if want = 0 then (.ok c, s) else
    match s.hostRead c (4096 * have_) (if c.q = 64 then want else min want (data.length / 4096 * 4096)) data with
    | (.error e, s) => (.error e, s)
    | (.ok b, s) => (.ok { c with staged := c.staged ++ chunks 4096 b }, s)

/-- WRITE (R400, R401, R414): the next blocks come from the host and are staged; unless they stay staged, or an earlier command goes
first, they are written, every run being allocated before any block. `data` are the next blocks from the host, `bad` the block whose
staged copy met a parity error. -/
def doWrite (data : List Byte) (bad : Option Nat) (stay : Bool) (c : CcpCmd) (s : State) : State :=
  let x := s.take c.takeNo
  let later := s.heldBack c
  if !later && x.state != 1 then s.finish c 5 0
  else if !later && decide ((x.length + 4095) / 4096 < c.offset) then s.finish c 3 0
  else
    match s.stageBlocks c data with
    | (.error e, s) => s.cmdError c e
    | (.ok c, s) =>
      if stay || later then s.setCmd c else
      match s.moreRuns x ((c.offset + c.nblk + 511) / 512 - x.runs.length) with
      | none => s.finish c 4 0
      | some (l, x) =>
        let x := { x with runs := x.runs ++ l }
        let s := s.setTake c.takeNo x
        match s.writeBlocks c x bad c.staged with
        | ((c, some none), s) => s.finish c 6 c.moved
        | ((c, some (some e)), s) => s.cmdError c e
        | ((c, none), s) =>
          if c.moved < c.nblk then s.setCmd c
          else
            match s.touchIndex with
            | (.error e, s) => s.cmdError c e
            | (.ok _, s) =>
              let x := s.take c.takeNo
              (s.setTake c.takeNo { x with length := max x.length ((c.offset + c.nblk) * 4096) }).finish c 0 c.nblk

/-- A command that changes the index: the pinned access first (R422). -/
def State.withIndex (s : State) (c : CcpCmd) (act : State → State) : State :=
  match s.touchIndex with
  | (.error e, s) => s.cmdError c e
  | (.ok _, s) => act s

/-- CREATE_TAKE: the Free take that TAKE names opens with its name and reserve (R400). -/
def doCreate (c : CcpCmd) (s : State) : State :=
  let n := c.f 0x38 4
  let free := s.freeRuns
  if (s.take c.takeNo).state ≠ 0 then s.finish c 5 0
  else if free.length < n then s.finish c 4 0
  else s.withIndex c (fun s =>
    (s.setTake c.takeNo { freeTake with state := 1, name := (c.sub.drop 0x20).take 24, spare := free.take n, created := s.time.sec.toNat % 2 ^ 32 }).finish c 0 c.takeNo)

/-- CLOSE_TAKE: an Open take that no stream records becomes Closed. -/
def doClose (c : CcpCmd) (s : State) : State :=
  let x := s.take c.takeNo
  if x.state ≠ 1 ∨ (s.takeStream c.takeNo).isSome then s.finish c 5 0
  else s.withIndex c (fun s => (s.setTake c.takeNo { x with state := 2 }).finish c 0 0)

/-- DELETE_TAKE: the take is Free; its runs follow under R400. -/
def doDelete (c : CcpCmd) (s : State) : State :=
  let x := s.take c.takeNo
  if x.state = 0 ∨ (s.takeStream c.takeNo).isSome then s.finish c 5 0
  else s.withIndex c (fun s =>
    let s := { s with ccp := { s.ccp with dying := s.ccp.dying ++ [(x.runs ++ x.spare ++ x.eruns, c.takeNo, c.stamp)] } }
    (s.setTake c.takeNo freeTake).finish c 0 0)

/-- TAKE_INFO (Table 17.9). -/
def doInfo (c : CcpCmd) (s : State) : State :=
  let x := s.take c.takeNo
  if x.state = 0 then s.finish c 5 0 else
    let b := padTo 24 x.name ++ leBytes 1 x.state ++ leBytes 1 ((s.takeStream c.takeNo).getD 0xFF) ++ zeros 2 ++
      leBytes 4 (x.runs.length + x.spare.length + x.eruns.length) ++ leBytes 8 x.length ++ leBytes 8 x.entries.length ++
      leBytes 4 x.bad ++ leBytes 4 x.created ++ zeros 4
    s.answerHost c (b ++ leBytes 4 (crc32c b)) 0

/-- ABORT (R420). -/
def doAbort (c : CcpCmd) (s : State) : State :=
  let t := c.f 0x20 2
  let q := if c.f 0x22 2 = 0xFFFF then c.q else c.f 0x22 2
  match s.ccp.cmds.find? (fun e => e.q == q && e.cid == t && decide (e.stamp < c.stamp) && e.done.isNone) with
  | some e => ((if e.susp then s.withdrawFault 40 else s).finish e 8 0).finish c 0 0
  | none =>
    let above := s.ccp.cmds.any (fun e => e.q == q && e.cid == t && decide (e.stamp < c.stamp)) ||
      (match s.ccpQ q with | some x => x.doneIds.contains t | none => false)
    s.finish c 0 (if above then 1 else 2)

/-- GET_FRAMES (R415). -/
def doFrames (c : CcpCmd) (s : State) : State :=
  let x := s.take c.takeNo
  let l := (x.entries.drop c.offset).take c.nblk
  if x.state = 0 then s.finish c 5 0
  else if c.hlen < 32 * l.length then s.finish c 2 0
  else s.answerHost c (l.flatMap id) l.length

/-- MAP (R416). -/
def doMap (c : CcpCmd) (s : State) : State :=
  let x := s.take c.takeNo
  let first := c.offset / 512
  let l := (x.runs.drop first).take ((c.offset + c.nblk - 1) / 512 + 1 - first)
  if x.state = 0 then s.finish c 5 0
  else if (x.length + 4095) / 4096 ≤ c.offset + c.nblk - 1 then s.finish c 3 0
  else if c.hlen < 8 * l.length then s.finish c 2 0
  else s.answerHost c (l.flatMap (fun r => leBytes 8 (s.addr R.CCP_RWIN_LO R.CCP_RWIN_HI + 2097152 * r))) l.length

/-! ### Administrative commands (R424 to R428, R507) -/

/-- IDENTIFY (Table 17.11). -/
def doIdentify (c : CcpCmd) (s : State) : State :=
  let b := leBytes 4 (s.get F.SYS_ID.ID) ++ leBytes 4 (s.reg R.SYS_REV).toNat ++ leBytes 16 s.sec.serial ++ leBytes 8 s.boot.version ++
    leBytes 2 0x00FF ++ leBytes 2 (((s.ccpQ c.q).map (·.ver)).getD 0) ++ leBytes 2 64 ++ leBytes 2 4096 ++ leBytes 4 8192 ++
    leBytes 4 (s.get F.CCP_STORE_BLKS.BLKS) ++ leBytes 4 (s.get F.CCP_FREE.RUNS) ++ leBytes 2 (s.get F.CCP_STAT.TAKES) ++ leBytes 1 16
  s.answerHost c (padTo 4096 b) 0

/-- EVT_LAST: the highest SEQ placed. -/
def State.evtLast (s : State) : Nat := s.evt.nextSeq.toNat - 1

/-- A snapshot of the event ring (R517): header and records in ascending SEQ. Nothing is placed while it is taken. -/
def State.snapshotLog (s : State) : List Byte :=
  let l := isort (fun (a b : EvRecord) => decide (a.seq.toNat ≤ b.seq.toNat)) (s.evt.ring.filterMap (·.2))
  leBytes 8 ((l.head?.map (·.seq.toNat)).getD 0) ++ leBytes 8 s.evtLast ++ leBytes 4 l.length ++ leBytes 4 1 ++ zeros 8 ++
    l.flatMap EvRecord.bytes

/-- GET_LOG (Table 17.12), cut to HLEN. -/
def doLog (c : CcpCmd) (s : State) : State :=
  let page : Option (List Byte) := match c.f 0x20 1 with
    | 1 => some (padTo 64 (leBytes 4 (s.reg R.CCP_ERR).toNat ++ (List.range 16).flatMap (fun k => leBytes 2 (s.get (F.CCP_STR_STAT.BAD k)))))
    | 2 => some ((List.range 1024).map (fun t => BitVec.ofNat 8 (s.take t).state))
    | 3 => some s.snapshotLog
    | _ => none
  match page with
  | none => s.finish c 2 0
  | some b => s.answerHost c (b.take c.hlen) 0

/-- GET_FEATURE (Table 17.13). -/
def doGetFeature (c : CcpCmd) (s : State) : State :=
  match c.f 0x20 1, s.ccpQ c.q with
  | 1, _ => s.finish c 0 s.now.toNat
  | 2, some x => if x.ver < 0x203 then s.finish c 2 0 else s.finish c 0 (x.coMax + 65536 * x.coHold)
  | 3, _ => s.finish c 0 (s.get F.ETH_MGMT.CONNECT_EN)
  | _, _ => s.finish c 2 0

/-- SET_FEATURE. -/
def doSetFeature (c : CcpCmd) (s : State) : State :=
  let v := c.f 0x28 8
  match c.f 0x20 1, s.ccpQ c.q with
  | 2, some x =>
    let n := v % 65536
    let us := v / 65536
    if x.ver < 0x203 ∨ n = 0 ∨ 64 < n ∨ 1000 < us then s.finish c 2 0
    else (s.setCcpQ c.q { x with coMax := n, coHold := us }).finish c 0 0
  | 3, _ => if 1 < v then s.finish c 2 0 else (s.put F.ETH_MGMT.CONNECT_EN v).finish c 0 0
  | _, _ => s.finish c 2 0

/-- Read and write by physical address, piece by piece. -/
def State.physGet (s : State) (r : Req) : List (Nat × Nat) → Except AccErr (List Byte) × State
  | [] => (.ok [], s)
  | (a, k) :: rest =>
    match s.physRead r a k with
    | (.error e, s) => (.error e, s)
    | (.ok b, s) =>
      match s.physGet r rest with
      | (.error e, s) => (.error e, s)
      | (.ok b', s) => (.ok (b ++ b'), s)

def State.physPut (s : State) (r : Req) : List (Nat × Nat) → List Byte → Except AccErr Unit × State
  | [], _ => (.ok (), s)
  | (a, k) :: rest, b =>
    match s.physWrite r a (b.take k) with
    | (.error e, s) => (.error e, s)
    | (.ok _, s) => s.physPut r rest (b.drop k)

/-- The firmware staging area. -/
def State.stageBase (s : State) : Nat := s.addr R.SEC_STAGE_LO R.SEC_STAGE_HI

/-- FW_DOWNLOAD (R426). -/
def doDownload (data : List Byte) (c : CcpCmd) (s : State) : State :=
  match s.hostRead c 0 c.hlen data with
  | (.error e, s) => s.cmdError c e
  | (.ok b, s) =>
    match s.physPut (ccpReq true none) (pieces (c.hlen / 64 + 2) (s.stageBase + c.f 0x20 4) c.hlen) b with
    | (.error e, s) => s.cmdError c e
    | (.ok _, s) => s.finish c 0 0

/-- The staged image: as many bytes as its header names, at most 16 MiB. -/
def State.stagedImage (s : State) : Except AccErr (List Byte) × State :=
  match s.physGet (ccpReq true none) (pieces 3 s.stageBase 64) with
  | (.error e, s) => (.error e, s)
  | (.ok h, s) =>
    let n := min (field h 8 4) 16777216
    match s.physGet (ccpReq true none) (pieces (n / 64 + 2) (s.stageBase + 64) (n - 64)) with
    | (.error e, s) => (.error e, s)
    | (.ok b, s) => (.ok (h ++ b), s)

/-- FW_COMMIT with ACTION 0, 1 or 3 (R507); `program` says whether the flash took the image and read back as written. -/
def doCommit (program : Bool) (c : CcpCmd) (s : State) : State :=
  let k := c.f 0x20 1
  if k = s.boot.booted then s.finish c 0xA 0x0A
  else
    match s.stagedImage with
    | (.error e, s) => s.cmdError c e
    | (.ok img, s) =>
      match s.fwVerify img 16777216 with
      | (0, s) =>
        if !program then ({ s with sec := { s.sec with invalid := s.sec.invalid ||| 2 ^ k } }).finish c 0xA 0x09
        else
          let s := s.writeSlot k (img.take (field img 8 4))
          let s := { s with sec := { s.sec with invalid := s.sec.invalid - (if s.sec.invalid.testBit k then 2 ^ k else 0) } }
          let s := if c.f 0x21 1 = 0 then s else { s with sec := { s.sec with trial := k, attempts := 0 } }
          s.finish c 0 0
      | (e, s) => s.finish c 0xA e

/-- FW_COMMIT of the ACTION that a row names. -/
def State.performCommit (s : State) (q cid action : Nat) (act : CcpCmd → State → State) : State :=
  s.perform q cid 0x85 (fun c s => if c.f 0x21 1 = action then act c s else s)

/-- CREATE_QP (R407): on the sub-port and for the host of the submitting queue. -/
def doCreateQp (data : List Byte) (c : CcpCmd) (s : State) : State :=
  match s.qp c.q with
  | none => s.finish c 2 0
  | some x =>
    match s.hostRead c 0 64 data with
    | (.error e, s) => s.cmdError c e
    | (.ok b, s) =>
      match s.openQp x.sub x.ip b false 1 with
      | (.error _, s) => s.finish c 2 0
      | (.ok (q, psn, code, _), s) => s.finish c 0 (q + 256 * psn + 2 ^ 32 * code)

/-- DELETE_QP (R428). -/
def doDeleteQp (c : CcpCmd) (s : State) : State :=
  let q := c.f 0x20 1
  if q = c.q ∨ (s.qp q).isNone then s.finish c 2 0 else (s.qpKill q).finish c 0 0

/-! ### Recording streams (R402 to R406) -/

def StreamRun.d (x : StreamRun) (off n : Nat) : Nat := field x.desc off n

/-- A stream ends: its take stays Open, and STOP_STREAM commands that waited complete. -/
def State.endStream (s : State) (k : Nat) : State :=
  match s.stream k with
  | none => s
  | some x =>
    let s := if x.kind = 3 then s.setStr x.src { s.strS x.src with recorded := false, sets := [], done := [] } else s
    let s := ((s.setStream k none).put (F.CCP_STR_STAT.STATE k) 0).setBit F.CCP_STAT.STREAMS k false
    x.stops.foldl (fun s st => match s.ccp.cmds.find? (fun c => c.stamp == st && c.done.isNone) with
      | some c => s.finish c 0 0
      | none => s) s

/-- The checks of R402 on a descriptor: a status, or none where it passes. -/
def State.streamCheck (s : State) (k : Nat) (x : StreamRun) : Option Nat :=
  let kind := x.kind
  let src := x.src
  let inRange := match kind with
    | 0 | 1 => decide (26 ≤ src ∧ src ≤ 29)
    | 2 => decide (src < 32)
    | 3 => decide (src < 16)
    | 4 => decide (44 ≤ src ∧ src ≤ 47)
    | _ => false
  let q := x.d 2 1
  if x.d 0x3C 4 ≠ crc32c (x.desc.take 0x3C) ∨ x.d 0xE 2 ≠ 0 ∨ x.d 0x14 40 ≠ 0 ∨ 1 < x.d 7 1 ∨ 1024 ≤ x.d 8 2 then some 2
  else if (s.stream k).isSome || !inRange || s.recording kind src then some 2
  else if kind = 0 ∧ (7 < q ∨ x.d 0xA 2 = 0 ∨ 64 < x.d 0xA 2 ∨ s.get (F.STA_TAP_CTL.ENC (src - 26) 0) ≠ 0 ∨ s.get (F.STA_TAP_CTL.ENC (src - 26) 1) ≠ 0 ∨
      !s.on (F.CMP_Q_CTL.EN q) ∨ s.ccp.streams.any (fun e => match e.2 with | some y => y.kind == 0 && y.d 2 1 == q | none => false)) then some 2
  else if kind = 2 ∧ (s.vceState src = 0 ∨ (s.vceC src).decodes) then some 2
  else if (s.take (x.d 8 2)).state ≠ 1 ∨ (s.takeStream (x.d 8 2)).isSome then some 5
  else none

/-- START_STREAM. -/
def doStart (data : List Byte) (c : CcpCmd) (s : State) : State :=
  let k := c.f 0x20 1
  match s.hostRead c 0 64 data with
  | (.error e, s) => s.cmdError c e
  | (.ok b, s) =>
    let x : StreamRun := ⟨field b 8 2, b, [], none, 0, []⟩
    match s.streamCheck k x with
    | some st => s.finish c st 0
    | none =>
      let s := s.andThen [(·.setStream k (some x)), (·.put (F.CCP_STR_STAT.STATE k) 1), (·.put (F.CCP_STR_STAT.TAKE k) x.take),
        (·.put (F.CCP_STR_FRAMES.FRAMES k) 0), (·.setBit F.CCP_STAT.STREAMS k true)]
      let s := if x.kind = 3 then s.setStr x.src { s.strS x.src with recorded := true, sets := [], done := [] } else s
      s.finish c 0 0

/-- STOP_STREAM completes once the entry of the frame in progress has been written (R406). -/
def doStop (c : CcpCmd) (s : State) : State :=
  let k := c.f 0x20 1
  match s.stream k with
  | none => s.finish c 0 0
  | some x =>
    let s := s.setStream k (some { x with inbox := [], stops := x.stops ++ [c.stamp] })
    if x.cur.isSome then s.put (F.CCP_STR_STAT.STATE k) 2 else s.endStream k

/-- The compression job of a kind 0 stream for stripes from `first`, as a descriptor (R403). -/
def StreamRun.job (x : StreamRun) (i : FeedItem) (first n : Nat) : CmpJob :=
  let flags := (if first = 0 then 0 else 1) + 2 + (if x.d 7 1 = 1 then 4 else 0)
  let d := leBytes 1 0 ++ leBytes 1 flags ++ leBytes 1 (x.d 4 1) ++ leBytes 1 (x.d 3 1) ++ leBytes 1 (x.d 5 1) ++ leBytes 1 (x.d 6 1) ++
    leBytes 2 (x.d 0xC 2) ++ leBytes 2 i.w ++ leBytes 2 i.h ++ leBytes 2 first ++ leBytes 2 n ++ leBytes 8 i.addr ++ leBytes 4 i.pitch ++
    leBytes 4 (2 ^ 32 - 1) ++ leBytes 8 0 ++ leBytes 8 64 ++ leBytes 8 i.tag ++ leBytes 4 0
  { (default : CmpJob) with q := x.d 2 1, desc := d ++ leBytes 4 (crc32c d) }

/-- The stripes of a job coded one after another: what they come to, and the coder after them. -/
def codeStripes (k : PredCfg) (h every : Nat) (lines : List (List Nat)) (cont : Bool) (stripes : Nat) :
    Nat → Nat → PredRun → (List Byte × Nat × Nat) → (List Byte × Nat × Nat) × PredRun
  | 0, _, run, acc => (acc, run)
  | n + 1, idx, run, (b, stored, clamps) =>
    let rows := (lines.drop (16 * idx)).take (min 16 (h - 16 * idx))
    let top := 2 ^ k.d - 1
    let above := ((rows.flatten).filter (fun v => decide (top < v))).length
    let reset := !cont || (every != 0 && idx % every == 0)
    let (st, p, run) := encodeStripe k (run.start k reset) (16 * idx) (rows.map (fun l => l.map (min top)))
    let head := leBytes 1 (if st then 1 else 0) ++ leBytes 1 (flagIf reset 0 + flagIf (idx + 1 == stripes) 1) ++ leBytes 2 rows.length ++
      leBytes 4 idx ++ leBytes 4 p.length
    codeStripes k h every lines true stripes n (idx + 1) run
      (b ++ head ++ leBytes 4 (crc32c (head ++ p)) ++ p, stored + (if st then 1 else 0), clamps + above)

/-- The jobs of a frame: their streams in stripe order and the stripes stored; none where a job fails (R310). -/
def StreamRun.encode (x : StreamRun) (i : FeedItem) (lines : List (List Nat)) : Nat → Nat → PredRun → List Byte → Nat → Option (List Byte × Nat)
  | 0, _, _, b, stored => some (b, stored)
  | fuel + 1, first, run, b, stored =>
    let stripes := (i.h + 15) / 16
    if stripes ≤ first then some (b, stored) else
      let n := min (x.d 0xA 2) (stripes - first)
      let j := x.job i first n
      if !j.ok then none else
        let ((body, st, clamps), run) := codeStripes j.cfg i.h (x.d 0xC 2) lines (first != 0) stripes n first run ([], 0, 0)
        let head := ({ j with pos := body.length, stored := st, clamps := clamps } : CmpJob).header
        x.encode i lines fuel (first + n) run (b ++ head ++ body) (stored + st)

/-- A job of a kind 0 stream fails (R310). -/
def State.jobLost (s : State) (q : Nat) (e : AccErr) : State :=
  (s.bump (F.CMP_Q_STAT.FAILED q)).post (srcCmp q) (if e = .parity then 4 else 3) 2 5 0

/-- The data of a frame, or the FLAGS bit that marks it BAD. A job that cannot read its source fails (R310). -/
def State.streamData (s : State) (x : StreamRun) (i : FeedItem) : Except Nat (List Byte × Nat) × State :=
  if i.bad then (.error 3, s)
  else if i.above then (.error 2, s)
  else match i.data with
    | some b => (.ok (b, 0), s)
    | none =>
      let r : Req := if x.kind = 0 then { s.cmpReq (x.d 2 1) 0 true none with pinned := true } else ccpReq true none
      match s.engRead r i.addr i.len with
      | (.error e, s) => if x.kind = 0 then (.error 4, s.jobLost (x.d 2 1) e) else (.error (if e = .parity then 3 else 5), s)
      | (.ok b, s) =>
        if x.kind = 0 then
          let lines := (List.range i.h).map (fun y => lineSamples i.w (b.drop (y * i.pitch)))
          match x.encode i lines ((i.h + 15) / 16) 0 ⟨predInit (x.d 4 1), [], 0⟩ [] 0 with
          | some d => (.ok d, s.bumpBy (F.CMP_Q_STAT.DONE (x.d 2 1)) (((i.h + 15) / 16 + x.d 0xA 2 - 1) / max (x.d 0xA 2) 1))
          | none => (.error 4, s.jobLost (x.d 2 1) .translation)
        else (.ok (b, 0), s)

/-- The next frame that the source offers; a kind 3 source offers its complete audio records (R463). -/
def State.nextFrame (s : State) (x : StreamRun) : Option (FeedItem × State) :=
  if x.kind = 3 then
    let a := s.strS x.src
    match a.done with
    | [] => none
    | b :: r => some (⟨6 * 2 ^ 60 + x.count % 2 ^ 44 * 65536 + x.src, 0, b.length, 0, 0, 0, 0, false, false, some b⟩, s.setStr x.src { a with done := r })
  else
    match x.inbox with
    | [] => none
    | i :: _ => some (i, s)

/-- STREAM_FRAME_APPEND: the next frame is taken and its data staged (R403). -/
def State.streamAppend (s : State) (k : Nat) : State :=
  match s.stream k with
  | none => s
  | some x =>
    if x.cur.isSome || s.get (F.CCP_STR_STAT.STATE k) ≠ 1 then s else
      match s.nextFrame x with
      | none => s
      | some (i, s) =>
        let staged (d : List Byte) (flags stored : Nat) (s : State) : State :=
          let s := s.setStream k (some { x with inbox := x.inbox.drop (if x.kind = 3 then 0 else 1), cur := some ⟨i, d, flags, stored⟩ })
          if x.kind = 2 ∧ !i.bad then s.put (F.VCE_CTX_BS_RPTR.OFFSET x.src) ((i.addr + i.len - (s.vceC x.src).d 0x40 8) % max ((s.vceC x.src).d 0x48 4) 1) else s
        match s.streamData x i with
        | (.ok (d, stored), s) => staged d 0 stored s
        | (.error f, s) => staged [] (1 + 2 ^ f) 0 s

/-- A frame entry (Table 17.4). -/
def frameEntry (tag off len flags kind st stored : Nat) : List Byte :=
  let b := leBytes 8 tag ++ leBytes 8 off ++ leBytes 4 len ++ leBytes 2 flags ++ leBytes 1 kind ++ leBytes 1 st ++ leBytes 4 stored
  b ++ leBytes 4 (crc32c b)

/-- Bytes of a take from byte `o`, written run by run as a pinned access. -/
def State.writeTake (s : State) (x : Take) : Nat → Nat → List Byte → Except AccErr Unit × State
  | 0, _, _ => (.ok (), s)
  | fuel + 1, o, b =>
    if b.isEmpty then (.ok (), s) else
      let n := min b.length (2097152 - o % 2097152)
      match s.engWrite (ccpReq true none) (s.storeBase + 2097152 * x.runs.getD (o / 2097152) 0 + o % 2097152) (b.take n) with
      | (.error e, s) => (.error e, s)
      | (.ok _, s) => s.writeTake x fuel (o + n) (b.drop n)

/-- The frame's entry is written and counted; LENGTH advances when data was kept. -/
def State.putEntry (s : State) (k : Nat) (x : StreamRun) (t : Take) (f : StagedFrame) (off flags : Nat) : State :=
  let bad := flags % 2 == 1
  let len := if bad then 0 else f.data.length
  let e := frameEntry f.item.tag off len flags x.kind k (if bad then 0 else f.stored)
  let t := { t with entries := t.entries ++ [e], bad := t.bad + (if bad then 1 else 0), length := if bad then t.length else off + len }
  let s := (s.setTake x.take t).incr (F.CCP_STR_FRAMES.FRAMES k)
  let s := s.when bad (·.bump (F.CCP_STR_STAT.BAD k))
  let y := { x with cur := none, count := x.count + 1 }
  let s := s.setStream k (some y)
  if s.get (F.CCP_STR_STAT.STATE k) = 2 ∨ (x.d 0x10 4 ≠ 0 ∧ x.d 0x10 4 ≤ y.count) then s.endStream k else s

/-- STREAM_FRAME_ENTRY (R404, R405): the staged data goes to the take's end, then the entry. -/
def State.streamEntry (s : State) (k : Nat) : State :=
  match s.stream k with
  | none => s
  | some x =>
    match x.cur with
    | none => s
    | some f =>
      let t := s.take x.take
      let off := (t.length + 63) / 64 * 64
      let flags := if f.item.above ∧ f.flags = 0 then 1 + 4 else f.flags
      let needE := t.entries.length / 65536 + 1 - t.eruns.length
      let needD := if flags % 2 = 1 then 0 else (off + f.data.length + 2097151) / 2097152 - t.runs.length
      match s.moreRuns t (needE + needD) with
      | none => (s.bump F.CCP_ERR.NOSPACE).putEntry k x t f off (flags ||| 3)
      | some (l, t) =>
        let t := { t with eruns := t.eruns ++ l.take needE, runs := t.runs ++ l.drop needE }
        let d := if flags % 2 = 1 then [] else zeros (off - t.length) ++ f.data
        match s.writeTake t (d.length / 2097152 + 2) t.length d with
        | (.error _, s) => s.putEntry k x t f off (flags ||| 33)
        | (.ok _, s) =>
          match s.touchIndex with
          | (.error _, s) => s.putEntry k x t f off (flags ||| 33)
          | (.ok _, s) => s.putEntry k x t f off flags

/-! ### Enabling (R397, R398, R406, R412) -/

/-- Every stream stops at once. -/
def State.endStreams (s : State) : State := (List.range 16).foldl State.endStream s

/-- The capture store goes down: streams stop, queue pairs enter Error and the local queue's commands end. -/
def State.ccpDown (s : State) : State :=
  let s := (List.range 64).foldl (fun s q => if (s.ccpQ q).isSome then s.qpError q else s) s.endStreams
  let s := (s.endCommands 64).put F.CCP_CTL.READY 0
  { s with ccp := { s.ccp with opening := none } }

/-- A write of CCP_CTL. -/
def wrCcpCtl (src : Nat) (v : Word) (s : State) : State :=
  let was := s.on F.CCP_CTL.EN
  let s := s.plainWrite src R.CCP_CTL v
  if !was && s.on F.CCP_CTL.EN then
    { s.put F.CCP_CTL.READY 0 with ccp := { s.ccp with opening := some (s.on F.CCP_CTL.KEEP) } }
  else if was && !s.on F.CCP_CTL.EN then
    s.ccpDown
  else s

def execCcpEnableFormat (v : Word) (src : Nat) (s : State) : Host.Outcome State Fault Refusal :=
  s.running (s.guardWrite R.CCP_CTL (wrCcpCtl src ((v ||| 0x80000000) &&& 0xBFFFFFFF)))

def execCcpEnableKeep (v : Word) (src : Nat) (s : State) : Host.Outcome State Fault Refusal :=
  s.running (s.guardWrite R.CCP_CTL (wrCcpCtl src (v ||| 0xC0000000)))

def execCcpDisable (v : Word) (src : Nat) (s : State) : Host.Outcome State Fault Refusal :=
  s.running (s.guardWrite R.CCP_CTL (wrCcpCtl src (v &&& 0x7FFFFFFF)))

/-- CCP_READY: the index is formatted, or adopted where the area named holds one. -/
def State.ccpReady (s : State) : State :=
  match s.ccp.opening with
  | none => s
  | some keep =>
    let intact := s.ccp.home == some s.indexBase
    let s := if keep && !intact then s.post srcCcp 5 0 0 0 else s
    let s := if keep && intact then s else { s with ccp := { s.ccp with takes := [], dying := [] } }
    (({ s with ccp := { s.ccp with opening := none, home := some s.indexBase } }).put F.CCP_CTL.READY 1).ccpShow

def execCcpReady (s : State) : Host.Outcome State Fault Refusal := s.running s.ccpReady

/-- Registers that CCP_CTL.EN closes (R397). -/
def wrCcpClosed (src off : Nat) (v : Word) (s : State) : State :=
  if s.on F.CCP_CTL.EN then s.postIgnored src 3 off else s.plainWrite src off v

/-- The local queue closes. -/
def State.localDown (s : State) : State :=
  let s := s.endCommands 64
  { s with ccp := { s.ccp with queues := sset none s.ccp.queues 64 none } }

/-- A write of CCP_LQ_CTL: setting EN opens the local queue with both indices 0. -/
def wrCcpLqCtl (src : Nat) (v : Word) (s : State) : State :=
  if s.on F.CCP_LQ_CTL.EN then
    let s := if getBits v 3 0 ≠ s.get F.CCP_LQ_CTL.LOG2CNT then s.postIgnored src 3 R.CCP_LQ_CTL else s
    let s := (s.put F.CCP_LQ_CTL.EN (getBits v 31 31)).put F.CCP_LQ_CTL.ADMIN (getBits v 30 30)
    if s.on F.CCP_LQ_CTL.EN then
      match s.ccpQ 64 with
      | some x => s.setCcpQ 64 { x with admin := s.on F.CCP_LQ_CTL.ADMIN }
      | none => s
    else
      s.localDown
  else
    let s := s.plainWrite src R.CCP_LQ_CTL v
    if s.on F.CCP_LQ_CTL.EN then
      let n := ringSize (s.get F.CCP_LQ_CTL.LOG2CNT) 1 12
      ((s.wreg R.CCP_LQ_SQ_IDX 0).wreg R.CCP_LQ_CQ_IDX 0).setCcpQ 64 ⟨0x203, s.on F.CCP_LQ_CTL.ADMIN, s.addr R.CCP_LQ_SQ_LO R.CCP_LQ_SQ_HI, 0, n,
        s.addr R.CCP_LQ_CQ_LO R.CCP_LQ_CQ_HI, 0, n, 0, 0, 0, 0, true, 1, 0, [], []⟩
    else s

def wrCcpLqRing (src off : Nat) (v : Word) (s : State) : State := s.closedWrite (s.on F.CCP_LQ_CTL.EN) src off v

/-- The local queue's indices ring its doorbell (R412). -/
def wrCcpLqIdx (src off : Nat) (v : Word) (s : State) : State :=
  let s := s.plainWrite src off v
  match s.ccpQ 64 with
  | none => s
  | some x => s.ccpRing 64 (s.get F.CCP_LQ_SQ_IDX.WIDX % max x.sqDepth 1) (s.get F.CCP_LQ_CQ_IDX.RIDX % max x.cqDepth 1)

/-! ### Commands -/

def execCcpDoorbell (q : Fin 64) (send : List Byte) (s : State) : Host.Outcome State Fault Refusal :=
  s.running (if s.queueLive q then s.ccpDoorbell q send else s)

def execLocalQueueDoorbell (widx : Half) (src : Nat) (s : State) : Host.Outcome State Fault Refusal :=
  s.running (s.guardWrite R.CCP_LQ_SQ_IDX (wrCcpLqIdx src R.CCP_LQ_SQ_IDX (widx.setWidth 32)))

def execSubmissionFetch (q : Fin 65) (entries : List (List Byte)) (s : State) : Host.Outcome State Fault Refusal :=
  s.running (s.submissionFetch q entries)

def execCommandComplete (q : Fin 65) (cid : Half) (s : State) : Host.Outcome State Fault Refusal := s.running (s.commandComplete q cid.toNat)

def execCoalesceTimeout (q : Fin 65) (s : State) : Host.Outcome State Fault Refusal := s.running (s.flushHeld q 3)

def execCcpRead (q : Fin 65) (cid : Half) (s : State) : Host.Outcome State Fault Refusal := s.running (s.perform q cid.toNat 0x01 doRead)

def execCcpWrite (q : Fin 65) (cid : Half) (data : List Byte) (fate : Option Nat × Bool) (s : State) : Host.Outcome State Fault Refusal :=
  s.running (s.perform q cid.toNat 0x02 (doWrite data fate.1 fate.2))

def execCreateTake (q : Fin 65) (cid : Half) (s : State) : Host.Outcome State Fault Refusal := s.running (s.perform q cid.toNat 0x03 doCreate)

def execCloseTake (q : Fin 65) (cid : Half) (s : State) : Host.Outcome State Fault Refusal := s.running (s.perform q cid.toNat 0x04 doClose)

def execDeleteTake (q : Fin 65) (cid : Half) (s : State) : Host.Outcome State Fault Refusal := s.running (s.perform q cid.toNat 0x05 doDelete)

def execTakeInfo (q : Fin 65) (cid : Half) (s : State) : Host.Outcome State Fault Refusal := s.running (s.perform q cid.toNat 0x06 doInfo)

def execCcpAbort (q : Fin 65) (cid : Half) (s : State) : Host.Outcome State Fault Refusal := s.running (s.perform q cid.toNat 0x07 doAbort)

def execGetFrames (q : Fin 65) (cid : Half) (s : State) : Host.Outcome State Fault Refusal := s.running (s.perform q cid.toNat 0x08 doFrames)

def execStartStream (q : Fin 65) (cid : Half) (data : List Byte) (s : State) : Host.Outcome State Fault Refusal :=
  s.running (s.perform q cid.toNat 0x09 (doStart data))

def execStopStream (q : Fin 65) (cid : Half) (s : State) : Host.Outcome State Fault Refusal := s.running (s.perform q cid.toNat 0x0A doStop)

def execCcpMap (q : Fin 65) (cid : Half) (s : State) : Host.Outcome State Fault Refusal := s.running (s.perform q cid.toNat 0x0B doMap)

def execIdentify (q : Fin 65) (cid : Half) (s : State) : Host.Outcome State Fault Refusal := s.running (s.perform q cid.toNat 0x80 doIdentify)

def execGetLog (q : Fin 65) (cid : Half) (s : State) : Host.Outcome State Fault Refusal := s.running (s.perform q cid.toNat 0x81 doLog)

def execGetFeature (q : Fin 65) (cid : Half) (s : State) : Host.Outcome State Fault Refusal := s.running (s.perform q cid.toNat 0x82 doGetFeature)

def execSetFeature (q : Fin 65) (cid : Half) (s : State) : Host.Outcome State Fault Refusal := s.running (s.perform q cid.toNat 0x83 doSetFeature)

def execFwDownload (q : Fin 65) (cid : Half) (data : List Byte) (s : State) : Host.Outcome State Fault Refusal :=
  s.running (s.perform q cid.toNat 0x84 (doDownload data))

def execFwCommitWrite (q : Fin 65) (cid : Half) (program : Bool) (s : State) : Host.Outcome State Fault Refusal :=
  s.running (s.performCommit q cid.toNat 0 (doCommit program))

def execFwCommitTry (q : Fin 65) (cid : Half) (program : Bool) (s : State) : Host.Outcome State Fault Refusal :=
  s.running (s.performCommit q cid.toNat 1 (doCommit program))

def execFwCommitConfirm (q : Fin 65) (cid : Half) (s : State) : Host.Outcome State Fault Refusal :=
  s.running (s.performCommit q cid.toNat 2 (fun c s => s.confirm.finish c 0 0))

def execFwCommitTryReset (q : Fin 65) (cid : Half) (program : Bool) (s : State) : Host.Outcome State Fault Refusal :=
  s.running (s.performCommit q cid.toNat 3 (doCommit program))

def execCreateQp (q : Fin 65) (cid : Half) (data : List Byte) (s : State) : Host.Outcome State Fault Refusal :=
  s.running (s.perform q cid.toNat 0x88 (doCreateQp data))

def execDeleteQp (q : Fin 65) (cid : Half) (s : State) : Host.Outcome State Fault Refusal := s.running (s.perform q cid.toNat 0x89 doDeleteQp)

def execStreamFrameAppend (st : Fin 16) (s : State) : Host.Outcome State Fault Refusal := s.running (s.streamAppend st)

def execStreamFrameEntry (st : Fin 16) (s : State) : Host.Outcome State Fault Refusal := s.running (s.streamEntry st)

end Sys2Proof.Machine
end

