-- ==== Sys2Proof/Machine/Dma.lean ====
section
/-! DEFINITION. The four DMA channels (R375 to R378). -/

namespace Sys2Proof.Machine

def srcDma (c : Nat) : Nat := 0x1100 + c

def State.dmaC (s : State) (c : Nat) : DmaRun := sget default s.dma c
def State.setDma (s : State) (c : Nat) (x : DmaRun) : State := { s with dma := sset default s.dma c x }

def State.dmaReq (s : State) (c : Nat) (pinned : Bool) (lost : Option Nat) : Req :=
  ⟨srcDma c, 36 + c, s.get (F.MMU_DMA_CTL.CLIENT c), pinned, lost⟩

def State.dmaSize (s : State) (c : Nat) : Nat := ringSize (s.get (F.MMU_DMA_CTL.LOG2CNT c)) 1 12

def DmaJob.d (j : DmaJob) (off n : Nat) : Nat := field j.desc off n
def DmaJob.copy (j : DmaJob) : Bool := decide (j.d 0 1 = 0)
def DmaJob.rows (j : DmaJob) : Nat := j.d 2 2
def DmaJob.len (j : DmaJob) : Nat := j.d 4 4
def DmaJob.src (j : DmaJob) : Nat := j.d 8 8
def DmaJob.dst (j : DmaJob) : Nat := j.d 0x18 8
def DmaJob.id (j : DmaJob) : Nat := j.d 0x28 4

/-- The checks of R376; a field that Table 15.4 gives as 0 must be 0. -/
def DmaJob.ok (j : DmaJob) : Bool :=
  let srcEnd := j.src + (j.rows - 1) * j.d 0x10 4 + j.len
  let dstEnd := j.dst + (j.rows - 1) * j.d 0x14 4 + j.len
  field j.desc 0x3C 4 == crc32c (j.desc.take 0x3C) && decide (j.d 0 1 ≤ 1) && j.d 1 1 == 0 && j.d 0x2C 16 == 0 &&
    decide (1 ≤ j.rows ∧ 1 ≤ j.len ∧ j.len ≤ 2 ^ 30) &&
    (if j.copy then decide (srcEnd ≤ j.dst ∨ dstEnd ≤ j.src) else j.src == 0)

/-- A descriptor ends: counters, event, completion entry (Table 15.5). -/
def State.dmaComplete (s : State) (c : Nat) (j : DmaJob) (status : Nat) : State :=
  let x := s.dmaC c
  let s := s.setDma c { x with job := none }
  let s := match status with
    | 0 => s.bump (F.MMU_DMA_STAT.DONE c)
    | 6 => s.bump (F.MMU_DMA_STAT.ABORTED c)
    | _ => (s.bump (F.MMU_DMA_STAT.FAILED c)).post (srcDma c) 4 2 0 j.id
  let b := leBytes 4 j.id ++ leBytes 1 status ++ leBytes 1 (flagIf j.faulted 0) ++ zeros 2 ++ leBytes 4 j.bytes ++
    leBytes 4 (s.now.toNat % 2 ^ 32)
  match s.ringRecord (s.dmaReq c true (some j.id)) (s.addr (R.MMU_DMA_CQ_LO c) (R.MMU_DMA_CQ_HI c)) 16 (s.dmaSize c)
      (F.MMU_DMA_CQ_IDX.WIDX c) b with
  | (true, s) => s.setDma c { s.dmaC c with unread := x.unread + 1 }
  | (false, s) => s

/-- The channel takes its next descriptor while it has none and a completion slot is left (R295). -/
def State.dmaTake (s : State) (c : Nat) : State :=
  let n := s.dmaSize c
  let i := s.get (F.MMU_DMA_SQ_IDX.RIDX c) % n
  let x := s.dmaC c
  if !s.on (F.MMU_DMA_CTL.EN c) || x.job.isSome || i == s.get (F.MMU_DMA_SQ_IDX.WIDX c) % n || decide (n ≤ x.unread) then s else
    let s := s.put (F.MMU_DMA_SQ_IDX.RIDX c) ((i + 1) % n)
    let none : DmaJob := { (default : DmaJob) with desc := zeros 64 }
    match s.engRead (s.dmaReq c true none.id) (s.addr (R.MMU_DMA_SQ_LO c) (R.MMU_DMA_SQ_HI c) + 64 * i) 64 with
    | (.error .parity, s) => s.dmaComplete c none 2
    | (.error _, s) => s.dmaComplete c none 3
    | (.ok b, s) =>
      let j : DmaJob := { none with desc := b }
      if j.ok then s.setDma c { x with job := some j } else s.dmaComplete c j 5

/-- One burst: the bytes of the row up to the next 64-byte boundary of the destination. -/
def State.dmaBurst (s : State) (c : Nat) (j : DmaJob) : Except AccErr DmaJob × State :=
  let r := s.dmaReq c false none
  let a := j.dst + j.row * j.d 0x14 4 + j.off
  let k := min (64 - a % 64) (j.len - j.off)
  let (b, s) : Except AccErr (List Byte) × State :=
    if j.copy then s.engRead r (j.src + j.row * j.d 0x10 4 + j.off) k
    else (.ok ((List.range k).map (fun i => j.desc.getD (0x20 + (a + i) % 8) 0)), s)
  match b with
  | .error e => (.error e, s)
  | .ok b =>
    match s.engWrite r a b with
    | (.error e, s) => (.error e, s)
    | (.ok _, s) =>
      let end_ := decide (j.len ≤ j.off + k)
      (.ok { j with row := if end_ then j.row + 1 else j.row, off := if end_ then 0 else j.off + k, bytes := j.bytes + k }, s)

/-- The bursts that are left, in ascending order (R376). -/
def State.dmaBursts (s : State) (c : Nat) (j : DmaJob) : Nat → (DmaJob × Option AccErr) × State
  | 0 => ((j, none), s)
  | fuel + 1 =>
    if j.rows ≤ j.row then ((j, none), s) else
      match s.dmaBurst c j with
      | (.error e, s) => ((j, some e), s)
      | (.ok j, s) => s.dmaBursts c j fuel

/-- The descriptor in progress ends, or its channel suspends at a fault and keeps the bursts performed (R375). -/
def State.dmaEnd (s : State) (c : Nat) : State :=
  match (s.dmaC c).job with
  | none => s
  | some j =>
    if j.susp then s else
      match s.dmaBursts c j (j.rows * (j.len / 64 + 2)) with
      | ((j, none), s) => s.dmaComplete c j 0
      | ((j, some .parity), s) => s.dmaComplete c j 2
      | ((j, some (.fault va w k)), s) =>
        (s.setDma c { s.dmaC c with job := some { j with susp := true, faulted := true } }).unitFault (srcDma c) (36 + c) va w k
      | ((j, some _), s) => s.dmaComplete c j 3

/-- The suspended channel restarts at its burst (R369). -/
def State.dmaRestart (s : State) (c : Nat) : State :=
  match (s.dmaC c).job with
  | none => s
  | some j => s.setDma c { s.dmaC c with job := some { j with susp := false } }

/-- The suspended descriptor fails with TranslationError. -/
def State.dmaFailFault (s : State) (c : Nat) : State :=
  match (s.dmaC c).job with
  | none => s
  | some j => s.dmaComplete c j 3

/-! ### Registers (R378 and below Table 15.7) -/

def wrDmaCtl (c src : Nat) (v : Word) (s : State) : State :=
  let off := R.MMU_DMA_CTL c
  if s.on (F.MMU_DMA_CTL.EN c) then
    let changed := getBits v 20 16 != s.get (F.MMU_DMA_CTL.CLIENT c) || getBits v 3 0 != s.get (F.MMU_DMA_CTL.LOG2CNT c)
    let s := if changed then s.postIgnored src 3 off else s
    if v.getLsbD 31 then s else
      let s := (s.put (F.MMU_DMA_CTL.EN c) 0).withdrawFault (36 + c)
      match (s.dmaC c).job with
      | none => s
      | some j => s.dmaComplete c j 6
  else
    let s := s.plainWrite src off v
    if s.on (F.MMU_DMA_CTL.EN c) then
      ((s.wreg (R.MMU_DMA_SQ_IDX c) 0).wreg (R.MMU_DMA_CQ_IDX c) 0).setDma c ⟨none, 0⟩
    else s

def wrDmaRing (c src off : Nat) (v : Word) (s : State) : State := s.closedWrite (s.on (F.MMU_DMA_CTL.EN c)) src off v

/-- Firmware has consumed completions up to the new RIDX. -/
def wrDmaCqIdx (c src : Nat) (v : Word) (s : State) : State :=
  let n := s.dmaSize c
  let old := s.get (F.MMU_DMA_CQ_IDX.RIDX c) % n
  let s := s.plainWrite src (R.MMU_DMA_CQ_IDX c) v
  let k := (s.get (F.MMU_DMA_CQ_IDX.RIDX c) % n + n - old) % n
  s.setDma c { s.dmaC c with unread := (s.dmaC c).unread - k }

/-! ### Commands -/

def execDmaEnable (c : Fin 4) (v : Word) (src : Nat) (s : State) : Host.Outcome State Fault Refusal :=
  s.running (s.guardWrite (R.MMU_DMA_CTL c) (wrDmaCtl c src (v ||| 0x80000000)))

def execDmaDisable (c : Fin 4) (v : Word) (src : Nat) (s : State) : Host.Outcome State Fault Refusal :=
  s.running (s.guardWrite (R.MMU_DMA_CTL c) (wrDmaCtl c src (v &&& 0x7FFFFFFF)))

def execDmaSubmit (c : Fin 4) (widx : Half) (src : Nat) (s : State) : Host.Outcome State Fault Refusal :=
  s.running (s.guardWrite (R.MMU_DMA_SQ_IDX c) (fun s => s.plainWrite src (R.MMU_DMA_SQ_IDX c) (widx.setWidth 32)))

def execDmaDescriptorTake (c : Fin 4) (s : State) : Host.Outcome State Fault Refusal := s.running (s.dmaTake c)

def execDmaDescriptorDone (c : Fin 4) (s : State) : Host.Outcome State Fault Refusal := s.running (s.dmaEnd c)

end Sys2Proof.Machine
end

