-- ==== Sys2Proof/Machine/Dram.lean ====
section
/-! DEFINITION. The DRAM controller's commands (chapter 13) and the steep boundary (chapter 14). -/

namespace Sys2Proof.Machine

/-! ### Mapping (R320, Table 13.3) -/

/-- Bits 37:6. -/
def mask37_6 : Nat := 2 ^ 38 - 64

/-- The first failing check of Table 13.3, or 0. -/
def State.mapError (s : State) : Nat :=
  let homes := (List.range 8).map s.homeBit
  let own := fun i => (List.range 8).all (fun j => (s.selectMask i).testBit (s.homeBit j) == decide (i = j))
  if (List.range 8).any (fun c => s.get (F.DRC_CTRL.STATE c) != 0) then 0x03
  else if (List.range 8).any (fun i => s.selectMask i &&& mask37_6 != s.selectMask i) then 0x01
  else if !(homes.all (fun h => decide (6 ≤ h ∧ h ≤ 37)) && decide homes.Nodup && (List.range 8).all own) then 0x02
  else 0

/-- A write of DRC_MAPCTL: APPLY checks the mapping; one in force stays (R320). -/
def State.wrDrcMapctl (s : State) (v : Word) : State :=
  if v.getLsbD 31 && !s.on F.DRC_MAPCTL.APPLY then
    (s.put F.DRC_MAPCTL.ERR s.mapError).putB F.DRC_MAPCTL.APPLY (decide (s.mapError = 0))
  else s

/-- The mapping registers ignore writes once APPLY = 1 (R320). -/
def State.wrDrcMap (s : State) (src off : Nat) (v : Word) : State :=
  if s.on F.DRC_MAPCTL.APPLY then s else s.plainWrite src off v

/-! ### Waiting requests (R324, R328, R329, R340, R341) -/

/-- A subchannel that issues no request: it is in a short retrain, or its channel in a full one. -/
def State.subBusy (s : State) (x : Nat) : Bool :=
  s.dram.short == some x || s.get (F.DRC_CTRL.STATE (x / 2)) == 4

/-- Drain a subchannel's write queue: whole when no read waits, else from HI down to LO (R324, Table 13.6). -/
def State.drainRule (s : State) (x : Nat) (reads : Bool) : State :=
  let hi := s.get (F.DRC_WQ.HI (x / 2))
  let lo := s.get (F.DRC_WQ.LO (x / 2))
  let (hi, lo) := if hi ≤ lo then (48, 16) else (hi, lo)
  if s.subBusy x then s
  else if !reads then s.drainTo x 0
  else if hi ≤ (s.queueOf x).length then s.drainTo x lo else s

/-- Client `c` was served last. -/
def State.noteServed (s : State) (c : Nat) : State :=
  { s with dram := { s.dram with served := c :: s.dram.served.filter (· != c) } }

/-- A request that its subchannel takes: a read answers its requester; a write is posted into the write queue. -/
def State.dramPerform (s : State) (w : WaitReq) (reads : Bool) : State :=
  let s := s.noteServed w.client
  let x := (s.dramLoc w.addr).subIdx
  if w.write then
    let full := (List.range 64).all (fun i => w.mask.testBit i)
    let s := (s.charge w.client 0 (if full then 1 else 2)).touchRow w.addr (s.hintOf w.client)
    let s := { s with dram := { s.dram with writes := sset [] s.dram.writes x (s.queueOf x ++ [QWrite.mk w.addr w.data w.mask]) } }
    s.drainRule x reads
  else
    match s.dramRead w.client w.addr with
    | (some b, s) => s.emit "dram data" w.client (w.addr :: b.map BitVec.toNat)
    | (none, s) => s.emit "dram parity error" w.client [w.addr]

/-- Whether a waiting request can be admitted now: its subchannel issues, or it is a write for which the queue has
room; its client is not held by R341. -/
def State.admissible (s : State) (w : WaitReq) : Bool :=
  let x := (s.dramLoc w.addr).subIdx
  decide (s.tier w.client 0 ≠ 0) && (!s.subBusy x || (w.write && decide ((s.queueOf x).length < 64)))

/-- The requests that may go next: those with no earlier waiting request to their block (R324, R343). -/
def State.candidates (s : State) (before : List Nat) : List WaitReq → List WaitReq
  | [] => []
  | w :: r =>
    if s.admissible w && !before.contains w.addr then w :: s.candidates (w.addr :: before) r
    else s.candidates (w.addr :: before) r

/-- The order of R340 within one cycle: tier, then the client served least recently, then the lower number. -/
def State.servedRank (s : State) (w : WaitReq) : Nat × Nat × Nat :=
  (s.tier w.client 0, 64 - (s.dram.served.findIdx (· == w.client)), w.client)

def rankLe (a b : Nat × Nat × Nat) : Bool :=
  decide (a.1 < b.1) || (a.1 == b.1 && (decide (a.2.1 < b.2.1) || (a.2.1 == b.2.1 && decide (a.2.2 ≤ b.2.2))))

/-- Admit waiting requests one after another until none can be. -/
def State.serveWaiting (s : State) : Nat → State
  | 0 => s
  | fuel + 1 =>
    match isort (fun a b => rankLe (s.servedRank a) (s.servedRank b)) (s.candidates [] s.steepWait) with
    | [] => s
    | w :: _ =>
      let s := { s with steepWait := s.steepWait.erase w }
      let more := s.steepWait.any (fun v => !v.write && (s.dramLoc v.addr).subIdx == (s.dramLoc w.addr).subIdx)
      (s.dramPerform w more).serveWaiting fuel

def State.serveAll (s : State) : State := s.serveWaiting s.steepWait.length

/-- A request reaches the DRAM point. -/
def State.dramSubmit (s : State) (w : WaitReq) (reads : Bool) : State :=
  if !s.dramReady w.addr then
    (s.dramFail w.addr).when (!w.write) (·.emit "dram parity error" w.client [w.addr])
  else
    let s := s.exitSelfRefresh (s.dramLoc w.addr).ch
    let held := decide (s.tier w.client 0 = 0)
    if s.admissible w && !(s.steepWait.any (fun v => v.addr == w.addr)) then s.dramPerform w reads
    else
      let x := s.client w.client
      { s.setClient w.client { x with held := x.held || held } with steepWait := s.steepWait ++ [w] }

/-! ### Bring-up and retraining (R325 to R330, R553) -/

/-- A short retrain comes due: now or in its turn when the channel is in service; after a self-refresh or a full retrain
otherwise (R328, R332). -/
def State.dueShort (s : State) (x : Nat) : State :=
  match s.get (F.DRC_CTRL.STATE (x / 2)) with
  | 2 => s.startShort x
  | 3 | 4 => { s with dram := { s.dram with shortDue := s.dram.shortDue ++ [x] } }
  | _ => s

/-- Subchannel A, then B. -/
def State.dueBoth (s : State) (ch : Nat) : State := (s.dueShort (2 * ch)).dueShort (2 * ch + 1)

/-- A write of INIT = 1 (R326, R327). The event of one that is not acted on has the channel as its source (R553). -/
def State.drcInit (s : State) (ch : Nat) (resume : Bool) : State :=
  let st := s.get (F.DRC_CTRL.STATE ch)
  if s.on F.DRC_MAPCTL.APPLY && (st == 0 || st == 5) then
    s.andThen [(·.demand 88), (·.demand (72 + 2 * ch)), (·.demand (73 + 2 * ch)), (·.put (F.DRC_CTRL.STATE ch) 1),
      (·.put (F.DRC_CTRL.TRAIN_ERR ch) 0),
      fun s => { s with dram := { s.dram with resume := sset false s.dram.resume ch resume } }]
  else s.postIgnored (drcSrc ch) 3 (R.DRC_CTRL ch)

/-- A write of RETRAIN = 1 (R329). -/
def State.drcRetrain (s : State) (ch : Nat) (full : Bool) : State :=
  if s.get (F.DRC_CTRL.STATE ch) ≠ 2 then s
  else if full then (s.put (F.DRC_CTRL.STATE ch) 4).put (F.DRC_CTRL.TRAIN_ERR ch) 0
  else s.dueBoth ch

/-- A write of DRC_CTRL. -/
def State.wrDrcCtrl (s : State) (ch : Nat) (v : Word) : State :=
  if v.getLsbD 31 then s.drcInit ch (v.getLsbD 30)
  else if v.getLsbD 29 then s.drcRetrain ch (v.getLsbD 28)
  else s

/-- The DRAM bytes of a channel that memory lists. -/
def State.channelBytes (s : State) (ch : Nat) : List Nat :=
  (s.mem.map Prod.fst).filter (fun a => region a == .dram && (s.dramLoc a).ch == ch)

/-- Every listed byte of a channel takes a free value: R326's training does not preserve contents (log 3). The capture store's index,
spread over every channel, is lost with them. -/
def State.loseChannel (s : State) (ch : Nat) : State :=
  let t := (s.channelBytes ch).foldl (fun s a => match s.takeFreeBytes 1 with
    | (b, s) => s.setByte a (b.headD 0)) s
  { t with ccp := { t.ccp with home := none } }

/-- Retrains that fell due meanwhile run. -/
def State.runDue (s : State) (ch : Nat) : State :=
  let due := s.dram.shortDue.filter (fun x => x / 2 == ch)
  let s := { s with dram := { s.dram with shortDue := s.dram.shortDue.filter (fun x => x / 2 != ch) } }
  due.foldl State.startShort s

/-- Subchannel `x` takes the presets of its channel's band: at a short retrain and at training (R328, R330, R334). -/
def State.applyPresets (s : State) (x : Nat) : State :=
  { s with dram := { s.dram with presets := sset 0 s.dram.presets x (s.reg (R.DRC_BAND (s.get (F.DRC_CTRL.BAND (x / 2))))) } }

/-- A step of training failed (R326, R329): STATE = 5 and the step's number. -/
def State.trainFail (s : State) (ch err : Nat) (sev : Fin 8) : State :=
  ((s.put (F.DRC_CTRL.STATE ch) 5).put (F.DRC_CTRL.TRAIN_ERR ch) err).post (drcSrc ch) sev 0 err 0

/-- Requests that waited for a channel now out of service fail (R321). -/
def State.failWaiting (s : State) (ch : Nat) : State :=
  let l := s.steepWait.filter (fun w => (s.dramLoc w.addr).ch == ch)
  let s := { s with steepWait := s.steepWait.filter (fun w => (s.dramLoc w.addr).ch != ch) }
  l.foldl (fun s w => (s.dramFail w.addr).when (!w.write) (·.emit "dram parity error" w.client [w.addr])) s

/-- Training of a channel ends (Table 13.4): `err` 0, or the step that failed. It needs the domains and MCLK. -/
def State.trainDone (s : State) (ch err : Nat) : State :=
  let st := s.get (F.DRC_CTRL.STATE ch)
  if st = 4 then
    let s := s.bump (F.DRC_RTRN.FULL ch)
    if err ≠ 0 then (s.trainFail ch err 6).failWaiting ch
    else ((((s.put (F.DRC_CTRL.STATE ch) 2).applyPresets (2 * ch)).applyPresets (2 * ch + 1)).runDue ch).serveAll
  else if st = 1 ∧ s.domOn 88 ∧ s.domOn (72 + 2 * ch) ∧ s.domOn (73 + 2 * ch) ∧ s.bit F.PWR_PLL.LOCK 1 then
    let resume := sget false s.dram.resume ch
    let kept := sget false s.dram.selfRef ch
    let s := { s with dram := { s.dram with resume := sset false s.dram.resume ch false } }
    if resume && !kept then s.trainFail ch 8 5
    else
      let s := { s with dram := { s.dram with selfRef := sset false s.dram.selfRef ch false } }
      let s := if resume then s else s.loseChannel ch
      if err ≠ 0 then s.trainFail ch err 5 else ((s.put (F.DRC_CTRL.STATE ch) 2).applyPresets (2 * ch)).applyPresets (2 * ch + 1)
  else s

/-- A short retrain ends and the next waiting one starts (R328); one of a channel not in service is due later. -/
def State.nextShort (s : State) : List Nat → State
  | [] => { s with dram := { s.dram with short := none, shortWait := [] } }
  | x :: r =>
    if s.get (F.DRC_CTRL.STATE (x / 2)) = 2 then { s with dram := { s.dram with short := some x, shortWait := r } }
    else ({ s with dram := { s.dram with shortDue := s.dram.shortDue ++ [x] } }).nextShort r

def State.shortDone (s : State) : State :=
  match s.dram.short with
  | none => s
  | some x => (((s.bump (F.DRC_RTRN.SHORT (x / 2))).applyPresets x).nextShort s.dram.shortWait).serveAll

/-! ### Bands (R330, R489) -/

/-- Lower limit of band k in units of 0.125 °C. -/
def bandLimit : Nat → Int
  | 0 => -4096
  | 1 => 560
  | 2 => 680
  | 3 => 760
  | _ => 840

/-- The highest of bands 0 to `k` whose limit less `h` the temperature reaches. -/
def bandAt (t h : Int) : Nat → Nat
  | 0 => 0
  | k + 1 => if bandLimit (k + 1) - h ≤ t then k + 1 else bandAt t h k

/-- The band after a reading: a rise when a higher limit is reached, else a fall below a limit less 3 °C (R489). -/
def nextBand (cur : Nat) (t : Int) : Nat :=
  if cur < bandAt t 0 4 then bandAt t 0 4 else bandAt t 24 cur

/-- The band of a channel: the higher of the device band and that of its DRAM devices. A change starts short retrains. -/
def State.rebandChannel (s : State) (ch : Nat) : State :=
  let own := (List.range 12).foldl (fun b i => max b (sget 0 s.dram.devBands (12 * ch + i))) 0
  let band := max (s.get F.THM_STAT.BAND) own
  if band = s.get (F.DRC_CTRL.BAND ch) then s else (s.put (F.DRC_CTRL.BAND ch) band).dueBoth ch

/-- The band of DRAM device `k` after a reading; one that does not answer classes as T4. -/
def State.readDevice (s : State) (k : Nat) (t : Option Int) : State :=
  let b := match t with
    | none => 4
    | some t => nextBand (sget 0 s.dram.devBands k) t
  { s with dram := { s.dram with devBands := sset 0 s.dram.devBands k b } }

def State.readDevices (s : State) (k : Nat) : List (Option Int) → State
  | [] => s
  | t :: r => (s.readDevice k t).readDevices (k + 1) r

/-! ### Refresh and rows (R322, R331, R332) -/

/-- Close the rows of the banks [lo, hi). -/
def State.closeRows (s : State) (lo hi : Nat) : State := { s with dram := { s.dram with rows := sclear s.dram.rows lo hi } }

/-- A refresh of rank `k` (subchannel × 2 + rank) closes its rows; with it go those postponed, and the refresh interval of the band
comes into force (R330, R334). Code 3 acts as 2. -/
def State.refreshRank (s : State) (k : Nat) : State :=
  let ref := min (s.get (F.DRC_BAND.REF (s.get (F.DRC_CTRL.BAND (k / 4))))) 2
  ({ s with dram := { s.dram with postponed := sset 0 s.dram.postponed k 0, refreshes := sset 0 s.dram.refreshes k ref } }).closeRows
    (16 * k) (16 * k + 16)

/-- A channel in service issues every postponed refresh and enters self-refresh (R332). -/
def State.selfRefresh (s : State) (ch : Nat) : State :=
  s.andThen [(·.drainTo (2 * ch) 0), (·.drainTo (2 * ch + 1) 0), (·.refreshRank (4 * ch)), (·.refreshRank (4 * ch + 1)),
    (·.refreshRank (4 * ch + 2)), (·.refreshRank (4 * ch + 3)), (·.put (F.DRC_CTRL.STATE ch) 3)]

/-! ### The steep boundary (R336, R347, R348, R349) -/

/-- Units of earlier accesses that the new steep admits at point `p`. -/
def State.lateTaken (s : State) (c p : Nat) : Nat := min (atPoint (s.client c).late p) (s.get (F.STP_CL_CFG.BURSTS c))

/-- Client `c` at the end of a steep; `whole` unless a load shortened it. -/
def State.closeClient (s : State) (whole : Bool) (c : Nat) : State :=
  let x := s.client c
  let cls := s.get (F.STP_CL_CFG.CLASS c)
  let short := whole && decide (cls < 2) && s.bit (F.STP_CL_CFG.ENFORCE c) 0 &&
    decide (x.charged < s.get (F.STP_CL_CFG.BURSTS c)) && s.steepWait.any (fun w => w.client == c)
  let above := (decide (cls = 0) && x.held) || (decide (cls = 1) && x.borrowed)
  let s := s.andThen [(·.put (F.STP_CL_LAST.BURSTS c) (min x.charged (2 ^ 18 - 1))),
    (fun s => s.put (F.STP_CL_PEAK.BURSTS c) (max (s.get (F.STP_CL_PEAK.BURSTS c)) (min x.charged (2 ^ 18 - 1)))),
    (·.when above (·.bump (F.STP_CL_STAT.OVER c))), (·.when short (·.bump (F.STP_CL_STAT.SHORT c))),
    fun s => s.when (short && !x.reported) (·.post 0x0F00 3 8 c (s.get (F.STP_CL_STAT.SHORT c)))]
  s.setClient c { x with reported := x.reported || short }

/-- Client `c` at the start of a steep: its allowance is BURSTS at every point, less what waited for it (R341). -/
def State.openClient (s : State) (c : Nat) : State :=
  let x := s.client c
  let b := s.get (F.STP_CL_CFG.BURSTS c)
  let t := fun p => s.lateTaken c p
  s.setClient c { x with
    charged := t 0, left := (b - t 0, b - t 1, b - t 2),
    late := (x.late.1 - t 0, x.late.2.1 - t 1, x.late.2.2 - t 2),
    held := decide (x.late ≠ (t 0, t 1, t 2)), borrowed := false }

/-- The steep in progress ends and its counters are taken. -/
def State.steepEnd (s : State) (whole : Bool) : State :=
  let s := (List.range 32).foldl (fun s c => s.closeClient whole c) s
  let s := (s.put F.STP_POOL.BORROWED (min s.steepPool (2 ^ 18 - 1))).incr F.STP_COUNT.STEEPS
  { s with steepPool := 0 }

/-- A new steep begins: allowances are refilled and waiting requests admitted. -/
def State.steepBegin (s : State) : State := ((List.range 32).foldl State.openClient s).serveAll

/-! ### Commands -/

def execDrcMapApply (v : Word) (s : State) : Host.Outcome State Fault Refusal :=
  s.running (s.guardWrite (R.DRC_MAPCTL) (·.wrDrcMapctl v))

def execDrcInit (ch : Fin 8) (s : State) : Host.Outcome State Fault Refusal := s.running (s.drcInit ch false)

def execDrcInitResume (ch : Fin 8) (s : State) : Host.Outcome State Fault Refusal := s.running (s.drcInit ch true)

def execDrcRetrainShort (ch : Fin 8) (s : State) : Host.Outcome State Fault Refusal := s.running (s.drcRetrain ch false)

def execDrcRetrainFull (ch : Fin 8) (s : State) : Host.Outcome State Fault Refusal := s.running (s.drcRetrain ch true)

def execDrcTrainDone (ch err : Fin 8) (s : State) : Host.Outcome State Fault Refusal := s.running (s.trainDone ch err)

def execShortRetrainDue (x : Fin 16) (s : State) : Host.Outcome State Fault Refusal := s.running (s.dueShort x)

def execShortRetrainDone (s : State) : Host.Outcome State Fault Refusal := s.running s.shortDone

/-- DRAM_REQUEST: one request for the 64-byte block that holds `addr`; `reads` says that reads of other blocks wait for
the subchannel. -/
def execDramRequest (client : Fin 32) (addr : Nat) (write : Bool) (data : List Byte) (mask : BitVec 64) (reads : Bool)
    (s : State) : Host.Outcome State Fault Refusal :=
  s.running (s.dramSubmit ⟨client, addr % 2 ^ 38 / 64 * 64, write, data, mask.toNat⟩ reads)

def execAlertNAssert (ch : Fin 8) (s : State) : Host.Outcome State Fault Refusal :=
  s.running (((s.bump (F.DRC_ERR.ALERTS ch)).post (drcSrc ch) 4 0 0 0).dueBoth ch)

/-- DRAM_TEMP_READ: the readings of the channel's twelve devices in units of 0.125 °C, subchannel A's ranks first. -/
def execDramTempRead (ch : Fin 8) (temps : List (Option Int)) (s : State) : Host.Outcome State Fault Refusal :=
  s.running ((s.readDevices (12 * ch) (temps.take 12)).rebandChannel ch)

/-- A request waits at subchannel `x`. -/
def State.subWaits (s : State) (x : Nat) : Bool := !(s.queueOf x).isEmpty || s.steepWait.any (fun w => (s.dramLoc w.addr).subIdx == x)

/-- REFRESH_DUE of rank (channel × 4 + subchannel × 2 + rank); `postpone` where the controller puts it off while requests
wait, at most four times. -/
def execRefreshDue (rank : Fin 32) (postpone : Bool) (s : State) : Host.Outcome State Fault Refusal :=
  let st := s.get (F.DRC_CTRL.STATE (rank / 4))
  let n := sget 0 s.dram.postponed rank.val
  s.running (if st ≠ 2 ∧ st ≠ 4 then s
    else if postpone && decide (n < 4) && s.subWaits (rank / 2) then { s with dram := { s.dram with postponed := sset 0 s.dram.postponed rank.val (n + 1) } }
    else s.refreshRank rank)

def execPageAutoTimeout (bank : Fin 512) (s : State) : Host.Outcome State Fault Refusal :=
  s.running (match sget none s.dram.rows bank.val with
    | some (_, 0) => s.closeRows bank (bank + 1)
    | _ => s)

/-- SELF_REFRESH_ENTRY (R332): every postponed refresh is issued and STATE = 3, unless a request is at the channel. -/
def execSelfRefreshEntry (ch : Fin 8) (s : State) : Host.Outcome State Fault Refusal :=
  let busy := s.steepWait.any (fun w => (s.dramLoc w.addr).ch == ch.val) ||
    (s.dram.short :: s.dram.shortWait.map some).any (fun x => x == some (2 * ch.val) || x == some (2 * ch.val + 1))
  s.running (if s.get (F.DRC_CTRL.STATE ch) = 2 ∧ s.on (F.DRC_SR.EN ch) ∧ s.get (F.DRC_SR.IDLE_US ch) ≠ 0 ∧ !busy then
s.selfRefresh ch else s)

/-- STEEP_BOUNDARY, counted on MCLK while the STP block is powered. -/
def execSteepBoundary (s : State) : Host.Outcome State Fault Refusal :=
  s.running (if s.domOn 140 then (s.steepEnd true).steepBegin else s)

end Sys2Proof.Machine
end

