-- ==== Sys2Proof/Machine/Recorder.lean ====
section
/-! DEFINITION. The event recorder (R512 to R520): placing of records and summaries, the mirror, clearing, and events of
firmware; with it the request of a freeze (R521), which the placing of a record can make. -/

namespace Sys2Proof.Machine

/-! ### Freeze requests (R521, R526) -/

/-- A freeze is requested: 1 FREEZE_N, 2 DBG_CTL, 3 JTAG, 4 an event record. Only the first request counts; in Hibernate, and
while the device is unpowered, none does. -/
def State.requestFreeze (s : State) (src : Nat) : State :=
  if !s.power.cosy || s.power.mode = .hibernate || s.get F.DBG_STAT.SRC ≠ 0 then s else s.put F.DBG_STAT.SRC src

/-! ### Placing (R515, R516) -/

/-- The number of slots of the ring. -/
def ringSlots : Nat := 65536

/-- The lowest-numbered empty slot at or above `k`, of slots in ascending order. -/
def emptyFrom (k : Nat) : List Nat → Nat
  | [] => k
  | x :: r => if x = k then emptyFrom (k + 1) r else k

/-- The slot of the oldest record that satisfies `p`. -/
def oldestSlot (p : EvRecord → Bool) : Sparse (Option EvRecord) → Option (Nat × EvRecord)
  | [] => none
  | (k, some e) :: r =>
    match oldestSlot p r with
    | none => if p e then some (k, e) else none
    | some (k', e') => if p e && decide (e.seq.toNat < e'.seq.toNat) then some (k, e) else some (k', e')
  | (_, none) :: r => oldestSlot p r

/-- The slot a newcomer of severity `sev` takes, and whether it overwrites a record. -/
def Recorder.slotFor (r : Recorder) (sev : Fin 8) : Option (Nat × Bool) :=
  let k := emptyFrom 0 (r.ring.map (·.1))
  if k < ringSlots then some (k, false) else
    match oldestSlot (fun e => decide (e.sev < sev)) r.ring with
    | some (k, _) => some (k, true)
    | none =>
      if sev = 7 then none else
        match oldestSlot (fun e => decide (e.sev = sev)) r.ring with
        | some (k, _) => some (k, true)
        | none => none

/-- The mirror copy of a record (R519). Its loss is counted. -/
def State.mirror (s : State) (e : EvRecord) : State :=
  if s.on F.EVT_CFG.MIRROR_EN && !s.freezing then
    let r : Req := ⟨0x1800, 42, 31, true, none⟩
    match s.ringRecord r (s.addr R.EVT_MIRROR_LO R.EVT_MIRROR_HI) 32 (ringSize (s.get F.EVT_MIRROR_CTL.LOG2CNT) 4 16) F.EVT_MIRROR_CTL.WIDX e.bytes with
    | (true, s) => s
    | (false, s) => s.bump F.EVT_LOSS.MIRROR
  else s

/-- A record is placed, or counted as lost (R515); one at IRQ_SEV interrupts, one at AUTO_SEV freezes. -/
def State.place (s : State) (e : Event) (summary : Bool) : State :=
  match s.evt.slotFor e.sev with
  | none => s.bump (if e.sev = 7 then F.EVT_LOSS.SEV7_LOST else F.EVT_LOSS.DISCARDED)
  | some (k, above) =>
    let x : EvRecord := ⟨s.evt.nextSeq, e.src, e.code, e.sev, summary, e.time, e.data⟩
    let s := { s with evt := { s.evt with ring := sset none s.evt.ring k (some x), nextSeq := s.evt.nextSeq + 1 } }
    s.andThen [(·.when above (·.incr F.EVT_OVER.COUNT)), (·.mirror x),
      (fun s => s.when (decide (s.get F.EVT_CFG.IRQ_SEV ≤ e.sev.val)) (·.irq 0)),
      (fun s => s.when (s.on F.DBG_CTL.AUTO_EN && decide (s.get F.DBG_CTL.AUTO_SEV ≤ e.sev.val)) (·.requestFreeze 4))]

/-- The recorder takes the oldest intake entry (R514). -/
def State.placeNext (s : State) : State :=
  match s.evt.intake with
  | [] => s
  | e :: r => { s with evt := { s.evt with intake := r } }.place e false

/-- With the intake empty, the summary of the oldest suppressed pair (R514). -/
def State.placeSummary (s : State) : State :=
  match s.evt.intake, s.evt.supp with
  | [], x :: r =>
    { s with evt := { s.evt with supp := r } }.place
      ⟨x.src, BitVec.ofNat 16 (0xF000 + x.code.toNat / 4096), x.sev, x.time, BitVec.ofNat 64 x.count⟩ true
  | _, _ => s

/-- Whether the recorder runs: it lies in the cosy domain. -/
def execEventPlace (s : State) : Host.Outcome State Fault Refusal := .next (if s.power.cosy then s.placeNext else s)

def execSummaryPlace (s : State) : Host.Outcome State Fault Refusal := .next (if s.power.cosy then s.placeSummary else s)

/-! ### Clearing (R518) -/

/-- The highest SEQ placed; 0 before any record. -/
def State.lastSeq (s : State) : BitVec 48 := if s.evt.nextSeq = 0 then 0 else s.evt.nextSeq - 1

def wrEvtClear (v : Word) (s : State) : State :=
  if getBits v 31 16 ≠ 0x5AFE ∨ s.on F.EVT_CLEAR.BUSY then s else
    let s := { s with evt := { s.evt with clearing := some (getBits v 2 0, s.lastSeq) } }
    (s.when (decide (getBits v 2 0 = 7)) (·.wreg R.EVT_LOSS 0)).put F.EVT_CLEAR.BUSY 1

def execEvtClear (v : Word) (s : State) : Host.Outcome State Fault Refusal := s.running (s.guardWrite R.EVT_CLEAR (wrEvtClear v))

/-- The slots that a clear empties. -/
def clears (sev : Nat) (last : BitVec 48) : Option EvRecord → Bool
  | some e => decide (e.sev.val ≤ sev ∧ e.seq.toNat ≤ last.toNat)
  | none => true

def execEvtClearDone (s : State) : Host.Outcome State Fault Refusal :=
  .next (match s.evt.clearing with
    | none => s
    | some (sev, last) =>
      ({ s with evt := { s.evt with clearing := none, ring := s.evt.ring.filter (fun x => !clears sev last x.2) } } : State).put F.EVT_CLEAR.BUSY 0)

/-- A read of EVT_LAST_LO latches EVT_LAST_HI (R516). -/
def rdEvtLastLo (s : State) : Word × State :=
  (BitVec.ofNat 32 s.lastSeq.toNat, s.put F.EVT_LAST_HI.SEQ (s.lastSeq.toNat / 2 ^ 32))

def execEvtLastLoRead (s : State) : Host.Outcome State Fault Refusal := s.running (State.answer (s.guardRead R.EVT_LAST_LO rdEvtLastLo))

/-! ### Events of firmware (R520) -/

/-- The DATA registers belong to the core that writes them. -/
def State.postData (s : State) (src : Nat) : BitVec 64 := sget 0 s.evt.postData src

def wrEvtPostData (src : Nat) (hi : Bool) (v : Word) (s : State) : State :=
  let d := s.postData src
  let d : BitVec 64 := if hi then v ++ d.setWidth 32 else (d.extractLsb' 32 32) ++ v
  { s with evt := { s.evt with postData := sset 0 s.evt.postData src d } }

def rdEvtPostData (src : Nat) (hi : Bool) (s : State) : Word := if hi then (s.postData src).extractLsb' 32 32 else (s.postData src).setWidth 32

/-- A write of EVT_POST; one whose category is 0xF is ignored. -/
def wrEvtPost (src : Nat) (v : Word) (s : State) : State :=
  if getBits v 15 12 = 0xF then s else s.post src (Fin.ofNat 8 (getBits v 18 16)) (getBits v 15 12) (getBits v 11 0) (s.postData src).toNat

def execEvtPost (v : Word) (src : Nat) (s : State) : Host.Outcome State Fault Refusal := s.running (s.guardWrite R.EVT_POST (wrEvtPost src v))

end Sys2Proof.Machine
end

