-- ==== Sys2Proof/Machine/Power.lean ====
section
/-! DEFINITION. Power (chapter 20): input and rails, power-up and power-down, the kettle's service, idle domains, the power
states and their wake, residency counters. -/

namespace Sys2Proof.Machine

def srcPwr : Nat := 0x1600

/-! ### The kettle (R475, R476) -/

/-- The domains that are Starting. -/
def State.starting (s : State) : List Nat := (List.range 148).filter (fun d => s.dom d == 1)

/-- The first demand is served: its segment first, then its PLL, then its switch. -/
def State.serveOne (s : State) : State :=
  match s.power.demands with
  | [] => s
  | d :: r =>
    let g := segmentOf d
    if s.dom d = 2 ∨ s.dom d = 1 then { s with power := { s.power with demands := r } }
    else if s.dom g = 2 ∨ g = d then
      let s := (pllOf d).foldl State.startPll s
      ({ s with power := { s.power with demands := r } }).put (F.PWR_DOM.STATE d) 1
    else if s.dom g = 1 then s
    else s.put (F.PWR_DOM.STATE g) 1

/-- Demands are served in order while at most eight switches ramp. -/
def State.serve (s : State) : Nat → State
  | 0 => s
  | n + 1 => if 8 ≤ s.starting.length then s else s.serveOne.serve n

/-- The views of PWR_KETTLE. -/
def kettleView (s : State) : Word :=
  setBits (setBits (s.reg R.PWR_KETTLE) 31 31 (if s.starting.isEmpty then 0 else 1)) 23 16 s.power.demands.length

/-- KETTLE_DEMAND (R475). -/
def execKettleDemand (d : Fin 148) (s : State) : Host.Outcome State Fault Refusal := s.running ((s.demand d).serve 16)

/-- A write of PWR_DOMn: HOLD = 1 is a demand (R474); it has no effect at POLICY 0. -/
def wrPwrDom (d src : Nat) (v : Word) (s : State) : State :=
  let s := s.plainWrite src (R.PWR_DOM d) v
  if s.on (F.PWR_DOM.HOLD d) then (s.demand d).serve 16 else s

/-- DOMAIN_HOLD: HOLD written 1. -/
def execDomainHold (d : Fin 148) (s : State) : Host.Outcome State Fault Refusal :=
  s.running (s.guardWrite (R.PWR_DOM d) (wrPwrDom d 0x1A00 0x08000000))

/-- A Starting domain has its clock; cores can run on the fast internal oscillator (R482), the rest waits for its PLL. -/
def State.clocked (s : State) (d : Nat) : Bool :=
  (pllOf d).all (fun k => k == 2 || s.bit F.PWR_PLL.LOCK k)

def execDomainOn (d : Fin 148) (s : State) : Host.Outcome State Fault Refusal :=
  s.running (if s.dom d = 1 ∧ s.clocked d then (s.domainOn d).serve 16 else s)

/-- PLL_LOCK: 0 to 7 as in PWR_PLL, 8 + q the PLL of quad q (R29, R73). The audio PLL shows its lock in
a register of its own as well; LNK_REFSTAT and SDI_GLK_STAT read theirs from PWR_PLL. -/
def execPllLock (k : Fin 32) (s : State) : Host.Outcome State Fault Refusal :=
  s.running (if k.val < 8 then
      if s.bit F.PWR_PLL.ON k then
        (s.setBit F.PWR_PLL.LOCK k true).andThen [(·.when (k.val == 7 && s.on F.AUD_PLL_CFG.EN) (·.put F.AUD_PLL_CFG.LOCKED 1))]
      else s
    else s.quadLock (k.val - 8))

/-! ### Idle domains (R473) -/

def State.anyOn (s : State) (l : List Fld) : Bool := l.any s.on

/-- A block enable that is set in a domain's registers. -/
def State.enabledIn (s : State) (d : Nat) : Bool :=
  if d < 4 then s.anyOn [F.ING_CFG.ENABLE d 0, F.ING_CFG.ENABLE d 1]
  else if 30 ≤ d ∧ d < 34 then s.anyOn [F.SYN_XGW.EN (d - 30) 0, F.SYN_XGW.EN (d - 30) 1]
  else if d = 34 ∨ d = 35 then s.anyOn [F.PAT_CFG.RUN (d - 34) 0, F.PAT_CFG.RUN (d - 34) 1]
  else if 105 ≤ d ∧ d < 113 then s.on F.VCE_CFG.EN
  else if 113 ≤ d ∧ d < 119 then s.on F.CMP_CFG.EN
  else if d = 124 ∨ d = 125 then s.on (F.ETH_CFG.EN (d - 124))
  else if d = 126 then s.anyOn [F.CCP_CTL.EN, F.CCP_LQ_CTL.EN]
  else if 127 ≤ d ∧ d < 131 then s.anyOn ((List.range 4).map (fun i => F.SDI_OUT_CFG.EN (4 * (d - 127) + i)))
  else if d = 131 ∨ d = 132 then s.anyOn ((List.range 4).map (fun i => F.SDI_IN_CFG.EN (4 * (d - 131) + i)))
  else if d = 133 ∨ d = 134 then s.anyOn ((List.range 4).map (fun i => F.AUD_P_CFG.EN (4 * (d - 133) + i)))
  else if d = 135 ∨ d = 136 then s.anyOn ((List.range 2).map (fun i => F.SCP_CFG.ENABLE (2 * (d - 135) + i)))
  else if d = 137 ∨ d = 138 then s.anyOn [F.SLK_RXCFG.ENABLE (d - 137), F.SLK_TXCFG.ENABLE (d - 137)]
  else if d = 140 then s.anyOn (F.MMU_CTL.EN :: (List.range 4).map F.MMU_DMA_CTL.EN)
  else if d = 143 then s.anyOn ((List.range 4).map F.SDI_TG_CFG.EN)
  else if d = 144 then s.on F.AUD_PLL_CFG.EN
  else if d = 145 then s.anyOn (F.TIM_CTL.PPS_EN :: F.TIM_PTP.RX_EN :: F.TIM_PTP.TC_EN :: (List.range 16).map F.TIM_TRG_CFG.ARM)
  else if d = 139 then s.on F.CPU_WDOG.EN
  else false

/-- A codec unit has a picture. -/
def State.vceBusy (s : State) (u : Nat) : Bool :=
  s.vce.any (fun c => match c.2.pic with
    | some r => r.started && (r.entUnit == u || (decide (24 ≤ u) && r.pix.testBit (u - 24)))
    | none => false)

/-- Work, data in flight or a pending access in a domain's blocks. -/
def State.workIn (s : State) (d : Nat) : Bool :=
  if d < 48 then
    !(s.root d).frames.isEmpty || !(sget [] s.sta d).isEmpty || !(sget ⟨[], [], []⟩ s.ana d).pend.isEmpty ||
      !(sget ⟨0, 0, [], none, 0⟩ s.opk d).pend.isEmpty ||
      (match s.brewOf d with
        | some b => !(s.brew b).flow.isEmpty
        | none => false)
  else if d < 72 then (List.range 4).any (fun i => s.laneState (4 * (d - 48) + i) != 0)
  else if d < 88 then !(s.queueOf (d - 72)).isEmpty || [1, 2, 4].contains (s.get (F.DRC_CTRL.STATE ((d - 72) / 2)))
  else if d = 88 then (List.range 16).any (fun k => s.domOn (72 + k))
  else if d < 105 then s.caddy.held.any (fun e => caddyBank (0x4000000000 + 4096 * e.1) == d - 89)
  else if d < 113 then s.vceBusy (22 + (d - 105))
  else if d < 119 then (s.cmpRunning (d - 113)).isSome || (s.cmpHeld (d - 113)).isSome
  else if d < 123 then s.get (F.CPU_CORE_CTL.STATE (d - 119)) != 0
  else if d = 123 then (List.range 4).any (fun c => s.get (F.CPU_CORE_CTL.STATE c) != 0)
  else if d = 126 then !s.ccp.cmds.isEmpty
  else if 139 ≤ d ∧ d ≤ 142 then (d == 141 && s.on F.FAB_LOAD_STAT.BUSY) || (List.range 148).any (fun e => e != d && segmentOf e == d && (s.dom e == 1 || s.dom e == 2))
  else if d = 147 then s.freezing
  else false

/-- An On domain becomes Retained; the PLL that it leaves without a domain stops (R473, R476). -/
def State.retain (s : State) (d : Nat) : State :=
  if s.dom d = 2 then
    let s := (s.put (F.PWR_DOM.STATE d) 3).stopIdlePll d
    if 48 ≤ d ∧ d < 72 then { s with quadPll := if s.quadPll.testBit (d - 48) then s.quadPll - 2 ^ (d - 48) else s.quadPll } else s
  else s

/-- DOMAIN_IDLE_TIMEOUT; a demand that is waiting counts as first (R476). -/
def execDomainIdleTimeout (d : Fin 148) (s : State) : Host.Outcome State Fault Refusal :=
  s.running (if s.dom d = 2 ∧ s.get (F.PWR_DOM.POLICY d) = 1 ∧ !s.on (F.PWR_DOM.HOLD d) ∧ !s.enabledIn d ∧ !s.workIn d ∧
        !s.power.demands.contains d.val then s.retain d else s)

/-! ### Rails (R467 to R469, R471) -/

/-- The memory outputs go off: every channel returns to STATE 0 and DRAM contents are lost. -/
def State.loseDram (s : State) : State :=
  let s := { s with
    mem := s.mem.filter (fun c => !(region c.1 == .dram))
    badPar := s.badPar.filter (fun a => !(region a == .dram))
    dram := { State.reset.dram with devBands := s.dram.devBands } }
  (List.range 8).foldl (fun s ch => (s.put (F.DRC_CTRL.STATE ch) 0).failWaiting ch) s

/-- PWR_GOOD as a pin. -/
def State.pwrGood (s : State) (b : Bool) : State := s.emit "PWR_GOOD" 0 [if b then 1 else 0]

/-- RAIL_FAULT of output 0 MEM_VDD, 1 MEM_VDDQ, 2 MEM_VPP, 3 AUX_3V3, 4 AUX_1V8 (R468). -/
def execRailFault (out : Fin 5) (s : State) : Host.Outcome State Fault Refusal :=
  .next (if !s.bit F.PWR_RAIL.GOOD out then s else
    let s := (s.setBit F.PWR_RAIL.FAULT out true).irq 8
    if out.val < 3 then
      (((s.put F.PWR_RAIL.GOOD (s.get F.PWR_RAIL.GOOD / 8 * 8)).loseDram).pwrGood false).post srcPwr 6 6 (0x100 + out.val) 0
    else (s.setBit F.PWR_RAIL.GOOD out false).post srcPwr 5 6 (0x100 + out.val) 0)

/-- A write of PWR_RAIL: FAULT bits clear, then RETRY restarts the outputs whose FAULT is clear. -/
def wrPwrRail (src : Nat) (v : Word) (s : State) : State :=
  let s := s.plainWrite src R.PWR_RAIL v
  if v.getLsbD 31 then
    let was := s.get F.PWR_RAIL.GOOD
    let s := (List.range 5).foldl (fun s k => if s.bit F.PWR_RAIL.FAULT k then s else s.setBit F.PWR_RAIL.GOOD k true) s
    s.when (decide (was ≠ 31 ∧ s.get F.PWR_RAIL.GOOD = 31)) (·.pwrGood true)
  else s

def execRailRetry (v : Word) (s : State) : Host.Outcome State Fault Refusal :=
  s.running (s.guardWrite R.PWR_RAIL (wrPwrRail 0x1A00 (v ||| 0x80000000)))

/-! ### Power-up and power-down (R466, R470, R471, R494) -/

/-- A cold reset with the cosy supply on: step 2 of Table 20.3. Residency counters start at 0. -/
def State.cold (s : State) (shutdown : Bool) : State :=
  let t := s.coldFrom
  { t with power := { t.power with afterShutdown := shutdown } }

/-- Power is gone (Table 20.4): nothing is kept but the non-volatile store. -/
def State.powerDown (s : State) (shutdown : Bool) : State :=
  let t := (s.cold shutdown).pwrGood false
  { t with power := { t.power with cosy := false, heldOff := shutdown } }

/-- Steps 4 to 7 of Table 20.3: the outputs ramp, PWR_GOOD is released, core 0 starts the boot ROM. -/
def State.rampUp (s : State) : State :=
  let s := { s with power := { s.power with railsOn := true } }
  ((s.put F.PWR_RAIL.GOOD 31).pwrGood true).startCore0

/-- Where the shutdown record lies. -/
def shutdownAt : Nat := nvsBase + 0x3FF000

/-- Step 3 goes on: after a shutdown the record is copied into THM_SHDN (R494). -/
def State.passStep3 (s : State) : State :=
  let s := if s.power.afterShutdown then
      let r := s.bytes shutdownAt 64
      s.andThen [(·.put F.THM_SHDN.SENSOR (field r 5 1)), (·.put F.THM_SHDN.TEMP (field r 6 2)),
        (·.put F.THM_SHDN_COUNT.COUNT (field r 0x14 4)), (·.put F.THM_SHDN.LAST 1)]
    else s
  ({ s with power := { s.power with afterShutdown := false }, thermal := { s.thermal with holding := false } }).rampUp

/-- Step 3 of Table 20.3: after a shutdown a hot die sensor holds the sequence, with THERM_N asserted (R494). -/
def State.step3 (s : State) (hot : Bool) : State :=
  if s.power.afterShutdown && hot then ({ s with thermal := { s.thermal with holding := true } }).put F.THM_STAT.THERM 1
  else s.passStep3

/-- POWER_UP with the input readings; `hot`: a valid die sensor reads 100 °C or more at step 3; `vio`: which of SCP_VIO0,
SCP_VIO1, SENS_VIO0 and SENS_VIO1 the board supplies (R542), bits 0 to 3. -/
def execPowerUp (vin : Half × Half) (hot : Bool) (vio : BitVec 4) (s : State) : Host.Outcome State Fault Refusal :=
  .next (if s.power.heldOff || s.power.railsOn || s.thermal.holding || s.power.mode = .hibernate then s else
    let s := if s.power.cosy then s else s.cold s.power.afterShutdown
    let s := { s with power := { s.power with vio := vio.toNat } }
    ((s.put F.PWR_INPUT.VIN_MV vin.1.toNat).put F.PWR_INPUT.IIN vin.2.toNat).step3 hot)

/-- POWER_LOSS: 0 undervoltage, 1 overvoltage, 2 PWR_EN low. `recorded`: the input holds the device up long enough for the
event of a stop to reach the store. A module that a shutdown holds off is released (R494). -/
def execPowerLoss (cause : Fin 3) (recorded : Bool) (s : State) : Host.Outcome State Fault Refusal :=
  .next (if s.power.cosy then
      let s := if cause.val < 2 ∧ recorded then
          s.place ⟨BitVec.ofNat 16 srcPwr, 0x6000, 6, s.now, BitVec.ofNat 64 (s.get F.PWR_INPUT.VIN_MV)⟩ false
        else s
      s.powerDown false
    else { s with power := { s.power with heldOff := false } })

/-! ### Power states (R477 to R484) -/

/-- The device is quiet (R478). -/
def State.quiet (s : State) : Bool :=
  (List.range 4).all (fun c => s.get (F.CPU_CORE_CTL.STATE c) == 0 || s.get (F.CPU_CORE_CTL.STATE c) == 3) &&
  (List.range 48).all (fun t => s.dom t == 0 || s.dom t == 3) &&
  (List.range 32).all (fun n => [0, 1, 5].contains (s.vceState n)) &&
  s.cmp.isEmpty && s.dma.all (fun c => c.2.job.isNone) && s.ccp.cmds.isEmpty && s.ccp.streams.isEmpty &&
  !s.anyOn ((List.range 16).map F.SDI_OUT_CFG.EN ++ (List.range 8).map F.SDI_IN_CFG.EN ++ (List.range 8).map F.AUD_P_CFG.EN ++
    (List.range 2).map F.SLK_RXCFG.ENABLE ++ (List.range 2).map F.SLK_TXCFG.ENABLE ++ (List.range 4).map F.SCP_CFG.ENABLE) &&
  !s.on F.FAB_LOAD_STAT.BUSY &&
  (List.range 8).all (fun c => s.get (F.DRC_CTRL.STATE c) != 1 && s.get (F.DRC_CTRL.STATE c) != 4) && s.dram.short.isNone &&
  s.power.demands.isEmpty && s.starting.isEmpty && !s.freezing

/-- IDLE_ENTRY: the running cores are halted in WFI. -/
def execIdleEntry (s : State) : Host.Outcome State Fault Refusal :=
  s.running (if s.power.mode ≠ .run ∨ !s.power.railsOn ∨ (List.range 4).any (fun c => s.get (F.CPU_CORE_CTL.STATE c) == 1) then s else
    let s := (List.range 4).foldl (fun s c => if s.get (F.CPU_CORE_CTL.STATE c) = 2 then s.put (F.CPU_CORE_CTL.STATE c) 3 else s) s
    { s with power := { s.power with mode := .idle } })

/-- Domains that stay On in Nap: the time unit, the memory clock's, segments 0 and 1, an Ethernet port whose wake is enabled
with its lanes. -/
def State.napStays (s : State) (d : Nat) : Bool :=
  d == 145 || (decide (72 ≤ d) && decide (d ≤ 88)) || d == 139 || d == 140 ||
    ((d == 124 || d == 70) && s.bit F.PWR_WAKE_EN.EN 3) || ((d == 125 || d == 71) && s.bit F.PWR_WAKE_EN.EN 4)

/-- A core of the application goes Off. -/
def State.coreOff (s : State) (c : Nat) : State := (s.domainOff (119 + c)).put (F.CPU_CORE_CTL.STATE c) 0

/-- NAP_ENTRY (Table 20.6): cores go Off, every other domain that does not stay is Retained, the memory and time PLLs stay. -/
def State.nap (s : State) : State :=
  let off := (List.range 148).filter (fun d => s.dom d == 2 && !s.napStays d && !(decide (120 ≤ d) && decide (d ≤ 122)))
  let s := { s with power := { s.power with
    mode := .nap, waking := false, offDomains := off
    offChannels := (List.range 8).filter (fun c => s.get (F.DRC_CTRL.STATE c) == 2) } }
  let s := [0, 1, 2, 3].foldl (fun s c => if s.get (F.CPU_CORE_CTL.STATE c) = 0 then s else s.coreOff c) s
  let s := (List.range 148).foldl (fun s d => if s.napStays d then s else s.retain d) s
  (s.put F.PWR_PLL.ON (s.get F.PWR_PLL.ON &&& 0x12)).put F.PWR_PLL.LOCK (s.get F.PWR_PLL.LOCK &&& 0x12)

def execNapEntry (s : State) : Host.Outcome State Fault Refusal :=
  s.running (if s.power.mode = .idle ∧ s.on F.PWR_CTL.NAP_EN ∧ s.addr R.PWR_WAKE_VEC_LO R.PWR_WAKE_VEC_HI ≠ 0 ∧ s.quiet then s.nap else s)

/-- Segment 1 goes Off: the registers of CAD, MMU and STP are lost but for MMU_CTL.EN, which only a reset clears (R360), and
with them the partition, the TLBs and the steep counters. -/
def State.segment1Off (s : State) : State :=
  let en := s.get F.MMU_CTL.EN
  ({ s.domainOff 140 with
      caddy := State.reset.caddy, tlb := [], steepC := [], steepPool := 0, steepWait := [], dma := [] }).put F.MMU_CTL.EN en

/-- DOZE_ENTRY: DRAM in self-refresh with the PHY Retained, the memory PLL stopped, L2 and segment 1 Off. -/
def State.doze (s : State) : State :=
  let off := (List.range 148).filter (fun d => s.dom d == 2 && ((decide (72 ≤ d) && decide (d ≤ 88)) || d == 140))
  let s := { s with power := { s.power with mode := .doze, offDomains := s.power.offDomains ++ off } }
  let s := (List.range 8).foldl (fun s c => if s.get (F.DRC_CTRL.STATE c) = 2 then s.selfRefresh c else s) s
  let s := (List.range 17).foldl (fun s k => s.retain (72 + k)) s
  ((s.domainOff 123).segment1Off.put F.PWR_PLL.ON (s.get F.PWR_PLL.ON &&& 0x10)).put F.PWR_PLL.LOCK (s.get F.PWR_PLL.LOCK &&& 0x10)

def execDozeEntry (s : State) : Host.Outcome State Fault Refusal :=
  s.running (if s.power.mode = .nap ∧ s.on F.PWR_CTL.DOZE_EN ∧ !s.freezing then s.doze else s)

/-- Registers of blocks in the cosy domain (the list under Table 20.5). -/
def cosyReg (off : Nat) : Bool := decide (off < 0x10000) || (decide (0x160000 ≤ off) && decide (off < 0x190000)) ||
  (decide (0x1B0000 ≤ off) && decide (off < 0x1C0000))

/-- HIBERNATE_ENTRY: the event, then everything but the cosy domain and the auxiliary outputs goes off. -/
def State.hibernate (s : State) : State :=
  let s := s.post srcPwr 5 6 0 0
  let dres := s.regs.filter (fun e => cosyReg e.1 && !(decide (0x160100 ≤ e.1) && decide (e.1 < 0x160350)))
  let doms := s.regs.filter (fun e => decide (0x160100 ≤ e.1) && decide (e.1 < 0x160350))
  let t : State := { s.coldFrom with
    evt := s.evt, regs := scopy doms dres 0x160100 0x160350, thermal := s.thermal, xtal := s.xtal
    power := { s.power with mode := .hibernate, demands := [], offDomains := [], offChannels := [], waking := false } }
  let t := (List.range 148).foldl (fun t d => t.put (F.PWR_DOM.STATE d) 0) t
  ((t.put F.PWR_RAIL.GOOD (t.get F.PWR_RAIL.GOOD / 8 * 8)).put F.PWR_PLL.ON 0).put F.PWR_PLL.LOCK 0

def execHibernateEntry (s : State) : Host.Outcome State Fault Refusal :=
  s.running (if s.power.mode = .doze ∧ s.on F.PWR_CTL.HIB_EN ∧ !s.freezing then s.hibernate else s)

/-- Which events wake from a state (Table 20.7). -/
def wakesFrom (m : PowerMode) (k : Nat) : Bool :=
  match m with
  | .run => false
  | .idle | .nap => true
  | .doze => decide (k ≠ 8)
  | .hibernate => [0, 1, 5, 6, 7].contains k

/-- The start of a wake from Nap or Doze (Table 20.8, steps 1 to 3): PLLs start, segment 0 and core 0 come On, and core 0 runs
from PWR_WAKE_VEC on the fast internal oscillator. -/
def State.wakeUp (s : State) (last : Nat) : State :=
  let s := { s with power := { s.power with mode := .run, waking := true, demands := s.power.offDomains ++ s.power.demands } }
  let s := ((s.startPll 2).startPll 0).startPll 1
  let s := (s.domainOn 139).domainOn 119
  (s.andThen [(·.put (F.CPU_CORE_CTL.STATE 0) 2), (·.put F.PWR_CLKSEL.CPU 0), (·.put F.PWR_CTL.LAST last)]).emit "core start" 0
    [s.addr R.PWR_WAKE_VEC_LO R.PWR_WAKE_VEC_HI]

/-- WAKE: wake event k is latched; one that is enabled and wakes from the present state starts the wake order. A freeze
proceeds without a wake (R526). -/
def State.wakeEvent (s : State) (k : Nat) : State :=
  if !s.power.cosy then s else
  let s := s.latchWake k
  if s.freezing || !s.bit F.PWR_WAKE_EN.EN k || !wakesFrom s.power.mode k then s else
    match s.power.mode with
    | .run => s
    | .idle =>
      let s := { s with power := { s.power with mode := .run } }
      (s.when (decide (s.get (F.CPU_CORE_CTL.STATE 0) = 3)) (·.put (F.CPU_CORE_CTL.STATE 0) 2)).put F.PWR_CTL.LAST 1
    | .nap => s.wakeUp 2
    | .doze => s.wakeUp 3
    | .hibernate => { s with power := { s.power with waking := true } }

def execWake (event : Fin 9) (s : State) : Host.Outcome State Fault Refusal := .next (s.wakeEvent event)

/-- A channel leaves self-refresh after Doze; each subchannel runs one short retrain (Table 20.8, step 5). -/
def State.channelBack (s : State) (ch : Nat) : State :=
  if s.get (F.DRC_CTRL.STATE ch) = 3 then (s.exitSelfRefresh ch).dueBoth ch else s

/-- WAKE_COMPLETE: the domains that the state turned off and the channels that were in service are back. -/
def execWakeComplete (s : State) : Host.Outcome State Fault Refusal :=
  s.running (if s.power.waking ∧ s.power.mode = .run then
      let s1 := s.power.offDomains.foldl State.bringUp s
      let s2 := s.power.offChannels.foldl State.channelBack s1
      ({ s2 with power := { s2.power with
          waking := false, offDomains := [], offChannels := []
          demands := s2.power.demands.filter (fun d => !s.power.offDomains.contains d) } }).ethAwake
    else s)

/-- HIBERNATE_EXIT: power-up from step 3; the event store, the residency counters and PWR_WAKE_CAUSE are kept (R484). -/
def execHibernateExit (hot : Bool) (s : State) : Host.Outcome State Fault Refusal :=
  .next (if s.power.mode = .hibernate ∧ s.power.waking then
      let aux := s.get F.PWR_RAIL.GOOD
      let t : State := { s.coldFrom with
        regs := s.regs.filter (fun e => e.1 == R.PWR_WAKE_CAUSE || (decide (0x160400 ≤ e.1) && decide (e.1 < 0x160CA0)) ||
          (decide (0x180008 ≤ e.1) && decide (e.1 < 0x180010)))
        xtal := s.xtal
        power := { State.reset.power with sres := s.power.sres, dres := s.power.dres, ons := s.power.ons, beat := s.power.beat, vio := s.power.vio } }
      ((t.put F.PWR_RAIL.GOOD aux).put F.PWR_CTL.LAST 4).step3 hot
    else s)

/-! ### The core clock (R483) and residency (R485) -/

def wrPwrClksel (src : Nat) (v : Word) (s : State) : State :=
  if v.getLsbD 0 && !s.bit F.PWR_PLL.LOCK 2 then s.postIgnored src 3 R.PWR_CLKSEL else s.plainWrite src R.PWR_CLKSEL v

def execClockSelect (v : Word) (src : Nat) (s : State) : Host.Outcome State Fault Refusal :=
  s.running (s.guardWrite R.PWR_CLKSEL (wrPwrClksel src v))

/-- Every residency counter is 0. -/
def State.clearResidency (s : State) : State :=
  { s with power := { s.power with sres := [], dres := [], ons := [] }, regs := sclear s.regs 0x160400 0x160CA0 }

def wrPwrCtl (src : Nat) (v : Word) (s : State) : State :=
  (s.plainWrite src R.PWR_CTL v).when (v.getLsbD 28) State.clearResidency

def execResidencyClear (v : Word) (s : State) : Host.Outcome State Fault Refusal :=
  s.running (s.guardWrite R.PWR_CTL (wrPwrCtl 0x1A00 (v ||| 0x10000000)))

/-- A read of a LO register latches its HI register (R485): states, then domains. -/
def rdPwrSresLo (k : Nat) (s : State) : Word × State :=
  let x := sget (0 : BitVec 64) s.power.sres k
  (x.setWidth 32, s.put (F.PWR_SRES_HI.TIME k) (x.toNat / 2 ^ 32))

def rdPwrDresLo (d : Nat) (s : State) : Word × State :=
  let x := sget (0 : BitVec 48) s.power.dres d
  (x.setWidth 32, (s.put (F.PWR_DRES_HI.TIME d) (x.toNat / 2 ^ 32)).put (F.PWR_DRES_HI.ONS d) (sget (0 : Half) s.power.ons d).toNat)

/-- RESIDENCY_LO_READ of state counter k, or of domain k − 5. -/
def execResidencyLoRead (counter : Fin 153) (s : State) : Host.Outcome State Fault Refusal :=
  s.running (State.answer (if counter.val < 5 then s.guardRead (R.PWR_SRES_LO counter) (rdPwrSresLo counter)
    else s.guardRead (R.PWR_DRES_LO (counter.val - 5)) (rdPwrDresLo (counter.val - 5))))

/-- The number of a power state as PWR_SRESs and PWR_CTL.LAST count them. -/
def PowerMode.num : PowerMode → Nat
  | .run => 0
  | .idle => 1
  | .nap => 2
  | .doze => 3
  | .hibernate => 4

/-- One cosy period: the present state's counter, and those of domains On or Starting. -/
def State.countPeriod (s : State) : State :=
  let m := s.power.mode.num
  let dres := (List.range 148).foldl (fun l d => if s.dom d = 1 ∨ s.dom d = 2 then sset 0 l d (sget (0 : BitVec 48) l d + 1) else l) s.power.dres
  { s with power := { s.power with sres := sset 0 s.power.sres m (sget (0 : BitVec 64) s.power.sres m + 1), dres := dres } }

/-- The share of a TCLK tick (2 ns) in a period of the 32.768 kHz cosy clock: 256 / 3,906,250 (log 1). -/
def State.cosyTick (s : State) : State :=
  if !s.power.cosy then s else
    let b := s.power.beat + 256
    if b < 3906250 then { s with power := { s.power with beat := b } }
    else ({ s with power := { s.power with beat := b - 3906250 } }).countPeriod

/-- COSY_XTAL_SWITCH (R545). -/
def execCosyXtalSwitch (s : State) : Host.Outcome State Fault Refusal := .next (if s.power.cosy then { s with xtal := true } else s)

end Sys2Proof.Machine
end

