-- ==== Sys2Proof/Machine/Cores.lean ====
section
/-! DEFINITION. Control cores (R496), the watchdog (R499), SYS_LOCK (R9) and entry into freeze (R521 to R526). -/

namespace Sys2Proof.Machine

/-! ### Cores (R496) -/

/-- A write of CPU_COREc_CTL. Those naming core 0 are ignored. RESET stops the core at once and returns it to Off; START of a
core that is Off starts it at its vector on the CPUCLK source in force. -/
def wrCoreCtl (c : Nat) (v : Word) (s : State) : State :=
  if c = 0 then s
  else if v.getLsbD 30 then (s.domainOff (119 + c)).put (F.CPU_CORE_CTL.STATE c) 0
  else if v.getLsbD 31 ∧ s.get (F.CPU_CORE_CTL.STATE c) = 0 then
    (((s.bringUp 123).bringUp (119 + c)).put (F.CPU_CORE_CTL.STATE c) 2).emit "core start" c
      [s.addr (R.CPU_CORE_VEC_LO c) (R.CPU_CORE_VEC_HI c)]
  else s

def execCoreStart (c : Fin 4) (s : State) : Host.Outcome State Fault Refusal :=
  s.running (s.guardWrite (R.CPU_CORE_CTL c) (wrCoreCtl c 0x80000000))

def execCoreReset (c : Fin 4) (s : State) : Host.Outcome State Fault Refusal :=
  s.running (s.guardWrite (R.CPU_CORE_CTL c) (wrCoreCtl c 0x40000000))

/-! ### The watchdog (R499) -/

/-- A write of CPU_WDOG; the key in KICK, or EN becoming 1, restarts the count. -/
def wrCpuWdog (src : Nat) (v : Word) (s : State) : State :=
  let was := s.on F.CPU_WDOG.EN
  let s := s.plainWrite src R.CPU_WDOG v
  if getBits v 15 0 = 0x4B11 ∨ !was ∧ s.on F.CPU_WDOG.EN then { s with power := { s.power with wdog := 0 } } else s

/-- WATCHDOG_KICK: bits 31:16 as written, KICK the key. -/
def execWatchdogKick (v : Half) (src : Nat) (s : State) : Host.Outcome State Fault Refusal :=
  s.running (s.guardWrite R.CPU_WDOG (wrCpuWdog src (v ++ 0x4B11#16)))

/-- WATCHDOG_EXPIRE: TIMEOUT_MS have passed since the count began. -/
def execWatchdogExpire (s : State) : Host.Outcome State Fault Refusal :=
  s.running (if !s.on F.CPU_WDOG.EN then s
    else if s.on F.CPU_WDOG.ACTION then (s.post 0x1A00 6 0 0 0).warmReset 3
    else { s.irq 9 with power := { s.power with wdog := 0 } })

/-! ### SYS_LOCK (R9) -/

def execSysLockSet (s : State) : Host.Outcome State Fault Refusal :=
  s.running (s.guardWrite R.SYS_LOCK (·.put F.SYS_LOCK.LOCK 1))

/-! ### Freeze (R521 to R526) -/

def wrDbgCtl (src : Nat) (v : Word) (s : State) : State :=
  let s := s.plainWrite src R.DBG_CTL v
  if v.getLsbD 31 then s.requestFreeze 2 else s

def execFreezeNLow (s : State) : Host.Outcome State Fault Refusal := .next (s.requestFreeze 1)

def execDbgFreeze (v : Word) (src : Nat) (s : State) : Host.Outcome State Fault Refusal :=
  s.running (s.guardWrite R.DBG_CTL (wrDbgCtl src (v ||| 0x80000000)))

/-- A channel settles (step 3, R524): in service it enters self-refresh with its queued writes kept; in training it stops and
its row is undefined; one in STATE 0, 3 or 5 stays. -/
def State.settle (s : State) (ch : Nat) : State :=
  match s.get (F.DRC_CTRL.STATE ch) with
  | 2 => s.put (F.DRC_CTRL.STATE ch) 3
  | 1 | 4 => (s.put (F.DRC_CTRL.STATE ch) 3).setBit F.DBG_STAT.DRAM_DIRTY ch true
  | _ => s

/-- CCP commands and streams end without completion, and the takes that streams recorded are Closed (R398, R423). -/
def State.dropCommands (s : State) : State :=
  { s with ccp := { s.ccp with cmds := [], streams := [], takes := s.closedTakes } }

/-- Links of both Ethernet ports go down with the lands (R525). -/
def State.linksDown (s : State) : State := [0, 1].foldl (fun s p => s.put (F.ETH_STAT.LINK p) 0) s

/-- Free values that the snapshot of the cores and of the rows saved in training shows. -/
def snapWords : Nat := 4 * 130 + 8 * 2048

/-- Everything stops and the snapshot is taken (R522). -/
def State.stopAll (s : State) : State :=
  let s := (List.range 8).foldl State.settle s
  let s := if s.load.isSome then { s.put F.FAB_LOAD_STAT.BUSY 0 with load := none } else s
  let s := (List.range 96).foldl State.recalStops s
  let s := (s.cmpStopAll.dropCommands.linksDown.put F.DBG_STAT.FROZEN 1).emit "FREEZE_ACK" 0 [1]
  { s with jtag := { s.jtag with snap := s.free, held := s.regs, awake := [] }, free := s.free + snapWords }

/-- FREEZE_COMPLETE: every channel has settled, the remaining clocks stop, FREEZE_ACK and FROZEN are set, and the supervisor
places its record. A load is abandoned (R67); recalibrations, compression jobs and CCP commands end. -/
def State.freezeComplete (s : State) : State :=
  if !s.freezing || s.on F.DBG_STAT.FROZEN then s else
    let t := s.stopAll
    t.place ⟨BitVec.ofNat 16 srcDebug, BitVec.ofNat 16 (t.get F.DBG_STAT.SRC), 4, t.now, 0⟩ false

def execFreezeComplete (s : State) : Host.Outcome State Fault Refusal := .next s.freezeComplete

end Sys2Proof.Machine
end

