-- ==== Sys2Proof/Machine/Sdi.lean ====
section
/-! DEFINITION. SDI outputs and inputs, timing generators and genlock (chapter 10). A frame is one step: an output sends
a frame when it takes its slot, an input receives one whole. -/

namespace Sys2Proof.Machine

def State.sdiI (s : State) (m : Nat) : SdiIn := sget sdiInInit s.sdiIn m
def State.setSdiI (s : State) (m : Nat) (x : SdiIn) : State := { s with sdiIn := sset sdiInInit s.sdiIn m x }
def tgInit : TgRun := ⟨0, 0, 0, false⟩

/-! ### Formats (Tables 10.3 and 10.8) -/

/-- Active width and height of a raster code. -/
def rasterSize (r : Nat) : Nat × Nat :=
  match r with
  | 1 => (1920, 1080) | 2 => (1920, 1080) | 3 => (2048, 1080) | 4 => (3840, 2160)
  | 5 => (4096, 2160) | 6 => (7680, 4320) | 7 => (8192, 4320) | _ => (0, 0)

/-- A rate code; codes above 9 act as 9. -/
def rateCode (r : Nat) : Nat := min r 9

/-- The frame period D / M in seconds. -/
def ratePeriod (r : Nat) : Nat × Nat :=
  match rateCode r with
  | 0 => (1001, 24000) | 1 => (1, 24) | 2 => (1, 25) | 3 => (1001, 30000) | 4 => (1, 30)
  | 5 => (1001, 48000) | 6 => (1, 48) | 7 => (1, 50) | 8 => (1001, 60000) | _ => (1, 60)

/-- The frames that a second of timecode counts. -/
def rateFps (r : Nat) : Nat :=
  match rateCode r with
  | 0 => 24 | 1 => 24 | 2 => 25 | 3 => 30 | 4 => 30 | 5 => 48 | 6 => 48 | 7 => 50 | _ => 60

/-- The 1/1.001 family (R74). -/
def rateSlow (r : Nat) : Bool := [0, 3, 5, 8].contains (rateCode r)

/-- The links of Table 10.3 as (link count, link rate in units of 1.485 Gbit/s). -/
def sdiModes (raster rate sampling : Nat) : List (Nat × Nat) :=
  let hi := decide (5 ≤ rateCode rate)
  let full := decide (1 ≤ sampling)
  if 3 ≤ sampling then [] else
  match raster with
  | 1 => if !full && [2, 3, 4].contains (rateCode rate) then [(1, 1)] else []
  | 2 | 3 => [(1, (if hi then 2 else 1) * (if full then 2 else 1))]
  | 4 | 5 => if hi then (if full then [(2, 8)] else [(1, 8), (4, 2)]) else [(1, if full then 8 else 4)]
  | 6 | 7 => if hi then (if full then [] else [(4, 8)]) else [(4, if full then 8 else 4)]
  | _ => []

/-- The lanes that an SDI link has. -/
def State.sdiLanes (s : State) (link : Nat) : List Nat :=
  match s.cfg.lanes.find? (fun r => r.link == link) with
  | some r => r.lanes.take r.count
  | none => []

/-- The link rate of an output's format on its links: none where Table 10.3 does not list it. Rasters of 4,320 lines
are 2SI only, and the output's rate is its generator's. -/
def State.sdiUnit (s : State) (n : Nat) : Option Nat :=
  let raster := s.get (F.SDI_OUT_FMT.RASTER n)
  let rate := s.get (F.SDI_OUT_FMT.RATE n)
  if rateCode rate ≠ rateCode (s.get (F.SDI_TG_CFG.RATE (s.get (F.SDI_OUT_CFG.TG n)))) then none
  else if 6 ≤ raster ∧ !s.on (F.SDI_OUT_CFG.MAP n) then none
  else ((sdiModes raster rate (s.get (F.SDI_OUT_FMT.SAMPLING n))).find? (fun m => m.1 == (s.sdiLanes (0x10 + n)).length)).map (·.2)

/-- Outputs that are enabled and have a format they can send. -/
def State.sdiActive (s : State) (n : Nat) : Bool := s.on (F.SDI_OUT_CFG.EN n) && !s.on (F.SDI_OUT_STAT.FMT_ERR n)

/-- The limits of R248 over a set of outputs. -/
def State.sdiFits (s : State) (l : List Nat) : Bool :=
  let used : List (Nat × Nat) := l.flatMap (fun n => (s.sdiLanes (0x10 + n)).map (fun x => (x, (s.sdiUnit n).getD 0)))
  decide ((used.map (·.2)).foldl (· + ·) 0 ≤ 48) &&
    [16, 17, 18, 19].all (fun q => decide ((used.filter (fun e => e.1 / 4 == q && e.2 == 8)).length ≤ 1))

/-- The active output that a lane belongs to: one that is enabled, or still completes a frame. -/
def State.sdiLaneOwner (s : State) (x : Nat) : Option Nat :=
  (List.range 16).find? (fun n => (s.sdiActive n || (s.sdiO n).running) && (s.sdiLanes (0x10 + n)).contains x)

/-- The lanes of a quad that request the other rate family than its lowest-numbered active lane (R74). -/
def State.sdiIdleLanes (s : State) (q : Nat) : List Nat :=
  let l := ([0, 1, 2, 3].map (fun i => 4 * q + i)).filterMap (fun x => (s.sdiLaneOwner x).map (fun n => (x, rateSlow (s.get (F.SDI_OUT_FMT.RATE n)))))
  match l with
  | [] => []
  | e :: r => (r.filter (fun x => x.2 != e.2)).map (·.1)

/-- An output whose lanes are all driven. -/
def State.sdiLit (s : State) (n : Nat) : Bool := (s.sdiLanes (0x10 + n)).all (fun x => !(s.sdiIdleLanes (x / 4)).contains x)

/-! ### Enable and disable (R247, R248, R251) -/

def srcSdi (n : Nat) : Nat := 0x0A00 + n

/-- An SDI lane's rate in Mbit/s, rounded: `unit` × 1.485 Gbit/s, or that over 1.001 (R74). -/
def sdiMbps (unit : Nat) (slow : Bool) : Nat := if slow then (1485000 * unit + 500) / 1001 else 1485 * unit

/-- Lanes that the other rate family of their quad keeps electrically idle. -/
def State.sdiIdle (s : State) : List Nat := [16, 17, 18, 19].flatMap s.sdiIdleLanes

/-- After a change of what the SDI registers request: a lane that has to be idle now is, with an event that names it, and one that
need not be any more comes up again (R74). `before` are the lanes idle before the change. -/
def State.sdiRelight (s : State) (before : List Nat) : State :=
  let idle := s.sdiIdle
  let s := (idle.filter (fun x => !before.contains x)).foldl (fun (s : State) (x : Nat) =>
    (s.andThen [(·.put (F.LNK_STAT.STATE x) 0), (·.put (F.LNK_STAT.UP x) 0)]).post (srcLane x) 3 3 x 0) s
  (before.filter (fun x => !idle.contains x)).foldl State.laneEnter s

/-- EN is set: the output starts at the next frame instant with its lanes at the format's rate, or FMT_ERR is set. -/
def State.sdiEnable (s : State) (n : Nat) : State :=
  let others := (List.range 16).filter (fun k => k != n && s.sdiActive k)
  match s.sdiUnit n with
  | some u =>
    if s.sdiFits (n :: others) then
      (s.sdiLanes (0x10 + n)).foldl (fun (s : State) (x : Nat) => s.put (F.LNK_RATE.MBPS x) (sdiMbps u (rateSlow (s.get (F.SDI_OUT_FMT.RATE n)))))
        (s.put (F.SDI_OUT_STAT.FMT_ERR n) 0)
    else s.put (F.SDI_OUT_STAT.FMT_ERR n) 1
  | none => s.put (F.SDI_OUT_STAT.FMT_ERR n) 1

/-- A write of SDI_OUTn_CFG: while EN = 1, TG, OPK and MAP keep their values and a change of them posts an event. -/
def wrSdiOutCfg (n src : Nat) (v : Word) (s : State) : State :=
  let off := R.SDI_OUT_CFG n
  if s.on (F.SDI_OUT_CFG.EN n) then
    let changed := getBits v 29 28 != s.get (F.SDI_OUT_CFG.TG n) || getBits v 25 24 != s.get (F.SDI_OUT_CFG.OPK n) || getBits v 16 16 != s.get (F.SDI_OUT_CFG.MAP n)
    let s := if changed then s.postIgnored src 3 off else s
    let s := s.put (F.SDI_OUT_CFG.PID_OVR n) (getBits v 30 30)
    if v.getLsbD 31 then s
    else
      let x := s.sdiO n
      ((s.put (F.SDI_OUT_CFG.EN n) 0).setSdiO n { x with stopping := x.running }).sdiRelight s.sdiIdle
  else
    let before := s.sdiIdle
    let s := s.plainWrite src off v
    if s.on (F.SDI_OUT_CFG.EN n) then (s.sdiEnable n).sdiRelight before else s

/-- A write of SDI_OUTn_FMT. -/
def wrSdiOutFmt (n src : Nat) (v : Word) (s : State) : State :=
  if s.on (F.SDI_OUT_CFG.EN n) then s.postIgnored src 3 (R.SDI_OUT_FMT n) else s.plainWrite src (R.SDI_OUT_FMT n) v

def execSdiOutEnable (n : Fin 16) (v : Word) (src : Nat) (s : State) : Host.Outcome State Fault Refusal :=
  s.running (s.guardWrite (R.SDI_OUT_CFG n.val) (wrSdiOutCfg n.val src (v ||| 0x80000000)))

def execSdiOutDisable (n : Fin 16) (v : Word) (src : Nat) (s : State) : Host.Outcome State Fault Refusal :=
  s.running (s.guardWrite (R.SDI_OUT_CFG n.val) (wrSdiOutCfg n.val src (v &&& 0x7FFFFFFF)))

/-! ### Timing generators (R257, R258) -/

/-- Generator `k` cannot follow the input: its frame period is no whole multiple of the input's. -/
def State.tgIncompat (s : State) (k : Nat) : Bool :=
  let m := s.get F.SDI_GLK_CFG.IN
  s.get F.SDI_GLK_CFG.SRC == 2 && s.on (F.SDI_IN_STAT.LOCKED m) &&
    (let a := ratePeriod (s.get (F.SDI_TG_CFG.RATE k))
     let b := ratePeriod (s.get (F.SDI_IN_STAT.RATE m))
     (a.1 * b.2) % (a.2 * b.1) != 0)

/-- The output presents its termination without carrier. -/
def State.sdiStops (s : State) (n : Nat) : State := ((s.setSdiO n sdiOutInit).emit "sdiIdle" n []).sdiRelight s.sdiIdle

/-- The lanes of output `n` leave their link (R58): it stops at once, and starts at a frame instant when it is still enabled. -/
def State.sdiOutputLost (s : State) (n : Nat) : State := if (s.sdiO n).running then s.sdiStops n else s

/-- A frame instant at output `n`: it starts, stops, or goes on to its next frame. One whose EN was cleared stops here, and starts
afresh when EN is set again (R251). -/
def State.sdiInstant (s : State) (n : Nat) : State :=
  let x := s.sdiO n
  let start (s : State) : State := if s.sdiActive n then s.setSdiO n { sdiOutInit with running := true } else s
  if x.running then
    if x.stopping then start (s.sdiStops n)
    else s.setSdiO n { x with hold := none, started := false, frames := x.frames + 1 }
  else start s

/-- Generator `k`'s period times `m` in nanoseconds: D × 10^9 for a period of D / M. -/
def State.tgPeriod (s : State) (k : Nat) : Nat × Nat := let p := ratePeriod (s.get (F.SDI_TG_CFG.RATE k)); (p.1 * 1000000000, p.2)

/-- SDI_TGk_OFFS as nanoseconds within one frame period (R257). -/
def State.tgOffset (s : State) (k : Nat) : Nat :=
  let (d, m) := s.tgPeriod k
  (sint (s.get (F.SDI_TG_OFFS.NS k)) 32 * (m : Int) % (d : Int)).toNat / m

/-- How many aligned instants n × D / M + OFFS have passed at nanosecond `t` of the time counter (R257). -/
def State.tgIndex (s : State) (k t : Nat) : Nat := let (d, m) := s.tgPeriod k; (t - s.tgOffset k) * m / d

/-- The input that generators follow with SRC = 2. -/
def State.glkInput (s : State) : Nat := s.get F.SDI_GLK_CFG.IN

/-- Generator `k` follows the input's EAVs. -/
def State.tgFollows (s : State) (k : Nat) : Bool := s.get F.SDI_GLK_CFG.SRC == 2 && !s.on F.SDI_GLK_STAT.HOLDOVER && !s.tgIncompat k

/-- A nominal period, or 5 ppm less while the PLL slews, has passed since the last instant (R258, R259). -/
def State.tgElapsed (s : State) (k : Nat) : Bool :=
  let g := sget tgInit s.tg k
  let (d, m) := s.tgPeriod k
  g.instants == 0 || decide (d * 999995 ≤ ((s.now - g.lastN).toNat + 1) * m * 1000000)

/-- A frame instant of generator `k` is due. Aligned to the counter (SRC = 1, and free-running generators, whose common zero is the
counter's: DESIGN CHOICE, log 33): an instant of R257 has passed since the last one. Following the input: the EAV of line 1 of the last
frame, plus OFFS, has passed, a period of the generator after the EAV it followed before. In holdover, while a phase error is slewed away, and
with INCOMPAT: a period after the last. -/
def State.tgDue (s : State) (k : Nat) : Bool :=
  let g := sget tgInit s.tg k
  if s.tgFollows k && !g.adrift then
    let e := (s.sdiI s.glkInput).eav
    let (d, m) := s.tgPeriod k
    e != g.ref && decide (e.toNat + s.tgOffset k ≤ s.now.toNat) && (g.instants == 0 || decide (d ≤ ((e - g.ref).toNat + 1000000) * m))
  else if g.adrift || s.get F.SDI_GLK_CFG.SRC == 2 then s.tgElapsed k
  else g.instants == 0 || decide (s.tgIndex k g.lastN.toNat < s.tgIndex k s.now.toNat)

/-- An instant that comes within 10 ns of an aligned one makes up the phase of a generator adrift, once the source is back (R259). -/
def State.tgCaughtUp (s : State) (k : Nat) : Bool :=
  !s.on F.SDI_GLK_STAT.HOLDOVER && decide (s.tgIndex k (s.now.toNat - 11) < s.tgIndex k s.now.toNat)

/-- A frame instant of a running generator; `phase` is the measured error in ns. -/
def State.tgInstant (s : State) (k phase : Nat) : State :=
  if !s.on (F.SDI_TG_CFG.EN k) || !s.tgDue k then s else
    let g := sget tgInit s.tg k
    let s := { s with tg := sset tgInit s.tg k ⟨g.instants + 1, s.now, (s.sdiI s.glkInput).eav, g.adrift && !s.tgCaughtUp k⟩ }
    let s := (s.put (F.SDI_TG_STAT.PHASE k) phase).putB (F.SDI_TG_STAT.INCOMPAT k) (s.tgIncompat k)
    ((List.range 16).filter (fun n => s.get (F.SDI_OUT_CFG.TG n) == k)).foldl State.sdiInstant s

def execTgFrameInstant (k : Fin 4) (phase : Half) (s : State) : Host.Outcome State Fault Refusal :=
  s.running (s.tgInstant k.val phase.toNat)

/-! ### Timecode (R253) -/

def bcd2 (x : Nat) : Nat := x / 10 % 10 * 16 + x % 10
def unbcd2 (x : Nat) : Nat := x / 16 % 16 * 10 + x % 16

/-- Frame labels left out at the start of a minute under drop-frame counting. -/
def dropLabels (rate : Nat) (df : Bool) : Nat := if !df then 0 else match rateCode rate with | 3 => 2 | 8 => 4 | _ => 0

/-- The number of frames since 00:00:00:00 of a label HH MM SS FF in BCD bytes, HH highest. -/
def tcIndex (rate : Nat) (df : Bool) (v : Nat) : Nat :=
  let m := unbcd2 (bits v 24 8) * 60 + unbcd2 (bits v 16 8)
  (m * 60 + unbcd2 (bits v 8 8)) * rateFps rate + unbcd2 (bits v 0 8) - dropLabels rate df * (m - m / 10)

/-- The label of frame `i` of the day. -/
def tcLabel (rate : Nat) (df : Bool) (i : Nat) : Nat :=
  let fps := rateFps rate
  let d := dropLabels rate df
  let perMin := 60 * fps - d
  let perTen := 10 * perMin + d
  let i := i % (144 * perTen)
  let ten := i / perTen
  let r := i % perTen
  let extra := if r < 60 * fps then 0 else d * ((r - 60 * fps) / perMin + 1)
  let j := i + ten * 9 * d + extra
  let sec := j / fps
  bcd2 (sec / 3600 % 24) * 2 ^ 24 + bcd2 (sec / 60 % 60) * 2 ^ 16 + bcd2 (sec % 60) * 2 ^ 8 + bcd2 (j % fps)

/-- Frame instants since midnight of the time counter's seconds less SDI_TCOFS.SEC. -/
def State.tcOfDay (s : State) (rate : Nat) : Nat :=
  let (d, m) := ratePeriod rate
  let ofs := sint (s.get F.SDI_TCOFS.SEC) 32
  let sec : Int := (s.time.sec.toNat : Int)
  let midnight := (sec - ofs) / 86400 * 86400 + ofs
  let idx (ns : Int) : Int := ns * m / (1000000000 * d : Nat)
  (idx (sec * 1000000000 + s.time.ns.toNat) - (idx (midnight * 1000000000 - 1) + 1)).toNat

/-- The 64 bits of ST 12-1 for a label HH MM SS FF: digits in fours with user bits of 0 between, the drop-frame flag in bit 10. Above 30
frames/s a label names a pair of frames, and the field mark (bit 27, at 50 frames/s bit 59) tells its second frame (PRESUMED, log 34: the
standard's layout, which the spec names). -/
def atcWord (rate : Nat) (df : Bool) (label : Nat) : Nat :=
  let pair := decide (30 < rateFps rate)
  let f := unbcd2 (bits label 0 8)
  let ff := bcd2 (if pair then f / 2 else f)
  let dig (b at_ : Nat) : Nat := b % 16 * 2 ^ at_ + b / 16 * 2 ^ (at_ + 8)
  dig ff 0 + (if df then 2 ^ 10 else 0) + dig (bits label 8 8) 16 + dig (bits label 16 8) 32 + dig (bits label 24 8) 48 +
    (if pair && f % 2 == 1 then 2 ^ (if rateCode rate = 7 then 59 else 27) else 0)

/-- The label that an ATC word carries. -/
def atcLabel (rate w : Nat) : Nat :=
  let two (at_ n : Nat) : Nat := bits w at_ 4 + 16 * bits w (at_ + 8) n
  let f := unbcd2 (two 0 2)
  let mark := bits w (if rateCode rate = 7 then 59 else 27) 1
  bcd2 (if 30 < rateFps rate then 2 * f + mark else f) + 2 ^ 8 * two 16 3 + 2 ^ 16 * two 32 3 + 2 ^ 24 * two 48 2

/-- A timecode follows the one before it: it names the next frame of the day (Table 9.2). -/
def tcFollows (rate prev cur : Nat) : Bool :=
  let df := cur.testBit 10
  tcLabel rate df (tcIndex rate df (atcLabel rate prev) + 1) == atcLabel rate cur

/-- The ATC word of output `n`'s frame (R253). -/
def State.sdiTimecode (s : State) (n : Nat) : Option Nat :=
  let rate := s.get (F.SDI_OUT_FMT.RATE n)
  let df := s.on (F.SDI_OUT_TC.DF n)
  match s.get (F.SDI_OUT_TC.SRC n) with
  | 0 => none
  | 1 => some (atcWord rate df (tcLabel rate df (tcIndex rate df (s.get (F.SDI_OUT_TCVAL.BCD n)) + (s.sdiO n).frames)))
  | 2 => some (atcWord rate df (tcLabel rate df (s.tcOfDay rate)))
  | _ => let i := s.sdiI (s.get (F.SDI_OUT_TC.IN n)); if i.tcSeen then some i.lastTc else none

/-- ATC_LTC on every output (0), and on an interlaced one ATC_VITC of each field (1, 2), that of the second with its field mark. -/
def State.sendTimecode (s : State) (n : Nat) : State :=
  match s.sdiTimecode n with
  | none => s
  | some w =>
    let s := s.emit "sdiTc" n [0, w]
    if s.get (F.SDI_OUT_FMT.RASTER n) ≠ 1 then s else
      let mark := 2 ^ (if rateCode (s.get (F.SDI_OUT_FMT.RATE n)) = 2 then 59 else 27)
      (s.emit "sdiTc" n [1, w]).emit "sdiTc" n [2, if w.testBit (if rateCode (s.get (F.SDI_OUT_FMT.RATE n)) = 2 then 59 else 27) then w else w + mark]

/-! ### Sending a frame (R249, R250, R252) -/

/-- The frame in a slot has the raster and sampling of output `n`. -/
def State.slotMatches (s : State) (n : Nat) (k : OpkSlot) : Bool :=
  let (w, h) := rasterSize (s.get (F.SDI_OUT_FMT.RASTER n))
  k.w == w && k.h == h && (match s.get (F.SDI_OUT_FMT.SAMPLING n) with
    | 0 => k.fmt == 2 && k.depth == 10
    | 1 => k.fmt == 1 && k.depth == 10
    | _ => k.fmt == 1 && k.depth == 12)

/-- A black line's codes, in the sample order of the output. -/
def State.blackLine (s : State) (n : Nat) : List Nat :=
  let sampling := s.get (F.SDI_OUT_FMT.SAMPLING n)
  let q := if sampling = 2 then 16 else 4
  let w := (rasterSize (s.get (F.SDI_OUT_FMT.RASTER n))).1
  if sampling = 0 then (List.replicate (w / 2) [128 * q, 16 * q, 128 * q, 16 * q]).flatten
  else if s.on (F.SDI_OUT_FMT.RGB n) then List.replicate (3 * w) (16 * q)
  else (List.replicate w [16 * q, 128 * q, 128 * q]).flatten

/-- Frame lines in the order they are sent: interlaced outputs send the even lines, then the odd. -/
def lineOrder (interlaced : Bool) (h : Nat) : List Nat :=
  if interlaced then (List.range ((h + 1) / 2)).map (2 * ·) ++ (List.range (h / 2)).map (fun i => 2 * i + 1) else List.range h

/-- Accesses of a framer: unit 17 + group, client 16 + group, pinned. -/
def sdiReq (n : Nat) : Req := ⟨srcSdi n, 17 + n / 4, 16 + n / 4, true, none⟩

/-- The codes of the frame lines `ys`, with how many go as black: one that is late, or whose read fails. -/
def State.outLines (s : State) (n : Nat) (k : Option OpkSlot) (late : List Nat) : List Nat → List (List Nat) × Nat × State
  | [] => ([], 0, s)
  | y :: r =>
    match k with
    | none => let (l, c, s') := s.outLines n k late r; (s.blackLine n :: l, c, s')
    | some q =>
      let (got, s) := if late.contains y then ((.error .parity : Except AccErr (List Byte)), s) else s.engRead (sdiReq n) (q.addr + y * q.pitch) q.pitch
      match got with
      | .ok b => let (l, c, s) := s.outLines n k late r; (unpackCodes q.depth (lineCodes q.fmt q.w) b :: l, c, s)
      | .error _ => let (l, c, s') := s.outLines n k late r; (s.blackLine n :: l, c + 1, s')

/-- Codes of a pair of positions: four in 4:2:2, six in 4:4:4. -/
def pairCodes (sampling : Nat) : Nat := if sampling = 0 then 4 else 6

/-- Every second element in pieces of `q`, from piece `b` on. -/
def piecesOf (q b : Nat) (l : List Nat) : List Nat :=
  ((List.range (l.length / q)).filter (fun i => i % 2 == b)).flatMap (fun i => (l.drop (i * q)).take q)

def everyOther (b : Nat) (rows : List (List Nat)) : List (List Nat) :=
  ((List.range rows.length).filter (fun y => y % 2 == b)).map (fun y => rows.getD y [])

/-- What link `k` of `n` carries of a picture's lines (R247): of four links a quadrant (SQD), or the sample pairs of one parity of the lines of one
parity (2SI); of two links the lines of one parity (PRESUMED, log 35: the mappings of the standards that the spec names). -/
def linkRows (n : Nat) (twoSi : Bool) (q k : Nat) (rows : List (List Nat)) : List (List Nat) :=
  if n = 4 then
    if twoSi then (everyOther (k / 2) rows).map (piecesOf q (k % 2))
    else ((rows.drop (k / 2 * (rows.length / 2))).take (rows.length / 2)).map (fun l => (l.drop (k % 2 * (l.length / 2))).take (l.length / 2))
  else if n = 2 then everyOther k rows
  else rows

/-- Pieces of `q` of two lists in turn. -/
def weave (q : Nat) (a b : List Nat) : List Nat :=
  (List.range (a.length / q)).flatMap (fun i => (a.drop (i * q)).take q ++ (b.drop (i * q)).take q)

def weaveRows (a b : List (List Nat)) : List (List Nat) := (a.zip b).flatMap (fun e => [e.1, e.2])

/-- The picture that a set of links carries together (R255). -/
def joinLinks (twoSi : Bool) (q : Nat) : List (List (List Nat)) → List (List Nat)
  | [a, b] => weaveRows a b
  | [a, b, c, d] =>
    if twoSi then weaveRows ((a.zip b).map (fun e => weave q e.1 e.2)) ((c.zip d).map (fun e => weave q e.1 e.2))
    else (a.zip b).map (fun e => e.1 ++ e.2) ++ (c.zip d).map (fun e => e.1 ++ e.2)
  | l => l.headD []

/-- The picture goes out on the lanes of output `n`, lines numbered as each link has them, in the order of its fields. -/
def State.sendRows (s : State) (n : Nat) (order : List Nat) (rows : List (List Nat)) : State :=
  let lanes := s.sdiLanes (0x10 + n)
  let raster := s.get (F.SDI_OUT_FMT.RASTER n)
  let q := pairCodes (s.get (F.SDI_OUT_FMT.SAMPLING n))
  (List.range lanes.length).foldl (fun s k =>
    let sub := linkRows lanes.length (s.on (F.SDI_OUT_CFG.MAP n)) q k rows
    let nums := if raster = 1 then order else List.range sub.length
    (nums.zip sub).foldl (fun (s : State) e => s.emit "sdiLine" (lanes.getD k 0) (e.1 :: e.2)) s) s

/-- Transfer and colorimetry fields of the payload ID (R252). -/
def pidTransfer (k : Option OpkSlot) : Nat :=
  match k with
  | some q => if 1 ≤ q.transfer ∧ q.transfer ≤ 3 then 0 else if q.transfer = 5 then 1 else if q.transfer = 4 then 2 else 3
  | none => 3
def pidColour (k : Option OpkSlot) : Nat := match k with | some q => (if q.space = 1 then 0 else if q.space = 2 then 2 else 3) | none => 3

/-- The rate code of ST 352 (PRESUMED, log 32). -/
def pidRate (rate : Nat) : Nat := [2, 3, 5, 6, 7, 4, 8, 9, 10, 11].getD (rateCode rate) 0

/-- The ST 352 payload ID of link `k` of output `n` (R252), byte 1 first: the standard's code, which is a free value; scan, transfer and rate; colorimetry
and sampling; link number and bit depth (field places PRESUMED, log 32). PID_OVR sends SDI_OUTn_PIDV. -/
def State.payloadId (s : State) (n : Nat) (slot : Option OpkSlot) (k : Nat) : List Nat :=
  if s.on (F.SDI_OUT_CFG.PID_OVR n) then let v := s.get (F.SDI_OUT_PIDV.PID n); [bits v 0 8, bits v 8 8, bits v 16 8, bits v 24 8]
  else
    let raster := s.get (F.SDI_OUT_FMT.RASTER n)
    let sampling := s.get (F.SDI_OUT_FMT.SAMPLING n)
    let links := (s.sdiLanes (0x10 + n)).length
    let scan := if raster = 1 then 0 else 0xC0
    let pic := if sampling = 0 then 0 else if s.on (F.SDI_OUT_FMT.RGB n) then 2 else 1
    [(Config.pidStandard (raster + 16 * rateCode (s.get (F.SDI_OUT_FMT.RATE n)) + 256 * sampling + 1024 * links + 8192 * s.get (F.SDI_OUT_CFG.MAP n))).toNat,
      scan + 16 * pidTransfer slot + pidRate (s.get (F.SDI_OUT_FMT.RATE n)), 16 * pidColour slot + pic,
      64 * k + (if sampling = 2 then 2 else 1)]

/-- The payload ID of every link. -/
def State.sendPids (s : State) (n : Nat) (slot : Option OpkSlot) : State :=
  let lanes := s.sdiLanes (0x10 + n)
  (List.range lanes.length).foldl (fun s k => s.emit "sdiPid" (lanes.getD k 0) (s.payloadId n slot k)) s

/-! ### Embedded audio (R254) -/

/-- Sample sets at 48 kHz that the first `f` frames of a rate hold. -/
def setsUpTo (rate f : Nat) : Nat := let (d, m) := ratePeriod rate; 48000 * f * d / m

/-- The sets a group embeds in a frame that holds `need`, those left for the next, and whether one was repeated or dropped. One set more than
needed waits; a second one more means that the stream runs fast, and one too few that it runs slow (DESIGN CHOICE, log 36). -/
def slipSets (need : Nat) (q : List (List Nat)) : List (List Nat) × List (List Nat) × Bool :=
  if need + 1 < q.length then (q.take need, q.drop (need + 1), true)
  else if q.length < need ∧ !q.isEmpty then (q ++ q.drop (q.length - 1), [], true)
  else (q.take need, q.drop need, false)

/-- The audio of a frame of output `n`, group by group. -/
def State.embedFrame (s : State) (n need : Nat) : State :=
  [0, 1, 2, 3].foldl (fun (s : State) (g : Nat) =>
    if !s.bit (F.SDI_OUT_AUD.GRP_EN n) g then s else
      let x := s.sdiO n
      let (now, rest, slip) := slipSets need (sget [] x.audio g)
      let s := (s.setSdiO n { x with audio := sset [] x.audio g rest }).when slip (·.bump (F.SDI_OUT_AUDSTAT.AUD_SLIPS n))
      s.emit "sdiAudio" n (g :: now.flatten)) s

/-- The framer of output `n` takes the latest complete frame, or sends the one before again, or black. -/
def State.sdiTake (s : State) (n : Nat) (late : List Nat) : State :=
  let x := s.sdiO n
  if !x.running || x.started then s else
    let o := s.opkRun (s.sdiSource n)
    let fresh := o.latest.filter (fun k => s.slotMatches n k && (x.last.isNone || o.count != x.seen))
    let s := match fresh, x.last with
      | some _, some _ => s.bumpBy (F.SDI_OUT_STAT.SKIPS n) (o.count - x.seen - 1)
      | none, some _ => s.bump (F.SDI_OUT_STAT.REPEATS n)
      | _, none => s
    let k := if fresh.isSome then fresh else x.last
    let s := s.setSdiO n { x with hold := k.map (·.slot), seen := if fresh.isSome then o.count else x.seen, last := k, started := true }
    if !s.sdiLit n then s else
      let rate := s.get (F.SDI_OUT_FMT.RATE n)
      let s := (s.sendPids n k).sendTimecode n
      let raster := s.get (F.SDI_OUT_FMT.RASTER n)
      let order := lineOrder (decide (raster = 1)) (rasterSize raster).2
      let (rows, c, s) := s.outLines n k late order
      let s := (s.sendRows n order rows).embedFrame n (setsUpTo rate (x.frames + 1) - setsUpTo rate x.frames)
      if c = 0 then s else (s.bumpBy (F.SDI_OUT_STAT.UNDERRUNS n) c).post (srcSdi n) 3 3 (0x10 + n) c

def execSdiSlotTake (n : Fin 16) (late1 late2 : List Nat) (s : State) : Host.Outcome State Fault Refusal :=
  s.running (s.sdiTake n.val (late1 ++ late2))

/-! ### Receiving a frame (R255, R256) -/

/-- The link rate of a received format in units of 1.485 Gbit/s; none where Table 10.3 and 3G Level B do not list it. -/
def sdiRxUnit (x : SdiRx) : Option Nat :=
  if x.levelB then (if (x.raster = 2 ∨ x.raster = 3) ∧ 5 ≤ rateCode x.rate ∧ x.links.length = 1 then some 2 else none)
  else ((sdiModes x.raster x.rate x.sampling).find? (fun m => m.1 == x.links.length)).map (·.2)

/-- The format of a received frame as one number; 0 where Table 10.3 and 3G Level B do not list it. -/
def sdiKey (x : SdiRx) : Nat :=
  if (sdiRxUnit x).isSome then
    x.raster + 16 * rateCode x.rate + 256 * x.sampling + 1024 * x.links.length + (if x.levelB then 8192 else 0)
  else 0

/-- The detected format in SDI_INm_STAT with the rate of its lanes, and LOCKED after two equal frames in a row. -/
def State.sdiDetect (s : State) (m : Nat) (x : SdiRx) : State :=
  let i := s.sdiI m
  let pid := x.pid.getD 0
  let same := if i.fmt = (sdiKey x) ∧ i.pid = pid ∧ (sdiKey x) ≠ 0 then i.same + 1 else 1
  let s := s.setSdiI m { i with fmt := (sdiKey x), pid := pid, same := same }
  if same < 2 then s.put (F.SDI_IN_STAT.LOCKED m) 0
  else
    let s := (s.sdiLanes (0x20 + m)).foldl (fun (s : State) (l : Nat) =>
      s.put (F.LNK_RATE.MBPS l) (sdiMbps ((sdiRxUnit x).getD 0) (rateSlow x.rate))) s
    s.andThen [(·.put (F.SDI_IN_STAT.LOCKED m) 1), (·.putB (F.SDI_IN_STAT.LEVELB m) x.levelB), (·.put (F.SDI_IN_STAT.RASTER m) x.raster),
    (·.put (F.SDI_IN_STAT.RATE m) (rateCode x.rate)), (·.put (F.SDI_IN_STAT.SAMPLING m) x.sampling), (·.put (F.SDI_IN_STAT.LINKS m) x.links.length)]

/-- A line's positions as three components; a 4:2:2 chroma sample stands on both positions of its pair (R130). -/
def sdiRow (x : SdiRx) (w : Nat) (l : List Nat) : List (List Nat) :=
  (List.range w).map (fun p => [0, 1, 2].map (fun c =>
    rnd (.fin ((expandChroma (if x.sampling = 0 then 2 else 1) w 1 [l] c p 0 : Nat) : Rat))))

/-- The combined active picture (R255). -/
def sdiPicture (x : SdiRx) : List (List Nat) := joinLinks x.twoSi (pairCodes x.sampling) x.links

/-- The status kept for frames that are still in the fabric (R228). -/
def State.keptAlive (s : State) (l : List SdiKept) : List SdiKept :=
  l.filter (fun k => (s.root k.tile).frames.any (fun f => f.tag.seq == k.seq) ||
    (List.range 16).any (fun b => (s.brew b).flow.any (fun f => f.tile == k.tile && f.tag.seq == k.seq)))

/-- A frame is delivered to an ingest tile bound to the input, with the status kept for it. -/
def State.sdiDeliver (s : State) (m : Nat) (x : SdiRx) (flags t : Nat) : State :=
  if s.onCur (F.ING_CFG.SRCSEL t (s.ingCtx t)) || s.getCur (F.ING_CFG.SDI_IN t (s.ingCtx t)) != m then s else
    let (w, h) := rasterSize x.raster
    let seq := (s.root t).seq
    let s := s.frameStart t ⟨0, w, h, if x.sampling = 2 then 12 else 10, 3, s.time, s.time, 3, none, none⟩
    if (s.openFrame t).any (fun f => f.tag.seq == seq) then
      let i := s.sdiI m
      let old := (s.keptAlive i.kept).filter (fun k => !(k.tile == t && k.seq == seq))
      let s := s.setSdiI m { i with kept := old ++ [⟨t, seq, flags, x.crcLines, i.lastPid, i.lastTc⟩] }
      let rows := sdiPicture x
      let s := (List.range h).foldl (fun s y => s.lineArrives t y (sdiRow x w (rows.getD y [])) (!x.noRoom.contains y)) s
      s.frameClose t
    else s

/-- Input `m` has no signal it can use: it is not locked, and a format has to come twice again. -/
def State.sdiInputLost (s : State) (m : Nat) : State := (s.setSdiI m { s.sdiI m with same := 0 }).put (F.SDI_IN_STAT.LOCKED m) 0

/-- A frame at input `m`, which begins now. Its links are those of the LANE record, all valid: another number of them, or a lane whose data
is marked invalid, gives no frame (R88; DESIGN CHOICE, log 37). -/
def State.sdiReceive (s : State) (m : Nat) (x : SdiRx) : State :=
  let lanes := s.sdiLanes (0x20 + m)
  if !s.on (F.SDI_IN_CFG.EN m) || lanes.isEmpty then s
  else if x.links.length ≠ lanes.length ∨ !lanes.all s.laneValid then s.sdiInputLost m
  else
    let s := (s.bumpBy (F.SDI_IN_ERR.CRC_LINES m) x.crcLines).bumpBy (F.SDI_IN_ERR.TRS m) x.trs
    let i := s.sdiI m
    let flags := flagIf x.pid.isSome 0 + flagIf (x.pid.any (fun p => p != i.lastPid)) 1 + flagIf x.tc.isSome 2 +
      flagIf (x.tc.any (fun w => i.tcSeen && !tcFollows x.rate i.lastTc w)) 3 + flagIf (decide (0 < x.trs)) 4
    let s := s.sdiDetect m x
    let i := s.sdiI m
    let s := s.setSdiI m { i with lastPid := x.pid.getD i.lastPid, lastTc := x.tc.getD i.lastTc, tcSeen := i.tcSeen || x.tc.isSome, eav := s.now
                                  audio := (List.range 4).foldl (fun a g => sset [] a g (sget [] a g ++ x.groups.getD g [])) i.audio }
    if !x.skewOk then s.bump (F.SDI_IN_ERR.ALIGN m)
    else if sdiKey x = 0 then s
    else [2, 3].foldl (fun s t => s.sdiDeliver m x flags t) s

def execSdiRxFrame (m : Fin 8) (x : SdiRx) (s : State) : Host.Outcome State Fault Refusal := s.running (s.sdiReceive m.val x)

/-! ### Genlock (R259) -/

def State.genlockFollows (s : State) : Bool := s.get F.SDI_GLK_CFG.SRC == 1 || s.get F.SDI_GLK_CFG.SRC == 2

/-- The selected source is locked: the time unit (R446), or the input. -/
def State.genlockSource (s : State) : Bool :=
  if s.get F.SDI_GLK_CFG.SRC = 1 then s.on F.TIM_CTL.LOCKED else s.on (F.SDI_IN_STAT.LOCKED s.glkInput)

/-- The source is lost: the PLL holds its last frequency, so every generator runs on at its period. -/
def execGenlockSourceLost (s : State) : Host.Outcome State Fault Refusal :=
  s.running (if s.genlockFollows && !s.genlockSource && !s.on F.SDI_GLK_STAT.HOLDOVER then
    let s := [0, 1, 2, 3].foldl (fun (s : State) (k : Nat) => { s with tg := sset tgInit s.tg k { sget tgInit s.tg k with adrift := true } }) s
    (s.put F.SDI_GLK_STAT.HOLDOVER 1).post 0x0A00 4 0 0 0 else s)

/-- A generator moves its next frame instant to the aligned instant. -/
def State.tgJam (s : State) (k : Nat) : State :=
  ({ s with tg := sset tgInit s.tg k { sget tgInit s.tg k with adrift := false } }).bump (F.SDI_TG_STAT.JAMS k)

/-- The source is back: the PLL slews the phase away, or with JAM each running generator of `far` (bit per generator), whose phase
error is more than one line, moves its next frame instant. -/
def execGenlockSourceReturn (far : Nat) (s : State) : Host.Outcome State Fault Refusal :=
  s.running (if s.on F.SDI_GLK_STAT.HOLDOVER && s.genlockSource then
    let s := s.put F.SDI_GLK_STAT.HOLDOVER 0
    if s.on F.SDI_GLK_CFG.JAM then
      [0, 1, 2, 3].foldl (fun (s : State) (k : Nat) => if far.testBit k && s.on (F.SDI_TG_CFG.EN k) then s.tgJam k else s) s
    else s
  else s)

end Sys2Proof.Machine
end

