-- ==== Sys2Proof/Machine/Load.lean ====
section
/-! DEFINITION. Loading (R52 to R71): copy and pre-apply checks, quiesce, the apply order of Table 2.16, post-apply
verification, restore, and partial reload. The FAB control registers. -/

namespace Sys2Proof.Machine

/-! ### Results -/

/-- A load ends with a code: the registers, the interrupt, and the event of a load that did not succeed (R53, R64, R65):
category 0 with the code as DETAIL whatever the check, which the spec leaves open (DESIGN CHOICE, log 22). -/
def State.loadEnds (s : State) (code sec : Nat) (sev : Fin 8) : State :=
  ({ s with load := none }).andThen [(·.put F.FAB_LOAD_STAT.CODE code), (·.put F.FAB_LOAD_STAT.FAIL_SECTION sec),
    (·.put F.FAB_LOAD_STAT.BUSY 0), (·.put F.FAB_LOAD_STAT.PHASE 0), (·.irq 3),
    (fun s => s.when (decide (0 < sev)) (·.post srcFab sev 0 code 0))]

/-! ### Regions -/

/-- What a load replaces: everything, or the regions of a mask. -/
def inMask (full : Bool) (mask r : Nat) : Bool := full || mask.testBit r

/-- The configuration with the regions of a mask taken from a partial image (R61). -/
def FabCfg.merge (a c : FabCfg) (mask : Nat) : FabCfg :=
  { a with
    tiles := a.tiles.filter (fun x => !mask.testBit x.region) ++ c.tiles
    routes := a.routes.filter (fun x => !mask.testBit x.region) ++ c.routes
    brews := a.brews.filter (fun x => !mask.testBit x.region) ++ c.brews
    regions := a.regions.filter (fun x => !mask.testBit x.region) ++ c.regions
    params := a.params.filter (fun x => !mask.testBit x.region) ++ c.params
    mosaics := a.mosaics.filter (fun x => !mask.testBit x.region) ++ c.mosaics }

/-- The brews that a load replaces, of a configuration. -/
def FabCfg.brewsIn (c : FabCfg) (full : Bool) (mask : Nat) : List Nat :=
  (c.brews.filter (fun b => inMask full mask b.region)).map (·.brew)

def FabCfg.tilesIn (c : FabCfg) (full : Bool) (mask : Nat) : List Nat :=
  (c.tiles.filter (fun t => inMask full mask t.region)).map (·.tile)

/-- FAB_REGION_STAT as it reads (Table 2.23, R68). -/
def regionView (s : State) : Word :=
  let c := s.cfg
  let plain := s.active.isSome && c.regions.isEmpty
  let loaded := if plain then 1 else c.brews.foldl (fun m b => m ||| 2 ^ b.region) 0
  let moving := match s.load with
    | none => 0
    | some l =>
      if s.get F.FAB_LOAD_STAT.PHASE < 2 then 0
      else if s.get F.FAB_LOAD_STAT.PHASE = 2 then
        ((List.range 8).filter (fun r => c.brews.any (fun b => b.region == r && l.replaced.contains b.brew) &&
          c.brews.all (fun b => b.region != r || !l.replaced.contains b.brew || l.quiet.contains b.brew))).foldl (fun m r => m ||| 2 ^ r) 0
      else if l.full then c.brews.foldl (fun m b => m ||| 2 ^ b.region) 0 else l.mask
  BitVec.ofNat 32 (moving * 2 ^ 16 + (if plain then 0 else c.reloadable) * 2 ^ 8 + loaded)

/-! ### Parameters (R51) -/

/-- The indexed memory behind a data register of a tile page: its index field, its size, where its words lie, their width, and
whether an access steps the index. -/
structure IxPort where
  idx : Fld
  n : Nat
  at_ : Nat → Nat
  width : Nat
  steps : Bool

/-- A write of the shadow word at the index: an access of BLACK leaves the index alone (Table 5.14). -/
def IxPort.write (x : IxPort) (v : Word) (s : State) : State :=
  if x.steps then wrIndexed x.idx x.n x.at_ x.width v s else s.wix (x.at_ (s.idxAt x.idx x.n)) (v.toNat % 2 ^ x.width)

/-- A read of the shadow word at the index. -/
def IxPort.read (x : IxPort) (s : State) : Word × State :=
  if x.steps then rdIndexed x.idx x.n x.at_ s else (BitVec.ofNat 32 (s.ix (x.at_ (s.idxAt x.idx x.n))), s)

def ixPort (off : Nat) : Option IxPort :=
  match tileOfOff off with
  | none => none
  | some t =>
    let j := kindIdx t
    let c := off % 0x1000 / 0x800
    let pick (r : Nat) (x : IxPort) : Option IxPort := if off = r then some x else none
    match tileKind t with
    | .rwc => (pick (R.RWC_SITE_BLACK j c) ⟨F.RWC_SITE_IDX.IDX j c, 64, ixBlack t c, 20, false⟩).orElse
        (fun _ => pick (R.RWC_SITE_GAIN j c) ⟨F.RWC_SITE_IDX.IDX j c, 64, ixGain t c, 24, true⟩)
    | .syn => ((pick (R.SYN_SITE_BLACK j c) ⟨F.SYN_SITE_IDX.IDX j c, 64, ixBlack t c, 20, false⟩).orElse
        (fun _ => pick (R.SYN_SITE_GAIN j c) ⟨F.SYN_SITE_IDX.IDX j c, 64, ixGain t c, 24, true⟩)).orElse
        (fun _ => pick (R.SYN_COEF_DATA j c) ⟨F.SYN_COEF_IDX.IDX j c, 14, ixCoef t c, 24, true⟩)
    | .col => pick (R.COL_COEF_DATA j c) ⟨F.COL_COEF_IDX.IDX j c, 40, ixCoef t c, 24, true⟩
    | _ => none

/-- A PARAM value written into the current and shadow copies. -/
def State.param (s : State) (p : ParamRec) : State :=
  let off := 0x30000 + 0x1000 * p.tile + p.off
  let v := BitVec.ofNat 32 p.value
  if s.ctxPage off then s else
  match ixPort off with
  | some x =>
    let a := x.at_ (s.idxAt x.idx x.n)
    let s := x.write v s
    { s with cur := sset (ixReset a) s.cur a (BitVec.ofNat 32 (s.ix a)) }
  | none =>
    match regDefAt off with
    | none => s
    | some d => { s.wreg off (d.apply false v (s.reg off)) with cur := sset (resetWord off) s.cur off (d.apply false v (s.regCur off)) }

/-- DMS_INFO of a demosaic tile's context (Table 7.13). -/
def State.showMosaic (s : State) (c : FabCfg) (t b k : Nat) : State :=
  match tileKind t, c.mosaicOf b k with
  | .dms, some m => s.andThen [(·.put (F.DMS_INFO.PH (t - 8) k) m.ph), (·.put (F.DMS_INFO.PV (t - 8) k) m.pv),
      (·.put (F.DMS_INFO.PRESET (t - 8) k) m.preset), (·.put (F.DMS_INFO.GUIDE (t - 8) k) m.guide)]
  | _, _ => s

/-! ### Tiles that come and go (R21) -/

/-- What a tile holds besides its registers is gone; its source's sequence counter runs on (R126). -/
def State.forgetTile (s : State) (t : Nat) : State :=
  let s := s.setRoot t { rootInit with seq := (s.root t).seq }
  let s := { ((((s.setSta t []).setAna t anaInit).setCmx t cmxInit).setOpk t opkInit) with synW := sset [] s.synW t [] }
  [0, 1].foldl (fun s k => { s with
    latched := (tileRanges t k).foldl (fun l r => sclear l r.1 r.2) s.latched
    tabs := sclear s.tabs (tabKey t k 0) (tabKey t k 16) }) s

/-- A tile of no brew any more: its domain is off and its page reads 0. -/
def State.tileGone (s : State) (t : Nat) : State := ((s.forgetTile t).domainOff t).stopIdlePll t

/-- A tile of a brew: its domain is on, brought up past a POLICY of 0 (R49). -/
def State.tileIn (s : State) (t b : Nat) : State :=
  (s.bringUp t).andThen [(·.put (F.FAB_TILE_STAT.ASSIGNED t) 1), (·.put (F.FAB_TILE_STAT.BREW t) b)]

/-! ### Power policy (R49, R352) -/

/-- Sachets of bank `b` below `top`. -/
def bankBelow (top b : Nat) : Nat := (top + 15 - b) / 16

/-- The lowest further banks until the sachets available reach `want`. -/
def furtherBanks (top want : Nat) : List Nat → List Nat → List Nat
  | have_, [] => have_
  | have_, b :: r =>
    if want ≤ (have_.map (bankBelow top)).sum then have_
    else furtherBanks top want (if have_.contains b then have_ else have_ ++ [b]) r

/-- The banks that a CADDY record needs, beside those `on` by policy. -/
def caddyBanks (recs : List CaddyRec) (on : List Nat) : List Nat :=
  let r7 := ((recs.find? (fun x => x.cls == 7)).map (·.reserve)).getD 0
  let top := 12288 - r7
  let block := (List.range 16).filter (fun b => bankBelow 12288 b - bankBelow top b != 0)
  furtherBanks top ((recs.filter (fun x => x.cls != 7)).map (·.reserve)).sum
    (on ++ block.filter (fun b => !on.contains b)) (List.range 16)

/-- The domain that serves a link's own logic: the sensor link engine, or the SDI output or input group. -/
def linkDomain (link : Nat) : Nat :=
  if link < 4 then 137 + link % 2 else if link < 0x20 then 127 + (link - 0x10) / 4 else 131 + (link - 0x20) / 4

/-- The POLICY that a POWER section gives a domain. -/
def FabCfg.policyOf (c : FabCfg) (d : Nat) : Nat := ((c.power.find? (fun r => r.domain == d)).map (·.policy)).getD 1

/-- The domains that the TILE, LANE and CADDY records of an image need. The spec does not list them: each record's own tile, lane
quads and banks, with the link's engine or group and the segments that serve them (DESIGN CHOICE, log 18). -/
def FabCfg.needs (c : FabCfg) : List Nat :=
  let tiles := c.tiles.map (·.tile)
  let lanes := c.lanes.flatMap (fun r => linkDomain r.link :: (r.lanes.take r.count).map (fun l => 48 + l / 4))
  let on := (List.range 16).filter (fun b => c.policyOf (89 + b) != 0)
  let banks := match c.caddy with | some r => (caddyBanks r on).filter (fun b => !on.contains b) | none => []
  tiles ++ (if tiles.isEmpty then [] else [141]) ++ lanes ++ (if lanes.isEmpty then [] else [142]) ++ banks.map (89 + ·) ++
    (if c.caddy.isSome then [140] else [])

/-- A domain that a record keeps off and another needs: POLICY 1, and an event (Table 22.14). -/
def State.overridePolicy (s : State) (d : Nat) : State :=
  (s.put (F.PWR_DOM.POLICY d) 1).post srcFab 2 6 (0x800 + d) 0x100

/-- What the blocks of a domain that goes Off hold besides their registers is gone: its lanes are idle, its links, ports and queues are
down (R473). -/
def State.blockLost (s : State) (d : Nat) : State :=
  let four (k : Nat) (f : State → Nat → State) : State := [0, 1, 2, 3].foldl (fun s i => f s (4 * k + i)) s
  if 48 ≤ d ∧ d < 72 then four (d - 48) State.laneLeave
  else if d = 124 ∨ d = 125 then s.ethDisable (d - 124)
  else if d = 126 then s.ccpDown.localDown
  else if 127 ≤ d ∧ d < 131 then four (d - 127) State.sdiOutputLost
  else if d = 131 ∨ d = 132 then four (d - 131) (fun s m => s.setSdiI m sdiInInit)
  else if d = 133 ∨ d = 134 then four (d - 133) (fun s n => (s.setAud n audInit).emit "audTx" n [])
  else if d = 135 ∨ d = 136 then [0, 1].foldl (fun s i => s.setScp (2 * (d - 135) + i) scpInit) s
  else if d = 137 ∨ d = 138 then (s.rxDown (d - 137)).txDown (d - 137)
  else s

/-- A domain goes Off with its PLL. -/
def State.policyOff (s : State) (d : Nat) : State :=
  if s.dom d = 0 then s else
    let s := ((s.blockLost d).domainOff d).stopIdlePll d
    if 48 ≤ d ∧ d < 72 ∧ s.quadPll.testBit (d - 48) then { s with quadPll := s.quadPll - 2 ^ (d - 48) } else s

/-- The policy of one domain as the new image gives it; PWR_DOM is in the cosy domain and keeps HOLD. -/
def State.setPolicy (s : State) (c : FabCfg) (d : Nat) : State :=
  let p := c.policyOf d
  let idle := ((c.power.find? (fun r => r.domain == d)).map (·.idleUs)).getD 0
  let s := (s.put (F.PWR_DOM.POLICY d) p).put (F.PWR_DOM.IDLE_US d) (if idle = 0 then s.get F.PWR_CTL.IDLE_US else idle)
  if p = 0 then (if c.needs.contains d then s.overridePolicy d else s.policyOff d)
  else if p = 2 ∧ (48 ≤ d ∨ c.tiles.any (fun t => t.tile == d)) then s.bringUp d else s

/-! ### Lane bonds (R58) -/

def LaneRec.same (a b : LaneRec) : Bool := a.link == b.link && a.rate == b.rate && a.used == b.used

/-- The records of `a` that `b` does not hold unchanged. -/
def changedLinks (a b : List LaneRec) : List LaneRec := a.filter (fun r => !b.any r.same)

/-- A link goes down and its lanes leave it. -/
def State.unbond (s : State) (r : LaneRec) : State :=
  let s := r.used.foldl State.laneLeave s
  if r.link < 2 then s.rxDown r.link
  else if r.link < 4 then s.txDown (r.link - 2)
  else if 0x20 ≤ r.link then s.sdiInputLost (r.link - 0x20)
  else s.sdiOutputLost (r.link - 0x10)

def State.bond (s : State) (r : LaneRec) : State := r.used.foldl State.laneEnter s

/-! ### Apply (Table 2.16) -/

/-- The steep period and clients of an image (R335, R339, R349). -/
def State.newSteep (s : State) (c : FabCfg) : State :=
  let s := (s.steepEnd false).put F.STP_PERIOD.PERIOD ((c.steep.map (fun x => x.1 % 2 ^ 32)).getD 4096)
  let recs := (c.steep.map (·.2)).getD []
  ((List.range 32).foldl (fun s n =>
    let r := (recs.find? (fun x => x.client == n)).getD ⟨n, 2, 7, 0, 0⟩
    s.andThen [(·.put (F.STP_CL_CFG.CLASS n) r.cls), (·.put (F.STP_CL_CFG.ENFORCE n) r.enforce), (·.put (F.STP_CL_CFG.BURSTS n) r.bursts)]) s).steepBegin

/-- The caddy partition of an image, with the banks that its class 7 block needs on. Requests that waited and that the new MAX values
allow are granted (R354, R356). -/
def State.newPartition (s : State) (l : List CaddyRec) : State :=
  let s := s.repartition l
  let s := ((List.range 16).filter (fun b => bankBelow 12288 b != bankBelow s.blockStart b)).foldl (fun s b => s.bringUp (89 + b)) s
  s.caddy.waits.foldl (fun s _ => s.serveWaits s.caddy.waits) s

/-- Step 2 of a full load, apart from the links that come up under the new bonds. -/
def State.applyGlobal (s : State) (old new : FabCfg) : State :=
  let s := (changedLinks old.lanes new.lanes).foldl State.unbond s
  let s := (List.range 148).foldl (fun s d => s.setPolicy new d) s
  (s.newPartition (new.caddy.getD s.partition)).newSteep new

/-- The brews of the new configuration stand in place of the replaced ones, with their first parameter set (R51).
Registers of a tile in use before and after the load that no PARAM record names keep what they held: the spec does not say
(DESIGN CHOICE, log 19). -/
def State.applyBrews (s : State) (full : Bool) (mask : Nat) (new : FabCfg) : State :=
  let ts := new.tiles.filter (fun t => inMask full mask t.region)
  let s := ts.foldl (fun s t => s.tileIn t.tile t.brew) s
  let s := ts.foldl (fun s t => s.setCmx t.tile cmxInit) s
  let s := (new.brewsIn full mask).foldl (fun s b => s.setBrew b brewInit) s
  let s := (new.params.filter (fun p => inMask full mask p.region)).foldl State.param s
  let s := ts.foldl (fun s t => (s.showMosaic new t.tile t.brew 0).showMosaic new t.tile t.brew 1) s
  { s with latched := ts.foldl (fun d t => copyRanges s.cur (copyRanges s.cur d (tileRanges t.tile 0)) (tileRanges t.tile 1)) s.latched }

/-- A stream whose source the new image does not hold ends (R406). -/
def State.endLostStreams (s : State) (c : FabCfg) : State :=
  (List.range 16).foldl (fun s k => match s.stream k with
    | some x => if (x.kind < 2 ∨ x.kind = 4) ∧ !c.tiles.any (fun t => t.tile == x.src) then s.endStream k else s
    | none => s) s

/-- Steps 1 to 4 of Table 2.16 with `new` in place of the active configuration. -/
def State.install (s : State) (full : Bool) (mask : Nat) (new : FabCfg) : State :=
  let old := s.cfg
  let s := ((old.tilesIn full mask).filter (fun t => !(new.tilesIn full mask).contains t)).foldl State.tileGone s
  let s := (old.brewsIn full mask).foldl (fun s b => s.setBrew b brewInit) s
  let s := if full then s.applyGlobal old new else
    (new.tilesIn full mask).foldl (fun s t => if s.get (F.PWR_DOM.POLICY t) = 0 then s.overridePolicy t else s) s
  let s := { s with active := some new }
  let s := if full then (changedLinks new.lanes old.lanes).foldl State.bond s else s
  let s := s.applyBrews full mask new
  if full then s.endLostStreams new else s

/-! ### Verification (R57, R64, R65) -/

/-- The tables of the brews fetched and every setting checked, brew by brew. -/
def State.verifyBrews (s : State) (c : FabCfg) : List BrewRec → Except TabFault Unit × State
  | [] => (.ok (), s)
  | b :: r =>
    match s.fetchBrew s.cur c b with
    | (.error e, s) => (.error e, s)
    | (.ok tabs, s) =>
      let s := { s with tabs := (c.tilesOf b.brew).foldl (fun d t => copyTabs tabs (copyTabs tabs d t 0) t 1) s.tabs }
      s.verifyBrews c r

def FabCfg.brewRecsIn (c : FabCfg) (full : Bool) (mask : Nat) : List BrewRec := c.brews.filter (fun b => inMask full mask b.region)

/-- The section that a failed table or setting comes from. -/
def LoadRun.faultSection (l : LoadRun) (e : TabFault) : Nat :=
  match l.cfg.params.find? (fun p => p.tile == e.tile) with
  | none => 0xFF
  | some p => ((l.sections.find? (fun x => x.1 == 9 && x.2.1 == p.region)).map (·.2.2)).getD 0xFF

/-- The load succeeds: the image is the active copy and the brews are released (R57, R126). -/
def State.loadSucceeds (s : State) (l : LoadRun) : State :=
  let s := if l.full then
      let s := s.andThen [(·.put F.FAB_IMG_VER.VERSION l.cfg.version), (·.put F.FAB_IMG_BUILD_LO.BUILD l.cfg.build),
        (·.put F.FAB_IMG_BUILD_HI.BUILD (l.cfg.build / 2 ^ 32))]
      let s := { s with caddy := { s.caddy with block7 := some (s.caddy.block7.getD (s.get (F.CAD_CL_CFG.RESERVE 7))) } }
      [0, 1, 2, 3, 34, 35].foldl (fun s t => s.setRoot t { s.root t with seq := 0 }) s
    else s
  s.loadEnds 0x01 0xFF 0

/-- The replaced regions are left with no brews and their tiles off (R65). Of the global settings the spec says nothing: after a
full load that ends so, lanes are unbonded, the steep period and clients and every POLICY return to their defaults, and the
caddy partition of the failed image stays (DESIGN CHOICE, log 20). -/
def State.loadLost (s : State) (l : LoadRun) (sec : Nat) : State :=
  let s :=
    if l.full || l.prev.isNone then
      let s := (s.install true 255 default).andThen [(·.put F.FAB_IMG_VER.VERSION 0), (·.put F.FAB_IMG_BUILD_LO.BUILD 0),
        (·.put F.FAB_IMG_BUILD_HI.BUILD 0)]
      { s with active := none }
    else
      let c := l.prev.getD default
      s.install false l.mask (c.merge { (default : FabCfg) with regions := c.regions.filter (fun r => l.mask.testBit r.region) } l.mask)
  s.loadEnds 0x31 sec 6

/-- The registers that PARAM records of a failed image wrote hold again what they held before its apply (R64). -/
def State.unparam (s : State) (l : LoadRun) : State :=
  (l.cfg.params.filter (fun p => inMask l.full l.mask p.region)).foldl (fun s p =>
    let off := 0x30000 + 0x1000 * p.tile + p.off
    match ixPort off with
    | some x =>
      let a := ixBase p.tile (off % 0x1000 / 0x800)
      let b := { s with regs := scopy l.regs s.regs a (a + 0x8000), cur := scopy l.cur s.cur a (a + 0x8000) }
      b.wreg x.idx.reg (sget (resetWord x.idx.reg) l.regs x.idx.reg)
    | none => { s with regs := scopy l.regs s.regs off (off + 4), cur := scopy l.cur s.cur off (off + 4) }) s

/-- The previous configuration of the replaced regions is restored and verified (R64). -/
def State.loadRestore (s : State) (l : LoadRun) (sec : Nat) : State :=
  match l.prev with
  | none => s.loadLost l sec
  | some c =>
    let s := ((s.put F.FAB_LOAD_STAT.PHASE 5).unparam l).install l.full l.mask c
    let s := if l.full && c.caddy.isNone then s.newPartition l.partition else s
    match s.verifyBrews c (c.brewRecsIn l.full l.mask) with
    | (.ok _, s) => s.loadEnds 0x30 sec 5
    | (.error _, s) => s.loadLost l sec

def State.loadVerify (s : State) (l : LoadRun) : State :=
  let s := s.put F.FAB_LOAD_STAT.PHASE 4
  match s.verifyBrews s.cfg (s.cfg.brewRecsIn l.full l.mask) with
  | (.ok _, s) => s.loadSucceeds l
  | (.error e, s) => s.loadRestore l (l.faultSection e)

/-- The new brews have a table to fetch. -/
def State.loadHasTables (s : State) (l : LoadRun) : Bool :=
  (s.cfg.brewRecsIn l.full l.mask).any (fun b => (s.cfg.tilesOf b.brew).any (fun t => b.ctxs.any (fun k => !(tableReqs ⟨s.cur, []⟩ t k).isEmpty)))

/-- Every replaced brew is quiescent: the image is applied. With no table to fetch, its verification follows at once. -/
def State.loadApply (s : State) (l : LoadRun) : State :=
  let new := if l.full then l.cfg else s.cfg.merge l.cfg l.mask
  let pages (x : Sparse Word) := scopy x [] 0x30000 0x60000 ++ scopy x [] 0x2000000 0x2300000
  let l := { l with prev := s.active, regs := pages s.regs, cur := pages s.cur, partition := s.partition }
  let l := { l with replaced := new.brewsIn l.full l.mask }
  let s := (({ s with load := some l }).put F.FAB_LOAD_STAT.PHASE 3).install l.full l.mask new
  if s.loadHasTables l then s else s.loadVerify l

/-! ### Quiesce (R55, R56, R62) -/

/-- A frame that waits at a source of a brew in quiesce is dropped (R62). -/
def State.dropSources (s : State) (b : BrewRec) : State :=
  b.sources.foldl (fun s t =>
    let l := (s.root t).frames.filter (fun f => !f.emitted)
    let s := s.mapFrames t (fun l => l.filter (·.emitted))
    l.foldl (fun s f => s.dropFrame f b.brew 4) s) s

/-- The brew takes no new frame. -/
def State.quiesceBrew (s : State) (bn : Nat) : State :=
  match s.brewRec bn with
  | none => s
  | some b =>
    let r := s.brew bn
    let s := s.setBrew bn { r with sel := r.sel.filter (fun t => (s.root t).frames.any (·.emitted)) }
    s.dropSources b

/-- Stored B frames of compose tiles outside the reload are invalidated (R241). -/
def State.invalidateB (s : State) (l : LoadRun) : State :=
  let c := s.cfg
  let gone := c.tilesIn l.full l.mask
  (c.routes.filter (fun r => r.dst < 48 && r.dstPort == 1 && tileKind r.dst == .cmx && gone.contains r.src && !gone.contains r.dst)).foldl
    (fun s r => s.setCmx r.dst { s.cmxRun r.dst with latest := .invalid }) s

def State.isQuiet (s : State) (bn : Nat) : Bool :=
  match s.brewRec bn with
  | none => true
  | some b => (s.inBrew b).isEmpty

/-- A brew becomes quiescent: its pending commit is discarded (R55). The last one starts the apply. -/
def State.quietBrew (s : State) (l : LoadRun) (bn : Nat) : State × LoadRun :=
  let l := { l with quiet := l.quiet ++ [bn] }
  let s := s.setBit F.FAB_COMMIT_PEND.PEND bn false
  let s := s.setBrew bn { s.brew bn with fetched := false, tabs := [], ctxWait := [] }
  ({ s with load := some l }, l)

/-- Brews that are between frames are quiescent. -/
def State.quietAll (s : State) (l : LoadRun) : List Nat → State × LoadRun
  | [] => (s, l)
  | b :: r =>
    if s.isQuiet b && !l.quiet.contains b then
      let (s, l) := s.quietBrew l b
      s.quietAll l r
    else s.quietAll l r

def State.applyIfQuiet (s : State) (l : LoadRun) : State :=
  if l.replaced.all (fun b => l.quiet.contains b) then s.loadApply l else s

/-- PRE_APPLY_DONE: the checks have passed and quiesce starts (R55). -/
def State.preApplyDone (s : State) : State :=
  match s.load with
  | none => s
  | some l =>
    if s.get F.FAB_LOAD_STAT.PHASE ≠ 1 then s else
      let s := s.put F.FAB_LOAD_STAT.PHASE 2
      let s := (l.replaced.foldl State.quiesceBrew s).invalidateB l
      let (s, l) := s.quietAll l l.replaced
      s.applyIfQuiet l

def execPreApplyDone (s : State) : Host.Outcome State Fault Refusal := s.running s.preApplyDone

/-- BREW_QUIESCENT: the frame in progress has left every tile of the brew. -/
def State.brewQuiescent (s : State) (b : Nat) : State :=
  match s.load with
  | none => s
  | some l =>
    if s.get F.FAB_LOAD_STAT.PHASE ≠ 2 ∨ !l.replaced.contains b ∨ l.quiet.contains b ∨ !s.isQuiet b then s else
      let (s, l) := s.quietBrew l b
      s.applyIfQuiet l

def execBrewQuiescent (b : Fin 16) (s : State) : Host.Outcome State Fault Refusal := s.running (s.brewQuiescent b.val)

/-- A frame in progress ends as a brew-output drop unit wherever it is: at the root with its frame record, and at the
statistics, analysis and output pack tiles it has reached (R56, R162). A frame that was dropped and counted on its way is not
counted again (R35). A B frame enters the queue of its analysis tile as dropped (R221). -/
def State.forceFrame (s : State) (b : BrewRec) (f : Frame) : State :=
  let atRoot := (s.root f.tile).frames.any (fun g => g.tag == f.tag)
  let g := { f with dropped := true, slot := none, closed := true }
  let s := s.mapFrames f.tile (fun l => l.filter (fun x => x.tag != f.tag))
  let r := s.brew b.brew
  let s := s.setBrew b.brew { r with flow := g :: r.flow.filter (fun x => x.tag != f.tag) }
  let counted := !f.badAt.isEmpty || (f.dropped && !atRoot)
  let s := s.when (!counted) (·.dropUnit f.tile 4 rowBrew f.tag)
  let s := s.when atRoot (·.putFrameRecord (if f.queued && !f.emitted then { g with waited := (s.now - timeN f.fs).toNat } else g) b.brew true false)
  let s := ((s.cfg.tilesOf b.brew).filter (fun t => g.sofAt.contains t && !g.doneAt.contains t)).foldl (fun s t =>
    match tileKind t with
    | .sta => s.statsFrameEnd t 0
    | .ana =>
      let x := s.anaRun t
      (s.setAna t { x with cur := x.cur.map (fun a => if a.tag = f.tag then { a with decided := true } else a) }).analysisFrameEnd t
    | .opk => s.opkFrameWrite t
    | .cmx => s.setCmx t { s.cmxRun t with reading := none }
    | _ => s) s
  let s := ((s.cfg.sinks b.brew).filter (fun k => decide (100 ≤ k) && tileKind (k - 100) == .ana && !g.doneAt.contains k)).foldl
    (fun s k => s.bFrameStore (k - 100)) s
  let r := s.brew b.brew
  s.setBrew b.brew { r with flow := r.flow.filter (fun x => x.tag != f.tag) }

/-- A brew is forced quiescent. -/
def State.forceBrew (s : State) (bn : Nat) : State :=
  match s.brewRec bn with
  | none => s
  | some b =>
    let s := (s.inBrew b).foldl (fun s f => s.forceFrame b f) s
    s.setBrew bn { s.brew bn with sel := none }

/-- QUIESCE_TIMEOUT (R56); with TMO_MS = 0 the loader waits without limit. -/
def State.quiesceTimeout (s : State) : State :=
  match s.load with
  | none => s
  | some l =>
    if s.get F.FAB_LOAD_STAT.PHASE ≠ 2 ∨ s.get F.FAB_QUIESCE_TMO.TMO_MS = 0 then s else
      let s := (l.replaced.filter (fun b => !l.quiet.contains b)).foldl State.forceBrew s
      let (s, l) := s.quietAll l l.replaced
      s.applyIfQuiet l

def execQuiesceTimeout (s : State) : Host.Outcome State Fault Refusal := s.running s.quiesceTimeout

/-- APPLY_FETCH_DONE: the tables of the applied image have been fetched. -/
def State.applyFetchDone (s : State) : State :=
  match s.load with
  | none => s
  | some l => if s.get F.FAB_LOAD_STAT.PHASE = 3 then s.loadVerify l else s

def execApplyFetchDone (s : State) : Host.Outcome State Fault Refusal := s.running s.applyFetchDone

/-! ### FAB_LOAD (R52, R53, R66) -/

/-- The retain buffer's address. -/
def State.retainBase (s : State) : Nat := s.addr R.FAB_RETAIN_LO R.FAB_RETAIN_HI

/-- The image read from DRAM or the caddy, or nothing when a read fails or leaves them (check 1). -/
def State.readImage (s : State) (a n : Nat) : List (Nat × Nat) → Option (List Byte) × State
  | [] => (some [], s)
  | (p, k) :: r =>
    match s.physRead ⟨srcFab, 16, 28, true, none⟩ p k with
    | (.error _, s) => (none, s)
    | (.ok b, s) =>
      match s.readImage a n r with
      | (some l, s) => (some (b ++ l), s)
      | (none, s) => (none, s)

/-- The copy is in the staging half of the retain buffer, whose layout is private: its bytes have no defined value, and the
write is charged to client 28. Where the copy goes to a channel that is not in service the spec names no failure, and the load
goes on (DESIGN CHOICE, log 21). -/
def State.retainCopy (s : State) (n : Nat) : State :=
  let (b, s) := s.takeFreeBytes 0x2000000
  let s := (s.setBytes s.retainBase b).charge 28 0 ((n + 63) / 64)
  { s with badPar := s.badPar.filter (fun a => decide (a < s.retainBase ∨ s.retainBase + 0x2000000 ≤ a)) }

/-- The checks of Table 2.15. A load that passes waits for the end of the checks (R54). -/
def State.startLoad (s : State) (full : Bool) (mask : Nat) : State :=
  let s := s.andThen [(·.put F.FAB_LOAD_STAT.FAIL_SECTION 0xFF), (·.put F.FAB_LOAD_STAT.BUSY 1), (·.put F.FAB_LOAD_STAT.PHASE 1)]
  if 0x4000000000 < s.retainBase + 0x2000000 then s.loadEnds 0x24 0xFF 4 else
    let a := s.addr R.FAB_LOAD_ADDR_LO R.FAB_LOAD_ADDR_HI
    let n := s.get F.FAB_LOAD_LEN.LEN
    if !(decide (a + n ≤ 0x4000000000) || decide (0x4000000000 ≤ a ∧ a + n ≤ 0x4003000000)) then s.loadEnds 0x23 0xFF 4 else
      match s.readImage a n (pieces (n / 64 + 2) a n) with
      | (none, s) => s.loadEnds 0x23 0xFF 4
      | (some img, s) =>
        let s := s.retainCopy n
        match s.checkImage img n mask (!full) s.caddy.block7 with
        | some (code, sec) => s.loadEnds code sec 4
        | none =>
          { s with load := some ⟨full, if full then 255 else mask, cfgOf img, s.cfg.brewsIn full mask, [],
            (sectionsOf img).map (fun x => (x.typ, x.region, x.idx)), none, [], [], []⟩ }

/-- A write of FAB_LOAD. -/
def wrFabLoad (src : Nat) (v : Word) (s : State) : State :=
  if !v.getLsbD 0 then s
  else if s.on F.FAB_LOAD_STAT.BUSY then s.postIgnored src 3 R.FAB_LOAD
  else s.startLoad (!v.getLsbD 1) (getBits v 23 16)

/-- FAB_LOAD with START = 1 and PARTIAL = 0. -/
def execFabLoadFull (v : Word) (src : Nat) (s : State) : Host.Outcome State Fault Refusal :=
  s.running (s.guardWrite R.FAB_LOAD (wrFabLoad src ((v ||| 1) &&& ~~~(2 : Word))))

/-- FAB_LOAD with START = 1 and PARTIAL = 1. -/
def execFabLoadPartial (v : Word) (src : Nat) (s : State) : Host.Outcome State Fault Refusal :=
  s.running (s.guardWrite R.FAB_LOAD (wrFabLoad src (v ||| 3)))

/-! ### Other FAB registers (R70) -/

/-- The image address and length while a load is in progress. -/
def wrFabAddr (src off : Nat) (v : Word) (s : State) : State :=
  if s.on F.FAB_LOAD_STAT.BUSY then s else s.plainWrite src off v

/-- The retain buffer's address, which moves only while no image is active. -/
def wrFabRetain (src off : Nat) (v : Word) (s : State) : State :=
  if s.get F.FAB_IMG_VER.VERSION ≠ 0 then s.postIgnored src 3 off
  else if s.on F.FAB_LOAD_STAT.BUSY then s.lockEvent src off v
  else s.plainWrite src off v

end Sys2Proof.Machine
end

