-- ==== Sys2Proof/Machine/Mmu.lean ====
section
/-! DEFINITION. Translation control (R360, R364, R368 to R372): enabling, invalidation, table walks, and the resolution of
faults. -/

namespace Sys2Proof.Machine

/-- The steep client of DMA channel, compression queue and codec context work is that of its own register; walks of other
units carry none. -/
def noClient : Nat := 32

/-- The source ID of a translation unit (Table 15.1, R511). -/
def unitSrc (u : Nat) : Nat :=
  if u < 12 then srcFab
  else if u < 16 then srcTile (u - 12)
  else if u = 16 then srcFab
  else if u < 21 then 0x0A00
  else if u = 21 then 0x1500
  else if u < 30 then 0x0B00
  else if u < 36 then 0x0C00
  else if u < 40 then 0x1100 + (u - 36)
  else if u = 40 then 0x1300
  else if u = 41 then 0x1200
  else 0x1800

/-! ### Registers -/

/-- EN is set and never cleared by a write (R360). -/
def wrMmuCtl (src : Nat) (v : Word) (s : State) : State := s.plainWrite src R.MMU_CTL v

def execMmuEnable (v : Word) (src : Nat) (s : State) : Host.Outcome State Fault Refusal :=
  s.running (s.guardWrite R.MMU_CTL (wrMmuCtl src (v ||| 0x80000000)))

/-- A write of MMU_UNITu_CFG empties the unit's TLB (R360). -/
def wrMmuUnitCfg (u src : Nat) (v : Word) (s : State) : State := (s.plainWrite src (R.MMU_UNIT_CFG u) v).setTlb u []

def execMmuUnitCfgWrite (u : Fin 43) (v : Word) (src : Nat) (s : State) : Host.Outcome State Fault Refusal :=
  s.running (s.guardWrite (R.MMU_UNIT_CFG u) (wrMmuUnitCfg u src v))

/-- Whether an invalidation removes an entry (R364). -/
def invalidates (scope space va pages : Nat) (e : TlbEntry) : Bool :=
  match scope with
  | 1 => e.space == space
  | 2 => e.space == space && decide (e.va < va + 65536 * pages ∧ va < e.va + e.size)
  | _ => true

/-- The matching entries of every TLB are removed. -/
def State.invalidateTlbs (s : State) : State :=
  let pages := s.get F.MMU_INV.PAGES
  let va := s.get F.MMU_INV_VA_LO.VA * 2 ^ 16 + s.get F.MMU_INV_VA_HI.VA * 2 ^ 32
  let gone := invalidates (s.get F.MMU_INV.SCOPE) (s.get F.MMU_INV.SPACE) va (if pages = 0 then 65536 else pages)
  (List.range 43).foldl (fun s u => s.setTlb u ((s.tlbOf u).filter (fun e => !gone e))) s

/-- A write of MMU_INV (R364). -/
def wrMmuInv (src : Nat) (v : Word) (s : State) : State :=
  if v.getLsbD 31 then
    if s.on F.MMU_INV.BUSY then s.postIgnored src 3 R.MMU_INV
    else ((s.plainWrite src R.MMU_INV v).put F.MMU_INV.BUSY 1).invalidateTlbs
  else s.plainWrite src R.MMU_INV v

def execMmuInvalidate (v : Word) (src : Nat) (s : State) : Host.Outcome State Fault Refusal :=
  s.running (s.guardWrite R.MMU_INV (wrMmuInv src (v ||| 0x80000000)))

/-- The matching entries are gone, those that earlier walks brought among them. -/
def execMmuInvalidateDone (s : State) : Host.Outcome State Fault Refusal :=
  s.running (if s.on F.MMU_INV.BUSY then s.invalidateTlbs.put F.MMU_INV.BUSY 0 else s)

/-! ### Table walks -/

/-- Units of whose accesses some are unpinned (Table 15.1). -/
def mayFault (u : Nat) : Bool := decide (22 ≤ u ∧ u ≤ 40)

/-- The codec context whose picture a unit works on. -/
def State.vceAtWork (s : State) (u : Nat) : Option Nat :=
  (s.vce.find? (fun c => s.vceState c.1 == 2 && (match c.2.pic with
    | some r => r.entUnit == u || r.pixUnit == u
    | none => false))).map (·.1)

/-- An unpinned access of unit `u` faults: the unit's work is suspended with it (R367, R368). -/
def State.suspendUnit (s : State) (u va : Nat) (write : Bool) (kind : Nat) : State :=
  if u < 30 then
    match s.vceAtWork u with
    | some n => s.vceSuspend n u va write kind
    | none => s.unitFault (unitSrc u) u va write kind
  else if u < 36 then
    match s.cmpRunning (u - 30) with
    | some j => s.cmpSuspend j u va write kind
    | none => s.unitFault (unitSrc u) u va write kind
  else if u < 40 then
    match (s.dmaC (u - 36)).job with
    | some j => (s.setDma (u - 36) { s.dmaC (u - 36) with job := some { j with susp := true, faulted := true } }).unitFault
        (srcDma (u - 36)) u va write kind
    | none => s.unitFault (unitSrc u) u va write kind
  else
    match s.ccp.cmds.find? (fun c => c.done.isNone) with
    | some c => s.cmdError c (.fault va write kind)
    | none => s.unitFault (unitSrc u) u va write kind

/-- TABLE_WALK: an access of a unit to `va` is translated; its miss walks the tables (R361 to R367). A unit that holds a
fault is suspended and makes no access. -/
def State.tableWalk (s : State) (u va : Nat) (write pinned : Bool) : State :=
  if s.on (F.MMU_UNIT_FLT_HI.VALID u) then s else
    match s.translate ⟨unitSrc u, u, noClient, pinned || !mayFault u, none⟩ va write with
    | (.error (.fault va w k), s) => s.suspendUnit u va w k
    | (_, s) => s

def execTableWalk (u : Fin 43) (va : BitVec 48) (write pinned : Bool) (s : State) : Host.Outcome State Fault Refusal :=
  s.running (s.tableWalk u va.toNat write pinned)

/-! ### Resolution (R369, R370) -/

/-- The work of a suspended unit restarts from its restart point, or fails with TranslationError. -/
def State.resolveWork (s : State) (u : Nat) (fail : Bool) : State :=
  if u < 30 then
    match s.vceOfUnit u with
    | some n => if fail then s.vceFailFault n else s.vceRestart n
    | none => s
  else if u < 36 then (if fail then s.cmpFailFault (u - 30) else s.cmpRestart (u - 30))
  else if u < 40 then (if fail then s.dmaFailFault (u - 36) else s.dmaRestart (u - 36))
  else (if fail then s.ccpFailFault else s.ccpRestart)

/-- A write of MMU_RESUME with GO = 1: RESULT 1 and the fault is resolved, or RESULT 2 where the unit holds none. -/
def State.mmuResume (s : State) (u : Nat) (fail : Bool) : State :=
  if u < 43 && s.on (F.MMU_UNIT_FLT_HI.VALID u) then ((s.put F.MMU_RESUME.RESULT 1).clearFault u).resolveWork u fail
  else s.put F.MMU_RESUME.RESULT 2

def wrMmuResume (v : Word) (s : State) : State :=
  if v.getLsbD 31 then s.mmuResume (getBits v 5 0) (v.getLsbD 8) else s

def execMmuResumeRestart (u : Fin 64) (s : State) : Host.Outcome State Fault Refusal :=
  s.running (s.guardWrite R.MMU_RESUME (·.mmuResume u false))

def execMmuResumeFail (u : Fin 64) (s : State) : Host.Outcome State Fault Refusal :=
  s.running (s.guardWrite R.MMU_RESUME (·.mmuResume u true))

/-- MMU_FAULT_TIMEOUT: the fault has been pending for FLT_TMO_MS; with 0 it waits without limit (R370). -/
def State.faultTimeout (s : State) (u : Nat) : State :=
  if s.on (F.MMU_UNIT_FLT_HI.VALID u) && decide (s.get F.MMU_CTL.FLT_TMO_MS ≠ 0) then
    let va := (s.reg (R.MMU_UNIT_FLT_LO u)).toNat + 2 ^ 32 * s.get (F.MMU_UNIT_FLT_HI.VA u)
    ((s.clearFault u).resolveWork u true).post (unitSrc u) 4 5 u va
  else s

def execMmuFaultTimeout (u : Fin 43) (s : State) : Host.Outcome State Fault Refusal := s.running (s.faultTimeout u)

end Sys2Proof.Machine
end

