-- ==== Sys2Proof/Machine/Thermal.lean ====
section
/-! DEFINITION. Thermal management (chapter 21): sensors, the device band and its effects, throttling, the hardware shutdown and
the hold of power-up. -/

namespace Sys2Proof.Machine

def srcThm : Nat := 0x1700

/-- What a faulted sensor reads: 115.000 °C. -/
def faultTemp : Nat := 920

/-- The reading of a sensor, in units of 0.125 °C. -/
def State.sensor (s : State) (n : Nat) : Int := sint (s.get (F.THM_SENS.TEMP n)) 16

/-- A sensor that has a reading. -/
def State.hasReading (s : State) (n : Nat) : Bool := s.on (F.THM_SENS.VALID n) || s.on (F.THM_SENS.FAULT n)

/-- A sensor is faulted (R487); its first fault posts an event. -/
def State.sensorFault (s : State) (n : Nat) : State :=
  let first := !s.on (F.THM_SENS.FAULT n)
  let s := { s with thermal := { s.thermal with hot125 := sset false s.thermal.hot125 n false } }
  ((s.put (F.THM_SENS.FAULT n) 1).put (F.THM_SENS.TEMP n) faultTemp).when first (·.post srcThm 5 6 n faultTemp)

/-! ### Throttle and band (R488 to R492) -/

/-- THROT and SKIP in effect: of THM_CTL when FORCE = 1, else of the device band. -/
def State.throttle (s : State) : State :=
  let b := s.get F.THM_STAT.BAND
  let (t, k) := if s.on F.THM_CTL.FORCE then (s.get F.THM_CTL.THROT, s.get F.THM_CTL.SKIP)
    else (s.get (F.THM_BAND.THROT b), s.get (F.THM_BAND.SKIP b))
  (s.put F.THM_STAT.THROT t).put F.THM_STAT.SKIP k

/-- The die sensor of the highest reading among those not masked, the lowest-numbered of equals. -/
def State.hottest (s : State) : Option Nat :=
  ((List.range 24).filter (fun n => !(s.get F.THM_MASK.MASK).testBit n && s.hasReading n)).foldl
    (fun b n => match b with
      | none => some n
      | some m => if s.sensor m < s.sensor n then some n else b) none

/-- The device band changes everywhere at once (R490): lanes, DRAM channels and the throttle follow. In a freeze only what lies
in the cosy domain does. -/
def State.enterBand (s : State) (b temp : Nat) : State :=
  let s := s.put F.THM_STAT.BAND b
  let s := if s.freezing then s else
    (List.range 8).foldl State.rebandChannel ((List.range 96).foldl State.laneBand s)
  ((s.post srcThm (if b = 4 then 5 else if b = 3 then 3 else 2) 6 (s.get F.THM_STAT.HOT) temp).irq 7).latchWake 5

/-- The device temperature and band after a conversion. With every die sensor masked the temperature is 115.000 °C. -/
def State.evaluate (s : State) : State :=
  let all := decide (s.get F.THM_MASK.MASK = 2 ^ 24 - 1)
  match s.hottest, all with
  | none, false => s
  | h, _ =>
    let t : Int := match h with
      | none => faultTemp
      | some n => s.sensor n
    let s := (s.put F.THM_STAT.TEMP (twos t 16)).put F.THM_STAT.HOT (h.getD 0)
    let b := nextBand (s.get F.THM_STAT.BAND) t
    let s := if b = s.get F.THM_STAT.BAND then s else s.enterBand b (twos t 16)
    (s.throttle).putB F.THM_STAT.THERM (decide (b = 4) || s.thermal.holding)

/-- The module temperature: the higher of sensors 24 and 25, the lowest number for one that has no reading. -/
def State.moduleTemp (s : State) : Int :=
  let t (n : Nat) : Int := if s.hasReading n then s.sensor n else -32768
  max (t 24) (t 25)

/-- The module temperature reaches THM_MODLIM.LIMIT (R491); `was` is what it was. -/
def State.moduleLimit (s : State) (was : Int) (n : Nat) : State :=
  let lim := sint (s.get F.THM_MODLIM.LIMIT) 16
  if was < lim ∧ lim ≤ s.moduleTemp then (s.put F.THM_MODLIM.OVER 1).post srcThm 4 6 n (s.get (F.THM_SENS.TEMP n)) else s

/-! ### Hardware shutdown (R493) -/

/-- The shutdown record (Table 21.4). -/
def State.shutdownRecord (s : State) (n temp count : Nat) : List Byte :=
  let b := leBytes 4 0x4453584B ++ leBytes 1 1 ++ leBytes 1 n ++ leBytes 2 temp ++ leBytes 8 s.time.sec.toNat ++
    leBytes 4 s.time.ns.toNat ++ leBytes 4 count ++ leBytes 1 s.power.mode.num ++ zeros 35
  b ++ leBytes 4 (crc32c b)

/-- The record is written, the severity-7 event placed past the intake, and power goes down (Table 21.3). -/
def State.shutdown (s : State) (n temp : Nat) : State :=
  let count := s.thermal.shutdowns.toNat + 1
  let s := s.put F.THM_STAT.THERM 1
  let s := { s.setBytes shutdownAt (s.shutdownRecord n temp count) with
    thermal := { s.thermal with shutdowns := BitVec.ofNat 32 count } }
  (s.place ⟨BitVec.ofNat 16 srcThm, BitVec.ofNat 16 (0x6000 + n), 7, s.now, BitVec.ofNat 64 temp⟩ false).powerDown true

/-! ### Commands -/

/-- A conversion of sensor n, in units of 0.125 °C; a reading outside −55 °C to 150 °C is a fault. -/
def State.converted (s : State) (n temp : Nat) : State :=
  let t := sint temp 16
  let was := s.moduleTemp
  let s := s.put (F.THM_SENS.VALID n) 1
  if t < -440 ∨ 1200 < t then ((s.sensorFault n).moduleLimit was n).evaluate
  else
    let s := (s.put (F.THM_SENS.FAULT n) 0).put (F.THM_SENS.TEMP n) temp
    let hot := decide (n < 24 ∧ 1000 ≤ t)
    if hot && sget false s.thermal.hot125 n then s.shutdown n temp
    else (({ s with thermal := { s.thermal with hot125 := sset false s.thermal.hot125 n hot } }).moduleLimit was n).evaluate

def execSensorConversion (n : Fin 26) (temp : Half) (s : State) : Host.Outcome State Fault Refusal :=
  .next (if s.power.cosy then s.converted n temp.toNat else s)

/-- SENSOR_TIMEOUT: no conversion for 1 ms. -/
def execSensorTimeout (n : Fin 26) (s : State) : Host.Outcome State Fault Refusal :=
  .next (if s.power.cosy then (s.sensorFault n).moduleLimit s.moduleTemp n else s)

/-- A valid die sensor reads 100 °C or more. -/
def State.dieHot (s : State) : Bool :=
  (List.range 24).any (fun n => s.on (F.THM_SENS.VALID n) && !s.on (F.THM_SENS.FAULT n) && decide (800 ≤ s.sensor n))

/-- POWERUP_THERMAL_HOLD: the supervisor checks again (R494). -/
def execPowerupThermalHold (s : State) : Host.Outcome State Fault Refusal :=
  .next (if s.thermal.holding ∧ !s.dieHot then s.passStep3.putB F.THM_STAT.THERM (decide (s.get F.THM_STAT.BAND = 4)) else s)

/-! ### Registers -/

/-- THM_MASK shows in the sensors' MASKED bits. -/
def wrThmMask (src : Nat) (v : Word) (s : State) : State :=
  let s := s.plainWrite src R.THM_MASK v
  (List.range 24).foldl (fun s n => s.putB (F.THM_SENS.MASKED n) ((s.get F.THM_MASK.MASK).testBit n)) s

/-- THM_CTL and THM_BANDb take effect at once (R492). -/
def wrThmThrottle (src off : Nat) (v : Word) (s : State) : State := (s.plainWrite src off v).throttle

end Sys2Proof.Machine
end

