-- ==== Sys2Proof/Machine/Bus.lean ====
section
/-! DEFINITION. The control register bus (R3 to R7, R27): which register an access reaches and what a write or a read of it
does. A register with a row of its own acts here as that row does. -/

namespace Sys2Proof.Machine

/-- An offset at which a register is implemented (R5). -/
def implemented (off : Nat) : Bool := (regDefAt off).isSome

/-- Which copy of a register group an offset lies in. -/
def copyOf (off base stride : Nat) : Nat := (off - base) / stride

/-! ### Writes, block by block -/

def wrSys (src off : Nat) (v : Word) (s : State) : State :=
  if off = R.SYS_RESET then (if v.getLsbD 31 then s.warmReset 2 else s) else s.plainWrite src off v

def wrSec (src off : Nat) (v : Word) (s : State) : State :=
  if off = R.SEC_REVOKE then wrSecRevoke src v s
  else if off = R.SEC_BOOT then wrSecBoot v s
  else s.plainWrite src off v

def wrFab (src off : Nat) (v : Word) (s : State) : State :=
  if off = R.FAB_LOAD then wrFabLoad src v s
  else if off ≤ R.FAB_LOAD_LEN then wrFabAddr src off v s
  else if off = R.FAB_RETAIN_LO ∨ off = R.FAB_RETAIN_HI then wrFabRetain src off v s
  else if off = R.FAB_COMMIT then wrFabCommit src v s
  else s.plainWrite src off v

def wrTile (src off : Nat) (v : Word) (s : State) : State :=
  match ixPort off with
  | some x => x.write v s
  | none => s.plainWrite src off v

def wrLnk (src off : Nat) (v : Word) (s : State) : State :=
  if off = R.LNK_REFCFG then wrLnkRefcfg src v s
  else if 0x78000 ≤ off then s.plainWrite src off v
  else
    let l := copyOf off 0x60000 0x400
    if off = R.LNK_TXEQ l then wrLnkTxeq l src v s
    else if off = R.LNK_RECAL l then wrLnkRecal l v s
    else if off = R.LNK_SLIP l then wrLnkSlip l v s
    else if off = R.LNK_PRBS l then wrLnkPrbs l src v s
    else s.plainWrite src off v

def wrSlk (src off : Nat) (v : Word) (s : State) : State :=
  let p := copyOf off 0x80000 0x100
  if off = R.SLK_RXCFG p then wrSlkRxcfg p src v s
  else if off = R.SLK_TXCFG p then wrSlkTxcfg p src v s
  else if off = R.SLK_SYNCCTL p then wrSlkSyncctl p src v s
  else s.plainWrite src off v

def wrScp (src off : Nat) (v : Word) (s : State) : State :=
  let p := copyOf off 0x90000 0x1000
  if off = R.SCP_CFG p then (s.plainWrite src off v).scpNext p
  else if off = R.SCP_CMDCTL p then wrScpCmdctl p v s
  else if off = R.SCP_BMEM_DATA p then wrScpBmem p v s
  else if off = R.SCP_TFILE_DATA p then wrScpTfile p v s
  else if off < R.SCP_BDESC p 0 then s.plainWrite src off v
  else
    let k := copyOf off (R.SCP_BDESC p 0) 0x10
    if off = R.SCP_BDESC p k then wrScpBdesc p k v s else wrScpBurstReg p k src off v s

def wrSdi (src off : Nat) (v : Word) (s : State) : State :=
  let n := copyOf off 0xA1000 0x100
  if off < 0xA1000 ∨ 0xA2000 ≤ off then s.plainWrite src off v
  else if off = R.SDI_OUT_CFG n then wrSdiOutCfg n src v s
  else if off = R.SDI_OUT_FMT n then wrSdiOutFmt n src v s
  else s.plainWrite src off v

def wrCmp (src off : Nat) (v : Word) (s : State) : State :=
  let q := copyOf off 0xC0100 0x40
  if off = R.CMP_CFG then wrCmpCfg src v s
  else if off = R.CMP_ABORT then wrCmpAbort v s
  else if off < 0xC0100 then s.plainWrite src off v
  else if 0xC0400 ≤ off then wrCmpSaveArea src off v s
  else if off = R.CMP_Q_CTL q then wrCmpCtl q src v s
  else if off = R.CMP_Q_SQ_IDX q then wrCmpSqIdx q src v s
  else if off = R.CMP_Q_CQ_IDX q then wrCmpCqIdx q src v s
  else if off < R.CMP_Q_SQ_IDX q then wrCmpRing q src off v s
  else s.plainWrite src off v

def wrDrc (src off : Nat) (v : Word) (s : State) : State :=
  let ch := copyOf off 0xD0000 0x4000
  if off = R.DRC_CTRL ch then s.wrDrcCtrl ch v
  else if off = R.DRC_MAPCTL then s.wrDrcMapctl v
  else if R.DRC_MASKLO 0 ≤ off ∧ off ≤ R.DRC_HOME1 then s.wrDrcMap src off v
  else s.plainWrite src off v

def wrMmu (src off : Nat) (v : Word) (s : State) : State :=
  if off = R.MMU_CTL then wrMmuCtl src v s
  else if off = R.MMU_INV then wrMmuInv src v s
  else if off = R.MMU_RESUME then wrMmuResume v s
  else if 0x110200 ≤ off ∧ off < 0x110800 then
    let u := copyOf off 0x110200 0x20
    if off = R.MMU_UNIT_CFG u then wrMmuUnitCfg u src v s else s.plainWrite src off v
  else if 0x110800 ≤ off then
    let c := copyOf off 0x110800 0x40
    if off = R.MMU_DMA_CTL c then wrDmaCtl c src v s
    else if off < R.MMU_DMA_SQ_IDX c then wrDmaRing c src off v s
    else if off = R.MMU_DMA_CQ_IDX c then wrDmaCqIdx c src v s
    else s.plainWrite src off v
  else s.plainWrite src off v

def wrEth (src off : Nat) (v : Word) (s : State) : State :=
  if 0x122000 ≤ off then
    if off = R.ETH_KEYTAB_LO ∨ off = R.ETH_KEYTAB_HI then wrEthKeytab src off v s
    else if off = R.ETH_QP_SEL then wrEthQpSel src v s
    else s.plainWrite src off v
  else
    let p := copyOf off 0x120000 0x1000
    if off = R.ETH_CFG p then wrEthCfg p src v s
    else if R.ETH_MAC_LO p ≤ off ∧ off < R.ETH_PFC p then wrEthAddr p src off v s
    else s.plainWrite src off v

def wrCcp (src off : Nat) (v : Word) (s : State) : State :=
  if off = R.CCP_CTL then wrCcpCtl src v s
  else if R.CCP_STORE_LO ≤ off ∧ off ≤ R.CCP_INDEX_HI then wrCcpClosed src off v s
  else if off = R.CCP_LQ_CTL then wrCcpLqCtl src v s
  else if R.CCP_LQ_SQ_LO ≤ off ∧ off ≤ R.CCP_LQ_CQ_HI then wrCcpLqRing src off v s
  else if off = R.CCP_LQ_SQ_IDX ∨ off = R.CCP_LQ_CQ_IDX then wrCcpLqIdx src off v s
  else s.plainWrite src off v

def wrTim (src off : Nat) (v : Word) (s : State) : State :=
  if off = R.TIM_CTL then wrTimCtl src v s
  else if off = R.TIM_STEP then wrTimStep v s
  else if off = R.TIM_SLEW then wrTimSlew v s
  else if 0x140100 ≤ off ∧ off < 0x140300 then
    let k := copyOf off 0x140100 0x20
    if off = R.TIM_TRG_CFG k then wrTrgCfg k v s
    else if off ≤ R.TIM_TRG_PFRAC k then wrTrgClosed k src off v s
    else s.plainWrite src off v
  else s.plainWrite src off v

def wrAud (src off : Nat) (v : Word) (s : State) : State :=
  if off ≤ R.AUD_PLL_DEN then wrAudPll src off v s
  else if off < 0x150100 then wrAudGrp (copyOf off 0x150010 4) v s
  else if 0x150800 ≤ off then s.plainWrite src off v
  else
    let n := copyOf off 0x150100 0x80
    if off = R.AUD_P_CFG n then wrAudCfg n src v s
    else if [R.AUD_P_DIV n, R.AUD_P_DIVF n, R.AUD_P_TXR_LO n, R.AUD_P_TXR_HI n, R.AUD_P_RXR_LO n, R.AUD_P_RXR_HI n, R.AUD_P_RING n].contains off then
      wrAudClosed n src off v s
    else s.plainWrite src off v

def wrPwr (src off : Nat) (v : Word) (s : State) : State :=
  if off = R.PWR_CTL then wrPwrCtl src v s
  else if off = R.PWR_CLKSEL then wrPwrClksel src v s
  else if off = R.PWR_RAIL then wrPwrRail src v s
  else if 0x160100 ≤ off ∧ off < 0x160400 then wrPwrDom (copyOf off 0x160100 4) src v s
  else s.plainWrite src off v

def wrThm (src off : Nat) (v : Word) (s : State) : State :=
  if off = R.THM_MASK then wrThmMask src v s
  else if off = R.THM_CTL ∨ 0x170040 ≤ off ∧ off < 0x170100 then wrThmThrottle src off v s
  else s.plainWrite src off v

def wrEvt (src off : Nat) (v : Word) (s : State) : State :=
  if off = R.EVT_CLEAR then wrEvtClear v s
  else if off = R.EVT_POST then wrEvtPost src v s
  else if off = R.EVT_POST_DATA_LO then wrEvtPostData src false v s
  else if off = R.EVT_POST_DATA_HI then wrEvtPostData src true v s
  else s.plainWrite src off v

def wrCpu (src off : Nat) (v : Word) (s : State) : State :=
  if off = R.CPU_WDOG then wrCpuWdog src v s
  else if off < 0x1A0080 then
    let c := copyOf off 0x1A0000 0x20
    if off = R.CPU_CORE_CTL c then wrCoreCtl c v s else s.plainWrite src off v
  else s.plainWrite src off v

def wrGpioBlock (src off : Nat) (v : Word) (s : State) : State :=
  if off = R.GPIO_OUT ∨ off = R.GPIO_OE then wrGpio src off v s
  else if 0x1B0020 ≤ off then wrGpioTout (copyOf off 0x1B0020 4) src v s
  else s.plainWrite src off v

/-- The effect of a write that reaches its register. -/
def regWrite (src off : Nat) (v : Word) (s : State) : State :=
  match off / 0x10000 with
  | 0x00 => wrSys src off v s
  | 0x01 => wrSec src off v s
  | 0x02 => wrFab src off v s
  | 0x03 | 0x04 | 0x05 => wrTile src off v s
  | 0x06 | 0x07 => wrLnk src off v s
  | 0x08 => wrSlk src off v s
  | 0x09 => wrScp src off v s
  | 0x0A => wrSdi src off v s
  | 0x0B => wrVce src off v s
  | 0x0C => wrCmp src off v s
  | 0x0D | 0x0E => wrDrc src off v s
  | 0x11 => wrMmu src off v s
  | 0x12 => wrEth src off v s
  | 0x13 => wrCcp src off v s
  | 0x14 => wrTim src off v s
  | 0x15 => wrAud src off v s
  | 0x16 => wrPwr src off v s
  | 0x17 => wrThm src off v s
  | 0x18 => wrEvt src off v s
  | 0x19 => if off = R.DBG_CTL then wrDbgCtl src v s else s.plainWrite src off v
  | 0x1A => wrCpu src off v s
  | 0x1B => wrGpioBlock src off v s
  | _ => s.plainWrite src off v

/-! ### Reads -/

/-- CPU_IRQ_STAT: the latched sources, and the level ones (Table 22.1). -/
def irqView (s : State) : Word :=
  let mmu := s.reg R.MMU_FAULT_PEND0 != 0 || s.reg R.MMU_FAULT_PEND1 != 0
  let time := s.get F.TIM_IRQ.FIRED &&& s.get F.TIM_IRQ_EN.EN != 0
  setBits (setBits (s.reg R.CPU_IRQ_STAT) 1 1 (if mmu then 1 else 0)) 2 2 (if time then 1 else 0)

/-- EVT_STAT: intake entries and suppressed counts in use. -/
def evtView (s : State) : Word := BitVec.ofNat 32 (s.evt.supp.length * 2 ^ 16 + s.evt.intake.length)

/-- VCE_STAT (Table 11.11). -/
def vceView (s : State) : Word :=
  let busy (u n : Nat) : Nat := (List.range n).foldl (fun m e => m + if s.vceBusy (u + e) then 2 ^ e else 0) 0
  BitVec.ofNat 32 (((List.range 32).filter (fun n => s.vceState n != 0)).length * 2 ^ 24 + busy 24 6 * 2 ^ 8 + busy 22 2)

/-- Frames of a source that wait in the queue, as ING_STAT2.QWAIT shows them. -/
def State.queueWait (s : State) (t : Nat) : Nat :=
  match s.brewOfRoot t with
  | none => 0
  | some (b, _) => min 7 ((s.waiting b t).filter (·.slot.isSome)).length

/-- A register as a read finds it. -/
def regView (src off : Nat) (s : State) : Word :=
  match off / 0x10000 with
  | 0x01 => rdSec off s
  | 0x02 => if off = R.FAB_REGION_STAT then regionView s else s.reg off
  | 0x03 =>
    let t := copyOf off 0x30000 0x1000
    if t < 4 ∧ off % 0x800 = 0x44 ∧ off % 0x1000 / 0x800 = s.ingCtx t then setBits (s.reg off) 26 24 (s.queueWait t)
    else if t < 4 ∧ off % 0x800 = 0x58 then setBits (s.reg off) 31 16 (getBits (s.reg off) 31 16 % ringSize (getBits (s.reg off) 3 0) 1 12)
    else s.reg off
  | 0x05 =>
    let t := copyOf off 0x30000 0x1000
    if 36 ≤ t ∧ t < 40 ∧ off % 0x800 = 0x6C then setBits (s.reg off) 2 0 (min 7 ((s.anaRun t).bq.filter (fun e => !(s.anaRun t).reads e.slot)).length) else s.reg off
  | 0x06 | 0x07 =>
    let l := copyOf off 0x60000 0x400
    if 0x78000 ≤ off then (if off = R.LNK_REFSTAT then setBits (s.reg off) 0 0 (getBits (s.reg R.PWR_PLL) 5 5) else s.reg off)
    else if off = R.LNK_SLIP l then setBits (s.reg off) 20 16 (s.slipWidth l)
    else if off = R.LNK_STAT l then s.statView l
    else if off = R.LNK_RXEQ l then s.rxeqView l
    else s.reg off
  | 0x0A =>
    if off = R.SDI_GLK_STAT then setBits (s.reg off) 31 31 (if s.bit F.PWR_PLL.LOCK 6 && !s.on F.SDI_GLK_STAT.HOLDOVER then 1 else 0)
    else s.reg off
  | 0x0B => if off = R.VCE_STAT then vceView s else s.reg off
  | 0x12 => if off = R.ETH_QP_STAT then s.qpStat else s.reg off
  | 0x14 => if off = R.TIM_SLEW then slewView s else s.reg off
  | 0x16 => if off = R.PWR_KETTLE then kettleView s else s.reg off
  | 0x18 =>
    if off = R.EVT_STAT then evtView s
    else if off = R.EVT_POST_DATA_LO then rdEvtPostData src false s
    else if off = R.EVT_POST_DATA_HI then rdEvtPostData src true s
    else s.reg off
  | 0x1A => if off = R.CPU_IRQ_STAT then irqView s else s.reg off
  | 0x1B => if off = R.GPIO_IN then gpioInView s else s.reg off
  | _ => s.reg off

/-- The RC fields of a register clear (R6, R7). The low and high marks of the caddy begin again from the present count. -/
def State.clearRc (s : State) (off : Nat) : State :=
  match regDefAt off with
  | none => s
  | some d =>
    if d.fields.all (fun f => f.acc != .rc) then s else
      let s := s.wreg off (d.fields.foldl (fun w f => if f.acc = .rc then w &&& ~~~(fmask f.hi f.lo) else w) (s.reg off))
      if off = R.CAD_FREE then s.put F.CAD_FREE.LOW (s.get F.CAD_FREE.FREE)
      else if 0x100100 ≤ off ∧ off < 0x100180 ∧ off % 0x10 = 8 then
        let c := copyOf off 0x100100 0x10
        s.put (F.CAD_CL_HELD.PEAK c) (s.get (F.CAD_CL_HELD.HELD c))
      else if 0xF0100 ≤ off ∧ off < 0xF0300 ∧ off % 0x10 = 0xC then
        let c := copyOf off 0xF0100 0x10
        s.setClient c { s.client c with reported := false }
      else s

/-- A read of a plain register: its value, and its RC fields clear. -/
def rdPlain (src off : Nat) (s : State) : Word × State := (regView src off s, s.clearRc off)

def rdTile (src off : Nat) (s : State) : Word × State :=
  match ixPort off with
  | some x => x.read s
  | none =>
    let t := copyOf off 0x30000 0x1000
    let c := off % 0x1000 / 0x800
    if t < 4 ∧ off = R.ING_SEQ_LO t c then rdIngSeqLo t c s
    else if tileKind t = .pat ∧ off = R.PAT_SEQ_LO (t - 34) c then rdPatSeqLo (t - 34) c s
    else rdPlain src off s

def rdScp (src off : Nat) (s : State) : Word × State :=
  let p := copyOf off 0x90000 0x1000
  if off = R.SCP_BMEM_DATA p then rdScpBmem p s
  else if off = R.SCP_TFILE_DATA p then rdScpTfile p s
  else rdPlain src off s

def rdTim (src off : Nat) (s : State) : Word × State :=
  if off = R.TIM_NOW_NS then rdTimNowNs s
  else if 0x140300 ≤ off ∧ off % 0x10 = 0 then rdCapNs (copyOf off 0x140300 0x10) s
  else rdPlain src off s

def rdAud (src off : Nat) (s : State) : Word × State :=
  let n := copyOf off 0x150100 0x80
  if 0x150100 ≤ off ∧ off < 0x150800 ∧ off = R.AUD_P_FRAME_LO n then rdAudFrameLo n s else rdPlain src off s

def rdPwr (src off : Nat) (s : State) : Word × State :=
  if 0x160800 ≤ off ∧ off % 8 = 0 then rdPwrDresLo (copyOf off 0x160800 8) s
  else if 0x160400 ≤ off ∧ off < 0x160800 ∧ off % 8 = 0 then rdPwrSresLo (copyOf off 0x160400 8) s
  else rdPlain src off s

/-- A read that reaches its register: its value, and what reading does. -/
def regRead (src off : Nat) (s : State) : Word × State :=
  match off / 0x10000 with
  | 0x03 | 0x04 | 0x05 => rdTile src off s
  | 0x09 => rdScp src off s
  | 0x14 => rdTim src off s
  | 0x15 => rdAud src off s
  | 0x16 => rdPwr src off s
  | 0x18 => if off = R.EVT_LAST_LO then rdEvtLastLo s else rdPlain src off s
  | _ => rdPlain src off s

/-! ### The bus -/

/-- A write at a window offset; `word` says that it is a 32-bit access. -/
def State.busWrite (s : State) (src off : Nat) (word : Bool) (v : Word) : State :=
  if off % 4 ≠ 0 ∨ !word ∨ !implemented off then s else s.guardWrite off (regWrite src off v)

/-- A read at a window offset. -/
def State.busRead (s : State) (src off : Nat) (word : Bool) : Word × State :=
  if off % 4 ≠ 0 ∨ !word ∨ !implemented off then (0, s) else s.guardRead off (regRead src off)

def execRegisterWrite (off : Nat) (v : Word) (word : Bool) (src : Nat) (s : State) : Host.Outcome State Fault Refusal :=
  s.running (s.busWrite src off word v)

def execReadClearField (off : Nat) (word : Bool) (src : Nat) (s : State) : Host.Outcome State Fault Refusal :=
  s.running (State.answer (s.busRead src off word))

/-! ### REG_READ and REG_WRITE (R427) -/

def State.busReads (s : State) (src : Nat) : Nat → Nat → List Byte × State
  | _, 0 => ([], s)
  | off, n + 1 =>
    let (w, s) := s.busRead src off true
    let (r, s) := s.busReads src (off + 4) n
    (leBytes 4 w.toNat ++ r, s)

def State.busWrites (s : State) (src : Nat) : Nat → List (List Byte) → State
  | _, [] => s
  | off, b :: r => (s.busWrite src off true (BitVec.ofNat 32 (leNat b))).busWrites src (off + 4) r

def doRegRead (c : CcpCmd) (s : State) : State :=
  let (b, s) := s.busReads srcCcp (c.f 0x20 4) (c.f 0x24 2)
  s.answerHost c b 0

def doRegWrite (data : List Byte) (c : CcpCmd) (s : State) : State :=
  let n := c.f 0x24 2
  match s.hostRead c 0 (4 * n) data with
  | (.error e, s) => s.cmdError c e
  | (.ok b, s) => (s.busWrites srcCcp (c.f 0x20 4) (chunks 4 (padTo (4 * n) b))).finish c 0 0

def execRegRead (q : Fin 65) (cid : Half) (s : State) : Host.Outcome State Fault Refusal := s.running (s.perform q cid.toNat 0x86 doRegRead)

def execRegWrite (q : Fin 65) (cid : Half) (data : List Byte) (s : State) : Host.Outcome State Fault Refusal :=
  s.running (s.perform q cid.toNat 0x87 (doRegWrite data))

end Sys2Proof.Machine
end

