-- ==== Sys2Proof/Machine/Jtag.lean ====
section
/-! DEFINITION. The debug port (R527 to R531): boundary scan, the snapshot chains, memory access with the device running or
frozen, warm reset from the TAP. -/

namespace Sys2Proof.Machine

/-- The TAP works while domain 147 has power; in Hibernate it is held in reset (R526). -/
def State.tapOn (s : State) : Bool := s.power.cosy && s.power.mode != .hibernate

/-- A new instruction is loaded. Leaving EXTEST returns the lands to their owners. -/
def State.setIr (s : State) (code : Nat) : State :=
  let s := if s.jtag.ir = 0 ∧ code ≠ 0 then s.emit "lands" 0 [] else s
  { s with jtag := { s.jtag with ir := code } }

/-- A JTAG scan: nothing without the TAP. -/
def State.scan (s : State) (code : Nat) (f : State → State) : State := if s.tapOn then f (s.setIr code) else s

/-! ### IEEE 1149.1 instructions (R527) -/

def execIdcode (s : State) : Host.Outcome State Fault Refusal :=
  .next (s.scan 0x02 (fun s => { s with rdata := [0x29600E4D] }))

/-- A bit as a word. -/
def bitWord (b : Bool) : Word := if b then 1 else 0

/-- The boundary-scan register captures the lands' levels and takes the bits shifted in. -/
def State.boundaryScan (s : State) (pins data : List Bool) : State :=
  { s with rdata := pins.map bitWord, jtag := { s.jtag with boundary := data } }

/-- The levels that the boundary-scan register drives. -/
def State.driveLands (s : State) : State := s.emit "lands" 0 (s.jtag.boundary.map (fun b => if b then 1 else 0))

/-- EXTEST: the register drives the lands as preloaded, then as scanned. -/
def execExtest (pins data : List Bool) (s : State) : Host.Outcome State Fault Refusal :=
  .next (if s.tapOn then
      let t := if s.jtag.ir = 0 then s else (s.setIr 0).driveLands
      (t.boundaryScan pins data).driveLands
    else s)

def execSamplePreload (pins data : List Bool) (s : State) : Host.Outcome State Fault Refusal :=
  .next (s.scan 0x01 (·.boundaryScan pins data))

/-- BYPASS or any code of no instruction; the register captures 0. -/
def execBypass (code : Byte) (s : State) : Host.Outcome State Fault Refusal :=
  .next (s.scan code.toNat (fun s => { s with rdata := [0] }))

/-- FREEZE: its Update-DR requests a freeze (R521). -/
def execFreeze (s : State) : Host.Outcome State Fault Refusal := .next (s.scan 0x10 (·.requestFreeze 3))

/-- WARMRST (R531). -/
def execWarmrst (s : State) : Host.Outcome State Fault Refusal := .next (s.scan 0x15 (·.warmReset 4))

/-- JTAG_TRST_N loads IDCODE and resets nothing else. -/
def execJtagTrst (s : State) : Host.Outcome State Fault Refusal := .next (if s.power.cosy then s.setIr 2 else s)

/-! ### Snapshot chains (R528, Table 23.3) -/

/-- The offsets of a register's copies. -/
def copies (base : Nat) : List (Nat × Nat) → List Nat
  | [] => [base]
  | (stride, n) :: r => (List.range n).flatMap (fun i => copies (base + stride * i) r)

/-- The window blocks whose registers a chain may hold. -/
def chainBlocks (n : Nat) : List Nat :=
  if n = 148 then [0x00, 0x09, 0x0A, 0x0B, 0x0C, 0x0D, 0x0E, 0x12, 0x15, 0x16, 0x17, 0x18, 0x1B]
  else (domainRanges n).map (fun r => r.1 / 0x10000)

/-- The registers of a chain in ascending offset; the cosy chain holds the blocks of no named domain (log 7). -/
def chainOffs (n : Nat) : List Nat :=
  let mine (off : Nat) : Bool := implemented off && domainOf off == (if n = 148 then none else some n)
  isort (fun a b => decide (a ≤ b)) (((chainBlocks n).flatMap (fun b =>
    ((regMapOf b).flatMap (fun d => copies d.base d.dims)).filter (fun o => o / 0x10000 == b))).filter mine)

/-- The state that a chain shows: the cosy domain runs on, every other register stands as it stood (R528, R529). -/
def State.frozenView (s : State) (n : Nat) : State := if n = 148 then s else { s with regs := s.jtag.held }

/-- A 64-bit value as two words, the low word first. -/
def twoWords (v : BitVec 64) : List Word := [v.setWidth 32, v.extractLsb' 32 32]

/-- A queued write: address, data, byte enables. -/
def QWrite.words (w : QWrite) : List Word :=
  let word (n i : Nat) : Word := BitVec.ofNat 32 (n / 2 ^ (32 * i))
  [word w.addr 0, word w.addr 1] ++ (List.range 16).map (word (leNat w.data)) ++ [word w.mask 0, word w.mask 1]

/-- Internal words: x0, then free values for the cores' other registers (the cores are no part of the model); the write queue of
a DRAM slice, then the row saved in training (log 14). -/
def State.internalWords (s : State) (n : Nat) : List Word :=
  if 119 ≤ n ∧ n < 123 then
    [0, 0] ++ (List.range 64).flatMap (fun i => twoWords (Config.freeWord (s.jtag.snap + 130 * (n - 119) + i)))
  else if 72 ≤ n ∧ n < 88 then
    let q := s.queueOf (n - 72)
    let row := if s.bit F.DBG_STAT.DRAM_DIRTY ((n - 72) / 2) then
        (List.range 2048).map (fun i => (Config.freeWord (s.jtag.snap + 520 + 2048 * ((n - 72) / 2) + i)).setWidth 32)
      else []
    BitVec.ofNat 32 q.length :: q.flatMap QWrite.words ++ row
  else []

/-- The state of the domain of a chain; the cosy domain is On. -/
def State.chainDom (s : State) (n : Nat) : Nat := if n = 148 then 2 else s.dom n

/-- The words of chain `n`. -/
def State.chainWords (s : State) (n : Nat) : List Word :=
  let s := s.frozenView n
  let off := s.chainDom n = 0
  let regs := if off then [] else (chainOffs n).map (fun o => (regRead srcDebug o s).1)
  let inner := if off then [] else s.internalWords n
  let w : List Word := BitVec.ofNat 32 (n + s.chainDom n * 2 ^ 16) :: BitVec.ofNat 32 regs.length :: BitVec.ofNat 32 inner.length ::
    (regs ++ inner)
  w ++ [BitVec.ofNat 32 (crc32c (w.flatMap (fun x => leBytes 4 x.toNat)))]

/-- SNAP_SEL: the next scan reads word 0 of the chain. -/
def execSnapSel (chain : Half) (s : State) : Host.Outcome State Fault Refusal :=
  .next (s.scan 0x11 (fun s => { s with jtag := { s.jtag with chain := chain.toNat, word := 0 } }))

/-- One word of the selected chain; past its end, or of a chain that does not exist, a free value. -/
def State.snapData (s : State) : State :=
  if !s.on F.DBG_STAT.FROZEN then { s with rdata := [0] } else
    let s' := { s with jtag := { s.jtag with word := s.jtag.word + 1 } }
    match if s.jtag.chain ≤ 148 then (s.chainWords s.jtag.chain)[s.jtag.word]? else none with
    | some w => { s' with rdata := [w] }
    | none =>
      let (v, s') := s'.takeFree
      { s' with rdata := [v.setWidth 32] }

def execSnapData (s : State) : Host.Outcome State Fault Refusal := .next (s.scan 0x12 State.snapData)

/-! ### Memory access (R529, R530) -/

/-- The result that a capture returns: data and STATUS. While an access is pending STATUS is 1 and the data is a free value; before
any access both are free values. -/
def State.drCapture (s : State) : BitVec 64 × Nat × State :=
  match s.jtag.access, s.jtag.result with
  | some _, _ =>
    let (v, s) := s.takeFree
    (v, 1, s)
  | none, some (d, st) => (BitVec.ofNat 64 d, st, s)
  | none, none =>
    let (v, s) := s.takeFree
    let (w, s) := s.takeFree
    (v, w.toNat % 4, s)

/-- MEMACC: the last result is captured, and the access starts unless one is pending. -/
def State.memAcc (s : State) (data : BitVec 64) (addr : BitVec 40) (write autoinc : Bool) : State :=
  let pending := s.jtag.access.isSome
  let (v, st, s) := s.drCapture
  let s := { s with rdata := twoWords v ++ [BitVec.ofNat 32 st] }
  if pending then s else
    let a := addr.toNat / 8 * 8
    { s with jtag := { s.jtag with access := some (a, if write then some (leBytes 8 data.toNat) else none), auto := autoinc, at_ := a + 8 } }

def execMemacc (data : BitVec 64) (addr : BitVec 40) (write autoinc : Bool) (s : State) : Host.Outcome State Fault Refusal :=
  .next (s.scan 0x13 (·.memAcc data addr write autoinc))

/-- MEMSTREAM: the next word, and the read of the word after it. -/
def State.memStream (s : State) : State :=
  let pending := s.jtag.access.isSome
  let (v, _, s) := s.drCapture
  let s := { s with rdata := twoWords v }
  if pending || !s.jtag.auto then s else
    { s with jtag := { s.jtag with access := some (s.jtag.at_, none), at_ := (s.jtag.at_ + 8) % 2 ^ 40 } }

def execMemstream (s : State) : Host.Outcome State Fault Refusal := .next (s.scan 0x14 State.memStream)

/-- The debug port's requester: client 31, physical addresses. -/
def debugReq : Req := ⟨srcDebug, 0xFFF, 31, true, none⟩

/-- An access to the register window, as two aligned words (R3). -/
def State.debugAt (s : State) (off : Nat) (w : Option (List Byte)) : (Nat × Nat) × State :=
  match w with
  | some b => ((leNat b, 0), s.busWrites srcDebug off (chunks 4 b))
  | none =>
    let (b, s) := s.busReads srcDebug off 2
    ((leNat b, 0), s)

def State.debugWindow (s : State) (a : Nat) (w : Option (List Byte)) : (Nat × Nat) × State := s.debugAt (a - 0x4100000000) w

/-- The access while the device runs. A DRAM channel that is not in service fails (R321) with free data. -/
def State.debugRunning (s : State) (a : Nat) (w : Option (List Byte)) : (Nat × Nat) × State :=
  match region a, w with
  | .window, _ => s.debugWindow a w
  | .nvs, some b => ((leNat b, 0), s.nvsWrite srcDebug a b)
  | .outside, _ => ((0, 3), s.outsideMap srcDebug 0xFFF a)
  | .coreLocal, _ => ((0, 3), s.outsideMap srcDebug 0xFFF a)
  | .dram, some b => if s.dramReady a then ((leNat b, 0), (s.physWrite debugReq a b).2) else ((leNat b, 2), (s.physWrite debugReq a b).2)
  | _, some b => ((leNat b, 0), (s.physWrite debugReq a b).2)
  | r, none =>
    match s.physRead debugReq a 8 with
    | (.ok b, s) => ((leNat b, 0), s)
    | (.error _, t) =>
      if r = .dram ∧ !s.dramReady a then
        let (v, t) := t.takeFree
        ((v.toNat, 2), t)
      else ((leNat (s.bytes a 8), 2), t)

/-- Bytes read or written in place, with their parity. -/
def State.debugCells (s : State) (a : Nat) (w : Option (List Byte)) : (Nat × Nat) × State :=
  let l := (List.range 8).map (· + a)
  match w with
  | some b => ((leNat b, 0), (s.setBytes a b).clearBad l)
  | none => ((leNat (s.bytes a 8), if l.any s.badPar.contains then 2 else 0), s)

/-- Window blocks that run on in a freeze, or that the debug port itself holds. -/
def runsOn (a : Nat) : Bool := [0x16, 0x17, 0x18, 0x19].contains ((a - 0x4100000000) / 0x10000)

/-- The access while the device is frozen: no register of a stopped block changes. A channel with no rows to read, and a stopped
block, give free data. -/
def State.debugFrozen (s : State) (a : Nat) (w : Option (List Byte)) : (Nat × Nat) × State :=
  let blind (st : Nat) (s : State) : (Nat × Nat) × State :=
    let (v, s) := s.takeFree
    ((v.toNat, st), s)
  match region a with
  | .dram =>
    let ch := (s.dramLoc a).ch
    if s.on F.DRC_MAPCTL.APPLY ∧ s.get (F.DRC_CTRL.STATE ch) = 3 then
      ({ s with jtag := { s.jtag with awake := if s.jtag.awake.contains ch then s.jtag.awake else ch :: s.jtag.awake } } : State).debugCells a w
    else blind 2 s
  | .caddy => s.debugCells a w
  | .window => if runsOn a then s.debugWindow a w else blind 0 s
  | .outside => ((0, 3), s.outsideMap srcDebug 0xFFF a)
  | .coreLocal => ((0, 3), s.outsideMap srcDebug 0xFFF a)
  | .nvs =>
    match w with
    | some b => ((leNat b, 0), s.nvsWrite srcDebug a b)
    | none => ((leNat ((List.range 8).map (fun i => s.physByte (a + i))), 0), s)
  | .bootRom => ((leNat ((List.range 8).map (fun i => s.physByte (a + i))), 0), s)

/-- MEMACC_DONE: the pending access is performed; while a freeze is being entered no request starts (R522). -/
def State.memAccDone (s : State) : State :=
  match s.jtag.access with
  | none => s
  | some (a, w) =>
    if s.freezing && !s.on F.DBG_STAT.FROZEN then s else
      let ((d, st), s) := if s.on F.DBG_STAT.FROZEN then s.debugFrozen a w else s.debugRunning a w
      { s with jtag := { s.jtag with access := none, result := some (d, st) } }

def execMemaccDone (s : State) : Host.Outcome State Fault Refusal := .next (if s.tapOn then s.memAccDone else s)

/-- DEBUG_SELF_REFRESH_RETURN: 100 µs without a debug access. -/
def execDebugSelfRefreshReturn (ch : Fin 8) (s : State) : Host.Outcome State Fault Refusal :=
  .next { s with jtag := { s.jtag with awake := s.jtag.awake.filter (fun c => c != ch.val) } }

end Sys2Proof.Machine
end

