-- ==== Sys2Proof/Machine/Dispatch.lean ====
section
/-! DEFINITION. One arm per command: the meaning it calls, or the refusal by name. -/

namespace Sys2Proof.Machine

def exec (i : Instr) (s : State) : Host.Outcome State Fault Refusal :=
  match i with
  | .registerWrite off v word src => Sys2Proof.Machine.execRegisterWrite off v word src s
  | .readClearField off word src => Sys2Proof.Machine.execReadClearField off word src s
  | .sysLockSet => Sys2Proof.Machine.execSysLockSet s
  | .fabLoadFull v src => Sys2Proof.Machine.execFabLoadFull v src s
  | .fabLoadPartial v src => Sys2Proof.Machine.execFabLoadPartial v src s
  | .preApplyDone => Sys2Proof.Machine.execPreApplyDone s
  | .brewQuiescent b => Sys2Proof.Machine.execBrewQuiescent b s
  | .quiesceTimeout => Sys2Proof.Machine.execQuiesceTimeout s
  | .applyFetchDone => Sys2Proof.Machine.execApplyFetchDone s
  | .fabCommit src v => Sys2Proof.Machine.execFabCommit src v s
  | .commitFetchDone b => Sys2Proof.Machine.execCommitFetchDone b s
  | .rootSofEmit b => Sys2Proof.Machine.execRootSofEmit b s
  | .tileSofArrive t => Sys2Proof.Machine.execTileSofArrive t s
  | .fomUpdate l centre w h taps ofs => Sys2Proof.Machine.execFomUpdate l centre w h taps ofs s
  | .laneEnterLink l => Sys2Proof.Machine.execLaneEnterLink l s
  | .pllLock k => Sys2Proof.Machine.execPllLock k s
  | .cdrLock l => Sys2Proof.Machine.execCdrLock l s
  | .initialAdaptationDone l a => Sys2Proof.Machine.execInitialAdaptationDone l a s
  | .adaptationRetryTimeout l => Sys2Proof.Machine.execAdaptationRetryTimeout l s
  | .lolRetrainTimeout l => Sys2Proof.Machine.execLolRetrainTimeout l s
  | .linkReferenceLost => Sys2Proof.Machine.execLinkReferenceLost s
  | .linkReferenceRestored => Sys2Proof.Machine.execLinkReferenceRestored s
  | .lnkRefcfgWrite v src => Sys2Proof.Machine.execLnkRefcfgWrite v src s
  | .recalInService l => Sys2Proof.Machine.execRecalInService l s
  | .recalOutOfService l => Sys2Proof.Machine.execRecalOutOfService l s
  | .recalDone l before a => Sys2Proof.Machine.execRecalDone l before a s
  | .bitSlip l => Sys2Proof.Machine.execBitSlip l s
  | .slipApplied l => Sys2Proof.Machine.execSlipApplied l s
  | .prbsCheckLock l bits => Sys2Proof.Machine.execPrbsCheckLock l bits s
  | .idleColumn p col => Sys2Proof.Machine.execIdleColumn p col s
  | .alignColumn p col gap => Sys2Proof.Machine.execAlignColumn p col gap s
  | .alignSend p => Sys2Proof.Machine.execAlignSend p s
  | .xsColumn p num => Sys2Proof.Machine.execXsColumn p num s
  | .capPacket p mask selected crcOk => Sys2Proof.Machine.execCapPacket p mask selected crcOk s
  | .capSend p => Sys2Proof.Machine.execCapSend p s
  | .negTimeout p => Sys2Proof.Machine.execNegTimeout p s
  | .linkHalfEnable p tx v src => Sys2Proof.Machine.execLinkHalfEnable p tx v src s
  | .fsPacket p num sgen w h depth crcOk => Sys2Proof.Machine.execFsPacket p num sgen w h depth crcOk s
  | .ldPacket p num sgen payload crcOk fits => Sys2Proof.Machine.execLdPacket p num sgen payload crcOk fits s
  | .fePacket p crcOk => Sys2Proof.Machine.execFePacket p crcOk s
  | .mdPacket p payload crcOk => Sys2Proof.Machine.execMdPacket p payload crcOk s
  | .rawCodeWord p code lanes words fits => Sys2Proof.Machine.execRawCodeWord p code lanes words fits s
  | .txLine p => Sys2Proof.Machine.execTxLine p s
  | .scpImmediate p v => Sys2Proof.Machine.execScpImmediate p v s
  | .scpTransactionDone p ack rdata => Sys2Proof.Machine.execScpTransactionDone p ack rdata s
  | .scpStretchTimeout p => Sys2Proof.Machine.execScpStretchTimeout p s
  | .scpBurstArm p k v => Sys2Proof.Machine.execScpBurstArm p k v s
  | .scpBurstDisarm p k v => Sys2Proof.Machine.execScpBurstDisarm p k v s
  | .scpBurstRelease p => Sys2Proof.Machine.execScpBurstRelease p s
  | .scpBurstEntryDone p ack => Sys2Proof.Machine.execScpBurstEntryDone p ack s
  | .scpBmemAccess p w => Sys2Proof.Machine.execScpBmemAccess p w s
  | .scpTfileAccess p w => Sys2Proof.Machine.execScpTfileAccess p w s
  | .scpTargetRead p addr => Sys2Proof.Machine.execScpTargetRead p addr s
  | .scpTargetWrite p addr data => Sys2Proof.Machine.execScpTargetWrite p addr data s
  | .vsyncInputEdge p => Sys2Proof.Machine.execVsyncInputEdge p s
  | .hsyncPulse p => Sys2Proof.Machine.execHsyncPulse p s
  | .frameEndAtRoot b => Sys2Proof.Machine.execFrameEndAtRoot b s
  | .queueArbitration b => Sys2Proof.Machine.execQueueArbitration b s
  | .stripeBoundary b => Sys2Proof.Machine.execStripeBoundary b s
  | .playbackWidxWrite t v src => Sys2Proof.Machine.execPlaybackWidxWrite t v src s
  | .playbackDescriptorTake t => Sys2Proof.Machine.execPlaybackDescriptorTake t s
  | .ingSeqLoRead t => Sys2Proof.Machine.execIngSeqLoRead t s
  | .rwcSiteGainAccess t ctx w => Sys2Proof.Machine.execRwcSiteGainAccess t ctx w s
  | .synSiteGainAccess t ctx w => Sys2Proof.Machine.execSynSiteGainAccess t ctx w s
  | .colCoefDataAccess t ctx w => Sys2Proof.Machine.execColCoefDataAccess t ctx w s
  | .synCoefDataAccess t ctx w => Sys2Proof.Machine.execSynCoefDataAccess t ctx w s
  | .statsFrameEnd t fits => Sys2Proof.Machine.execStatsFrameEnd t fits s
  | .statsRecordWritten t => Sys2Proof.Machine.execStatsRecordWritten t s
  | .patternStartInstant t => Sys2Proof.Machine.execPatternStartInstant t s
  | .emuExposureStart p => Sys2Proof.Machine.execEmuExposureStart p s
  | .emuFsSend p => Sys2Proof.Machine.execEmuFsSend p s
  | .emuLinePace p => Sys2Proof.Machine.execEmuLinePace p s
  | .bFrameStore t => Sys2Proof.Machine.execBFrameStore t s
  | .analysisPairing t => Sys2Proof.Machine.execAnalysisPairing t s
  | .analysisWaitTimeout t => Sys2Proof.Machine.execAnalysisWaitTimeout t s
  | .analysisRecordWritten t => Sys2Proof.Machine.execAnalysisRecordWritten t s
  | .cmxBFrameStore t => Sys2Proof.Machine.execCmxBFrameStore t s
  | .opkFrameWrite t => Sys2Proof.Machine.execOpkFrameWrite t s
  | .opkBufferRecord t => Sys2Proof.Machine.execOpkBufferRecord t s
  | .sdiOutEnable n v src => Sys2Proof.Machine.execSdiOutEnable n v src s
  | .sdiOutDisable n v src => Sys2Proof.Machine.execSdiOutDisable n v src s
  | .tgFrameInstant k phase => Sys2Proof.Machine.execTgFrameInstant k phase s
  | .sdiSlotTake n late1 late2 => Sys2Proof.Machine.execSdiSlotTake n late1 late2 s
  | .sdiRxFrame m x => Sys2Proof.Machine.execSdiRxFrame m x s
  | .genlockSourceLost => Sys2Proof.Machine.execGenlockSourceLost s
  | .genlockSourceReturn far => Sys2Proof.Machine.execGenlockSourceReturn far s
  | .vceCfgWrite src v => Sys2Proof.Machine.execVceCfgWrite src v s
  | .vceOpen n => Sys2Proof.Machine.execVceOpen n s
  | .vceClose n => Sys2Proof.Machine.execVceClose n s
  | .vceReload n => Sys2Proof.Machine.execVceReload n s
  | .forceIrap n => Sys2Proof.Machine.execForceIrap n s
  | .vceFlush n => Sys2Proof.Machine.execVceFlush n s
  | .encodeCandidate n => Sys2Proof.Machine.execEncodeCandidate n s
  | .decodeJobTake n => Sys2Proof.Machine.execDecodeJobTake n s
  | .pictureStart pix => Sys2Proof.Machine.execPictureStart pix s
  | .picturePreempt => Sys2Proof.Machine.execPicturePreempt s
  | .pictureDone n res => Sys2Proof.Machine.execPictureDone n res s
  | .bitstreamSpaceFree n => Sys2Proof.Machine.execBitstreamSpaceFree n s
  | .outputSlotFree n => Sys2Proof.Machine.execOutputSlotFree n s
  | .cmpSubmit q widx src => Sys2Proof.Machine.execCmpSubmit q widx src s
  | .cmpQueueEnable q v src => Sys2Proof.Machine.execCmpQueueEnable q v src s
  | .cmpDisable v src => Sys2Proof.Machine.execCmpDisable v src s
  | .cmpJobTake deflate => Sys2Proof.Machine.execCmpJobTake deflate s
  | .cmpJobDone k out => Sys2Proof.Machine.execCmpJobDone k out s
  | .cmpAbort v => Sys2Proof.Machine.execCmpAbort v s
  | .cmpPreempt deflate => Sys2Proof.Machine.execCmpPreempt deflate s
  | .drcMapApply v => Sys2Proof.Machine.execDrcMapApply v s
  | .drcInit ch => Sys2Proof.Machine.execDrcInit ch s
  | .drcInitResume ch => Sys2Proof.Machine.execDrcInitResume ch s
  | .drcRetrainShort ch => Sys2Proof.Machine.execDrcRetrainShort ch s
  | .drcRetrainFull ch => Sys2Proof.Machine.execDrcRetrainFull ch s
  | .drcTrainDone ch err => Sys2Proof.Machine.execDrcTrainDone ch err s
  | .shortRetrainDue x => Sys2Proof.Machine.execShortRetrainDue x s
  | .shortRetrainDone => Sys2Proof.Machine.execShortRetrainDone s
  | .dramRequest client addr write data mask reads => Sys2Proof.Machine.execDramRequest client addr write data mask reads s
  | .alertNAssert ch => Sys2Proof.Machine.execAlertNAssert ch s
  | .dramTempRead ch temps => Sys2Proof.Machine.execDramTempRead ch temps s
  | .refreshDue rank postpone => Sys2Proof.Machine.execRefreshDue rank postpone s
  | .pageAutoTimeout bank => Sys2Proof.Machine.execPageAutoTimeout bank s
  | .selfRefreshEntry ch => Sys2Proof.Machine.execSelfRefreshEntry ch s
  | .steepBoundary => Sys2Proof.Machine.execSteepBoundary s
  | .sachetRequest cls chan => Sys2Proof.Machine.execSachetRequest cls chan s
  | .sachetRelease sachet => Sys2Proof.Machine.execSachetRelease sachet s
  | .mmuEnable v src => Sys2Proof.Machine.execMmuEnable v src s
  | .mmuUnitCfgWrite u v src => Sys2Proof.Machine.execMmuUnitCfgWrite u v src s
  | .mmuInvalidate v src => Sys2Proof.Machine.execMmuInvalidate v src s
  | .mmuInvalidateDone => Sys2Proof.Machine.execMmuInvalidateDone s
  | .tableWalk u va write pinned => Sys2Proof.Machine.execTableWalk u va write pinned s
  | .mmuResumeRestart u => Sys2Proof.Machine.execMmuResumeRestart u s
  | .mmuResumeFail u => Sys2Proof.Machine.execMmuResumeFail u s
  | .mmuFaultTimeout u => Sys2Proof.Machine.execMmuFaultTimeout u s
  | .dmaEnable c v src => Sys2Proof.Machine.execDmaEnable c v src s
  | .dmaDisable c v src => Sys2Proof.Machine.execDmaDisable c v src s
  | .dmaSubmit c widx src => Sys2Proof.Machine.execDmaSubmit c widx src s
  | .dmaDescriptorTake c => Sys2Proof.Machine.execDmaDescriptorTake c s
  | .dmaDescriptorDone c => Sys2Proof.Machine.execDmaDescriptorDone c s
  | .ethPortEnable p v src => Sys2Proof.Machine.execEthPortEnable p v src s
  | .ethPortDisable p v src => Sys2Proof.Machine.execEthPortDisable p v src s
  | .ethLinkUp p k agreed => Sys2Proof.Machine.execEthLinkUp p k agreed s
  | .ethLinkDown p k => Sys2Proof.Machine.execEthLinkDown p k s
  | .ethFrameReceive p k fcs frame => Sys2Proof.Machine.execEthFrameReceive p k fcs frame s
  | .arpEntryExpire p k ip => Sys2Proof.Machine.execArpEntryExpire p k ip s
  | .rocePacketReceive p pkt => Sys2Proof.Machine.execRocePacketReceive p pkt s
  | .roceRetryTimeout qp => Sys2Proof.Machine.execRoceRetryTimeout qp s
  | .roceRnrTimeout qp => Sys2Proof.Machine.execRoceRnrTimeout qp s
  | .qpKill v src => Sys2Proof.Machine.execQpKill v src s
  | .mgmtDiscover req => Sys2Proof.Machine.execMgmtDiscover req s
  | .mgmtConnect req body => Sys2Proof.Machine.execMgmtConnect req body s
  | .connectReplyExpire ip port seq => Sys2Proof.Machine.execConnectReplyExpire ip port seq s
  | .mgmtDisconnect req body => Sys2Proof.Machine.execMgmtDisconnect req body s
  | .bootSolicit => Sys2Proof.Machine.execBootSolicit s
  | .bootOffer req body => Sys2Proof.Machine.execBootOffer req body s
  | .bootData req body => Sys2Proof.Machine.execBootData req body s
  | .bootReadTimeout => Sys2Proof.Machine.execBootReadTimeout s
  | .mgmtRecover req body => Sys2Proof.Machine.execMgmtRecover req body s
  | .ccpEnableFormat v src => Sys2Proof.Machine.execCcpEnableFormat v src s
  | .ccpEnableKeep v src => Sys2Proof.Machine.execCcpEnableKeep v src s
  | .ccpReady => Sys2Proof.Machine.execCcpReady s
  | .ccpDisable v src => Sys2Proof.Machine.execCcpDisable v src s
  | .ccpDoorbell q send => Sys2Proof.Machine.execCcpDoorbell q send s
  | .localQueueDoorbell widx src => Sys2Proof.Machine.execLocalQueueDoorbell widx src s
  | .submissionFetch q entries => Sys2Proof.Machine.execSubmissionFetch q entries s
  | .commandComplete q cid => Sys2Proof.Machine.execCommandComplete q cid s
  | .coalesceTimeout q => Sys2Proof.Machine.execCoalesceTimeout q s
  | .ccpRead q cid => Sys2Proof.Machine.execCcpRead q cid s
  | .ccpWrite q cid data fate => Sys2Proof.Machine.execCcpWrite q cid data fate s
  | .createTake q cid => Sys2Proof.Machine.execCreateTake q cid s
  | .closeTake q cid => Sys2Proof.Machine.execCloseTake q cid s
  | .deleteTake q cid => Sys2Proof.Machine.execDeleteTake q cid s
  | .takeInfo q cid => Sys2Proof.Machine.execTakeInfo q cid s
  | .ccpAbort q cid => Sys2Proof.Machine.execCcpAbort q cid s
  | .getFrames q cid => Sys2Proof.Machine.execGetFrames q cid s
  | .startStream q cid data => Sys2Proof.Machine.execStartStream q cid data s
  | .stopStream q cid => Sys2Proof.Machine.execStopStream q cid s
  | .ccpMap q cid => Sys2Proof.Machine.execCcpMap q cid s
  | .identify q cid => Sys2Proof.Machine.execIdentify q cid s
  | .getLog q cid => Sys2Proof.Machine.execGetLog q cid s
  | .getFeature q cid => Sys2Proof.Machine.execGetFeature q cid s
  | .setFeature q cid => Sys2Proof.Machine.execSetFeature q cid s
  | .fwDownload q cid data => Sys2Proof.Machine.execFwDownload q cid data s
  | .fwCommitWrite q cid program => Sys2Proof.Machine.execFwCommitWrite q cid program s
  | .fwCommitTry q cid program => Sys2Proof.Machine.execFwCommitTry q cid program s
  | .fwCommitConfirm q cid => Sys2Proof.Machine.execFwCommitConfirm q cid s
  | .fwCommitTryReset q cid program => Sys2Proof.Machine.execFwCommitTryReset q cid program s
  | .regRead q cid => Sys2Proof.Machine.execRegRead q cid s
  | .regWrite q cid data => Sys2Proof.Machine.execRegWrite q cid data s
  | .createQp q cid data => Sys2Proof.Machine.execCreateQp q cid data s
  | .deleteQp q cid => Sys2Proof.Machine.execDeleteQp q cid s
  | .streamFrameAppend st => Sys2Proof.Machine.execStreamFrameAppend st s
  | .streamFrameEntry st => Sys2Proof.Machine.execStreamFrameEntry st s
  | .timeIncWrite hi v src => Sys2Proof.Machine.execTimeIncWrite hi v src s
  | .timeNowRead => Sys2Proof.Machine.execTimeNowRead s
  | .timeStepSet v => Sys2Proof.Machine.execTimeStepSet v s
  | .timeStepOffset v => Sys2Proof.Machine.execTimeStepOffset v s
  | .timeSlew v src => Sys2Proof.Machine.execTimeSlew v src s
  | .slewComplete => Sys2Proof.Machine.execSlewComplete s
  | .triggerArm k v => Sys2Proof.Machine.execTriggerArm k v s
  | .triggerDisarm k v => Sys2Proof.Machine.execTriggerDisarm k v s
  | .triggerFire k => Sys2Proof.Machine.execTriggerFire k s
  | .trigOutPulseEnd n => Sys2Proof.Machine.execTrigOutPulseEnd n s
  | .captureEdge j rising => Sys2Proof.Machine.execCaptureEdge j rising s
  | .captureNsRead j => Sys2Proof.Machine.execCaptureNsRead j s
  | .ppsOutRise => Sys2Proof.Machine.execPpsOutRise s
  | .ppsOutFall => Sys2Proof.Machine.execPpsOutFall s
  | .ptpReceive p frame => Sys2Proof.Machine.execPtpReceive p frame s
  | .ptpTxSubmit widx src => Sys2Proof.Machine.execPtpTxSubmit widx src s
  | .ptpTxDone => Sys2Proof.Machine.execPtpTxDone s
  | .ptpTcForward p => Sys2Proof.Machine.execPtpTcForward p s
  | .audioPllEnable v src => Sys2Proof.Machine.execAudioPllEnable v src s
  | .audioPortStart n v src => Sys2Proof.Machine.execAudioPortStart n v src s
  | .audioPortStop n v src => Sys2Proof.Machine.execAudioPortStop n v src s
  | .audioGroupStart g v => Sys2Proof.Machine.execAudioGroupStart g v s
  | .audioGroupStop g v => Sys2Proof.Machine.execAudioGroupStop g v s
  | .audioMaskWrite n tx v src => Sys2Proof.Machine.execAudioMaskWrite n tx v src s
  | .audioTdmFrame n slots sachet => Sys2Proof.Machine.execAudioTdmFrame n slots sachet s
  | .audioTxSubmit n widx src => Sys2Proof.Machine.execAudioTxSubmit n widx src s
  | .audioFrameLoRead n => Sys2Proof.Machine.execAudioFrameLoRead n s
  | .audioStreamSet st => Sys2Proof.Machine.execAudioStreamSet st s
  | .powerUp vin hot vio => Sys2Proof.Machine.execPowerUp vin hot vio s
  | .powerLoss cause recorded => Sys2Proof.Machine.execPowerLoss cause recorded s
  | .railFault out => Sys2Proof.Machine.execRailFault out s
  | .railRetry v => Sys2Proof.Machine.execRailRetry v s
  | .domainHold d => Sys2Proof.Machine.execDomainHold d s
  | .kettleDemand d => Sys2Proof.Machine.execKettleDemand d s
  | .domainOn d => Sys2Proof.Machine.execDomainOn d s
  | .domainIdleTimeout d => Sys2Proof.Machine.execDomainIdleTimeout d s
  | .idleEntry => Sys2Proof.Machine.execIdleEntry s
  | .napEntry => Sys2Proof.Machine.execNapEntry s
  | .dozeEntry => Sys2Proof.Machine.execDozeEntry s
  | .hibernateEntry => Sys2Proof.Machine.execHibernateEntry s
  | .wake event => Sys2Proof.Machine.execWake event s
  | .wakeComplete => Sys2Proof.Machine.execWakeComplete s
  | .hibernateExit hot => Sys2Proof.Machine.execHibernateExit hot s
  | .clockSelect v src => Sys2Proof.Machine.execClockSelect v src s
  | .residencyClear v => Sys2Proof.Machine.execResidencyClear v s
  | .residencyLoRead counter => Sys2Proof.Machine.execResidencyLoRead counter s
  | .sensorConversion n temp => Sys2Proof.Machine.execSensorConversion n temp s
  | .sensorTimeout n => Sys2Proof.Machine.execSensorTimeout n s
  | .powerupThermalHold => Sys2Proof.Machine.execPowerupThermalHold s
  | .cosyXtalSwitch => Sys2Proof.Machine.execCosyXtalSwitch s
  | .coreStart c => Sys2Proof.Machine.execCoreStart c s
  | .coreReset c => Sys2Proof.Machine.execCoreReset c s
  | .watchdogKick v src => Sys2Proof.Machine.execWatchdogKick v src s
  | .watchdogExpire => Sys2Proof.Machine.execWatchdogExpire s
  | .nvsWrite src addr data wide => Sys2Proof.Machine.execNvsWrite src addr data wide s
  | .warmReset cause => Sys2Proof.Machine.execWarmReset cause s
  | .bootStart sel => Sys2Proof.Machine.execBootStart sel s
  | .bootConfirm v => Sys2Proof.Machine.execBootConfirm v s
  | .keyRevoke v src => Sys2Proof.Machine.execKeyRevoke v src s
  | .evtPost v src => Sys2Proof.Machine.execEvtPost v src s
  | .eventPlace => Sys2Proof.Machine.execEventPlace s
  | .summaryPlace => Sys2Proof.Machine.execSummaryPlace s
  | .evtClear v => Sys2Proof.Machine.execEvtClear v s
  | .evtClearDone => Sys2Proof.Machine.execEvtClearDone s
  | .evtLastLoRead => Sys2Proof.Machine.execEvtLastLoRead s
  | .freezeNLow => Sys2Proof.Machine.execFreezeNLow s
  | .dbgFreeze v src => Sys2Proof.Machine.execDbgFreeze v src s
  | .jtagFreeze => Sys2Proof.Machine.execFreeze s
  | .freezeComplete => Sys2Proof.Machine.execFreezeComplete s
  | .idcode => Sys2Proof.Machine.execIdcode s
  | .extest pins data => Sys2Proof.Machine.execExtest pins data s
  | .samplePreload pins data => Sys2Proof.Machine.execSamplePreload pins data s
  | .bypass code => Sys2Proof.Machine.execBypass code s
  | .snapSel chain => Sys2Proof.Machine.execSnapSel chain s
  | .snapData => Sys2Proof.Machine.execSnapData s
  | .memacc data addr write autoinc => Sys2Proof.Machine.execMemacc data addr write autoinc s
  | .memstream => Sys2Proof.Machine.execMemstream s
  | .memaccDone => Sys2Proof.Machine.execMemaccDone s
  | .debugSelfRefreshReturn ch => Sys2Proof.Machine.execDebugSelfRefreshReturn ch s
  | .warmrst => Sys2Proof.Machine.execWarmrst s
  | .linkHalfDisable p tx v src => Sys2Proof.Machine.execLinkHalfDisable p tx v src s
  | .vsyncPulseEnd p => Sys2Proof.Machine.execVsyncPulseEnd p s
  | .analysisFrameEnd t => Sys2Proof.Machine.execAnalysisFrameEnd t s
  | .jtagTrst => Sys2Proof.Machine.execJtagTrst s

end Sys2Proof.Machine
end

