-- ==== Sys2Proof/Machine/Tick.lean ====
section
/-! DEFINITION. What 2 ns with no command do: a tick of the time counter and of the watchdog's count, and the cosy clock's
share (log 1). -/

namespace Sys2Proof.Machine

/-- TCLK runs from the rails on, but for Hibernate and a complete freeze (R429, R522). -/
def State.tclkRuns (s : State) : Bool := s.power.cosy && s.power.railsOn && s.power.mode != .hibernate && !s.on F.DBG_STAT.FROZEN

/-- A tick of TCLK and of the cosy clock. -/
def State.pass (s : State) : State :=
  let s := if s.tclkRuns then
      { s.tick with power := { s.power with wdog := if s.on F.CPU_WDOG.EN then s.power.wdog + 1 else 0 } }
    else s
  s.cosyTick

end Sys2Proof.Machine
end

