-- ==== Sys2Proof/Safety.lean ====
section
/-! DEFINITION. Safe runs: steps that answer a next state, and the invariants that the step keeps. -/

namespace Sys2Proof.Machine

/-- The next state of a step, when it has one. -/
def next? (s : State) : Option State :=
  match step s with
  | .next t => some t
  | .fault _ => none
  | .refused _ => none

/-- `n` steps from `s` all answer a next state. -/
def Safe : Nat → State → Prop
  | 0, _ => True
  | n + 1, s => match step s with
    | .next t => Safe n t
    | _ => False

/-- The event ring as data: canonical, with 65,536 slots (R512). -/
def RingOk (r : Sparse (Option EvRecord)) : Prop := Canonical none r = true ∧ ∀ e ∈ r, e.1 < ringSlots

/-- The invariant of every step: the time counter's nanoseconds stay below a second (R429), and the event ring stays
canonical within its slots (R512). -/
def Inv (s : State) : Prop := s.time.ns.toNat < 1000000000 ∧ RingOk s.evt.ring

/-- A severity-7 record stands in slot `k` of the event ring. -/
def Grave (s : State) (k : Nat) (e : EvRecord) : Prop := sget none s.evt.ring k = some e ∧ e.sev = 7

/-! ### What statements say of a command -/

/-- An access to register `off` reaches its block, in state `u`: the block acts (R522), its domain is On, or was Retained and
is brought back first (R474), no load holds the page (R62), and the tile's brew does not leave the offset reserved (R141). -/
structure Reaches (s : State) (off : Nat) (u : State) : Prop where
  awake : s.dark = false
  on : s.reachable off = true
  free : s.heldPage off = false
  page : s.ctxPage off = false
  state : u = s.touchDomain off

/-- A read of register `off` reaches its block, in state `u` (R28, R141, R474, R522). -/
structure Reads (s : State) (off : Nat) (u : State) : Prop where
  awake : s.dark = false
  on : s.reachable off = true
  page : s.ctxPage off = false
  state : u = s.touchDomain off

/-- Command `c` is the one of operation `opc` and CID `cid` that queue `q` performs in state `s`: it is in progress, the queue is
open, neither it nor unit 40 waits for a fault, and the capture store is ready (R398, R413, R422). -/
structure Performs (s : State) (q cid opc : Nat) (c : CcpCmd) : Prop where
  awake : s.dark = false
  found : s.ccp.cmds.find? (fun c => c.q == q && c.cid == cid && c.opc == opc && c.done.isNone) = some c
  live : s.queueLive q = true
  going : c.susp = false
  free : s.on (F.MMU_UNIT_FLT_HI.VALID 40) = false
  ready : s.on F.CCP_CTL.READY = true

/-- From `s` to `t` nothing but the registers at the offsets of `l` changes. -/
def ChangesOnly (l : List Nat) (s t : State) : Prop := t = { s with regs := t.regs } ∧ ∀ off, off ∉ l → t.reg off = s.reg off

/-- From `s` to `t` nothing changes but the counts of entries to On and registers, and of those none outside the power block but the MAC
addresses. -/
def PowersOnly (s t : State) : Prop :=
  t = { s with regs := t.regs, power := { s.power with ons := t.power.ons } } ∧ ∀ off, ¬ (0x160000 ≤ off ∧ off < 0x170000) → ¬ (0x120000 ≤ off ∧ off < 0x122000) → t.reg off = s.reg off

end Sys2Proof.Machine
end

