-- ==== Sys2Proof/Certificates/Slice0/Obligations.lean ====
section
/-! DEFINITION. The statements about the block, by family of commands. -/

open Sys2Proof Sys2Proof.Machine

/-- For every command c and every state s with c at the front of its queue, a step of s is exec of c on s with the rest of
the queue. (98_opcode_table) -/
def Obligations.FrontCommandRuns : Prop :=
  ∀ (c : Instr) (r : List Instr) (s : State), s.pending = c :: r → step s = exec c { s with pending := r }

/-- For every state whose queue is c followed by r, a step that answers a next state leaves exactly r in the queue. With
an empty queue, the queue stays empty. (98_opcode_table) -/
def Obligations.QueueIsFirstInFirstOut : Prop :=
  (∀ (c : Instr) (r : List Instr) (s t : State), s.pending = c :: r → step s = .next t → t.pending = r) ∧
  (∀ s t : State, s.pending = [] → step s = .next t → t.pending = [])

/-- While TCLK runs and no command waits, a step is one tick: the counter, in units of 2^-32 ns and modulo its range,
moves by TIM_INC held to 1.5 to 2.5 ns, plus the tick's share of a slew in progress, and NS stays below one second.
Where TCLK does not run, the counter stands. That an empty queue stands for one tick is the model's choice (log 1).
(R429, R430, R431, R434) -/
def Obligations.IdleTickAdvancesTime : Prop :=
  (∀ s : State, s.pending = [] → s.tclkRuns = true → s.tim.slew = none → ∃ t, step s = .next t ∧ t.time.ns.toNat < 1000000000 ∧
    (t.time.sec.toNat * 1000000000 + t.time.ns.toNat) * 2 ^ 32 + t.time.frac.toNat =
      ((s.time.sec.toNat * 1000000000 + s.time.ns.toNat) * 2 ^ 32 + s.time.frac.toNat + s.tickInc) % (2 ^ 48 * 1000000000 * 2 ^ 32)) ∧
  (∀ s : State, 3 * 2 ^ 31 ≤ s.tickInc ∧ s.tickInc ≤ 5 * 2 ^ 31) ∧
  (∀ s : State, s.pending = [] → s.tclkRuns = false → ∃ t, step s = .next t ∧ t.time = s.time)

/-- State.reset meets Inv, its memory is in canonical form, and its queue is empty. (R429, R512) -/
def Obligations.ResetMeetsTheInvariant : Prop :=
  Inv State.reset ∧ Memory.wf State.reset.mem = true ∧ State.reset.pending = []

/-- For every state s that meets Inv (the nanoseconds of the time counter are below one second, and the event ring is
canonical data within its 65,536 slots), if a step of s answers next t, then t meets Inv: whatever command waits, with
any operands, or none. (R429, R512, R515, R518) -/
def Obligations.EveryStepKeepsTheInvariant : Prop :=
  ∀ s t : State, Inv s → step s = .next t → Inv t

/-- From every state that meets Inv, a step of any command but EVT_CLEAR_DONE leaves each record of severity 7 of the
event ring in its slot, unchanged: no newcomer overwrites one, and no reset, loss of power or freeze loses one.
EVT_CLEAR_DONE leaves those above the severity or the SEQ of its clear. (R515, R518) -/
def Obligations.GraveRecordsPersist : Prop :=
  (∀ s t : State, Inv s → s.pending.head? ≠ some .evtClearDone → step s = .next t → ∀ k e, Grave s k e → Grave t k e) ∧
  (∀ s t : State, Inv s → exec .evtClearDone s = .next t →
    ∀ k e, Grave s k e → (∀ sev last, s.evt.clearing = some (sev, last) → sev < 7 ∨ last.toNat < e.seq.toNat) → Grave t k e)

/-- Every step, of whatever command, that answers a next state keeps each revoked key slot revoked and the rollback floor
at least where it was; through SEC_REVOKE a slot is revoked for good (KEY_REVOKE, where a usable key remains), and a
write that would leave no key slot both present and unrevoked leaves the revocations as they are and posts a
severity-3 event; SEC_KEYSTAT shows the revocations that the store holds. (R508) -/
def Obligations.RevocationAndFloorNeverFall : Prop :=
  (∀ s t : State, step s = .next t → (∀ k, s.sec.revoked.testBit k = true → t.sec.revoked.testBit k = true) ∧ s.sec.floor ≤ t.sec.floor) ∧
  (∀ (v : Word) (src : Nat) (s u : State), Reaches s R.SEC_REVOKE u →
    (∃ k < 4, u.keysPresent.testBit k = true ∧ (u.sec.revoked ||| getBits v 3 0).testBit k = false) →
    ∃ t, exec (.keyRevoke v src) s = .next t ∧ t = { u with sec := { u.sec with revoked := u.sec.revoked ||| getBits v 3 0 } }) ∧
  (∀ (v : Word) (src : Nat) (s u : State), Reaches s R.SEC_REVOKE u →
    (∀ k < 4, u.keysPresent.testBit k = true → (u.sec.revoked ||| getBits v 3 0).testBit k = true) →
    ∃ t, exec (.keyRevoke v src) s = .next t ∧ t = u.postIgnored src 3 R.SEC_REVOKE ∧ t.sec = u.sec) ∧
  (∀ (src : Nat) (s u : State), Reads s R.SEC_KEYSTAT u → ∃ t w, exec (.readClearField R.SEC_KEYSTAT true src) s = .next t ∧ t.rdata = [w] ∧
    ∀ k < 4, w.getLsbD (8 + k) = u.sec.revoked.testBit k)

/-- Writing v to a field of a register word w changes no bit outside the field. Inside it, RW and RWS bits (and RWL bits
while SYS_LOCK is clear) become those of v; RWL bits stay as they are once SYS_LOCK is set; W1C bits are cleared where
v is 1, W1S bits set where v is 1; RO, WO and RC bits stay as stored. (R6, R4, R9, R552, Table 0.2) -/
def Obligations.FieldsActByAccessType : Prop :=
  ∀ (f : FieldDef) (locked : Bool) (v w : Word) (i : Nat), f.lo ≤ f.hi → f.hi < 32 → i < 32 →
    (¬ (f.lo ≤ i ∧ i ≤ f.hi) → (f.apply locked v w).getLsbD i = w.getLsbD i) ∧
    (f.lo ≤ i ∧ i ≤ f.hi →
      (f.acc = .rw ∨ f.acc = .rws ∨ (f.acc = .rwl ∧ locked = false) → (f.apply locked v w).getLsbD i = v.getLsbD i) ∧
      (f.acc = .rwl ∧ locked = true → (f.apply locked v w).getLsbD i = w.getLsbD i) ∧
      (f.acc = .w1c → (f.apply locked v w).getLsbD i = (w.getLsbD i && !v.getLsbD i)) ∧
      (f.acc = .w1s → (f.apply locked v w).getLsbD i = (w.getLsbD i || v.getLsbD i)) ∧
      (f.acc = .ro ∨ f.acc = .wo ∨ f.acc = .rc → (f.apply locked v w).getLsbD i = w.getLsbD i))

/-- For every offset of the control register window at which no register is implemented, or that the tile's brew leaves
reserved for want of stripe interleave, a 32-bit write by any source leaves the state as it is, and a read answers 0
and changes nothing else. (R5) -/
def Obligations.UnimplementedOffsets : Prop :=
  ∀ (off : Nat) (v : Word) (src : Nat) (s : State), implemented off = false ∨ s.ctxPage off = true →
    exec (.registerWrite off v true src) s = .next s ∧
    ∃ t, exec (.readClearField off true src) s = .next t ∧ (s.dark = false → t = { s with rdata := [0] })

/-- REGISTER_WRITE of an aligned, implemented word completes as the register's own write; of a register of the steep or
caddy block it leaves the register at the word that its fields' access types give, and every other as it was but what
an event of SYS_LOCK counts. READ_CLEAR_FIELD answers the register's value; where the register's read is plain, its RC
fields then read 0, its other bits stay, and no other register changes. An access that is not an aligned word has no
effect and reads 0. (R3, R6, R7) -/
def Obligations.WindowAccesses : Prop :=
  (∀ (off : Nat) (v : Word) (src : Nat) (s u : State), off % 4 = 0 → implemented off = true → Reaches s off u →
    ∃ t, exec (.registerWrite off v true src) s = .next t ∧ t = regWrite src off v u) ∧
  (∀ (off : Nat) (v : Word) (src : Nat) (s u : State), off % 4 = 0 → implemented off = true → Reaches s off u → off / 0x10000 ∈ [0xF, 0x10] →
    ∃ t, exec (.registerWrite off v true src) s = .next t ∧ t.reg off = u.written off v ∧
      ∀ off', off' ∉ [off, R.EVT_LOSS, R.PWR_WAKE_CAUSE] → t.reg off' = u.reg off') ∧
  (∀ (off : Nat) (v : Word) (word : Bool) (src : Nat) (s : State), s.dark = false → off % 4 ≠ 0 ∨ word = false →
    exec (.registerWrite off v word src) s = .next s ∧ exec (.readClearField off word src) s = .next { s with rdata := [0] }) ∧
  (∀ (off src : Nat) (d : RegDef) (s u : State), off % 4 = 0 → implemented off = true → Reads s off u → regDefAt off = some d →
    (∀ f ∈ d.fields, f.lo ≤ f.hi ∧ f.hi < 32) → off / 0x10000 ∉ [3, 4, 5, 9, 0xF, 0x10, 0x14, 0x15, 0x16, 0x18] →
    ∃ t, exec (.readClearField off true src) s = .next t ∧ t.rdata = [regView src off u] ∧
      (∀ f ∈ d.fields, f.acc = .rc → ∀ i, f.lo ≤ i → i ≤ f.hi → (t.reg off).getLsbD i = false) ∧
      (∀ i, (∀ f ∈ d.fields, f.acc = .rc → ¬ (f.lo ≤ i ∧ i ≤ f.hi)) → (t.reg off).getLsbD i = (u.reg off).getLsbD i) ∧
      ∀ off', off' ≠ off → t.reg off' = u.reg off')

/-- CORE_START of core 1, 2 or 3 that is Off completes with the core running (STATE 2) and its domain On, and reports the
start at the address of CPU_COREc_VEC; one of a core that is not Off changes nothing. CORE_RESET completes with the
core Off and its domain Off. Both leave the state as it was for core 0. (R496, R474) -/
def Obligations.CoreControl : Prop :=
  (∀ (c : Fin 4) (s u : State), Reaches s (R.CPU_CORE_CTL c) u → c ≠ 0 → u.get (F.CPU_CORE_CTL.STATE c) = 0 →
    ∃ t, exec (.coreStart c) s = .next t ∧ t.get (F.CPU_CORE_CTL.STATE c) = 2 ∧ t.mem = u.mem ∧
      t.out = u.out ++ [⟨"core start", c, [u.addr (R.CPU_CORE_VEC_LO c) (R.CPU_CORE_VEC_HI c)]⟩]) ∧
  (∀ (c : Fin 4) (s u : State), Reaches s (R.CPU_CORE_CTL c) u → c ≠ 0 → u.get (F.CPU_CORE_CTL.STATE c) ≠ 0 →
    exec (.coreStart c) s = .next u) ∧
  (∀ (c : Fin 4) (s u : State), Reaches s (R.CPU_CORE_CTL c) u → c ≠ 0 →
    ∃ t, exec (.coreReset c) s = .next t ∧ t.get (F.CPU_CORE_CTL.STATE c) = 0 ∧ t.dom (119 + c) = 0 ∧ t.mem = u.mem) ∧
  (∀ (s u : State), Reaches s (R.CPU_CORE_CTL 0) u → exec (.coreStart 0) s = .next u ∧ exec (.coreReset 0) s = .next u)

/-- SYS_LOCK_SET leaves LOCK at 1 and changes nothing else. WATCHDOG_KICK restarts the count, and an EN that is set stays
set. WATCHDOG_EXPIRE with EN = 1 and ACTION = 0 raises interrupt bit 9 and restarts the count; with ACTION = 1 it
posts a severity-6 event and causes a warm reset. (R9, R499, R501) -/
def Obligations.LockAndWatchdog : Prop :=
  (∀ s u : State, Reaches s R.SYS_LOCK u → ∃ t, exec .sysLockSet s = .next t ∧ t.get F.SYS_LOCK.LOCK = 1 ∧ ChangesOnly [R.SYS_LOCK] u t) ∧
  (∀ (v : Half) (src : Nat) (s u : State), Reaches s R.CPU_WDOG u → ∃ t, exec (.watchdogKick v src) s = .next t ∧
    t.power.wdog = 0 ∧ (u.on F.CPU_WDOG.EN = true → t.on F.CPU_WDOG.EN = true) ∧ t.mem = u.mem ∧
    ∀ off, off ∉ [R.CPU_WDOG, R.EVT_LOSS, R.PWR_WAKE_CAUSE] → t.reg off = u.reg off) ∧
  (∀ s : State, s.dark = false → s.on F.CPU_WDOG.EN = true → s.on F.CPU_WDOG.ACTION = false →
    ∃ t, exec .watchdogExpire s = .next t ∧ t.bit F.CPU_IRQ_STAT.SRC 9 = true ∧ t.power.wdog = 0 ∧ t.mem = s.mem ∧
      ∀ off, off ≠ R.CPU_IRQ_STAT → t.reg off = s.reg off) ∧
  (∀ s : State, s.dark = false → s.on F.CPU_WDOG.EN = true → s.on F.CPU_WDOG.ACTION = true →
    ∃ t, exec .watchdogExpire s = .next t ∧ t = (s.post 0x1A00 6 0 0 0).warmReset 3)

/-- WARM_RESET of a powered device that is neither in Hibernate nor in a freeze that bars the cause leaves the cause and
the incremented, saturating count in SYS_RESET, core 0 Starting, every byte of DRAM and of the non-volatile store as
it was, every byte of the caddy as never written (the model's choice for lost memory, log 2), the event ring and the
next SEQ, the keys, revocations and boot state of the store, no load, brew, queue, stream or command of the capture
store in progress, and its index as it was, with each take that a stream was recording Closed. (R501, R555, R333, R423) -/
def Obligations.WarmResetKeeps : Prop :=
  ∀ (c : Fin 4) (s : State), s.power.cosy = true → s.power.mode ≠ .hibernate → (s.freezing = true → c ≠ 1 ∧ c ≠ 2) →
    ∃ t, exec (.warmReset c) s = .next t ∧ t.get F.SYS_RESET.CAUSE = c.val + 1 ∧ t.get F.SYS_RESET.COUNT = min (s.get F.SYS_RESET.COUNT + 1) 255 ∧
      t.get (F.CPU_CORE_CTL.STATE 0) = 1 ∧
      (∀ a, region a = .dram ∨ region a = .nvs → t.byte a = s.byte a) ∧ (∀ a, region a = .caddy → t.byte a = memDefault) ∧
      t.evt.ring = s.evt.ring ∧ t.evt.nextSeq = s.evt.nextSeq ∧ t.sec = s.sec ∧ t.load = none ∧ t.brews = [] ∧ t.ccp = s.storeKept ∧
      t.pending = s.pending

/-- BOOT_START with core 0 Starting completes with core 0 running the boot ROM: with BOOT_SEL 1 the network boot, with 3
recovery (phase 1, no slot booted). BOOT_CONFIRM from a booted slot makes it ACTIVE, TRY none and ATTEMPTS 0 and
raises FLOOR to the image's ROLLBACK if that is larger; from a network image it raises FLOOR only; with no firmware
running it changes nothing. NVS_WRITE of an aligned 64-bit word of the firmware area stores exactly its eight bytes;
any other changes no byte and posts a severity-3 event. (R505, R506, R500, R508) -/
def Obligations.BootAndConfirm : Prop :=
  (∀ s : State, s.dark = false → s.get (F.CPU_CORE_CTL.STATE 0) = 1 →
    (∃ t, exec (.bootStart 1) s = .next t ∧ t.boot.source = 1 ∧ t.boot.net = some ⟨false, 0, 0, 0, 0⟩ ∧ t.sec = s.sec) ∧
    (∃ t, exec (.bootStart 3) s = .next t ∧ t.boot.phase = 1 ∧ t.boot.booted = 3 ∧ t.sec = s.sec)) ∧
  (∀ (v : Word) (s u : State), Reaches s R.SEC_BOOT u → u.boot.phase = 2 → u.boot.booted < 2 →
    exec (.bootConfirm v) s = .next { u with sec := { u.sec with active := u.boot.booted, trial := 3, attempts := 0, floor := max u.sec.floor u.boot.rollback } }) ∧
  (∀ (v : Word) (s u : State), Reaches s R.SEC_BOOT u → u.boot.phase = 2 → 2 ≤ u.boot.booted →
    exec (.bootConfirm v) s = .next { u with sec := { u.sec with floor := max u.sec.floor u.boot.rollback } }) ∧
  (∀ (v : Word) (s u : State), Reaches s R.SEC_BOOT u → u.boot.phase ≠ 2 → exec (.bootConfirm v) s = .next u) ∧
  (∀ (src addr : Nat) (data : BitVec 64) (s : State), s.dark = false → addr % 8 = 0 → nvsBase + 0x203000 ≤ addr → addr < nvsBase + 0x3FF000 →
    ∃ t, exec (.nvsWrite src addr data true) s = .next t ∧ t = { s with mem := t.mem } ∧
      ∀ x, t.byte x = if addr ≤ x ∧ x < addr + 8 then (leBytes 8 data.toNat).getD (x - addr) 0 else s.byte x) ∧
  (∀ (src addr : Nat) (data : BitVec 64) (wide : Bool) (s : State), s.dark = false →
    addr % 8 ≠ 0 ∨ addr < nvsBase + 0x203000 ∨ nvsBase + 0x3FF000 ≤ addr ∨ wide = false →
    ∃ t, exec (.nvsWrite src addr data wide) s = .next t ∧ t = s.post src 3 1 (addr % 4096) addr ∧ t.mem = s.mem)

/-- With no load in progress, FAB_LOAD_FULL completes as the start of a load of the whole image and FAB_LOAD_PARTIAL as
that of the regions named in bits 23:16 of the written word. While BUSY = 1, either leaves the load in progress as it
is and posts a severity-3 event that names FAB_LOAD. (R53, R54, R59, R66) -/
def Obligations.LoadsStart : Prop :=
  (∀ (v : Word) (src : Nat) (s u : State), Reaches s R.FAB_LOAD u → u.on F.FAB_LOAD_STAT.BUSY = false →
    (∃ t, exec (.fabLoadFull v src) s = .next t ∧ t = u.startLoad true (getBits ((v ||| 1) &&& ~~~(2 : Word)) 23 16)) ∧
    ∃ t, exec (.fabLoadPartial v src) s = .next t ∧ t = u.startLoad false (getBits v 23 16)) ∧
  (∀ (v : Word) (src : Nat) (s u : State), Reaches s R.FAB_LOAD u → u.on F.FAB_LOAD_STAT.BUSY = true →
    (∃ t, exec (.fabLoadFull v src) s = .next t ∧ t = u.postIgnored src 3 R.FAB_LOAD ∧ t.load = u.load ∧ t.on F.FAB_LOAD_STAT.BUSY = true) ∧
    ∃ t, exec (.fabLoadPartial v src) s = .next t ∧ t = u.postIgnored src 3 R.FAB_LOAD ∧ t.load = u.load ∧ t.on F.FAB_LOAD_STAT.BUSY = true)

/-- PRE_APPLY_DONE in phase 1 starts the quiesce of every replaced brew, counts those between frames as quiescent, and
applies once all are. BREW_QUIESCENT in phase 2 of a replaced brew with no frame in it counts it, and applies once it
is the last. QUIESCE_TIMEOUT in phase 2 forces the brews that are not quiescent, unless TMO_MS is 0. APPLY_FETCH_DONE
in phase 3 verifies. With no load, and in any other phase, each changes nothing. (R55, R56, R57, R62, R64) -/
def Obligations.LoadsProceed : Prop :=
  (∀ (s : State) (l : LoadRun), s.dark = false → s.load = some l → s.get F.FAB_LOAD_STAT.PHASE = 1 →
    ∃ t, exec .preApplyDone s = .next t ∧
      (let u := (l.replaced.foldl State.quiesceBrew (s.put F.FAB_LOAD_STAT.PHASE 2)).invalidateB l
       t = (u.quietAll l l.replaced).1.applyIfQuiet (u.quietAll l l.replaced).2)) ∧
  (∀ (b : Fin 16) (s : State) (l : LoadRun), s.dark = false → s.load = some l → s.get F.FAB_LOAD_STAT.PHASE = 2 → l.replaced.contains b.val = true →
    l.quiet.contains b.val = false → s.isQuiet b = true →
    ∃ t, exec (.brewQuiescent b) s = .next t ∧ t = (s.quietBrew l b).1.applyIfQuiet (s.quietBrew l b).2) ∧
  (∀ (s : State) (l : LoadRun), s.dark = false → s.load = some l → s.get F.FAB_LOAD_STAT.PHASE = 2 → s.get F.FAB_QUIESCE_TMO.TMO_MS ≠ 0 →
    ∃ t, exec .quiesceTimeout s = .next t ∧
      (let u := (l.replaced.filter (fun b => !l.quiet.contains b)).foldl State.forceBrew s
       t = (u.quietAll l l.replaced).1.applyIfQuiet (u.quietAll l l.replaced).2)) ∧
  (∀ (s : State) (l : LoadRun), s.dark = false → s.load = some l → s.get F.FAB_LOAD_STAT.PHASE = 2 → s.get F.FAB_QUIESCE_TMO.TMO_MS = 0 →
    exec .quiesceTimeout s = .next s) ∧
  (∀ (s : State) (l : LoadRun), s.dark = false → s.load = some l → s.get F.FAB_LOAD_STAT.PHASE = 3 →
    ∃ t, exec .applyFetchDone s = .next t ∧ t = s.loadVerify l) ∧
  (∀ (b : Fin 16) (s : State), s.load = none → exec .preApplyDone s = .next s ∧ exec (.brewQuiescent b) s = .next s ∧
    exec .quiesceTimeout s = .next s ∧ exec .applyFetchDone s = .next s)

/-- FAB_COMMIT of a brew of the active image that no load holds sets the brew's pending bit, restarts its fetch, and with
no enabled large table fetches at once. Of a brew that is absent or held it posts a severity-3 event and leaves the
pending bits as they are. COMMIT_FETCH_DONE of a brew with a pending, unfetched commit completes as the fetch; of any
other it changes nothing. (R71, R144, R145, R146) -/
def Obligations.CommitsPend : Prop :=
  (∀ (src : Nat) (v : Word) (s u : State) (r : BrewRec), Reaches s R.FAB_COMMIT u → u.brewRec (getBits v 3 0) = some r → u.held (getBits v 3 0) = false →
    (let b := getBits v 3 0
     let w := (u.setBit F.FAB_COMMIT_PEND.PEND b true).setBrew b { u.brew b with fetched := false, tabs := [] }
     w.bit F.FAB_COMMIT_PEND.PEND b = true ∧ (w.brew b).fetched = false ∧
     ∃ t, exec (.fabCommit src v) s = .next t ∧ t = if w.commitHasTables r then w else w.commitFetch r)) ∧
  (∀ (src : Nat) (v : Word) (s u : State), Reaches s R.FAB_COMMIT u → u.brewRec (getBits v 3 0) = none ∨ u.held (getBits v 3 0) = true →
    ∃ t, exec (.fabCommit src v) s = .next t ∧ t = u.postIgnored src 3 R.FAB_COMMIT ∧ t.get F.FAB_COMMIT_PEND.PEND = u.get F.FAB_COMMIT_PEND.PEND) ∧
  (∀ (b : Fin 16) (s : State) (r : BrewRec), s.dark = false → s.brewRec b = some r → s.bit F.FAB_COMMIT_PEND.PEND b = true → (s.brew b).fetched = false →
    ∃ t, exec (.commitFetchDone b) s = .next t ∧ t = s.commitFetch r) ∧
  (∀ (b : Fin 16) (s : State), s.dark = false → s.brewRec b = none ∨ s.bit F.FAB_COMMIT_PEND.PEND b = false ∨ (s.brew b).fetched = true →
    exec (.commitFetchDone b) s = .next s)

/-- QUEUE_ARBITRATION of a free brew with two sources selects the waiting frame with the earlier arrival, and changes
nothing where one is selected. STRIPE_BOUNDARY of a stripe-interleaved brew that is not held completes as the take of
the next stripe. ROOT_SOF_EMIT of a brew that is neither striped nor held emits the beat of the frame it delivers,
once. TILE_SOF_ARRIVE marks the beat at the tile, which switches to the latched set and takes the frame up as its kind
does. FRAME_END_AT_ROOT completes as the end of the frame whose end-of-frame beat leaves the root, and changes nothing
where none does. (R132, R137, R140, R144, R556) -/
def Obligations.FramesThroughBrews : Prop :=
  (∀ (b : Fin 16) (s : State) (r : BrewRec) (f : Frame), s.dark = false → s.brewRec b = some r → r.two = true → r.striped = false → (s.brew r.brew).sel = none →
    (r.sources.filterMap s.headOf).find? (fun f => (r.sources.filterMap s.headOf).all (fun g => earlier f g)) = some f →
    ∃ t, exec (.queueArbitration b) s = .next t ∧ (t.brew r.brew).sel = some f.tile ∧ t = { s with brews := t.brews }) ∧
  (∀ (b : Fin 16) (s : State) (r : BrewRec), s.dark = false → s.brewRec b = some r → (s.brew r.brew).sel.isSome = true →
    exec (.queueArbitration b) s = .next s) ∧
  (∀ (b : Fin 16) (s : State) (r : BrewRec), s.dark = false → s.brewRec b = some r → s.held b = false →
    ∃ t, exec (.stripeBoundary b) s = .next t ∧ t = s.stripeBoundary r) ∧
  (∀ (b : Fin 16) (s : State) (r : BrewRec) (f : Frame), s.dark = false → s.brewRec b = some r → r.striped = false → s.held b = false →
    s.currentFrame r = some f → f.emitted = false →
    ∃ t, exec (.rootSofEmit b) s = .next t ∧
      t = match ((s.emitSof r f).root f.tile).frames.find? (fun g => g.tag == f.tag) with
        | none => s.emitSof r f
        | some g => (s.emitSof r f).updateFrame ((s.emitSof r f).patternDims r g)) ∧
  (∀ (b : Fin 16) (s : State) (r : BrewRec) (f : Frame), s.dark = false → s.brewRec b = some r → s.currentFrame r = some f → f.emitted = true →
    exec (.rootSofEmit b) s = .next s) ∧
  (∀ (k : Fin 48) (s : State) (r : BrewRec) (f : Frame), s.dark = false → s.brewOfTile k = some r → (s.inBrew r).find? (fun f => !f.sofAt.contains k.val) = some f →
    ∃ t, exec (.tileSofArrive k) s = .next t ∧
      (let g := { f with sofAt := f.sofAt ++ [k.val] }
       let u := (s.putFlow r g).switchTile k f.ctx f.par
       t = match tileKind k with
         | .syn => u.synSof r k g
         | .ana => u.anaSof k g
         | .cmx => u.cmxSof r k g
         | .opk => u.opkSof r k g
         | _ => u)) ∧
  (∀ (b : Fin 16) (s : State), s.dark = false → ∃ t, exec (.frameEndAtRoot b) s = .next t ∧ t = s.frameEndAtRoot b) ∧
  (∀ (b : Fin 16) (s : State) (r : BrewRec), s.dark = false → s.brewRec b = some r → s.endingAtRoot r = none → exec (.frameEndAtRoot b) s = .next s)

/-- For RWC_SITE_GAIN and SYN_SITE_GAIN (64 words), COL_COEF_DATA (40) and SYN_COEF_DATA (14): a read that is reached
answers the shadow word at IDX (0 where IDX lies past the end, the model's reading of an index that names no word), a
write stores the low 24 bits of the written word there, and either leaves IDX at the next index, modulo the count. No
other register and no other word changes. (R143, Table 5.14, Table 7.17, Table 8.6) -/
def Obligations.IndexedMemories : Prop :=
  let ok := fun (c : Option Word → Instr) (off : Nat) (idx : Fld) (n : Nat) (at_ : Nat → Nat) =>
    (∀ s u : State, Reads s off u → ∃ t, exec (c none) s = .next t ∧ t.rdata = [BitVec.ofNat 32 (u.ix (at_ (u.idxAt idx n)))] ∧
      t.get idx = (u.idxAt idx n + 1) % n ∧ ∀ o, o ≠ idx.reg → t.reg o = u.reg o) ∧
    (∀ (s u : State) (v : Word), Reaches s off u → ∃ t, exec (c (some v)) s = .next t ∧ t.ix (at_ (u.idxAt idx n)) = v.toNat % 2 ^ 24 ∧
      t.get idx = (u.idxAt idx n + 1) % n ∧ ∀ o, o ≠ idx.reg → o ≠ at_ (u.idxAt idx n) → t.reg o = u.reg o)
  (∀ (k : Fin 4) (x : Fin 2), ok (.rwcSiteGainAccess k x) (R.RWC_SITE_GAIN k x) (F.RWC_SITE_IDX.IDX k x) 64 (ixGain (4 + k) x)) ∧
  (∀ (k : Fin 4) (x : Fin 2), ok (.synSiteGainAccess k x) (R.SYN_SITE_GAIN k x) (F.SYN_SITE_IDX.IDX k x) 64 (ixGain (30 + k) x)) ∧
  (∀ (k : Fin 8) (x : Fin 2), ok (.colCoefDataAccess k x) (R.COL_COEF_DATA k x) (F.COL_COEF_IDX.IDX k x) 40 (ixCoef (12 + k) x)) ∧
  (∀ (k : Fin 4) (x : Fin 2), ok (.synCoefDataAccess k x) (R.SYN_COEF_DATA k x) (F.SYN_COEF_IDX.IDX k x) 14 (ixCoef (30 + k) x))

/-- PLAYBACK_WIDX_WRITE to ING2 or ING3 leaves ING_PB_WIDX as its access types give and to ING0 or ING1 has no effect.
PLAYBACK_DESCRIPTOR_TAKE with the ring empty and a descriptor to repeat starts its frame again; with neither, or a
tile that is no free root in playback, it changes nothing; with the ring not empty it advances RIDX and starts the
frame of the descriptor read. PATTERN_START_INSTANT of a running, free-running tile counts a skip while its brew is
not free, and starts a frame where it is. ING_SEQ_LO_READ answers the register and leaves in ING_SEQ_HI bits 43:32 of
the last sequence number. (R126, R153, R200, R202, R203, R5) -/
def Obligations.FrameSources : Prop :=
  (∀ (k : Fin 4) (v : Word) (src : Nat) (s u : State), 2 ≤ k.val → Reaches s (R.ING_PB_WIDX k 0) u → ∃ t, exec (.playbackWidxWrite k v src) s = .next t ∧
    t.reg (R.ING_PB_WIDX k 0) = u.written (R.ING_PB_WIDX k 0) v ∧ ∀ o, o ∉ [R.ING_PB_WIDX k 0, R.EVT_LOSS, R.PWR_WAKE_CAUSE] → t.reg o = u.reg o) ∧
  (∀ (k : Fin 4) (v : Word) (src : Nat) (s u : State), k.val < 2 → Reaches s (R.ING_PB_WIDX k 0) u → exec (.playbackWidxWrite k v src) s = .next u) ∧
  (∀ (k : Fin 4) (s : State) (b : BrewRec) (x : Nat), s.dark = false → s.brewOfRoot k = some (b, x) →
    (playTiles k && s.onCur (F.ING_CFG.SRCSEL k (s.ingCtx k)) && s.onCur (F.ING_CFG.ENABLE k (s.ingCtx k)) && s.playbackDue b k) = true →
    (let c := s.ingCtx k
     let n := ringSize (s.get (F.ING_PB_CTL.LOG2CNT k c)) 1 12
     let i := s.get (F.ING_PB_CTL.RIDX k c) % n
     (i = s.get (F.ING_PB_WIDX.WIDX k c) % n → ∃ t, exec (.playbackDescriptorTake k) s = .next t ∧
       t = match (s.root k).again with
         | none => s
         | some d => s.playTake k b x (some d)) ∧
     (i ≠ s.get (F.ING_PB_WIDX.WIDX k c) % n → ∀ (d : List Byte) (u : State), s.engRead (rootReq k none) (s.addr (R.ING_PB_LO k c) (R.ING_PB_HI k c) + 32 * i) 32 = (.ok d, u) →
       (field d 0x11 1).testBit 1 = false → ∃ t, exec (.playbackDescriptorTake k) s = .next t ∧
         t = (u.put (F.ING_PB_CTL.RIDX k c) ((i + 1) % n)).playTake k b x (some d)))) ∧
  (∀ (k : Fin 4) (s : State), s.dark = false → s.brewOfRoot k = none → exec (.playbackDescriptorTake k) s = .next s) ∧
  (∀ (j : Fin 2) (s : State) (b : BrewRec) (x : Nat), s.dark = false → s.patBase j 0 = true → s.brewOfRoot (34 + j) = some (b, x) → s.onCur (F.PAT_CFG.RUN j 0) = true →
    s.brewFree b = false → ∃ t, exec (.patternStartInstant j) s = .next t ∧ t = s.bump (F.PAT_STAT.SKIPS j 0)) ∧
  (∀ (j : Fin 2) (s : State) (b : BrewRec) (x : Nat), s.dark = false → s.patBase j 0 = true → s.brewOfRoot (34 + j) = some (b, x) → s.onCur (F.PAT_CFG.RUN j 0) = true →
    s.brewFree b = true → ∃ t, exec (.patternStartInstant j) s = .next t ∧
      (let r := s.newFrame (34 + j) x ⟨0, s.getCur (F.PAT_SIZE.WIDTH j 0), s.getCur (F.PAT_SIZE.HEIGHT j 0), 0, 3, s.time, s.time, 3, none,
        some (s.get (F.PAT_SGEN.SGEN j 0))⟩ (s.brew b.brew).commits
       t = r.2.enterFrame b { r.1 with closed := true })) ∧
  (∀ (k : Fin 4) (s u : State), Reads s (R.ING_SEQ_LO k 0) u → ∃ t, exec (.ingSeqLoRead k) s = .next t ∧ t.rdata = [u.reg (R.ING_SEQ_LO k 0)] ∧
    t.get (F.ING_SEQ_HI.SEQ k 0) = (if 0 = u.ingCtx k then u.lastFrameSeq k / 2 ^ 32 else 0))

/-- STATS_FRAME_END with a frame ending at the tile completes: a frame its brew ended as a drop unit takes no tap slot and
no measures (where the tap is off), and appends to the tile's waiting records one with its tag, context and an empty
body, counts INVALID, posts the drop of the records' row and releases the frame; a whole frame whose context has no
record waiting and whose grid fits appends a record with its measures as the body, and is released. With no frame
ending there nothing changes. STATS_RECORD_WRITTEN takes the oldest waiting record and writes it through the tile's
port at WIDX of the ring that the records of both contexts share; with none waiting nothing changes. (R156, R161,
R162, R163) -/
def Obligations.StatisticsFrames : Prop :=
  (∀ (t : Fin 4) (fits : Nat) (s : State) (b : BrewRec) (f : Frame), s.dark = false → s.brewOfTile (26 + t.val) = some b → s.endingAt b (26 + t.val) = some f →
    f.bad = true → (⟨f.par, f.tabs⟩ : Par).on (F.STA_CFG.TAP_EN t f.ctx) = false →
    ∃ u, exec (.statsFrameEnd t fits) s = .next u ∧ ∃ r : PendRec, r.tag = f.tag ∧ r.ctx = f.ctx ∧ r.body = [] ∧
      u = (((s.setSta (26 + t.val) (s.staPend (26 + t.val) ++ [r])).bump (F.STA_STAT.INVALID t f.ctx)).dropUnit (26 + t.val) 4 rowStats f.tag).sinkDone b f (26 + t.val)) ∧
  (∀ (t : Fin 4) (fits : Nat) (s : State) (b : BrewRec) (f : Frame), s.dark = false → s.brewOfTile (26 + t.val) = some b → s.endingAt b (26 + t.val) = some f →
    f.bad = false → (⟨f.par, f.tabs⟩ : Par).on (F.STA_CFG.TAP_EN t f.ctx) = false →
    (s.staPend (26 + t.val)).any (fun x => x.ctx == f.ctx) = false →
    (let i := tileIn s.cfg b f (26 + t.val)
     let m := s.cfg.mosaicAt b.brew f.ctx
     gridFault ⟨f.par, f.tabs⟩ m t f.ctx i.pic.n = false →
     ∃ u, exec (.statsFrameEnd t fits) s = .next u ∧ ∃ r : PendRec, r.tag = f.tag ∧ r.ctx = f.ctx ∧
       r.body = statsBody ⟨f.par, f.tabs⟩ m i.mOk t f.ctx i.pic ∧ r.header = s.statsHeader b f (26 + t.val) ⟨false, 0, 0, false, false⟩ ∧
       u = (s.setSta (26 + t.val) (s.staPend (26 + t.val) ++ [r])).sinkDone b f (26 + t.val))) ∧
  (∀ (t : Fin 4) (fits : Nat) (s : State), s.brewOfTile (26 + t.val) = none ∨ (∃ b, s.brewOfTile (26 + t.val) = some b ∧ s.endingAt b (26 + t.val) = none) →
    exec (.statsFrameEnd t fits) s = .next s) ∧
  (∀ (t : Fin 4) (s : State) (x : PendRec) (r : List PendRec), s.dark = false → s.staPend (26 + t.val) = x :: r →
    ∃ u, exec (.statsRecordWritten t) s = .next u ∧
      u = (s.setSta (26 + t.val) r).resultRecord (portReq (26 + t.val) ((s.cfg.portOf (26 + t.val)).getD 0) (some x.tag.toNat))
        (s.addr (R.STA_REC_LO (26 + t.val - 26) 0) (R.STA_REC_HI (26 + t.val - 26) 0)) (s.get (F.STA_REC_CTL.LOG2CNT (26 + t.val - 26) 0))
        (F.STA_REC_CTL.WIDX (26 + t.val - 26) 0) 0 x) ∧
  (∀ (t : Fin 4) (s : State), s.staPend (26 + t.val) = [] → exec (.statsRecordWritten t) s = .next s)

/-- B_FRAME_STORE of a tile whose second input is static, or whose MODE is 2 or more, only releases the frame that ended
there; of a frame too large for a slot it counts B_DROPS too; with no frame ending there it changes nothing.
ANALYSIS_PAIRING in MODE 0 takes from the queue every unread frame below the wanted number and counts them in
B_SKIPPED, then pairs with an unread frame of that number, or, where the queue holds none, chooses one of that number
that has begun; with none, none begun above it and WAIT_US not 0 it goes on waiting, and ANALYSIS_WAIT_TIMEOUT ends
the wait as unmatched. In MODE 1 both take the oldest unread frame. A frame whose partner was chosen takes it from the
queue once it is there, waits while it is on its way, and is unmatched where it no longer comes. With no A frame
waiting both change nothing. (R215, R216, R217, R221) -/
def Obligations.AnalysisPairs : Prop :=
  (∀ (t : Fin 4) (s : State) (b : BrewRec) (f : Frame) (w : Nat), s.dark = false → s.endingB (36 + t.val) = some (b, f, w) →
    s.onCur (F.ANA_CFG.B_SRC (36 + t.val - 36) 0) = true ∨ 2 ≤ s.getCur (F.ANA_MATCH.MODE (36 + t.val - 36) 0) →
    ∃ u, exec (.bFrameStore t) s = .next u ∧ u = s.sinkDone b f (100 + (36 + t.val))) ∧
  (∀ (t : Fin 4) (s : State) (b : BrewRec) (f : Frame) (w : Nat), s.dark = false → s.endingB (36 + t.val) = some (b, f, w) →
    s.onCur (F.ANA_CFG.B_SRC (36 + t.val - 36) 0) = false → s.getCur (F.ANA_MATCH.MODE (36 + t.val - 36) 0) < 2 →
    (let i := (tileOut s.cfg b f 48 w).pic
     s.get (F.ANA_BQ_CTL.SLOT (36 + t.val - 36) 0) * 65536 < i.h * tapPitch i.w i.n (s.on (F.ANA_BQ_CTL.ENC (36 + t.val - 36) 0)) →
     ∃ u, exec (.bFrameStore t) s = .next u ∧ u = (s.sinkDone b f (100 + (36 + t.val))).bump (F.ANA_STAT2.B_DROPS (36 + t.val - 36) 0))) ∧
  (∀ (t : Fin 4) (s : State), s.endingB (36 + t.val) = none → exec (.bFrameStore t) s = .next s) ∧
  (∀ (t : Fin 4) (s : State) (a : AnaCur), s.dark = false → (s.anaRun (36 + t.val)).waitingA = some a → a.chosen = none →
    s.getCur (F.ANA_MATCH.MODE (36 + t.val - 36) a.ctx) = 0 →
    (let x := s.anaRun (36 + t.val)
     let want := s.wantedSeq (36 + t.val) a
     let low := x.bq.filter (fun e => decide (seqDiff e.tag.seq want < 0) && !x.reads e.slot)
     let v := (s.setAna (36 + t.val) { x with bq := x.bq.filter (fun e => !low.contains e) }).bumpBy (F.ANA_STAT2.B_SKIPPED (36 + t.val - 36) a.ctx) low.length
     let next := x.bq.find? (fun e => e.tag.seq == want && !x.reads e.slot)
     let begun := (s.startedB (36 + t.val)).find? (fun f => f.tag.seq == want)
     (∀ e, next = some e → ∃ u, exec (.analysisPairing t) s = .next u ∧ exec (.analysisWaitTimeout t) s = .next u ∧ u = v.pairWith (36 + t.val) a e) ∧
     (next = none → ∀ f, begun = some f → ∃ u, exec (.analysisPairing t) s = .next u ∧ exec (.analysisWaitTimeout t) s = .next u ∧ u = v.chooseB (36 + t.val) a f) ∧
     (next = none → begun = none → (∃ u, exec (.analysisWaitTimeout t) s = .next u ∧ u = v.unmatched (36 + t.val) a) ∧
       (s.getCur (F.ANA_MATCH.WAIT_US (36 + t.val - 36) a.ctx) ≠ 0 → x.bq.any (fun e => decide (0 < seqDiff e.tag.seq want)) = false →
         (s.startedB (36 + t.val)).any (fun f => decide (0 < seqDiff f.tag.seq want)) = false →
         ∃ u, exec (.analysisPairing t) s = .next u ∧ u = v)))) ∧
  (∀ (t : Fin 4) (s : State) (a : AnaCur) (e : BEntry), s.dark = false → (s.anaRun (36 + t.val)).waitingA = some a → a.chosen = none →
    s.getCur (F.ANA_MATCH.MODE (36 + t.val - 36) a.ctx) ≠ 0 →
    (s.anaRun (36 + t.val)).bq.find? (fun e => !(s.anaRun (36 + t.val)).reads e.slot) = some e →
    ∃ u, exec (.analysisPairing t) s = .next u ∧ exec (.analysisWaitTimeout t) s = .next u ∧ u = s.pairWith (36 + t.val) a e) ∧
  (∀ (t : Fin 4) (s : State) (a : AnaCur) (tag : FrameTag), s.dark = false → (s.anaRun (36 + t.val)).waitingA = some a → a.chosen = some tag →
    (let held := (s.anaRun (36 + t.val)).bq.find? (fun e => e.tag == tag && !(s.anaRun (36 + t.val)).reads e.slot)
     (∀ e, held = some e → ∃ u, exec (.analysisPairing t) s = .next u ∧ u = s.pairWith (36 + t.val) a e) ∧
     (held = none → (s.startedB (36 + t.val)).any (fun f => f.tag == tag) = true → exec (.analysisPairing t) s = .next s) ∧
     (held = none → (s.startedB (36 + t.val)).any (fun f => f.tag == tag) = false → ∃ u, exec (.analysisPairing t) s = .next u ∧ u = s.unmatched (36 + t.val) a))) ∧
  (∀ (t : Fin 4) (s : State), (s.anaRun (36 + t.val)).waitingA = none → exec (.analysisPairing t) s = .next s ∧ exec (.analysisWaitTimeout t) s = .next s)

/-- ANALYSIS_FRAME_END of a frame whose partner is decided appends its record to those waiting, gives up the slot of its
partner and its own place, and releases the frame; where the frame is a drop unit, a record of its context is still
waiting, or it has no partner, the tile also counts INVALID and posts the drop of the analysis row, and in the first
two cases the record has no body and no line CRCs. With no frame ending, or with one whose partner is undecided,
nothing changes. ANALYSIS_RECORD_WRITTEN takes the oldest record and writes it at WIDX of the ring, the line CRCs with
it; with none waiting nothing changes. (R217, R230, R231) -/
def Obligations.AnalysisRecords : Prop :=
  (∀ (t : Fin 4) (s : State) (b : BrewRec) (f : Frame) (a : AnaCur), s.dark = false → s.brewOfTile (36 + t.val) = some b → s.endingAt b (36 + t.val) = some f →
    (s.anaRun (36 + t.val)).cur.find? (fun a => a.tag == f.tag && a.decided) = some a →
    (let x := s.anaRun (36 + t.val)
     let r := s.anaRecord b f (36 + t.val) a
     let v := s.setAna (36 + t.val) ⟨x.bq.filter (fun e => a.slot != some e.slot), x.cur.filter (fun c => c.tag != a.tag), x.pend ++ [r]⟩
     ((f.bad = true ∨ (x.pend.any (fun r => r.ctx == f.ctx)) = true) → r.body = [] ∧ r.lines = []) ∧
     (f.bad = true ∨ (x.pend.any (fun r => r.ctx == f.ctx)) = true ∨ a.flags &&& (anaUnmatched + anaBDropped + anaMismatch) ≠ 0 →
       ∃ u, exec (.analysisFrameEnd t) s = .next u ∧ u = ((v.bump (F.ANA_STAT.INVALID t f.ctx)).dropUnit (36 + t.val) 4 rowAnalysis f.tag).sinkDone b f (36 + t.val)) ∧
     (f.bad = false → (x.pend.any (fun r => r.ctx == f.ctx)) = false → a.flags &&& (anaUnmatched + anaBDropped + anaMismatch) = 0 →
       ∃ u, exec (.analysisFrameEnd t) s = .next u ∧ u = v.sinkDone b f (36 + t.val)))) ∧
  (∀ (t : Fin 4) (s : State) (b : BrewRec), s.dark = false → s.brewOfTile (36 + t.val) = some b → s.endingAt b (36 + t.val) = none ∨
    (∃ f, s.endingAt b (36 + t.val) = some f ∧ (s.anaRun (36 + t.val)).cur.find? (fun a => a.tag == f.tag && a.decided) = none) →
    exec (.analysisFrameEnd t) s = .next s) ∧
  (∀ (t : Fin 4) (s : State), s.brewOfTile (36 + t.val) = none → exec (.analysisFrameEnd t) s = .next s) ∧
  (∀ (t : Fin 4) (s : State) (r : PendRec) (rest : List PendRec), s.dark = false → (s.anaRun (36 + t.val)).pend = r :: rest →
    ∃ u, exec (.analysisRecordWritten t) s = .next u ∧
      u = (s.setAna (36 + t.val) { s.anaRun (36 + t.val) with pend := rest }).resultRecord (s.anaReq (36 + t.val) r.ctx (some r.tag.toNat))
        (s.addr (R.ANA_REC_LO (36 + t.val - 36) 0) (R.ANA_REC_HI (36 + t.val - 36) 0)) (s.get (F.ANA_REC_CTL.LOG2CNT (36 + t.val - 36) 0))
        (F.ANA_REC_CTL.WIDX (36 + t.val - 36) 0) (s.addr (R.ANA_LCRC_LO (36 + t.val - 36) 0) (R.ANA_LCRC_HI (36 + t.val - 36) 0)) r) ∧
  (∀ (t : Fin 4) (s : State), (s.anaRun (36 + t.val)).pend = [] → exec (.analysisRecordWritten t) s = .next s)

/-- CMX_B_FRAME_STORE of a frame its brew ended as a drop unit, or of a held brew, only releases it; of a frame too large
for a slot it leaves the tile's latest B frame too large and counts B_LOST; with no frame ending there nothing
changes. OPK_FRAME_WRITE of a whole frame with no free slot appends a record with VALID = 0, counts DROPS, posts the
drop and releases the frame; of a frame its brew dropped it appends such a record and releases it; with no frame
ending at a tile of a brew nothing changes. OPK_BUFFER_RECORD takes the oldest waiting record and writes it to the
record ring; where it is written and valid, LAST is its slot, it is the tile's latest frame and it is offered to the
encode contexts bound to the tile; with none waiting nothing changes. (R240, R241, R244, R245, R274, Table 10.2) -/
def Obligations.ComposeAndPack : Prop :=
  (∀ (t : Fin 4) (s : State) (b : BrewRec) (f : Frame) (w : Nat), s.dark = false → s.endingB (40 + t.val) = some (b, f, w) →
    f.bad = true ∨ s.held b.brew = true → ∃ u, exec (.cmxBFrameStore t) s = .next u ∧ u = s.sinkDone b f (100 + (40 + t.val))) ∧
  (∀ (t : Fin 4) (s : State) (b : BrewRec) (f : Frame) (w : Nat), s.dark = false → s.endingB (40 + t.val) = some (b, f, w) →
    f.bad = false → s.held b.brew = false →
    (let i := (tileOut s.cfg b f 48 w).pic
     s.get (F.CMX_BBUF_CTL.SLOT (40 + t.val - 40) 0) * 65536 < i.h * tapPitch i.w i.n true →
     ∃ u, exec (.cmxBFrameStore t) s = .next u ∧
       u = ((s.sinkDone b f (100 + (40 + t.val))).setCmx (40 + t.val) { s.cmxRun (40 + t.val) with latest := .tooLarge }).bump (F.CMX_STAT.B_LOST (40 + t.val - 40) 0))) ∧
  (∀ (t : Fin 4) (s : State), s.endingB (40 + t.val) = none → exec (.cmxBFrameStore t) s = .next s) ∧
  (∀ (t : Fin 4) (s : State) (b : BrewRec) (f : Frame) (port : Nat), s.dark = false → s.brewOfTile (44 + t.val) = some b → s.endingAt b (44 + t.val) = some f →
    s.cfg.portOf (44 + t.val) = some port → f.bad = true ∨ s.opkSlot (44 + t.val) f.ctx = none →
    ∃ u, exec (.opkFrameWrite t) s = .next u ∧ ∃ k : OpkSlot, k.tag = f.tag ∧ k.valid = false ∧
      (let v := s.setOpk (44 + t.val) { s.opkRun (44 + t.val) with pend := (s.opkRun (44 + t.val)).pend ++ [k] }
       u = (if f.bad then v else (v.bump (F.OPK_STAT.DROPS (44 + t.val - 44) f.ctx)).dropUnit (44 + t.val) 4 rowBrew f.tag).sinkDone b f (44 + t.val))) ∧
  (∀ (t : Fin 4) (s : State), s.brewOfTile (44 + t.val) = none ∨ (∃ b, s.brewOfTile (44 + t.val) = some b ∧ s.endingAt b (44 + t.val) = none) →
    exec (.opkFrameWrite t) s = .next s) ∧
  (∀ (t : Fin 4) (s v : State) (k : OpkSlot) (rest : List OpkSlot), s.dark = false → (s.opkRun (44 + t.val)).pend = k :: rest →
    (let j := 44 + t.val - 44
     let c := k.slot / 4
     (s.setOpk (44 + t.val) { s.opkRun (44 + t.val) with pend := rest }).ringRecord (portReq (44 + t.val) ((s.cfg.portOf (44 + t.val)).getD 0) (some k.tag.toNat))
       (s.addr (R.OPK_REC_LO j c) (R.OPK_REC_HI j c)) 64 (ringSize (s.get (F.OPK_REC_CTL.LOG2CNT j c)) 4 16) (F.OPK_REC_CTL.WIDX j c) k.record = (true, v) → k.valid = true →
     ∃ u, exec (.opkBufferRecord t) s = .next u ∧
      (let y := v.feed 4 (44 + t.val) ⟨k.tag.toNat, k.addr, (if k.fmt = 3 then k.h + (k.h + 1) / 2 else k.h) * k.pitch, k.w, k.h, k.pitch, k.slot, false, false, none⟩
       u = ((y.setOpk (44 + t.val) { y.opkRun (44 + t.val) with latest := some k, count := (y.opkRun (44 + t.val)).count + 1 }).put
         (F.OPK_STAT.LAST j c) (k.slot % 4)).offer (44 + t.val) k))) ∧
  (∀ (t : Fin 4) (s : State), (s.opkRun (44 + t.val)).pend = [] → exec (.opkBufferRecord t) s = .next s)

/-- At a half that sees columns (enabled, not raw, past its lanes): IDLE_COLUMN changes nothing but ALIGN_ERR; a column
whose blocks are all control blocks of one type known at the version in force changes nothing, and a column of valid
blocks that are not adds one. ALIGN_COLUMN on valid lanes whose lane indices are not 0, 1, ... in order, or with a
skew above 16 columns, sets SKEW_FAIL, posts the severity-4 link event and realigns with no good column kept; one in
order within the skew is remembered, and when it comes 16,384 columns after a good one, while the half looks for
alignment, clears SKEW_FAIL and sends the half to negotiation, or back to the state it had. XS_COLUMN at version 3
keeps the frame number with the arrival time less XSCOMP, after those kept; at any other version it counts ALIGN_ERR.
A half that realigns a link discards IDLE and XS columns, and a half that sees no columns changes by none. (R97, R98,
R100, R107, R110) -/
def Obligations.LinkColumns : Prop :=
  (∀ (p : Fin 2) (col : List (BitVec 2 × BitVec 64)) (s : State), s.dark = false → s.rxSees p = true → s.rxDiscards p = false →
    ∃ u, exec (.idleColumn p col) s = .next u ∧ u = s.bumpBy (F.SLK_ERR.ALIGN_ERR p) (s.columnErrors p col)) ∧
  (∀ (p : Fin 2) (ty : Nat) (col : List (BitVec 2 × BitVec 64)) (s : State), (∀ e ∈ col, e.1 = 2 ∧ e.2.toNat % 256 = ty) → s.columnKnown p ty = true →
    s.columnErrors p col = 0) ∧
  (∀ (p : Fin 2) (col : List (BitVec 2 × BitVec 64)) (s : State) (e f : BitVec 2 × BitVec 64), (∀ e ∈ col, e.1 = 1 ∨ e.1 = 2) → e ∈ col → f ∈ col →
    e.1 = 1 ∨ e.2.toNat % 256 ≠ f.2.toNat % 256 → s.columnErrors p col = 1) ∧
  (∀ (p : Fin 2) (col : List (Nat × Nat)) (gap : Nat) (s : State), s.dark = false → s.rxSees p = true → s.linkValid p = true →
    col.map (·.1) ≠ List.range (s.cfg.linkLanes p).length ∨ (∃ e ∈ col, 16 < e.2) →
    ∃ u, exec (.alignColumn p col gap) s = .next u ∧
      (let v := ((s.put (F.SLK_STAT.SKEW_FAIL p) 1).linkEvent p 4).rxRealign p
       u = v.setRx p { v.rxH p with good := 0 } ∧ (u.rxH p).good = 0)) ∧
  (∀ (p : Fin 2) (col : List (Nat × Nat)) (gap : Nat) (s : State), s.dark = false → s.rxSees p = true → s.linkValid p = true →
    col.map (·.1) = List.range (s.cfg.linkLanes p).length → (∀ e ∈ col, e.2 ≤ 16) →
    (gap ≠ 16384 ∨ (s.rxH p).good = 0 → ∃ u, exec (.alignColumn p col gap) s = .next u ∧ u = s.setRx p { s.rxH p with good := 1 }) ∧
    (gap = 16384 → 0 < (s.rxH p).good → s.rxState p = 2 → ∃ u, exec (.alignColumn p col gap) s = .next u ∧
      u = ((s.setRx p { s.rxH p with good := 2 }).put (F.SLK_STAT.SKEW_FAIL p) 0 |>.setRx p { s.rxH p with good := 2, back := 0, backVer := 0 }).andThen
        [(·.put (F.SLK_STAT.RX_STATE p) (if (s.rxH p).back = 0 then 3 else (s.rxH p).back)), (·.put (F.SLK_STAT.RX_VER p) (s.rxH p).backVer)])) ∧
  (∀ (p : Fin 2) (num : BitVec 24) (s : State), s.dark = false → s.rxSees p = true → s.rxDiscards p = false → s.rxState p = 4 → s.get (F.SLK_STAT.RX_VER p) = 3 →
    ∃ u, exec (.xsColumn p num) s = .next u ∧
      u = s.setRx p { s.rxH p with xs := (s.rxH p).xs ++ [(num.toNat, timeMinusNs s.time (s.get (F.SLK_XSCOMP.NS p)))] }) ∧
  (∀ (p : Fin 2) (num : BitVec 24) (s : State), s.dark = false → s.rxSees p = true → s.rxDiscards p = false → s.get (F.SLK_STAT.RX_VER p) ≠ 3 →
    ∃ u, exec (.xsColumn p num) s = .next u ∧ u = s.bump (F.SLK_ERR.ALIGN_ERR p)) ∧
  (∀ (p : Fin 2) (a : List (BitVec 2 × BitVec 64)) (num : BitVec 24) (s : State), s.rxSees p = false ∨ s.rxDiscards p = true →
    exec (.idleColumn p a) s = .next s ∧ exec (.xsColumn p num) s = .next s) ∧
  (∀ (p : Fin 2) (col : List (Nat × Nat)) (gap : Nat) (s : State), s.rxSees p = false ∨ s.linkValid p = false → exec (.alignColumn p col gap) s = .next s)

/-- CAP_PACKET at a negotiating half: a packet that fails its check counts SLK_ERR.CRC; one without a common version sets
NEG_FAIL with the severity-4 link event; one with SELECTED a version the half can take, on a half that names no
control port, brings the link up at that version. CAP_SEND of a source that has selected no version emits one packet
with its versions, lane count and rate (and an identifier left open) and marks the exchange begun; with a version
selected it counts its packets down and the last brings the transmit link up at that version. NEG_TIMEOUT after the
first CAP lets the source select its highest version, with 16 packets to send; before the first CAP it changes
nothing. ALIGN_SEND of a half past its lanes, not raw, emits one column and steps the marker, modulo 65,536. (R103,
R104, R105, Table 4.5) -/
def Obligations.LinkNegotiates : Prop :=
  (∀ (p : Fin 2) (mask : BitVec 3) (sel : BitVec 2) (ok : Bool) (s : State), s.dark = false → s.rxSees p = true → 3 ≤ s.rxState p →
    (ok && s.packetLanesOk p 24) = false → ∃ u, exec (.capPacket p mask sel ok) s = .next u ∧ u = s.bump (F.SLK_ERR.CRC p)) ∧
  (∀ (p : Fin 2) (mask : BitVec 3) (sel : BitVec 2) (s : State), s.dark = false → s.rxSees p = true → s.rxState p = 3 → s.packetLanesOk p 24 = true →
    (let m := max 1 (s.get (F.SLK_RXCFG.MAXVER p))
     (topVersion (mask.toNat % 2 ^ m) = 0 ∨ m < sel.toNat → ∃ u, exec (.capPacket p mask sel true) s = .next u ∧ u = (s.put (F.SLK_STAT.NEG_FAIL p) 1).linkEvent p 4) ∧
     (topVersion (mask.toNat % 2 ^ m) ≠ 0 → 0 < sel.toNat → sel.toNat ≤ m → 4 ≤ s.get (F.SLK_RXCFG.SCP p) →
       ∃ u, exec (.capPacket p mask sel true) s = .next u ∧ u = s.rxUp p sel.toNat))) ∧
  (∀ (p : Fin 2) (mask : BitVec 3) (sel : BitVec 2) (ok : Bool) (s : State), s.rxSees p = false ∨ s.rxState p < 3 →
    exec (.capPacket p mask sel ok) s = .next s) ∧
  (∀ (p : Fin 2) (s : State), s.dark = false → s.txState p = 3 →
    let rate := match s.cfg.lanes.find? (fun r => r.link == 2 + p.val) with | some r => r.rate | none => 0
    let lanes := (s.cfg.linkLanes (2 + p)).length
    let v := s.takeFree.2.sendPacket p
      (packet 0x10 (2 ^ s.txMax p - 1 + 256 * (s.txH p).ver) (s.takeFree.1.toNat % 2 ^ 32) (leBytes 1 lanes ++ [0] ++ leBytes 2 rate ++ zeros 4) false)
    ∃ u, exec (.capSend p) s = .next u ∧
      ((s.txH p).ver = 0 → u = v.setTx p { v.txH p with capSent := true }) ∧
      ((s.txH p).ver ≠ 0 → (s.txH p).capLeft ≤ 1 → u = (v.setTx p { v.txH p with capSent := true, capLeft := 0 }).txUp p (s.txH p).ver) ∧
      ((s.txH p).ver ≠ 0 → 1 < (s.txH p).capLeft → u = v.setTx p { v.txH p with capSent := true, capLeft := (s.txH p).capLeft - 1 })) ∧
  (∀ (p : Fin 2) (s : State), s.txState p ≠ 3 → exec (.capSend p) s = .next s) ∧
  (∀ (p : Fin 2) (s : State), s.dark = false → (s.txH p).capSent = true → s.txState p = 3 → (s.txH p).ver = 0 →
    ∃ u, exec (.negTimeout p) s = .next u ∧ u = s.setTx p { s.txH p with ver := s.txMax p, capLeft := 16 }) ∧
  (∀ (p : Fin 2) (s : State), (s.txH p).capSent = false ∨ s.txState p ≠ 3 ∨ (s.txH p).ver ≠ 0 → exec (.negTimeout p) s = .next s) ∧
  (∀ (p : Fin 2) (s : State), s.dark = false → 3 ≤ s.txState p → s.txRaw p = false →
    ∃ u, exec (.alignSend p) s = .next u ∧
      u = (s.setTx p { s.txH p with marker := ((s.txH p).marker + 1) % 65536 }).sendColumn p
        ((List.range (s.cfg.linkLanes (2 + p)).length).map (fun k => (true, 0x33 + 256 * k + 65536 * (s.txH p).marker)))) ∧
  (∀ (p : Fin 2) (s : State), s.txState p < 3 ∨ s.txRaw p = true → exec (.alignSend p) s = .next s)

/-- At a half that is up: FS, FE or MD that fails its CRC or had a block on an invalid lane counts SLK_ERR.CRC and no
more. An FS closes the frame that is open, settles what its number says of lost frames, and starts a frame; at version
1 the number is taken modulo 65,536. An LD with no frame open is one lost frame, the first time, and nothing after. A
bad LD inside a frame counts CRC and, at version 1, loses the next line. A good LD whose line number the frame still
wants delivers the samples of a payload of the right length as that line and settles it; one of a line the frame no
longer wants counts CRC. An FE closes the open frame. An MD inside a frame below version 3 counts CRC. At a half that
is not up each changes nothing. (R99, R101, R102, R107, R108, R109, R129, R135) -/
def Obligations.LinkPackets : Prop :=
  (∀ (p : Fin 2) (num : Word) (sgen w h : Half) (d : Byte) (pl : List Byte) (ok : Bool) (s : State), s.dark = false → s.rxTakes p = true →
    ((ok && s.packetLanesOk p 24) = false → ∃ u, exec (.fsPacket p num sgen w h d ok) s = .next u ∧ u = s.bump (F.SLK_ERR.CRC p)) ∧
    ((ok && s.packetLanesOk p 16) = false → ∃ u, exec (.fePacket p ok) s = .next u ∧ u = s.bump (F.SLK_ERR.CRC p)) ∧
    ((ok && s.packetLanesOk p (16 + pl.length)) = false → ∃ u, exec (.mdPacket p pl ok) s = .next u ∧ u = s.bump (F.SLK_ERR.CRC p))) ∧
  (∀ (p : Fin 2) (num : Word) (sgen w h : Half) (d : Byte) (s : State), s.dark = false → s.rxTakes p = true → s.packetLanesOk p 24 = true →
    ∃ u, exec (.fsPacket p num sgen w h d true) s = .next u ∧
      (let v2 := decide (2 ≤ s.get (F.SLK_STAT.RX_VER p))
       let n := if v2 then num.toNat else num.toNat % 65536
       u = ((s.rxClose p).fsNumber p n).linkStart p n sgen.toNat w.toNat h.toNat d.toNat n v2)) ∧
  (∀ (p : Fin 2) (s : State), s.dark = false → s.rxTakes p = true → s.packetLanesOk p 16 = true → ∃ u, exec (.fePacket p true) s = .next u ∧ u = s.rxClose p) ∧
  (∀ (p : Fin 2) (pl : List Byte) (s : State) (f : LinkFrame), s.dark = false → s.rxTakes p = true → s.packetLanesOk p (16 + pl.length) = true →
    (s.rxH p).frame = some f → f.full = false → s.get (F.SLK_STAT.RX_VER p) < 3 → ∃ u, exec (.mdPacket p pl true) s = .next u ∧ u = s.bump (F.SLK_ERR.CRC p)) ∧
  (∀ (p : Fin 2) (num : Word) (sgen : Half) (pl : List Byte) (fits : Bool) (s : State), s.dark = false → s.rxTakes p = true → s.packetLanesOk p (16 + pl.length) = true →
    ((s.rxH p).frame = none → (s.rxH p).skipping = false →
      ∃ u, exec (.ldPacket p num sgen pl true fits) s = .next u ∧ u = (s.setRx p { s.rxH p with skipping := true, lostSince := (s.rxH p).lostSince + 1 }).linkLost p) ∧
    ((s.rxH p).frame = none → (s.rxH p).skipping = true → exec (.ldPacket p num sgen pl true fits) s = .next s) ∧
    (∀ f : LinkFrame, (s.rxH p).frame = some f → f.full = false → 2 ≤ s.get (F.SLK_STAT.RX_VER p) →
      (f.h ≤ num.toNat ∨ num.toNat < f.next → ∃ u, exec (.ldPacket p num sgen pl true fits) s = .next u ∧ u = s.bump (F.SLK_ERR.CRC p)) ∧
      (f.next ≤ num.toNat → num.toNat < f.h → pl.length = lineBytes f.w f.depth →
        ∃ u, exec (.ldPacket p num sgen pl true fits) s = .next u ∧
          u = ((s.sgenMismatch p sgen.toNat f).lineArrives p num.toNat (sampleRow (unpackCodes f.depth f.w pl)) fits).lineSettled p num.toNat f))) ∧
  (∀ (p : Fin 2) (num : Word) (sgen : Half) (pl : List Byte) (fits : Bool) (s : State) (f : LinkFrame), s.dark = false → s.rxTakes p = true → (s.rxH p).frame = some f → f.full = false →
    ∃ u, exec (.ldPacket p num sgen pl false fits) s = .next u ∧ u = if 2 ≤ (s.bump (F.SLK_ERR.CRC p)).get (F.SLK_STAT.RX_VER p) then s.bump (F.SLK_ERR.CRC p)
      else ((s.bump (F.SLK_ERR.CRC p)).lineLost p).lineSettled p f.next f) ∧
  (∀ (p : Fin 2) (num : Word) (sgen w h : Half) (d : Byte) (pl : List Byte) (ok fits : Bool) (s : State), s.rxTakes p = false →
    exec (.fsPacket p num sgen w h d ok) s = .next s ∧ exec (.ldPacket p num sgen pl ok fits) s = .next s ∧ exec (.fePacket p ok) s = .next s ∧ exec (.mdPacket p pl ok) s = .next s)

/-- RAW_CODE_WORD on a link that is up and aligned, on all its lanes, with no line open: SOF closes the open frame and
starts one of the active size with frame number 0, SOL opens a line where a frame is open, EOF closes the open frame,
and EOL changes nothing. With no sync record, or after other words than the record's preamble, it changes nothing.
LINK_HALF_ENABLE of a half that is off leaves it waiting for its lanes, then as far as they let it; of one that is on
it is the plain write. LINK_HALF_DISABLE of a half that is on takes it down. (R100, R103, R106, R113, Table 4.5) -/
def Obligations.RawLinkAndHalves : Prop :=
  (∀ (p : Fin 2) (pre : List Half) (code : Half) (lanes : Nat) (words : List (List Nat)) (fits : Bool) (s : State) (r : SyncRec), s.dark = false → s.cfg.syncOf p = some r →
    s.on (F.SLK_RXCFG.ENABLE p) = true → s.on (F.SLK_RXCFG.RAW p) = true → s.rxState p = 4 → s.linkValid p = true → r.preambleIs (pre.map (·.toNat)) = true →
    (let n := (s.cfg.linkLanes p).length
     let c := code.toNat % 2 ^ r.width
     s.get (F.SLK_STAT.RAW_ALIGNED p) % 2 ^ n = 2 ^ n - 1 → (s.rxH p).rawLine = false → c ≠ r.sol % 2 ^ r.width → c ≠ r.sof % 2 ^ r.width →
     (c ≠ r.eol % 2 ^ r.width → c = r.eof % 2 ^ r.width → ∃ u, exec (.rawCodeWord p (pre, code) lanes words fits) s = .next u ∧ u = s.rxClose p) ∧
     (c = r.eol % 2 ^ r.width → exec (.rawCodeWord p (pre, code) lanes words fits) s = .next s))) ∧
  (∀ (p : Fin 2) (pre : List Half) (code : Half) (lanes : Nat) (words : List (List Nat)) (fits : Bool) (s : State) (r : SyncRec), s.dark = false → s.cfg.syncOf p = some r →
    s.on (F.SLK_RXCFG.ENABLE p) = true → s.on (F.SLK_RXCFG.RAW p) = true → 2 ≤ s.rxState p → r.preambleIs (pre.map (·.toNat)) = true →
    (let v := s.rawSeenNow p lanes
     let n := (v.cfg.linkLanes p).length
     let c := code.toNat % 2 ^ r.width
     v.rxState p = 4 → v.linkValid p = true → v.get (F.SLK_STAT.RAW_ALIGNED p) % 2 ^ n = 2 ^ n - 1 → (v.rxH p).rawLine = false →
     (c = r.sof % 2 ^ r.width → ∃ u, exec (.rawCodeWord p (pre, code) lanes words fits) s = .next u ∧ u = (v.rxClose p).linkStart p 0 0 r.activeW r.activeH r.depth 0 false) ∧
     (c ≠ r.sof % 2 ^ r.width → c = r.sol % 2 ^ r.width →
       ∃ u, exec (.rawCodeWord p (pre, code) lanes words fits) s = .next u ∧ u = v.setRx p { v.rxH p with rawLine := (v.rxH p).frame.isSome }))) ∧
  (∀ (p : Fin 2) (pre : List Half) (code : Half) (lanes : Nat) (words : List (List Nat)) (fits : Bool) (s : State),
    s.cfg.syncOf p = none ∨ (∃ r, s.cfg.syncOf p = some r ∧ r.preambleIs (pre.map (·.toNat)) = false) →
    exec (.rawCodeWord p (pre, code) lanes words fits) s = .next s) ∧
  (∀ (p : Fin 2) (v : Word) (src : Nat) (s u : State), Reaches s (R.SLK_RXCFG p) u →
    (let w := u.plainWrite src (R.SLK_RXCFG p) (v ||| 0x80000000)
     w.on (F.SLK_RXCFG.ENABLE p) = true →
     (u.on (F.SLK_RXCFG.ENABLE p) = false → ∃ t, exec (.linkHalfEnable p false v src) s = .next t ∧ t = (w.put (F.SLK_STAT.RX_STATE p) 1).rxLanes p) ∧
     (u.on (F.SLK_RXCFG.ENABLE p) = true → ∃ t, exec (.linkHalfEnable p false v src) s = .next t ∧ t = w))) ∧
  (∀ (p : Fin 2) (v : Word) (src : Nat) (s u : State), Reaches s (R.SLK_TXCFG p) u →
    (let w := u.plainWrite src (R.SLK_TXCFG p) (v ||| 0x80000000)
     w.on (F.SLK_TXCFG.ENABLE p) = true →
     (u.on (F.SLK_TXCFG.ENABLE p) = false → ∃ t, exec (.linkHalfEnable p true v src) s = .next t ∧ t = (w.put (F.SLK_STAT.TX_STATE p) 1).txLanes p) ∧
     (u.on (F.SLK_TXCFG.ENABLE p) = true → ∃ t, exec (.linkHalfEnable p true v src) s = .next t ∧ t = w))) ∧
  (∀ (p : Fin 2) (v : Word) (src : Nat) (s u : State), Reaches s (R.SLK_RXCFG p) u →
    (let w := u.plainWrite src (R.SLK_RXCFG p) (v &&& 0x7FFFFFFF)
     u.on (F.SLK_RXCFG.ENABLE p) = true → w.on (F.SLK_RXCFG.ENABLE p) = false →
     ∃ t, exec (.linkHalfDisable p false v src) s = .next t ∧ t = w.rxDown p)) ∧
  (∀ (p : Fin 2) (v : Word) (src : Nat) (s u : State), Reaches s (R.SLK_TXCFG p) u →
    (let w := u.plainWrite src (R.SLK_TXCFG p) (v &&& 0x7FFFFFFF)
     u.on (F.SLK_TXCFG.ENABLE p) = true → w.on (F.SLK_TXCFG.ENABLE p) = false →
     ∃ t, exec (.linkHalfDisable p true v src) s = .next t ∧ t = w.txDown p))

/-- EMU_EXPOSURE_START on a transmit half that is up, with FOLLOW = 0 and a frame waiting, keeps the frame's tag with the
time as its exposure, after those kept, and at version 3, not raw, then sends the XS column with its number.
EMU_FS_SEND with a frame whose exposure began at least TICKS ticks of 2 ns before and none being sent, without raw
mode, frame counter and VS_AT_FS, takes the first exposed, steps the frame number, and sends its FS packet with the
number (modulo 65,536 at version 1), its SGEN (0 at version 1) and its size; before that time it changes nothing.
TX_LINE sends the next line; with PACE it sends it, counted LATE, only where its paced instant has passed and it is
there. EMU_LINE_PACE sends the line whose instant it is when it is there, and counts the instant in any case. With no
frame being sent, and EMU_LINE_PACE with PACE = 0, both change nothing. VSYNC_PULSE_END of an asserted pin negates it;
HSYNC_PULSE in output mode with pulses left sends one and counts it; VSYNC_INPUT_EDGE in input mode leaves the instant
in SLK_VSCAP and in the half, then captures and starts what follows it; in other modes it changes nothing. (R80, R102,
R111, R124, R205, R207, R208, R209, R210, R211) -/
def Obligations.LinkSends : Prop :=
  (∀ (p : Fin 2) (s : State) (f : Frame) (l : List Frame), s.dark = false → s.txState p = 4 → s.on (F.SLK_EMU.FOLLOW p) = false → s.txWaiting p = f :: l →
    (let v := s.setTx p { s.txH p with exposed := (s.txH p).exposed ++ [(f.tag, s.time)] }
     (s.get (F.SLK_STAT.TX_VER p) = 3 → s.txRaw p = false → ∃ u, exec (.emuExposureStart p) s = .next u ∧
       u = v.sendControl p (0x4B + 256 * (((s.txH p).next + (s.txH p).exposed.length) % 2 ^ 24))) ∧
     (s.get (F.SLK_STAT.TX_VER p) ≠ 3 ∨ s.txRaw p = true → ∃ u, exec (.emuExposureStart p) s = .next u ∧ u = v))) ∧
  (∀ (p : Fin 2) (s : State) (b : BrewRec) (t : Nat) (tag : FrameTag) (x : Time) (rest : List (FrameTag × Time)), s.dark = false → s.txTile p = some (b, t) →
    (s.txH p).exposed = (tag, x) :: rest → (s.txH p).cur = none → s.txState p = 4 →
    ((s.now - timeN x).toNat < 2 * s.get (F.SLK_EMU_XS.TICKS p) → exec (.emuFsSend p) s = .next s) ∧
    (2 * s.get (F.SLK_EMU_XS.TICKS p) ≤ (s.now - timeN x).toNat → ∀ f, (s.inBrew b).find? (fun f => f.tag == tag) = some f → (let g := s.echoSgen p f
      g.2.txRaw p = false → g.2.on (F.SLK_EMU.FCNT_EN p) = false → g.2.on (F.SLK_EMU.VS_AT_FS p) = false →
      ∃ u, exec (.emuFsSend p) s = .next u ∧
        (let v1 := decide (s.get (F.SLK_STAT.TX_VER p) = 1)
         let num := (s.txH p).next
         let d := dimsIn g.2.cfg f t
         u = (g.2.setTx p { g.2.txH p with exposed := rest, next := (num + 1) % 2 ^ 32, cur := some ⟨tag, num, g.1, 0, 0⟩ }).sendPacket p
           (packet 0x01 (if v1 then num % 65536 else num) (if v1 then 0 else g.1)
             (leBytes 2 d.1 ++ leBytes 2 d.2.1 ++ leBytes 1 (packOf ⟨f.par, f.tabs⟩ t f.ctx).n ++ zeros 3) false)))) ∧
    (2 * s.get (F.SLK_EMU_XS.TICKS p) ≤ (s.now - timeN x).toNat → (s.inBrew b).find? (fun f => f.tag == tag) = none →
      ∃ u, exec (.emuFsSend p) s = .next u ∧ u = s.setTx p { s.txH p with exposed := rest })) ∧
  (∀ (p : Fin 2) (s : State) (c : TxFrame), s.dark = false → (s.txH p).cur = some c →
    (let v := s.setTx p { s.txH p with cur := some { c with due := c.due + 1 } }
     (s.on (F.SLK_EMU.PACE p) = false → (∃ u, exec (.txLine p) s = .next u ∧ u = s.sendLine p) ∧ exec (.emuLinePace p) s = .next s) ∧
     (s.on (F.SLK_EMU.PACE p) = true →
       (c.next < c.due → (s.txNextLine p).isSome = true → ∃ u, exec (.txLine p) s = .next u ∧ u = (s.bump (F.SLK_EMU_STAT.LATE p)).sendLine p) ∧
       (c.due ≤ c.next ∨ s.txNextLine p = none → exec (.txLine p) s = .next s) ∧
       (c.next = c.due → (s.txNextLine p).isSome = true → ∃ u, exec (.emuLinePace p) s = .next u ∧ u = v.sendLine p) ∧
       (c.next ≠ c.due ∨ s.txNextLine p = none → ∃ u, exec (.emuLinePace p) s = .next u ∧ u = v)))) ∧
  (∀ (p : Fin 2) (s : State), (s.txH p).cur = none → exec (.txLine p) s = .next s ∧ exec (.emuLinePace p) s = .next s) ∧
  (∀ (p : Fin 2) (s : State), s.dark = false → s.tim.vsync.contains p.val = true →
    ∃ u, exec (.vsyncPulseEnd p) s = .next u ∧
      u = ({ s with tim := { s.tim with vsync := s.tim.vsync.filter (· != p.val) } } : State).emitSens "vsync" p [if s.on (F.SLK_SYNCCTL.POL p) then 1 else 0]) ∧
  (∀ (p : Fin 2) (s : State) (n : Nat), s.dark = false → s.get (F.SLK_SYNCCTL.MODE p) = 2 → sget 0 s.tim.hsync p = n + 1 →
    (let a := if s.on (F.SLK_SYNCCTL.POL p) then 0 else 1
     ∃ u, exec (.hsyncPulse p) s = .next u ∧
      u = ({ s with tim := { s.tim with hsync := sset 0 s.tim.hsync p n } } : State).emitSens "hsync" p [a, 1 - a])) ∧
  (∀ (p : Fin 2) (s : State), s.dark = false → s.get (F.SLK_SYNCCTL.MODE p) = 1 →
    ∃ u, exec (.vsyncInputEdge p) s = .next u ∧
      (let v := ((s.put (F.SLK_VSCAP.NS p) (s.now.toNat % 2 ^ 32)).setRx p { s.rxH p with vscap := some s.time }).capture (9 + p)
       u = ([0, 1].foldl (fun s j => if s.patBase j 2 && s.getCur (F.PAT_CFG.PORT j 0) == p.val then s.patternStart j else s) v).emuEdge p)) ∧
  (∀ (p : Fin 2) (s : State), s.get (F.SLK_SYNCCTL.MODE p) ≠ 1 → exec (.vsyncInputEdge p) s = .next s)

/-- LANE_ENTER_LINK of an idle lane that a link takes brings its quad up, marks it in the link with its rate, and leaves
it waiting for the quad PLL, or further where that is locked; of a lane in no link, or not idle, it changes nothing.
CDR_LOCK of a lane that acquires its signal starts the initial adaptation (STATE 3) with no retry pending; else it
changes nothing. INITIAL_ADAPTATION_DONE completes as the end of that adaptation, and changes nothing of a lane that
is not adapting or waits for its retry; ADAPTATION_RETRY_TIMEOUT ends that wait. FOM_UPDATE of a receive lane that is
past bring-up first brings the taps and the sampler offset to where the signal has moved them, unless ADAPT is 0b00,
which freezes them, shows the widths, heights, FOM and one more update (all 0 for a closed centre), then gives the FOM
to the detectors; of a lane that sends only, is in no link or is in another state it changes nothing. (R75, R82, R83,
R86, Table 3.4) -/
def Obligations.LanesComeUp : Prop :=
  (∀ (l : Fin 96) (s : State), s.dark = false → s.inLink l = true → s.laneState l = 0 →
    ∃ u, exec (.laneEnterLink l) s = .next u ∧
      (let v := s.bringUp (48 + laneQuad l)
       let w := v.andThen [(·.put (F.LNK_STAT.IN_LINK l) 1), (·.put (F.LNK_STAT.STATE l) 1), (·.put (F.LNK_RATE.MBPS l) (v.laneRate l)),
         (·.putB (F.LNK_RATE.SSC l) (decide (l.val < 64) && v.on F.LNK_REFCFG.SSC && !v.on F.LNK_REFCFG.SRC))]
       u = if w.quadPll.testBit (laneQuad l) then w.laneClocked l else w)) ∧
  (∀ (l : Fin 96) (s : State), s.inLink l = false ∨ s.laneState l ≠ 0 → exec (.laneEnterLink l) s = .next s) ∧
  (∀ (l : Fin 96) (s : State), s.dark = false → s.laneState l = 2 →
    ∃ u, exec (.cdrLock l) s = .next u ∧ u.laneState l = 3 ∧ (u.lane l).retry = false ∧ ∀ off, off ≠ R.LNK_STAT l → u.reg off = s.reg off) ∧
  (∀ (l : Fin 96) (s : State), s.laneState l ≠ 2 → exec (.cdrLock l) s = .next s) ∧
  (∀ (l : Fin 96) (a : AdaptOut) (s : State), s.dark = false → s.laneState l = 3 → (s.lane l).retry = false →
    ∃ u, exec (.initialAdaptationDone l a) s = .next u ∧
      (let w := ((s.showAdapt l a).takeAdapt l a).put (F.LNK_STAT.BAND l) s.band
       (w.get (F.LNK_DET.LOL_THR l) ≤ adaptFom a →
         u = ((w.setLane l { w.lane l with losLow := 0, losOk := 0, lolLow := 0, lolOk := 0, retry := false }).andThen
           [(·.put (F.LNK_STAT.STATE l) 4), (·.put (F.LNK_STAT.LOS l) 0), (·.put (F.LNK_STAT.LOL l) 0), (·.put (F.LNK_STAT.UP l) 1)]).laneUp l) ∧
       (adaptFom a < w.get (F.LNK_DET.LOL_THR l) →
         u = ((w.setLane l { w.lane l with retry := true }).put (F.LNK_STAT.STATE l) 3).post (srcLane l) 4 3 l (adaptFom a)))) ∧
  (∀ (l : Fin 96) (a : AdaptOut) (s : State), s.laneState l ≠ 3 ∨ (s.lane l).retry = true → exec (.initialAdaptationDone l a) s = .next s) ∧
  (∀ (l : Fin 96) (s : State), s.dark = false → s.laneState l = 3 →
    ∃ u, exec (.adaptationRetryTimeout l) s = .next u ∧ u = s.setLane l { s.lane l with retry := false }) ∧
  (∀ (l : Fin 96) (s : State), s.laneState l ≠ 3 → exec (.adaptationRetryTimeout l) s = .next s) ∧
  (∀ (l : Fin 96) (wl wr hu hd : Nat) (taps : List Byte) (ofs : Byte) (s : State), s.dark = false → laneReceives l = true → s.on (F.LNK_STAT.IN_LINK l) = true → s.laneState l = 4 →
    (let v := if s.adapts l then s.takeTaps l taps ofs else s
     (∃ u, exec (.fomUpdate l true (wl, wr) (hu, hd) taps ofs) s = .next u ∧
      (let f := fomOf (min wl 32) (min wr 32) (min hu 32) (min hd 32)
       u = (v.andThen [(·.put (F.LNK_FOM.W l) (min wl 32 + min wr 32)), (·.put (F.LNK_FOM.H l) (min hu 32 + min hd 32)), (·.put (F.LNK_FOM.FOM l) f),
         (·.incr (F.LNK_FOM.UPDATES l))]).detect l f)) ∧
     (∃ u, exec (.fomUpdate l false (wl, wr) (hu, hd) taps ofs) s = .next u ∧
      u = (v.andThen [(·.put (F.LNK_FOM.W l) 0), (·.put (F.LNK_FOM.H l) 0), (·.put (F.LNK_FOM.FOM l) 0), (·.incr (F.LNK_FOM.UPDATES l))]).detect l 0))) ∧
  (∀ (l : Fin 96) (s : State), s.get (F.LNK_CTRL.ADAPT l) = 0 → s.adapts l = false) ∧
  (∀ (l : Fin 96) (c : Bool) (wl wr hu hd : Nat) (taps : List Byte) (ofs : Byte) (s : State), laneReceives l = false ∨ s.on (F.LNK_STAT.IN_LINK l) = false ∨ s.laneState l ≠ 4 →
    exec (.fomUpdate l c (wl, wr) (hu, hd) taps ofs) s = .next s)

/-- RECAL_IN_SERVICE of an up receive lane, and RECAL_OUT_OF_SERVICE of any lane, neither busy nor in loss of signal, with
its CDR locked, set BUSY and STATE 5 or 6 and keep the state to go back to; out of service UP clears. Of a busy lane,
of one in loss of signal, and in service of one that is down or sends only, they leave RESULT = 5. RECAL_DONE with
none in progress changes nothing; of a lane that sends only it loads the equalisation, goes back and leaves RESULT =
1; in service a FOM before it below LOS_THR leaves RESULT = 3, one after it that is no lower installs the taps with
RESULT = 1, and a lower one leaves the taps and RESULT = 2; out of service a final FOM that reaches LOL_THR installs
the adaptation with RESULT = 1 and the lane comes up. LOL_RETRAIN_TIMEOUT of an up lane with loss of lock and no loss
of signal, AUTO_RETRAIN set and no recalibration starts one out of service, and changes nothing where one of these
fails. (R89, R90, R91, R92) -/
def Obligations.LanesRecalibrate : Prop :=
  (∀ (l : Fin 96) (s u : State), Reaches s (R.LNK_RECAL l) u → u.on (F.LNK_RECAL.BUSY l) = false → u.on (F.LNK_STAT.LOS l) = false → 3 ≤ u.laneState l →
    (u.on (F.LNK_STAT.UP l) = true → laneSendsOnly l = false → ∃ t, exec (.recalInService l) s = .next t ∧ (t.lane l).recal = some 0 ∧ (t.lane l).back = u.laneState l ∧
      t.on (F.LNK_RECAL.BUSY l) = true ∧ t.laneState l = 5 ∧ ∀ off, off ≠ R.LNK_RECAL l → off ≠ R.LNK_STAT l → t.reg off = u.reg off) ∧
    (∃ t, exec (.recalOutOfService l) s = .next t ∧ (t.lane l).recal = some 1 ∧ (t.lane l).back = u.laneState l ∧
      t.on (F.LNK_RECAL.BUSY l) = true ∧ t.laneState l = 6 ∧ t.on (F.LNK_STAT.UP l) = false ∧ ∀ off, off ≠ R.LNK_RECAL l → off ≠ R.LNK_STAT l → t.reg off = u.reg off)) ∧
  (∀ (l : Fin 96) (s u : State), Reaches s (R.LNK_RECAL l) u →
    (u.on (F.LNK_RECAL.BUSY l) = true ∨ u.on (F.LNK_STAT.LOS l) = true ∨ u.laneState l < 3 → ∃ t, exec (.recalOutOfService l) s = .next t ∧ t = u.put (F.LNK_RECAL.RESULT l) 5) ∧
    (u.on (F.LNK_RECAL.BUSY l) = true ∨ u.on (F.LNK_STAT.LOS l) = true ∨ u.on (F.LNK_STAT.UP l) = false ∨ laneSendsOnly l = true →
      ∃ t, exec (.recalInService l) s = .next t ∧ t = u.put (F.LNK_RECAL.RESULT l) 5)) ∧
  (∀ (l : Fin 96) (before : Byte) (a : AdaptOut) (s : State), (s.lane l).recal = none → exec (.recalDone l before a) s = .next s) ∧
  (∀ (l : Fin 96) (before : Byte) (a : AdaptOut) (s : State) (m : Nat), s.dark = false → (s.lane l).recal = some m →
    (let v := (s.setLane l { s.lane l with recal := none }).put (F.LNK_RECAL.BUSY l) 0
     let back := (s.lane l).back
     (laneSendsOnly l = true → ∃ t, exec (.recalDone l before a) s = .next t ∧
       t = (((v.loadTxEq l).put (F.LNK_STAT.STATE l) back).putB (F.LNK_STAT.UP l) (back == 4)).put (F.LNK_RECAL.RESULT l) 1) ∧
     (laneSendsOnly l = false → m = 0 →
       (let w := (v.put (F.LNK_STAT.STATE l) back).put (F.LNK_RECAL.FOM_BEFORE l) before.toNat
        let x := w.put (F.LNK_RECAL.FOM_AFTER l) (adaptFom a)
        (before.toNat < w.get (F.LNK_DET.LOS_THR l) → ∃ t, exec (.recalDone l before a) s = .next t ∧ t = w.put (F.LNK_RECAL.RESULT l) 3) ∧
        (w.get (F.LNK_DET.LOS_THR l) ≤ before.toNat → x.get (F.LNK_DET.LOS_THR l) ≤ adaptFom a → before.toNat ≤ adaptFom a →
          ∃ t, exec (.recalDone l before a) s = .next t ∧ t = (x.takeTaps l a.taps a.ofs).put (F.LNK_RECAL.RESULT l) 1) ∧
        (w.get (F.LNK_DET.LOS_THR l) ≤ before.toNat → x.get (F.LNK_DET.LOS_THR l) ≤ adaptFom a → adaptFom a < before.toNat →
          ∃ t, exec (.recalDone l before a) s = .next t ∧ t = x.put (F.LNK_RECAL.RESULT l) 2))) ∧
     (laneSendsOnly l = false → m = 1 → back ≠ 2 →
       (let w := ((v.put (F.LNK_RECAL.FOM_BEFORE l) before.toNat).put (F.LNK_RECAL.FOM_AFTER l) (adaptFom a)).showAdapt l a
        w.get (F.LNK_DET.LOL_THR l) ≤ adaptFom a → ∃ t, exec (.recalDone l before a) s = .next t ∧
          (let x := w.put (F.LNK_RECAL.RESULT l) 1
           t = ((x.takeAdapt l a).put (F.LNK_STAT.BAND l) x.band).laneComesUp l))))) ∧
  (∀ (l : Fin 96) (s : State), s.dark = false → s.laneState l = 4 → s.on (F.LNK_STAT.LOL l) = true → s.on (F.LNK_STAT.LOS l) = false → s.on (F.LNK_CTRL.AUTO_RETRAIN l) = true →
    (s.lane l).recal = none → ∃ t, exec (.lolRetrainTimeout l) s = .next t ∧ t = s.recalStart l 2) ∧
  (∀ (l : Fin 96) (s : State), s.laneState l ≠ 4 ∨ s.on (F.LNK_STAT.LOL l) = false ∨ s.on (F.LNK_STAT.LOS l) = true ∨ s.on (F.LNK_CTRL.AUTO_RETRAIN l) = false ∨
    (s.lane l).recal ≠ none → exec (.lolRetrainTimeout l) s = .next s)

/-- LINK_REFERENCE_LOST sets IN_LOST, posts the severity-5 event of source 0x0600, and while it is set every update of a
lane from 0 to 63 leaves loss of lock; LINK_REFERENCE_RESTORED clears IN_LOST and sends the receive lanes with loss of
lock back to bring-up; each changes nothing where IN_LOST already says so. LNK_REFCFG_WRITE takes effect with lanes 0
to 63 idle, and else is ignored with an event that names the register. BIT_SLIP of an up lane of a raw link with none
pending sets PENDING, and else changes nothing; SLIP_APPLIED of a lane in no receive link clears PENDING and steps
OFFSET modulo its width, and with none pending changes nothing. PRBS_CHECK_LOCK at a receive lane in a link whose
checker is on for patterns 1 to 5 gives the checker the bits, keeps its state and LOCKED, and adds the differing bits
to ERRCNT: once locked the checker keeps the sequence by itself and each bit that differs counts one; else it changes
nothing. (R76, R77, R78, R79, R95, R96) -/
def Obligations.LanesTestAndReference : Prop :=
  (∀ s : State, s.dark = false → s.on F.LNK_REFSTAT.IN_LOST = false →
    ∃ u, exec .linkReferenceLost s = .next u ∧ u = (s.put F.LNK_REFSTAT.IN_LOST 1).post 0x0600 5 3 0 0) ∧
  (∀ (l : Nat) (x : LaneRun) (s : State), l < 64 → s.on F.LNK_REFSTAT.IN_LOST = true → s.lolAfter l x = true) ∧
  (∀ s : State, s.dark = false → s.on F.LNK_REFSTAT.IN_LOST = true →
    ∃ u, exec .linkReferenceRestored s = .next u ∧
      u = (List.range 64).foldl State.refReturns (s.put F.LNK_REFSTAT.IN_LOST 0)) ∧
  (∀ (l : Nat) (s : State), laneReceives l = true → s.on (F.LNK_STAT.LOL l) = true → s.laneState l = 4 → s.refReturns l = s.put (F.LNK_STAT.STATE l) 2) ∧
  (∀ s : State, (s.on F.LNK_REFSTAT.IN_LOST = true → exec .linkReferenceLost s = .next s) ∧ (s.on F.LNK_REFSTAT.IN_LOST = false → exec .linkReferenceRestored s = .next s)) ∧
  (∀ (v : Word) (src : Nat) (s u : State), Reaches s R.LNK_REFCFG u →
    ((∀ l, l < 64 → u.laneState l = 0) → ∃ t, exec (.lnkRefcfgWrite v src) s = .next t ∧ (let w := u.plainWrite src R.LNK_REFCFG v
      t = { w with out := t.out } ∧ t.out = w.out ++ [0, 1, 2, 3].map (fun n => ⟨"linkRefOut", n, w.refOut n⟩))) ∧
    ((∃ l, l < 64 ∧ u.laneState l ≠ 0) → ∃ t, exec (.lnkRefcfgWrite v src) s = .next t ∧ t = u.postIgnored src 3 R.LNK_REFCFG ∧ t.reg R.LNK_REFCFG = u.reg R.LNK_REFCFG)) ∧
  (∀ (l : Fin 96) (s u : State), Reaches s (R.LNK_SLIP l) u →
    (u.on (F.LNK_SLIP.PENDING l) = false → u.on (F.LNK_STAT.UP l) = true → 0 < u.slipWidth l → ∃ t, exec (.bitSlip l) s = .next t ∧ t = u.put (F.LNK_SLIP.PENDING l) 1) ∧
    (u.on (F.LNK_SLIP.PENDING l) = true ∨ u.on (F.LNK_STAT.UP l) = false ∨ u.slipWidth l = 0 → exec (.bitSlip l) s = .next u)) ∧
  (∀ (l : Fin 96) (s : State), s.dark = false → s.on (F.LNK_SLIP.PENDING l) = true → s.rxLinkOf l = none →
    ∃ u, exec (.slipApplied l) s = .next u ∧ u = (s.put (F.LNK_SLIP.PENDING l) 0).put (F.LNK_SLIP.OFFSET l) ((s.get (F.LNK_SLIP.OFFSET l) + 1) % max 1 (s.slipWidth l))) ∧
  (∀ (l : Fin 96) (s : State), s.on (F.LNK_SLIP.PENDING l) = false → exec (.slipApplied l) s = .next s) ∧
  (∀ (l : Fin 96) (bits : List Bool) (s : State) (a b : Nat) (inv : Bool), s.dark = false → prbsTaps (s.get (F.LNK_PRBS.PATTERN l)) = some (a, b, inv) → laneReceives l = true →
    s.on (F.LNK_STAT.IN_LINK l) = true → s.on (F.LNK_PRBS.CHECK l) = true →
    ∃ u, exec (.prbsCheckLock l bits) s = .next u ∧
      (let x := s.lane l
       let r := (s.prbsReceived l inv bits).foldl (checkBit a b) (x.prbs.take a, x.clean, s.on (F.LNK_PRBS.LOCKED l), 0)
       u = ((s.setLane l { x with prbs := r.1, clean := r.2.1 }).putB (F.LNK_PRBS.LOCKED l) r.2.2.1).bumpBy (F.LNK_ERRCNT.ERRORS l) r.2.2.2)) ∧
  (∀ (a b : Nat) (h : List Bool) (c e : Nat) (bit : Bool), checkBit a b (h, c, true, e) bit =
    (prbsBit a b h :: h.take (a - 1), c, true, if bit = prbsBit a b h then e else e + 1)) ∧
  (∀ (l : Fin 96) (bits : List Bool) (s : State), prbsTaps (s.get (F.LNK_PRBS.PATTERN l)) = none ∨ laneReceives l = false ∨ s.on (F.LNK_STAT.IN_LINK l) = false ∨ s.on (F.LNK_PRBS.CHECK l) = false →
    exec (.prbsCheckLock l bits) s = .next s)

/-- SCP_IMMEDIATE with GO set, the port not busy: on a disabled port STATUS is 4, on a target port 3, and on an enabled
controller BUSY is set and the transaction of CMD waits behind those that wait, the port taking the next it can. With
GO clear, or BUSY set, nothing changes. SCP_TRANSACTION_DONE of firmware's transaction ends it with STATUS 0 when it
is acknowledged, or on an SPI port, and 1 otherwise, a good read leaving its data in RDATA; SCP_STRETCH_TIMEOUT ends
it with STATUS 2, and a burst entry as a timed-out one. With nothing on the bus both change nothing. (R114, R115,
R116, R119, R559) -/
def Obligations.ImmediateTransactions : Prop :=
  (∀ (p : Fin 4) (v : Word) (s u : State), Reaches s (R.SCP_CMDCTL p) u → v.getLsbD 16 = true → u.on (F.SCP_CMDCTL.BUSY p) = false →
    (u.on (F.SCP_CFG.ENABLE p) = false → ∃ t, exec (.scpImmediate p v) s = .next t ∧ t = u.put (F.SCP_CMDCTL.STATUS p) 4) ∧
    (u.on (F.SCP_CFG.ENABLE p) = true → u.on (F.SCP_CFG.ROLE p) = true → ∃ t, exec (.scpImmediate p v) s = .next t ∧ t = u.put (F.SCP_CMDCTL.STATUS p) 3) ∧
    (u.on (F.SCP_CFG.ENABLE p) = true → u.on (F.SCP_CFG.ROLE p) = false → ∃ t, exec (.scpImmediate p v) s = .next t ∧
      t = ((u.put (F.SCP_CMDCTL.BUSY p) 1).setScp p { u.scpP p with
        imm := (u.scpP p).imm ++ [⟨none, v.getLsbD 17, u.get (F.SCP_CMD.ADDR p), u.get (F.SCP_CMD.DATA p)⟩] }).scpNext p)) ∧
  (∀ (p : Fin 4) (v : Word) (s u : State), Reaches s (R.SCP_CMDCTL p) u → v.getLsbD 16 = false ∨ u.on (F.SCP_CMDCTL.BUSY p) = true →
    exec (.scpImmediate p v) s = .next u) ∧
  (∀ (p : Fin 4) (rdata : Half) (s : State) (read : Bool) (a d : Nat), s.dark = false → (s.scpP p).cur = some (.imm ⟨none, read, a, d⟩) →
    (let ends := fun (status : Nat) => ((s.setScp p { s.scpP p with cur := none }).put (F.SCP_CMDCTL.BUSY p) 0).put (F.SCP_CMDCTL.STATUS p) status
     (s.on (F.SCP_CFG.BUS p) = true → ∃ t, exec (.scpTransactionDone p false rdata) s = .next t ∧ t = (ends 1).scpNext p) ∧
     (∀ ack, ack = true ∨ s.on (F.SCP_CFG.BUS p) = false → ∃ t, exec (.scpTransactionDone p ack rdata) s = .next t ∧
       t = (if read then (ends 0).put (F.SCP_CMDCTL.RDATA p) (rdata.toNat % 2 ^ (8 * (ends 0).dataBytes p)) else ends 0).scpNext p) ∧
     (∃ t, exec (.scpStretchTimeout p) s = .next t ∧ t = (ends 2).scpNext p))) ∧
  (∀ (p : Fin 4) (s : State) (k i : Nat), s.dark = false → (s.scpP p).cur = some (.entry k i) →
    ∃ t, exec (.scpStretchTimeout p) s = .next t ∧ t = s.burstStops p k i 1) ∧
  (∀ (p : Fin 4) (ack : Bool) (rdata : Half) (s : State), (s.scpP p).cur = none → exec (.scpTransactionDone p ack rdata) s = .next s ∧ exec (.scpStretchTimeout p) s = .next s)

/-- SCP_BURST_ARM (DISARM not set) of a burst neither armed nor transmitting takes COUNT and START from the written word,
then leaves STATE = 7 on a disabled port, 6 on a target port, and arms the burst on an enabled controller; of a held
burst it changes nothing. SCP_BURST_DISARM of an armed burst forgets it and clears STATE and ARM; of a transmitting
one it marks it to end after its entry; of any other it writes COUNT and START. SCP_BURST_RELEASE completes as the
release, in order, of all bursts whose time has come, and the port taking the next. SCP_BURST_ENTRY_DONE with an
acknowledged entry counts it in SENT; a burst disarmed meanwhile ends with STATE 4, else the last entry ends it with
3, and any other goes on to the next entry, or ends it with 7 where the port is disabled by then; without acknowledge
on I2C it stops the burst. With no entry on the bus it changes nothing. (R117, R118, R119, R120, R559, Table 4.22) -/
def Obligations.Bursts : Prop :=
  (∀ (p k : Fin 4) (v : Word) (s u : State), Reaches s (R.SCP_BDESC p k) u → v.getLsbD 30 = false → u.burstHeld p k = false →
    (let w := (u.put (F.SCP_BDESC.COUNT p k) (getBits (v ||| 0x80000000) 25 16)).put (F.SCP_BDESC.START p k) (getBits (v ||| 0x80000000) 9 0)
     (w.on (F.SCP_CFG.ENABLE p) = false → ∃ t, exec (.scpBurstArm p k v) s = .next t ∧ t = w.put (F.SCP_BDESC.STATE p k) 7) ∧
     (w.on (F.SCP_CFG.ENABLE p) = true → w.on (F.SCP_CFG.ROLE p) = true → ∃ t, exec (.scpBurstArm p k v) s = .next t ∧ t = w.put (F.SCP_BDESC.STATE p k) 6) ∧
     (w.on (F.SCP_CFG.ENABLE p) = true → w.on (F.SCP_CFG.ROLE p) = false → ∃ t, exec (.scpBurstArm p k v) s = .next t ∧ t = w.arm p k))) ∧
  (∀ (p k : Fin 4) (v : Word) (s u : State), Reaches s (R.SCP_BDESC p k) u → v.getLsbD 30 = false → u.burstHeld p k = true →
    exec (.scpBurstArm p k v) s = .next u) ∧
  (∀ (p k : Fin 4) (v : Word) (s u : State), Reaches s (R.SCP_BDESC p k) u →
    (u.get (F.SCP_BDESC.STATE p k) = 1 → ∃ t, exec (.scpBurstDisarm p k v) s = .next t ∧
      t = ((u.setScp p { u.scpP p with bursts := sset none (u.scpP p).bursts k none, waiting := (u.scpP p).waiting.filter (fun w => w.1 != k.val) }).put
        (F.SCP_BDESC.STATE p k) 0).put (F.SCP_BDESC.ARM p k) 0) ∧
    (u.get (F.SCP_BDESC.STATE p k) = 2 → ∃ t, exec (.scpBurstDisarm p k v) s = .next t ∧ t = u.setScp p { u.scpP p with abort := true }) ∧
    (u.burstHeld p k = false → ∃ t, exec (.scpBurstDisarm p k v) s = .next t ∧
      t = (u.put (F.SCP_BDESC.COUNT p k) (getBits (v ||| 0x40000000) 25 16)).put (F.SCP_BDESC.START p k) (getBits (v ||| 0x40000000) 9 0))) ∧
  (∀ (p : Fin 4) (s : State), s.isController p = false → exec (.scpBurstRelease p) s = .next s) ∧
  (∀ (p : Fin 4) (s : State), s.dark = false → s.isController p = true → ∃ t, exec (.scpBurstRelease p) s = .next t ∧
    t = ((isort s.beforeRelease ((s.armed p).filter (fun e => s.reached e.2.time))).foldl (fun s e => s.releaseBurst p e) s).scpNext p) ∧
  (∀ (p : Fin 4) (s : State) (k i : Nat), s.dark = false → (s.scpP p).cur = some (.entry k i) →
    (s.on (F.SCP_CFG.BUS p) = true → ∃ t, exec (.scpBurstEntryDone p false) s = .next t ∧ t = s.burstStops p k i 0) ∧
    (∀ (ack : Bool) (b : ScpBurst), ack = true ∨ s.on (F.SCP_CFG.BUS p) = false → sget none (s.scpP p).bursts k = some b →
      (let w := s.put (F.SCP_BPROG.SENT p k) (i + 1)
       ((s.scpP p).abort = true → ∃ t, exec (.scpBurstEntryDone p ack) s = .next t ∧ t = w.burstEnds p k 4) ∧
       ((s.scpP p).abort = false → b.count ≤ i + 1 → ∃ t, exec (.scpBurstEntryDone p ack) s = .next t ∧ t = w.burstEnds p k 3) ∧
       ((s.scpP p).abort = false → i + 1 < b.count → w.isController p = false → ∃ t, exec (.scpBurstEntryDone p ack) s = .next t ∧ t = w.burstEnds p k 7) ∧
       ((s.scpP p).abort = false → i + 1 < b.count → w.isController p = true → ∃ t, exec (.scpBurstEntryDone p ack) s = .next t ∧ t = w.sendEntry p k (i + 1))))) ∧
  (∀ (p : Fin 4) (ack : Bool) (s : State), (s.scpP p).cur = none → exec (.scpBurstEntryDone p ack) s = .next s)

/-- SCP_BMEM_ACCESS answers the burst-memory word at IDX or writes it there, unless a burst that is armed or transmitting
holds it, and steps IDX; SCP_TFILE_ACCESS answers or writes the target word at ADDR and steps ADDR. SCP_TARGET_READ of
an enabled target, with the command byte of a read where SPI has one, counts READS and sends the word at the address,
cut to its bits, its data bytes wide; SCP_TARGET_WRITE of two data bytes counts WRITES and leaves the word, before the
effects of an SGEN address and of the version address. Without an address an I2C access takes the word after the last.
On a port that is no enabled target, with another command byte or with no address both change nothing. (R105, R117,
R121, R122, R123) -/
def Obligations.PortMemories : Prop :=
  (∀ (p : Fin 4) (s u : State), Reads s (R.SCP_BMEM_DATA p) u → ∃ t, exec (.scpBmemAccess p none) s = .next t ∧
    t.rdata = [sget 0 (u.scpP p).bmem (u.get (F.SCP_BMEM_IDX.IDX p))] ∧ t = { u.incr (F.SCP_BMEM_IDX.IDX p) with rdata := t.rdata }) ∧
  (∀ (p : Fin 4) (v : Word) (s u : State), Reaches s (R.SCP_BMEM_DATA p) u →
    (u.entryHeld p (u.get (F.SCP_BMEM_IDX.IDX p)) = false → ∃ t, exec (.scpBmemAccess p (some v)) s = .next t ∧
      sget 0 (t.scpP p).bmem (u.get (F.SCP_BMEM_IDX.IDX p)) = v ∧ t = { u.incr (F.SCP_BMEM_IDX.IDX p) with scp := t.scp }) ∧
    (u.entryHeld p (u.get (F.SCP_BMEM_IDX.IDX p)) = true → ∃ t, exec (.scpBmemAccess p (some v)) s = .next t ∧ t = u.incr (F.SCP_BMEM_IDX.IDX p))) ∧
  (∀ (p : Fin 4) (s u : State), Reads s (R.SCP_TFILE_DATA p) u → ∃ t, exec (.scpTfileAccess p none) s = .next t ∧
    t.rdata = [(u.tfileWord p (u.get (F.SCP_TFILE_ADDR.ADDR p))).setWidth 32] ∧ t = { u.incr (F.SCP_TFILE_ADDR.ADDR p) with rdata := t.rdata }) ∧
  (∀ (p : Fin 4) (v : Word) (s u : State), Reaches s (R.SCP_TFILE_DATA p) u → ∃ t, exec (.scpTfileAccess p (some v)) s = .next t ∧
    t = { u.incr (F.SCP_TFILE_ADDR.ADDR p) with tfile := (u.setTfile p (u.get (F.SCP_TFILE_ADDR.ADDR p)) (v.setWidth 16)).tfile }) ∧
  (∀ (p : Fin 4) (op : Byte) (addr : Option Half) (a : Nat) (s : State), s.dark = false → s.isTarget p = true → s.targetOp p true op.toNat = true →
    s.targetAddr p (addr.map (·.toNat)) = some a → ∃ t, exec (.scpTargetRead p (op, addr)) s = .next t ∧
      t = ((s.bump (F.SCP_TGT_STAT.READS p)).setScp p { s.scpP p with ptr := a + 1 }).emitScp "scpTarget" p [(s.tfileWord p a).toNat % 2 ^ (8 * s.dataBytes p)]) ∧
  (∀ (p : Fin 4) (op : Byte) (addr : Option Half) (a : Nat) (d : Half) (s : State), s.dark = false → s.isTarget p = true → s.targetOp p false op.toNat = true →
    s.targetAddr p (addr.map (·.toNat)) = some a → s.dataBytes p = 2 →
    (let w := ((s.bump (F.SCP_TGT_STAT.WRITES p)).setScp p { s.scpP p with ptr := a + 1 }).setTfile p a d
     let x := w.txH (w.get (F.SCP_TGT_CFG.LINK p))
     let e := if w.on (F.SCP_TGT_CFG.SGEN_EN p) && w.get (F.SCP_TGT_CFG.SGEN_ADDR p) == a then
         w.setTx (w.get (F.SCP_TGT_CFG.LINK p)) { x with echoes := x.echoes ++ [(d.toNat, w.get (F.SCP_TGT_CFG.LAT p) + 1)] }
       else w
     ∃ t, exec (.scpTargetWrite p (op, addr) d) s = .next t ∧ t = (e.versionWritten p a d.toNat 0).versionWritten p a d.toNat 1)) ∧
  (∀ (p : Fin 4) (a : Half) (s : State), s.targetAddr p (some a.toNat) = some (a.toNat % 2 ^ s.addrBits p)) ∧
  (∀ (p : Fin 4) (s : State), (s.on (F.SCP_CFG.BUS p) = true → s.targetAddr p none = some ((s.scpP p).ptr % 2 ^ s.addrBits p)) ∧
    (s.on (F.SCP_CFG.BUS p) = false → s.targetAddr p none = none)) ∧
  (∀ (p : Fin 4) (op : Byte) (addr : Option Half) (d : Half) (s : State), s.isTarget p = false ∨ s.targetAddr p (addr.map (·.toNat)) = none →
    exec (.scpTargetRead p (op, addr)) s = .next s ∧ exec (.scpTargetWrite p (op, addr) d) s = .next s) ∧
  (∀ (p : Fin 4) (op : Byte) (addr : Option Half) (d : Half) (s : State),
    (s.targetOp p true op.toNat = false → exec (.scpTargetRead p (op, addr)) s = .next s) ∧ (s.targetOp p false op.toNat = false → exec (.scpTargetWrite p (op, addr) d) s = .next s))

/-- SDI_OUT_ENABLE of a disabled output completes as the plain write and the enable it makes: FMT_ERR set where the format
has no link rate or the limits are passed; where it fits FMT_ERR is cleared and each lane of the output takes its link
rate; then the lanes that fell idle or came out of idle follow. SDI_OUT_DISABLE of an enabled output with the other
fields as they stand clears EN and lets a running output stop at its frame's end. TG_FRAME_INSTANT of an enabled
generator whose instant is due counts the instant with its time and the input's last EAV, shows PHASE and INCOMPAT,
and gives the instant to every output of the generator; of a disabled one, or before the instant, it changes nothing.
SDI_SLOT_TAKE of a running output that has not begun its frame, with one frame sent before, counts a repeat where its
tile has no fresh frame of its format and the frames skipped where it has one, and holds the slot of what it sends
(stated where its lanes are idle, so that no more is done); with its lanes driven, and for a first frame too, it then
sends the payload IDs, the timecode, the lines in the order of the raster and the embedded audio, and counts and posts
the lines that came late; of one that does not run, or has begun, it changes nothing. (R247, R248, R249, R250, R251, R258) -/
def Obligations.SdiOutputs : Prop :=
  (∀ (n : Fin 16) (v : Word) (src : Nat) (s u : State), Reaches s (R.SDI_OUT_CFG n) u → u.on (F.SDI_OUT_CFG.EN n) = false →
    (let w := u.plainWrite src (R.SDI_OUT_CFG n) (v ||| 0x80000000)
     w.on (F.SDI_OUT_CFG.EN n) = true →
     (let others := (List.range 16).filter (fun k => k != n.val && w.sdiActive k)
      (w.sdiUnit n = none ∨ w.sdiFits (n :: others) = false →
        ∃ t, exec (.sdiOutEnable n v src) s = .next t ∧ t = (w.put (F.SDI_OUT_STAT.FMT_ERR n) 1).sdiRelight u.sdiIdle) ∧
      (∀ r, w.sdiUnit n = some r → w.sdiFits (n :: others) = true →
        ∃ t, exec (.sdiOutEnable n v src) s = .next t ∧
          t = ((w.sdiLanes (0x10 + n)).foldl (fun a x => a.put (F.LNK_RATE.MBPS x) (sdiMbps r (rateSlow (a.get (F.SDI_OUT_FMT.RATE n)))))
            (w.put (F.SDI_OUT_STAT.FMT_ERR n) 0)).sdiRelight u.sdiIdle)))) ∧
  (∀ (n : Fin 16) (v : Word) (src : Nat) (s u : State), Reaches s (R.SDI_OUT_CFG n) u → u.on (F.SDI_OUT_CFG.EN n) = true →
    (let x := v &&& 0x7FFFFFFF
     getBits x 29 28 = u.get (F.SDI_OUT_CFG.TG n) → getBits x 25 24 = u.get (F.SDI_OUT_CFG.OPK n) → getBits x 16 16 = u.get (F.SDI_OUT_CFG.MAP n) →
     (let w := u.put (F.SDI_OUT_CFG.PID_OVR n) (getBits x 30 30)
      ∃ t, exec (.sdiOutDisable n v src) s = .next t ∧
        t = ((w.put (F.SDI_OUT_CFG.EN n) 0).setSdiO n { w.sdiO n with stopping := (w.sdiO n).running }).sdiRelight w.sdiIdle))) ∧
  (∀ (k : Fin 4) (phase : Half) (s : State), s.dark = false → s.on (F.SDI_TG_CFG.EN k) = true → s.tgDue k = true →
    ∃ t, exec (.tgFrameInstant k phase) s = .next t ∧
      (let v := ({ s with tg := sset tgInit s.tg k ⟨(sget tgInit s.tg k).instants + 1, s.now, (s.sdiI s.glkInput).eav, (sget tgInit s.tg k).adrift && !s.tgCaughtUp k⟩ } : State).put (F.SDI_TG_STAT.PHASE k) phase.toNat
       let w := v.putB (F.SDI_TG_STAT.INCOMPAT k) (s.tgIncompat k)
       t = ((List.range 16).filter (fun n => w.get (F.SDI_OUT_CFG.TG n) == k.val)).foldl State.sdiInstant w)) ∧
  (∀ (k : Fin 4) (phase : Half) (s : State), s.on (F.SDI_TG_CFG.EN k) = false ∨ s.tgDue k = false → exec (.tgFrameInstant k phase) s = .next s) ∧
  (∀ (n : Fin 16) (late1 late2 : List Nat) (s : State) (q : OpkSlot), s.dark = false → (s.sdiO n).running = true → (s.sdiO n).started = false →
    (s.sdiO n).last = some q →
    (let o := s.opkRun (s.sdiSource n)
     let fresh := o.latest.filter (fun k => s.slotMatches n k && o.count != (s.sdiO n).seen)
     (fresh = none →
       (let v := (s.bump (F.SDI_OUT_STAT.REPEATS n)).setSdiO n { s.sdiO n with hold := some q.slot, last := some q, started := true }
        v.sdiLit n = false → ∃ t, exec (.sdiSlotTake n late1 late2) s = .next t ∧ t = v)) ∧
     (∀ k, fresh = some k →
       (let v := (s.bumpBy (F.SDI_OUT_STAT.SKIPS n) (o.count - (s.sdiO n).seen - 1)).setSdiO n { s.sdiO n with hold := some k.slot, seen := o.count, last := some k, started := true }
        v.sdiLit n = false → ∃ t, exec (.sdiSlotTake n late1 late2) s = .next t ∧ t = v)))) ∧
  (∀ (n : Fin 16) (late1 late2 : List Nat) (s u : State) (fresh : Option OpkSlot), s.dark = false → (s.sdiO n).running = true → (s.sdiO n).started = false →
    (s.opkRun (s.sdiSource n)).latest.filter
      (fun k => s.slotMatches n k && ((s.sdiO n).last.isNone || (s.opkRun (s.sdiSource n)).count != (s.sdiO n).seen)) = fresh →
    u = (match fresh, (s.sdiO n).last with
      | some _, some _ => s.bumpBy (F.SDI_OUT_STAT.SKIPS n) ((s.opkRun (s.sdiSource n)).count - (s.sdiO n).seen - 1)
      | none, some _ => s.bump (F.SDI_OUT_STAT.REPEATS n)
      | _, none => s) →
    (let k := if fresh.isSome then fresh else (s.sdiO n).last
     let v := u.setSdiO n { s.sdiO n with
       hold := k.map (·.slot), seen := if fresh.isSome then (s.opkRun (s.sdiSource n)).count else (s.sdiO n).seen, last := k, started := true }
     let raster := ((v.sendPids n k).sendTimecode n).get (F.SDI_OUT_FMT.RASTER n)
     let order := lineOrder (decide (raster = 1)) (rasterSize raster).2
     v.sdiLit n = true → ∀ (rows : List (List Nat)) (c : Nat) (w : State),
       ((v.sendPids n k).sendTimecode n).outLines n k (late1 ++ late2) order = (rows, c, w) →
       (let y := (w.sendRows n order rows).embedFrame n
          (setsUpTo (v.get (F.SDI_OUT_FMT.RATE n)) ((s.sdiO n).frames + 1) - setsUpTo (v.get (F.SDI_OUT_FMT.RATE n)) (s.sdiO n).frames)
        ∃ t, exec (.sdiSlotTake n late1 late2) s = .next t ∧
          t = if c = 0 then y else (y.bumpBy (F.SDI_OUT_STAT.UNDERRUNS n) c).post (srcSdi n) 3 3 (0x10 + n) c))) ∧
  (∀ (n : Fin 16) (late1 late2 : List Nat) (s : State), (s.sdiO n).running = false ∨ (s.sdiO n).started = true → exec (.sdiSlotTake n late1 late2) s = .next s)

/-- SDI_RX_FRAME at an input that is disabled or has no lanes changes nothing; one whose links are not as many as the
lanes, or with a lane whose data is not valid, is not received: the input's run of equal formats restarts and LOCKED
clears. Any other adds the CRC line and TRS errors, measures the format, keeps payload ID, timecode, EAV time and
audio (an absent payload ID or timecode leaves the last one), and then: a frame whose links are skewed counts ALIGN;
one of no listed format goes no further; any other is delivered to the ingest tiles 2 and 3. GENLOCK_SOURCE_LOST of a
followed source that is lost sets every generator adrift and HOLDOVER and posts the severity-4 event; with no source
followed, the source there, or already in holdover it changes nothing. GENLOCK_SOURCE_RETURN in holdover with the
source there clears HOLDOVER, and with JAM jams each enabled generator more than a line away; else it changes nothing.
(R255, R256, R259) -/
def Obligations.SdiInputsAndGenlock : Prop :=
  (∀ (m : Fin 8) (x : SdiRx) (s : State), s.dark = false → s.on (F.SDI_IN_CFG.EN m) = true → s.sdiLanes (0x20 + m) ≠ [] →
    x.links.length = (s.sdiLanes (0x20 + m)).length → (s.sdiLanes (0x20 + m)).all s.laneValid = true →
    (let y := (s.bumpBy (F.SDI_IN_ERR.CRC_LINES m) x.crcLines).bumpBy (F.SDI_IN_ERR.TRS m) x.trs
     let flags := flagIf x.pid.isSome 0 + flagIf (x.pid.any (fun p => p != (y.sdiI m).lastPid)) 1 + flagIf x.tc.isSome 2 +
       flagIf (x.tc.any (fun w => (y.sdiI m).tcSeen && !tcFollows x.rate (y.sdiI m).lastTc w)) 3 + flagIf (decide (0 < x.trs)) 4
     let w := y.sdiDetect m x
     let v := w.setSdiI m { w.sdiI m with
       lastPid := x.pid.getD (w.sdiI m).lastPid, lastTc := x.tc.getD (w.sdiI m).lastTc, tcSeen := (w.sdiI m).tcSeen || x.tc.isSome, eav := w.now
       audio := (List.range 4).foldl (fun a g => sset [] a g (sget [] a g ++ x.groups.getD g [])) (w.sdiI m).audio }
     ∃ t, exec (.sdiRxFrame m x) s = .next t ∧
       (x.skewOk = false → t = v.bump (F.SDI_IN_ERR.ALIGN m)) ∧ (x.skewOk = true → sdiKey x = 0 → t = v) ∧
       (x.skewOk = true → sdiKey x ≠ 0 → t = (v.sdiDeliver m x flags 2).sdiDeliver m x flags 3))) ∧
  (∀ (m : Fin 8) (x : SdiRx) (s : State), s.dark = false → s.on (F.SDI_IN_CFG.EN m) = true → s.sdiLanes (0x20 + m) ≠ [] →
    x.links.length ≠ (s.sdiLanes (0x20 + m)).length ∨ (s.sdiLanes (0x20 + m)).all s.laneValid = false →
    ∃ t, exec (.sdiRxFrame m x) s = .next t ∧ t = (s.setSdiI m { s.sdiI m with same := 0 }).put (F.SDI_IN_STAT.LOCKED m) 0) ∧
  (∀ (m : Fin 8) (x : SdiRx) (s : State), s.on (F.SDI_IN_CFG.EN m) = false ∨ s.sdiLanes (0x20 + m) = [] → exec (.sdiRxFrame m x) s = .next s) ∧
  (∀ s : State, s.dark = false → s.get F.SDI_GLK_CFG.SRC = 1 ∨ s.get F.SDI_GLK_CFG.SRC = 2 → s.genlockSource = false → s.on F.SDI_GLK_STAT.HOLDOVER = false →
    ∃ t, exec .genlockSourceLost s = .next t ∧
      (let w := [0, 1, 2, 3].foldl (fun a k => ({ a with tg := sset tgInit a.tg k { sget tgInit a.tg k with adrift := true } } : State)) s
       t = (w.put F.SDI_GLK_STAT.HOLDOVER 1).post 0x0A00 4 0 0 0) ∧
      t.on F.SDI_GLK_STAT.HOLDOVER = true) ∧
  (∀ s : State, (s.get F.SDI_GLK_CFG.SRC ≠ 1 ∧ s.get F.SDI_GLK_CFG.SRC ≠ 2) ∨ s.genlockSource = true ∨ s.on F.SDI_GLK_STAT.HOLDOVER = true →
    exec .genlockSourceLost s = .next s) ∧
  (∀ (far : Nat) (s : State), s.dark = false → s.on F.SDI_GLK_STAT.HOLDOVER = true → s.genlockSource = true →
    (let v := s.put F.SDI_GLK_STAT.HOLDOVER 0
     (v.on F.SDI_GLK_CFG.JAM = false → ∃ t, exec (.genlockSourceReturn far) s = .next t ∧ t = v) ∧
     (v.on F.SDI_GLK_CFG.JAM = true → ∃ t, exec (.genlockSourceReturn far) s = .next t ∧
       t = [0, 1, 2, 3].foldl (fun a k => if far.testBit k && a.on (F.SDI_TG_CFG.EN k) then a.tgJam k else a) v))) ∧
  (∀ (far : Nat) (s : State), s.on F.SDI_GLK_STAT.HOLDOVER = false ∨ s.genlockSource = false → exec (.genlockSourceReturn far) s = .next s)

/-- VCE_CFG_WRITE acts by the fields' access types while no context is Running, Pre-empted or Suspended, and is else
ignored with its event. VCE_OPEN of a Closed context whose descriptor passes every check makes it Idle with that
descriptor, OPEN_ERR 0 and its indices 0; where a check fails OPEN_ERR is the check's code and the severity-3 event is
posted; of a context that is not Closed it changes nothing. VCE_CLOSE of an open context marks it closing: one
that is Running or Pre-empted, or whose picture is taken and not yet begun, goes on to its picture boundary, an Idle one
or one that waits is no longer ready and goes through its boundary at once. VCE_RELOAD, FORCE_IRAP and VCE_FLUSH mark an open context; of a Closed one they and VCE_CLOSE
change nothing. (R268, R270, R273, R293, Table 11.14) -/
def Obligations.CodecContexts : Prop :=
  (∀ (src : Nat) (v : Word) (s u : State), Reaches s R.VCE_CFG u →
    (u.vce.any (fun c => [2, 3, 4].contains (u.vceState c.1)) = false → ∃ t, exec (.vceCfgWrite src v) s = .next t ∧ t = u.plainWrite src R.VCE_CFG v) ∧
    (u.vce.any (fun c => [2, 3, 4].contains (u.vceState c.1)) = true → ∃ t, exec (.vceCfgWrite src v) s = .next t ∧ t = u.postIgnored src 3 R.VCE_CFG)) ∧
  (∀ (n : Fin 32) (s u w : State) (e : Nat) (d : List Byte), Reaches s (R.VCE_CTX_CTRL n) u → u.vceState n = 0 → u.openCheck n = (e, d, w) →
    (e = 0 → ∃ t, exec (.vceOpen n) s = .next t ∧
      t = (((((((w.setVce n { vceInit with desc := d }).setVceState n 1).put (F.VCE_CTX_CTRL.OPEN_ERR n) 0).wreg (R.VCE_CTX_JOB n) 0).wreg
        (R.VCE_CTX_BS_WPTR n) 0).wreg (R.VCE_CTX_BS_RPTR n) 0).wreg (R.VCE_CTX_REP n) 0).wreg (R.VCE_CTX_OUT n) 0) ∧
    (e ≠ 0 → ∃ t, exec (.vceOpen n) s = .next t ∧ t = (w.put (F.VCE_CTX_CTRL.OPEN_ERR n) e).post (srcVce n) 3 0 e 0)) ∧
  (∀ (n : Fin 32) (s u : State), Reaches s (R.VCE_CTX_CTRL n) u → u.vceState n ≠ 0 → exec (.vceOpen n) s = .next u) ∧
  (∀ (n : Fin 32) (s u : State), Reaches s (R.VCE_CTX_CTRL n) u → u.vceState n ≠ 0 →
    (u.vceState n = 2 ∨ u.vceState n = 3 ∨ (u.vceC n).owes = true →
      ∃ t, exec (.vceClose n) s = .next t ∧ t = u.setVce n { u.vceC n with closing := true }) ∧
    (let w := u.setVce n { u.vceC n with closing := true, ready := none }
     (u.vceState n ≠ 2 → u.vceState n ≠ 3 → u.vceState n ≠ 4 → (u.vceC n).pic = none →
       ∃ t, exec (.vceClose n) s = .next t ∧ t = ((w.setVce n { w.vceC n with pic := none }).setVceState n 5).vceBoundary n)) ∧
    (∃ t, exec (.vceReload n) s = .next t ∧ t = u.setVce n { u.vceC n with reload := true }) ∧
    (∃ t, exec (.forceIrap n) s = .next t ∧ t = u.setVce n { u.vceC n with force := true }) ∧
    (∃ t, exec (.vceFlush n) s = .next t ∧ t = u.setVce n { u.vceC n with flush := true })) ∧
  (∀ (n : Fin 32) (s u : State), Reaches s (R.VCE_CTX_CTRL n) u → u.vceState n = 0 → ∀ c ∈ [Instr.vceClose n, .vceReload n, .forceIrap n, .vceFlush n],
    exec c s = .next u)

/-- ENCODE_CANDIDATE with a record offered skips it and counts the skip where HOLD slots are held, else accepts it with
the next place in display order and makes the context ready where it can. DECODE_JOB_TAKE of an Idle decode context
with a descriptor in its ring takes it as the next picture and steps RIDX, with the data or its failed read kept.
PICTURE_START gives the free entropy engine and the named free pixel engines of its direction to the first ready
picture, by PRIO, readiness and number: a new decode picture runs, a pre-empted one is restored, an encode context
takes its next frame. PICTURE_PREEMPT for a waiting PRIO 0 picture first marks its victim, then saves a marked one.
PICTURE_DONE of a Running picture that has not stopped comes to its end. BITSTREAM_SPACE_FREE makes a waiting encode
context ready again, or leaves it waiting. OUTPUT_SLOT_FREE goes on with a waiting decode context's output. Where its
condition does not hold, each changes nothing. (R271, R272, R274, R281, R287, R288, R292) -/
def Obligations.CodecPictures : Prop :=
  (∀ (n : Fin 32) (s : State) (k : OpkSlot) (r : List OpkSlot), s.dark = false → (s.vceC n).offers = k :: r →
    (let x := s.vceC n
     let held := x.cands.length + (if x.pic.isSome then 1 else 0)
     (x.d 0x16 1 ≤ held → ∃ t, exec (.encodeCandidate n) s = .next t ∧ t = (s.setVce n { x with offers := r }).bump (F.VCE_CTX_STAT1.INPUT_SKIPS n)) ∧
     (held < x.d 0x16 1 → ∃ t, exec (.encodeCandidate n) s = .next t ∧
       t = (s.setVce n { x with offers := r, cands := x.cands ++ [(x.shown, k)], shown := x.shown + 1 }).vceRefresh n))) ∧
  (∀ (n : Fin 32) (s : State), (s.vceC n).offers = [] → exec (.encodeCandidate n) s = .next s) ∧
  (∀ (n : Fin 32) (s w : State) (b : Except AccErr (List Byte)), s.dark = false → s.vceState n = 1 → (s.vceC n).pic = none → (s.vceC n).decodes = true →
    (s.vceC n).closing = false → (s.vceC n).reload = false → s.vceOn = true →
    (let x := s.vceC n
     let size := 2 ^ x.d 0x78 1
     let i := s.get (F.VCE_CTX_JOB.RIDX n) % size
     (i = s.get (F.VCE_CTX_JOB.WIDX n) % size → exec (.decodeJobTake n) s = .next s) ∧
     (i ≠ s.get (F.VCE_CTX_JOB.WIDX n) % size → s.engRead (x.req n 23 true) (x.d 0x70 8 + 32 * i) 32 = (b, w) →
       ∃ t, exec (.decodeJobTake n) s = .next t ∧
         (let v := w.put (F.VCE_CTX_JOB.RIDX n) ((i + 1) % size)
          let j := b.toOption.getD (zeros 32)
          t = { v with vceOrder := v.vceOrder + 1 }.setVce n { x with
            pic := some { (default : CodecRun) with
              tag := field j 0x10 8, num := x.taken, take := v.now.toNat % 2 ^ 32, addr := field j 0 8, len := field j 8 4 % 2 ^ 24, flags := field j 0xC 2
              badRead := !b.toBool }
            taken := x.taken + 1, ready := some v.vceOrder, discont := x.discont || (field j 0xC 2).testBit 1 })))) ∧
  (∀ (n : Fin 32) (s : State), s.vceState n ≠ 1 ∨ (s.vceC n).pic.isSome = true ∨ (s.vceC n).decodes = false ∨ (s.vceC n).closing = true ∨ s.vceOn = false →
    exec (.decodeJobTake n) s = .next s) ∧
  (∀ (pix n : Nat) (x : VceCtx) (s : State), s.dark = false → s.vceOn = true →
    minBy beforeIn (s.vce.filter (fun c => c.2.ready.isSome && (s.freeEnt c.2.decodes).isSome && s.freePix c.2.decodes pix != 0)) = some (n, x) →
    (let ent := (s.freeEnt x.decodes).getD 0
     let pm := s.freePix x.decodes pix
     (∀ r, x.pic = some r → r.started = false → ∃ t, exec (.pictureStart pix) s = .next t ∧
       t = ({ s with vceOrder := s.vceOrder + 1 }.setVce n { x with
         pic := some { r with ent := some ent, pix := pm, order := s.vceOrder, started := true }, ready := none }).setVceState n 2) ∧
     (∀ r, x.pic = some r → r.started = true → ∃ t, exec (.pictureStart pix) s = .next t ∧ t = s.vceResumePic n r ent pm) ∧
     (x.pic = none → ∃ t, exec (.pictureStart pix) s = .next t ∧ t = s.encodeTake n ent pm))) ∧
  (∀ (pix : Nat) (s : State), s.vceOn = false → exec (.pictureStart pix) s = .next s) ∧
  (∀ (n m : Nat) (x y : VceCtx) (r : CodecRun) (s : State), s.dark = false →
    minBy beforeIn (s.vce.filter (fun c => c.2.ready.isSome && c.2.prio == 0 && ((s.freeEnt c.2.decodes).isNone || s.freePix c.2.decodes 63 == 0))) = some (m, y) →
    x.pic = some r → s.vceState n ≠ 4 →
    ((s.vceVictims y.decodes).find? (fun c => c.2.isChosen) = none → minBy lastStarted (s.vceVictims y.decodes) = some (n, x) → r.chosen = false →
      ∃ t, exec .picturePreempt s = .next t ∧ t = s.setVce n { x with pic := some { r with chosen := true } }) ∧
    ((s.vceVictims y.decodes).find? (fun c => c.2.isChosen) = some (n, x) → r.chosen = true →
      ∃ t, exec .picturePreempt s = .next t ∧ t = s.vceStopped n x r)) ∧
  (∀ s : State, (s.vce.any (fun c => c.2.ready.isSome && c.2.prio == 0 && ((s.freeEnt c.2.decodes).isNone || s.freePix c.2.decodes 63 == 0))) = false →
    exec .picturePreempt s = .next s) ∧
  (∀ (n : Fin 32) (o : CodecOut) (r : CodecRun) (s : State), s.dark = false → s.vceState n = 2 → (s.vceC n).pic = some r → r.stopped = false →
    ∃ t, exec (.pictureDone n o) s = .next t ∧ t = (s.vceFinish n o).vceChains s.vce.length) ∧
  (∀ (n : Fin 32) (o : CodecOut) (s : State), s.vceState n ≠ 2 → exec (.pictureDone n o) s = .next s) ∧
  (∀ (n : Fin 32) (s : State), s.dark = false → s.vceState n = 6 → (s.vceC n).decodes = false → (s.vceC n).pic = none → (s.vceC n).closing = false →
    (s.vceC n).bumps = 0 → (s.vceC n).nextPick.isSome = true → (s.vceC n).ready = none →
    (s.auStart n (s.vceC n) = none → ∃ t, exec (.bitstreamSpaceFree n) s = .next t ∧ t = (s.setVceState n 6).setVce n (s.vceC n)) ∧
    (∀ a, s.auStart n (s.vceC n) = some a → ∃ t, exec (.bitstreamSpaceFree n) s = .next t ∧
      t = ({ s with vceOrder := s.vceOrder + 1 }.setVceState n 1).setVce n { s.vceC n with ready := some s.vceOrder })) ∧
  (∀ (n : Fin 32) (s : State), s.vceState n ≠ 6 ∨ (s.vceC n).decodes = true → exec (.bitstreamSpaceFree n) s = .next s) ∧
  (∀ (n : Fin 32) (s : State), s.dark = false → s.vceState n = 6 → (s.vceC n).decodes = true → (s.vceC n).bumps ≠ 0 →
    ∃ t, exec (.outputSlotFree n) s = .next t ∧
      t = ((s.setVceState n (if (s.vceC n).closing then 5 else 1)).vceDrain n ((s.vceC n).dpb.length + 1)).vceBoundary n) ∧
  (∀ (n : Fin 32) (s : State), s.vceState n ≠ 6 ∨ (s.vceC n).decodes = false ∨ (s.vceC n).bumps = 0 → exec (.outputSlotFree n) s = .next s)

/-- CMP_SUBMIT writes the queue's submission index and lets every queue take what it may; CMP_QUEUE_ENABLE of a disabled
queue also clears its indices and completions; of an enabled one it keeps CLIENT and LOG2CNT and takes PRIO.
CMP_DISABLE of the enabled unit ends every job, of a disabled one it is the plain write. CMP_JOB_TAKE starts the first
ready job on the first engine that may take it, after the engine's domain is up, or completes it with status 5 where
its descriptor fails the checks; a disabled unit or no such pair changes nothing. CMP_JOB_DONE of an engine whose
predictive job is neither suspended nor stopped completes it with its result or its failure; of an idle one it changes
nothing. CMP_ABORT of a job in progress completes it with status 6 and RESULT 1, withdrawing its fault; else RESULT is
2 for a job whose completion stands unread and 3 for any other. CMP_PREEMPT first marks the victim, then evicts a
marked one; with no PRIO 0 job waiting it changes nothing. (R296, R310, R311, R313, R314, R315, R372) -/
def Obligations.CompressionJobs : Prop :=
  (∀ (q : Fin 8) (widx : Half) (src : Nat) (s u : State), Reaches s (R.CMP_Q_SQ_IDX q) u →
    ∃ t, exec (.cmpSubmit q widx src) s = .next t ∧ t = (u.plainWrite src (R.CMP_Q_SQ_IDX q) (widx.setWidth 32)).cmpPump) ∧
  (∀ (q : Fin 8) (v : Word) (src : Nat) (s u : State), Reaches s (R.CMP_Q_CTL q) u →
    (let x := v ||| 0x80000000
     (u.on (F.CMP_Q_CTL.EN q) = false →
       (let w := u.plainWrite src (R.CMP_Q_CTL q) x
        w.on (F.CMP_Q_CTL.EN q) = true →
        ∃ t, exec (.cmpQueueEnable q v src) s = .next t ∧
          t = ({ (w.wreg (R.CMP_Q_SQ_IDX q) 0).wreg (R.CMP_Q_CQ_IDX q) 0 with cmpDone := sset [] w.cmpDone q [] } : State).cmpPump)) ∧
     (u.on (F.CMP_Q_CTL.EN q) = true → getBits x 20 16 = u.get (F.CMP_Q_CTL.CLIENT q) → getBits x 3 0 = u.get (F.CMP_Q_CTL.LOG2CNT q) →
       ∃ t, exec (.cmpQueueEnable q v src) s = .next t ∧ t = ((u.put (F.CMP_Q_CTL.EN q) (getBits x 31 31)).put (F.CMP_Q_CTL.PRIO q) (getBits x 29 28)).cmpPump))) ∧
  (∀ (v : Word) (src : Nat) (s u : State), Reaches s R.CMP_CFG u →
    (let w := u.plainWrite src R.CMP_CFG (v &&& 0x7FFFFFFF)
     (u.on F.CMP_CFG.EN = true → w.on F.CMP_CFG.EN = false → ∃ t, exec (.cmpDisable v src) s = .next t ∧ t.cmp = [] ∧
       t = ({ w.cmp.foldl (fun a j => if j.susp then a.withdrawFault (30 + j.eng) else a) w with cmp := [] } : State).cmpShow) ∧
     (u.on F.CMP_CFG.EN = false → ∃ t, exec (.cmpDisable v src) s = .next t ∧ t = w.cmpPump))) ∧
  (∀ (deflate : Bool) (s : State) (k : Nat) (j : CmpJob) (r : List (Nat × CmpJob)), s.dark = false → s.on F.CMP_CFG.EN = true →
    (cmpEngines deflate).filterMap (fun k => if (s.cmpRunning k).isSome then none
      else ((isort s.cmpBefore (s.cmpReady deflate)).find? (fun j => (s.cmpHeld k).isNone || s.cmpPrio j.q == 0)).map (fun j => (k, j))) = (k, j) :: r →
    (let w : State := { s.bringUp (113 + k) with cmpOrder := s.cmpOrder + 1 }
     let i : CmpJob := { j with started := some (s.cmpOrder + 1), eng := k }
     (i.ok = true → ∃ t, exec (.cmpJobTake deflate) s = .next t ∧ t = (w.cmpUpdate i).cmpShow) ∧
     (i.ok = false → ∃ t, exec (.cmpJobTake deflate) s = .next t ∧ t = (w.cmpComplete i 5 0 0).cmpPump))) ∧
  (∀ (deflate : Bool) (s : State), s.on F.CMP_CFG.EN = false ∨ s.cmpReady deflate = [] → exec (.cmpJobTake deflate) s = .next s) ∧
  (∀ (k : Fin 6) (out : List Byte) (s w : State) (j i : CmpJob), s.dark = false → s.cmpRunning k = some j → j.susp = false → j.stopped = false → j.isDeflate = false →
    (∀ o n, s.cmpPredict j = ((i, .ok (o, n)), w) → ∃ t, exec (.cmpJobDone k out) s = .next t ∧ t = (w.cmpComplete i 0 o n).cmpPump) ∧
    (∀ n, s.cmpPredict j = ((i, .error (.status n)), w) → ∃ t, exec (.cmpJobDone k out) s = .next t ∧ t = (w.cmpComplete i n 0 0).cmpPump) ∧
    (∀ va a kd, s.cmpPredict j = ((i, .error (.fault va a kd)), w) → ∃ t, exec (.cmpJobDone k out) s = .next t ∧ t = w.cmpSuspend i (30 + k) va a kd)) ∧
  (∀ (k : Fin 6) (out : List Byte) (s : State), s.cmpRunning k = none → exec (.cmpJobDone k out) s = .next s) ∧
  (∀ (v : Word) (s u : State), Reaches s R.CMP_ABORT u →
    (let q := getBits (v ||| 0x80000000) 26 24
     let id := u.get F.CMP_ABORT_ID.JOB_ID
     (∀ j, u.cmp.find? (fun j => j.q == q && j.id == id) = some j →
       (let w := u.put F.CMP_ABORT.RESULT 1
        ∃ t, exec (.cmpAbort v) s = .next t ∧ t = ((if j.susp then w.withdrawFault (30 + j.eng) else w).cmpComplete j 6 0 0).cmpPump)) ∧
     (u.cmp.find? (fun j => j.q == q && j.id == id) = none →
       ∃ t, exec (.cmpAbort v) s = .next t ∧ t = u.put F.CMP_ABORT.RESULT (if (u.cmpIds q).contains id then 2 else 3)))) ∧
  (∀ (deflate : Bool) (s : State) (j : CmpJob), s.dark = false → (s.cmpReady deflate).any (fun j => s.cmpPrio j.q == 0) = true →
    (cmpEngines deflate).any (fun k => (s.cmpRunning k).isNone) = false → j.susp = false →
    (((cmpEngines deflate).filterMap s.cmpRunning).find? (·.chosen) = none → s.cmpVictim deflate = some j → j.chosen = false →
      ∃ t, exec (.cmpPreempt deflate) s = .next t ∧ t = s.cmpUpdate { j with chosen := true }) ∧
    (((cmpEngines deflate).filterMap s.cmpRunning).find? (·.chosen) = some j → j.chosen = true →
      ∃ t, exec (.cmpPreempt deflate) s = .next t ∧ t = s.cmpEvict j)) ∧
  (∀ (deflate : Bool) (s : State), (s.cmpReady deflate).any (fun j => s.cmpPrio j.q == 0) = false → exec (.cmpPreempt deflate) s = .next s)

/-- MMU_ENABLE is the plain write with EN set. A write of a unit's MMU_UNITu_CFG empties that unit's TLB. MMU_INVALIDATE
sets BUSY and removes the entries that the written scope names from every TLB, or while BUSY posts the ignored-write
event; MMU_INVALIDATE_DONE removes those that came meanwhile and clears BUSY. TABLE_WALK by a unit that holds no fault
leaves what its translation leaves, and where that faults suspends the unit with the address, the direction and the
kind; by a unit that holds one it changes nothing. MMU_RESUME of a unit that holds a fault sets RESULT 1, clears the
fault and restarts or fails the unit's work, and of any other sets RESULT 2. MMU_FAULT_TIMEOUT of a pending fault,
unless FLT_TMO_MS is 0, clears it, fails the work and posts severity 4 with the address; else it changes nothing.
(R360, R364, R367, R368, R369, R370) -/
def Obligations.Translation : Prop :=
  (∀ (v : Word) (src : Nat) (s u : State), Reaches s R.MMU_CTL u → ∃ t, exec (.mmuEnable v src) s = .next t ∧ t = u.plainWrite src R.MMU_CTL (v ||| 0x80000000)) ∧
  (∀ (k : Fin 43) (v : Word) (src : Nat) (s u : State), Reaches s (R.MMU_UNIT_CFG k) u → ∃ t, exec (.mmuUnitCfgWrite k v src) s = .next t ∧
    t.tlbOf k = [] ∧ t = (u.plainWrite src (R.MMU_UNIT_CFG k) v).setTlb k []) ∧
  (∀ (v : Word) (src : Nat) (s u : State), Reaches s R.MMU_INV u →
    (u.on F.MMU_INV.BUSY = true → ∃ t, exec (.mmuInvalidate v src) s = .next t ∧ t = u.postIgnored src 3 R.MMU_INV) ∧
    (u.on F.MMU_INV.BUSY = false → ∃ t, exec (.mmuInvalidate v src) s = .next t ∧
      (let w := (u.plainWrite src R.MMU_INV (v ||| 0x80000000)).put F.MMU_INV.BUSY 1
       let pages := if w.get F.MMU_INV.PAGES = 0 then 65536 else w.get F.MMU_INV.PAGES
       let va := w.get F.MMU_INV_VA_LO.VA * 2 ^ 16 + w.get F.MMU_INV_VA_HI.VA * 2 ^ 32
       t = (List.range 43).foldl (fun a k => a.setTlb k ((a.tlbOf k).filter
         (fun e => !invalidates (w.get F.MMU_INV.SCOPE) (w.get F.MMU_INV.SPACE) va pages e))) w))) ∧
  (∀ s : State, (s.dark = false → s.on F.MMU_INV.BUSY = true → ∃ t, exec .mmuInvalidateDone s = .next t ∧ t.on F.MMU_INV.BUSY = false ∧ t = s.invalidateTlbs.put F.MMU_INV.BUSY 0) ∧
    (s.on F.MMU_INV.BUSY = false → exec .mmuInvalidateDone s = .next s)) ∧
  (∀ (k : Fin 43) (va : BitVec 48) (write pinned : Bool) (s w : State), s.dark = false → s.on (F.MMU_UNIT_FLT_HI.VALID k) = false →
    (let r : Req := ⟨unitSrc k, k, noClient, pinned || !mayFault k, none⟩
     (∀ a, s.translate r va.toNat write = (.ok a, w) → ∃ t, exec (.tableWalk k va write pinned) s = .next t ∧ t = w) ∧
     (∀ a b c, s.translate r va.toNat write = (.error (.fault a b c), w) → ∃ t, exec (.tableWalk k va write pinned) s = .next t ∧ t = w.suspendUnit k a b c))) ∧
  (∀ (k : Fin 43) (va : BitVec 48) (write pinned : Bool) (s : State), s.on (F.MMU_UNIT_FLT_HI.VALID k) = true → exec (.tableWalk k va write pinned) s = .next s) ∧
  (∀ (k : Fin 64) (s u : State), Reaches s R.MMU_RESUME u →
    (k.val < 43 → u.on (F.MMU_UNIT_FLT_HI.VALID k) = true →
      (∃ t, exec (.mmuResumeRestart k) s = .next t ∧ t = ((u.put F.MMU_RESUME.RESULT 1).clearFault k).resolveWork k false) ∧
      (∃ t, exec (.mmuResumeFail k) s = .next t ∧ t = ((u.put F.MMU_RESUME.RESULT 1).clearFault k).resolveWork k true)) ∧
    (43 ≤ k.val ∨ u.on (F.MMU_UNIT_FLT_HI.VALID k) = false →
      (∃ t, exec (.mmuResumeRestart k) s = .next t ∧ t = u.put F.MMU_RESUME.RESULT 2) ∧ (∃ t, exec (.mmuResumeFail k) s = .next t ∧ t = u.put F.MMU_RESUME.RESULT 2))) ∧
  (∀ (k : Fin 43) (s : State), s.dark = false → s.on (F.MMU_UNIT_FLT_HI.VALID k) = true → s.get F.MMU_CTL.FLT_TMO_MS ≠ 0 →
    ∃ t, exec (.mmuFaultTimeout k) s = .next t ∧
      t = ((s.clearFault k).resolveWork k true).post (unitSrc k) 4 5 k ((s.reg (R.MMU_UNIT_FLT_LO k)).toNat + 2 ^ 32 * s.get (F.MMU_UNIT_FLT_HI.VA k))) ∧
  (∀ (k : Fin 43) (s : State), s.on (F.MMU_UNIT_FLT_HI.VALID k) = false ∨ s.get F.MMU_CTL.FLT_TMO_MS = 0 → exec (.mmuFaultTimeout k) s = .next s)

/-- DMA_ENABLE of a disabled channel clears its indices and its work; of an enabled one with CLIENT and LOG2CNT as they
stand it changes nothing. DMA_DISABLE of an enabled channel clears EN, withdraws its fault and ends a descriptor in
progress with status 6. DMA_SUBMIT writes the submission index. DMA_DESCRIPTOR_TAKE of an enabled channel with no
descriptor in progress, a descriptor in its ring and a completion slot left steps RIDX and takes a descriptor that
passes the checks; one that fails them completes with status 5, and one whose read fails with 2 for parity and 3 else;
of any other channel it changes nothing. DMA_DESCRIPTOR_DONE performs the bursts left and ends with status 0, with 2
at a parity error, and suspends at a fault with the bursts performed kept; of a channel with no descriptor, or a
suspended one, it changes nothing. SACHET_REQUEST of a class below its MAX with a sachet to choose grants that sachet
to the channel; else DENIED and WAITING count and the request joins the queue. SACHET_RELEASE of a held sachet frees
it, counts it out of its class, and serves the waiting requests, after which pictures whose streams waited go on; of a
sachet no channel holds it only lets such pictures go on. STEEP_BOUNDARY, while the steep's domain is On, takes the
counters of every client for the steep that ends and refills every allowance for the one that begins, and else changes
nothing. (R336, R347, R354, R355, R356, R375, R376, R377, R378, Table 15.5) -/
def Obligations.DmaSachetsAndSteeps : Prop :=
  ((∀ (c : Fin 4) (v : Word) (src : Nat) (s u : State), Reaches s (R.MMU_DMA_CTL c) u →
    (u.on (F.MMU_DMA_CTL.EN c) = false →
      (let w := u.plainWrite src (R.MMU_DMA_CTL c) (v ||| 0x80000000)
       w.on (F.MMU_DMA_CTL.EN c) = true → ∃ t, exec (.dmaEnable c v src) s = .next t ∧
         t = ((w.wreg (R.MMU_DMA_SQ_IDX c) 0).wreg (R.MMU_DMA_CQ_IDX c) 0).setDma c ⟨none, 0⟩)) ∧
    (u.on (F.MMU_DMA_CTL.EN c) = true → getBits (v ||| 0x80000000) 20 16 = u.get (F.MMU_DMA_CTL.CLIENT c) →
      getBits (v ||| 0x80000000) 3 0 = u.get (F.MMU_DMA_CTL.LOG2CNT c) → exec (.dmaEnable c v src) s = .next u)) ∧
  (∀ (c : Fin 4) (v : Word) (src : Nat) (s u : State), Reaches s (R.MMU_DMA_CTL c) u → u.on (F.MMU_DMA_CTL.EN c) = true →
    getBits (v &&& 0x7FFFFFFF) 20 16 = u.get (F.MMU_DMA_CTL.CLIENT c) → getBits (v &&& 0x7FFFFFFF) 3 0 = u.get (F.MMU_DMA_CTL.LOG2CNT c) →
    (let w := (u.put (F.MMU_DMA_CTL.EN c) 0).withdrawFault (36 + c)
     ((w.dmaC c).job = none → ∃ t, exec (.dmaDisable c v src) s = .next t ∧ t = w) ∧
     (∀ j, (w.dmaC c).job = some j → ∃ t, exec (.dmaDisable c v src) s = .next t ∧ t = w.dmaComplete c j 6))) ∧
  (∀ (c : Fin 4) (widx : Half) (src : Nat) (s u : State), Reaches s (R.MMU_DMA_SQ_IDX c) u →
    ∃ t, exec (.dmaSubmit c widx src) s = .next t ∧ t = u.plainWrite src (R.MMU_DMA_SQ_IDX c) (widx.setWidth 32)) ∧
  (∀ (c : Fin 4) (s : State), s.dark = false → s.on (F.MMU_DMA_CTL.EN c) = true → (s.dmaC c).job = none →
    s.get (F.MMU_DMA_SQ_IDX.RIDX c) % s.dmaSize c ≠ s.get (F.MMU_DMA_SQ_IDX.WIDX c) % s.dmaSize c → (s.dmaC c).unread < s.dmaSize c →
    (let i := s.get (F.MMU_DMA_SQ_IDX.RIDX c) % s.dmaSize c
     let v := s.put (F.MMU_DMA_SQ_IDX.RIDX c) ((i + 1) % s.dmaSize c)
     let z : DmaJob := { (default : DmaJob) with desc := zeros 64 }
     let rd := v.engRead (v.dmaReq c true z.id) (v.addr (R.MMU_DMA_SQ_LO c) (R.MMU_DMA_SQ_HI c) + 64 * i) 64
     (∀ b w, rd = (.ok b, w) → ({ z with desc := b } : DmaJob).ok = true → ∃ t, exec (.dmaDescriptorTake c) s = .next t ∧
       t = w.setDma c { s.dmaC c with job := some { z with desc := b } }) ∧
     (∀ b w, rd = (.ok b, w) → ({ z with desc := b } : DmaJob).ok = false → ∃ t, exec (.dmaDescriptorTake c) s = .next t ∧ t = w.dmaComplete c { z with desc := b } 5) ∧
     (∀ w, rd = (.error .parity, w) → ∃ t, exec (.dmaDescriptorTake c) s = .next t ∧ t = w.dmaComplete c z 2) ∧
     (∀ e w, rd = (.error e, w) → e ≠ .parity → ∃ t, exec (.dmaDescriptorTake c) s = .next t ∧ t = w.dmaComplete c z 3))) ∧
  (∀ (c : Fin 4) (s : State), s.on (F.MMU_DMA_CTL.EN c) = false ∨ (s.dmaC c).job.isSome = true ∨
    s.get (F.MMU_DMA_SQ_IDX.RIDX c) % s.dmaSize c = s.get (F.MMU_DMA_SQ_IDX.WIDX c) % s.dmaSize c ∨ s.dmaSize c ≤ (s.dmaC c).unread →
    exec (.dmaDescriptorTake c) s = .next s) ∧
  (∀ (c : Fin 4) (s w : State) (j k : DmaJob), s.dark = false → (s.dmaC c).job = some j → j.susp = false →
    (let go := s.dmaBursts c j (j.rows * (j.len / 64 + 2))
     (go = ((k, none), w) → ∃ t, exec (.dmaDescriptorDone c) s = .next t ∧ t = w.dmaComplete c k 0) ∧
     (go = ((k, some .parity), w) → ∃ t, exec (.dmaDescriptorDone c) s = .next t ∧ t = w.dmaComplete c k 2) ∧
     (∀ va a kd, go = ((k, some (.fault va a kd)), w) → ∃ t, exec (.dmaDescriptorDone c) s = .next t ∧
       t = (w.setDma c { w.dmaC c with job := some { k with susp := true, faulted := true } }).unitFault (srcDma c) (36 + c) va a kd))) ∧
  (∀ (c : Fin 4) (s : State), (s.dmaC c).job = none ∨ (∃ j, (s.dmaC c).job = some j ∧ j.susp = true) → exec (.dmaDescriptorDone c) s = .next s)) ∧
  ((∀ (c : Fin 7) (chan : Nat) (s : State), s.dark = false →
    (∀ k, s.get (F.CAD_CL_HELD.HELD c) < s.classMax c → s.chooseSachet c chan = some k → ∃ t, exec (.sachetRequest c chan) s = .next t ∧ t = s.grantSachet c chan k) ∧
    (s.classMax c ≤ s.get (F.CAD_CL_HELD.HELD c) ∨ s.chooseSachet c chan = none → ∃ t, exec (.sachetRequest c chan) s = .next t ∧
      t.caddy.waits = s.caddy.waits ++ [(c.val, chan)] ∧ t.caddy.held = s.caddy.held ∧
      t = { (s.bump (F.CAD_CL_STAT.DENIED c)).bumpBy (F.CAD_CL_STAT.WAITING c) 1 with caddy := t.caddy })) ∧
  (∀ (k : Fin 12288) (s : State), s.dark = false →
    (∀ c chan, s.sachetHolder k = some (c, chan) → s.caddy.waits = [] → c ≠ 4 → ∃ t, exec (.sachetRelease k) s = .next t ∧
      t = (({ s with caddy := { s.caddy with held := sset none s.caddy.held k none } } : State).countHeld c (s.get (F.CAD_CL_HELD.HELD c) - 1)
        (s.get F.CAD_FREE.FREE + (if decide (k < s.blockStart) then 1 else 0))).vceChains s.vce.length) ∧
    (s.sachetHolder k = none → ∃ t, exec (.sachetRelease k) s = .next t ∧ t = s.vceChains s.vce.length)) ∧
  (∀ s : State, (s.dark = false → s.domOn 140 = true → ∃ t, exec .steepBoundary s = .next t ∧ t = (s.steepEnd true).steepBegin) ∧
    (s.domOn 140 = false → exec .steepBoundary s = .next s)))

/-- DRC_MAP_APPLY with APPLY set, none in force, sets ERR to the first failing check and APPLY exactly when there is none;
otherwise it changes nothing. DRC_INIT and its resuming form on a channel reset or failed, with the mapping in force,
demand the channel's domains and go to STATE 1 with TRAIN_ERR 0; else they post the ignored-write event with the
channel as source. A full retrain of a channel in service goes to STATE 4; a short one is due for both subchannels; on
any other channel both change nothing. TRAIN_DONE of a full retrain counts it, and with no error returns to service
with the band's presets, the retrains due, and the waiting requests; with an error it fails with severity 6.
TRAIN_DONE of an initialisation with its domains On and MCLK locked comes into service, or fails with severity 5,
losing the contents unless it resumes; a resume without kept contents fails with code 8. SHORT_RETRAIN_DUE starts, or
keeps for later, a short retrain by the channel's state; SHORT_RETRAIN_DONE counts it, takes the presets and starts
the next. (R320, R326, R327, R328, R329, R553, Table 13.3, Table 13.4) -/
def Obligations.DramTraining : Prop :=
  (∀ (v : Word) (s u : State), Reaches s (R.DRC_MAPCTL) u →
    (v.getLsbD 31 = true → u.on F.DRC_MAPCTL.APPLY = false → ∃ t, exec (.drcMapApply v) s = .next t ∧
      t = (u.put F.DRC_MAPCTL.ERR u.mapError).putB F.DRC_MAPCTL.APPLY (decide (u.mapError = 0))) ∧
    (v.getLsbD 31 = false ∨ u.on F.DRC_MAPCTL.APPLY = true → exec (.drcMapApply v) s = .next u)) ∧
  (∀ (ch : Fin 8) (s : State) (resume : Bool), s.dark = false →
    (let c := if resume then Instr.drcInitResume ch else .drcInit ch
     (s.on F.DRC_MAPCTL.APPLY = true → s.get (F.DRC_CTRL.STATE ch) = 0 ∨ s.get (F.DRC_CTRL.STATE ch) = 5 → ∃ t, exec c s = .next t ∧
       (let w := ((((s.demand 88).demand (72 + 2 * ch)).demand (73 + 2 * ch)).put (F.DRC_CTRL.STATE ch) 1).put (F.DRC_CTRL.TRAIN_ERR ch) 0
        t = { w with dram := { w.dram with resume := sset false w.dram.resume ch resume } })) ∧
     (s.on F.DRC_MAPCTL.APPLY = false ∨ (s.get (F.DRC_CTRL.STATE ch) ≠ 0 ∧ s.get (F.DRC_CTRL.STATE ch) ≠ 5) → ∃ t, exec c s = .next t ∧
       t = s.postIgnored (drcSrc ch) 3 (R.DRC_CTRL ch)))) ∧
  (∀ (ch : Fin 8) (s : State), s.dark = false → s.get (F.DRC_CTRL.STATE ch) = 2 →
    (∃ t, exec (.drcRetrainFull ch) s = .next t ∧ t = (s.put (F.DRC_CTRL.STATE ch) 4).put (F.DRC_CTRL.TRAIN_ERR ch) 0) ∧
    (∃ t, exec (.drcRetrainShort ch) s = .next t ∧ t = (s.dueShort (2 * ch)).dueShort (2 * ch + 1))) ∧
  (∀ (ch : Fin 8) (s : State), s.get (F.DRC_CTRL.STATE ch) ≠ 2 → exec (.drcRetrainFull ch) s = .next s ∧ exec (.drcRetrainShort ch) s = .next s) ∧
  (∀ (ch err : Fin 8) (s : State), s.dark = false → s.get (F.DRC_CTRL.STATE ch) = 4 →
    (let w := s.bump (F.DRC_RTRN.FULL ch)
     (err = 0 → ∃ t, exec (.drcTrainDone ch err) s = .next t ∧
       t = ((((w.put (F.DRC_CTRL.STATE ch) 2).applyPresets (2 * ch)).applyPresets (2 * ch + 1)).runDue ch).serveAll) ∧
     (err ≠ 0 → ∃ t, exec (.drcTrainDone ch err) s = .next t ∧
       t = (((w.put (F.DRC_CTRL.STATE ch) 5).put (F.DRC_CTRL.TRAIN_ERR ch) err).post (drcSrc ch) 6 0 err 0).failWaiting ch))) ∧
  (∀ (ch err : Fin 8) (s : State), s.dark = false → s.get (F.DRC_CTRL.STATE ch) = 1 → s.domOn 88 = true → s.domOn (72 + 2 * ch) = true →
    s.domOn (73 + 2 * ch) = true → s.bit F.PWR_PLL.LOCK 1 = true →
    (let w : State := { s with dram := { s.dram with resume := sset false s.dram.resume ch false } }
     let kept : State := { w with dram := { w.dram with selfRef := sset false w.dram.selfRef ch false } }
     let fails := fun (a : State) (e : Nat) => ((a.put (F.DRC_CTRL.STATE ch) 5).put (F.DRC_CTRL.TRAIN_ERR ch) e).post (drcSrc ch) 5 0 e 0
     (sget false s.dram.resume ch = true → sget false s.dram.selfRef ch = false → ∃ t, exec (.drcTrainDone ch err) s = .next t ∧ t = fails w 8) ∧
     (∀ v, (sget false s.dram.resume ch = true ∧ sget false s.dram.selfRef ch = true ∧ v = kept) ∨ (sget false s.dram.resume ch = false ∧ v = kept.loseChannel ch) →
       (err = 0 → ∃ t, exec (.drcTrainDone ch err) s = .next t ∧ t = ((v.put (F.DRC_CTRL.STATE ch) 2).applyPresets (2 * ch)).applyPresets (2 * ch + 1)) ∧
       (err ≠ 0 → ∃ t, exec (.drcTrainDone ch err) s = .next t ∧ t = fails v err)))) ∧
  (∀ (x : Fin 16) (s : State), s.dark = false →
    (s.get (F.DRC_CTRL.STATE (x / 2 : Nat)) = 2 → ∃ t, exec (.shortRetrainDue x) s = .next t ∧ t = s.startShort x) ∧
    (s.get (F.DRC_CTRL.STATE (x / 2 : Nat)) = 3 ∨ s.get (F.DRC_CTRL.STATE (x / 2 : Nat)) = 4 → ∃ t, exec (.shortRetrainDue x) s = .next t ∧
      t = { s with dram := { s.dram with shortDue := s.dram.shortDue ++ [x.val] } })) ∧
  (∀ s : State, (∀ x, s.dark = false → s.dram.short = some x → ∃ t, exec .shortRetrainDone s = .next t ∧
      t = (((s.bump (F.DRC_RTRN.SHORT (x / 2))).applyPresets x).nextShort s.dram.shortWait).serveAll) ∧
    (s.dram.short = none → exec .shortRetrainDone s = .next s))

/-- DRAM_REQUEST to a channel that is in service, by a client within its allowance, with no earlier request to the block,
is performed; one that may not go yet joins the waiting ones, and one to a channel not in service fails, a read with
the parity answer. ALERT_N counts, posts severity 4 and makes short retrains due on both subchannels. DRAM_TEMP_READ
classes the channel's devices and takes the channel to the higher of the device band and theirs. REFRESH_DUE of a rank
of a channel in service or in full retrain refreshes it, or is put off while requests wait, at most four times; of
another channel it changes nothing. PAGE_AUTO_TIMEOUT closes a row of page mode 0 and leaves any other.
SELF_REFRESH_ENTRY of an idle channel in service with DRC_SR enabled drains its queues, refreshes its ranks and goes
to STATE 3; else it changes nothing. (R321, R322, R324, R330, R331, R332, R341, R489) -/
def Obligations.DramUpkeep : Prop :=
  (∀ (client : Fin 32) (addr : Nat) (write reads : Bool) (data : List Byte) (mask : BitVec 64) (s : State), s.dark = false →
    (let w : WaitReq := ⟨client, addr % 2 ^ 38 / 64 * 64, write, data, mask.toNat⟩
     let v := s.exitSelfRefresh (s.dramLoc w.addr).ch
     (s.dramReady w.addr = true → v.admissible w = true → v.steepWait.any (fun x => x.addr == w.addr) = false →
       ∃ t, exec (.dramRequest client addr write data mask reads) s = .next t ∧ t = v.dramPerform w reads) ∧
     (s.dramReady w.addr = true → v.admissible w = false ∨ v.steepWait.any (fun x => x.addr == w.addr) = true →
       ∃ t, exec (.dramRequest client addr write data mask reads) s = .next t ∧ t.steepWait = v.steepWait ++ [w] ∧
         t = { v.setClient client { v.client client with held := (v.client client).held || decide (v.tier client 0 = 0) } with steepWait := t.steepWait }) ∧
     (s.dramReady w.addr = false → write = false → ∃ t, exec (.dramRequest client addr write data mask reads) s = .next t ∧
       t = (s.dramFail w.addr).emit "dram parity error" client [w.addr]) ∧
     (s.dramReady w.addr = false → write = true → ∃ t, exec (.dramRequest client addr write data mask reads) s = .next t ∧ t = s.dramFail w.addr))) ∧
  (∀ (ch : Fin 8) (s : State), s.dark = false → ∃ t, exec (.alertNAssert ch) s = .next t ∧
    t = (((s.bump (F.DRC_ERR.ALERTS ch)).post (drcSrc ch) 4 0 0 0).dueShort (2 * ch)).dueShort (2 * ch + 1)) ∧
  (∀ (ch : Fin 8) (temps : List (Option Int)) (s : State), s.dark = false →
    (let w := s.readDevices (12 * ch) (temps.take 12)
     let band := max (w.get F.THM_STAT.BAND) ((List.range 12).foldl (fun b i => max b (sget 0 w.dram.devBands (12 * ch + i))) 0)
     (band = w.get (F.DRC_CTRL.BAND ch) → ∃ t, exec (.dramTempRead ch temps) s = .next t ∧ t = w) ∧
     (band ≠ w.get (F.DRC_CTRL.BAND ch) → ∃ t, exec (.dramTempRead ch temps) s = .next t ∧ t = (w.put (F.DRC_CTRL.BAND ch) band).dueBoth ch))) ∧
  (∀ (rank : Fin 32) (postpone : Bool) (s : State), s.dark = false → s.get (F.DRC_CTRL.STATE (rank / 4 : Nat)) = 2 ∨ s.get (F.DRC_CTRL.STATE (rank / 4 : Nat)) = 4 →
    (let n := sget 0 s.dram.postponed rank.val
     (postpone = true → n < 4 → s.subWaits (rank / 2 : Nat) = true → ∃ t, exec (.refreshDue rank postpone) s = .next t ∧
       t = { s with dram := { s.dram with postponed := sset 0 s.dram.postponed rank.val (n + 1) } }) ∧
     (postpone = false ∨ 4 ≤ n ∨ s.subWaits (rank / 2 : Nat) = false → ∃ t, exec (.refreshDue rank postpone) s = .next t ∧ t = s.refreshRank rank))) ∧
  (∀ (rank : Fin 32) (postpone : Bool) (s : State), s.get (F.DRC_CTRL.STATE (rank / 4 : Nat)) ≠ 2 → s.get (F.DRC_CTRL.STATE (rank / 4 : Nat)) ≠ 4 →
    exec (.refreshDue rank postpone) s = .next s) ∧
  (∀ (bank : Fin 512) (s : State), (∀ r, s.dark = false → sget none s.dram.rows bank.val = some (r, 0) → ∃ t, exec (.pageAutoTimeout bank) s = .next t ∧
      t = { s with dram := { s.dram with rows := sclear s.dram.rows bank (bank + 1) } }) ∧
    (∀ r m, sget none s.dram.rows bank.val = some (r, m + 1) → exec (.pageAutoTimeout bank) s = .next s) ∧
    (sget none s.dram.rows bank.val = none → exec (.pageAutoTimeout bank) s = .next s)) ∧
  (∀ (ch : Fin 8) (s : State),
    (let busy := s.steepWait.any (fun w => (s.dramLoc w.addr).ch == ch.val) ||
       (s.dram.short :: s.dram.shortWait.map some).any (fun x => x == some (2 * ch.val) || x == some (2 * ch.val + 1))
     (s.dark = false → s.get (F.DRC_CTRL.STATE ch) = 2 → s.on (F.DRC_SR.EN ch) = true → s.get (F.DRC_SR.IDLE_US ch) ≠ 0 → busy = false →
       ∃ t, exec (.selfRefreshEntry ch) s = .next t ∧ t.get (F.DRC_CTRL.STATE ch) = 3 ∧ t = s.selfRefresh ch) ∧
     (s.get (F.DRC_CTRL.STATE ch) ≠ 2 ∨ s.on (F.DRC_SR.EN ch) = false ∨ s.get (F.DRC_SR.IDLE_US ch) = 0 ∨ busy = true → exec (.selfRefreshEntry ch) s = .next s)))

/-- ETH_PORT_ENABLE of a disabled port writes ETH_CFG and starts the port; of an enabled one it posts the ignored-write
event. ETH_PORT_DISABLE of an enabled port with the other fields as they stand disables it, after packets whose pause
has ended leave. ETH_LINK_UP of a sub-port of an enabled port whose lanes are all up sets its link bit, or AN_FAIL
where the port negotiates and the partner does not agree; else it changes nothing. ETH_LINK_DOWN clears the link bit.
ETH_FRAME_RECEIVE on an enabled port with the link up is delivered, a frame on a lane that is not up counting as one
of bad FCS; a frame of bad FCS counts RX_FCS, one of a length out of bounds RX_DISCARD; in Nap, Doze or a wake a frame
is kept while 16 KiB hold it; on a disabled port or a link that is down nothing happens but that pauses end.
ARP_ENTRY_EXPIRE removes the address's entries. (R380, R382, R383, R384, R385, R392, R481) -/
def Obligations.EthernetPorts : Prop :=
  (∀ (p : Fin 2) (v : Word) (src : Nat) (s u : State), Reaches s (R.ETH_CFG p) u →
    (u.on (F.ETH_CFG.EN p) = false →
      (let w := u.plainWrite src (R.ETH_CFG p) (v ||| 0x80000000)
       w.on (F.ETH_CFG.EN p) = true → ∃ t, exec (.ethPortEnable p v src) s = .next t ∧ t = w.ethStart p)) ∧
    (u.on (F.ETH_CFG.EN p) = true → ∃ t, exec (.ethPortEnable p v src) s = .next t ∧ t = u.postIgnored src 3 (R.ETH_CFG p)) ∧
    (u.on (F.ETH_CFG.EN p) = true → ((v &&& 0x7FFFFFFF) ^^^ u.reg (R.ETH_CFG p)) &&& 0x7FFFFFFF = 0 →
      ∃ t, exec (.ethPortDisable p v src) s = .next t ∧ t = u.ethFlush.ethDisable p)) ∧
  (∀ (p : Fin 2) (k : Fin 4) (agreed : Bool) (s : State), s.dark = false → s.on (F.ETH_CFG.EN p) = true → s.subLanes p k ≠ [] →
    (s.subLanes p k).all (fun n => s.on (F.LNK_STAT.UP n)) = true →
    (s.on (F.ETH_CFG.AN p) = false ∨ agreed = true → ∃ t, exec (.ethLinkUp p k agreed) s = .next t ∧ t = s.setBit (F.ETH_STAT.LINK p) k true ∧ t.bit (F.ETH_STAT.LINK p) k = true) ∧
    (s.on (F.ETH_CFG.AN p) = true → agreed = false → ∃ t, exec (.ethLinkUp p k agreed) s = .next t ∧ t = s.put (F.ETH_STAT.AN_FAIL p) 1)) ∧
  (∀ (p : Fin 2) (k : Fin 4) (agreed : Bool) (s : State), s.on (F.ETH_CFG.EN p) = false ∨ s.subLanes p k = [] ∨
    (s.subLanes p k).all (fun n => s.on (F.LNK_STAT.UP n)) = false → exec (.ethLinkUp p k agreed) s = .next s) ∧
  (∀ (p : Fin 2) (k : Fin 4) (s : State), s.dark = false → ∃ t, exec (.ethLinkDown p k) s = .next t ∧ t = s.setBit (F.ETH_STAT.LINK p) k false) ∧
  (∀ (p : Fin 2) (k : Fin 4) (fcs : Bool) (f : List Byte) (s : State), s.dark = false →
    (let u := s.ethFlush
     let good := fcs && (u.subLanes p k).all (fun n => u.on (F.LNK_STAT.UP n))
     let w := if dstMac f = u.subMac (4 * p + k) then u.latchWake (3 + p) else u
     (u.on (F.ETH_CFG.EN p) = true → u.ethUp p k = true → u.drowsy = false → good = false →
       ∃ t, exec (.ethFrameReceive p k fcs f) s = .next t ∧ t = w.bump (F.ETH_CNT0.RX_FCS p)) ∧
     (u.on (F.ETH_CFG.EN p) = true → u.ethUp p k = true → u.drowsy = false → good = true → f.length < 60 →
       ∃ t, exec (.ethFrameReceive p k fcs f) s = .next t ∧ t = w.bump (F.ETH_CNT0.RX_DISCARD p)) ∧
     (u.on (F.ETH_CFG.EN p) = true → u.ethUp p k = true → u.drowsy = false → good = true →
       ∃ t, exec (.ethFrameReceive p k fcs f) s = .next t ∧ t = u.ethDeliver p k true f) ∧
     (u.on (F.ETH_CFG.EN p) = true → u.ethUp p k = true → u.drowsy = true →
       (u.eth.asleep.filter (fun e => e.1 == p.val)).foldl (fun n e => n + e.2.2.2.length) 0 + f.length ≤ 16384 →
       ∃ t, exec (.ethFrameReceive p k fcs f) s = .next t ∧ t = { w with eth := { w.eth with asleep := w.eth.asleep ++ [(p.val, k.val, good, f)] } }) ∧
     (u.on (F.ETH_CFG.EN p) = false ∨ u.ethUp p k = false → ∃ t, exec (.ethFrameReceive p k fcs f) s = .next t ∧ t = u))) ∧
  (∀ (p : Fin 2) (k : Fin 4) (ip : Word) (s : State), s.dark = false → ∃ t, exec (.arpEntryExpire p k ip) s = .next t ∧
    t.arpOf (4 * p + k) = (s.arpOf (4 * p + k)).filter (fun e => e.1 != ip.toNat) ∧ t = { s with eth := { s.eth with arp := t.eth.arp } })

/-- Each command first lets packets leave whose pause has ended. ROCE_PACKET_RECEIVE for an open queue pair of the port
with its link up: a bad ICRC counts, a queue pair in Error takes nothing, an acknowledgement or read response
acknowledges up to its PSN, an RNR NAK up to the PSN before, a NAK of code 0 retries and any other fails the queue
pair, a request in sequence acts, and one ahead is answered with a NAK once; in Nap, Doze or a wake the packet wakes
the port and is discarded; for no queue pair, another port or a link that is down nothing happens. ROCE_RETRY_TIMEOUT
and ROCE_RNR_TIMEOUT of a queue pair with messages outstanding send them again with one more try counted, or fail it
at the limit; with none they change nothing. QP_KILL closes the queue pair and its CCP queue. (R387, R388, R391, R481) -/
def Obligations.QueuePairs : Prop :=
  (∀ (p : Fin 2) (k : RocePkt) (s : State) (x : EthQp), s.dark = false →
    (let u := s.ethFlush
     u.qp k.qp = some x → x.sub / 4 = p.val → u.ethUp p (x.sub % 4) = true →
     (u.drowsy = true → ∃ t, exec (.rocePacketReceive p k) s = .next t ∧ t = (u.latchWake (3 + p)).bump (F.ETH_CNT0.RX_DISCARD p)) ∧
     (u.drowsy = false → k.icrc = false → ∃ t, exec (.rocePacketReceive p k) s = .next t ∧ t = u.bump (F.ETH_CNT1.ICRC p)) ∧
     (u.drowsy = false → k.icrc = true → x.error = true → ∃ t, exec (.rocePacketReceive p k) s = .next t ∧ t = u) ∧
     (u.drowsy = false → k.icrc = true → x.error = false →
       (k.op = 3 ∨ k.op = 4 → ∃ t, exec (.rocePacketReceive p k) s = .next t ∧ t = u.roceAck k.qp k.psn) ∧
       (k.op = 6 → ∃ t, exec (.rocePacketReceive p k) s = .next t ∧ t = u.roceAck k.qp ((k.psn + 2 ^ 24 - 1) % 2 ^ 24)) ∧
       (k.op = 5 → k.code = 0 → ∃ t, exec (.rocePacketReceive p k) s = .next t ∧ t = (u.roceAck k.qp ((k.psn + 2 ^ 24 - 1) % 2 ^ 24)).roceRetry k.qp) ∧
       (k.op = 5 → k.code ≠ 0 → ∃ t, exec (.rocePacketReceive p k) s = .next t ∧ t = u.qpFail k.qp) ∧
       (k.op ≤ 2 → k.psn = x.ePsn → ∃ t, exec (.rocePacketReceive p k) s = .next t ∧ t = u.roceRequest k.qp x k) ∧
       (k.op ≤ 2 → k.psn ≠ x.ePsn → psnAfter k.psn x.ePsn = true → x.nak = false → ∃ t, exec (.rocePacketReceive p k) s = .next t ∧
         t = (u.setQp k.qp (some { x with nak := true })).roceOut x "roce nak" [x.ePsn, 0])))) ∧
  (∀ (p : Fin 2) (k : RocePkt) (s : State), s.dark = false → s.ethFlush.qp k.qp = none ∨
    (∃ x, s.ethFlush.qp k.qp = some x ∧ (x.sub / 4 ≠ p.val ∨ s.ethFlush.ethUp p (x.sub % 4) = false)) →
    ∃ t, exec (.rocePacketReceive p k) s = .next t ∧ t = s.ethFlush) ∧
  (∀ (q : Fin 64) (s : State) (x : EthQp), s.dark = false →
    (let u := s.ethFlush
     u.qp q = some x → x.error = false → x.msgs ≠ [] →
     (x.retries < u.get F.ETH_RETRY.RETRY → ∃ t, exec (.roceRetryTimeout q) s = .next t ∧ t = (u.setQp q (some { x with retries := x.retries + 1 })).roceAgain q) ∧
     (u.get F.ETH_RETRY.RETRY ≤ x.retries → ∃ t, exec (.roceRetryTimeout q) s = .next t ∧ t = u.qpFail q) ∧
     (u.get F.ETH_RETRY.RNR = 7 ∨ x.rnr < u.get F.ETH_RETRY.RNR → ∃ t, exec (.roceRnrTimeout q) s = .next t ∧
       t = (u.setQp q (some { x with rnr := x.rnr + 1 })).roceAgain q) ∧
     (u.get F.ETH_RETRY.RNR ≠ 7 → u.get F.ETH_RETRY.RNR ≤ x.rnr → ∃ t, exec (.roceRnrTimeout q) s = .next t ∧ t = u.qpFail q))) ∧
  (∀ (q : Fin 64) (s : State), s.dark = false → s.ethFlush.qp q = none ∨ (∃ x, s.ethFlush.qp q = some x ∧ x.msgs = []) →
    exec (.roceRetryTimeout q) s = .next s.ethFlush ∧ exec (.roceRnrTimeout q) s = .next s.ethFlush) ∧
  (∀ (v : Word) (src : Nat) (s u : State), Reaches s R.ETH_QP_SEL u →
    (let w := u.plainWrite src R.ETH_QP_SEL (v ||| 0x80000000)
     ∃ t, exec (.qpKill v src) s = .next t ∧ t = w.ethFlush.qpKill (w.get F.ETH_QP_SEL.QP) ∧ t.qp (w.get F.ETH_QP_SEL.QP) = none ∧ t.ccpQ (w.get F.ETH_QP_SEL.QP) = none))

/-- Each command first lets packets leave whose pause has ended. MGMT_DISCOVER sends the reply with status 0 and the
device's identity, addresses, state, CCP version and free queue pairs. MGMT_CONNECT repeats the reply that is kept for
its source and SEQ; else outside operation or with connects disabled it replies 4, for a body that fails a step it
replies with that step's status, and for one that opens a queue pair it replies 0 with the pair's number, first PSN,
MTU and version; each such reply is kept. CONNECT_REPLY_EXPIRE forgets the kept replies of that source and SEQ.
MGMT_DISCONNECT replies 4 outside operation, 1 to a bad body, 5 where the requester holds no such queue pair, and else
kills it and replies 0. MGMT_RECOVER replies 4 outside recovery, 1 to a bad body or action, 5 to another serial, and
else 0 before its action: network boot, a slot, or the boot sequence with no trial. (R392, R393, R394, R509, Table
16.6, Table 16.9) -/
def Obligations.ManagementMessages : Prop :=
  (∀ (r : MgmtReq) (s : State), s.dark = false →
    (let u := s.ethFlush
     ∃ t, exec (.mgmtDiscover r) s = .next t ∧ t = u.mgmtReply r 1 0 [u.get F.SYS_ID.ID, (u.reg R.SYS_REV).toNat, u.sec.serial,
       u.addr (R.ETH_MAC_LO 0) (R.ETH_MAC_HI 0), u.addr (R.ETH_MAC_LO 1) (R.ETH_MAC_HI 1), u.get (F.ETH_SP_IP.ADDR 0 0), u.get (F.ETH_SP_IP.ADDR 1 0),
       u.boot.phase, 0x0203, 64 - u.eth.qps.length])) ∧
  (∀ (r : MgmtReq) (b : List Byte) (s : State), s.dark = false →
    (let u := s.ethFlush
     let kept := u.eth.replies.find? (fun k => k.ip == r.ip && k.port == r.port && k.seq == r.seq)
     let reply := fun (a : State) (status : Nat) (body : List Byte) =>
       ({ a with eth := { a.eth with replies := a.eth.replies ++ [KeptReply.mk r.ip r.port r.seq status body] } } : State).mgmtReply r 2 status (body.map BitVec.toNat)
     (∀ k, kept = some k → ∃ t, exec (.mgmtConnect r b) s = .next t ∧ t = u.mgmtReply r 2 k.status (k.body.map BitVec.toNat)) ∧
     (kept = none → u.boot.phase ≠ 2 ∨ u.on F.ETH_MGMT.CONNECT_EN = false → ∃ t, exec (.mgmtConnect r b) s = .next t ∧ t = reply u 4 []) ∧
     (∀ e w, kept = none → u.boot.phase = 2 → u.on F.ETH_MGMT.CONNECT_EN = true → u.openQp r.sub r.ip b true 0 = (.error e, w) →
       ∃ t, exec (.mgmtConnect r b) s = .next t ∧ t = reply w e []) ∧
     (∀ q psn code ver w, kept = none → u.boot.phase = 2 → u.on F.ETH_MGMT.CONNECT_EN = true → u.openQp r.sub r.ip b true 0 = (.ok (q, psn, code, ver), w) →
       ∃ t, exec (.mgmtConnect r b) s = .next t ∧ t = reply w 0 (leBytes 4 q ++ leBytes 4 psn ++ leBytes 2 (mtuBytes code) ++ leBytes 2 ver ++ zeros 4)))) ∧
  (∀ (ip seq : Word) (port : Half) (s : State), s.dark = false → ∃ t, exec (.connectReplyExpire ip port seq) s = .next t ∧
    t = { s with eth := { s.eth with replies := s.eth.replies.filter (fun k => !(k.ip == ip.toNat && k.port == port.toNat && k.seq == seq.toNat)) } }) ∧
  (∀ (r : MgmtReq) (b : List Byte) (s : State), s.dark = false →
    (let u := s.ethFlush
     (u.boot.phase ≠ 2 → ∃ t, exec (.mgmtDisconnect r b) s = .next t ∧ t = u.mgmtReply r 3 4 []) ∧
     (u.boot.phase = 2 → b.length ≠ 4 → ∃ t, exec (.mgmtDisconnect r b) s = .next t ∧ t = u.mgmtReply r 3 1 []) ∧
     (u.boot.phase = 2 → b.length = 4 → u.qp (field b 0 4) = none → ∃ t, exec (.mgmtDisconnect r b) s = .next t ∧ t = u.mgmtReply r 3 5 []) ∧
     (∀ x, u.boot.phase = 2 → b.length = 4 → u.qp (field b 0 4) = some x →
       (x.ip ≠ r.ip → ∃ t, exec (.mgmtDisconnect r b) s = .next t ∧ t = u.mgmtReply r 3 5 []) ∧
       (x.ip = r.ip → ∃ t, exec (.mgmtDisconnect r b) s = .next t ∧ t = (u.qpKill (field b 0 4)).mgmtReply r 3 0 [])))) ∧
  (∀ (r : MgmtReq) (b : List Byte) (s : State), s.dark = false →
    (let u := s.ethFlush
     let w := u.mgmtReply r 0x20 0 []
     (u.boot.phase ≠ 1 → ∃ t, exec (.mgmtRecover r b) s = .next t ∧ t = u.mgmtReply r 0x20 4 []) ∧
     (u.boot.phase = 1 → b.length ≠ 64 ∨ 3 < field b 0 1 → ∃ t, exec (.mgmtRecover r b) s = .next t ∧ t = u.mgmtReply r 0x20 1 []) ∧
     (u.boot.phase = 1 → b.length = 64 → field b 0 1 ≤ 3 → field b 4 16 ≠ u.sec.serial → ∃ t, exec (.mgmtRecover r b) s = .next t ∧ t = u.mgmtReply r 0x20 5 []) ∧
     (u.boot.phase = 1 → b.length = 64 → field b 4 16 = u.sec.serial →
       (field b 0 1 = 0 → ∃ t, exec (.mgmtRecover r b) s = .next t ∧ t = w.startNetBoot 1) ∧
       (field b 0 1 = 1 ∨ field b 0 1 = 2 → ∃ t, exec (.mgmtRecover r b) s = .next t ∧ t = (w.trySlots 2 [field b 0 1 - 1]).1.getD (w.trySlots 2 [field b 0 1 - 1]).2) ∧
       (field b 0 1 = 3 → ∃ t, exec (.mgmtRecover r b) s = .next t ∧ t = ({ w with sec := { w.sec with trial := 3, attempts := 0 } } : State).bootFlash))))

/-- Each command first lets packets leave whose pause has ended. BOOT_SOLICIT while no offer is accepted and ETH0 is up
sends the solicitation with the device's identity to everyone. BOOT_OFFER of 32 bytes on sub-port 0, before one is
accepted, takes the addresses, the server and the length, and sends the first read. BOOT_DATA of the outstanding
offset and 1 to 1,024 bytes places them and sends the next read, or, once the image is whole, verifies it and runs it
or enters recovery. BOOT_READ_TIMEOUT of an accepted offer sends the same read with one more try counted, or at the
eighth forgets the addresses and the offer and solicits again. Where no network boot runs, or its condition does not
hold, nothing else happens, and on another sub-port nothing at all. (R395, Table 16.9) -/
def Obligations.NetworkBoot : Prop :=
  (∀ (s : State) (n : NetBoot), s.dark = false →
    (let u := s.ethFlush
     u.boot.net = some n →
     (n.offered = false → u.ethUp 0 0 = true → ∃ t, exec .bootSolicit s = .next t ∧
       t = u.ipSend 0 8 broadcastIp "boot solicit" [u.get F.SYS_ID.ID, (u.reg R.SYS_REV).toNat, u.sec.serial, u.subMac 0]) ∧
     (n.offered = true ∨ u.ethUp 0 0 = false → exec .bootSolicit s = .next u) ∧
     (∀ (r : MgmtReq) (b : List Byte), r.sub = 0 → n.offered = false → b.length = 32 → ∃ t, exec (.bootOffer r b) s = .next t ∧
       (let w := u.bootIp (field b 0 4) (field b 4 4) (field b 8 4)
        t = (w.setNet (some { n with offered := true, server := field b 12 4, len := field b 16 4, off := 0, tries := 0 })).bootRead)) ∧
     (∀ (r : MgmtReq) (b : List Byte), r.sub = 0 → n.offered = true ∨ b.length ≠ 32 → exec (.bootOffer r b) s = .next u) ∧
     (∀ (r : MgmtReq) (b : List Byte), r.sub = 0 → n.offered = true → field b 0 4 = n.off → field b 4 4 ≠ 0 → field b 4 4 ≤ 1024 →
       8 + field b 4 4 ≤ b.length → n.off + field b 4 4 ≤ 0x1000000 →
       (let len := field b 4 4
        let w := u.setBytes (bootMem + n.off) ((b.drop 8).take len)
        (n.off + len < n.len → ∃ t, exec (.bootData r b) s = .next t ∧ t = (w.setNet (some { n with off := n.off + len, tries := 0 })).bootRead) ∧
        (∀ x, n.len ≤ n.off + len → (w.setNet none).fwVerify (w.bytes bootMem n.len) n.len = (0, x) →
          ∃ t, exec (.bootData r b) s = .next t ∧ t = x.runFirmware (w.bytes bootMem n.len) 3 x.boot.source) ∧
        (∀ e x, n.len ≤ n.off + len → (w.setNet none).fwVerify (w.bytes bootMem n.len) n.len = (e + 1, x) →
          ∃ t, exec (.bootData r b) s = .next t ∧ t = x.enterRecovery))) ∧
     (∀ (r : MgmtReq) (b : List Byte), r.sub = 0 → n.offered = false ∨ field b 0 4 ≠ n.off → exec (.bootData r b) s = .next u) ∧
     (n.offered = true → n.tries < 7 → ∃ t, exec .bootReadTimeout s = .next t ∧ t = (u.setNet (some { n with tries := n.tries + 1 })).bootRead) ∧
     (n.offered = true → 7 ≤ n.tries → ∃ t, exec .bootReadTimeout s = .next t ∧
       t = ((u.bootIp 0 0 0).setNet (some { n with offered := false, tries := 0 })).bootSolicit) ∧
     (n.offered = false → exec .bootReadTimeout s = .next u))) ∧
  (∀ (s : State) (r : MgmtReq) (b : List Byte), s.dark = false → r.sub = 0 → s.ethFlush.boot.net = none →
    ∀ c ∈ [Instr.bootSolicit, .bootOffer r b, .bootData r b, .bootReadTimeout], exec c s = .next s.ethFlush) ∧
  (∀ (s : State) (r : MgmtReq) (b : List Byte), r.sub ≠ 0 → exec (.bootOffer r b) s = .next s ∧ exec (.bootData r b) s = .next s)

/-- CCP_ENABLE of a store that is down opens it with KEEP clear or set, READY 0; CCP_READY formats the index, or keeps one
that stands where the index area points, with an event where it should have been kept and is not there, and sets
READY. CCP_DISABLE of an open store ends its streams, puts its queue pairs in Error and its local queue's commands
away, and clears READY. A doorbell to an open queue takes its two indices where they are in range with no other bits,
and else posts a severity-3 event. A write of the local queue's index moves its tail and head. SUBMISSION_FETCH of an
open host queue with entries to fetch asks for them and takes those that came as commands in order; COMMAND_COMPLETE
of a decided command of a host queue that owes no data removes it, and its completion is held or sent.
COALESCE_TIMEOUT sends the held completions. Where there is no queue, nothing opening, or nothing to fetch or
complete, they change nothing. (R397, R398, R408, R409, R410, R411, R412) -/
def Obligations.CaptureQueues : Prop :=
  (∀ (v : Word) (src : Nat) (s u : State), Reaches s R.CCP_CTL u → u.on F.CCP_CTL.EN = false →
    (let x := u.plainWrite src R.CCP_CTL ((v ||| 0x80000000) &&& 0xBFFFFFFF)
     x.on F.CCP_CTL.EN = true → ∃ t, exec (.ccpEnableFormat v src) s = .next t ∧
       t = { x.put F.CCP_CTL.READY 0 with ccp := { x.ccp with opening := some (x.on F.CCP_CTL.KEEP) } }) ∧
    (let x := u.plainWrite src R.CCP_CTL (v ||| 0xC0000000)
     x.on F.CCP_CTL.EN = true → ∃ t, exec (.ccpEnableKeep v src) s = .next t ∧
       t = { x.put F.CCP_CTL.READY 0 with ccp := { x.ccp with opening := some (x.on F.CCP_CTL.KEEP) } })) ∧
  (∀ (v : Word) (src : Nat) (s u : State), Reaches s R.CCP_CTL u →
    (let x := u.plainWrite src R.CCP_CTL (v &&& 0x7FFFFFFF)
     (u.on F.CCP_CTL.EN = true → x.on F.CCP_CTL.EN = false → ∃ t, exec (.ccpDisable v src) s = .next t ∧
       (let y := ((List.range 64).foldl (fun a q => if (a.ccpQ q).isSome then a.qpError q else a) x.endStreams).endCommands 64
        t = { y.put F.CCP_CTL.READY 0 with ccp := { y.ccp with opening := none } })) ∧
     (u.on F.CCP_CTL.EN = false → x.on F.CCP_CTL.EN = false → ∃ t, exec (.ccpDisable v src) s = .next t ∧ t = x))) ∧
  (∀ s : State, (s.ccp.opening = none → exec .ccpReady s = .next s) ∧
    (∀ keep, s.dark = false → s.ccp.opening = some keep →
      (let shown := fun (a : State) => (({ a with ccp := { a.ccp with opening := none, home := some a.indexBase } } : State).put F.CCP_CTL.READY 1).ccpShow
       let empty := fun (a : State) => ({ a with ccp := { a.ccp with takes := [], dying := [] } } : State)
       (keep = true → s.ccp.home = some s.indexBase → ∃ t, exec .ccpReady s = .next t ∧ t = shown s) ∧
       (keep = true → s.ccp.home ≠ some s.indexBase → ∃ t, exec .ccpReady s = .next t ∧ t = shown (empty (s.post srcCcp 5 0 0 0))) ∧
       (keep = false → ∃ t, exec .ccpReady s = .next t ∧ t = shown (empty s))))) ∧
  (∀ (q : Fin 64) (b : List Byte) (s : State) (x : CcpQueue), s.dark = false → s.queueLive q = true → s.ccpQ q = some x →
    (b.length = 8 → field b 0 2 < x.sqDepth → field b 2 2 < x.cqDepth → field b 4 4 = 0 → ∃ t, exec (.ccpDoorbell q b) s = .next t ∧
      t = s.setCcpQ q { x with sqTail := field b 0 2, cqHead := field b 2 2, doneIds := x.doneIds.drop ((field b 2 2 + x.cqDepth - x.cqHead) % max x.cqDepth 1) }) ∧
    (b.length ≠ 8 ∨ x.sqDepth ≤ field b 0 2 ∨ x.cqDepth ≤ field b 2 2 ∨ field b 4 4 ≠ 0 → ∃ t, exec (.ccpDoorbell q b) s = .next t ∧ t = s.post srcCcp 3 0 0 0)) ∧
  (∀ (q : Fin 64) (b : List Byte) (s : State), s.queueLive q = false → exec (.ccpDoorbell q b) s = .next s) ∧
  (∀ (widx : Half) (src : Nat) (s u : State), Reaches s R.CCP_LQ_SQ_IDX u →
    (let x := u.plainWrite src R.CCP_LQ_SQ_IDX (widx.setWidth 32)
     (x.ccpQ 64 = none → ∃ t, exec (.localQueueDoorbell widx src) s = .next t ∧ t = x) ∧
     (∀ y, x.ccpQ 64 = some y → ∃ t, exec (.localQueueDoorbell widx src) s = .next t ∧
       t = x.ccpRing 64 (x.get F.CCP_LQ_SQ_IDX.WIDX % max y.sqDepth 1) (x.get F.CCP_LQ_CQ_IDX.RIDX % max y.cqDepth 1)))) ∧
  (∀ (q : Fin 65) (l : List (List Byte)) (s : State) (x : CcpQueue), s.dark = false → s.ccpQ q = some x → s.queueLive q = true → q.val ≠ 64 → s.fetchable q x ≠ 0 →
    (let n := s.fetchable q x
     let w := s.rocePost q ⟨s.ccp.order, 2, 0, 0, x.sqAddr + 64 * x.sqHead, x.sqKey, 64 * n, []⟩
     ∃ t, exec (.submissionFetch q l) s = .next t ∧
       t = (w.setCcpQ q { x with sqHead := (x.sqHead + (l.take n).length) % x.sqDepth }).takeEntries q x (l.take n))) ∧
  (∀ (q : Fin 65) (l : List (List Byte)) (s : State), s.queueLive q = false ∨ s.ccpQ q = none ∨ (∃ x, s.ccpQ q = some x ∧ s.fetchable q x = 0) →
    exec (.submissionFetch q l) s = .next s) ∧
  (∀ (q : Fin 65) (cid : Half) (s : State) (x : CcpQueue) (c : CcpCmd) (st r : Nat), s.dark = false → s.ccpQ q = some x → q.val ≠ 64 → s.queueLive q = true →
    s.ccp.cmds.find? (fun c => c.q == q.val && c.cid == cid.toNat && c.done.isSome) = some c → c.done = some (st, r) →
    (s.qp q).any (fun p => (p.msgs ++ p.waiting).any (fun m => m.user == c.stamp)) = false → c.opc ≠ 0x85 →
    (let w := ({ s with ccp := { s.ccp with cmds := s.ccp.cmds.filter (fun y => y.stamp != c.stamp) } } : State).setCcpQ q
       { x with held := x.held ++ [completion c.cid st x.sqHead x.phase r], doneIds := x.doneIds ++ [c.cid] }
     (x.coHold ≠ 0 → x.held.length + 1 < x.coMax → ∃ t, exec (.commandComplete q cid) s = .next t ∧ t = w.sweepRuns) ∧
     (x.coHold = 0 ∨ x.coMax ≤ x.held.length + 1 → ∃ t, exec (.commandComplete q cid) s = .next t ∧ t = (w.flushHeld q 3).sweepRuns))) ∧
  (∀ (q : Fin 65) (cid : Half) (s : State), s.ccp.cmds.find? (fun c => c.q == q.val && c.cid == cid.toNat && c.done.isSome) = none → exec (.commandComplete q cid) s = .next s) ∧
  (∀ (q : Fin 65) (s : State), s.dark = false → ∃ t, exec (.coalesceTimeout q) s = .next t ∧ t = s.flushHeld q 3)

/-- A command that its queue performs ends with a status. CREATE_TAKE: 5 on a take not Free, 4 without runs enough, else
the take is Open with its name, reserve and time. CLOSE_TAKE: 5 unless Open and in no stream, else Closed.
DELETE_TAKE: 5 on a Free or recorded take, else Free, its runs kept until earlier commands on it end. TAKE_INFO,
GET_FRAMES, MAP: 5 on a Free take; MAP 3 beyond LENGTH; GET_FRAMES and MAP 2 where HLEN is short; else the answer goes
to the host. READ waits for blocks that an earlier WRITE has yet to stage or write; then 5 on a Free take, 3 beyond
LENGTH, else the blocks go out, 0 beyond LENGTH. WRITE: 5 unless Open, 3 where it leaves a gap, else its next blocks
are staged and, unless they stay or must let an earlier command go first, written, the runs allocated first (4 without
runs); a staged parity error ends it with 6; at the last block LENGTH grows and it ends with 0. ABORT of an earlier
undecided command ends that with 8 and itself with result 0; else its result says whether the command had ended (1) or
is not known (2). (R399, R400, R401, R414, R415, R416, R417, R420, R421) -/
def Obligations.CaptureTakes : Prop :=
  (∀ (q : Fin 65) (cid : Half) (s : State) (c : CcpCmd), Performs s q cid.toNat 0x03 c →
    ((s.take c.takeNo).state ≠ 0 → ∃ t, exec (.createTake q cid) s = .next t ∧ t = s.finish c 5 0) ∧
    ((s.take c.takeNo).state = 0 → s.freeRuns.length < c.f 0x38 4 → ∃ t, exec (.createTake q cid) s = .next t ∧ t = s.finish c 4 0) ∧
    (∀ u w, (s.take c.takeNo).state = 0 → c.f 0x38 4 ≤ s.freeRuns.length → s.touchIndex = (.ok u, w) → ∃ t, exec (.createTake q cid) s = .next t ∧
      t = (w.setTake c.takeNo { freeTake with state := 1, name := (c.sub.drop 0x20).take 24, spare := s.freeRuns.take (c.f 0x38 4), created := w.time.sec.toNat % 2 ^ 32 }).finish c 0 c.takeNo)) ∧
  (∀ (q : Fin 65) (cid : Half) (s : State) (c : CcpCmd), Performs s q cid.toNat 0x04 c →
    ((s.take c.takeNo).state ≠ 1 ∨ (s.takeStream c.takeNo).isSome = true → ∃ t, exec (.closeTake q cid) s = .next t ∧ t = s.finish c 5 0) ∧
    (∀ u w, (s.take c.takeNo).state = 1 → s.takeStream c.takeNo = none → s.touchIndex = (.ok u, w) → ∃ t, exec (.closeTake q cid) s = .next t ∧
      t = (w.setTake c.takeNo { s.take c.takeNo with state := 2 }).finish c 0 0)) ∧
  (∀ (q : Fin 65) (cid : Half) (s : State) (c : CcpCmd), Performs s q cid.toNat 0x05 c →
    (let x := s.take c.takeNo
     (x.state = 0 ∨ (s.takeStream c.takeNo).isSome = true → ∃ t, exec (.deleteTake q cid) s = .next t ∧ t = s.finish c 5 0) ∧
     (∀ u w, x.state ≠ 0 → s.takeStream c.takeNo = none → s.touchIndex = (.ok u, w) → ∃ t, exec (.deleteTake q cid) s = .next t ∧
       t = (({ w with ccp := { w.ccp with dying := w.ccp.dying ++ [(x.runs ++ x.spare ++ x.eruns, c.takeNo, c.stamp)] } } : State).setTake c.takeNo freeTake).finish c 0 0))) ∧
  (∀ (q : Fin 65) (cid : Half) (s : State) (c : CcpCmd), Performs s q cid.toNat 0x06 c →
    (let x := s.take c.takeNo
     let b := padTo 24 x.name ++ leBytes 1 x.state ++ leBytes 1 ((s.takeStream c.takeNo).getD 0xFF) ++ zeros 2 ++
       leBytes 4 (x.runs.length + x.spare.length + x.eruns.length) ++ leBytes 8 x.length ++ leBytes 8 x.entries.length ++ leBytes 4 x.bad ++ leBytes 4 x.created ++ zeros 4
     (x.state = 0 → ∃ t, exec (.takeInfo q cid) s = .next t ∧ t = s.finish c 5 0) ∧
     (x.state ≠ 0 → ∃ t, exec (.takeInfo q cid) s = .next t ∧ t = s.answerHost c (b ++ leBytes 4 (crc32c b)) 0))) ∧
  (∀ (q : Fin 65) (cid : Half) (s : State) (c : CcpCmd), Performs s q cid.toNat 0x08 c →
    (let x := s.take c.takeNo
     let l := (x.entries.drop c.offset).take c.nblk
     (x.state = 0 → ∃ t, exec (.getFrames q cid) s = .next t ∧ t = s.finish c 5 0) ∧
     (x.state ≠ 0 → c.hlen < 32 * l.length → ∃ t, exec (.getFrames q cid) s = .next t ∧ t = s.finish c 2 0) ∧
     (x.state ≠ 0 → 32 * l.length ≤ c.hlen → ∃ t, exec (.getFrames q cid) s = .next t ∧ t = s.answerHost c (l.flatMap id) l.length))) ∧
  (∀ (q : Fin 65) (cid : Half) (s : State) (c : CcpCmd), Performs s q cid.toNat 0x0B c →
    (let x := s.take c.takeNo
     let l := (x.runs.drop (c.offset / 512)).take ((c.offset + c.nblk - 1) / 512 + 1 - c.offset / 512)
     (x.state = 0 → ∃ t, exec (.ccpMap q cid) s = .next t ∧ t = s.finish c 5 0) ∧
     (x.state ≠ 0 → (x.length + 4095) / 4096 ≤ c.offset + c.nblk - 1 → ∃ t, exec (.ccpMap q cid) s = .next t ∧ t = s.finish c 3 0) ∧
     (x.state ≠ 0 → c.offset + c.nblk - 1 < (x.length + 4095) / 4096 →
       (c.hlen < 8 * l.length → ∃ t, exec (.ccpMap q cid) s = .next t ∧ t = s.finish c 2 0) ∧
       (8 * l.length ≤ c.hlen → ∃ t, exec (.ccpMap q cid) s = .next t ∧
         t = s.answerHost c (l.flatMap (fun r => leBytes 8 (s.addr R.CCP_RWIN_LO R.CCP_RWIN_HI + 2097152 * r))) l.length)))) ∧
  (∀ (q : Fin 65) (cid : Half) (s : State) (c : CcpCmd), Performs s q cid.toNat 0x01 c →
    (let x := s.take c.takeNo
     let blocks := (x.length + 4095) / 4096
     (s.readWaits c blocks = true → exec (.ccpRead q cid) s = .next s) ∧
     (s.readWaits c blocks = false → x.state = 0 → ∃ t, exec (.ccpRead q cid) s = .next t ∧ t = s.finish c 5 0) ∧
     (s.readWaits c blocks = false → x.state ≠ 0 → blocks ≤ c.offset + c.nblk - 1 → ∃ t, exec (.ccpRead q cid) s = .next t ∧ t = s.finish c 3 0) ∧
     (∀ b w, s.readWaits c blocks = false → x.state ≠ 0 → c.offset + c.nblk - 1 < blocks → s.readBlocks c x c.offset c.nblk = (.ok b, w) →
       ∃ t, exec (.ccpRead q cid) s = .next t ∧ t = w.answerHost c (padTo (4096 * c.nblk) (b.take (x.length - 4096 * c.offset))) c.nblk) ∧
     (∀ e w, s.readWaits c blocks = false → x.state ≠ 0 → c.offset + c.nblk - 1 < blocks → s.readBlocks c x c.offset c.nblk = (.error e, w) →
       ∃ t, exec (.ccpRead q cid) s = .next t ∧ t = w.cmdError c e))) ∧
  (∀ (q : Fin 65) (cid : Half) (data : List Byte) (bad : Option Nat) (stay : Bool) (s : State) (c : CcpCmd), Performs s q cid.toNat 0x02 c →
    (let x := s.take c.takeNo
     let run := Instr.ccpWrite q cid data (bad, stay)
     (s.heldBack c = false → x.state ≠ 1 → ∃ t, exec run s = .next t ∧ t = s.finish c 5 0) ∧
     (s.heldBack c = false → x.state = 1 → (x.length + 4095) / 4096 < c.offset → ∃ t, exec run s = .next t ∧ t = s.finish c 3 0) ∧
     (∀ d w, s.heldBack c = true → s.stageBlocks c data = (.ok d, w) → ∃ t, exec run s = .next t ∧ t = w.setCmd d) ∧
     (∀ d w, s.heldBack c = false → x.state = 1 → c.offset ≤ (x.length + 4095) / 4096 → s.stageBlocks c data = (.ok d, w) →
       (stay = true → ∃ t, exec run s = .next t ∧ t = w.setCmd d) ∧
       (stay = false → w.moreRuns x ((d.offset + d.nblk + 511) / 512 - x.runs.length) = none → ∃ t, exec run s = .next t ∧ t = w.finish d 4 0) ∧
       (∀ l y, stay = false → w.moreRuns x ((d.offset + d.nblk + 511) / 512 - x.runs.length) = some (l, y) →
         (let y := { y with runs := y.runs ++ l }
          let v := w.setTake d.takeNo y
          (∀ e z, v.writeBlocks d y bad d.staged = ((e, some none), z) → ∃ t, exec run s = .next t ∧ t = z.finish e 6 e.moved) ∧
          (∀ e z, v.writeBlocks d y bad d.staged = ((e, none), z) → e.moved < e.nblk → ∃ t, exec run s = .next t ∧ t = z.setCmd e) ∧
          (∀ e z u a, v.writeBlocks d y bad d.staged = ((e, none), z) → e.nblk ≤ e.moved → z.touchIndex = (.ok u, a) → ∃ t, exec run s = .next t ∧
            t = (a.setTake e.takeNo { a.take e.takeNo with length := max (a.take e.takeNo).length ((e.offset + e.nblk) * 4096) }).finish e 0 e.nblk)))))) ∧
  (∀ (q : Fin 65) (cid : Half) (s : State) (c : CcpCmd), Performs s q cid.toNat 0x07 c →
    (let n := c.f 0x20 2
     let k := if c.f 0x22 2 = 0xFFFF then c.q else c.f 0x22 2
     let hit := s.ccp.cmds.find? (fun e => e.q == k && e.cid == n && decide (e.stamp < c.stamp) && e.done.isNone)
     (∀ e, hit = some e → ∃ t, exec (.ccpAbort q cid) s = .next t ∧ t = ((if e.susp then s.withdrawFault 40 else s).finish e 8 0).finish c 0 0) ∧
     (hit = none → ∃ t, exec (.ccpAbort q cid) s = .next t ∧
       t = s.finish c 0 (if s.ccp.cmds.any (fun e => e.q == k && e.cid == n && decide (e.stamp < c.stamp)) || (s.ccpQ k).any (fun x => x.doneIds.contains n) then 1 else 2))))

/-- A command that its queue performs ends with a status. IDENTIFY sends its page; GET_LOG sends the page its LOG names,
cut to HLEN, and 2 for no such page. GET_FEATURE and SET_FEATURE act on time (read only), coalescing (from version
2.3, within its limits) and CONNECT_EN, and end with 2 on others. FW_DOWNLOAD puts the host's bytes at the staging
area. FW_COMMIT of ACTION 0, 1 or 3 ends with 0xA and result 0x0A for the slot that is running, and with the
verification's code where the image fails; a slot that does not program is marked invalid with result 9; else the slot
holds the image and is valid, and but for ACTION 0 is on trial. ACTION 2 confirms. REG_READ answers the registers of
its range, REG_WRITE writes them. CREATE_QP opens a queue pair on its queue's sub-port, and ends with 2 on the local
queue or where it cannot; DELETE_QP frees one, and ends with 2 on its own or one not open. (R407, R424, R425, R426,
R427, R428, R506, R507, Table 17.11, Table 17.13) -/
def Obligations.CaptureAdministration : Prop :=
  (∀ (q : Fin 65) (cid : Half) (s : State) (c : CcpCmd), Performs s q cid.toNat 0x80 c → ∃ t, exec (.identify q cid) s = .next t ∧
    t = s.answerHost c (padTo 4096 (leBytes 4 (s.get F.SYS_ID.ID) ++ leBytes 4 (s.reg R.SYS_REV).toNat ++ leBytes 16 s.sec.serial ++ leBytes 8 s.boot.version ++
      leBytes 2 0x00FF ++ leBytes 2 (((s.ccpQ c.q).map (·.ver)).getD 0) ++ leBytes 2 64 ++ leBytes 2 4096 ++ leBytes 4 8192 ++
      leBytes 4 (s.get F.CCP_STORE_BLKS.BLKS) ++ leBytes 4 (s.get F.CCP_FREE.RUNS) ++ leBytes 2 (s.get F.CCP_STAT.TAKES) ++ leBytes 1 16)) 0) ∧
  (∀ (q : Fin 65) (cid : Half) (s : State) (c : CcpCmd), Performs s q cid.toNat 0x81 c →
    (c.f 0x20 1 = 1 → ∃ t, exec (.getLog q cid) s = .next t ∧
      t = s.answerHost c ((padTo 64 (leBytes 4 (s.reg R.CCP_ERR).toNat ++ (List.range 16).flatMap (fun k => leBytes 2 (s.get (F.CCP_STR_STAT.BAD k))))).take c.hlen) 0) ∧
    (c.f 0x20 1 = 2 → ∃ t, exec (.getLog q cid) s = .next t ∧ t = s.answerHost c (((List.range 1024).map (fun k => BitVec.ofNat 8 (s.take k).state)).take c.hlen) 0) ∧
    (c.f 0x20 1 = 3 → ∃ t, exec (.getLog q cid) s = .next t ∧ t = s.answerHost c (s.snapshotLog.take c.hlen) 0) ∧
    (c.f 0x20 1 = 0 ∨ 3 < c.f 0x20 1 → ∃ t, exec (.getLog q cid) s = .next t ∧ t = s.finish c 2 0)) ∧
  (∀ (q : Fin 65) (cid : Half) (s : State) (c : CcpCmd) (x : CcpQueue), Performs s q cid.toNat 0x82 c → s.ccpQ c.q = some x →
    (c.f 0x20 1 = 1 → ∃ t, exec (.getFeature q cid) s = .next t ∧ t = s.finish c 0 s.now.toNat) ∧
    (c.f 0x20 1 = 2 → ∃ t, exec (.getFeature q cid) s = .next t ∧ t = if x.ver < 0x203 then s.finish c 2 0 else s.finish c 0 (x.coMax + 65536 * x.coHold)) ∧
    (c.f 0x20 1 = 3 → ∃ t, exec (.getFeature q cid) s = .next t ∧ t = s.finish c 0 (s.get F.ETH_MGMT.CONNECT_EN)) ∧
    (c.f 0x20 1 = 0 ∨ 3 < c.f 0x20 1 → ∃ t, exec (.getFeature q cid) s = .next t ∧ t = s.finish c 2 0)) ∧
  (∀ (q : Fin 65) (cid : Half) (s : State) (c : CcpCmd) (x : CcpQueue), Performs s q cid.toNat 0x83 c → s.ccpQ c.q = some x →
    (let v := c.f 0x28 8
     (c.f 0x20 1 = 2 → x.ver < 0x203 ∨ v % 65536 = 0 ∨ 64 < v % 65536 ∨ 1000 < v / 65536 → ∃ t, exec (.setFeature q cid) s = .next t ∧ t = s.finish c 2 0) ∧
     (c.f 0x20 1 = 2 → 0x203 ≤ x.ver → 1 ≤ v % 65536 → v % 65536 ≤ 64 → v / 65536 ≤ 1000 → ∃ t, exec (.setFeature q cid) s = .next t ∧
       t = (s.setCcpQ c.q { x with coMax := v % 65536, coHold := v / 65536 }).finish c 0 0) ∧
     (c.f 0x20 1 = 3 → ∃ t, exec (.setFeature q cid) s = .next t ∧ t = if 1 < v then s.finish c 2 0 else (s.put F.ETH_MGMT.CONNECT_EN v).finish c 0 0) ∧
     (c.f 0x20 1 ≤ 1 ∨ 3 < c.f 0x20 1 → ∃ t, exec (.setFeature q cid) s = .next t ∧ t = s.finish c 2 0))) ∧
  (∀ (q : Fin 65) (cid : Half) (data : List Byte) (s : State) (c : CcpCmd), Performs s q cid.toNat 0x84 c →
    (∀ e w, s.hostRead c 0 c.hlen data = (.error e, w) → ∃ t, exec (.fwDownload q cid data) s = .next t ∧ t = w.cmdError c e) ∧
    (∀ b w u v, s.hostRead c 0 c.hlen data = (.ok b, w) → w.physPut (ccpReq true none) (pieces (c.hlen / 64 + 2) (w.stageBase + c.f 0x20 4) c.hlen) b = (.ok u, v) →
      ∃ t, exec (.fwDownload q cid data) s = .next t ∧ t = v.finish c 0 0)) ∧
  (∀ (q : Fin 65) (cid : Half) (program : Bool) (s : State) (c : CcpCmd) (r : Instr), Performs s q cid.toNat 0x85 c →
    (r = .fwCommitWrite q cid program ∧ c.f 0x21 1 = 0) ∨ (r = .fwCommitTry q cid program ∧ c.f 0x21 1 = 1) ∨ (r = .fwCommitTryReset q cid program ∧ c.f 0x21 1 = 3) →
    (let k := c.f 0x20 1
     (k = s.boot.booted → ∃ t, exec r s = .next t ∧ t = s.finish c 0xA 0x0A) ∧
     (∀ e w, k ≠ s.boot.booted → s.stagedImage = (.error e, w) → ∃ t, exec r s = .next t ∧ t = w.cmdError c e) ∧
     (∀ img w v n, k ≠ s.boot.booted → s.stagedImage = (.ok img, w) → w.fwVerify img 16777216 = (n + 1, v) → ∃ t, exec r s = .next t ∧ t = v.finish c 0xA (n + 1)) ∧
     (∀ img w v, k ≠ s.boot.booted → s.stagedImage = (.ok img, w) → w.fwVerify img 16777216 = (0, v) →
       (program = false → ∃ t, exec r s = .next t ∧ t = ({ v with sec := { v.sec with invalid := v.sec.invalid ||| 2 ^ k } } : State).finish c 0xA 0x09) ∧
       (program = true → ∃ t, exec r s = .next t ∧
         (let y := v.writeSlot k (img.take (field img 8 4))
          let z : State := { y with sec := { y.sec with invalid := y.sec.invalid - (if y.sec.invalid.testBit k then 2 ^ k else 0) } }
          t = (if c.f 0x21 1 = 0 then z else { z with sec := { z.sec with trial := k, attempts := 0 } }).finish c 0 0))))) ∧
  (∀ (q : Fin 65) (cid : Half) (s : State) (c : CcpCmd), Performs s q cid.toNat 0x85 c → c.f 0x21 1 = 2 →
    ∃ t, exec (.fwCommitConfirm q cid) s = .next t ∧ t = s.confirm.finish c 0 0) ∧
  (∀ (q : Fin 65) (cid : Half) (s w : State) (c : CcpCmd) (b : List Byte), Performs s q cid.toNat 0x86 c → s.busReads srcCcp (c.f 0x20 4) (c.f 0x24 2) = (b, w) →
    ∃ t, exec (.regRead q cid) s = .next t ∧ t = w.answerHost c b 0) ∧
  (∀ (q : Fin 65) (cid : Half) (data b : List Byte) (s w : State) (c : CcpCmd), Performs s q cid.toNat 0x87 c → s.hostRead c 0 (4 * c.f 0x24 2) data = (.ok b, w) →
    ∃ t, exec (.regWrite q cid data) s = .next t ∧ t = (w.busWrites srcCcp (c.f 0x20 4) (chunks 4 (padTo (4 * c.f 0x24 2) b))).finish c 0 0) ∧
  (∀ (q : Fin 65) (cid : Half) (data : List Byte) (s : State) (c : CcpCmd), Performs s q cid.toNat 0x88 c →
    (s.qp c.q = none → ∃ t, exec (.createQp q cid data) s = .next t ∧ t = s.finish c 2 0) ∧
    (∀ x b w e v, s.qp c.q = some x → s.hostRead c 0 64 data = (.ok b, w) → w.openQp x.sub x.ip b false 1 = (.error e, v) → ∃ t, exec (.createQp q cid data) s = .next t ∧ t = v.finish c 2 0) ∧
    (∀ x b w k psn mtu ver v, s.qp c.q = some x → s.hostRead c 0 64 data = (.ok b, w) → w.openQp x.sub x.ip b false 1 = (.ok (k, psn, mtu, ver), v) →
      ∃ t, exec (.createQp q cid data) s = .next t ∧ t = v.finish c 0 (k + 256 * psn + 2 ^ 32 * mtu))) ∧
  (∀ (q : Fin 65) (cid : Half) (s : State) (c : CcpCmd), Performs s q cid.toNat 0x89 c →
    (c.f 0x20 1 = c.q ∨ s.qp (c.f 0x20 1) = none → ∃ t, exec (.deleteQp q cid) s = .next t ∧ t = s.finish c 2 0) ∧
    (∀ x, c.f 0x20 1 ≠ c.q → s.qp (c.f 0x20 1) = some x → ∃ t, exec (.deleteQp q cid) s = .next t ∧ t = (s.qpKill (c.f 0x20 1)).finish c 0 0))

/-- START_STREAM with a descriptor that fails a check ends with the check's status; one that passes makes the stream run,
STATE 1, its take and frame count shown, and its source recorded. STOP_STREAM of a stream with a frame in progress
drops the frames that wait and leaves STATE 2 until that frame's entry is written; of one without it ends the stream
at once, and of none it ends with 0. STREAM_FRAME_APPEND of a running stream without a frame in progress takes the
next frame that its source offers with its data staged, or with the flag that says why it has none, with a codec
context's read pointer moved past it; of any other stream it changes nothing. STREAM_FRAME_ENTRY of a stream with a
frame staged allocates the runs for data and entry first, marks the frame BAD where there are none, and writes the
data and then the entry, marking it BAD where a write fails; with no frame staged it changes nothing. (R402, R403,
R404, R405, R406) -/
def Obligations.CaptureStreams : Prop :=
  (∀ (q : Fin 65) (cid : Half) (data b : List Byte) (s w : State) (c : CcpCmd), Performs s q cid.toNat 0x09 c → s.hostRead c 0 64 data = (.ok b, w) →
    (let k := c.f 0x20 1
     let x : StreamRun := ⟨field b 8 2, b, [], none, 0, []⟩
     (∀ st, w.streamCheck k x = some st → ∃ t, exec (.startStream q cid data) s = .next t ∧ t = w.finish c st 0) ∧
     (w.streamCheck k x = none → ∃ t, exec (.startStream q cid data) s = .next t ∧
       (let v := ((((w.setStream k (some x)).put (F.CCP_STR_STAT.STATE k) 1).put (F.CCP_STR_STAT.TAKE k) x.take).put (F.CCP_STR_FRAMES.FRAMES k) 0).setBit F.CCP_STAT.STREAMS k true
        t = (if x.kind = 3 then v.setStr x.src { v.strS x.src with recorded := true, sets := [], done := [] } else v).finish c 0 0)))) ∧
  (∀ (q : Fin 65) (cid : Half) (s : State) (c : CcpCmd), Performs s q cid.toNat 0x0A c →
    (let k := c.f 0x20 1
     (s.stream k = none → ∃ t, exec (.stopStream q cid) s = .next t ∧ t = s.finish c 0 0) ∧
     (∀ x, s.stream k = some x →
       (let w := s.setStream k (some { x with inbox := [], stops := x.stops ++ [c.stamp] })
        (x.cur.isSome = true → ∃ t, exec (.stopStream q cid) s = .next t ∧ t = w.put (F.CCP_STR_STAT.STATE k) 2) ∧
        (x.cur = none → ∃ t, exec (.stopStream q cid) s = .next t ∧ t = w.endStream k))))) ∧
  (∀ (k : Fin 16) (s w v : State) (x : StreamRun) (i : FeedItem), s.dark = false → s.stream k = some x → x.cur = none → s.get (F.CCP_STR_STAT.STATE k) = 1 →
    s.nextFrame x = some (i, w) →
    (let kept := fun (d : List Byte) (flags stored : Nat) => v.setStream k (some { x with inbox := x.inbox.drop (if x.kind = 3 then 0 else 1), cur := some ⟨i, d, flags, stored⟩ })
     let staged := fun (d : List Byte) (flags stored : Nat) => if x.kind = 2 ∧ i.bad = false then
       (kept d flags stored).put (F.VCE_CTX_BS_RPTR.OFFSET x.src) ((i.addr + i.len - (v.vceC x.src).d 0x40 8) % max ((v.vceC x.src).d 0x48 4) 1) else kept d flags stored
     (∀ d n, w.streamData x i = (.ok (d, n), v) → ∃ t, exec (.streamFrameAppend k) s = .next t ∧ t = staged d 0 n) ∧
     (∀ f, w.streamData x i = (.error f, v) → ∃ t, exec (.streamFrameAppend k) s = .next t ∧ t = staged [] (1 + 2 ^ f) 0))) ∧
  (∀ (k : Fin 16) (s : State), s.stream k = none ∨ s.get (F.CCP_STR_STAT.STATE k) ≠ 1 ∨ (∃ x, s.stream k = some x ∧ (x.cur.isSome = true ∨ s.nextFrame x = none)) →
    exec (.streamFrameAppend k) s = .next s) ∧
  (∀ (k : Fin 16) (s : State) (x : StreamRun) (f : StagedFrame), s.dark = false → s.stream k = some x → x.cur = some f →
    (let z := s.take x.take
     let off := (z.length + 63) / 64 * 64
     let flags := if f.item.above ∧ f.flags = 0 then 1 + 4 else f.flags
     let needE := z.entries.length / 65536 + 1 - z.eruns.length
     let needD := if flags % 2 = 1 then 0 else (off + f.data.length + 2097151) / 2097152 - z.runs.length
     (s.moreRuns z (needE + needD) = none → ∃ t, exec (.streamFrameEntry k) s = .next t ∧ t = (s.bump F.CCP_ERR.NOSPACE).putEntry k x z f off (flags ||| 3)) ∧
     (∀ l y, s.moreRuns z (needE + needD) = some (l, y) →
       (let r := { y with eruns := y.eruns ++ l.take needE, runs := y.runs ++ l.drop needE }
        let d := if flags % 2 = 1 then [] else zeros (off - r.length) ++ f.data
        (∀ e w, s.writeTake r (d.length / 2097152 + 2) r.length d = (.error e, w) → ∃ t, exec (.streamFrameEntry k) s = .next t ∧ t = w.putEntry k x r f off (flags ||| 33)) ∧
        (∀ u w a v, s.writeTake r (d.length / 2097152 + 2) r.length d = (.ok u, w) → w.touchIndex = (.ok a, v) →
          ∃ t, exec (.streamFrameEntry k) s = .next t ∧ t = v.putEntry k x r f off flags))))) ∧
  (∀ (k : Fin 16) (s : State), s.stream k = none ∨ (∃ x, s.stream k = some x ∧ x.cur = none) → exec (.streamFrameEntry k) s = .next s)

/-- TIME_INC_WRITE stores the word by its field's access type. TIME_NOW_READ answers TIM_NOW_NS with the nanoseconds and
puts the seconds and the fraction of that tick into TIM_NOW_SEC_LO, TIM_NOW_SEC_HI and TIM_NOW_FRAC, changing no other
register. TIME_STEP_SET sets the counter to TIM_SET_SEC and TIM_SET_NS with FRAC 0, TIME_STEP_OFFSET adds INC and the
signed TIM_OFFS; both end the slew, count in STEPS and post a severity-2 event with the mode and the change of N
against the count without the step. TIME_SLEW starts a slew of that signed number of nanoseconds in place of any
other, 0 ends it. SLEW_COMPLETE with no more than one step remaining is the slew's last tick; with more, or no slew,
nothing happens. (R431, R432, R433, R434, Table 22.14) -/
def Obligations.TimeBase : Prop :=
  (∀ (hi : Bool) (v : Word) (src : Nat) (s u : State), Reaches s (if hi then R.TIM_INC_HI else R.TIM_INC_LO) u →
    ∃ t, exec (.timeIncWrite hi v src) s = .next t ∧ t = u.plainWrite src (if hi then R.TIM_INC_HI else R.TIM_INC_LO) v ∧
      t.reg (if hi then R.TIM_INC_HI else R.TIM_INC_LO) = u.written (if hi then R.TIM_INC_HI else R.TIM_INC_LO) v) ∧
  (∀ s u : State, Reads s R.TIM_NOW_NS u → ∃ t, exec .timeNowRead s = .next t ∧ t.rdata = [t.reg R.TIM_NOW_NS] ∧
    t.get F.TIM_NOW_NS.NS = u.time.ns.toNat ∧ t.get F.TIM_NOW_FRAC.FRAC = u.time.frac.toNat ∧
    t.get F.TIM_NOW_SEC_LO.SEC = u.time.sec.toNat % 2 ^ 32 ∧ t.get F.TIM_NOW_SEC_HI.SEC = u.time.sec.toNat / 2 ^ 32 ∧
    t = { u with regs := t.regs, rdata := t.rdata } ∧
    ∀ off, off ∉ [R.TIM_NOW_NS, R.TIM_NOW_FRAC, R.TIM_NOW_SEC_LO, R.TIM_NOW_SEC_HI] → t.reg off = u.reg off) ∧
  (∀ (v : Word) (s u : State), Reaches s R.TIM_STEP u → ∃ t, exec (.timeStepSet v) s = .next t ∧
    t.time = ⟨BitVec.ofNat 48 (u.get F.TIM_SET_SEC_LO.SEC + 2 ^ 32 * u.get F.TIM_SET_SEC_HI.SEC), BitVec.ofNat 30 (min (u.get F.TIM_SET_NS.NS) 999999999), 0⟩ ∧
    t = (({ u with time := t.time, tim := { u.tim with slew := none } } : State).bump F.TIM_STEP.STEPS).post srcTime 2 0 0
      (timeN t.time - timeN (timeAdd u.time (u.tickInc : Int))).toNat) ∧
  (∀ (v : Word) (s u : State), Reaches s R.TIM_STEP u → ∃ t, exec (.timeStepOffset v) s = .next t ∧
    t.time = timeAdd u.time ((u.tickInc : Int) + sint (u.get F.TIM_OFFS.NS) 32 * (fracNs : Int)) ∧
    t = (({ u with time := t.time, tim := { u.tim with slew := none } } : State).bump F.TIM_STEP.STEPS).post srcTime 2 0 1
      (timeN t.time - timeN (timeAdd u.time (u.tickInc : Int))).toNat) ∧
  (∀ (v : Word) (src : Nat) (s u : State), Reaches s R.TIM_SLEW u →
    (v.toInt = 0 → ∃ t, exec (.timeSlew v src) s = .next t ∧ t = { u with tim := { u.tim with slew := none } }) ∧
    (v.toInt ≠ 0 → ∃ t, exec (.timeSlew v src) s = .next t ∧ t = { u with tim := { u.tim with slew := some (decide (v.toInt < 0), v.toInt.natAbs * 2 ^ 32) } })) ∧
  (∀ (neg : Bool) (left : Nat) (s : State), s.dark = false → s.tim.slew = some (neg, left) →
    (left ≤ s.slewStep → ∃ t, exec .slewComplete s = .next t ∧ t.tim.slew = none ∧
      t.time = timeAdd s.time ((s.tickInc : Int) + (if neg then -(left : Int) else (left : Int))) ∧ t = { s with time := t.time, tim := t.tim }) ∧
    (s.slewStep < left → exec .slewComplete s = .next s)) ∧
  (∀ s : State, s.tim.slew = none → exec .slewComplete s = .next s)

/-- TRIGGER_ARM of an unarmed trigger takes IRQ and TIME_HI and arms it with the target TIME_HI : TIME; of an armed one it
does nothing. TRIGGER_DISARM of an armed trigger disarms it, of an unarmed one takes IRQ and TIME_HI. TRIGGER_FIRE of
an armed trigger whose target is reached counts, then disarms it (no period) or moves its target by the smallest whole
number m of periods that passes N, counting m - 1 missed, and its consumers act; otherwise nothing happens.
TRIG_OUT_PULSE_END ends a pulse in progress. CAPTURE_EDGE: an edge that the source selects captures the counter where
VALID is 0 and counts LOST where it is 1; CAPTURE_NS_READ answers NS with VALID and clears VALID. PPS_OUT_RISE within
a new second with PPS_EN raises the pin, PPS_OUT_FALL lowers it. PTP_RECEIVE of a frame that is not selected, or on a
port not enabled, changes nothing; a selected frame of the ring's domain is written to the receive ring and SEQ
advances. PTP_TX_SUBMIT writes TIM_PTX_WIDX. PTP_TX_DONE passes over an entry that cannot be read, waits while the
port is down, paused or owed to a forwarded frame, and does nothing on an empty ring. PTP_TC_FORWARD sends the oldest
frame that waits for the port, corrected by its residence, and counts it, or discards it after 1 ms. (R436, R437,
R438, R440, R441, R443, R444, R445, Table 18.1) -/
def Obligations.TriggersAndPtp : Prop :=
  (∀ (k : Fin 16) (v : Word) (s u : State), Reaches s (R.TIM_TRG_CFG k) u →
    (let w := (u.put (F.TIM_TRG_CFG.IRQ k) (getBits ((v ||| 0x80000000) &&& 0xBFFFFFFF) 29 29)).put (F.TIM_TRG_CFG.TIME_HI k) (getBits ((v ||| 0x80000000) &&& 0xBFFFFFFF) 7 0)
     (u.on (F.TIM_TRG_CFG.ARM k) = true → ∃ t, exec (.triggerArm k v) s = .next t ∧ t = u) ∧
     (u.on (F.TIM_TRG_CFG.ARM k) = false → ∃ t, exec (.triggerArm k v) s = .next t ∧ t.on (F.TIM_TRG_CFG.ARM k) = true ∧
       sget 0 t.tim.targets k = (w.get (F.TIM_TRG_CFG.TIME_HI k) * 2 ^ 32 + w.get (F.TIM_TRG_TIME.TIME k)) * fracNs ∧
       t = { w.put (F.TIM_TRG_CFG.ARM k) 1 with tim := { w.tim with targets := t.tim.targets } })) ∧
    (u.on (F.TIM_TRG_CFG.ARM k) = true → ∃ t, exec (.triggerDisarm k v) s = .next t ∧ t = u.put (F.TIM_TRG_CFG.ARM k) 0 ∧ t.on (F.TIM_TRG_CFG.ARM k) = false) ∧
    (u.on (F.TIM_TRG_CFG.ARM k) = false → ∃ t, exec (.triggerDisarm k v) s = .next t ∧
      t = (u.put (F.TIM_TRG_CFG.IRQ k) (getBits (v ||| 0x40000000) 29 29)).put (F.TIM_TRG_CFG.TIME_HI k) (getBits (v ||| 0x40000000) 7 0))) ∧
  (∀ (k : Fin 16) (s : State), s.dark = false → s.on (F.TIM_TRG_CFG.ARM k) = true →
    (let g := sget 0 s.tim.targets k
     let w : State := { s.bump (F.TIM_TRG_STAT.FIRES k) with tim := { s.tim with fired := sset none s.tim.fired k (some s.time) } }
     let per := w.get (F.TIM_TRG_PERIOD.NS k) * fracNs + w.get (F.TIM_TRG_PFRAC.FRAC k)
     let m := (((w.past (g / fracNs)).toNat + 1) * fracNs - g % fracNs + per - 1) / per
     s.reached (g / fracNs) = true →
     (per = 0 → ∃ t, exec (.triggerFire k) s = .next t ∧ t = (w.put (F.TIM_TRG_CFG.ARM k) 0).consume k) ∧
     (per ≠ 0 → ∃ t, exec (.triggerFire k) s = .next t ∧
       t = ({ w.bumpBy (F.TIM_TRG_STAT.MISSED k) (m - 1) with tim := { w.tim with targets := sset 0 w.tim.targets k ((g + m * per) % 2 ^ 72) } } : State).consume k))) ∧
  (∀ (k : Fin 16) (s : State), s.on (F.TIM_TRG_CFG.ARM k) = false ∨ s.reached (sget 0 s.tim.targets k / fracNs) = false → exec (.triggerFire k) s = .next s) ∧
  (∀ (n : Fin 8) (s : State), s.dark = false →
    (s.tim.pulses.contains n.val = true → ∃ t, exec (.trigOutPulseEnd n) s = .next t ∧ t.tim.pulses = s.tim.pulses.filter (· != n.val) ∧
      t = { s with tim := t.tim, out := s.out ++ [⟨"trigOut", n, [s.toutLevel n false]⟩] }) ∧
    (s.tim.pulses.contains n.val = false → exec (.trigOutPulseEnd n) s = .next s)) ∧
  (∀ (j : Fin 11) (rising : Bool) (s : State), s.dark = false →
    (j.val < 8 →
      (let w := s.setBit F.GPIO_TIN_CFG.LEVEL j rising
       let e := bits (w.get F.GPIO_TIN_CFG.EDGE) (2 * j) 2
       ((if rising then e % 2 = 1 else 2 ≤ e) → ∃ t, exec (.captureEdge j rising) s = .next t ∧ t = (w.capture j).latchWake 0) ∧
       (¬ (if rising then e % 2 = 1 else 2 ≤ e) → ∃ t, exec (.captureEdge j rising) s = .next t ∧ t = w))) ∧
    (j.val = 8 → rising = true → ∃ t, exec (.captureEdge j rising) s = .next t ∧ t = (s.capture 8).latchWake 1) ∧
    (j.val = 8 → rising = false → ∃ t, exec (.captureEdge j rising) s = .next t ∧ t = s) ∧
    (8 < j.val → rising = s.on (F.SLK_SYNCCTL.POL (j - 9)) → ∃ t, exec (.captureEdge j rising) s = .next t ∧ t = s) ∧
    (8 < j.val → rising ≠ s.on (F.SLK_SYNCCTL.POL (j - 9)) → ∃ t, exec (.captureEdge j rising) s = .next t ∧ t = s.vsyncEdge (j - 9))) ∧
  (∀ (j : Fin 11) (s u : State), Reads s (R.TIM_CAP_NS j) u → ∃ t, exec (.captureNsRead j) s = .next t ∧ t.rdata = [u.reg (R.TIM_CAP_NS j)] ∧
    t.on (F.TIM_CAP_NS.VALID j) = false ∧ t = { u.put (F.TIM_CAP_NS.VALID j) 0 with rdata := t.rdata }) ∧
  (∀ s : State, s.dark = false → s.on F.TIM_CTL.PPS_EN = true → s.time.ns.toNat < 3 → s.tim.pps = false →
    ∃ t, exec .ppsOutRise s = .next t ∧ t = { s with tim := { s.tim with pps := true }, out := s.out ++ [⟨"pps", 0, [1]⟩] }) ∧
  (∀ s : State, s.on F.TIM_CTL.PPS_EN = false ∨ 3 ≤ s.time.ns.toNat ∨ s.tim.pps = true → exec .ppsOutRise s = .next s) ∧
  (∀ s : State, s.dark = false → s.tim.pps = true → ∃ t, exec .ppsOutFall s = .next t ∧ t = { s with tim := { s.tim with pps := false }, out := s.out ++ [⟨"pps", 0, [0]⟩] }) ∧
  (∀ (p : Fin 2) (f : List Byte) (s : State), s.bit F.TIM_PTP.PORTS p = false ∨ s.ethUp p 0 = false ∨ ptpSelected f = false ∨
    (ipDst f ≠ ptpIp ∧ ipDst f ≠ s.subIp (4 * p)) → exec (.ptpReceive p f) s = .next s) ∧
  (∀ (p : Fin 2) (f : List Byte) (s : State), s.dark = false → s.bit F.TIM_PTP.PORTS p = true → s.ethUp p 0 = true → ptpSelected f = true → ipDst f = ptpIp →
    s.on F.TIM_PTP.TC_EN = false →
    (let m := udpData f
     let e := padTo 128 (stampBytes (s.rxStamp p) ++ leBytes 1 p ++ leBytes 1 ((if 96 < m.length then 2 else 0) + 0) ++
        leBytes 2 (min m.length 96) ++ leBytes 2 (udpDst f) ++ leBytes 4 (ipSrc f) ++ leBytes 4 s.tim.prxSeq ++ zeros 4 ++ m.take 96)
     (s.on F.TIM_PTP.RX_EN = false ∨ beField m 4 1 ≠ s.get F.TIM_PTP.DOMAIN → ∃ t, exec (.ptpReceive p f) s = .next t ∧ t = s) ∧
     (∀ ok w, s.on F.TIM_PTP.RX_EN = true → beField m 4 1 = s.get F.TIM_PTP.DOMAIN →
       s.ringRecord ptpReq (s.addr R.TIM_PRX_LO R.TIM_PRX_HI) 128 (ringSize (s.get F.TIM_PRX_CTL.LOG2CNT) 4 16) F.TIM_PRX_CTL.WIDX e = (ok, w) →
       ∃ t, exec (.ptpReceive p f) s = .next t ∧ t = if ok then { w with tim := { w.tim with prxSeq := (w.tim.prxSeq + 1) % 2 ^ 32 } } else w))) ∧
  (∀ (widx : Half) (src : Nat) (s u : State), Reaches s R.TIM_PTX_WIDX u → ∃ t, exec (.ptpTxSubmit widx src) s = .next t ∧
    t = u.plainWrite src R.TIM_PTX_WIDX (widx.setWidth 32)) ∧
  (∀ s : State, s.dark = false →
    (let n := ringSize (s.get F.TIM_PTX_CTL.LOG2CNT) 4 12
     let i := s.get F.TIM_PTX_CTL.RIDX % n
     let a := s.addr R.TIM_PTX_LO R.TIM_PTX_HI + 128 * i
     (i = s.get F.TIM_PTX_WIDX.WIDX % n → ∃ t, exec .ptpTxDone s = .next t ∧ t = s) ∧
     (∀ x w, i ≠ s.get F.TIM_PTX_WIDX.WIDX % n → s.engRead ptpReq a 128 = (.error x, w) →
       ∃ t, exec .ptpTxDone s = .next t ∧ t = w.put F.TIM_PTX_CTL.RIDX ((i + 1) % n)) ∧
     (∀ e w, i ≠ s.get F.TIM_PTX_WIDX.WIDX % n → s.engRead ptpReq a 128 = (.ok e, w) →
       (let p := field e 0x0E 1 % 2
        (s.ethUp p 0 = false ∨ s.paused (4 * p) 8 = true ∨ s.tim.forwards.any (fun w => w.port == p) = true → ∃ t, exec .ptpTxDone s = .next t ∧ t = s) ∧
        (s.ethUp p 0 = true → s.paused (4 * p) 8 = false → s.tim.forwards.any (fun w => w.port == p) = false →
          (let y := w.emit "ptpTx" p (field e 0x14 4 :: field e 0x12 2 :: ((e.drop 0x20).take (min (max (field e 0x10 2) 34) 96)).map (·.toNat))
           let z := (y.engWrite ptpReq a (stampBytes (y.txStamp p))).2
           ∃ t, exec .ptpTxDone s = .next t ∧ t = ((z.engWrite ptpReq (a + 0x0F) (leBytes 1 (field e 0x0F 1 ||| 1))).2).put F.TIM_PTX_CTL.RIDX ((i + 1) % n))))))) ∧
  (∀ (p : Fin 2) (s : State), s.tim.forwards.find? (fun w => w.port == p.val) = none → exec (.ptpTcForward p) s = .next s) ∧
  (∀ (p : Fin 2) (s : State) (f : PtpForward), s.dark = false → s.tim.forwards.find? (fun w => w.port == p.val) = some f →
    (let w : State := { s with tim := { s.tim with forwards := s.tim.forwards.erase f } }
     (1000000 * 65536 < s.txStamp p - f.ingress → ∃ t, exec (.ptpTcForward p) s = .next t ∧ t = w.bump F.TIM_PTP_STAT.TC_DROPS) ∧
     (s.txStamp p - f.ingress ≤ 1000000 * 65536 → s.paused (4 * p) 8 = true ∨ s.ethUp p 0 = false → ∃ t, exec (.ptpTcForward p) s = .next t ∧ t = s) ∧
     (s.txStamp p - f.ingress ≤ 1000000 * 65536 → s.paused (4 * p) 8 = false → s.ethUp p 0 = true → ∃ t, exec (.ptpTcForward p) s = .next t ∧
       t = (w.bump F.TIM_PTP_STAT.TC_FWD).emit "ethTx" (4 * p) ((corrected f.frame (s.txStamp p - f.ingress)).map (·.toNat)))))

/-- AUDIO_PLL_ENABLE with a port enabled posts the ignored-write event; else it writes AUD_PLL_CFG, drives AUD_MCLK_OUT by
it and, with EN just set, starts the PLL with its domain. AUDIO_PORT_START of an enabled port posts the event; of a
disabled port it writes AUD_Pn_CFG, returns the ring indices and the frame index to 0, and runs the port unless it
lies in a group. AUDIO_PORT_STOP of an enabled port stops it and clears EN, of a disabled one it writes the other
fields. AUDIO_GROUP_START of a stopped group whose ports may not start together sets ERR and posts; else it waits for
its trigger or runs its ports. AUDIO_GROUP_STOP stops them. AUDIO_MASK_WRITE and AUDIO_TX_SUBMIT are plain writes.
AUDIO_TDM_FRAME of a running port sends the frame of the next index, puts it on the pins and, where the port receives,
places the slots; of a stopped port it does nothing. AUDIO_FRAME_LO_READ answers the index of the frame on the pins
and latches its high half. AUDIO_STREAM_SET of a disabled stream clears VALID; of an enabled one it takes its source's
set, zero while the source breaks its conditions, embeds it and records it. (R448, R453, R454, R455, R456, R457, R459,
R462, R463, R464) -/
def Obligations.Audio : Prop :=
  (∀ (v : Word) (src : Nat) (s u : State), Reaches s R.AUD_PLL_CFG u →
    (u.anyPort = true → ∃ t, exec (.audioPllEnable v src) s = .next t ∧ t = u.postIgnored src 3 R.AUD_PLL_CFG) ∧
    (u.anyPort = false →
      (let w := u.plainWrite src R.AUD_PLL_CFG (v ||| 0x80000000)
       let y := w.emit "audMclk" 0 [if w.on F.AUD_PLL_CFG.MCLK_EN then max 4 (w.get F.AUD_PLL_CFG.MCLK_DIV) else 0]
       w.on F.AUD_PLL_CFG.EN = true →
       (u.on F.AUD_PLL_CFG.EN = false → ∃ t, exec (.audioPllEnable v src) s = .next t ∧ t = (y.demand 144).startPll 7) ∧
       (u.on F.AUD_PLL_CFG.EN = true → ∃ t, exec (.audioPllEnable v src) s = .next t ∧ t = y)))) ∧
  (∀ (n : Fin 8) (v : Word) (src : Nat) (s u : State), Reaches s (R.AUD_P_CFG n) u →
    (u.on (F.AUD_P_CFG.EN n) = true → ∃ t, exec (.audioPortStart n v src) s = .next t ∧ t = u.postIgnored src 3 (R.AUD_P_CFG n)) ∧
    (u.on (F.AUD_P_CFG.EN n) = true → ∃ t, exec (.audioPortStop n v src) s = .next t ∧ t = (u.portStop n).put (F.AUD_P_CFG.EN n) 0 ∧ t.on (F.AUD_P_CFG.EN n) = false) ∧
    (u.on (F.AUD_P_CFG.EN n) = false →
      (let w := u.plainWrite src (R.AUD_P_CFG n) (v ||| 0x80000000)
       let y := (w.andThen [(·.put (F.AUD_P_TXR_IDX.RIDX n) 0), (·.put (F.AUD_P_TXR_IDX.WIDX n) 0), (·.put (F.AUD_P_RXR_IDX.RIDX n) 0),
         (·.put (F.AUD_P_RXR_IDX.WIDX n) 0), (·.put (F.AUD_P_FRAME_LO.INDEX n) 0), (·.put (F.AUD_P_FRAME_HI.INDEX n) 0)]).setAud n audInit
       w.on (F.AUD_P_CFG.EN n) = true →
       (y.groupOf n = none → ∃ t, exec (.audioPortStart n v src) s = .next t ∧ t = y.portRun n) ∧
       (∀ g, y.groupOf n = some g → ∃ t, exec (.audioPortStart n v src) s = .next t ∧ t = y))) ∧
    (u.on (F.AUD_P_CFG.EN n) = false →
      (let w := u.plainWrite src (R.AUD_P_CFG n) (v &&& 0x7FFFFFFF)
       w.on (F.AUD_P_CFG.EN n) = false → ∃ t, exec (.audioPortStop n v src) s = .next t ∧ t = w))) ∧
  (∀ (g : Fin 2) (v : Word) (s u : State), Reaches s (R.AUD_GRP_CFG g) u →
    (let w := u.put (F.AUD_GRP_CFG.PORTS g) (getBits ((v ||| 0x80000000) &&& 0xBFFFFFFF) 7 0)
     (w.get (F.AUD_GRP_CFG.STATE g) ≠ 0 → ∃ t, exec (.audioGroupStart g v) s = .next t ∧ t = w) ∧
     (w.get (F.AUD_GRP_CFG.STATE g) = 0 → w.groupBad g = true → ∃ t, exec (.audioGroupStart g v) s = .next t ∧
       t = (w.put (F.AUD_GRP_CFG.ERR g) 1).post 0x1500 3 1 (R.AUD_GRP_CFG g % 4096) (R.AUD_GRP_CFG g)) ∧
     (w.get (F.AUD_GRP_CFG.STATE g) = 0 → w.groupBad g = false →
       (let y := w.put (F.AUD_GRP_CFG.ERR g) 0
        ((y.get (routeAud g)).testBit 4 = true → ∃ t, exec (.audioGroupStart g v) s = .next t ∧ t = y.put (F.AUD_GRP_CFG.STATE g) 1) ∧
        ((y.get (routeAud g)).testBit 4 = false → ∃ t, exec (.audioGroupStart g v) s = .next t ∧ t = y.groupRun g)))) ∧
    (∃ t, exec (.audioGroupStop g v) s = .next t ∧ t = ((u.groupPorts g).foldl State.portStop (u.put (F.AUD_GRP_CFG.STATE g) 0)).put (F.AUD_GRP_CFG.PORTS g) (getBits (v ||| 0x40000000) 7 0))) ∧
  (∀ (n : Fin 8) (tx : Bool) (v : Word) (src : Nat) (s u : State), Reaches s (if tx then R.AUD_P_TXMASK n else R.AUD_P_RXMASK n) u →
    ∃ t, exec (.audioMaskWrite n tx v src) s = .next t ∧ t = u.plainWrite src (if tx then R.AUD_P_TXMASK n else R.AUD_P_RXMASK n) v) ∧
  (∀ (n : Fin 8) (widx : Half) (src : Nat) (s u : State), Reaches s (R.AUD_P_TXR_IDX n) u → ∃ t, exec (.audioTxSubmit n widx src) s = .next t ∧
    t = u.plainWrite src (R.AUD_P_TXR_IDX n) (widx.setWidth 32)) ∧
  (∀ (n : Fin 8) (slots : List Nat) (sachet : Bool) (s : State), s.dark = false → (s.audP n).running = true →
    (let x := s.audP n
     let u := (s.setAud n { x with next := (x.next + 1) % 2 ^ 64, slots := slots }).put (F.AUD_P_FRAME_LO.INDEX n) x.next
     ∀ l w, u.sendFrame n x.next = (l, w) →
     (let y := (w.emit "audTx" n l).emit "audPins" n (w.tdmPins n x.next l)
      (y.on (F.AUD_P_CFG.RX_EN n) = true → ∃ t, exec (.audioTdmFrame n slots sachet) s = .next t ∧ t = y.placeFrame n x.next slots sachet) ∧
      (y.on (F.AUD_P_CFG.RX_EN n) = false → ∃ t, exec (.audioTdmFrame n slots sachet) s = .next t ∧ t = y)))) ∧
  (∀ (n : Fin 8) (slots : List Nat) (sachet : Bool) (s : State), (s.audP n).running = false → exec (.audioTdmFrame n slots sachet) s = .next s) ∧
  (∀ (n : Fin 8) (s u : State), Reads s (R.AUD_P_FRAME_LO n) u → ∃ t, exec (.audioFrameLoRead n) s = .next t ∧
    t.rdata = [BitVec.ofNat 32 ((u.audP n).next - 1)] ∧ t = { u.put (F.AUD_P_FRAME_HI.INDEX n) (((u.audP n).next - 1) / 2 ^ 32) with rdata := t.rdata }) ∧
  (∀ (k : Fin 16) (s : State), s.dark = false →
    (s.on (F.AUD_STR_CFG.EN k) = false → ∃ t, exec (.audioStreamSet k) s = .next t ∧ t = s.put (F.AUD_STR_CFG.VALID k) 0 ∧ t.on (F.AUD_STR_CFG.VALID k) = false) ∧
    (∀ v w, s.on (F.AUD_STR_CFG.EN k) = true → s.streamSource k = (v, w) →
      (let l := v.getD [0, 0, 0, 0]
       let y := (w.putB (F.AUD_STR_CFG.VALID k) v.isSome).embedSet k l
       let x := { y.strS k with last := l }
       let start := if x.sets.isEmpty then y.now.toNat else x.start
       let zero := (!x.sets.isEmpty && x.zeroed) || v.isNone
       (x.recorded = false → ∃ t, exec (.audioStreamSet k) s = .next t ∧ t = y.setStr k x) ∧
       (x.recorded = true → (x.sets ++ [l]).length < 2 ^ (min (y.get (F.AUD_STR_CFG.BLK k)) 5 + 8) →
         ∃ t, exec (.audioStreamSet k) s = .next t ∧ t = y.setStr k { x with sets := x.sets ++ [l], start := start, zeroed := zero }) ∧
       (x.recorded = true → 2 ^ (min (y.get (F.AUD_STR_CFG.BLK k)) 5 + 8) ≤ (x.sets ++ [l]).length →
         ∃ t, exec (.audioStreamSet k) s = .next t ∧ t = y.setStr k { x with sets := [], zeroed := false, done := x.done ++ [audioRecord start (x.sets ++ [l]) zero] }))))

/-- KETTLE_DEMAND and DOMAIN_HOLD enter their demand and serve the queue while at most eight switches ramp. DOMAIN_ON of a
Starting domain whose clock has locked makes it On and serves further. DOMAIN_IDLE_TIMEOUT of an On domain of POLICY 1
without hold, enable, work or demand retains it; of any other it does nothing. PLL_LOCK of a PLL that is on sets its
lock bit, and LOCKED of an enabled audio PLL. POWER_UP of a device that is off and not held off starts with the input
readings; POWER_LOSS takes power down, recording the stop where the input holds long enough, and releases a held
module. RAIL_FAULT of a good output sets FAULT and the interrupt: a memory output takes all three down, DRAM lost,
with a severity-6 event; another goes off with severity 5. RAIL_RETRY, and CLOCK_SELECT unless the core PLL has not
locked (then an event), write their register; RESIDENCY_CLEAR zeroes the counters; RESIDENCY_LO_READ answers the low
word and latches the rest. COSY_XTAL_SWITCH switches the cosy clock to the crystal. (R467, R468, R471, R473, R474,
R475, R476, R482, R483, R485, R29, R448) -/
def Obligations.PowerDomains : Prop :=
  (∀ (d : Fin 148) (s : State), s.dark = false →
    (∃ t, exec (.kettleDemand d) s = .next t ∧ t = (s.demand d).serve 16) ∧
    (s.dom d = 1 → s.clocked d = true → ∃ t, exec (.domainOn d) s = .next t ∧ t = (s.domainOn d).serve 16) ∧
    (s.dom d ≠ 1 ∨ s.clocked d = false → ∃ t, exec (.domainOn d) s = .next t ∧ t = s) ∧
    (s.dom d = 2 → s.get (F.PWR_DOM.POLICY d) = 1 → s.on (F.PWR_DOM.HOLD d) = false → s.enabledIn d = false → s.workIn d = false →
      s.power.demands.contains d.val = false → ∃ t, exec (.domainIdleTimeout d) s = .next t ∧ t = s.retain d) ∧
    (s.dom d ≠ 2 ∨ s.get (F.PWR_DOM.POLICY d) ≠ 1 ∨ s.on (F.PWR_DOM.HOLD d) = true ∨ s.enabledIn d = true ∨ s.workIn d = true ∨
      s.power.demands.contains d.val = true → ∃ t, exec (.domainIdleTimeout d) s = .next t ∧ t = s)) ∧
  (∀ (d : Fin 148) (s u : State), Reaches s (R.PWR_DOM d) u →
    (let w := u.plainWrite 0x1A00 (R.PWR_DOM d) 0x08000000
     w.on (F.PWR_DOM.HOLD d) = true → ∃ t, exec (.domainHold d) s = .next t ∧ t = (w.demand d).serve 16)) ∧
  (∀ (k : Fin 32) (s : State), s.dark = false →
    (k.val < 8 → s.bit F.PWR_PLL.ON k = false → ∃ t, exec (.pllLock k) s = .next t ∧ t = s) ∧
    (k.val < 7 → s.bit F.PWR_PLL.ON k = true → ∃ t, exec (.pllLock k) s = .next t ∧ t = s.setBit F.PWR_PLL.LOCK k true ∧ t.bit F.PWR_PLL.LOCK k = true) ∧
    (k.val = 7 → s.bit F.PWR_PLL.ON 7 = true → s.on F.AUD_PLL_CFG.EN = true → ∃ t, exec (.pllLock k) s = .next t ∧
      t = (s.setBit F.PWR_PLL.LOCK 7 true).put F.AUD_PLL_CFG.LOCKED 1 ∧ t.on F.AUD_PLL_CFG.LOCKED = true) ∧
    (8 ≤ k.val → ∃ t, exec (.pllLock k) s = .next t ∧ t = s.quadLock (k - 8))) ∧
  (∀ (vin iin : Half) (hot : Bool) (vio : BitVec 4) (s : State),
    (s.power.heldOff = true ∨ s.power.railsOn = true ∨ s.thermal.holding = true ∨ s.power.mode = .hibernate → exec (.powerUp (vin, iin) hot vio) s = .next s) ∧
    (s.power.heldOff = false → s.power.railsOn = false → s.thermal.holding = false → s.power.mode ≠ .hibernate →
      (let w := if s.power.cosy then s else s.cold s.power.afterShutdown
       let y := (({ w with power := { w.power with vio := vio.toNat } } : State).put F.PWR_INPUT.VIN_MV vin.toNat).put F.PWR_INPUT.IIN iin.toNat
       (y.power.afterShutdown = true → hot = true → ∃ t, exec (.powerUp (vin, iin) hot vio) s = .next t ∧
         t = ({ y with thermal := { y.thermal with holding := true } } : State).put F.THM_STAT.THERM 1) ∧
       (y.power.afterShutdown = false ∨ hot = false → ∃ t, exec (.powerUp (vin, iin) hot vio) s = .next t ∧ t = y.passStep3)))) ∧
  (∀ (cause : Fin 3) (recorded : Bool) (s : State),
    (s.power.cosy = true → cause.val = 2 ∨ recorded = false → ∃ t, exec (.powerLoss cause recorded) s = .next t ∧ t = s.powerDown false) ∧
    (s.power.cosy = true → cause.val < 2 → recorded = true → ∃ t, exec (.powerLoss cause recorded) s = .next t ∧
      t = (s.place ⟨0x1600, 0x6000, 6, s.now, BitVec.ofNat 64 (s.get F.PWR_INPUT.VIN_MV)⟩ false).powerDown false) ∧
    (s.power.cosy = false → ∃ t, exec (.powerLoss cause recorded) s = .next t ∧ t = { s with power := { s.power with heldOff := false } })) ∧
  (∀ (out : Fin 5) (s : State),
    (let w := (s.setBit F.PWR_RAIL.FAULT out true).irq 8
     (s.bit F.PWR_RAIL.GOOD out = false → exec (.railFault out) s = .next s) ∧
     (s.bit F.PWR_RAIL.GOOD out = true → out.val < 3 → ∃ t, exec (.railFault out) s = .next t ∧
       t = (((w.put F.PWR_RAIL.GOOD (w.get F.PWR_RAIL.GOOD / 8 * 8)).loseDram).pwrGood false).post 0x1600 6 6 (0x100 + out.val) 0) ∧
     (s.bit F.PWR_RAIL.GOOD out = true → 3 ≤ out.val → ∃ t, exec (.railFault out) s = .next t ∧
       t = (w.setBit F.PWR_RAIL.GOOD out false).post 0x1600 5 6 (0x100 + out.val) 0))) ∧
  (∀ (v : Word) (s u : State), Reaches s R.PWR_RAIL u →
    (let w := u.plainWrite 0x1A00 R.PWR_RAIL (v ||| 0x80000000)
     let y := (List.range 5).foldl (fun s k => if s.bit F.PWR_RAIL.FAULT k then s else s.setBit F.PWR_RAIL.GOOD k true) w
     ∃ t, exec (.railRetry v) s = .next t ∧ t = if w.get F.PWR_RAIL.GOOD ≠ 31 ∧ y.get F.PWR_RAIL.GOOD = 31 then y.pwrGood true else y)) ∧
  (∀ (v : Word) (src : Nat) (s u : State), Reaches s R.PWR_CLKSEL u →
    (v.getLsbD 0 = true → u.bit F.PWR_PLL.LOCK 2 = false → ∃ t, exec (.clockSelect v src) s = .next t ∧ t = u.postIgnored src 3 R.PWR_CLKSEL) ∧
    (v.getLsbD 0 = false ∨ u.bit F.PWR_PLL.LOCK 2 = true → ∃ t, exec (.clockSelect v src) s = .next t ∧ t = u.plainWrite src R.PWR_CLKSEL v)) ∧
  (∀ (v : Word) (s u : State), Reaches s R.PWR_CTL u →
    (let w := u.plainWrite 0x1A00 R.PWR_CTL (v ||| 0x10000000)
     ∃ t, exec (.residencyClear v) s = .next t ∧ t = { w with power := { w.power with sres := [], dres := [], ons := [] }, regs := sclear w.regs 0x160400 0x160CA0 })) ∧
  (∀ (c : Fin 153) (s u : State),
    (c.val < 5 → Reads s (R.PWR_SRES_LO c) u →
      (let x := sget (0 : BitVec 64) u.power.sres c
       ∃ t, exec (.residencyLoRead c) s = .next t ∧ t = { u.put (F.PWR_SRES_HI.TIME c) (x.toNat / 2 ^ 32) with rdata := [x.setWidth 32] })) ∧
    (5 ≤ c.val → Reads s (R.PWR_DRES_LO (c - 5)) u →
      (let x := sget (0 : BitVec 48) u.power.dres (c - 5)
       ∃ t, exec (.residencyLoRead c) s = .next t ∧ t = { (u.put (F.PWR_DRES_HI.TIME (c - 5)) (x.toNat / 2 ^ 32)).put (F.PWR_DRES_HI.ONS (c - 5)) (sget (0 : Half) u.power.ons (c - 5)).toNat with
         rdata := [x.setWidth 32] }))) ∧
  (∀ s : State, s.power.cosy = true → ∃ t, exec .cosyXtalSwitch s = .next t ∧ t = { s with xtal := true })

/-- IDLE_ENTRY in Run with the rails on and no core booting halts the running cores; NAP_ENTRY in Idle with NAP_EN, a wake
vector and a quiet device, DOZE_ENTRY in Nap with DOZE_EN and HIBERNATE_ENTRY in Doze with HIB_EN, neither while a
freeze is in progress, enter their state; otherwise each leaves the state as it is. WAKE latches its event; one that
is enabled and wakes from the present state starts the wake order, in Hibernate marks the wake, and a freeze in
progress wakes nothing. WAKE_COMPLETE brings back the domains and channels that the state turned off. HIBERNATE_EXIT
runs power-up from step 3. SENSOR_CONVERSION within the range sets the reading and evaluates the band; a die sensor at
125 degrees twice in a row shuts down; outside the range the sensor is faulted. SENSOR_TIMEOUT faults the sensor and measures the module temperature against its limit.
POWERUP_THERMAL_HOLD of a held sequence goes on once no die sensor is hot. (R478, R479, R480, R481, R482, R484, R487,
R490, R491, R493, R494, Table 20.8) -/
def Obligations.PowerStates : Prop :=
  (∀ s : State, s.dark = false → s.power.mode = .run → s.power.railsOn = true → (List.range 4).any (fun c => s.get (F.CPU_CORE_CTL.STATE c) == 1) = false →
    (let u := (List.range 4).foldl (fun s c => if s.get (F.CPU_CORE_CTL.STATE c) = 2 then s.put (F.CPU_CORE_CTL.STATE c) 3 else s) s
     ∃ t, exec .idleEntry s = .next t ∧ t = { u with power := { u.power with mode := .idle } } ∧ t.power.mode = .idle)) ∧
  (∀ s : State, s.power.mode ≠ .run ∨ s.power.railsOn = false ∨ (List.range 4).any (fun c => s.get (F.CPU_CORE_CTL.STATE c) == 1) = true → exec .idleEntry s = .next s) ∧
  (∀ s : State, s.dark = false → s.power.mode = .idle → s.on F.PWR_CTL.NAP_EN = true → s.addr R.PWR_WAKE_VEC_LO R.PWR_WAKE_VEC_HI ≠ 0 → s.quiet = true →
    ∃ t, exec .napEntry s = .next t ∧ t = s.nap) ∧
  (∀ s : State, s.power.mode ≠ .idle ∨ s.on F.PWR_CTL.NAP_EN = false ∨ s.addr R.PWR_WAKE_VEC_LO R.PWR_WAKE_VEC_HI = 0 ∨ s.quiet = false → exec .napEntry s = .next s) ∧
  (∀ s : State, s.dark = false → s.power.mode = .nap → s.on F.PWR_CTL.DOZE_EN = true → s.freezing = false → ∃ t, exec .dozeEntry s = .next t ∧ t = s.doze) ∧
  (∀ s : State, s.power.mode ≠ .nap ∨ s.on F.PWR_CTL.DOZE_EN = false ∨ s.freezing = true → exec .dozeEntry s = .next s) ∧
  (∀ s : State, s.dark = false → s.power.mode = .doze → s.on F.PWR_CTL.HIB_EN = true → s.freezing = false → ∃ t, exec .hibernateEntry s = .next t ∧ t = s.hibernate) ∧
  (∀ s : State, s.power.mode ≠ .doze ∨ s.on F.PWR_CTL.HIB_EN = false ∨ s.freezing = true → exec .hibernateEntry s = .next s) ∧
  (∀ (k : Fin 9) (s : State), s.power.cosy = true →
    (let u := s.latchWake k
     (u.freezing = true ∨ u.bit F.PWR_WAKE_EN.EN k = false ∨ wakesFrom u.power.mode k = false → ∃ t, exec (.wake k) s = .next t ∧ t = u) ∧
     (u.freezing = false → u.bit F.PWR_WAKE_EN.EN k = true → wakesFrom u.power.mode k = true →
       (let v : State := { u with power := { u.power with mode := .run } }
        (u.power.mode = .idle → ∃ t, exec (.wake k) s = .next t ∧ t = (if v.get (F.CPU_CORE_CTL.STATE 0) = 3 then v.put (F.CPU_CORE_CTL.STATE 0) 2 else v).put F.PWR_CTL.LAST 1) ∧
        (u.power.mode = .nap → ∃ t, exec (.wake k) s = .next t ∧ t = u.wakeUp 2) ∧
        (u.power.mode = .doze → ∃ t, exec (.wake k) s = .next t ∧ t = u.wakeUp 3) ∧
        (u.power.mode = .hibernate → ∃ t, exec (.wake k) s = .next t ∧ t = { u with power := { u.power with waking := true } }))))) ∧
  (∀ s : State, s.dark = false → s.power.waking = true → s.power.mode = .run →
    (let u := s.power.offChannels.foldl State.channelBack (s.power.offDomains.foldl State.bringUp s)
     ∃ t, exec .wakeComplete s = .next t ∧ t = ({ u with power := { u.power with waking := false, offDomains := [], offChannels := [], demands := u.power.demands.filter (fun d => !s.power.offDomains.contains d) } } : State).ethAwake)) ∧
  (∀ s : State, s.power.waking = false ∨ s.power.mode ≠ .run → exec .wakeComplete s = .next s) ∧
  (∀ (hot : Bool) (s : State), s.power.mode = .hibernate → s.power.waking = true →
    (let w : State := { s.coldFrom with
        regs := s.regs.filter (fun e => e.1 == R.PWR_WAKE_CAUSE || (decide (0x160400 ≤ e.1) && decide (e.1 < 0x160CA0)) || (decide (0x180008 ≤ e.1) && decide (e.1 < 0x180010)))
        xtal := s.xtal
        power := { State.reset.power with sres := s.power.sres, dres := s.power.dres, ons := s.power.ons, beat := s.power.beat, vio := s.power.vio } }
     ∃ t, exec (.hibernateExit hot) s = .next t ∧ t = ((w.put F.PWR_RAIL.GOOD (s.get F.PWR_RAIL.GOOD)).put F.PWR_CTL.LAST 4).step3 hot)) ∧
  (∀ (n : Fin 26) (temp : Half) (s : State), s.power.cosy = true →
    (let x := sint temp.toNat 16
     let u := s.put (F.THM_SENS.VALID n) 1
     let w := (u.put (F.THM_SENS.FAULT n) 0).put (F.THM_SENS.TEMP n) temp.toNat
     (x < -440 ∨ 1200 < x → ∃ t, exec (.sensorConversion n temp) s = .next t ∧ t = ((u.sensorFault n).moduleLimit s.moduleTemp n).evaluate) ∧
     (-440 ≤ x → x ≤ 1200 → n.val < 24 → 1000 ≤ x → sget false w.thermal.hot125 n = true → ∃ t, exec (.sensorConversion n temp) s = .next t ∧ t = w.shutdown n temp.toNat) ∧
     (-440 ≤ x → x ≤ 1200 → 24 ≤ n.val ∨ x < 1000 ∨ sget false w.thermal.hot125 n = false → ∃ t, exec (.sensorConversion n temp) s = .next t ∧
       t = (({ w with thermal := { w.thermal with hot125 := sset false w.thermal.hot125 n (decide (n.val < 24 ∧ 1000 ≤ x)) } } : State).moduleLimit s.moduleTemp n).evaluate))) ∧
  (∀ (n : Fin 26) (s : State), s.power.cosy = true → ∃ t, exec (.sensorTimeout n) s = .next t ∧ t = (s.sensorFault n).moduleLimit s.moduleTemp n) ∧
  (∀ s : State, s.thermal.holding = true → s.dieHot = false → ∃ t, exec .powerupThermalHold s = .next t ∧
    t = s.passStep3.putB F.THM_STAT.THERM (decide (s.get F.THM_STAT.BAND = 4))) ∧
  (∀ s : State, s.thermal.holding = false ∨ s.dieHot = true → exec .powerupThermalHold s = .next s)

/-- For every write of EVT_POST that reaches its register: with a category other than 0xF one event is posted with
severity SEV, the CODE given, the writer's DATA registers as its DATA and the writer's source ID (while its severity
is not filtered and the intake has room for it, it enters the intake); with category 0xF nothing changes. A write of
EVT_POST_DATA_LO or EVT_POST_DATA_HI changes that half of the writer's own 64-bit DATA, and of no other writer's.
(R520) -/
def Obligations.FirmwareEvents : Prop :=
  (∀ (v : Word) (src : Nat) (s u : State), Reaches s R.EVT_POST u →
    (let sev := Fin.ofNat 8 (getBits v 18 16)
     let e : Event := ⟨BitVec.ofNat 16 src, BitVec.ofNat 16 (getBits v 15 12 * 4096 + getBits v 11 0 % 4096), sev, u.now, BitVec.ofNat 64 (u.postData src).toNat⟩
     let w := if 5 ≤ sev then u.latchWake 7 else u
     (getBits v 15 12 = 0xF → ∃ t, exec (.evtPost v src) s = .next t ∧ t = u) ∧
     (getBits v 15 12 ≠ 0xF → ∃ t, exec (.evtPost v src) s = .next t ∧ t = u.post src sev (getBits v 15 12) (getBits v 11 0) (u.postData src).toNat ∧ t = w.intake e) ∧
     (getBits v 15 12 ≠ 0xF → w.get F.EVT_CFG.MIN_SEV ≤ sev.val → w.evt.intake.length < (if 6 ≤ sev then 64 else 56) →
       ∃ t, exec (.evtPost v src) s = .next t ∧ t = { w with evt := { w.evt with intake := w.evt.intake ++ [e] } }))) ∧
  (∀ (hi : Bool) (v : Word) (src : Nat) (s u : State), Reaches s (if hi then R.EVT_POST_DATA_HI else R.EVT_POST_DATA_LO) u →
    ∃ t, exec (.registerWrite (if hi then R.EVT_POST_DATA_HI else R.EVT_POST_DATA_LO) v true src) s = .next t ∧
      t.postData src = (if hi then v ++ (u.postData src).setWidth 32 else (u.postData src).extractLsb' 32 32 ++ v) ∧
      (∀ o, o ≠ src → t.postData o = u.postData o) ∧ t = { u with evt := { u.evt with postData := t.evt.postData } })

/-- EVENT_PLACE places the oldest intake entry and takes it out of the intake; with an empty intake nothing happens.
SUMMARY_PLACE with an empty intake places the summary of the oldest suppressed pair, of CODE 0xF in its top four bits
with the pair's category below, and DATA the count; otherwise nothing happens. Without power neither acts. EVT_CLEAR
with its key while none is in progress starts a clear up to the last sequence number, of severity 7 zeroing EVT_LOSS;
with another key, or while BUSY, it has no effect. EVT_CLEAR_DONE empties each slot whose record has no higher
severity and no later sequence number than the clear names, and clears BUSY. EVT_LAST_LO_READ answers the low word of
the last sequence number and latches the rest. (R514, R515, R516, R517, R518, Table 22.9) -/
def Obligations.EventRecorder : Prop :=
  (∀ (e : Event) (r : List Event) (s : State), s.power.cosy = true → s.evt.intake = e :: r →
    ∃ t, exec .eventPlace s = .next t ∧ t = ({ s with evt := { s.evt with intake := r } } : State).place e false) ∧
  (∀ s : State, s.power.cosy = false ∨ s.evt.intake = [] → exec .eventPlace s = .next s) ∧
  (∀ (e : Event) (k : Nat) (above : Bool) (r : List Event) (s : State), s.power.cosy = true → s.evt.intake = e :: r → s.evt.slotFor e.sev = some (k, above) →
    ∃ t x, exec .eventPlace s = .next t ∧ sget none t.evt.ring k = some x ∧ x.seq = s.evt.nextSeq ∧ x.src = e.src ∧ x.code = e.code ∧ x.sev = e.sev ∧
      x.time = e.time ∧ x.data = e.data ∧ t.evt.nextSeq = s.evt.nextSeq + 1 ∧ ∀ j, j ≠ k → sget none t.evt.ring j = sget none s.evt.ring j) ∧
  (∀ (x : Suppressed) (r : List Suppressed) (s : State), s.power.cosy = true → s.evt.intake = [] → s.evt.supp = x :: r →
    ∃ t, exec .summaryPlace s = .next t ∧ t = ({ s with evt := { s.evt with supp := r } } : State).place
      ⟨x.src, BitVec.ofNat 16 (0xF000 + x.code.toNat / 4096), x.sev, x.time, BitVec.ofNat 64 x.count⟩ true) ∧
  (∀ s : State, s.power.cosy = false ∨ s.evt.intake ≠ [] ∨ s.evt.supp = [] → exec .summaryPlace s = .next s) ∧
  (∀ (v : Word) (s u : State), Reaches s R.EVT_CLEAR u →
    (getBits v 31 16 ≠ 0x5AFE ∨ u.on F.EVT_CLEAR.BUSY = true → ∃ t, exec (.evtClear v) s = .next t ∧ t = u) ∧
    (getBits v 31 16 = 0x5AFE → u.on F.EVT_CLEAR.BUSY = false →
      (let w : State := { u with evt := { u.evt with clearing := some (getBits v 2 0, u.lastSeq) } }
       ∃ t, exec (.evtClear v) s = .next t ∧ t = (if getBits v 2 0 = 7 then w.wreg R.EVT_LOSS 0 else w).put F.EVT_CLEAR.BUSY 1 ∧ t.on F.EVT_CLEAR.BUSY = true))) ∧
  (∀ (sev : Nat) (last : BitVec 48) (s : State), s.evt.clearing = some (sev, last) → ∃ t, exec .evtClearDone s = .next t ∧
    t.on F.EVT_CLEAR.BUSY = false ∧ t.evt.clearing = none ∧
    (∀ k e, sget none s.evt.ring k = some e → (e.sev.val ≤ sev ∧ e.seq.toNat ≤ last.toNat → Canonical none s.evt.ring = true → sget none t.evt.ring k = none) ∧
      (¬ (e.sev.val ≤ sev ∧ e.seq.toNat ≤ last.toNat) → Canonical none s.evt.ring = true → sget none t.evt.ring k = some e)) ∧
    t = ({ s with evt := { s.evt with clearing := none, ring := t.evt.ring } } : State).put F.EVT_CLEAR.BUSY 0) ∧
  (∀ s : State, s.evt.clearing = none → exec .evtClearDone s = .next s) ∧
  (∀ s u : State, Reads s R.EVT_LAST_LO u → ∃ t, exec .evtLastLoRead s = .next t ∧
    t = { u.put F.EVT_LAST_HI.SEQ (u.lastSeq.toNat / 2 ^ 32) with rdata := [BitVec.ofNat 32 u.lastSeq.toNat] })

/-- FREEZE_N_LOW, DBG_FREEZE and JTAG_FREEZE record the first request in DBG_STAT.SRC (1, 2, 3); a later one, or one in
Hibernate or without power, does not. FREEZE_COMPLETE of a freeze in progress stops everything and places the
severity-4 record; otherwise nothing happens. With the TAP on, IDCODE answers 0x29600E4D; EXTEST and SAMPLE/PRELOAD
capture the lands and take the bits shifted in, EXTEST driving them; BYPASS answers 0; SNAP_SEL selects a chain from
word 0; SNAP_DATA answers 0 while not FROZEN, else the chain's next word; MEMACC answers the last result and starts
its access unless one is pending; MEMSTREAM answers it and starts the read of the next word where AUTOINC was set;
WARMRST resets warm with cause 4. MEMACC_DONE performs the pending access except while a freeze is being entered.
DEBUG_SELF_REFRESH_RETURN takes the channel out of those awake. JTAG_TRST_N loads IDCODE. Without the TAP no
instruction acts. (R521, R522, R526, R527, R528, R529, R530, R531) -/
def Obligations.FreezeAndDebug : Prop :=
  (∀ s : State, s.power.cosy = true → s.power.mode ≠ .hibernate → s.get F.DBG_STAT.SRC = 0 → ∃ t, exec .freezeNLow s = .next t ∧ t = s.put F.DBG_STAT.SRC 1 ∧ t.freezing = true) ∧
  (∀ s : State, s.power.cosy = false ∨ s.power.mode = .hibernate ∨ s.get F.DBG_STAT.SRC ≠ 0 → exec .freezeNLow s = .next s) ∧
  (∀ (v : Word) (src : Nat) (s u : State), Reaches s R.DBG_CTL u →
    (let w := u.plainWrite src R.DBG_CTL (v ||| 0x80000000)
     w.power.cosy = true → w.power.mode ≠ .hibernate → w.get F.DBG_STAT.SRC = 0 → ∃ t, exec (.dbgFreeze v src) s = .next t ∧ t = w.put F.DBG_STAT.SRC 2 ∧ t.freezing = true)) ∧
  (∀ s : State, s.freezing = true → s.on F.DBG_STAT.FROZEN = false →
    (let w := s.stopAll
     ∃ t, exec .freezeComplete s = .next t ∧ t = w.place ⟨0x1900, BitVec.ofNat 16 (w.get F.DBG_STAT.SRC), 4, w.now, 0⟩ false)) ∧
  (∀ s : State, s.freezing = false ∨ s.on F.DBG_STAT.FROZEN = true → exec .freezeComplete s = .next s) ∧
  (∀ s : State, s.tapOn = true →
    (let at_ (c : Nat) := s.setIr c
     (∃ t, exec .idcode s = .next t ∧ t = { at_ 2 with rdata := [0x29600E4D] }) ∧
     (s.get F.DBG_STAT.SRC = 0 → ∃ t, exec .jtagFreeze s = .next t ∧ t = (at_ 0x10).put F.DBG_STAT.SRC 3) ∧
     (s.get F.DBG_STAT.SRC ≠ 0 → ∃ t, exec .jtagFreeze s = .next t ∧ t = at_ 0x10) ∧
     (∃ t, exec .warmrst s = .next t ∧ t = (at_ 0x15).warmReset 4) ∧
     (∀ code : Byte, ∃ t, exec (.bypass code) s = .next t ∧ t = { at_ code.toNat with rdata := [0] }) ∧
     (∀ pins data, ∃ t, exec (.samplePreload pins data) s = .next t ∧ t.rdata = pins.map (fun b => if b then 1 else 0) ∧ t.jtag.boundary = data ∧
       t = { at_ 1 with rdata := t.rdata, jtag := { (at_ 1).jtag with boundary := data } }) ∧
     (∀ pins data, s.jtag.ir = 0 → ∃ t, exec (.extest pins data) s = .next t ∧ t.rdata = pins.map (fun b => if b then 1 else 0) ∧ t.jtag.boundary = data ∧
       t.out = s.out ++ [⟨"lands", 0, data.map (fun b => if b then 1 else 0)⟩]) ∧
     (∀ pins data, s.jtag.ir ≠ 0 → ∃ t, exec (.extest pins data) s = .next t ∧ t.rdata = pins.map (fun b => if b then 1 else 0) ∧ t.jtag.ir = 0 ∧ t.jtag.boundary = data ∧
       t.out = s.out ++ [⟨"lands", 0, s.jtag.boundary.map (fun b => if b then 1 else 0)⟩, ⟨"lands", 0, data.map (fun b => if b then 1 else 0)⟩]) ∧
     (∀ chain : Half, ∃ t, exec (.snapSel chain) s = .next t ∧ t = { at_ 0x11 with jtag := { (at_ 0x11).jtag with chain := chain.toNat, word := 0 } }) ∧
     ((at_ 0x12).on F.DBG_STAT.FROZEN = false → ∃ t, exec .snapData s = .next t ∧ t = { at_ 0x12 with rdata := [0] }) ∧
     (∀ x, (at_ 0x12).on F.DBG_STAT.FROZEN = true → (at_ 0x12).jtag.chain ≤ 148 → ((at_ 0x12).chainWords (at_ 0x12).jtag.chain)[(at_ 0x12).jtag.word]? = some x →
       ∃ t, exec .snapData s = .next t ∧ t = { at_ 0x12 with rdata := [x], jtag := { (at_ 0x12).jtag with word := (at_ 0x12).jtag.word + 1 } }) ∧
     (∀ data addr write auto v st w, (at_ 0x13).drCapture = (v, st, w) →
       (let y : State := { w with rdata := twoWords v ++ [BitVec.ofNat 32 st] }
        ((at_ 0x13).jtag.access.isSome = true → ∃ t, exec (.memacc data addr write auto) s = .next t ∧ t = y) ∧
        ((at_ 0x13).jtag.access.isSome = false → ∃ t, exec (.memacc data addr write auto) s = .next t ∧
          t = { y with jtag := { y.jtag with access := some (addr.toNat / 8 * 8, if write then some (leBytes 8 data.toNat) else none), auto := auto, at_ := addr.toNat / 8 * 8 + 8 } }))) ∧
     (∀ v st w, (at_ 0x14).drCapture = (v, st, w) →
       (let y : State := { w with rdata := twoWords v }
        ((at_ 0x14).jtag.access.isSome = true ∨ y.jtag.auto = false → ∃ t, exec .memstream s = .next t ∧ t = y) ∧
        ((at_ 0x14).jtag.access.isSome = false → y.jtag.auto = true → ∃ t, exec .memstream s = .next t ∧
          t = { y with jtag := { y.jtag with access := some (y.jtag.at_, none), at_ := (y.jtag.at_ + 8) % 2 ^ 40 } }))) ∧
     (s.jtag.access = none → ∃ t, exec .memaccDone s = .next t ∧ t = s) ∧
     (∀ a w, s.jtag.access = some (a, w) →
       (s.freezing = true → s.on F.DBG_STAT.FROZEN = false → ∃ t, exec .memaccDone s = .next t ∧ t = s) ∧
       (∀ d st y, s.freezing = false ∨ s.on F.DBG_STAT.FROZEN = true → (if s.on F.DBG_STAT.FROZEN then s.debugFrozen a w else s.debugRunning a w) = ((d, st), y) →
         ∃ t, exec .memaccDone s = .next t ∧ t = { y with jtag := { y.jtag with access := none, result := some (d, st) } })))) ∧
  (∀ s : State, s.tapOn = false → exec .idcode s = .next s ∧ exec .jtagFreeze s = .next s ∧ exec .warmrst s = .next s ∧ exec .snapData s = .next s ∧
    exec .memstream s = .next s ∧ exec .memaccDone s = .next s) ∧
  (∀ (ch : Fin 8) (s : State), ∃ t, exec (.debugSelfRefreshReturn ch) s = .next t ∧ t.jtag.awake = s.jtag.awake.filter (fun c => c != ch.val) ∧ t = { s with jtag := t.jtag }) ∧
  (∀ s : State, s.power.cosy = true → ∃ t, exec .jtagTrst s = .next t ∧ t.jtag.ir = 2 ∧ t = s.setIr 2) ∧
  (∀ s : State, s.power.cosy = false → exec .jtagTrst s = .next s)
end

