-- ==== Sys2Proof/Laws/Bits.lean ====
section
/-! SUPPORT. Laws of bit fields: what a field reads after a write of it or of another field. -/

namespace Sys2Proof.Machine

theorem getLsbD_field (w : Word) {hi lo : Nat} (h : lo ≤ hi) (h31 : hi < 32) (i : Nat) :
    ((w >>> lo) &&& (BitVec.allOnes 32 >>> (31 - (hi - lo)))).getLsbD i = (decide (i ≤ hi - lo) && w.getLsbD (lo + i)) := by
  simp only [BitVec.getLsbD_and, BitVec.getLsbD_ushiftRight, BitVec.getLsbD_allOnes]
  by_cases hi' : i ≤ hi - lo
  · have : 31 - (hi - lo) + i < 32 := by omega
    simp [hi', this]
  · have : ¬ 31 - (hi - lo) + i < 32 := by omega
    simp [hi', this]

theorem testBit_getBits (w : Word) {hi lo : Nat} (h : lo ≤ hi) (h31 : hi < 32) (i : Nat) :
    (getBits w hi lo).testBit i = (decide (i ≤ hi - lo) && w.getLsbD (lo + i)) := by
  unfold getBits
  rw [BitVec.testBit_toNat, getLsbD_field w h h31]

theorem getLsbD_fmask {hi lo : Nat} (h : lo ≤ hi) (h31 : hi < 32) (i : Nat) :
    (fmask hi lo).getLsbD i = decide (lo ≤ i ∧ i ≤ hi) := by
  unfold fmask
  simp only [BitVec.getLsbD_shiftLeft, BitVec.getLsbD_ushiftRight, BitVec.getLsbD_allOnes]
  by_cases a : lo ≤ i <;> by_cases b : i ≤ hi <;> simp [a, b] <;> omega

theorem getLsbD_setBits (w : Word) {hi lo : Nat} (h : lo ≤ hi) (h31 : hi < 32) (v i : Nat) :
    (setBits w hi lo v).getLsbD i = if lo ≤ i ∧ i ≤ hi then v.testBit (i - lo) else w.getLsbD i := by
  unfold setBits
  simp only [BitVec.getLsbD_or, BitVec.getLsbD_and, BitVec.getLsbD_not, getLsbD_fmask h h31, BitVec.getLsbD_shiftLeft]
  by_cases a : lo ≤ i ∧ i ≤ hi
  · have h1 : i < 32 := by omega
    have h2 : ¬ i < lo := by omega
    have h3 : i - lo < 32 := by omega
    simp only [a, h1, h2, decide_true, decide_false, Bool.and_true, Bool.true_and, Bool.not_true, Bool.not_false, and_self, ↓reduceIte, Bool.and_false, Bool.false_or, BitVec.getLsbD_ofNat, h3]
  · by_cases h1 : i < 32
    · simp [a, h1]
    · have : w.getLsbD i = false := BitVec.getLsbD_of_ge w i (by omega)
      simp [a, this]

/-- A field written reads as the low bits of what was written. -/
theorem getBits_setBits_same (w : Word) {hi lo : Nat} (h : lo ≤ hi) (h31 : hi < 32) (v : Nat) :
    getBits (setBits w hi lo v) hi lo = v % 2 ^ (hi - lo + 1) := by
  apply Nat.eq_of_testBit_eq
  intro i
  rw [testBit_getBits _ h h31, getLsbD_setBits w h h31, Nat.testBit_mod_two_pow]
  by_cases a : i ≤ hi - lo
  · have b : lo ≤ lo + i ∧ lo + i ≤ hi := by omega
    have c : i < hi - lo + 1 := by omega
    simp [a, b, c]
  · have c : ¬ i < hi - lo + 1 := by omega
    simp [a, c]

/-- A field that shares no bit with the one written reads as before. -/
theorem getBits_setBits_other (w : Word) {hi lo hi' lo' : Nat} (h : lo ≤ hi) (h31 : hi < 32) (h' : lo' ≤ hi') (h31' : hi' < 32)
    (hd : hi' < lo ∨ hi < lo') (v : Nat) : getBits (setBits w hi lo v) hi' lo' = getBits w hi' lo' := by
  apply Nat.eq_of_testBit_eq
  intro i
  rw [testBit_getBits _ h' h31', testBit_getBits _ h' h31', getLsbD_setBits w h h31]
  by_cases a : i ≤ hi' - lo'
  · have b : ¬ (lo ≤ lo' + i ∧ lo' + i ≤ hi) := by omega
    simp [b]
  · simp [a]

theorem getBits_lt (w : Word) {hi lo : Nat} (h : lo ≤ hi) (h31 : hi < 32) : getBits w hi lo < 2 ^ (hi - lo + 1) := by
  apply Nat.lt_pow_two_of_testBit
  intro i hi'
  rw [testBit_getBits w h h31]
  have : ¬ i ≤ hi - lo := by omega
  simp [this]

end Sys2Proof.Machine
end

