-- ==== Sys2Proof/Laws/Sparse.lean ====
section
/-! SUPPORT. Laws of the sparse tables: a read after a write, the canonical form, and its uniqueness. -/

namespace Sys2Proof.Machine

variable {α : Type} {d : α} {l : Sparse α} {x y : Nat} {v : α}

theorem sget_serase_same (d : α) (l : Sparse α) (x : Nat) : sget d (serase l x) x = d := by
  induction l with
  | nil => rfl
  | cons e r ih =>
    obtain ⟨k, w⟩ := e
    by_cases h : k = x <;> simp [serase, sget, h, ih]

theorem sget_serase_other (d : α) (l : Sparse α) {x y : Nat} (h : y ≠ x) : sget d (serase l x) y = sget d l y := by
  induction l with
  | nil => rfl
  | cons e r ih =>
    obtain ⟨k, w⟩ := e
    by_cases hx : k = x
    · subst hx; simp [serase, sget, ih, Ne.symm h]
    · by_cases hy : k = y
      · subst hy; simp [serase, sget, hx]
      · simp [serase, sget, hx, hy, ih]

theorem sget_sinsert_other (d : α) (l : Sparse α) (v : α) {x y : Nat} (h : y ≠ x) : sget d (sinsert l x v) y = sget d l y := by
  induction l with
  | nil => simp [sinsert, sget, Ne.symm h]
  | cons e r ih =>
    obtain ⟨k, w⟩ := e
    by_cases hk : x < k
    · simp [sinsert, sget, hk, Ne.symm h]
    · by_cases hy : k = y
      · subst hy; simp [sinsert, sget, hk]
      · simp [sinsert, sget, hk, hy, ih]

/-- Insertion where the index is not listed. -/
theorem sget_sinsert_same (d : α) (l : Sparse α) (v : α) {x : Nat} (h : ∀ e ∈ l, e.1 ≠ x) : sget d (sinsert l x v) x = v := by
  induction l with
  | nil => simp [sinsert, sget]
  | cons e r ih =>
    obtain ⟨k, w⟩ := e
    have hk : k ≠ x := h (k, w) (by simp)
    by_cases hx : x < k
    · simp [sinsert, sget, hx]
    · simp [sinsert, sget, hx, hk, ih (fun e he => h e (by simp [he]))]

theorem mem_serase {l : Sparse α} {x : Nat} {e : Nat × α} : e ∈ serase l x ↔ e ∈ l ∧ e.1 ≠ x := by
  induction l with
  | nil => simp [serase]
  | cons a r ih =>
    obtain ⟨k, w⟩ := a
    by_cases h : k = x
    · subst h
      simp only [serase, ↓reduceIte, ih, List.mem_cons]
      constructor
      · exact fun ⟨a, b⟩ => ⟨.inr a, b⟩
      · rintro ⟨rfl | a, b⟩
        · exact absurd rfl b
        · exact ⟨a, b⟩
    · simp only [serase, h, ↓reduceIte, List.mem_cons, ih]
      constructor
      · rintro (rfl | ⟨a, b⟩)
        · exact ⟨.inl rfl, h⟩
        · exact ⟨.inr a, b⟩
      · rintro ⟨rfl | a, b⟩
        · exact .inl rfl
        · exact .inr ⟨a, b⟩

theorem mem_sinsert {l : Sparse α} {x : Nat} {v : α} {e : Nat × α} : e ∈ sinsert l x v ↔ e = (x, v) ∨ e ∈ l := by
  induction l with
  | nil => simp [sinsert]
  | cons a r ih =>
    obtain ⟨k, w⟩ := a
    by_cases h : x < k
    · simp [sinsert, h]
    · simp only [sinsert, h, ↓reduceIte, List.mem_cons, ih]
      constructor
      · rintro (a | a | a)
        · exact .inr (.inl a)
        · exact .inl a
        · exact .inr (.inr a)
      · rintro (a | a | a)
        · exact .inr (.inl a)
        · exact .inl a
        · exact .inr (.inr a)

/-- What a write leaves at its own index. -/
@[simp] theorem sget_sset_same [DecidableEq α] (d : α) (l : Sparse α) (x : Nat) (v : α) : sget d (sset d l x v) x = v := by
  unfold sset
  split
  · rename_i h; rw [sget_serase_same, h]
  · exact sget_sinsert_same d _ v (fun e he => (mem_serase.1 he).2)

/-- What a write leaves at any other index. -/
@[simp] theorem sget_sset_other [DecidableEq α] (c d : α) (l : Sparse α) (v : α) {x y : Nat} (h : y ≠ x) :
    sget c (sset d l x v) y = sget c l y := by
  unfold sset
  split
  · exact sget_serase_other c l h
  · rw [sget_sinsert_other c _ v h, sget_serase_other c l h]

/-! ### The canonical form -/

theorem canonical_iff [DecidableEq α] : Canonical d l = true ↔ (l.map Prod.fst).Pairwise (· < ·) ∧ ∀ e ∈ l, e.2 ≠ d := by
  simp [Canonical]

theorem canonical_nil [DecidableEq α] (d : α) : Canonical d ([] : Sparse α) = true := rfl

theorem canonical_cons [DecidableEq α] {k : Nat} {w : α} {r : Sparse α} :
    Canonical d ((k, w) :: r) = true ↔ (∀ e ∈ r, k < e.1) ∧ w ≠ d ∧ Canonical d r = true := by
  simp only [canonical_iff, List.map_cons, List.pairwise_cons, List.mem_map, List.mem_cons, forall_exists_index, and_imp]
  constructor
  · rintro ⟨⟨a, b⟩, c⟩
    exact ⟨fun e he => a e.1 e he rfl, c (k, w) (.inl rfl), b, fun e he => c e (.inr he)⟩
  · rintro ⟨a, b, c, f⟩
    refine ⟨⟨fun i e he hi => hi ▸ a e he, c⟩, ?_⟩
    rintro e (rfl | he)
    · exact b
    · exact f e he

theorem canonical_serase [DecidableEq α] (h : Canonical d l = true) (x : Nat) : Canonical d (serase l x) = true := by
  induction l with
  | nil => rfl
  | cons e r ih =>
    obtain ⟨k, w⟩ := e
    have ⟨a, b, c⟩ := canonical_cons.1 h
    by_cases hx : k = x
    · simpa [serase, hx] using ih c
    · simp only [serase, hx, ↓reduceIte]
      exact canonical_cons.2 ⟨fun e he => a e (mem_serase.1 he).1, b, ih c⟩

theorem canonical_sinsert [DecidableEq α] (h : Canonical d l = true) (hx : ∀ e ∈ l, e.1 ≠ x) (hv : v ≠ d) :
    Canonical d (sinsert l x v) = true := by
  induction l with
  | nil => exact canonical_cons.2 ⟨by simp, hv, rfl⟩
  | cons e r ih =>
    obtain ⟨k, w⟩ := e
    have ⟨a, b, c⟩ := canonical_cons.1 h
    have hk : k ≠ x := hx (k, w) (by simp)
    by_cases hlt : x < k
    · simp only [sinsert, hlt, ↓reduceIte]
      refine canonical_cons.2 ⟨?_, hv, h⟩
      intro e he
      rcases List.mem_cons.1 he with rfl | he
      · exact hlt
      · exact Nat.lt_trans hlt (a e he)
    · simp only [sinsert, hlt, ↓reduceIte]
      refine canonical_cons.2 ⟨?_, b, ih c (fun e he => hx e (List.mem_cons_of_mem _ he))⟩
      intro e he
      rcases mem_sinsert.1 he with rfl | he
      · omega
      · exact a e he

/-- A write keeps the canonical form. -/
theorem canonical_sset [DecidableEq α] {x : Nat} {v : α} (h : Canonical d l = true) : Canonical d (sset d l x v) = true := by
  unfold sset
  split
  · exact canonical_serase h x
  · rename_i hv
    exact canonical_sinsert (canonical_serase h x) (fun e he => (mem_serase.1 he).2) hv

theorem canonical_filter [DecidableEq α] (h : Canonical d l = true) (p : Nat × α → Bool) : Canonical d (l.filter p) = true := by
  induction l with
  | nil => rfl
  | cons e r ih =>
    obtain ⟨k, w⟩ := e
    have ⟨a, b, c⟩ := canonical_cons.1 h
    by_cases hp : p (k, w) = true
    · rw [List.filter_cons_of_pos hp]
      exact canonical_cons.2 ⟨fun e he => a e (List.mem_filter.1 he).1, b, ih c⟩
    · rw [List.filter_cons_of_neg hp]
      exact ih c

/-- A listed entry is what its index reads as. -/
theorem sget_of_mem [DecidableEq α] (h : Canonical d l = true) {k : Nat} {w : α} (hm : (k, w) ∈ l) : sget d l k = w := by
  induction l with
  | nil => cases hm
  | cons e r ih =>
    obtain ⟨j, u⟩ := e
    have ⟨a, _, c⟩ := canonical_cons.1 h
    rcases List.mem_cons.1 hm with he | he
    · cases he; simp [sget]
    · have := a _ he
      simp only [sget]
      rw [if_neg (by simp only at this; omega)]
      exact ih c he

/-- What reads as something else than the default is listed. -/
theorem mem_of_sget {k : Nat} {w : α} (h : sget d l k = w) (hw : w ≠ d) : (k, w) ∈ l := by
  induction l with
  | nil => exact absurd h.symm hw
  | cons e r ih =>
    obtain ⟨j, u⟩ := e
    by_cases hj : j = k
    · subst hj; simp [sget] at h; simp [h]
    · simp only [sget, hj, ↓reduceIte] at h
      exact List.mem_cons_of_mem _ (ih h)

theorem sget_eq_default (h : ∀ e ∈ l, e.1 ≠ x) : sget d l x = d := by
  induction l with
  | nil => rfl
  | cons e r ih =>
    obtain ⟨j, u⟩ := e
    have : j ≠ x := h (j, u) (by simp)
    simp only [sget, this, ↓reduceIte]
    exact ih (fun e he => h e (List.mem_cons_of_mem _ he))

/-- Tables in canonical form that read alike are equal data. -/
theorem canonical_ext [DecidableEq α] {m : Sparse α} (hl : Canonical d l = true) (hm : Canonical d m = true)
    (h : ∀ x, sget d l x = sget d m x) : l = m := by
  induction l generalizing m with
  | nil =>
    cases m with
    | nil => rfl
    | cons e r =>
      obtain ⟨k, w⟩ := e
      have := h k
      simp [sget] at this
      exact absurd this.symm (canonical_cons.1 hm).2.1
  | cons e r ih =>
    obtain ⟨k, w⟩ := e
    have ⟨a, b, c⟩ := canonical_cons.1 hl
    have hk : (k, w) ∈ m := mem_of_sget (by rw [← h]; simp [sget]) b
    cases m with
    | nil => cases hk
    | cons e' r' =>
      obtain ⟨k', w'⟩ := e'
      have ⟨a', b', c'⟩ := canonical_cons.1 hm
      have hk' : (k', w') ∈ (k, w) :: r := mem_of_sget (by rw [h]; simp [sget]) b'
      have e1 : k = k' := by
        rcases List.mem_cons.1 hk with x | x
        · cases x; rfl
        · rcases List.mem_cons.1 hk' with y | y
          · cases y; rfl
          · have := a _ y; have := a' _ x; simp only at *; omega
      subst e1
      have e2 : w = w' := by have := h k; simpa [sget] using this
      subst e2
      rw [ih c c' ?_]
      intro x
      by_cases hx : k = x
      · subst hx
        rw [sget_eq_default (fun e he => by have := a e he; omega), sget_eq_default (fun e he => by have := a' e he; omega)]
      · have := h x
        simpa [sget, hx] using this

end Sys2Proof.Machine
end

