-- ==== Sys2Proof/Laws/State.lean ====
section
/-! SUPPORT. Laws of the updates of State: which fields each update leaves, and what a register or a field of one reads after
a write. -/

namespace Sys2Proof.Machine

/-! ### Fields that an update leaves -/

@[simp] theorem wreg_cur (s : State) (o : Nat) (w : Word) : (s.wreg o w).cur = s.cur := rfl
@[simp] theorem wreg_mem (s : State) (o : Nat) (w : Word) : (s.wreg o w).mem = s.mem := rfl
@[simp] theorem wreg_badPar (s : State) (o : Nat) (w : Word) : (s.wreg o w).badPar = s.badPar := rfl
@[simp] theorem wreg_pending (s : State) (o : Nat) (w : Word) : (s.wreg o w).pending = s.pending := rfl
@[simp] theorem wreg_free (s : State) (o : Nat) (w : Word) : (s.wreg o w).free = s.free := rfl
@[simp] theorem wreg_rdata (s : State) (o : Nat) (w : Word) : (s.wreg o w).rdata = s.rdata := rfl
@[simp] theorem wreg_out (s : State) (o : Nat) (w : Word) : (s.wreg o w).out = s.out := rfl
@[simp] theorem wreg_time (s : State) (o : Nat) (w : Word) : (s.wreg o w).time = s.time := rfl
@[simp] theorem wreg_evt (s : State) (o : Nat) (w : Word) : (s.wreg o w).evt = s.evt := rfl
@[simp] theorem wreg_tlb (s : State) (o : Nat) (w : Word) : (s.wreg o w).tlb = s.tlb := rfl
@[simp] theorem wreg_active (s : State) (o : Nat) (w : Word) : (s.wreg o w).active = s.active := rfl
@[simp] theorem wreg_load (s : State) (o : Nat) (w : Word) : (s.wreg o w).load = s.load := rfl
@[simp] theorem wreg_latched (s : State) (o : Nat) (w : Word) : (s.wreg o w).latched = s.latched := rfl
@[simp] theorem wreg_tabs (s : State) (o : Nat) (w : Word) : (s.wreg o w).tabs = s.tabs := rfl
@[simp] theorem wreg_roots (s : State) (o : Nat) (w : Word) : (s.wreg o w).roots = s.roots := rfl
@[simp] theorem wreg_brews (s : State) (o : Nat) (w : Word) : (s.wreg o w).brews = s.brews := rfl
@[simp] theorem wreg_lanes (s : State) (o : Nat) (w : Word) : (s.wreg o w).lanes = s.lanes := rfl
@[simp] theorem wreg_quadPll (s : State) (o : Nat) (w : Word) : (s.wreg o w).quadPll = s.quadPll := rfl
@[simp] theorem wreg_tfile (s : State) (o : Nat) (w : Word) : (s.wreg o w).tfile = s.tfile := rfl
@[simp] theorem wreg_rx (s : State) (o : Nat) (w : Word) : (s.wreg o w).rx = s.rx := rfl
@[simp] theorem wreg_tx (s : State) (o : Nat) (w : Word) : (s.wreg o w).tx = s.tx := rfl
@[simp] theorem wreg_scp (s : State) (o : Nat) (w : Word) : (s.wreg o w).scp = s.scp := rfl
@[simp] theorem wreg_sta (s : State) (o : Nat) (w : Word) : (s.wreg o w).sta = s.sta := rfl
@[simp] theorem wreg_synW (s : State) (o : Nat) (w : Word) : (s.wreg o w).synW = s.synW := rfl
@[simp] theorem wreg_ana (s : State) (o : Nat) (w : Word) : (s.wreg o w).ana = s.ana := rfl
@[simp] theorem wreg_cmx (s : State) (o : Nat) (w : Word) : (s.wreg o w).cmx = s.cmx := rfl
@[simp] theorem wreg_opk (s : State) (o : Nat) (w : Word) : (s.wreg o w).opk = s.opk := rfl
@[simp] theorem wreg_sdiOut (s : State) (o : Nat) (w : Word) : (s.wreg o w).sdiOut = s.sdiOut := rfl
@[simp] theorem wreg_sdiIn (s : State) (o : Nat) (w : Word) : (s.wreg o w).sdiIn = s.sdiIn := rfl
@[simp] theorem wreg_tg (s : State) (o : Nat) (w : Word) : (s.wreg o w).tg = s.tg := rfl
@[simp] theorem wreg_vce (s : State) (o : Nat) (w : Word) : (s.wreg o w).vce = s.vce := rfl
@[simp] theorem wreg_vceOrder (s : State) (o : Nat) (w : Word) : (s.wreg o w).vceOrder = s.vceOrder := rfl
@[simp] theorem wreg_cmp (s : State) (o : Nat) (w : Word) : (s.wreg o w).cmp = s.cmp := rfl
@[simp] theorem wreg_cmpOrder (s : State) (o : Nat) (w : Word) : (s.wreg o w).cmpOrder = s.cmpOrder := rfl
@[simp] theorem wreg_cmpDone (s : State) (o : Nat) (w : Word) : (s.wreg o w).cmpDone = s.cmpDone := rfl
@[simp] theorem wreg_dram (s : State) (o : Nat) (w : Word) : (s.wreg o w).dram = s.dram := rfl
@[simp] theorem wreg_steepC (s : State) (o : Nat) (w : Word) : (s.wreg o w).steepC = s.steepC := rfl
@[simp] theorem wreg_steepPool (s : State) (o : Nat) (w : Word) : (s.wreg o w).steepPool = s.steepPool := rfl
@[simp] theorem wreg_steepWait (s : State) (o : Nat) (w : Word) : (s.wreg o w).steepWait = s.steepWait := rfl
@[simp] theorem wreg_caddy (s : State) (o : Nat) (w : Word) : (s.wreg o w).caddy = s.caddy := rfl
@[simp] theorem wreg_dma (s : State) (o : Nat) (w : Word) : (s.wreg o w).dma = s.dma := rfl
@[simp] theorem wreg_eth (s : State) (o : Nat) (w : Word) : (s.wreg o w).eth = s.eth := rfl
@[simp] theorem wreg_ccp (s : State) (o : Nat) (w : Word) : (s.wreg o w).ccp = s.ccp := rfl
@[simp] theorem wreg_tim (s : State) (o : Nat) (w : Word) : (s.wreg o w).tim = s.tim := rfl
@[simp] theorem wreg_aud (s : State) (o : Nat) (w : Word) : (s.wreg o w).aud = s.aud := rfl
@[simp] theorem wreg_str (s : State) (o : Nat) (w : Word) : (s.wreg o w).str = s.str := rfl
@[simp] theorem wreg_power (s : State) (o : Nat) (w : Word) : (s.wreg o w).power = s.power := rfl
@[simp] theorem wreg_thermal (s : State) (o : Nat) (w : Word) : (s.wreg o w).thermal = s.thermal := rfl
@[simp] theorem wreg_xtal (s : State) (o : Nat) (w : Word) : (s.wreg o w).xtal = s.xtal := rfl
@[simp] theorem wreg_jtag (s : State) (o : Nat) (w : Word) : (s.wreg o w).jtag = s.jtag := rfl
@[simp] theorem wreg_sec (s : State) (o : Nat) (w : Word) : (s.wreg o w).sec = s.sec := rfl
@[simp] theorem wreg_boot (s : State) (o : Nat) (w : Word) : (s.wreg o w).boot = s.boot := rfl
@[simp] theorem put_cur (s : State) (f : Fld) (v : Nat) : (s.put f v).cur = s.cur := rfl
@[simp] theorem put_mem (s : State) (f : Fld) (v : Nat) : (s.put f v).mem = s.mem := rfl
@[simp] theorem put_badPar (s : State) (f : Fld) (v : Nat) : (s.put f v).badPar = s.badPar := rfl
@[simp] theorem put_pending (s : State) (f : Fld) (v : Nat) : (s.put f v).pending = s.pending := rfl
@[simp] theorem put_free (s : State) (f : Fld) (v : Nat) : (s.put f v).free = s.free := rfl
@[simp] theorem put_rdata (s : State) (f : Fld) (v : Nat) : (s.put f v).rdata = s.rdata := rfl
@[simp] theorem put_out (s : State) (f : Fld) (v : Nat) : (s.put f v).out = s.out := rfl
@[simp] theorem put_time (s : State) (f : Fld) (v : Nat) : (s.put f v).time = s.time := rfl
@[simp] theorem put_evt (s : State) (f : Fld) (v : Nat) : (s.put f v).evt = s.evt := rfl
@[simp] theorem put_tlb (s : State) (f : Fld) (v : Nat) : (s.put f v).tlb = s.tlb := rfl
@[simp] theorem put_active (s : State) (f : Fld) (v : Nat) : (s.put f v).active = s.active := rfl
@[simp] theorem put_load (s : State) (f : Fld) (v : Nat) : (s.put f v).load = s.load := rfl
@[simp] theorem put_latched (s : State) (f : Fld) (v : Nat) : (s.put f v).latched = s.latched := rfl
@[simp] theorem put_tabs (s : State) (f : Fld) (v : Nat) : (s.put f v).tabs = s.tabs := rfl
@[simp] theorem put_roots (s : State) (f : Fld) (v : Nat) : (s.put f v).roots = s.roots := rfl
@[simp] theorem put_brews (s : State) (f : Fld) (v : Nat) : (s.put f v).brews = s.brews := rfl
@[simp] theorem put_lanes (s : State) (f : Fld) (v : Nat) : (s.put f v).lanes = s.lanes := rfl
@[simp] theorem put_quadPll (s : State) (f : Fld) (v : Nat) : (s.put f v).quadPll = s.quadPll := rfl
@[simp] theorem put_tfile (s : State) (f : Fld) (v : Nat) : (s.put f v).tfile = s.tfile := rfl
@[simp] theorem put_rx (s : State) (f : Fld) (v : Nat) : (s.put f v).rx = s.rx := rfl
@[simp] theorem put_tx (s : State) (f : Fld) (v : Nat) : (s.put f v).tx = s.tx := rfl
@[simp] theorem put_scp (s : State) (f : Fld) (v : Nat) : (s.put f v).scp = s.scp := rfl
@[simp] theorem put_sta (s : State) (f : Fld) (v : Nat) : (s.put f v).sta = s.sta := rfl
@[simp] theorem put_synW (s : State) (f : Fld) (v : Nat) : (s.put f v).synW = s.synW := rfl
@[simp] theorem put_ana (s : State) (f : Fld) (v : Nat) : (s.put f v).ana = s.ana := rfl
@[simp] theorem put_cmx (s : State) (f : Fld) (v : Nat) : (s.put f v).cmx = s.cmx := rfl
@[simp] theorem put_opk (s : State) (f : Fld) (v : Nat) : (s.put f v).opk = s.opk := rfl
@[simp] theorem put_sdiOut (s : State) (f : Fld) (v : Nat) : (s.put f v).sdiOut = s.sdiOut := rfl
@[simp] theorem put_sdiIn (s : State) (f : Fld) (v : Nat) : (s.put f v).sdiIn = s.sdiIn := rfl
@[simp] theorem put_tg (s : State) (f : Fld) (v : Nat) : (s.put f v).tg = s.tg := rfl
@[simp] theorem put_vce (s : State) (f : Fld) (v : Nat) : (s.put f v).vce = s.vce := rfl
@[simp] theorem put_vceOrder (s : State) (f : Fld) (v : Nat) : (s.put f v).vceOrder = s.vceOrder := rfl
@[simp] theorem put_cmp (s : State) (f : Fld) (v : Nat) : (s.put f v).cmp = s.cmp := rfl
@[simp] theorem put_cmpOrder (s : State) (f : Fld) (v : Nat) : (s.put f v).cmpOrder = s.cmpOrder := rfl
@[simp] theorem put_cmpDone (s : State) (f : Fld) (v : Nat) : (s.put f v).cmpDone = s.cmpDone := rfl
@[simp] theorem put_dram (s : State) (f : Fld) (v : Nat) : (s.put f v).dram = s.dram := rfl
@[simp] theorem put_steepC (s : State) (f : Fld) (v : Nat) : (s.put f v).steepC = s.steepC := rfl
@[simp] theorem put_steepPool (s : State) (f : Fld) (v : Nat) : (s.put f v).steepPool = s.steepPool := rfl
@[simp] theorem put_steepWait (s : State) (f : Fld) (v : Nat) : (s.put f v).steepWait = s.steepWait := rfl
@[simp] theorem put_caddy (s : State) (f : Fld) (v : Nat) : (s.put f v).caddy = s.caddy := rfl
@[simp] theorem put_dma (s : State) (f : Fld) (v : Nat) : (s.put f v).dma = s.dma := rfl
@[simp] theorem put_eth (s : State) (f : Fld) (v : Nat) : (s.put f v).eth = s.eth := rfl
@[simp] theorem put_ccp (s : State) (f : Fld) (v : Nat) : (s.put f v).ccp = s.ccp := rfl
@[simp] theorem put_tim (s : State) (f : Fld) (v : Nat) : (s.put f v).tim = s.tim := rfl
@[simp] theorem put_aud (s : State) (f : Fld) (v : Nat) : (s.put f v).aud = s.aud := rfl
@[simp] theorem put_str (s : State) (f : Fld) (v : Nat) : (s.put f v).str = s.str := rfl
@[simp] theorem put_power (s : State) (f : Fld) (v : Nat) : (s.put f v).power = s.power := rfl
@[simp] theorem put_thermal (s : State) (f : Fld) (v : Nat) : (s.put f v).thermal = s.thermal := rfl
@[simp] theorem put_xtal (s : State) (f : Fld) (v : Nat) : (s.put f v).xtal = s.xtal := rfl
@[simp] theorem put_jtag (s : State) (f : Fld) (v : Nat) : (s.put f v).jtag = s.jtag := rfl
@[simp] theorem put_sec (s : State) (f : Fld) (v : Nat) : (s.put f v).sec = s.sec := rfl
@[simp] theorem put_boot (s : State) (f : Fld) (v : Nat) : (s.put f v).boot = s.boot := rfl
@[simp] theorem emit_regs (s : State) (k : String) (p : Nat) (d : List Nat) : (s.emit k p d).regs = s.regs := rfl
@[simp] theorem emit_cur (s : State) (k : String) (p : Nat) (d : List Nat) : (s.emit k p d).cur = s.cur := rfl
@[simp] theorem emit_mem (s : State) (k : String) (p : Nat) (d : List Nat) : (s.emit k p d).mem = s.mem := rfl
@[simp] theorem emit_badPar (s : State) (k : String) (p : Nat) (d : List Nat) : (s.emit k p d).badPar = s.badPar := rfl
@[simp] theorem emit_pending (s : State) (k : String) (p : Nat) (d : List Nat) : (s.emit k p d).pending = s.pending := rfl
@[simp] theorem emit_free (s : State) (k : String) (p : Nat) (d : List Nat) : (s.emit k p d).free = s.free := rfl
@[simp] theorem emit_rdata (s : State) (k : String) (p : Nat) (d : List Nat) : (s.emit k p d).rdata = s.rdata := rfl
@[simp] theorem emit_time (s : State) (k : String) (p : Nat) (d : List Nat) : (s.emit k p d).time = s.time := rfl
@[simp] theorem emit_evt (s : State) (k : String) (p : Nat) (d : List Nat) : (s.emit k p d).evt = s.evt := rfl
@[simp] theorem emit_tlb (s : State) (k : String) (p : Nat) (d : List Nat) : (s.emit k p d).tlb = s.tlb := rfl
@[simp] theorem emit_active (s : State) (k : String) (p : Nat) (d : List Nat) : (s.emit k p d).active = s.active := rfl
@[simp] theorem emit_load (s : State) (k : String) (p : Nat) (d : List Nat) : (s.emit k p d).load = s.load := rfl
@[simp] theorem emit_latched (s : State) (k : String) (p : Nat) (d : List Nat) : (s.emit k p d).latched = s.latched := rfl
@[simp] theorem emit_tabs (s : State) (k : String) (p : Nat) (d : List Nat) : (s.emit k p d).tabs = s.tabs := rfl
@[simp] theorem emit_roots (s : State) (k : String) (p : Nat) (d : List Nat) : (s.emit k p d).roots = s.roots := rfl
@[simp] theorem emit_brews (s : State) (k : String) (p : Nat) (d : List Nat) : (s.emit k p d).brews = s.brews := rfl
@[simp] theorem emit_lanes (s : State) (k : String) (p : Nat) (d : List Nat) : (s.emit k p d).lanes = s.lanes := rfl
@[simp] theorem emit_quadPll (s : State) (k : String) (p : Nat) (d : List Nat) : (s.emit k p d).quadPll = s.quadPll := rfl
@[simp] theorem emit_tfile (s : State) (k : String) (p : Nat) (d : List Nat) : (s.emit k p d).tfile = s.tfile := rfl
@[simp] theorem emit_rx (s : State) (k : String) (p : Nat) (d : List Nat) : (s.emit k p d).rx = s.rx := rfl
@[simp] theorem emit_tx (s : State) (k : String) (p : Nat) (d : List Nat) : (s.emit k p d).tx = s.tx := rfl
@[simp] theorem emit_scp (s : State) (k : String) (p : Nat) (d : List Nat) : (s.emit k p d).scp = s.scp := rfl
@[simp] theorem emit_sta (s : State) (k : String) (p : Nat) (d : List Nat) : (s.emit k p d).sta = s.sta := rfl
@[simp] theorem emit_synW (s : State) (k : String) (p : Nat) (d : List Nat) : (s.emit k p d).synW = s.synW := rfl
@[simp] theorem emit_ana (s : State) (k : String) (p : Nat) (d : List Nat) : (s.emit k p d).ana = s.ana := rfl
@[simp] theorem emit_cmx (s : State) (k : String) (p : Nat) (d : List Nat) : (s.emit k p d).cmx = s.cmx := rfl
@[simp] theorem emit_opk (s : State) (k : String) (p : Nat) (d : List Nat) : (s.emit k p d).opk = s.opk := rfl
@[simp] theorem emit_sdiOut (s : State) (k : String) (p : Nat) (d : List Nat) : (s.emit k p d).sdiOut = s.sdiOut := rfl
@[simp] theorem emit_sdiIn (s : State) (k : String) (p : Nat) (d : List Nat) : (s.emit k p d).sdiIn = s.sdiIn := rfl
@[simp] theorem emit_tg (s : State) (k : String) (p : Nat) (d : List Nat) : (s.emit k p d).tg = s.tg := rfl
@[simp] theorem emit_vce (s : State) (k : String) (p : Nat) (d : List Nat) : (s.emit k p d).vce = s.vce := rfl
@[simp] theorem emit_vceOrder (s : State) (k : String) (p : Nat) (d : List Nat) : (s.emit k p d).vceOrder = s.vceOrder := rfl
@[simp] theorem emit_cmp (s : State) (k : String) (p : Nat) (d : List Nat) : (s.emit k p d).cmp = s.cmp := rfl
@[simp] theorem emit_cmpOrder (s : State) (k : String) (p : Nat) (d : List Nat) : (s.emit k p d).cmpOrder = s.cmpOrder := rfl
@[simp] theorem emit_cmpDone (s : State) (k : String) (p : Nat) (d : List Nat) : (s.emit k p d).cmpDone = s.cmpDone := rfl
@[simp] theorem emit_dram (s : State) (k : String) (p : Nat) (d : List Nat) : (s.emit k p d).dram = s.dram := rfl
@[simp] theorem emit_steepC (s : State) (k : String) (p : Nat) (d : List Nat) : (s.emit k p d).steepC = s.steepC := rfl
@[simp] theorem emit_steepPool (s : State) (k : String) (p : Nat) (d : List Nat) : (s.emit k p d).steepPool = s.steepPool := rfl
@[simp] theorem emit_steepWait (s : State) (k : String) (p : Nat) (d : List Nat) : (s.emit k p d).steepWait = s.steepWait := rfl
@[simp] theorem emit_caddy (s : State) (k : String) (p : Nat) (d : List Nat) : (s.emit k p d).caddy = s.caddy := rfl
@[simp] theorem emit_dma (s : State) (k : String) (p : Nat) (d : List Nat) : (s.emit k p d).dma = s.dma := rfl
@[simp] theorem emit_eth (s : State) (k : String) (p : Nat) (d : List Nat) : (s.emit k p d).eth = s.eth := rfl
@[simp] theorem emit_ccp (s : State) (k : String) (p : Nat) (d : List Nat) : (s.emit k p d).ccp = s.ccp := rfl
@[simp] theorem emit_tim (s : State) (k : String) (p : Nat) (d : List Nat) : (s.emit k p d).tim = s.tim := rfl
@[simp] theorem emit_aud (s : State) (k : String) (p : Nat) (d : List Nat) : (s.emit k p d).aud = s.aud := rfl
@[simp] theorem emit_str (s : State) (k : String) (p : Nat) (d : List Nat) : (s.emit k p d).str = s.str := rfl
@[simp] theorem emit_power (s : State) (k : String) (p : Nat) (d : List Nat) : (s.emit k p d).power = s.power := rfl
@[simp] theorem emit_thermal (s : State) (k : String) (p : Nat) (d : List Nat) : (s.emit k p d).thermal = s.thermal := rfl
@[simp] theorem emit_xtal (s : State) (k : String) (p : Nat) (d : List Nat) : (s.emit k p d).xtal = s.xtal := rfl
@[simp] theorem emit_jtag (s : State) (k : String) (p : Nat) (d : List Nat) : (s.emit k p d).jtag = s.jtag := rfl
@[simp] theorem emit_sec (s : State) (k : String) (p : Nat) (d : List Nat) : (s.emit k p d).sec = s.sec := rfl
@[simp] theorem emit_boot (s : State) (k : String) (p : Nat) (d : List Nat) : (s.emit k p d).boot = s.boot := rfl
@[simp] theorem setBytes_regs (s : State) (a : Nat) (l : List Byte) : (s.setBytes a l).regs = s.regs := rfl
@[simp] theorem setBytes_cur (s : State) (a : Nat) (l : List Byte) : (s.setBytes a l).cur = s.cur := rfl
@[simp] theorem setBytes_badPar (s : State) (a : Nat) (l : List Byte) : (s.setBytes a l).badPar = s.badPar := rfl
@[simp] theorem setBytes_pending (s : State) (a : Nat) (l : List Byte) : (s.setBytes a l).pending = s.pending := rfl
@[simp] theorem setBytes_free (s : State) (a : Nat) (l : List Byte) : (s.setBytes a l).free = s.free := rfl
@[simp] theorem setBytes_rdata (s : State) (a : Nat) (l : List Byte) : (s.setBytes a l).rdata = s.rdata := rfl
@[simp] theorem setBytes_out (s : State) (a : Nat) (l : List Byte) : (s.setBytes a l).out = s.out := rfl
@[simp] theorem setBytes_time (s : State) (a : Nat) (l : List Byte) : (s.setBytes a l).time = s.time := rfl
@[simp] theorem setBytes_evt (s : State) (a : Nat) (l : List Byte) : (s.setBytes a l).evt = s.evt := rfl
@[simp] theorem setBytes_tlb (s : State) (a : Nat) (l : List Byte) : (s.setBytes a l).tlb = s.tlb := rfl
@[simp] theorem setBytes_active (s : State) (a : Nat) (l : List Byte) : (s.setBytes a l).active = s.active := rfl
@[simp] theorem setBytes_load (s : State) (a : Nat) (l : List Byte) : (s.setBytes a l).load = s.load := rfl
@[simp] theorem setBytes_latched (s : State) (a : Nat) (l : List Byte) : (s.setBytes a l).latched = s.latched := rfl
@[simp] theorem setBytes_tabs (s : State) (a : Nat) (l : List Byte) : (s.setBytes a l).tabs = s.tabs := rfl
@[simp] theorem setBytes_roots (s : State) (a : Nat) (l : List Byte) : (s.setBytes a l).roots = s.roots := rfl
@[simp] theorem setBytes_brews (s : State) (a : Nat) (l : List Byte) : (s.setBytes a l).brews = s.brews := rfl
@[simp] theorem setBytes_lanes (s : State) (a : Nat) (l : List Byte) : (s.setBytes a l).lanes = s.lanes := rfl
@[simp] theorem setBytes_quadPll (s : State) (a : Nat) (l : List Byte) : (s.setBytes a l).quadPll = s.quadPll := rfl
@[simp] theorem setBytes_tfile (s : State) (a : Nat) (l : List Byte) : (s.setBytes a l).tfile = s.tfile := rfl
@[simp] theorem setBytes_rx (s : State) (a : Nat) (l : List Byte) : (s.setBytes a l).rx = s.rx := rfl
@[simp] theorem setBytes_tx (s : State) (a : Nat) (l : List Byte) : (s.setBytes a l).tx = s.tx := rfl
@[simp] theorem setBytes_scp (s : State) (a : Nat) (l : List Byte) : (s.setBytes a l).scp = s.scp := rfl
@[simp] theorem setBytes_sta (s : State) (a : Nat) (l : List Byte) : (s.setBytes a l).sta = s.sta := rfl
@[simp] theorem setBytes_synW (s : State) (a : Nat) (l : List Byte) : (s.setBytes a l).synW = s.synW := rfl
@[simp] theorem setBytes_ana (s : State) (a : Nat) (l : List Byte) : (s.setBytes a l).ana = s.ana := rfl
@[simp] theorem setBytes_cmx (s : State) (a : Nat) (l : List Byte) : (s.setBytes a l).cmx = s.cmx := rfl
@[simp] theorem setBytes_opk (s : State) (a : Nat) (l : List Byte) : (s.setBytes a l).opk = s.opk := rfl
@[simp] theorem setBytes_sdiOut (s : State) (a : Nat) (l : List Byte) : (s.setBytes a l).sdiOut = s.sdiOut := rfl
@[simp] theorem setBytes_sdiIn (s : State) (a : Nat) (l : List Byte) : (s.setBytes a l).sdiIn = s.sdiIn := rfl
@[simp] theorem setBytes_tg (s : State) (a : Nat) (l : List Byte) : (s.setBytes a l).tg = s.tg := rfl
@[simp] theorem setBytes_vce (s : State) (a : Nat) (l : List Byte) : (s.setBytes a l).vce = s.vce := rfl
@[simp] theorem setBytes_vceOrder (s : State) (a : Nat) (l : List Byte) : (s.setBytes a l).vceOrder = s.vceOrder := rfl
@[simp] theorem setBytes_cmp (s : State) (a : Nat) (l : List Byte) : (s.setBytes a l).cmp = s.cmp := rfl
@[simp] theorem setBytes_cmpOrder (s : State) (a : Nat) (l : List Byte) : (s.setBytes a l).cmpOrder = s.cmpOrder := rfl
@[simp] theorem setBytes_cmpDone (s : State) (a : Nat) (l : List Byte) : (s.setBytes a l).cmpDone = s.cmpDone := rfl
@[simp] theorem setBytes_dram (s : State) (a : Nat) (l : List Byte) : (s.setBytes a l).dram = s.dram := rfl
@[simp] theorem setBytes_steepC (s : State) (a : Nat) (l : List Byte) : (s.setBytes a l).steepC = s.steepC := rfl
@[simp] theorem setBytes_steepPool (s : State) (a : Nat) (l : List Byte) : (s.setBytes a l).steepPool = s.steepPool := rfl
@[simp] theorem setBytes_steepWait (s : State) (a : Nat) (l : List Byte) : (s.setBytes a l).steepWait = s.steepWait := rfl
@[simp] theorem setBytes_caddy (s : State) (a : Nat) (l : List Byte) : (s.setBytes a l).caddy = s.caddy := rfl
@[simp] theorem setBytes_dma (s : State) (a : Nat) (l : List Byte) : (s.setBytes a l).dma = s.dma := rfl
@[simp] theorem setBytes_eth (s : State) (a : Nat) (l : List Byte) : (s.setBytes a l).eth = s.eth := rfl
@[simp] theorem setBytes_ccp (s : State) (a : Nat) (l : List Byte) : (s.setBytes a l).ccp = s.ccp := rfl
@[simp] theorem setBytes_tim (s : State) (a : Nat) (l : List Byte) : (s.setBytes a l).tim = s.tim := rfl
@[simp] theorem setBytes_aud (s : State) (a : Nat) (l : List Byte) : (s.setBytes a l).aud = s.aud := rfl
@[simp] theorem setBytes_str (s : State) (a : Nat) (l : List Byte) : (s.setBytes a l).str = s.str := rfl
@[simp] theorem setBytes_power (s : State) (a : Nat) (l : List Byte) : (s.setBytes a l).power = s.power := rfl
@[simp] theorem setBytes_thermal (s : State) (a : Nat) (l : List Byte) : (s.setBytes a l).thermal = s.thermal := rfl
@[simp] theorem setBytes_xtal (s : State) (a : Nat) (l : List Byte) : (s.setBytes a l).xtal = s.xtal := rfl
@[simp] theorem setBytes_jtag (s : State) (a : Nat) (l : List Byte) : (s.setBytes a l).jtag = s.jtag := rfl
@[simp] theorem setBytes_sec (s : State) (a : Nat) (l : List Byte) : (s.setBytes a l).sec = s.sec := rfl
@[simp] theorem setBytes_boot (s : State) (a : Nat) (l : List Byte) : (s.setBytes a l).boot = s.boot := rfl
@[simp] theorem setBit_cur (s : State) (f : Fld) (k : Nat) (x : Bool) : (s.setBit f k x).cur = s.cur := by cases x <;> rfl
@[simp] theorem setBit_mem (s : State) (f : Fld) (k : Nat) (x : Bool) : (s.setBit f k x).mem = s.mem := by cases x <;> rfl
@[simp] theorem setBit_badPar (s : State) (f : Fld) (k : Nat) (x : Bool) : (s.setBit f k x).badPar = s.badPar := by cases x <;> rfl
@[simp] theorem setBit_pending (s : State) (f : Fld) (k : Nat) (x : Bool) : (s.setBit f k x).pending = s.pending := by cases x <;> rfl
@[simp] theorem setBit_free (s : State) (f : Fld) (k : Nat) (x : Bool) : (s.setBit f k x).free = s.free := by cases x <;> rfl
@[simp] theorem setBit_rdata (s : State) (f : Fld) (k : Nat) (x : Bool) : (s.setBit f k x).rdata = s.rdata := by cases x <;> rfl
@[simp] theorem setBit_out (s : State) (f : Fld) (k : Nat) (x : Bool) : (s.setBit f k x).out = s.out := by cases x <;> rfl
@[simp] theorem setBit_time (s : State) (f : Fld) (k : Nat) (x : Bool) : (s.setBit f k x).time = s.time := by cases x <;> rfl
@[simp] theorem setBit_evt (s : State) (f : Fld) (k : Nat) (x : Bool) : (s.setBit f k x).evt = s.evt := by cases x <;> rfl
@[simp] theorem setBit_tlb (s : State) (f : Fld) (k : Nat) (x : Bool) : (s.setBit f k x).tlb = s.tlb := by cases x <;> rfl
@[simp] theorem setBit_active (s : State) (f : Fld) (k : Nat) (x : Bool) : (s.setBit f k x).active = s.active := by cases x <;> rfl
@[simp] theorem setBit_load (s : State) (f : Fld) (k : Nat) (x : Bool) : (s.setBit f k x).load = s.load := by cases x <;> rfl
@[simp] theorem setBit_latched (s : State) (f : Fld) (k : Nat) (x : Bool) : (s.setBit f k x).latched = s.latched := by cases x <;> rfl
@[simp] theorem setBit_tabs (s : State) (f : Fld) (k : Nat) (x : Bool) : (s.setBit f k x).tabs = s.tabs := by cases x <;> rfl
@[simp] theorem setBit_roots (s : State) (f : Fld) (k : Nat) (x : Bool) : (s.setBit f k x).roots = s.roots := by cases x <;> rfl
@[simp] theorem setBit_brews (s : State) (f : Fld) (k : Nat) (x : Bool) : (s.setBit f k x).brews = s.brews := by cases x <;> rfl
@[simp] theorem setBit_lanes (s : State) (f : Fld) (k : Nat) (x : Bool) : (s.setBit f k x).lanes = s.lanes := by cases x <;> rfl
@[simp] theorem setBit_quadPll (s : State) (f : Fld) (k : Nat) (x : Bool) : (s.setBit f k x).quadPll = s.quadPll := by cases x <;> rfl
@[simp] theorem setBit_tfile (s : State) (f : Fld) (k : Nat) (x : Bool) : (s.setBit f k x).tfile = s.tfile := by cases x <;> rfl
@[simp] theorem setBit_rx (s : State) (f : Fld) (k : Nat) (x : Bool) : (s.setBit f k x).rx = s.rx := by cases x <;> rfl
@[simp] theorem setBit_tx (s : State) (f : Fld) (k : Nat) (x : Bool) : (s.setBit f k x).tx = s.tx := by cases x <;> rfl
@[simp] theorem setBit_scp (s : State) (f : Fld) (k : Nat) (x : Bool) : (s.setBit f k x).scp = s.scp := by cases x <;> rfl
@[simp] theorem setBit_sta (s : State) (f : Fld) (k : Nat) (x : Bool) : (s.setBit f k x).sta = s.sta := by cases x <;> rfl
@[simp] theorem setBit_synW (s : State) (f : Fld) (k : Nat) (x : Bool) : (s.setBit f k x).synW = s.synW := by cases x <;> rfl
@[simp] theorem setBit_ana (s : State) (f : Fld) (k : Nat) (x : Bool) : (s.setBit f k x).ana = s.ana := by cases x <;> rfl
@[simp] theorem setBit_cmx (s : State) (f : Fld) (k : Nat) (x : Bool) : (s.setBit f k x).cmx = s.cmx := by cases x <;> rfl
@[simp] theorem setBit_opk (s : State) (f : Fld) (k : Nat) (x : Bool) : (s.setBit f k x).opk = s.opk := by cases x <;> rfl
@[simp] theorem setBit_sdiOut (s : State) (f : Fld) (k : Nat) (x : Bool) : (s.setBit f k x).sdiOut = s.sdiOut := by cases x <;> rfl
@[simp] theorem setBit_sdiIn (s : State) (f : Fld) (k : Nat) (x : Bool) : (s.setBit f k x).sdiIn = s.sdiIn := by cases x <;> rfl
@[simp] theorem setBit_tg (s : State) (f : Fld) (k : Nat) (x : Bool) : (s.setBit f k x).tg = s.tg := by cases x <;> rfl
@[simp] theorem setBit_vce (s : State) (f : Fld) (k : Nat) (x : Bool) : (s.setBit f k x).vce = s.vce := by cases x <;> rfl
@[simp] theorem setBit_vceOrder (s : State) (f : Fld) (k : Nat) (x : Bool) : (s.setBit f k x).vceOrder = s.vceOrder := by cases x <;> rfl
@[simp] theorem setBit_cmp (s : State) (f : Fld) (k : Nat) (x : Bool) : (s.setBit f k x).cmp = s.cmp := by cases x <;> rfl
@[simp] theorem setBit_cmpOrder (s : State) (f : Fld) (k : Nat) (x : Bool) : (s.setBit f k x).cmpOrder = s.cmpOrder := by cases x <;> rfl
@[simp] theorem setBit_cmpDone (s : State) (f : Fld) (k : Nat) (x : Bool) : (s.setBit f k x).cmpDone = s.cmpDone := by cases x <;> rfl
@[simp] theorem setBit_dram (s : State) (f : Fld) (k : Nat) (x : Bool) : (s.setBit f k x).dram = s.dram := by cases x <;> rfl
@[simp] theorem setBit_steepC (s : State) (f : Fld) (k : Nat) (x : Bool) : (s.setBit f k x).steepC = s.steepC := by cases x <;> rfl
@[simp] theorem setBit_steepPool (s : State) (f : Fld) (k : Nat) (x : Bool) : (s.setBit f k x).steepPool = s.steepPool := by cases x <;> rfl
@[simp] theorem setBit_steepWait (s : State) (f : Fld) (k : Nat) (x : Bool) : (s.setBit f k x).steepWait = s.steepWait := by cases x <;> rfl
@[simp] theorem setBit_caddy (s : State) (f : Fld) (k : Nat) (x : Bool) : (s.setBit f k x).caddy = s.caddy := by cases x <;> rfl
@[simp] theorem setBit_dma (s : State) (f : Fld) (k : Nat) (x : Bool) : (s.setBit f k x).dma = s.dma := by cases x <;> rfl
@[simp] theorem setBit_eth (s : State) (f : Fld) (k : Nat) (x : Bool) : (s.setBit f k x).eth = s.eth := by cases x <;> rfl
@[simp] theorem setBit_ccp (s : State) (f : Fld) (k : Nat) (x : Bool) : (s.setBit f k x).ccp = s.ccp := by cases x <;> rfl
@[simp] theorem setBit_tim (s : State) (f : Fld) (k : Nat) (x : Bool) : (s.setBit f k x).tim = s.tim := by cases x <;> rfl
@[simp] theorem setBit_aud (s : State) (f : Fld) (k : Nat) (x : Bool) : (s.setBit f k x).aud = s.aud := by cases x <;> rfl
@[simp] theorem setBit_str (s : State) (f : Fld) (k : Nat) (x : Bool) : (s.setBit f k x).str = s.str := by cases x <;> rfl
@[simp] theorem setBit_power (s : State) (f : Fld) (k : Nat) (x : Bool) : (s.setBit f k x).power = s.power := by cases x <;> rfl
@[simp] theorem setBit_thermal (s : State) (f : Fld) (k : Nat) (x : Bool) : (s.setBit f k x).thermal = s.thermal := by cases x <;> rfl
@[simp] theorem setBit_xtal (s : State) (f : Fld) (k : Nat) (x : Bool) : (s.setBit f k x).xtal = s.xtal := by cases x <;> rfl
@[simp] theorem setBit_jtag (s : State) (f : Fld) (k : Nat) (x : Bool) : (s.setBit f k x).jtag = s.jtag := by cases x <;> rfl
@[simp] theorem setBit_sec (s : State) (f : Fld) (k : Nat) (x : Bool) : (s.setBit f k x).sec = s.sec := by cases x <;> rfl
@[simp] theorem setBit_boot (s : State) (f : Fld) (k : Nat) (x : Bool) : (s.setBit f k x).boot = s.boot := by cases x <;> rfl

theorem putB_eq (s : State) (f : Fld) (b : Bool) : s.putB f b = s.put f (if b then 1 else 0) := rfl
theorem bump_eq (s : State) (f : Fld) : s.bump f = s.put f (min (s.get f + 1) f.max) := rfl
theorem incr_eq (s : State) (f : Fld) : s.incr f = s.put f (s.get f + 1) := rfl
theorem irq_eq (s : State) (k : Nat) : s.irq k = s.setBit F.CPU_IRQ_STAT.SRC k true := rfl
theorem latchWake_eq (s : State) (k : Nat) : s.latchWake k = s.setBit F.PWR_WAKE_CAUSE.CAUSE k true := rfl

/-! ### Registers and fields -/

@[simp] theorem reg_wreg_same (s : State) (o : Nat) (w : Word) : (s.wreg o w).reg o = w := sget_sset_same _ _ _ _

theorem reg_wreg_other (s : State) (w : Word) {o p : Nat} (h : p ≠ o) : (s.wreg o w).reg p = s.reg p :=
  sget_sset_other _ _ _ _ h

theorem reg_put_other (s : State) (v : Nat) {f : Fld} {p : Nat} (h : p ≠ f.reg) : (s.put f v).reg p = s.reg p := reg_wreg_other s _ h

/-- A field lies in a 32-bit register. -/
def Fld.Ok (f : Fld) : Prop := f.lo ≤ f.hi ∧ f.hi < 32

/-- Two fields share no bit. -/
def Fld.Apart (f g : Fld) : Prop := f.reg ≠ g.reg ∨ (f.Ok ∧ g.Ok ∧ (g.hi < f.lo ∨ f.hi < g.lo))

theorem get_put_same (s : State) {f : Fld} (h : f.Ok) (v : Nat) : (s.put f v).get f = v % 2 ^ (f.hi - f.lo + 1) := by
  unfold State.put State.get
  rw [reg_wreg_same]
  exact getBits_setBits_same _ h.1 h.2 v

theorem get_put_apart (s : State) {f g : Fld} (h : f.Apart g) (v : Nat) : (s.put f v).get g = s.get g := by
  unfold State.get
  by_cases hr : g.reg = f.reg
  · rcases h with h | ⟨a, b, c⟩
    · exact absurd hr.symm h
    · unfold State.put
      rw [hr, reg_wreg_same]
      exact getBits_setBits_other _ a.1 a.2 b.1 b.2 c v
  · rw [reg_put_other s v hr]

theorem on_put_apart (s : State) {f g : Fld} (h : f.Apart g) (v : Nat) : (s.put f v).on g = s.on g := by
  unfold State.on; rw [get_put_apart s h v]

theorem get_lt (s : State) {f : Fld} (h : f.Ok) : s.get f < 2 ^ (f.hi - f.lo + 1) := getBits_lt _ h.1 h.2

/-! ### When a command acts -/

/-- Where the block runs, a command that a freeze stops has its effect. -/
theorem running_next {s : State} (h : s.dark = false) (t : State) : s.running t = .next t := by
  unfold State.running; rw [h]; rfl

theorem andThen_nil (s : State) : s.andThen [] = s := rfl
theorem andThen_cons (s : State) (f : State → State) (l : List (State → State)) : s.andThen (f :: l) = (f s).andThen l := rfl
theorem when_true (s : State) (f : State → State) : s.when true f = f s := rfl
theorem when_false (s : State) (f : State → State) : s.when false f = s := rfl

end Sys2Proof.Machine
end

