-- ==== Sys2Proof/Laws/Ops.lean ====
section
/-! SUPPORT. What each shared operation can do: bits of fields, posting an event, memory bytes, a register write that is
guarded by its domain. -/

namespace Sys2Proof.Machine

/-! ### Bits of fields -/

theorem get_setBit_apart (s : State) {f g : Fld} (h : f.Apart g) (k : Nat) (b : Bool) : (s.setBit f k b).get g = s.get g := by
  cases b <;> exact get_put_apart s h _

theorem reg_setBit_other (s : State) (k : Nat) (b : Bool) {f : Fld} {p : Nat} (h : p ≠ f.reg) : (s.setBit f k b).reg p = s.reg p := by
  cases b <;> exact reg_put_other s _ h

/-- A bit set reads 1. -/
theorem bit_setBit_true (s : State) {f : Fld} (h : f.Ok) {k : Nat} (hk : k ≤ f.hi - f.lo) : (s.setBit f k true).bit f k = true := by
  unfold State.bit State.setBit
  rw [if_pos rfl, get_put_same s h, Nat.testBit_mod_two_pow, Nat.testBit_or, Nat.testBit_two_pow_self]
  simp; omega

/-- Setting a bit leaves the others. -/
theorem bit_setBit_other (s : State) {f : Fld} (h : f.Ok) {j k : Nat} (hj : j ≠ k) : (s.setBit f k true).bit f j = s.bit f j := by
  unfold State.bit State.setBit
  rw [if_pos rfl, get_put_same s h, Nat.testBit_mod_two_pow, Nat.testBit_or, Nat.testBit_two_pow_of_ne (Ne.symm hj)]
  by_cases a : j < f.hi - f.lo + 1
  · simp [a]
  · have : (s.get f).testBit j = false := Nat.testBit_lt_two_pow (Nat.lt_of_lt_of_le (get_lt s h) (Nat.pow_le_pow_right (by decide) (by omega)))
    simp [a, this]

/-! ### Posting an event -/

/-- What posting may change: the intake, the suppressed counts, the loss counts and the wake causes. -/
structure Posted (s t : State) : Prop where
  rest : t = { s with evt := { s.evt with intake := t.evt.intake, supp := t.evt.supp }, regs := t.regs }
  regs : ∀ off, off ≠ R.EVT_LOSS → off ≠ R.PWR_WAKE_CAUSE → t.reg off = s.reg off

theorem Posted.rfl' (s : State) : Posted s s := ⟨rfl, fun _ _ _ => rfl⟩

theorem posted_put (s : State) {f : Fld} (v : Nat) (h : f.reg = R.EVT_LOSS ∨ f.reg = R.PWR_WAKE_CAUSE) : Posted s (s.put f v) :=
  ⟨rfl, fun off a b => reg_put_other s v (by rcases h with h | h <;> rw [h] <;> assumption)⟩

theorem Posted.trans {a b c : State} (h : Posted a b) (g : Posted b c) : Posted a c :=
  ⟨by rw [g.rest, h.rest], fun off x y => (g.regs off x y).trans (h.regs off x y)⟩

theorem posted_coalesce (s : State) (e : Event) : Posted s (s.coalesce e) := by
  unfold State.coalesce
  split
  · exact ⟨rfl, fun _ _ _ => rfl⟩
  · split
    · exact ⟨rfl, fun _ _ _ => rfl⟩
    · exact posted_put s _ (.inl rfl)

theorem posted_intake (s : State) (e : Event) : Posted s (s.intake e) := by
  unfold State.intake
  split
  · exact posted_put s _ (.inl rfl)
  · generalize (if 6 ≤ e.sev then 64 else 56) = n
    split
    · exact ⟨rfl, fun _ _ _ => rfl⟩
    · exact posted_coalesce s e

theorem posted_post (s : State) (src : Nat) (sev : Fin 8) (cat det data : Nat) : Posted s (s.post src sev cat det data) := by
  unfold State.post
  refine Posted.trans ?_ (posted_intake _ _)
  unfold State.when
  split
  · exact posted_put s _ (.inr rfl)
  · exact Posted.rfl' s

theorem Posted.get {s t : State} (h : Posted s t) {f : Fld} (a : f.reg ≠ R.EVT_LOSS) (b : f.reg ≠ R.PWR_WAKE_CAUSE) : t.get f = s.get f := by
  unfold State.get; rw [h.regs _ a b]

/-- Posting leaves every field that is neither a loss count nor a wake cause. -/
theorem get_post (s : State) (src : Nat) (sev : Fin 8) (cat det data : Nat) {f : Fld} (a : f.reg ≠ R.EVT_LOSS) (b : f.reg ≠ R.PWR_WAKE_CAUSE) :
    (s.post src sev cat det data).get f = s.get f := (posted_post s src sev cat det data).get a b

/-! ### Guarded register writes -/

theorem guardWrite_open {s : State} {off : Nat} (h : s.reachable off = true) (g : s.heldPage off = false) (k : s.ctxPage off = false)
    (f : State → State) : s.guardWrite off f = f (s.touchDomain off) := by
  unfold State.guardWrite
  simp [h, g, k]

theorem guardRead_open {s : State} {off : Nat} (h : s.reachable off = true) (k : s.ctxPage off = false) (f : State → Word × State) :
    s.guardRead off f = f (s.touchDomain off) := by
  unfold State.guardRead
  simp only [k, Bool.false_eq_true, if_false]
  split <;> simp [h]

/-! ### Plain register writes (R6, R552) -/

theorem lockEvent_posted (s : State) (src off : Nat) (v : Word) : Posted s (s.lockEvent src off v) := by
  unfold State.lockEvent
  split
  · exact Posted.rfl' s
  · split
    · exact posted_post s _ _ _ _ _
    · exact Posted.rfl' s

theorem plainWrite_reg (s : State) (src off : Nat) (v : Word) :
    (s.plainWrite src off v).reg off = s.written off v ∧
    ∀ o, o ∉ [off, R.EVT_LOSS, R.PWR_WAKE_CAUSE] → (s.plainWrite src off v).reg o = s.reg o := by
  unfold State.plainWrite
  refine ⟨reg_wreg_same _ _ _, fun o h => ?_⟩
  simp only [List.mem_cons, List.not_mem_nil, or_false, not_or] at h
  rw [reg_wreg_other _ _ h.1, (lockEvent_posted s src off v).regs o h.2.1 h.2.2]

/-- What a plain write can change: the register, and what an event of SYS_LOCK changes. -/
theorem plainWrite_rest (s : State) (src off : Nat) (v : Word) :
    s.plainWrite src off v = { s with
      evt := { s.evt with intake := (s.plainWrite src off v).evt.intake, supp := (s.plainWrite src off v).evt.supp }
      regs := (s.plainWrite src off v).regs } :=
  congrArg (fun t : State => { t with regs := (s.plainWrite src off v).regs }) (lockEvent_posted s src off v).rest

/-! ### Memory bytes (R10) -/

theorem mem_cellsOf {a : Nat} {l : List Byte} {e : Host.Cell} (h : e ∈ cellsOf a l) : a ≤ e.1 ∧ e.1 < a + l.length ∧ e.2 ≠ memDefault := by
  induction l generalizing a with
  | nil => cases h
  | cons b r ih =>
    unfold cellsOf at h
    split at h
    · have := ih h; simp only [List.length_cons]; exact ⟨by omega, by omega, this.2.2⟩
    · rename_i hb
      rcases List.mem_cons.1 h with rfl | h
      · exact ⟨Nat.le_refl _, by simp, hb⟩
      · have := ih h; simp only [List.length_cons]; exact ⟨by omega, by omega, this.2.2⟩

theorem canonical_cellsOf (a : Nat) (l : List Byte) : Canonical memDefault (cellsOf a l) = true := by
  induction l generalizing a with
  | nil => rfl
  | cons b r ih =>
    unfold cellsOf
    split
    · exact ih (a + 1)
    · rename_i hb
      exact canonical_cons.2 ⟨fun e he => by have := mem_cellsOf he; omega, hb, ih (a + 1)⟩

theorem sget_cellsOf (a : Nat) (l : List Byte) (i : Nat) : sget memDefault (cellsOf a l) (a + i) = l.getD i memDefault := by
  induction l generalizing a i with
  | nil => rfl
  | cons b r ih =>
    unfold cellsOf
    cases i with
    | zero =>
      simp only [Nat.add_zero, List.getD_cons_zero]
      split
      · rename_i hb
        rw [hb]
        exact sget_eq_default (fun e he => by have := mem_cellsOf he; omega)
      · simp [sget]
    | succ i =>
      have := ih (a + 1) i
      rw [show a + (i + 1) = a + 1 + i by omega]
      simp only [List.getD_cons_succ]
      split
      · exact this
      · rw [sget, if_neg (by omega)]; exact this

theorem sget_append {α : Type} (d : α) (l m : Sparse α) (x : Nat) :
    sget d (l ++ m) x = if l.any (fun e => e.1 == x) then sget d l x else sget d m x := by
  induction l with
  | nil => rfl
  | cons e r ih =>
    obtain ⟨k, w⟩ := e
    by_cases h : k = x
    · simp [sget, h]
    · have hb : (k == x) = false := by simp [h]
      simp only [List.cons_append, sget, if_neg h, List.any_cons, hb, Bool.false_or, ih]

theorem sget_filter {α : Type} (d : α) (l : Sparse α) (p : Nat × α → Bool) (q : Nat → Bool) (hp : ∀ e, p e = q e.1) (x : Nat) :
    sget d (l.filter p) x = if q x then sget d l x else d := by
  induction l with
  | nil => simp [sget]
  | cons e r ih =>
    obtain ⟨k, w⟩ := e
    by_cases h : k = x
    · subst h
      by_cases hq : q k = true
      · rw [List.filter_cons_of_pos (by rw [hp]; exact hq)]; simp [sget, hq]
      · rw [List.filter_cons_of_neg (by rw [hp]; exact hq), ih]; simp [hq]
    · by_cases hq : q k = true
      · rw [List.filter_cons_of_pos (by rw [hp]; exact hq)]; simp [sget, h, ih]
      · rw [List.filter_cons_of_neg (by rw [hp]; exact hq), ih]; simp [sget, h]

theorem canonical_append {α : Type} [DecidableEq α] {d : α} {l m : Sparse α} (hl : Canonical d l = true) (hm : Canonical d m = true)
    (h : ∀ a ∈ l, ∀ b ∈ m, a.1 < b.1) : Canonical d (l ++ m) = true := by
  rw [canonical_iff] at *
  refine ⟨?_, ?_⟩
  · rw [List.map_append, List.pairwise_append]
    refine ⟨hl.1, hm.1, ?_⟩
    intro a ha b hb
    obtain ⟨x, hx, rfl⟩ := List.mem_map.1 ha
    obtain ⟨y, hy, rfl⟩ := List.mem_map.1 hb
    exact h x hx y hy
  · intro e he
    rcases List.mem_append.1 he with he | he
    · exact hl.2 e he
    · exact hm.2 e he

/-- Replacing a range keeps the canonical form. -/
theorem canonical_scopy {α : Type} [DecidableEq α] {d : α} {src dst : Sparse α} (hs : Canonical d src = true) (hd : Canonical d dst = true)
    (lo hi : Nat) (h : lo ≤ hi) : Canonical d (scopy src dst lo hi) = true := by
  unfold scopy
  refine canonical_append (canonical_append (canonical_filter hd _) (canonical_filter hs _) ?_) (canonical_filter hd _) ?_
  · intro a ha b hb
    have h1 := (List.mem_filter.1 ha).2
    have h2 := (List.mem_filter.1 hb).2
    simp at h1 h2; omega
  · intro a ha b hb
    have h2 := (List.mem_filter.1 hb).2
    rcases List.mem_append.1 ha with ha | ha
    · have h1 := (List.mem_filter.1 ha).2
      simp at h1 h2; omega
    · have h1 := (List.mem_filter.1 ha).2
      simp at h1 h2; omega

theorem any_iff {α : Type} {l : Sparse α} {x : Nat} : l.any (fun e => e.1 == x) = true ↔ ∃ e ∈ l, e.1 = x := by simp

theorem sget_scopy {α : Type} (d : α) (src dst : Sparse α) (lo hi x : Nat) :
    sget d (scopy src dst lo hi) x = if lo ≤ x ∧ x < hi then sget d src x else sget d dst x := by
  unfold scopy
  have fA := fun x => sget_filter d dst (fun e => decide (e.1 < lo)) (fun k => decide (k < lo)) (fun _ => rfl) x
  have fB := fun x => sget_filter d src (fun e => decide (lo ≤ e.1 ∧ e.1 < hi)) (fun k => decide (lo ≤ k ∧ k < hi)) (fun _ => rfl) x
  have fC := fun x => sget_filter d dst (fun e => decide (hi ≤ e.1)) (fun k => decide (hi ≤ k)) (fun _ => rfl) x
  rw [List.append_assoc, sget_append]
  split
  · rename_i ha
    obtain ⟨e, he, rfl⟩ := any_iff.1 ha
    have h1 := (List.mem_filter.1 he).2
    simp at h1
    rw [fA, if_pos (by simp [h1]), if_neg (by omega)]
  · rename_i ha
    rw [sget_append]
    split
    · rename_i hb
      obtain ⟨e, he, rfl⟩ := any_iff.1 hb
      have h1 := (List.mem_filter.1 he).2
      simp at h1
      rw [fB, if_pos (by simp [h1]), if_pos h1]
    · rename_i hb
      rw [fC]
      by_cases c : lo ≤ x ∧ x < hi
      · rw [if_neg (by simp; omega), if_pos c]
        refine (sget_eq_default (fun e he hx => hb (any_iff.2 ⟨e, List.mem_filter.2 ⟨he, ?_⟩, hx⟩))).symm
        simp; omega
      · by_cases c2 : hi ≤ x
        · rw [if_pos (by simp [c2]), if_neg c]
        · rw [if_neg (by simp [c2]), if_neg c]
          refine (sget_eq_default (fun e he hx => ha (any_iff.2 ⟨e, List.mem_filter.2 ⟨he, ?_⟩, hx⟩))).symm
          simp; omega

/-- Storing bytes: each stored byte reads as written, every other as before. -/
theorem byte_setBytes (s : State) (a : Nat) (l : List Byte) (x : Nat) :
    (s.setBytes a l).byte x = if a ≤ x ∧ x < a + l.length then l.getD (x - a) memDefault else s.byte x := by
  unfold State.byte State.setBytes
  simp only
  rw [sget_scopy]
  split
  · rename_i h
    have := sget_cellsOf a l (x - a)
    rwa [show a + (x - a) = x by omega] at this
  · rfl

/-- Storing bytes keeps memory canonical. -/
theorem wf_setBytes (s : State) (a : Nat) (l : List Byte) (h : Memory.wf s.mem = true) : Memory.wf (s.setBytes a l).mem = true :=
  canonical_scopy (canonical_cellsOf a l) h _ _ (by omega)

theorem wf_setByte (s : State) (a : Nat) (b : Byte) (h : Memory.wf s.mem = true) : Memory.wf (s.setByte a b).mem = true :=
  canonical_sset h

theorem wf_reset : Memory.wf State.reset.mem = true := by decide

/-- Equal memories are equal data. -/
theorem memory_ext {m n : List Host.Cell} (hm : Memory.wf m = true) (hn : Memory.wf n = true) (h : ∀ a, sget memDefault m a = sget memDefault n a) : m = n :=
  canonical_ext hm hn h

end Sys2Proof.Machine
end

