-- ==== Sys2Proof/Laws/Power.lean ====
section
/-! SUPPORT. What bringing a domain up can change, and a command's access to a register that is reached. -/

namespace Sys2Proof.Machine

/-- A guarded write that is reached acts in the state after the demand. -/
theorem Reaches.next {s u : State} {off : Nat} (h : Reaches s off u) (f : State → State) : s.running (s.guardWrite off f) = .next (f u) := by
  rw [guardWrite_open h.on h.free h.page, ← h.state, running_next h.awake]

theorem Reads.next {s u : State} {off : Nat} (h : Reads s off u) (f : State → Word × State) :
    s.running (State.answer (s.guardRead off f)) = .next (State.answer (f u)) := by
  rw [guardRead_open h.on h.page, ← h.state, running_next h.awake]

theorem Reaches.reads {s u : State} {off : Nat} (h : Reaches s off u) : Reads s off u := ⟨h.awake, h.on, h.page, h.state⟩

theorem PowersOnly.rfl' (s : State) : PowersOnly s s := ⟨rfl, fun _ _ _ => rfl⟩

theorem PowersOnly.trans {a b c : State} (h : PowersOnly a b) (g : PowersOnly b c) : PowersOnly a c :=
  ⟨by rw [g.1, h.1], fun off x y => (g.2 off x y).trans (h.2 off x y)⟩

theorem powersOnly_put (s : State) {f : Fld} (v : Nat)
    (h : (0x160000 ≤ f.reg ∧ f.reg < 0x170000) ∨ (0x120000 ≤ f.reg ∧ f.reg < 0x122000)) : PowersOnly s (s.put f v) :=
  ⟨rfl, fun off a b => reg_put_other s v (by rintro rfl; omega)⟩

theorem dom_reg {d : Nat} (h : d < 256) : 0x160000 ≤ (F.PWR_DOM.STATE d).reg ∧ (F.PWR_DOM.STATE d).reg < 0x170000 := by
  show 0x160000 ≤ R.PWR_DOM d ∧ R.PWR_DOM d < 0x170000; unfold R.PWR_DOM; omega

theorem powersOnly_loadMac (s : State) (d : Nat) : PowersOnly s (s.loadMac d) := by
  unfold State.loadMac
  split
  · rename_i h
    have : d - 124 = 0 ∨ d - 124 = 1 := by omega
    rcases this with e | e <;> rw [e] <;>
      exact (powersOnly_put _ _ (.inr (by decide))).trans (powersOnly_put _ _ (.inr (by decide)))
  · exact PowersOnly.rfl' s

theorem powersOnly_countOn (s : State) (d : Nat) : PowersOnly s (s.countOn d) := ⟨rfl, fun _ _ _ => rfl⟩

theorem powersOnly_domainOn (s : State) {d : Nat} (h : d < 256) : PowersOnly s (s.domainOn d) := by
  unfold State.domainOn
  split
  · exact PowersOnly.rfl' s
  · simp only [andThen_cons, andThen_nil]
    refine (powersOnly_loadMac s d).trans ((powersOnly_countOn _ d).trans ?_)
    exact (powersOnly_put _ _ (.inl (dom_reg h))).trans (powersOnly_put _ _ (.inl (by decide)))

theorem powersOnly_setBit (s : State) {f : Fld} (k : Nat) (b : Bool) (h : 0x160000 ≤ f.reg ∧ f.reg < 0x170000) : PowersOnly s (s.setBit f k b) := by
  cases b <;> exact powersOnly_put _ _ (.inl h)

theorem segmentOf_lt {d : Nat} : segmentOf d < 256 := by
  unfold segmentOf; repeat' split
  all_goals omega

theorem powersOnly_plls (l : List Nat) (s : State) :
    PowersOnly s (l.foldl (fun s k => (s.startPll k).setBit F.PWR_PLL.LOCK k true) s) := by
  induction l generalizing s with
  | nil => exact PowersOnly.rfl' s
  | cons k r ih =>
    exact ((powersOnly_setBit _ _ _ (by decide)).trans (powersOnly_setBit _ _ _ (by decide))).trans (ih _)

/-- Bringing a domain up writes registers of the power block and, for a port that was Off, its MAC address. -/
theorem powersOnly_bringUp (s : State) {d : Nat} (h : d < 256) : PowersOnly s (s.bringUp d) := by
  unfold State.bringUp
  simp only
  refine (powersOnly_domainOn s (segmentOf_lt (d := d))).trans (PowersOnly.trans ?_ (powersOnly_domainOn _ h))
  exact powersOnly_plls _ _

theorem domainOf_lt {off d : Nat} (h : domainOf off = some d) : d < 256 := by
  unfold domainOf at h
  split at h <;> (repeat' split at h) <;> cases h <;> omega

/-- What the demand of an access changes. -/
theorem powersOnly_touchDomain (s : State) (off : Nat) : PowersOnly s (s.touchDomain off) := by
  unfold State.touchDomain
  split
  · exact PowersOnly.rfl' s
  · rename_i d hd
    split
    · exact powersOnly_bringUp s (domainOf_lt hd)
    · exact PowersOnly.rfl' s

theorem PowersOnly.get {s t : State} (h : PowersOnly s t) {f : Fld} (a : ¬ (0x160000 ≤ f.reg ∧ f.reg < 0x170000)) (b : ¬ (0x120000 ≤ f.reg ∧ f.reg < 0x122000)) :
    t.get f = s.get f := by
  unfold State.get; rw [h.2 _ a b]

theorem changesOnly_put (s : State) (f : Fld) (v : Nat) : ChangesOnly [f.reg] s (s.put f v) :=
  ⟨rfl, fun off h => reg_put_other s v (by simpa using h)⟩

theorem ChangesOnly.trans {l m : List Nat} {a b c : State} (h : ChangesOnly l a b) (g : ChangesOnly m b c) : ChangesOnly (l ++ m) a c :=
  ⟨by rw [g.1, h.1], fun off x => by
    simp only [List.mem_append, not_or] at x
    exact (g.2 off x.2).trans (h.2 off x.1)⟩

theorem ChangesOnly.mono {l m : List Nat} {a b : State} (h : ChangesOnly l a b) (g : ∀ x ∈ l, x ∈ m) : ChangesOnly m a b :=
  ⟨h.1, fun off x => h.2 off (fun y => x (g off y))⟩

theorem ChangesOnly.rfl' (l : List Nat) (s : State) : ChangesOnly l s s := ⟨rfl, fun _ _ => rfl⟩

end Sys2Proof.Machine
end

