-- ==== Sys2Proof/Laws/Commands.lean ====
section
/-! SUPPORT. What statements about commands rest on: a command whose effect is the state itself, a CCP command that its queue
performs, and single bits after a write of a field. -/

namespace Sys2Proof.Machine

/-- A command that leaves the state answers it, awake or not. -/
theorem running_self {s t : State} (h : t = s) : s.running t = .next s := by
  rw [h]; unfold State.running; cases s.dark <;> rfl

/-- The decision for a field of literal place. -/
theorem Fld.ok_of {f : Fld} (h : (Nat.ble f.lo f.hi && Nat.ble (f.hi + 1) 32) = true) : f.Ok := by
  simp only [Bool.and_eq_true, Nat.ble_eq] at h; exact ⟨h.1, h.2⟩

theorem Fld.apart_of {f g : Fld} (a : f.Ok) (b : g.Ok) (h : (Nat.ble (g.hi + 1) f.lo || Nat.ble (f.hi + 1) g.lo) = true) : f.Apart g := by
  simp only [Bool.or_eq_true, Nat.ble_eq] at h; exact .inr ⟨a, b, h⟩

/-- A field written 1 is on. -/
theorem on_put_one (s : State) {f : Fld} (h : f.Ok) : (s.put f 1).on f = true := by
  unfold State.on; rw [get_put_same s h, Nat.one_mod_eq_one.mpr]; · rfl
  have := Nat.pow_le_pow_right (n := 2) (by decide) (show 1 ≤ f.hi - f.lo + 1 by omega); omega

/-- A field written 0 is off. -/
theorem on_put_zero (s : State) {f : Fld} (h : f.Ok) : (s.put f 0).on f = false := by
  unfold State.on; rw [get_put_same s h, Nat.zero_mod]; rfl

/-- A CCP command that its queue performs acts. -/
theorem Performs.next {s : State} {q cid opc : Nat} {c : CcpCmd} (h : Performs s q cid opc c) (act : CcpCmd → State → State) :
    s.running (s.perform q cid opc act) = .next (act c s) := by
  rw [running_next h.awake]; congr 1
  unfold State.perform; rw [h.found]; simp only
  rw [if_neg (by rw [h.live, h.going, h.free]; decide), if_neg (by rw [h.ready]; decide)]

/-- FW_COMMIT of the action that its row names acts. -/
theorem Performs.commit {s : State} {q cid a : Nat} {c : CcpCmd} (h : Performs s q cid 0x85 c) (e : c.f 0x21 1 = a) (act : CcpCmd → State → State) :
    s.running (s.performCommit q cid a act) = .next (act c s) := by
  unfold State.performCommit; rw [h.next]; simp only [e, ↓reduceIte]

/-- A command that changes the index acts once the index access succeeds (R422). -/
theorem withIndex_next {s w : State} {c : CcpCmd} {act : State → State} {u : Unit} (h : s.touchIndex = (.ok u, w)) : s.withIndex c act = act w := by
  unfold State.withIndex; rw [h]

/-- Bit 31 of a word whose writer sets or clears it. -/
theorem setBit31 (v : Word) : (v ||| 0x80000000).getLsbD 31 = true := by rw [BitVec.getLsbD_or]; simp
theorem clearBit31 (v : Word) : (v &&& 0x7FFFFFFF).getLsbD 31 = false := by rw [BitVec.getLsbD_and]; simp

end Sys2Proof.Machine
end

