-- ==== Sys2Proof/Laws/Kept.lean ====
section
/-! SUPPORT. What hardly any operation changes: the time counter, the part of the store that firmware cannot write, the event ring with its
next sequence number, and the queue. One lemma per operation, here for the shared ones. -/

namespace Sys2Proof.Machine

set_option maxRecDepth 4000
set_option linter.unusedVariables false

/-- What hardly any command changes. -/
def State.kept (s : State) := (s.time, s.sec, s.evt.ring, s.evt.nextSeq, s.pending)
theorem kept_mk (s : State) v0 v1 v2 v3 v5 v6 v7 v10 v11 v12 v13 v14 v15 v16 v17 v18 v19 v20 v21 v22 v23 v24 v25 v26 v27 v28 v29 v30 v31 v32 v33 v34 v35 v36 v37 v38 v39 v40 v41 v42 v43 v44 v45 v46 v47 v48 v49 v50 v52 : State.kept (State.mk v0 v1 v2 v3 s.pending v5 v6 v7 s.time s.evt v10 v11 v12 v13 v14 v15 v16 v17 v18 v19 v20 v21 v22 v23 v24 v25 v26 v27 v28 v29 v30 v31 v32 v33 v34 v35 v36 v37 v38 v39 v40 v41 v42 v43 v44 v45 v46 v47 v48 v49 v50 s.sec v52) = s.kept := by cases s; exact (rfl)
theorem kept_evt (s : State) v0 v1 v2 v3 v5 v6 v7 v10 v11 v12 v13 v14 v15 v16 v17 v18 v19 v20 v21 v22 v23 v24 v25 v26 v27 v28 v29 v30 v31 v32 v33 v34 v35 v36 v37 v38 v39 v40 v41 v42 v43 v44 v45 v46 v47 v48 v49 v50 v52 e0 e1 e4 e5 : State.kept (State.mk v0 v1 v2 v3 s.pending v5 v6 v7 s.time (Recorder.mk e0 e1 s.evt.ring s.evt.nextSeq e4 e5) v10 v11 v12 v13 v14 v15 v16 v17 v18 v19 v20 v21 v22 v23 v24 v25 v26 v27 v28 v29 v30 v31 v32 v33 v34 v35 v36 v37 v38 v39 v40 v41 v42 v43 v44 v45 v46 v47 v48 v49 v50 s.sec v52) = s.kept := by cases s; exact (rfl)
theorem kept_ite (c : Prop) [Decidable c] (a b : State) : State.kept (if c then a else b) = if c then a.kept else b.kept := apply_ite _ _ _ _
theorem snd_ite {α β : Type} (c : Prop) [Decidable c] (a b : α × β) : (if c then a else b).2 = if c then a.2 else b.2 := apply_ite _ _ _ _
theorem kept_foldl {α : Type} (f : State → α → State) (h : ∀ s x, State.kept (f s x) = s.kept) (l : List α) (s : State) :
    State.kept (l.foldl f s) = s.kept := by
  induction l generalizing s with
  | nil => rfl
  | cons x r ih => rw [List.foldl_cons, ih, h]
theorem kept_when (s : State) (c : Bool) (f : State → State) (h : (f s).kept = s.kept) : (s.when c f).kept = s.kept := by
  unfold State.when; split
  · exact h
  · rfl

theorem State.wreg_kept : ∀ s a1 a2, State.kept (State.wreg s a1 a2) = State.kept s := by
  intro s a1 a2; unfold State.wreg; simp only [↓kept_mk, kept_mk]
theorem State.put_kept : ∀ s a1 a2, State.kept (State.put s a1 a2) = State.kept s := by
  intro s a1 a2; unfold State.put; simp only [↓State.wreg_kept]
theorem State.putB_kept : ∀ s a1 a2, State.kept (State.putB s a1 a2) = State.kept s := by
  intro s a1 a2; unfold State.putB; simp only [↓State.put_kept]
theorem State.wix_kept : ∀ s a1 a2, State.kept (State.wix s a1 a2) = State.kept s := by
  intro s a1 a2; unfold State.wix; simp only [↓kept_mk, kept_mk]
theorem State.setByte_kept : ∀ s a1 a2, State.kept (State.setByte s a1 a2) = State.kept s := by
  intro s a1 a2; unfold State.setByte; simp only [↓kept_mk, kept_mk]
theorem State.setBytes_kept : ∀ s a1 a2, State.kept (State.setBytes s a1 a2) = State.kept s := by
  intro s a1 a2; unfold State.setBytes; simp only [↓kept_mk, kept_mk]
theorem State.emit_kept : ∀ s a1 a2 a3, State.kept (State.emit s a1 a2 a3) = State.kept s := by
  intro s a1 a2 a3; unfold State.emit; simp only [↓kept_mk, kept_mk]
theorem State.takeFree_kept : ∀ s, State.kept (State.takeFree s).2 = State.kept s := by
  intro s; unfold State.takeFree; simp only [↓kept_mk, kept_mk]
theorem State.takeFreeBytes_kept : ∀ s a1, State.kept (State.takeFreeBytes s a1).2 = State.kept s := by
  intro s a1; unfold State.takeFreeBytes; simp only [↓kept_mk, kept_mk]

theorem State.bumpBy_kept : ∀ s a1 a2, State.kept (State.bumpBy s a1 a2) = State.kept s := by
  intro s a1 a2; unfold State.bumpBy; simp only [↓State.put_kept]
theorem State.bump_kept : ∀ s a1, State.kept (State.bump s a1) = State.kept s := by
  intro s a1; unfold State.bump; simp only [↓State.bumpBy_kept]
theorem State.incr_kept : ∀ s a1, State.kept (State.incr s a1) = State.kept s := by
  intro s a1; unfold State.incr; simp only [↓State.put_kept]
theorem State.setBit_kept : ∀ s a1 a2 a3, State.kept (State.setBit s a1 a2 a3) = State.kept s := by
  intro s a1 a2 a3; unfold State.setBit; simp only [↓kept_ite, ite_self, ↓State.put_kept]
theorem State.irq_kept : ∀ s a1, State.kept (State.irq s a1) = State.kept s := by
  intro s a1; unfold State.irq; simp only [↓State.setBit_kept]
theorem State.latchWake_kept : ∀ s a1, State.kept (State.latchWake s a1) = State.kept s := by
  intro s a1; unfold State.latchWake; simp only [↓State.setBit_kept]
theorem State.coalesce_kept : ∀ s a1, State.kept (State.coalesce s a1) = State.kept s := by
  intro s a1; unfold State.coalesce; (repeat' (first | (with_reducible rfl) | split | simp only [↓kept_evt, kept_evt, ↓State.bump_kept]))
theorem State.intake_kept : ∀ s a1, State.kept (State.intake s a1) = State.kept s := by
  intro s a1; unfold State.intake; simp only [↓kept_evt, ↓kept_ite, ite_self, kept_evt, ↓State.bump_kept, ↓State.coalesce_kept]
theorem State.post_kept : ∀ s a1 a2 a3 a4 a5, State.kept (State.post s a1 a2 a3 a4 a5) = State.kept s := by
  intro s a1 a2 a3 a4 a5; unfold State.post; simp only [↓kept_when, ↓State.latchWake_kept, ↓State.intake_kept]
theorem State.postIgnored_kept : ∀ s a1 a2 a3, State.kept (State.postIgnored s a1 a2 a3) = State.kept s := by
  intro s a1 a2 a3; unfold State.postIgnored; simp only [↓State.post_kept]

theorem State.setClient_kept : ∀ s a1 a2, State.kept (State.setClient s a1 a2) = State.kept s := by
  intro s a1 a2; unfold State.setClient; simp only [↓kept_mk, kept_mk]
theorem State.charge_kept : ∀ s a1 a2 a3, State.kept (State.charge s a1 a2 a3) = State.kept s := by
  intro s a1 a2 a3; unfold State.charge; simp only [↓kept_mk, ↓kept_ite, ite_self, kept_mk, ↓State.setClient_kept]
theorem State.markBad_kept : ∀ s a1, State.kept (State.markBad s a1) = State.kept s := by
  intro s a1; unfold State.markBad; simp only [↓kept_mk, kept_mk]
theorem State.clearBad_kept : ∀ s a1, State.kept (State.clearBad s a1) = State.kept s := by
  intro s a1; unfold State.clearBad; simp only [↓kept_mk, kept_mk]
theorem State.dramFail_kept : ∀ s a1, State.kept (State.dramFail s a1) = State.kept s := by
  intro s a1; unfold State.dramFail; simp only [↓State.bump_kept, ↓State.post_kept]
theorem State.startShort_kept : ∀ s a1, State.kept (State.startShort s a1) = State.kept s := by
  intro s a1; unfold State.startShort; (repeat' (first | (with_reducible rfl) | split | simp only [↓kept_mk, kept_mk]))
theorem State.exitSelfRefresh_kept : ∀ s a1, State.kept (State.exitSelfRefresh s a1) = State.kept s := by
  intro s a1; unfold State.exitSelfRefresh; simp only [↓kept_mk, ↓kept_ite, ite_self, ↓kept_foldl, implies_true, kept_mk, ↓State.put_kept, ↓State.startShort_kept]
theorem State.dramParity_kept : ∀ s a1 a2, State.kept (State.dramParity s a1 a2) = State.kept s := by
  intro s a1 a2; unfold State.dramParity; simp only [↓kept_ite, ite_self, andThen_cons, andThen_nil, ↓State.bump_kept, ↓State.put_kept, ↓State.post_kept]
theorem State.touchRow_kept : ∀ s a1 a2, State.kept (State.touchRow s a1 a2) = State.kept s := by
  intro s a1 a2; unfold State.touchRow; simp only [↓kept_mk, kept_mk]
theorem State.storeBlock_kept : ∀ s a1 a2 a3, State.kept (State.storeBlock s a1 a2 a3) = State.kept s := by
  intro s a1 a2 a3; unfold State.storeBlock; simp only [↓kept_ite, ite_self, ↓State.setBytes_kept, ↓State.clearBad_kept, ↓State.dramParity_kept, ↓State.markBad_kept]
theorem State.issueAll_kept (s : State) (l : List QWrite) : State.kept (s.issueAll l) = s.kept := by
  induction l generalizing s with
  | nil => rfl
  | cons w r ih => unfold State.issueAll; rw [ih, State.storeBlock_kept]
theorem State.drainBlock_kept : ∀ s a1, State.kept (State.drainBlock s a1) = State.kept s := by
  intro s a1; unfold State.drainBlock; simp only [↓kept_mk, kept_mk, ↓State.issueAll_kept]
theorem State.drainTo_kept : ∀ s a1 a2, State.kept (State.drainTo s a1 a2) = State.kept s := by
  intro s a1 a2; unfold State.drainTo; simp only [↓kept_mk, kept_mk, ↓State.issueAll_kept]
theorem State.dramRead_kept : ∀ s a1 a2, State.kept (State.dramRead s a1 a2).2 = State.kept s := by
  intro s a1 a2; unfold State.dramRead; simp only [↓kept_ite, ↓snd_ite, ite_self, ↓State.dramFail_kept, ↓State.exitSelfRefresh_kept, ↓State.charge_kept, ↓State.drainBlock_kept, ↓State.touchRow_kept, ↓State.dramParity_kept]
theorem State.dramWrite_kept : ∀ s a1 a2 a3 a4, State.kept (State.dramWrite s a1 a2 a3 a4) = State.kept s := by
  intro s a1 a2 a3 a4; unfold State.dramWrite; simp only [↓kept_ite, ite_self, ↓State.dramFail_kept, ↓State.exitSelfRefresh_kept, ↓State.charge_kept, ↓State.drainBlock_kept, ↓State.touchRow_kept, ↓State.storeBlock_kept]
theorem State.caddyParity_kept : ∀ s a1, State.kept (State.caddyParity s a1) = State.kept s := by
  intro s a1; unfold State.caddyParity; simp only [↓State.bump_kept, ↓State.post_kept]
theorem State.outsideMap_kept : ∀ s a1 a2 a3, State.kept (State.outsideMap s a1 a2 a3) = State.kept s := by
  intro s a1 a2 a3; unfold State.outsideMap; simp only [↓State.post_kept]
theorem State.chargePort_kept : ∀ s a1, State.kept (State.chargePort s a1) = State.kept s := by
  intro s a1; unfold State.chargePort; simp only [↓kept_ite, ite_self, ↓State.charge_kept]
theorem State.physRead_kept : ∀ s a1 a2 a3, State.kept (State.physRead s a1 a2 a3).2 = State.kept s := by
  intro s a1 a2 a3; unfold State.physRead; ((repeat' (first | (with_reducible rfl) | split | simp only [↓kept_ite, ↓snd_ite, ite_self, ↓State.charge_kept, ↓State.caddyParity_kept, ↓State.outsideMap_kept]))); (all_goals (repeat (rename_i h; first | (have h' := congrArg (fun p => State.kept (Prod.snd p)) h; simp only [↓State.dramRead_kept] at h'; clear h; revert h') | clear h | revert h))); all_goals (intros; first | (with_reducible rfl) | (simp only [↓kept_mk, ↓kept_evt, ↓kept_ite, ↓snd_ite, ite_self, ↓kept_foldl, ↓kept_when, andThen_cons, andThen_nil, implies_true, kept_mk, kept_evt, ↓State.dramRead_kept, ↓State.charge_kept, ↓State.caddyParity_kept, ↓State.outsideMap_kept]; done) | (simp only [↓kept_mk, ↓kept_evt, ↓kept_ite, ↓snd_ite, ite_self, ↓kept_foldl, ↓kept_when, andThen_cons, andThen_nil, implies_true, kept_mk, kept_evt, ↓State.dramRead_kept, ↓State.charge_kept, ↓State.caddyParity_kept, ↓State.outsideMap_kept]; simp only [*]; done) | simp only [*])
theorem State.physWrite_kept : ∀ s a1 a2 a3, State.kept (State.physWrite s a1 a2 a3).2 = State.kept s := by
  intro s a1 a2 a3; unfold State.physWrite; (repeat' (first | (with_reducible rfl) | split | simp only [↓State.dramWrite_kept, ↓State.charge_kept, ↓State.setBytes_kept, ↓State.clearBad_kept, ↓State.post_kept, ↓State.outsideMap_kept]))
theorem State.setTlb_kept : ∀ s a1 a2, State.kept (State.setTlb s a1 a2) = State.kept s := by
  intro s a1 a2; unfold State.setTlb; simp only [↓kept_mk, kept_mk]
theorem State.walkRead_kept : ∀ s a1 a2, State.kept (State.walkRead s a1 a2).2 = State.kept s := by
  intro s a1 a2; unfold State.walkRead; ((repeat' (first | (with_reducible rfl) | split | simp only [↓State.post_kept]))); (all_goals (repeat (rename_i h; first | (have h' := congrArg (fun p => State.kept (Prod.snd p)) h; simp only [↓State.dramRead_kept] at h'; clear h; revert h') | clear h | revert h))); all_goals (intros; first | (with_reducible rfl) | (simp only [↓kept_mk, ↓kept_evt, ↓kept_ite, ↓snd_ite, ite_self, ↓kept_foldl, ↓kept_when, andThen_cons, andThen_nil, implies_true, kept_mk, kept_evt, ↓State.dramRead_kept, ↓State.post_kept]; done) | (simp only [↓kept_mk, ↓kept_evt, ↓kept_ite, ↓snd_ite, ite_self, ↓kept_foldl, ↓kept_when, andThen_cons, andThen_nil, implies_true, kept_mk, kept_evt, ↓State.dramRead_kept, ↓State.post_kept]; simp only [*]; done) | simp only [*])
theorem State.walk_kept : ∀ s a1 a2 a3, State.kept (State.walk s a1 a2 a3).2 = State.kept s := by
  intro s a1 a2 a3; unfold State.walk; ((repeat' (first | (with_reducible rfl) | split | simp only [↓State.post_kept, ↓State.setTlb_kept]))); (all_goals (repeat (rename_i h; first | (have h' := congrArg (fun p => State.kept (Prod.snd p)) h; simp only [↓State.bump_kept, ↓State.walkRead_kept] at h'; clear h; revert h') | clear h | revert h))); all_goals (intros; first | (with_reducible rfl) | (simp only [↓kept_mk, ↓kept_evt, ↓kept_ite, ↓snd_ite, ite_self, ↓kept_foldl, ↓kept_when, andThen_cons, andThen_nil, implies_true, kept_mk, kept_evt, ↓State.bump_kept, ↓State.walkRead_kept, ↓State.post_kept, ↓State.setTlb_kept]; done) | (simp only [↓kept_mk, ↓kept_evt, ↓kept_ite, ↓snd_ite, ite_self, ↓kept_foldl, ↓kept_when, andThen_cons, andThen_nil, implies_true, kept_mk, kept_evt, ↓State.bump_kept, ↓State.walkRead_kept, ↓State.post_kept, ↓State.setTlb_kept]; simp only [*]; done) | simp only [*])
theorem State.pinnedMiss_kept : ∀ s a1 a2, State.kept (State.pinnedMiss s a1 a2) = State.kept s := by
  intro s a1 a2; unfold State.pinnedMiss; simp only [↓State.bump_kept, ↓State.post_kept]
theorem State.translate_kept (s : State) (r : Req) (va : Nat) (w : Bool) : State.kept (s.translate r va w).2 = s.kept := by
  unfold State.translate
  split
  · split
    · exact State.outsideMap_kept _ _ _ _
    · rfl
  · extract_lets +onlyGivenNames va space found
    have hf : State.kept found.2 = s.kept := by
      simp only [found]; split
      · rfl
      · exact State.walk_kept _ _ _ _
    generalize found = g at hf ⊢
    repeat' split
    all_goals first | exact hf | (rw [State.pinnedMiss_kept]; exact hf) | (simp only [↓snd_ite, ↓kept_ite, State.pinnedMiss_kept, ite_self]; exact hf)
theorem State.readPieces_kept : ∀ s a1 a2, State.kept (State.readPieces s a1 a2).2 = State.kept s := by
  intro s a1 a2; induction a2 generalizing s a1 with
    | nil => (unfold State.readPieces; ((repeat' (first | (with_reducible rfl) | split | simp only [↓kept_mk, ↓kept_evt, ↓kept_ite, ↓snd_ite, ite_self, ↓kept_foldl, ↓kept_when, andThen_cons, andThen_nil, implies_true, kept_mk, kept_evt, ↓State.translate_kept, ↓State.chargePort_kept, ↓State.physRead_kept]))); (all_goals (repeat (rename_i h; first | (have h' := congrArg (fun p => State.kept (Prod.snd p)) h; simp only [↓kept_mk, ↓kept_evt, ↓kept_ite, ↓snd_ite, ite_self, ↓kept_foldl, ↓kept_when, andThen_cons, andThen_nil, implies_true, kept_mk, kept_evt, ↓State.translate_kept, ↓State.chargePort_kept, ↓State.physRead_kept] at h'; clear h; revert h') | clear h | revert h))); all_goals (intros; first | (with_reducible rfl) | (simp only [↓kept_mk, ↓kept_evt, ↓kept_ite, ↓snd_ite, ite_self, ↓kept_foldl, ↓kept_when, andThen_cons, andThen_nil, implies_true, kept_mk, kept_evt, ↓State.translate_kept, ↓State.chargePort_kept, ↓State.physRead_kept]; done) | (simp only [↓kept_mk, ↓kept_evt, ↓kept_ite, ↓snd_ite, ite_self, ↓kept_foldl, ↓kept_when, andThen_cons, andThen_nil, implies_true, kept_mk, kept_evt, ↓State.translate_kept, ↓State.chargePort_kept, ↓State.physRead_kept]; simp only [*]; done) | simp only [*]))
    | cons h0 t0 ih0 => (unfold State.readPieces; ((repeat' (first | (with_reducible rfl) | split | simp only))); ((all_goals (repeat (rename_i h; first | (have h' := congrArg (fun p => State.kept (Prod.snd p)) h; simp only [↓State.translate_kept, ↓State.chargePort_kept, ↓State.physRead_kept, ih0] at h'; clear h; revert h') | clear h | revert h))); all_goals (intros; first | (with_reducible rfl) | (simp only [↓kept_mk, ↓kept_evt, ↓kept_ite, ↓snd_ite, ite_self, ↓kept_foldl, ↓kept_when, andThen_cons, andThen_nil, implies_true, kept_mk, kept_evt, ↓State.translate_kept, ↓State.chargePort_kept, ↓State.physRead_kept]; done) | (simp only [↓kept_mk, ↓kept_evt, ↓kept_ite, ↓snd_ite, ite_self, ↓kept_foldl, ↓kept_when, andThen_cons, andThen_nil, implies_true, kept_mk, kept_evt, ↓State.translate_kept, ↓State.chargePort_kept, ↓State.physRead_kept]; simp only [*]; done) | simp only [*])))
theorem State.engRead_kept : ∀ s a1 a2 a3, State.kept (State.engRead s a1 a2 a3).2 = State.kept s := by
  intro s a1 a2 a3; unfold State.engRead; simp only [↓State.readPieces_kept]
theorem State.writePieces_kept : ∀ s a1 a2 a3, State.kept (State.writePieces s a1 a2 a3).2 = State.kept s := by
  intro s a1 a2 a3; induction a2 generalizing s a1 a3 with
    | nil => (unfold State.writePieces; ((repeat' (first | (with_reducible rfl) | split | simp only [↓kept_mk, ↓kept_evt, ↓kept_ite, ↓snd_ite, ite_self, ↓kept_foldl, ↓kept_when, andThen_cons, andThen_nil, implies_true, kept_mk, kept_evt, ↓State.translate_kept, ↓State.chargePort_kept, ↓State.physWrite_kept]))); (all_goals (repeat (rename_i h; first | (have h' := congrArg (fun p => State.kept (Prod.snd p)) h; simp only [↓kept_mk, ↓kept_evt, ↓kept_ite, ↓snd_ite, ite_self, ↓kept_foldl, ↓kept_when, andThen_cons, andThen_nil, implies_true, kept_mk, kept_evt, ↓State.translate_kept, ↓State.chargePort_kept, ↓State.physWrite_kept] at h'; clear h; revert h') | clear h | revert h))); all_goals (intros; first | (with_reducible rfl) | (simp only [↓kept_mk, ↓kept_evt, ↓kept_ite, ↓snd_ite, ite_self, ↓kept_foldl, ↓kept_when, andThen_cons, andThen_nil, implies_true, kept_mk, kept_evt, ↓State.translate_kept, ↓State.chargePort_kept, ↓State.physWrite_kept]; done) | (simp only [↓kept_mk, ↓kept_evt, ↓kept_ite, ↓snd_ite, ite_self, ↓kept_foldl, ↓kept_when, andThen_cons, andThen_nil, implies_true, kept_mk, kept_evt, ↓State.translate_kept, ↓State.chargePort_kept, ↓State.physWrite_kept]; simp only [*]; done) | simp only [*]))
    | cons h0 t0 ih0 => (unfold State.writePieces; ((repeat' (first | (with_reducible rfl) | split | simp only))); ((all_goals (repeat (rename_i h; first | (have h' := congrArg (fun p => State.kept (Prod.snd p)) h; simp only [↓State.translate_kept, ↓State.chargePort_kept, ↓State.physWrite_kept] at h'; clear h; revert h') | clear h | revert h))); all_goals (intros; first | (with_reducible rfl) | (simp only [↓kept_mk, ↓kept_evt, ↓kept_ite, ↓snd_ite, ite_self, ↓kept_foldl, ↓kept_when, andThen_cons, andThen_nil, implies_true, kept_mk, kept_evt, ↓State.translate_kept, ↓State.chargePort_kept, ↓State.physWrite_kept]; done) | (simp only [↓kept_mk, ↓kept_evt, ↓kept_ite, ↓snd_ite, ite_self, ↓kept_foldl, ↓kept_when, andThen_cons, andThen_nil, implies_true, kept_mk, kept_evt, ↓State.translate_kept, ↓State.chargePort_kept, ↓State.physWrite_kept]; simp only [*]; done) | simp only [*])))
theorem State.engWrite_kept : ∀ s a1 a2 a3, State.kept (State.engWrite s a1 a2 a3).2 = State.kept s := by
  intro s a1 a2 a3; unfold State.engWrite; simp only [↓State.writePieces_kept]
theorem State.ringRecord_kept : ∀ s a1 a2 a3 a4 a5 a6, State.kept (State.ringRecord s a1 a2 a3 a4 a5 a6).2 = State.kept s := by
  intro s a1 a2 a3 a4 a5 a6; unfold State.ringRecord; ((repeat' (first | (with_reducible rfl) | split | simp only [↓State.put_kept]))); (all_goals (repeat (rename_i h; first | (have h' := congrArg (fun p => State.kept (Prod.snd p)) h; simp only [↓State.engWrite_kept] at h'; clear h; revert h') | clear h | revert h))); all_goals (intros; first | (with_reducible rfl) | (simp only [↓kept_mk, ↓kept_evt, ↓kept_ite, ↓snd_ite, ite_self, ↓kept_foldl, ↓kept_when, andThen_cons, andThen_nil, implies_true, kept_mk, kept_evt, ↓State.engWrite_kept, ↓State.put_kept]; done) | (simp only [↓kept_mk, ↓kept_evt, ↓kept_ite, ↓snd_ite, ite_self, ↓kept_foldl, ↓kept_when, andThen_cons, andThen_nil, implies_true, kept_mk, kept_evt, ↓State.engWrite_kept, ↓State.put_kept]; simp only [*]; done) | simp only [*])
theorem State.unitFault_kept : ∀ s a1 a2 a3 a4 a5, State.kept (State.unitFault s a1 a2 a3 a4 a5) = State.kept s := by
  intro s a1 a2 a3 a4 a5; unfold State.unitFault; simp only [andThen_cons, andThen_nil, ↓State.setBit_kept, ↓State.put_kept, ↓State.putB_kept, ↓State.bump_kept, ↓State.post_kept]
theorem State.clearFault_kept : ∀ s a1, State.kept (State.clearFault s a1) = State.kept s := by
  intro s a1; unfold State.clearFault; simp only [↓State.setBit_kept, ↓State.put_kept]
theorem State.withdrawFault_kept : ∀ s a1, State.kept (State.withdrawFault s a1) = State.kept s := by
  intro s a1; unfold State.withdrawFault; simp only [↓kept_ite, ite_self, ↓State.clearFault_kept, ↓State.put_kept]

theorem State.resetRanges_kept (s : State) (l : List (Nat × Nat)) : State.kept (s.resetRanges l) = s.kept := by
  unfold State.resetRanges; refine kept_foldl _ ?_ _ _; intro s r; rfl
theorem State.loadMac_kept : ∀ s a1, State.kept (State.loadMac s a1) = State.kept s := by
  intro s a1; unfold State.loadMac; simp only [↓kept_ite, ite_self, ↓State.put_kept]
theorem State.countOn_kept : ∀ s a1, State.kept (State.countOn s a1) = State.kept s := by
  intro s a1; unfold State.countOn; simp only [↓kept_mk, kept_mk]
theorem State.domainOn_kept : ∀ s a1, State.kept (State.domainOn s a1) = State.kept s := by
  intro s a1; unfold State.domainOn; simp only [↓kept_ite, ite_self, andThen_cons, andThen_nil, ↓State.loadMac_kept, ↓State.countOn_kept, ↓State.put_kept]
theorem State.startPll_kept : ∀ s a1, State.kept (State.startPll s a1) = State.kept s := by
  intro s a1; unfold State.startPll; simp only [↓State.setBit_kept]
theorem State.domainOff_kept : ∀ s a1, State.kept (State.domainOff s a1) = State.kept s := by
  intro s a1; unfold State.domainOff; simp only [↓State.put_kept, ↓State.resetRanges_kept]
theorem State.stopIdlePll_kept : ∀ s a1, State.kept (State.stopIdlePll s a1) = State.kept s := by
  intro s a1; unfold State.stopIdlePll; (repeat' (first | (with_reducible rfl) | split | simp only [↓kept_ite, ite_self, ↓kept_foldl, implies_true, ↓State.setBit_kept]))
theorem State.demand_kept : ∀ s a1, State.kept (State.demand s a1) = State.kept s := by
  intro s a1; unfold State.demand; simp only [↓kept_mk, ↓kept_ite, ite_self, kept_mk]
theorem State.bringUp_kept : ∀ s a1, State.kept (State.bringUp s a1) = State.kept s := by
  intro s a1; unfold State.bringUp; (repeat' (first | (with_reducible rfl) | split | simp only [↓kept_foldl, implies_true, ↓State.domainOn_kept, ↓State.startPll_kept, ↓State.setBit_kept]))
theorem State.touchDomain_kept : ∀ s a1, State.kept (State.touchDomain s a1) = State.kept s := by
  intro s a1; unfold State.touchDomain; (repeat' (first | (with_reducible rfl) | split | simp only [↓State.bringUp_kept]))

theorem State.lockEvent_kept : ∀ s a1 a2 a3, State.kept (State.lockEvent s a1 a2 a3) = State.kept s := by
  intro s a1 a2 a3; unfold State.lockEvent; (repeat' (first | (with_reducible rfl) | split | simp only [↓State.postIgnored_kept]))
theorem State.plainWrite_kept : ∀ s a1 a2 a3, State.kept (State.plainWrite s a1 a2 a3) = State.kept s := by
  intro s a1 a2 a3; unfold State.plainWrite; simp only [↓State.lockEvent_kept, ↓State.wreg_kept]
theorem State.guardWrite_kept (s : State) (off : Nat) (act : State → State) (h : ∀ s, State.kept (act s) = s.kept) :
    State.kept (s.guardWrite off act) = s.kept := by
  unfold State.guardWrite
  repeat' split
  all_goals first | rfl | exact State.postIgnored_kept _ _ _ _ | (rw [h]; exact State.touchDomain_kept _ _)
theorem State.guardRead_kept (s : State) (off : Nat) (act : State → Word × State) (h : ∀ s, State.kept (act s).2 = s.kept) :
    State.kept (s.guardRead off act).2 = s.kept := by
  unfold State.guardRead
  repeat' split
  all_goals first | rfl | (rw [h]; exact State.touchDomain_kept _ _)
theorem State.answer_kept (r : Word × State) : State.kept (State.answer r) = r.2.kept := rfl

theorem State.capture_kept : ∀ s a1, State.kept (State.capture s a1) = State.kept s := by
  intro s a1; unfold State.capture; simp only [↓kept_ite, ite_self, andThen_cons, andThen_nil, ↓State.bump_kept, ↓State.put_kept]
theorem rdCapNs_kept : ∀ a0 s, State.kept (rdCapNs a0 s).2 = State.kept s := by
  intro a0 s; unfold rdCapNs; simp only [↓State.put_kept]
theorem State.fsLag_kept : ∀ s a1, State.kept (State.fsLag s a1) = State.kept s := by
  intro s a1; unfold State.fsLag; (repeat' (first | (with_reducible rfl) | split | simp only [↓State.put_kept]))

theorem State.setAud_kept : ∀ s a1 a2, State.kept (State.setAud s a1 a2) = State.kept s := by
  intro s a1 a2; unfold State.setAud; simp only [↓kept_mk, kept_mk]
theorem State.setStr_kept : ∀ s a1 a2, State.kept (State.setStr s a1 a2) = State.kept s := by
  intro s a1 a2; unfold State.setStr; simp only [↓kept_mk, kept_mk]
theorem wrAudPll_kept : ∀ a0 a1 a2 s, State.kept (wrAudPll a0 a1 a2 s) = State.kept s := by
  intro a0 a1 a2 s; unfold wrAudPll; simp only [↓kept_ite, ite_self, ↓State.postIgnored_kept, ↓State.plainWrite_kept, ↓State.emit_kept, ↓State.demand_kept, ↓State.startPll_kept, ↓State.put_kept, ↓State.setBit_kept]
theorem State.audOverrun_kept : ∀ s a1 a2, State.kept (State.audOverrun s a1 a2) = State.kept s := by
  intro s a1 a2; unfold State.audOverrun; simp only [↓kept_ite, ite_self, ↓State.bumpBy_kept, ↓State.setAud_kept, ↓State.post_kept]
theorem State.closeBlock_kept : ∀ s a1, State.kept (State.closeBlock s a1) = State.kept s := by
  intro s a1; unfold State.closeBlock; ((repeat' (first | (with_reducible rfl) | split | simp only [↓State.put_kept, ↓State.audOverrun_kept]))); (all_goals (repeat (rename_i h; first | (have h' := congrArg (fun p => State.kept (Prod.snd p)) h; simp only [↓State.setAud_kept, ↓State.engWrite_kept] at h'; clear h; revert h') | clear h | revert h))); all_goals (intros; first | (with_reducible rfl) | (simp only [↓kept_mk, ↓kept_evt, ↓kept_ite, ↓snd_ite, ite_self, ↓kept_foldl, ↓kept_when, andThen_cons, andThen_nil, implies_true, kept_mk, kept_evt, ↓State.setAud_kept, ↓State.engWrite_kept, ↓State.put_kept, ↓State.audOverrun_kept]; done) | (simp only [↓kept_mk, ↓kept_evt, ↓kept_ite, ↓snd_ite, ite_self, ↓kept_foldl, ↓kept_when, andThen_cons, andThen_nil, implies_true, kept_mk, kept_evt, ↓State.setAud_kept, ↓State.engWrite_kept, ↓State.put_kept, ↓State.audOverrun_kept]; simp only [*]; done) | simp only [*])
theorem State.placeFrame_kept : ∀ s a1 a2 a3 a4, State.kept (State.placeFrame s a1 a2 a3 a4) = State.kept s := by
  intro s a1 a2 a3 a4; unfold State.placeFrame; (repeat' (first | (with_reducible rfl) | split | simp only [↓State.closeBlock_kept, ↓State.setAud_kept, ↓State.put_kept, ↓State.audOverrun_kept]))
theorem State.stageFrames_kept (s : State) (n base fb k i : Nat) : State.kept (s.stageFrames n base fb k i).2 = s.kept := by
  induction k generalizing s i with
  | zero => rfl
  | succ k ih =>
    unfold State.stageFrames
    split <;> (rename_i h; have h' := congrArg (fun p => State.kept (Prod.snd p)) h; dsimp only at h' ⊢; rw [ih, ← h', State.engRead_kept])
theorem State.stageBlock_kept : ∀ s a1, State.kept (State.stageBlock s a1) = State.kept s := by
  intro s a1; unfold State.stageBlock; ((repeat' (first | (with_reducible rfl) | split | simp only [↓State.stageFrames_kept, ↓State.setAud_kept]))); (all_goals (repeat (rename_i h; first | (have h' := congrArg (fun p => State.kept (Prod.snd p)) h; simp only [↓State.put_kept, ↓State.engRead_kept] at h'; clear h; revert h') | clear h | revert h))); all_goals (intros; first | (with_reducible rfl) | (simp only [↓kept_mk, ↓kept_evt, ↓kept_ite, ↓snd_ite, ite_self, ↓kept_foldl, ↓kept_when, andThen_cons, andThen_nil, implies_true, kept_mk, kept_evt, ↓State.put_kept, ↓State.engRead_kept, ↓State.stageFrames_kept, ↓State.setAud_kept]; done) | (simp only [↓kept_mk, ↓kept_evt, ↓kept_ite, ↓snd_ite, ite_self, ↓kept_foldl, ↓kept_when, andThen_cons, andThen_nil, implies_true, kept_mk, kept_evt, ↓State.put_kept, ↓State.engRead_kept, ↓State.stageFrames_kept, ↓State.setAud_kept]; simp only [*]; done) | simp only [*])
theorem State.beginTx_kept : ∀ s a1 a2 a3, State.kept (State.beginTx s a1 a2 a3) = State.kept s := by
  intro s a1 a2 a3; unfold State.beginTx; simp only [↓kept_ite, ite_self, ↓State.put_kept, ↓State.setAud_kept, ↓State.bumpBy_kept]
theorem State.stageFor_kept (s : State) (n f k : Nat) : State.kept (s.stageFor n f k) = s.kept := by
  induction k generalizing s with
  | zero => rfl
  | succ k ih =>
    unfold State.stageFor
    extract_lets +onlyGivenNames x late t
    have h : t.kept = s.kept := by simp only [t]; rw [State.bumpBy_kept, State.setAud_kept]
    split
    · exact h
    · split
      · split
        · exact h
        · rw [ih, State.beginTx_kept, h]
      · split
        · exact h
        · rw [ih, State.stageBlock_kept, h]
theorem State.audUnderrun_kept : ∀ s a1, State.kept (State.audUnderrun s a1) = State.kept s := by
  intro s a1; unfold State.audUnderrun; simp only [↓kept_ite, ite_self, ↓State.bump_kept, ↓State.setAud_kept, ↓State.post_kept]
theorem State.sendFrame_kept : ∀ s a1 a2, State.kept (State.sendFrame s a1 a2).2 = State.kept s := by
  intro s a1 a2; unfold State.sendFrame; (repeat' (first | (with_reducible rfl) | split | simp only [↓State.put_kept, ↓State.stageFor_kept, ↓State.audUnderrun_kept, ↓State.setAud_kept]))
theorem State.tdmFrame_kept : ∀ s a1 a2 a3, State.kept (State.tdmFrame s a1 a2 a3) = State.kept s := by
  intro s a1 a2 a3; unfold State.tdmFrame; simp only [↓kept_ite, ite_self, ↓State.setAud_kept, ↓State.put_kept, ↓State.sendFrame_kept, ↓State.emit_kept, ↓State.placeFrame_kept]
theorem State.portRun_kept : ∀ s a1, State.kept (State.portRun s a1) = State.kept s := by
  intro s a1; unfold State.portRun; simp only [↓State.setAud_kept, ↓State.put_kept]
theorem State.portStop_kept : ∀ s a1, State.kept (State.portStop s a1) = State.kept s := by
  intro s a1; unfold State.portStop; simp only [↓kept_ite, ite_self, ↓State.closeBlock_kept, ↓State.setAud_kept, ↓State.emit_kept]
theorem wrAudCfg_kept : ∀ a0 a1 a2 s, State.kept (wrAudCfg a0 a1 a2 s) = State.kept s := by
  intro a0 a1 a2 s; unfold wrAudCfg; (repeat' (first | (with_reducible rfl) | split | simp only [↓kept_ite, andThen_cons, andThen_nil, ↓State.postIgnored_kept, ↓State.portStop_kept, ↓State.put_kept, ↓State.plainWrite_kept, ↓State.setAud_kept, ↓State.portRun_kept]))
theorem wrAudClosed_kept : ∀ a0 a1 a2 a3 s, State.kept (wrAudClosed a0 a1 a2 a3 s) = State.kept s := by
  intro a0 a1 a2 a3 s; unfold wrAudClosed; simp only [↓kept_ite, ite_self, ↓State.postIgnored_kept, ↓State.plainWrite_kept]
theorem State.groupRun_kept : ∀ s a1, State.kept (State.groupRun s a1) = State.kept s := by
  intro s a1; unfold State.groupRun; simp only [↓kept_foldl, implies_true, ↓State.portRun_kept, ↓State.put_kept]
theorem State.audTrigger_kept : ∀ s a1, State.kept (State.audTrigger s a1) = State.kept s := by
  intro s a1; unfold State.audTrigger; simp only [↓kept_ite, ite_self, ↓kept_foldl, implies_true, ↓State.groupRun_kept]
theorem wrAudGrp_kept : ∀ a0 a1 s, State.kept (wrAudGrp a0 a1 s) = State.kept s := by
  intro a0 a1 s; unfold wrAudGrp; simp only [↓kept_ite, ite_self, ↓kept_foldl, implies_true, ↓State.portStop_kept, ↓State.put_kept, ↓State.post_kept, ↓State.groupRun_kept]
theorem rdAudFrameLo_kept : ∀ a0 s, State.kept (rdAudFrameLo a0 s).2 = State.kept s := by
  intro a0 s; unfold rdAudFrameLo; simp only [↓State.put_kept]
theorem State.streamSource_kept : ∀ s a1, State.kept (State.streamSource s a1).2 = State.kept s := by
  intro s a1; unfold State.streamSource; (repeat' (first | (with_reducible rfl) | split | simp only [↓kept_mk, ↓kept_ite, ↓snd_ite, ite_self, kept_mk]))
theorem State.setSdiO_kept : ∀ s a1 a2, State.kept (State.setSdiO s a1 a2) = State.kept s := by
  intro s a1 a2; unfold State.setSdiO; simp only [↓kept_mk, kept_mk]
theorem State.embedSet_kept : ∀ s a1 a2, State.kept (State.embedSet s a1 a2) = State.kept s := by
  intro s a1 a2; unfold State.embedSet; simp only [↓kept_ite, ite_self, ↓kept_foldl, implies_true, ↓State.setSdiO_kept]
theorem State.streamSet_kept : ∀ s a1, State.kept (State.streamSet s a1) = State.kept s := by
  intro s a1; unfold State.streamSet; simp only [↓kept_ite, ite_self, ↓State.put_kept, ↓State.streamSource_kept, ↓State.putB_kept, ↓State.embedSet_kept, ↓State.setStr_kept]

theorem State.startCore0_kept : ∀ s, State.kept (State.startCore0 s) = State.kept s := by
  intro s; unfold State.startCore0; simp only [↓kept_foldl, implies_true, ↓State.bringUp_kept, ↓State.put_kept]
theorem State.recalsStopped_kept : ∀ s a1, State.kept (State.recalsStopped s a1) = State.kept s := by
  intro s a1; unfold State.recalsStopped; simp only [↓kept_foldl, implies_true, ↓State.put_kept]

theorem State.fetchList_kept : ∀ s a1 a2 a3 a4, State.kept (State.fetchList s a1 a2 a3 a4).2 = State.kept s := by
  intro s a1 a2 a3 a4; induction a4 generalizing s a1 a2 a3 with
    | nil => (unfold State.fetchList; ((repeat' (first | (with_reducible rfl) | split | simp only [↓kept_mk, ↓kept_evt, ↓kept_ite, ↓snd_ite, ite_self, ↓kept_foldl, ↓kept_when, andThen_cons, andThen_nil, implies_true, kept_mk, kept_evt, ↓State.engRead_kept]))); (all_goals (repeat (rename_i h; first | (have h' := congrArg (fun p => State.kept (Prod.snd p)) h; simp only [↓kept_mk, ↓kept_evt, ↓kept_ite, ↓snd_ite, ite_self, ↓kept_foldl, ↓kept_when, andThen_cons, andThen_nil, implies_true, kept_mk, kept_evt, ↓State.engRead_kept] at h'; clear h; revert h') | clear h | revert h))); all_goals (intros; first | (with_reducible rfl) | (simp only [↓kept_mk, ↓kept_evt, ↓kept_ite, ↓snd_ite, ite_self, ↓kept_foldl, ↓kept_when, andThen_cons, andThen_nil, implies_true, kept_mk, kept_evt, ↓State.engRead_kept]; done) | (simp only [↓kept_mk, ↓kept_evt, ↓kept_ite, ↓snd_ite, ite_self, ↓kept_foldl, ↓kept_when, andThen_cons, andThen_nil, implies_true, kept_mk, kept_evt, ↓State.engRead_kept]; simp only [*]; done) | simp only [*]))
    | cons h0 t0 ih0 => (unfold State.fetchList; ((repeat' (first | (with_reducible rfl) | split | simp only))); ((all_goals (repeat (rename_i h; first | (have h' := congrArg (fun p => State.kept (Prod.snd p)) h; simp only [↓State.engRead_kept] at h'; clear h; revert h') | clear h | revert h))); all_goals (intros; first | (with_reducible rfl) | (simp only [↓kept_mk, ↓kept_evt, ↓kept_ite, ↓snd_ite, ite_self, ↓kept_foldl, ↓kept_when, andThen_cons, andThen_nil, implies_true, kept_mk, kept_evt, ↓State.engRead_kept]; done) | (simp only [↓kept_mk, ↓kept_evt, ↓kept_ite, ↓snd_ite, ite_self, ↓kept_foldl, ↓kept_when, andThen_cons, andThen_nil, implies_true, kept_mk, kept_evt, ↓State.engRead_kept]; simp only [*]; done) | simp only [*])))
theorem State.fetchTiles_kept : ∀ s a1 a2 a3 a4 a5, State.kept (State.fetchTiles s a1 a2 a3 a4 a5).2 = State.kept s := by
  intro s a1 a2 a3 a4 a5; induction a5 generalizing s a1 a2 a3 a4 with
    | nil => (unfold State.fetchTiles; ((repeat' (first | (with_reducible rfl) | split | simp only [↓kept_mk, ↓kept_evt, ↓kept_ite, ↓snd_ite, ite_self, ↓kept_foldl, ↓kept_when, andThen_cons, andThen_nil, implies_true, kept_mk, kept_evt, ↓State.fetchList_kept]))); (all_goals (repeat (rename_i h; first | (have h' := congrArg (fun p => State.kept (Prod.snd p)) h; simp only [↓kept_mk, ↓kept_evt, ↓kept_ite, ↓snd_ite, ite_self, ↓kept_foldl, ↓kept_when, andThen_cons, andThen_nil, implies_true, kept_mk, kept_evt, ↓State.fetchList_kept] at h'; clear h; revert h') | clear h | revert h))); all_goals (intros; first | (with_reducible rfl) | (simp only [↓kept_mk, ↓kept_evt, ↓kept_ite, ↓snd_ite, ite_self, ↓kept_foldl, ↓kept_when, andThen_cons, andThen_nil, implies_true, kept_mk, kept_evt, ↓State.fetchList_kept]; done) | (simp only [↓kept_mk, ↓kept_evt, ↓kept_ite, ↓snd_ite, ite_self, ↓kept_foldl, ↓kept_when, andThen_cons, andThen_nil, implies_true, kept_mk, kept_evt, ↓State.fetchList_kept]; simp only [*]; done) | simp only [*]))
    | cons h0 t0 ih0 => (unfold State.fetchTiles; ((repeat' (first | (with_reducible rfl) | split | simp only))); ((all_goals (repeat (rename_i h; first | (have h' := congrArg (fun p => State.kept (Prod.snd p)) h; simp only [↓State.fetchList_kept] at h'; clear h; revert h') | clear h | revert h))); all_goals (intros; first | (with_reducible rfl) | (simp only [↓kept_mk, ↓kept_evt, ↓kept_ite, ↓snd_ite, ite_self, ↓kept_foldl, ↓kept_when, andThen_cons, andThen_nil, implies_true, kept_mk, kept_evt, ↓State.fetchList_kept]; done) | (simp only [↓kept_mk, ↓kept_evt, ↓kept_ite, ↓snd_ite, ite_self, ↓kept_foldl, ↓kept_when, andThen_cons, andThen_nil, implies_true, kept_mk, kept_evt, ↓State.fetchList_kept]; simp only [*]; done) | simp only [*])))
theorem State.fetchBrew_kept : ∀ s a1 a2 a3, State.kept (State.fetchBrew s a1 a2 a3).2 = State.kept s := by
  intro s a1 a2 a3; unfold State.fetchBrew; simp only [↓State.fetchTiles_kept]

end Sys2Proof.Machine
end

