-- ==== Sys2Proof/Laws/KeptBrews.lean ====
section
/-! SUPPORT. What hardly any operation changes, for brews, tiles, the codec and the control ports. -/

namespace Sys2Proof.Machine

set_option maxRecDepth 4000
set_option linter.unusedVariables false

theorem State.setRoot_kept : ∀ s a1 a2, State.kept (State.setRoot s a1 a2) = State.kept s := by
  intro s a1 a2; unfold State.setRoot; simp only [↓kept_mk, kept_mk]
theorem State.setBrew_kept : ∀ s a1 a2, State.kept (State.setBrew s a1 a2) = State.kept s := by
  intro s a1 a2; unfold State.setBrew; simp only [↓kept_mk, kept_mk]
theorem State.switchTile_kept : ∀ s a1 a2 a3, State.kept (State.switchTile s a1 a2 a3) = State.kept s := by
  intro s a1 a2 a3; unfold State.switchTile; simp only [↓kept_mk, kept_mk]
theorem State.dropUnit_kept : ∀ s a1 a2 a3 a4, State.kept (State.dropUnit s a1 a2 a3 a4) = State.kept s := by
  intro s a1 a2 a3 a4; unfold State.dropUnit; simp only [↓State.bump_kept, ↓State.post_kept]
theorem State.writeFrecs_kept (s : State) (t : Nat) (l : List (BitVec 44 × List Byte)) : State.kept (s.writeFrecs t l) = s.kept := by
  induction l generalizing s with
  | nil => rfl
  | cons x r ih =>
    unfold State.writeFrecs
    split
    · rfl
    · dsimp only; rw [ih, State.ringRecord_kept]
theorem State.putFrameRecord_kept : ∀ s a1 a2 a3 a4, State.kept (State.putFrameRecord s a1 a2 a3 a4) = State.kept s := by
  intro s a1 a2 a3 a4; unfold State.putFrameRecord; simp only [↓State.writeFrecs_kept]
theorem State.dropFrame_kept : ∀ s a1 a2 a3, State.kept (State.dropFrame s a1 a2 a3) = State.kept s := by
  intro s a1 a2 a3; unfold State.dropFrame; simp only [↓State.dropUnit_kept, ↓State.putFrameRecord_kept]
theorem State.recordRelease_kept : ∀ s a1 a2 a3, State.kept (State.recordRelease s a1 a2 a3) = State.kept s := by
  intro s a1 a2 a3; unfold State.recordRelease; simp only [↓kept_ite, ite_self, ↓State.setRoot_kept, ↓State.bump_kept, ↓State.post_kept]
theorem State.showSeq_kept : ∀ s a1 a2, State.kept (State.showSeq s a1 a2) = State.kept s := by
  intro s a1 a2; unfold State.showSeq; simp only [↓kept_ite, ite_self, ↓State.put_kept]
theorem State.newFrame_kept : ∀ s a1 a2 a3 a4, State.kept (State.newFrame s a1 a2 a3 a4).2 = State.kept s := by
  intro s a1 a2 a3 a4; unfold State.newFrame; simp only [↓snd_ite, ↓State.setRoot_kept, ↓State.showSeq_kept]
theorem State.pushFrame_kept : ∀ s a1, State.kept (State.pushFrame s a1) = State.kept s := by
  intro s a1; unfold State.pushFrame; simp only [↓State.setRoot_kept]
theorem State.mapFrames_kept (s : State) (t : Nat) (g : List Frame → List Frame) : State.kept (s.mapFrames t g) = s.kept := rfl
theorem State.dropWaiting_kept : ∀ s a1 a2, State.kept (State.dropWaiting s a1 a2) = State.kept s := by
  intro s a1 a2; unfold State.dropWaiting; (repeat' (first | (with_reducible rfl) | split | simp only [↓State.mapFrames_kept, ↓State.bump_kept, ↓State.dropFrame_kept]))
theorem State.enqueue_kept : ∀ s a1 a2, State.kept (State.enqueue s a1 a2) = State.kept s := by
  intro s a1 a2; unfold State.enqueue; (repeat' (first | (with_reducible rfl) | split | simp only [↓State.pushFrame_kept, ↓State.bump_kept, ↓State.dropFrame_kept, ↓State.dropWaiting_kept]))
theorem State.enterFrame_kept : ∀ s a1 a2, State.kept (State.enterFrame s a1 a2) = State.kept s := by
  intro s a1 a2; unfold State.enterFrame; (repeat' (first | (with_reducible rfl) | split | simp only [↓State.dropFrame_kept, ↓State.bump_kept, ↓State.pushFrame_kept, ↓State.enqueue_kept, ↓State.setBrew_kept]))
theorem State.frameStart_kept : ∀ s a1 a2, State.kept (State.frameStart s a1 a2) = State.kept s := by
  intro s a1 a2; unfold State.frameStart; ((repeat' (first | (with_reducible rfl) | split | simp only [↓State.enterFrame_kept]))); (all_goals (repeat (rename_i h; first | (have h' := congrArg (fun p => State.kept (Prod.snd p)) h; simp only [↓State.newFrame_kept] at h'; clear h; revert h') | clear h | revert h))); all_goals (intros; first | (with_reducible rfl) | (simp only [↓kept_mk, ↓kept_evt, ↓kept_ite, ↓snd_ite, ite_self, ↓kept_foldl, ↓kept_when, andThen_cons, andThen_nil, implies_true, kept_mk, kept_evt, ↓State.newFrame_kept, ↓State.enterFrame_kept]; done) | (simp only [↓kept_mk, ↓kept_evt, ↓kept_ite, ↓snd_ite, ite_self, ↓kept_foldl, ↓kept_when, andThen_cons, andThen_nil, implies_true, kept_mk, kept_evt, ↓State.newFrame_kept, ↓State.enterFrame_kept]; simp only [*]; done) | simp only [*])
theorem State.frameLost_kept : ∀ s a1 a2, State.kept (State.frameLost s a1 a2) = State.kept s := by
  intro s a1 a2; unfold State.frameLost; ((repeat' (first | (with_reducible rfl) | split | simp only [↓State.bump_kept, ↓State.post_kept, ↓State.putFrameRecord_kept]))); (all_goals (repeat (rename_i h; first | (have h' := congrArg (fun p => State.kept (Prod.snd p)) h; simp only [↓State.newFrame_kept] at h'; clear h; revert h') | clear h | revert h))); all_goals (intros; first | (with_reducible rfl) | (simp only [↓kept_mk, ↓kept_evt, ↓kept_ite, ↓snd_ite, ite_self, ↓kept_foldl, ↓kept_when, andThen_cons, andThen_nil, implies_true, kept_mk, kept_evt, ↓State.newFrame_kept, ↓State.bump_kept, ↓State.post_kept, ↓State.putFrameRecord_kept]; done) | (simp only [↓kept_mk, ↓kept_evt, ↓kept_ite, ↓snd_ite, ite_self, ↓kept_foldl, ↓kept_when, andThen_cons, andThen_nil, implies_true, kept_mk, kept_evt, ↓State.newFrame_kept, ↓State.bump_kept, ↓State.post_kept, ↓State.putFrameRecord_kept]; simp only [*]; done) | simp only [*])
theorem State.replaceUpTo_kept (s : State) (b : BrewRec) (n y : Nat) (f : Frame) : State.kept (s.replaceUpTo b n y f).2 = s.kept := by
  induction n generalizing s y f with
  | zero => rfl
  | succ n ih =>
    unfold State.replaceUpTo
    split
    · rfl
    · rw [ih, State.dropUnit_kept, State.bump_kept]
theorem State.updateFrame_kept : ∀ s a1, State.kept (State.updateFrame s a1) = State.kept s := by
  intro s a1; unfold State.updateFrame; simp only [↓State.mapFrames_kept]
theorem State.slotWrite_kept : ∀ s a1 a2 a3, State.kept (State.slotWrite s a1 a2 a3).2 = State.kept s := by
  intro s a1 a2 a3; unfold State.slotWrite; ((repeat' (first | (with_reducible rfl) | split | simp only))); (all_goals (repeat (rename_i h; first | (have h' := congrArg (fun p => State.kept (Prod.snd p)) h; simp only [↓State.takeFreeBytes_kept, ↓State.engWrite_kept] at h'; clear h; revert h') | clear h | revert h))); all_goals (intros; first | (with_reducible rfl) | (simp only [↓kept_mk, ↓kept_evt, ↓kept_ite, ↓snd_ite, ite_self, ↓kept_foldl, ↓kept_when, andThen_cons, andThen_nil, implies_true, kept_mk, kept_evt, ↓State.takeFreeBytes_kept, ↓State.engWrite_kept]; done) | (simp only [↓kept_mk, ↓kept_evt, ↓kept_ite, ↓snd_ite, ite_self, ↓kept_foldl, ↓kept_when, andThen_cons, andThen_nil, implies_true, kept_mk, kept_evt, ↓State.takeFreeBytes_kept, ↓State.engWrite_kept]; simp only [*]; done) | simp only [*])
theorem State.lineArrives_kept : ∀ s a1 a2 a3 a4, State.kept (State.lineArrives s a1 a2 a3 a4) = State.kept s := by
  intro s a1 a2 a3 a4; unfold State.lineArrives; ((repeat' (first | (with_reducible rfl) | split | simp only [↓State.replaceUpTo_kept, ↓State.updateFrame_kept]))); (all_goals (repeat (rename_i h; first | (have h' := congrArg (fun p => State.kept (Prod.snd p)) h; simp only [↓State.replaceUpTo_kept, ↓State.slotWrite_kept] at h'; clear h; revert h') | clear h | revert h))); all_goals (intros; first | (with_reducible rfl) | (simp only [↓kept_mk, ↓kept_evt, ↓kept_ite, ↓snd_ite, ite_self, ↓kept_foldl, ↓kept_when, andThen_cons, andThen_nil, implies_true, kept_mk, kept_evt, ↓State.replaceUpTo_kept, ↓State.updateFrame_kept, ↓State.slotWrite_kept, ↓State.pinnedMiss_kept]; done) | (simp only [↓kept_mk, ↓kept_evt, ↓kept_ite, ↓snd_ite, ite_self, ↓kept_foldl, ↓kept_when, andThen_cons, andThen_nil, implies_true, kept_mk, kept_evt, ↓State.replaceUpTo_kept, ↓State.updateFrame_kept, ↓State.slotWrite_kept, ↓State.pinnedMiss_kept]; simp only [*]; done) | simp only [*])
theorem State.lineLost_kept : ∀ s a1, State.kept (State.lineLost s a1) = State.kept s := by
  intro s a1; unfold State.lineLost; ((repeat' (first | (with_reducible rfl) | split | simp only [↓State.updateFrame_kept]))); (all_goals (repeat (rename_i h; first | (have h' := congrArg (fun p => State.kept (Prod.snd p)) h; simp only [↓State.replaceUpTo_kept] at h'; clear h; revert h') | clear h | revert h))); all_goals (intros; first | (with_reducible rfl) | (simp only [↓kept_mk, ↓kept_evt, ↓kept_ite, ↓snd_ite, ite_self, ↓kept_foldl, ↓kept_when, andThen_cons, andThen_nil, implies_true, kept_mk, kept_evt, ↓State.replaceUpTo_kept, ↓State.updateFrame_kept]; done) | (simp only [↓kept_mk, ↓kept_evt, ↓kept_ite, ↓snd_ite, ite_self, ↓kept_foldl, ↓kept_when, andThen_cons, andThen_nil, implies_true, kept_mk, kept_evt, ↓State.replaceUpTo_kept, ↓State.updateFrame_kept]; simp only [*]; done) | simp only [*])
theorem State.frameClose_kept : ∀ s a1, State.kept (State.frameClose s a1) = State.kept s := by
  intro s a1; unfold State.frameClose; ((repeat' (first | (with_reducible rfl) | split | simp only [↓State.updateFrame_kept]))); (all_goals (repeat (rename_i h; first | (have h' := congrArg (fun p => State.kept (Prod.snd p)) h; simp only [↓State.replaceUpTo_kept] at h'; clear h; revert h') | clear h | revert h))); all_goals (intros; first | (with_reducible rfl) | (simp only [↓kept_mk, ↓kept_evt, ↓kept_ite, ↓snd_ite, ite_self, ↓kept_foldl, ↓kept_when, andThen_cons, andThen_nil, implies_true, kept_mk, kept_evt, ↓State.replaceUpTo_kept, ↓State.updateFrame_kept]; done) | (simp only [↓kept_mk, ↓kept_evt, ↓kept_ite, ↓snd_ite, ite_self, ↓kept_foldl, ↓kept_when, andThen_cons, andThen_nil, implies_true, kept_mk, kept_evt, ↓State.replaceUpTo_kept, ↓State.updateFrame_kept]; simp only [*]; done) | simp only [*])
theorem State.commitFault_kept : ∀ s a1 a2, State.kept (State.commitFault s a1 a2) = State.kept s := by
  intro s a1 a2; unfold State.commitFault; simp only [↓kept_ite, ite_self, ↓State.setBit_kept, ↓State.setBrew_kept, ↓State.put_kept, ↓State.post_kept]
theorem State.commitFetch_kept : ∀ s a1, State.kept (State.commitFetch s a1) = State.kept s := by
  intro s a1; unfold State.commitFetch; ((repeat' (first | (with_reducible rfl) | split | simp only [↓State.setBrew_kept, ↓State.commitFault_kept]))); (all_goals (repeat (rename_i h; first | (have h' := congrArg (fun p => State.kept (Prod.snd p)) h; simp only [↓State.fetchBrew_kept] at h'; clear h; revert h') | clear h | revert h))); all_goals (intros; first | (with_reducible rfl) | (simp only [↓kept_mk, ↓kept_evt, ↓kept_ite, ↓snd_ite, ite_self, ↓kept_foldl, ↓kept_when, andThen_cons, andThen_nil, implies_true, kept_mk, kept_evt, ↓State.fetchBrew_kept, ↓State.setBrew_kept, ↓State.commitFault_kept]; done) | (simp only [↓kept_mk, ↓kept_evt, ↓kept_ite, ↓snd_ite, ite_self, ↓kept_foldl, ↓kept_when, andThen_cons, andThen_nil, implies_true, kept_mk, kept_evt, ↓State.fetchBrew_kept, ↓State.setBrew_kept, ↓State.commitFault_kept]; simp only [*]; done) | simp only [*])
theorem State.commitWrite_kept : ∀ s a1 a2, State.kept (State.commitWrite s a1 a2) = State.kept s := by
  intro s a1 a2; unfold State.commitWrite; (repeat' (first | (with_reducible rfl) | split | simp only [↓kept_ite, ite_self, ↓State.postIgnored_kept, ↓State.setBit_kept, ↓State.setBrew_kept, ↓State.commitFetch_kept]))
theorem State.commitLatch_kept : ∀ s a1, State.kept (State.commitLatch s a1) = State.kept s := by
  intro s a1; unfold State.commitLatch; (repeat' (first | (with_reducible rfl) | split | simp only [↓kept_mk, kept_mk, ↓State.commitFault_kept, ↓State.setBrew_kept, ↓State.setBit_kept]))
theorem State.ctxStarts_kept : ∀ s a1 a2, State.kept (State.ctxStarts s a1 a2) = State.kept s := by
  intro s a1 a2; unfold State.ctxStarts; simp only [↓kept_ite, ite_self, ↓State.setBrew_kept, ↓State.setBit_kept]
theorem State.emitSof_kept : ∀ s a1 a2, State.kept (State.emitSof s a1 a2) = State.kept s := by
  intro s a1 a2; unfold State.emitSof; simp only [↓kept_ite, ite_self, ↓kept_foldl, implies_true, ↓State.commitLatch_kept, ↓State.ctxStarts_kept, ↓State.switchTile_kept, ↓State.updateFrame_kept]
theorem State.arbitrate_kept : ∀ s a1, State.kept (State.arbitrate s a1) = State.kept s := by
  intro s a1; unfold State.arbitrate; (repeat' (first | (with_reducible rfl) | split | simp only [↓State.setBrew_kept]))
theorem State.stripeBoundary_kept : ∀ s a1, State.kept (State.stripeBoundary s a1) = State.kept s := by
  intro s a1; unfold State.stripeBoundary; (repeat' (first | (with_reducible rfl) | split | simp only [↓State.setBrew_kept, ↓State.emitSof_kept, ↓State.mapFrames_kept]))
theorem State.readSlot_kept : ∀ s a1 a2 a3, State.kept (State.readSlot s a1 a2 a3).2 = State.kept s := by
  intro s a1 a2 a3; induction a3 generalizing s a1 a2 with
    | zero => (unfold State.readSlot; ((repeat' (first | (with_reducible rfl) | split | simp only [↓kept_mk, ↓kept_evt, ↓kept_ite, ↓snd_ite, ite_self, ↓kept_foldl, ↓kept_when, andThen_cons, andThen_nil, implies_true, kept_mk, kept_evt, ↓State.engRead_kept, ↓State.pinnedMiss_kept, ↓State.bump_kept, ↓State.dropUnit_kept]))); (all_goals (repeat (rename_i h; first | (have h' := congrArg (fun p => State.kept (Prod.snd p)) h; simp only [↓kept_mk, ↓kept_evt, ↓kept_ite, ↓snd_ite, ite_self, ↓kept_foldl, ↓kept_when, andThen_cons, andThen_nil, implies_true, kept_mk, kept_evt, ↓State.engRead_kept, ↓State.pinnedMiss_kept, ↓State.bump_kept, ↓State.dropUnit_kept] at h'; clear h; revert h') | clear h | revert h))); all_goals (intros; first | (with_reducible rfl) | (simp only [↓kept_mk, ↓kept_evt, ↓kept_ite, ↓snd_ite, ite_self, ↓kept_foldl, ↓kept_when, andThen_cons, andThen_nil, implies_true, kept_mk, kept_evt, ↓State.engRead_kept, ↓State.pinnedMiss_kept, ↓State.bump_kept, ↓State.dropUnit_kept]; done) | (simp only [↓kept_mk, ↓kept_evt, ↓kept_ite, ↓snd_ite, ite_self, ↓kept_foldl, ↓kept_when, andThen_cons, andThen_nil, implies_true, kept_mk, kept_evt, ↓State.engRead_kept, ↓State.pinnedMiss_kept, ↓State.bump_kept, ↓State.dropUnit_kept]; simp only [*]; done) | simp only [*]))
    | succ t0 ih0 => (unfold State.readSlot; ((repeat' (first | (with_reducible rfl) | split | simp only [↓State.bump_kept, ↓State.dropUnit_kept]))); ((all_goals (repeat (rename_i h; first | (have h' := congrArg (fun p => State.kept (Prod.snd p)) h; simp only [↓State.engRead_kept, ih0] at h'; clear h; revert h') | clear h | revert h))); all_goals (intros; first | (with_reducible rfl) | (simp only [↓kept_mk, ↓kept_evt, ↓kept_ite, ↓snd_ite, ite_self, ↓kept_foldl, ↓kept_when, andThen_cons, andThen_nil, implies_true, kept_mk, kept_evt, ↓State.engRead_kept, ↓State.pinnedMiss_kept, ↓State.bump_kept, ↓State.dropUnit_kept]; done) | (simp only [↓kept_mk, ↓kept_evt, ↓kept_ite, ↓snd_ite, ite_self, ↓kept_foldl, ↓kept_when, andThen_cons, andThen_nil, implies_true, kept_mk, kept_evt, ↓State.engRead_kept, ↓State.pinnedMiss_kept, ↓State.bump_kept, ↓State.dropUnit_kept]; simp only [*]; done) | simp only [*])))

theorem State.setStream_kept : ∀ s a1 a2, State.kept (State.setStream s a1 a2) = State.kept s := by
  intro s a1 a2; unfold State.setStream; simp only [↓kept_mk, kept_mk]
theorem State.feed_kept : ∀ s a1 a2 a3, State.kept (State.feed s a1 a2 a3) = State.kept s := by
  intro s a1 a2 a3; unfold State.feed; simp only [↓kept_foldl, implies_true, ↓State.setStream_kept]
theorem State.overtake_kept : ∀ s a1 a2, State.kept (State.overtake s a1 a2) = State.kept s := by
  intro s a1 a2; unfold State.overtake; simp only [↓kept_foldl, implies_true, ↓State.setStream_kept]

theorem State.pfcCheck_kept : ∀ s a1, State.kept (State.pfcCheck s a1) = State.kept s := by
  intro s a1; unfold State.pfcCheck; simp only [↓kept_mk, ↓kept_ite, ite_self, kept_mk, ↓State.emit_kept]
theorem State.countHeld_kept : ∀ s a1 a2 a3, State.kept (State.countHeld s a1 a2 a3) = State.kept s := by
  intro s a1 a2 a3; unfold State.countHeld; simp only [andThen_cons, andThen_nil, ↓State.put_kept]
theorem State.grantSachet_kept : ∀ s a1 a2 a3, State.kept (State.grantSachet s a1 a2 a3) = State.kept s := by
  intro s a1 a2 a3; unfold State.grantSachet; simp only [↓kept_mk, ↓kept_ite, ite_self, ↓kept_when, kept_mk, ↓State.bringUp_kept, ↓State.countHeld_kept, ↓State.emit_kept, ↓State.pfcCheck_kept]
theorem State.tryGrant_kept (s : State) (c k : Nat) (t : State) (h : s.tryGrant c k = some t) : t.kept = s.kept := by
  unfold State.tryGrant at h
  split at h
  · obtain ⟨x, -, rfl⟩ := Option.map_eq_some_iff.1 h
    exact State.grantSachet_kept _ _ _ _
  · cases h
theorem State.sachetRequest_kept (s : State) (c k : Nat) : State.kept (s.sachetRequest c k) = s.kept := by
  unfold State.sachetRequest
  split
  · rename_i t h; exact State.tryGrant_kept _ _ _ _ h
  · extract_lets t
    have h : t.kept = s.kept := by simp only [t, ↓State.bumpBy_kept, ↓State.bump_kept]
    rw [show State.kept { t with caddy := { t.caddy with waits := t.caddy.waits ++ [(c, k)] } } = t.kept from kept_mk t .., h]
theorem State.unwait_kept : ∀ s a1, State.kept (State.unwait s a1) = State.kept s := by
  intro s a1; unfold State.unwait; simp only [↓kept_mk, kept_mk, ↓State.put_kept]
theorem State.serveWaits_kept (s : State) (l : List (Nat × Nat)) : State.kept (s.serveWaits l) = s.kept := by
  induction l generalizing s with
  | nil => rfl
  | cons x r ih =>
    unfold State.serveWaits
    split
    · rename_i t h; rw [State.tryGrant_kept _ _ _ _ h, State.unwait_kept]
    · exact ih s
theorem State.sachetRelease_kept : ∀ s a1, State.kept (State.sachetRelease s a1) = State.kept s := by
  intro s a1; unfold State.sachetRelease; (repeat' (first | (with_reducible rfl) | split | simp only [↓kept_mk, ↓kept_when, kept_mk, ↓State.countHeld_kept, ↓State.pfcCheck_kept, ↓State.unwait_kept, ↓State.grantSachet_kept, ↓State.serveWaits_kept]))
theorem State.repartition_kept : ∀ s a1, State.kept (State.repartition s a1) = State.kept s := by
  intro s a1; unfold State.repartition; simp only [↓kept_foldl, andThen_cons, andThen_nil, implies_true, ↓State.put_kept]

theorem State.setVce_kept : ∀ s a1 a2, State.kept (State.setVce s a1 a2) = State.kept s := by
  intro s a1 a2; unfold State.setVce; simp only [↓kept_mk, kept_mk]
theorem State.setVceState_kept : ∀ s a1 a2, State.kept (State.setVceState s a1 a2) = State.kept s := by
  intro s a1 a2; unfold State.setVceState; simp only [↓State.put_kept]
theorem State.openCheck_kept : ∀ s a1, State.kept (State.openCheck s a1).2.2 = State.kept s := by
  intro s a1; unfold State.openCheck; ((repeat' (first | (with_reducible rfl) | split | simp only [↓snd_ite]))); (all_goals (repeat (rename_i h; first | (have h' := congrArg (fun p => State.kept (Prod.snd p)) h; simp only [↓State.engRead_kept] at h'; clear h; revert h') | clear h | revert h))); all_goals (intros; first | (with_reducible rfl) | (simp only [↓kept_mk, ↓kept_evt, ↓kept_ite, ↓snd_ite, ite_self, ↓kept_foldl, ↓kept_when, andThen_cons, andThen_nil, implies_true, kept_mk, kept_evt, ↓State.engRead_kept]; done) | (simp only [↓kept_mk, ↓kept_evt, ↓kept_ite, ↓snd_ite, ite_self, ↓kept_foldl, ↓kept_when, andThen_cons, andThen_nil, implies_true, kept_mk, kept_evt, ↓State.engRead_kept]; simp only [*]; done) | simp only [*])
theorem State.vceRefresh_kept : ∀ s a1, State.kept (State.vceRefresh s a1) = State.kept s := by
  intro s a1; unfold State.vceRefresh; (repeat' (first | (with_reducible rfl) | split | simp only [↓kept_mk, ↓kept_ite, kept_mk, ↓State.setVceState_kept, ↓State.setVce_kept]))
theorem State.vceReport_kept : ∀ s a1 a2 a3, State.kept (State.vceReport s a1 a2 a3).2 = State.kept s := by
  intro s a1 a2 a3; unfold State.vceReport; ((repeat' (first | (with_reducible rfl) | split | simp only [↓State.bump_kept, ↓State.irq_kept, ↓State.feed_kept]))); (all_goals (repeat (rename_i h; first | (have h' := congrArg (fun p => State.kept (Prod.snd p)) h; simp only [↓kept_when, ↓State.bump_kept, ↓State.ringRecord_kept] at h'; clear h; revert h') | clear h | revert h))); all_goals (intros; first | (with_reducible rfl) | (simp only [↓kept_mk, ↓kept_evt, ↓kept_ite, ↓snd_ite, ite_self, ↓kept_foldl, ↓kept_when, andThen_cons, andThen_nil, implies_true, kept_mk, kept_evt, ↓State.bump_kept, ↓State.ringRecord_kept, ↓State.irq_kept, ↓State.feed_kept]; done) | (simp only [↓kept_mk, ↓kept_evt, ↓kept_ite, ↓snd_ite, ite_self, ↓kept_foldl, ↓kept_when, andThen_cons, andThen_nil, implies_true, kept_mk, kept_evt, ↓State.bump_kept, ↓State.ringRecord_kept, ↓State.irq_kept, ↓State.feed_kept]; simp only [*]; done) | simp only [*])
theorem State.vceSuspend_kept : ∀ s a1 a2 a3 a4 a5, State.kept (State.vceSuspend s a1 a2 a3 a4 a5) = State.kept s := by
  intro s a1 a2 a3 a4 a5; unfold State.vceSuspend; simp only [↓kept_ite, ite_self, ↓State.setVce_kept, ↓State.setVceState_kept, ↓State.unitFault_kept]
theorem State.chainGrow_kept (s : State) (n k fuel : Nat) : State.kept (s.chainGrow n k fuel) = s.kept := by
  induction fuel generalizing s with
  | zero => rfl
  | succ f ih =>
    unfold State.chainGrow
    split
    · rfl
    · rw [ih, State.sachetRequest_kept]
theorem State.chainFree_kept : ∀ s a1, State.kept (State.chainFree s a1) = State.kept s := by
  intro s a1; unfold State.chainFree; simp only [↓kept_ite, ite_self, ↓kept_foldl, implies_true, ↓State.unwait_kept, ↓State.sachetRelease_kept]
theorem State.scramble_kept : ∀ s a1 a2 a3, State.kept (State.scramble s a1 a2 a3).2 = State.kept s := by
  intro s a1 a2 a3; unfold State.scramble; simp only [↓State.takeFreeBytes_kept, ↓State.engWrite_kept]
theorem State.vceDrain_kept (s : State) (n k : Nat) : State.kept (s.vceDrain n k) = s.kept := by
  induction k generalizing s with
  | zero => rfl
  | succ k ih =>
    unfold State.vceDrain
    extract_lets +onlyGivenNames x
    split
    · rfl
    · split
      · exact State.setVce_kept _ _ _
      · extract_lets +onlyGivenNames cnt slot next
        split
        · exact State.setVceState_kept _ _ _
        · split
          rename_i bytes pitch _
          extract_lets +onlyGivenNames a rest
          have h := State.engWrite_kept s (x.req n x.outUnit false) a bytes
          split
          · rename_i t e
            rw [e] at h
            rw [ih, State.vceReport_kept, State.setVce_kept, State.put_kept]; exact h
          · rename_i t e
            rw [e] at h
            rw [State.vceSuspend_kept]; exact h
          · rename_i t _ e
            rw [e] at h
            rw [ih, State.vceReport_kept, State.post_kept, State.setVce_kept]; exact h
theorem State.vceDiscard_kept (s : State) (n : Nat) (l : List DecodedPic) : State.kept (s.vceDiscard n l) = s.kept := by
  induction l generalizing s with
  | nil => rfl
  | cons d r ih => unfold State.vceDiscard; rw [ih, State.vceReport_kept]
theorem State.vceClosed_kept : ∀ s a1, State.kept (State.vceClosed s a1) = State.kept s := by
  intro s a1; unfold State.vceClosed; simp only [↓State.chainFree_kept, ↓State.setVce_kept, ↓State.setVceState_kept]
theorem State.vceBoundary_kept : ∀ s a1, State.kept (State.vceBoundary s a1) = State.kept s := by
  intro s a1; unfold State.vceBoundary; simp only [↓kept_ite, ite_self, ↓State.setVce_kept, ↓State.setVceState_kept, ↓State.vceRefresh_kept, ↓State.vceDrain_kept, ↓State.vceClosed_kept, ↓State.vceDiscard_kept]
theorem State.encodeDrop_kept : ∀ s a1, State.kept (State.encodeDrop s a1) = State.kept s := by
  intro s a1; unfold State.encodeDrop; (repeat' (first | (with_reducible rfl) | split | simp only [↓State.chainFree_kept, ↓State.post_kept, ↓State.vceReport_kept, ↓State.setVce_kept, ↓State.setVceState_kept, ↓State.vceBoundary_kept]))
theorem State.encodeDone_kept : ∀ s a1 a2 a3 a4, State.kept (State.encodeDone s a1 a2 a3 a4) = State.kept s := by
  intro s a1 a2 a3 a4; unfold State.encodeDone; ((repeat' (first | (with_reducible rfl) | split | simp only [↓kept_when, ↓State.vceSuspend_kept, ↓State.encodeDrop_kept, ↓State.setVce_kept, ↓State.scramble_kept, ↓State.bump_kept, ↓State.vceReport_kept, ↓State.chainFree_kept, ↓State.put_kept, ↓State.setVceState_kept, ↓State.vceBoundary_kept]))); (all_goals (repeat (rename_i h; first | (have h' := congrArg (fun p => State.kept (Prod.snd p)) h; simp only [↓State.engRead_kept, ↓State.setVce_kept, ↓State.engWrite_kept] at h'; clear h; revert h') | clear h | revert h))); all_goals (intros; first | (with_reducible rfl) | (simp only [↓kept_mk, ↓kept_evt, ↓kept_ite, ↓snd_ite, ite_self, ↓kept_foldl, ↓kept_when, andThen_cons, andThen_nil, implies_true, kept_mk, kept_evt, ↓State.engRead_kept, ↓State.vceSuspend_kept, ↓State.encodeDrop_kept, ↓State.setVce_kept, ↓State.engWrite_kept, ↓State.scramble_kept, ↓State.bump_kept, ↓State.vceReport_kept, ↓State.chainFree_kept, ↓State.put_kept, ↓State.setVceState_kept, ↓State.vceBoundary_kept]; done) | (simp only [↓kept_mk, ↓kept_evt, ↓kept_ite, ↓snd_ite, ite_self, ↓kept_foldl, ↓kept_when, andThen_cons, andThen_nil, implies_true, kept_mk, kept_evt, ↓State.engRead_kept, ↓State.vceSuspend_kept, ↓State.encodeDrop_kept, ↓State.setVce_kept, ↓State.engWrite_kept, ↓State.scramble_kept, ↓State.bump_kept, ↓State.vceReport_kept, ↓State.chainFree_kept, ↓State.put_kept, ↓State.setVceState_kept, ↓State.vceBoundary_kept]; simp only [*]; done) | simp only [*])
theorem State.decodeLeft_kept : ∀ s a1 a2 a3, State.kept (State.decodeLeft s a1 a2 a3) = State.kept s := by
  intro s a1 a2 a3; unfold State.decodeLeft; simp only [↓State.setVce_kept, ↓State.setVceState_kept, ↓State.vceDrain_kept, ↓State.vceBoundary_kept]
theorem State.decodeUnsup_kept : ∀ s a1 a2 a3 a4, State.kept (State.decodeUnsup s a1 a2 a3 a4) = State.kept s := by
  intro s a1 a2 a3 a4; unfold State.decodeUnsup; simp only [↓kept_ite, ite_self, ↓State.post_kept, ↓State.vceReport_kept, ↓State.decodeLeft_kept]
theorem State.decodeRasl_kept : ∀ s a1 a2 a3 a4, State.kept (State.decodeRasl s a1 a2 a3 a4) = State.kept s := by
  intro s a1 a2 a3 a4; unfold State.decodeRasl; simp only [↓State.vceReport_kept, ↓State.decodeLeft_kept]
theorem State.decodeShown_kept : ∀ s a1 a2 a3 a4 a5, State.kept (State.decodeShown s a1 a2 a3 a4 a5) = State.kept s := by
  intro s a1 a2 a3 a4 a5; unfold State.decodeShown; simp only [↓kept_when, andThen_cons, andThen_nil, ↓State.bumpBy_kept, ↓State.post_kept, ↓State.bump_kept, ↓State.scramble_kept, ↓State.decodeLeft_kept]
theorem State.decodeWith_kept : ∀ s a1 a2, State.kept (State.decodeWith s a1 a2) = State.kept s := by
  intro s a1 a2; unfold State.decodeWith; ((repeat' (first | (with_reducible rfl) | split | simp only [↓State.vceSuspend_kept, ↓State.chainFree_kept, ↓State.decodeUnsup_kept, ↓State.decodeRasl_kept, ↓State.decodeShown_kept]))); (all_goals (repeat (rename_i h; first | (have h' := congrArg (fun p => State.kept (Prod.snd p)) h; simp only [↓State.engRead_kept] at h'; clear h; revert h') | clear h | revert h))); all_goals (intros; first | (with_reducible rfl) | (simp only [↓kept_mk, ↓kept_evt, ↓kept_ite, ↓snd_ite, ite_self, ↓kept_foldl, ↓kept_when, andThen_cons, andThen_nil, implies_true, kept_mk, kept_evt, ↓State.engRead_kept, ↓State.vceSuspend_kept, ↓State.chainFree_kept, ↓State.decodeUnsup_kept, ↓State.decodeRasl_kept, ↓State.decodeShown_kept]; done) | (simp only [↓kept_mk, ↓kept_evt, ↓kept_ite, ↓snd_ite, ite_self, ↓kept_foldl, ↓kept_when, andThen_cons, andThen_nil, implies_true, kept_mk, kept_evt, ↓State.engRead_kept, ↓State.vceSuspend_kept, ↓State.chainFree_kept, ↓State.decodeUnsup_kept, ↓State.decodeRasl_kept, ↓State.decodeShown_kept]; simp only [*]; done) | simp only [*])
theorem State.decodeFail_kept : ∀ s a1, State.kept (State.decodeFail s a1) = State.kept s := by
  intro s a1; unfold State.decodeFail; (repeat' (first | (with_reducible rfl) | split | simp only [↓State.setVce_kept, ↓State.decodeWith_kept]))
theorem State.vceFail_kept : ∀ s a1, State.kept (State.vceFail s a1) = State.kept s := by
  intro s a1; unfold State.vceFail; simp only [↓kept_ite, ite_self, ↓State.decodeFail_kept, ↓State.encodeDrop_kept]
theorem State.vceWork_kept : ∀ s a1 a2, State.kept (State.vceWork s a1 a2) = State.kept s := by
  intro s a1 a2; unfold State.vceWork; (repeat' (first | (with_reducible rfl) | split | simp only [↓State.encodeDone_kept, ↓State.decodeWith_kept]))
theorem State.vceFinish_kept : ∀ s a1 a2, State.kept (State.vceFinish s a1 a2) = State.kept s := by
  intro s a1 a2; unfold State.vceFinish; (repeat' (first | (with_reducible rfl) | split | simp only [↓State.chainGrow_kept, ↓State.setVce_kept, ↓State.setVceState_kept, ↓State.vceWork_kept]))
theorem State.vceChains_kept (s : State) (fuel : Nat) : State.kept (s.vceChains fuel) = s.kept := by
  induction fuel generalizing s with
  | zero => rfl
  | succ f ih =>
    unfold State.vceChains
    split
    · rfl
    · rw [ih, State.vceFinish_kept]
theorem State.vceRestart_kept : ∀ s a1, State.kept (State.vceRestart s a1) = State.kept s := by
  intro s a1; unfold State.vceRestart; (repeat' (first | (with_reducible rfl) | split | simp only [↓State.setVceState_kept, ↓State.vceDrain_kept, ↓State.vceBoundary_kept, ↓State.vceFinish_kept]))
theorem State.vceFailFault_kept : ∀ s a1, State.kept (State.vceFailFault s a1) = State.kept s := by
  intro s a1; unfold State.vceFailFault; (repeat' (first | (with_reducible rfl) | split | simp only [↓kept_ite, ↓State.setVce_kept, ↓State.post_kept, ↓State.setVceState_kept, ↓State.vceReport_kept, ↓State.vceDrain_kept, ↓State.vceBoundary_kept, ↓State.vceFail_kept]))
theorem State.vceOpen_kept (s : State) (n : Nat) : State.kept (s.vceOpen n) = s.kept := by
  unfold State.vceOpen
  split
  · rfl
  · have h := State.openCheck_kept s n
    split
    · rename_i d t e
      rw [e] at h
      simp only [andThen_cons, andThen_nil, ↓State.wreg_kept, ↓State.put_kept, ↓State.setVceState_kept, ↓State.setVce_kept]
      exact h
    · rename_i e d t _ e'
      rw [e'] at h
      rw [State.post_kept]; exact h
theorem State.vceClose_kept : ∀ s a1, State.kept (State.vceClose s a1) = State.kept s := by
  intro s a1; unfold State.vceClose; simp only [↓kept_ite, ite_self, ↓kept_foldl, implies_true, ↓State.setVce_kept, ↓State.withdrawFault_kept, ↓State.setVceState_kept, ↓State.vceFailFault_kept, ↓State.vceBoundary_kept]
theorem State.vceReloadNow_kept : ∀ s a1, State.kept (State.vceReloadNow s a1) = State.kept s := by
  intro s a1; unfold State.vceReloadNow; simp only [↓kept_ite, ite_self, ↓State.setVce_kept, ↓State.openCheck_kept, ↓State.put_kept, ↓State.post_kept]
theorem wrVceCtrl_kept : ∀ a0 a1 s, State.kept (wrVceCtrl a0 a1 s) = State.kept s := by
  intro a0 a1 s; unfold wrVceCtrl; simp only [↓kept_ite, ite_self, ↓kept_when, ↓State.vceOpen_kept, ↓State.setVce_kept, ↓State.vceClose_kept]
theorem wrVceCfg_kept : ∀ a0 a1 s, State.kept (wrVceCfg a0 a1 s) = State.kept s := by
  intro a0 a1 s; unfold wrVceCfg; simp only [↓kept_ite, ite_self, ↓State.postIgnored_kept, ↓State.plainWrite_kept]
theorem wrVce_kept : ∀ a0 a1 a2 s, State.kept (wrVce a0 a1 a2 s) = State.kept s := by
  intro a0 a1 a2 s; unfold wrVce; simp only [↓kept_ite, ite_self, ↓wrVceCfg_kept, ↓State.plainWrite_kept, ↓State.postIgnored_kept, ↓wrVceCtrl_kept]
theorem State.encodeCandidate_kept : ∀ s a1, State.kept (State.encodeCandidate s a1) = State.kept s := by
  intro s a1; unfold State.encodeCandidate; (repeat' (first | (with_reducible rfl) | split | simp only [↓State.setVce_kept, ↓State.bump_kept, ↓State.vceRefresh_kept]))
theorem State.decodeJobTake_kept : ∀ s a1, State.kept (State.decodeJobTake s a1) = State.kept s := by
  intro s a1; unfold State.decodeJobTake; simp only [↓kept_mk, ↓kept_ite, ite_self, kept_mk, ↓State.vceReloadNow_kept, ↓State.engRead_kept, ↓State.put_kept, ↓State.setVce_kept]
theorem State.vceResumePic_kept : ∀ s a1 a2 a3 a4, State.kept (State.vceResumePic s a1 a2 a3 a4) = State.kept s := by
  intro s a1 a2 a3 a4; unfold State.vceResumePic; ((repeat' (first | (with_reducible rfl) | split | simp only [↓State.setVceState_kept, ↓State.vceFail_kept]))); (all_goals (repeat (rename_i h; first | (have h' := congrArg (fun p => State.kept (Prod.snd p)) h; simp only [↓kept_mk, kept_mk, ↓State.setVce_kept, ↓State.engRead_kept] at h'; clear h; revert h') | clear h | revert h))); all_goals (intros; first | (with_reducible rfl) | (simp only [↓kept_mk, ↓kept_evt, ↓kept_ite, ↓snd_ite, ite_self, ↓kept_foldl, ↓kept_when, andThen_cons, andThen_nil, implies_true, kept_mk, kept_evt, ↓State.setVce_kept, ↓State.engRead_kept, ↓State.setVceState_kept, ↓State.vceFail_kept]; done) | (simp only [↓kept_mk, ↓kept_evt, ↓kept_ite, ↓snd_ite, ite_self, ↓kept_foldl, ↓kept_when, andThen_cons, andThen_nil, implies_true, kept_mk, kept_evt, ↓State.setVce_kept, ↓State.engRead_kept, ↓State.setVceState_kept, ↓State.vceFail_kept]; simp only [*]; done) | simp only [*])
theorem State.encodeTake_kept : ∀ s a1 a2 a3, State.kept (State.encodeTake s a1 a2 a3) = State.kept s := by
  intro s a1 a2 a3; unfold State.encodeTake; ((repeat' (first | (with_reducible rfl) | split | simp only [↓kept_mk, ↓snd_ite, kept_mk, ↓State.vceReloadNow_kept, ↓State.post_kept, ↓State.vceReport_kept, ↓State.setVce_kept, ↓State.vceRefresh_kept, ↓State.setVceState_kept]))); (all_goals (repeat (rename_i h; first | (have h' := congrArg (fun p => State.kept (Prod.snd p)) h; simp only [↓State.vceReloadNow_kept, ↓State.engRead_kept] at h'; clear h; revert h') | clear h | revert h))); all_goals (intros; first | (with_reducible rfl) | (simp only [↓kept_mk, ↓kept_evt, ↓kept_ite, ↓snd_ite, ite_self, ↓kept_foldl, ↓kept_when, andThen_cons, andThen_nil, implies_true, kept_mk, kept_evt, ↓State.vceReloadNow_kept, ↓State.engRead_kept, ↓State.post_kept, ↓State.vceReport_kept, ↓State.setVce_kept, ↓State.vceRefresh_kept, ↓State.setVceState_kept]; done) | (simp only [↓kept_mk, ↓kept_evt, ↓kept_ite, ↓snd_ite, ite_self, ↓kept_foldl, ↓kept_when, andThen_cons, andThen_nil, implies_true, kept_mk, kept_evt, ↓State.vceReloadNow_kept, ↓State.engRead_kept, ↓State.post_kept, ↓State.vceReport_kept, ↓State.setVce_kept, ↓State.vceRefresh_kept, ↓State.setVceState_kept]; simp only [*]; done) | simp only [*])
theorem State.pictureStart_kept : ∀ s a1, State.kept (State.pictureStart s a1) = State.kept s := by
  intro s a1; unfold State.pictureStart; (repeat' (first | (with_reducible rfl) | split | simp only [↓kept_mk, kept_mk, ↓State.vceResumePic_kept, ↓State.setVce_kept, ↓State.setVceState_kept, ↓State.encodeTake_kept]))
-- TODO vcePreempted S ....
theorem vcePreempted_kept (n : Nat) (x : VceCtx) (r : CodecRun) (p : Except AccErr Unit × State) :
    State.kept (vcePreempted n x r p) = p.2.kept := by
  obtain ⟨e | u, v⟩ := p
  · unfold vcePreempted; dsimp only; rw [State.vceFail_kept]
  · unfold vcePreempted; dsimp only; simp only [↓State.setVceState_kept, ↓State.setVce_kept, ↓kept_mk]
theorem State.vceStopped_kept (s : State) (n : Nat) (x : VceCtx) (r : CodecRun) : State.kept (s.vceStopped n x r) = s.kept := by
  unfold State.vceStopped; rw [vcePreempted_kept, State.scramble_kept]
theorem State.picturePreempt_kept (s : State) : State.kept s.picturePreempt = s.kept := by
  unfold State.picturePreempt
  extract_lets +onlyGivenNames need
  split
  · rfl
  · extract_lets +onlyGivenNames l
    split
    · rfl
    · split
      · rfl
      · split
        · rw [State.vceStopped_kept, kept_foldl _ (fun s u => State.withdrawFault_kept s u)]
        · split
          · rw [State.vceStopped_kept]
          · rfl
theorem State.pictureDone_kept : ∀ s a1 a2, State.kept (State.pictureDone s a1 a2) = State.kept s := by
  intro s a1 a2; unfold State.pictureDone; simp only [↓kept_ite, ite_self, ↓State.vceFinish_kept, ↓State.vceChains_kept]
theorem State.outputSlotFree_kept : ∀ s a1, State.kept (State.outputSlotFree s a1) = State.kept s := by
  intro s a1; unfold State.outputSlotFree; simp only [↓kept_ite, ite_self, ↓State.setVceState_kept, ↓State.vceDrain_kept, ↓State.vceBoundary_kept]

theorem State.setScp_kept : ∀ s a1 a2, State.kept (State.setScp s a1 a2) = State.kept s := by
  intro s a1 a2; unfold State.setScp; simp only [↓kept_mk, kept_mk]
theorem State.setRx_kept : ∀ s a1 a2, State.kept (State.setRx s a1 a2) = State.kept s := by
  intro s a1 a2; unfold State.setRx; simp only [↓kept_mk, kept_mk]
theorem State.setTx_kept : ∀ s a1 a2, State.kept (State.setTx s a1 a2) = State.kept s := by
  intro s a1 a2; unfold State.setTx; simp only [↓kept_mk, kept_mk]
theorem State.emitScp_kept : ∀ s a1 a2 a3, State.kept (State.emitScp s a1 a2 a3) = State.kept s := by
  intro s a1 a2 a3; unfold State.emitScp; simp only [↓kept_ite, ite_self, ↓State.emit_kept]
theorem State.sendEntry_kept : ∀ s a1 a2 a3, State.kept (State.sendEntry s a1 a2 a3) = State.kept s := by
  intro s a1 a2 a3; unfold State.sendEntry; (repeat' (first | (with_reducible rfl) | split | simp only [↓State.setScp_kept, ↓State.emitScp_kept]))
theorem State.scpNext_kept : ∀ s a1, State.kept (State.scpNext s a1) = State.kept s := by
  intro s a1; unfold State.scpNext; (repeat' (first | (with_reducible rfl) | split | simp only [↓kept_ite, andThen_cons, andThen_nil, ↓State.setScp_kept, ↓State.emitScp_kept, ↓State.put_kept, ↓State.putB_kept, ↓State.sendEntry_kept]))
theorem State.burstEnds_kept : ∀ s a1 a2 a3, State.kept (State.burstEnds s a1 a2 a3) = State.kept s := by
  intro s a1 a2 a3; unfold State.burstEnds; simp only [andThen_cons, andThen_nil, ↓State.setScp_kept, ↓State.put_kept, ↓State.scpNext_kept]
theorem wrScpCmdctl_kept : ∀ a0 a1 s, State.kept (wrScpCmdctl a0 a1 s) = State.kept s := by
  intro a0 a1 s; unfold wrScpCmdctl; simp only [↓kept_ite, ite_self, ↓State.put_kept, ↓State.setScp_kept, ↓State.scpNext_kept]
theorem State.vselDone_kept : ∀ s a1 a2, State.kept (State.vselDone s a1 a2) = State.kept s := by
  intro s a1 a2; unfold State.vselDone; simp only [↓kept_ite, ite_self, ↓State.setRx_kept, ↓State.post_kept]
theorem State.immEnds_kept : ∀ s a1 a2 a3, State.kept (State.immEnds s a1 a2 a3) = State.kept s := by
  intro s a1 a2 a3; unfold State.immEnds; (repeat' (first | (with_reducible rfl) | split | simp only [↓State.setScp_kept, ↓State.vselDone_kept, ↓State.put_kept, ↓State.scpNext_kept]))
theorem State.releaseBurst_kept : ∀ s a1 a2, State.kept (State.releaseBurst s a1 a2) = State.kept s := by
  intro s a1 a2; unfold State.releaseBurst; simp only [↓kept_ite, ite_self, ↓State.setScp_kept, ↓State.recordRelease_kept]
theorem State.releaseDue_kept : ∀ s a1, State.kept (State.releaseDue s a1) = State.kept s := by
  intro s a1; unfold State.releaseDue; simp only [↓kept_ite, ite_self, ↓kept_foldl, implies_true, ↓State.releaseBurst_kept, ↓State.scpNext_kept]
theorem State.disarm_kept : ∀ s a1 a2, State.kept (State.disarm s a1 a2) = State.kept s := by
  intro s a1 a2; unfold State.disarm; simp only [↓kept_ite, ite_self, ↓State.setScp_kept, ↓State.put_kept]
theorem State.arm_kept : ∀ s a1 a2, State.kept (State.arm s a1 a2) = State.kept s := by
  intro s a1 a2; unfold State.arm; simp only [↓kept_ite, ite_self, andThen_cons, andThen_nil, ↓State.setScp_kept, ↓State.put_kept, ↓State.releaseDue_kept]
theorem wrScpBdesc_kept : ∀ a0 a1 a2 s, State.kept (wrScpBdesc a0 a1 a2 s) = State.kept s := by
  intro a0 a1 a2 s; unfold wrScpBdesc; simp only [↓kept_ite, ite_self, ↓State.disarm_kept, ↓State.put_kept, ↓State.arm_kept]
theorem wrScpBurstReg_kept : ∀ a0 a1 a2 a3 a4 s, State.kept (wrScpBurstReg a0 a1 a2 a3 a4 s) = State.kept s := by
  intro a0 a1 a2 a3 a4 s; unfold wrScpBurstReg; simp only [↓kept_ite, ite_self, ↓State.plainWrite_kept]
theorem State.burstStops_kept : ∀ s a1 a2 a3 a4, State.kept (State.burstStops s a1 a2 a3 a4) = State.kept s := by
  intro s a1 a2 a3 a4; unfold State.burstStops; simp only [↓State.post_kept, ↓State.burstEnds_kept]
theorem State.entryEnds_kept : ∀ s a1 a2 a3, State.kept (State.entryEnds s a1 a2 a3) = State.kept s := by
  intro s a1 a2 a3; unfold State.entryEnds; (repeat' (first | (with_reducible rfl) | split | simp only [↓State.burstStops_kept, ↓State.put_kept, ↓State.burstEnds_kept, ↓State.sendEntry_kept]))
theorem wrScpBmem_kept : ∀ a0 a1 s, State.kept (wrScpBmem a0 a1 s) = State.kept s := by
  intro a0 a1 s; unfold wrScpBmem; simp only [↓kept_ite, ite_self, ↓State.setScp_kept, ↓State.incr_kept]
theorem rdScpBmem_kept : ∀ a0 s, State.kept (rdScpBmem a0 s).2 = State.kept s := by
  intro a0 s; unfold rdScpBmem; simp only [↓State.incr_kept]
theorem State.access_kept (s : State) (off : Nat) (rd : State → Word × State) (wr : Word → State → State) (w : Option Word)
    (h : ∀ s, State.kept (rd s).2 = s.kept) (h' : ∀ v s, State.kept (wr v s) = s.kept) : State.kept (s.access off rd wr w) = s.kept := by
  unfold State.access
  split
  · rw [State.answer_kept]; exact State.guardRead_kept _ _ _ h
  · exact State.guardWrite_kept _ _ _ (h' _)
theorem State.setTfile_kept : ∀ s a1 a2 a3, State.kept (State.setTfile s a1 a2 a3) = State.kept s := by
  intro s a1 a2 a3; unfold State.setTfile; simp only [↓kept_mk, kept_mk]
theorem wrScpTfile_kept : ∀ a0 a1 s, State.kept (wrScpTfile a0 a1 s) = State.kept s := by
  intro a0 a1 s; unfold wrScpTfile; simp only [↓State.setTfile_kept, ↓State.incr_kept]
theorem rdScpTfile_kept : ∀ a0 s, State.kept (rdScpTfile a0 s).2 = State.kept s := by
  intro a0 s; unfold rdScpTfile; simp only [↓State.incr_kept]
theorem State.targetNext_kept : ∀ s a1 a2, State.kept (State.targetNext s a1 a2) = State.kept s := by
  intro s a1 a2; unfold State.targetNext; simp only [↓State.setScp_kept]
theorem State.targetRead_kept : ∀ s a1 a2, State.kept (State.targetRead s a1 a2) = State.kept s := by
  intro s a1 a2; unfold State.targetRead; simp only [↓State.bump_kept, ↓State.targetNext_kept, ↓State.emitScp_kept]
theorem State.targetAccess_kept (s : State) (p : Nat) (b : Bool) (op : Nat) (a : Option Nat) (act : Nat → State) (h : ∀ n, State.kept (act n) = s.kept) :
    State.kept (s.targetAccess p b op a act) = s.kept := by
  unfold State.targetAccess
  repeat' split
  all_goals first | rfl | exact h _
theorem State.versionWritten_kept : ∀ s a1 a2 a3 a4, State.kept (State.versionWritten s a1 a2 a3 a4) = State.kept s := by
  intro s a1 a2 a3 a4; unfold State.versionWritten; simp only [↓kept_ite, ite_self, ↓State.setTx_kept]
theorem State.targetWrite_kept : ∀ s a1 a2 a3, State.kept (State.targetWrite s a1 a2 a3) = State.kept s := by
  intro s a1 a2 a3; unfold State.targetWrite; simp only [↓kept_ite, ite_self, ↓State.bump_kept, ↓State.targetNext_kept, ↓State.setTfile_kept, ↓State.setTx_kept, ↓State.versionWritten_kept]

theorem State.putFlow_kept : ∀ s a1 a2, State.kept (State.putFlow s a1 a2) = State.kept s := by
  intro s a1 a2; unfold State.putFlow; simp only [↓State.updateFrame_kept, ↓State.setBrew_kept]
theorem State.sinkDone_kept : ∀ s a1 a2 a3, State.kept (State.sinkDone s a1 a2 a3) = State.kept s := by
  intro s a1 a2 a3; unfold State.sinkDone; simp only [↓kept_mk, ↓kept_ite, ite_self, kept_mk, ↓State.putFlow_kept, ↓State.setBrew_kept]
theorem State.writeSections_kept : ∀ s a1 a2 a3, State.kept (State.writeSections s a1 a2 a3).2 = State.kept s := by
  intro s a1 a2 a3; induction a3 generalizing s a1 a2 with
    | nil => (unfold State.writeSections; ((repeat' (first | (with_reducible rfl) | split | simp only [↓kept_mk, ↓kept_evt, ↓kept_ite, ↓snd_ite, ite_self, ↓kept_foldl, ↓kept_when, andThen_cons, andThen_nil, implies_true, kept_mk, kept_evt, ↓State.engWrite_kept]))); (all_goals (repeat (rename_i h; first | (have h' := congrArg (fun p => State.kept (Prod.snd p)) h; simp only [↓kept_mk, ↓kept_evt, ↓kept_ite, ↓snd_ite, ite_self, ↓kept_foldl, ↓kept_when, andThen_cons, andThen_nil, implies_true, kept_mk, kept_evt, ↓State.engWrite_kept] at h'; clear h; revert h') | clear h | revert h))); all_goals (intros; first | (with_reducible rfl) | (simp only [↓kept_mk, ↓kept_evt, ↓kept_ite, ↓snd_ite, ite_self, ↓kept_foldl, ↓kept_when, andThen_cons, andThen_nil, implies_true, kept_mk, kept_evt, ↓State.engWrite_kept]; done) | (simp only [↓kept_mk, ↓kept_evt, ↓kept_ite, ↓snd_ite, ite_self, ↓kept_foldl, ↓kept_when, andThen_cons, andThen_nil, implies_true, kept_mk, kept_evt, ↓State.engWrite_kept]; simp only [*]; done) | simp only [*]))
    | cons h0 t0 ih0 => (unfold State.writeSections; ((repeat' (first | (with_reducible rfl) | split | simp only))); ((all_goals (repeat (rename_i h; first | (have h' := congrArg (fun p => State.kept (Prod.snd p)) h; simp only [↓State.engWrite_kept] at h'; clear h; revert h') | clear h | revert h))); all_goals (intros; first | (with_reducible rfl) | (simp only [↓kept_mk, ↓kept_evt, ↓kept_ite, ↓snd_ite, ite_self, ↓kept_foldl, ↓kept_when, andThen_cons, andThen_nil, implies_true, kept_mk, kept_evt, ↓State.engWrite_kept]; done) | (simp only [↓kept_mk, ↓kept_evt, ↓kept_ite, ↓snd_ite, ite_self, ↓kept_foldl, ↓kept_when, andThen_cons, andThen_nil, implies_true, kept_mk, kept_evt, ↓State.engWrite_kept]; simp only [*]; done) | simp only [*])))
theorem State.writeLines_kept : ∀ s a1 a2 a3 a4, State.kept (State.writeLines s a1 a2 a3 a4).2 = State.kept s := by
  intro s a1 a2 a3 a4; induction a4 generalizing s a1 a2 a3 with
    | nil => (unfold State.writeLines; ((repeat' (first | (with_reducible rfl) | split | simp only [↓kept_mk, ↓kept_evt, ↓kept_ite, ↓snd_ite, ite_self, ↓kept_foldl, ↓kept_when, andThen_cons, andThen_nil, implies_true, kept_mk, kept_evt, ↓State.engWrite_kept]))); (all_goals (repeat (rename_i h; first | (have h' := congrArg (fun p => State.kept (Prod.snd p)) h; simp only [↓kept_mk, ↓kept_evt, ↓kept_ite, ↓snd_ite, ite_self, ↓kept_foldl, ↓kept_when, andThen_cons, andThen_nil, implies_true, kept_mk, kept_evt, ↓State.engWrite_kept] at h'; clear h; revert h') | clear h | revert h))); all_goals (intros; first | (with_reducible rfl) | (simp only [↓kept_mk, ↓kept_evt, ↓kept_ite, ↓snd_ite, ite_self, ↓kept_foldl, ↓kept_when, andThen_cons, andThen_nil, implies_true, kept_mk, kept_evt, ↓State.engWrite_kept]; done) | (simp only [↓kept_mk, ↓kept_evt, ↓kept_ite, ↓snd_ite, ite_self, ↓kept_foldl, ↓kept_when, andThen_cons, andThen_nil, implies_true, kept_mk, kept_evt, ↓State.engWrite_kept]; simp only [*]; done) | simp only [*]))
    | cons h0 t0 ih0 => (unfold State.writeLines; ((repeat' (first | (with_reducible rfl) | split | simp only))); ((all_goals (repeat (rename_i h; first | (have h' := congrArg (fun p => State.kept (Prod.snd p)) h; simp only [↓State.engWrite_kept, ih0] at h'; clear h; revert h') | clear h | revert h))); all_goals (intros; first | (with_reducible rfl) | (simp only [↓kept_mk, ↓kept_evt, ↓kept_ite, ↓snd_ite, ite_self, ↓kept_foldl, ↓kept_when, andThen_cons, andThen_nil, implies_true, kept_mk, kept_evt, ↓State.engWrite_kept]; done) | (simp only [↓kept_mk, ↓kept_evt, ↓kept_ite, ↓snd_ite, ite_self, ↓kept_foldl, ↓kept_when, andThen_cons, andThen_nil, implies_true, kept_mk, kept_evt, ↓State.engWrite_kept]; simp only [*]; done) | simp only [*])))
theorem State.readLines_kept : ∀ s a1 a2 a3 a4 a5, State.kept (State.readLines s a1 a2 a3 a4 a5).2 = State.kept s := by
  intro s a1 a2 a3 a4 a5; induction a5 generalizing s a1 a2 a3 a4 with
    | zero => (unfold State.readLines; ((repeat' (first | (with_reducible rfl) | split | simp only [↓kept_mk, ↓kept_evt, ↓kept_ite, ↓snd_ite, ite_self, ↓kept_foldl, ↓kept_when, andThen_cons, andThen_nil, implies_true, kept_mk, kept_evt, ↓State.engRead_kept]))); (all_goals (repeat (rename_i h; first | (have h' := congrArg (fun p => State.kept (Prod.snd p)) h; simp only [↓kept_mk, ↓kept_evt, ↓kept_ite, ↓snd_ite, ite_self, ↓kept_foldl, ↓kept_when, andThen_cons, andThen_nil, implies_true, kept_mk, kept_evt, ↓State.engRead_kept] at h'; clear h; revert h') | clear h | revert h))); all_goals (intros; first | (with_reducible rfl) | (simp only [↓kept_mk, ↓kept_evt, ↓kept_ite, ↓snd_ite, ite_self, ↓kept_foldl, ↓kept_when, andThen_cons, andThen_nil, implies_true, kept_mk, kept_evt, ↓State.engRead_kept]; done) | (simp only [↓kept_mk, ↓kept_evt, ↓kept_ite, ↓snd_ite, ite_self, ↓kept_foldl, ↓kept_when, andThen_cons, andThen_nil, implies_true, kept_mk, kept_evt, ↓State.engRead_kept]; simp only [*]; done) | simp only [*]))
    | succ t0 ih0 => (unfold State.readLines; ((repeat' (first | (with_reducible rfl) | split | simp only))); ((all_goals (repeat (rename_i h; first | (have h' := congrArg (fun p => State.kept (Prod.snd p)) h; simp only [↓State.engRead_kept, ih0] at h'; clear h; revert h') | clear h | revert h))); all_goals (intros; first | (with_reducible rfl) | (simp only [↓kept_mk, ↓kept_evt, ↓kept_ite, ↓snd_ite, ite_self, ↓kept_foldl, ↓kept_when, andThen_cons, andThen_nil, implies_true, kept_mk, kept_evt, ↓State.engRead_kept]; done) | (simp only [↓kept_mk, ↓kept_evt, ↓kept_ite, ↓snd_ite, ite_self, ↓kept_foldl, ↓kept_when, andThen_cons, andThen_nil, implies_true, kept_mk, kept_evt, ↓State.engRead_kept]; simp only [*]; done) | simp only [*])))
theorem State.resultRecord_kept : ∀ s a1 a2 a3 a4 a5 a6, State.kept (State.resultRecord s a1 a2 a3 a4 a5 a6) = State.kept s := by
  intro s a1 a2 a3 a4 a5 a6; unfold State.resultRecord; ((repeat' (first | (with_reducible rfl) | split | simp only [↓State.put_kept]))); (all_goals (repeat (rename_i h; first | (have h' := congrArg (fun p => State.kept (Prod.snd p)) h; simp only [↓State.writeSections_kept, ↓State.engWrite_kept] at h'; clear h; revert h') | clear h | revert h))); all_goals (intros; first | (with_reducible rfl) | (simp only [↓kept_mk, ↓kept_evt, ↓kept_ite, ↓snd_ite, ite_self, ↓kept_foldl, ↓kept_when, andThen_cons, andThen_nil, implies_true, kept_mk, kept_evt, ↓State.writeSections_kept, ↓State.engWrite_kept, ↓State.put_kept]; done) | (simp only [↓kept_mk, ↓kept_evt, ↓kept_ite, ↓snd_ite, ite_self, ↓kept_foldl, ↓kept_when, andThen_cons, andThen_nil, implies_true, kept_mk, kept_evt, ↓State.writeSections_kept, ↓State.engWrite_kept, ↓State.put_kept]; simp only [*]; done) | simp only [*])
theorem State.setSta_kept : ∀ s a1 a2, State.kept (State.setSta s a1 a2) = State.kept s := by
  intro s a1 a2; unfold State.setSta; simp only [↓kept_mk, kept_mk]
theorem State.tap_kept : ∀ s a1 a2 a3 a4 a5 a6, State.kept (State.tap s a1 a2 a3 a4 a5 a6).2 = State.kept s := by
  intro s a1 a2 a3 a4 a5 a6; unfold State.tap; simp only [↓kept_ite, ↓snd_ite, ite_self, ↓kept_when, ↓State.overtake_kept, ↓State.writeLines_kept, ↓State.put_kept, ↓State.bump_kept]
theorem State.tapFeed_kept : ∀ s a1 a2 a3 a4, State.kept (State.tapFeed s a1 a2 a3 a4) = State.kept s := by
  intro s a1 a2 a3 a4; unfold State.tapFeed; simp only [↓kept_when, ↓State.feed_kept]
theorem State.statsFrameEnd_kept : ∀ s a1 a2, State.kept (State.statsFrameEnd s a1 a2) = State.kept s := by
  intro s a1 a2; unfold State.statsFrameEnd; (repeat' (first | (with_reducible rfl) | split | simp only [↓kept_ite, ite_self, ↓State.tap_kept, ↓State.setSta_kept, ↓State.tapFeed_kept, ↓State.bump_kept, ↓State.dropUnit_kept, ↓State.sinkDone_kept]))
theorem State.statsRecordWritten_kept : ∀ s a1, State.kept (State.statsRecordWritten s a1) = State.kept s := by
  intro s a1; unfold State.statsRecordWritten; (repeat' (first | (with_reducible rfl) | split | simp only [↓State.setSta_kept, ↓State.resultRecord_kept]))
theorem State.setAna_kept : ∀ s a1 a2, State.kept (State.setAna s a1 a2) = State.kept s := by
  intro s a1 a2; unfold State.setAna; simp only [↓kept_mk, kept_mk]
theorem State.bFrameStore_kept : ∀ s a1, State.kept (State.bFrameStore s a1) = State.kept s := by
  intro s a1; unfold State.bFrameStore; (repeat' (first | (with_reducible rfl) | split | simp only [↓kept_ite, ↓snd_ite, ↓State.sinkDone_kept, ↓State.bump_kept, ↓State.writeLines_kept, ↓State.setAna_kept]))
theorem State.decidePair_kept : ∀ s a1 a2 a3, State.kept (State.decidePair s a1 a2 a3) = State.kept s := by
  intro s a1 a2 a3; unfold State.decidePair; (repeat' (first | (with_reducible rfl) | split | simp only [↓kept_when, ↓State.setAna_kept, ↓State.bump_kept, ↓State.putFlow_kept]))
theorem State.pairWith_kept : ∀ s a1 a2 a3, State.kept (State.pairWith s a1 a2 a3) = State.kept s := by
  intro s a1 a2 a3; unfold State.pairWith; ((repeat' (first | (with_reducible rfl) | split | simp only [↓kept_ite, ite_self, ↓State.decidePair_kept]))); (all_goals (repeat (rename_i h; first | (have h' := congrArg (fun p => State.kept (Prod.snd p)) h; simp only [↓State.readLines_kept] at h'; clear h; revert h') | clear h | revert h))); all_goals (intros; first | (with_reducible rfl) | (simp only [↓kept_mk, ↓kept_evt, ↓kept_ite, ↓snd_ite, ite_self, ↓kept_foldl, ↓kept_when, andThen_cons, andThen_nil, implies_true, kept_mk, kept_evt, ↓State.decidePair_kept, ↓State.readLines_kept]; done) | (simp only [↓kept_mk, ↓kept_evt, ↓kept_ite, ↓snd_ite, ite_self, ↓kept_foldl, ↓kept_when, andThen_cons, andThen_nil, implies_true, kept_mk, kept_evt, ↓State.decidePair_kept, ↓State.readLines_kept]; simp only [*]; done) | simp only [*])
theorem State.staticRef_kept : ∀ s a1 a2 a3, State.kept (State.staticRef s a1 a2 a3) = State.kept s := by
  intro s a1 a2 a3; unfold State.staticRef; ((repeat' (first | (with_reducible rfl) | split | simp only [↓kept_ite, ↓State.decidePair_kept]))); (all_goals (repeat (rename_i h; first | (have h' := congrArg (fun p => State.kept (Prod.snd p)) h; simp only [↓State.readLines_kept] at h'; clear h; revert h') | clear h | revert h))); all_goals (intros; first | (with_reducible rfl) | (simp only [↓kept_mk, ↓kept_evt, ↓kept_ite, ↓snd_ite, ite_self, ↓kept_foldl, ↓kept_when, andThen_cons, andThen_nil, implies_true, kept_mk, kept_evt, ↓State.decidePair_kept, ↓State.readLines_kept]; done) | (simp only [↓kept_mk, ↓kept_evt, ↓kept_ite, ↓snd_ite, ite_self, ↓kept_foldl, ↓kept_when, andThen_cons, andThen_nil, implies_true, kept_mk, kept_evt, ↓State.decidePair_kept, ↓State.readLines_kept]; simp only [*]; done) | simp only [*])
theorem State.unmatched_kept : ∀ s a1 a2, State.kept (State.unmatched s a1 a2) = State.kept s := by
  intro s a1 a2; unfold State.unmatched; simp only [↓State.decidePair_kept]
theorem State.chooseB_kept : ∀ s a1 a2 a3, State.kept (State.chooseB s a1 a2 a3) = State.kept s := by
  intro s a1 a2 a3; unfold State.chooseB; simp only [↓State.setAna_kept]
theorem State.pairChosen_kept : ∀ s a1 a2 a3, State.kept (State.pairChosen s a1 a2 a3) = State.kept s := by
  intro s a1 a2 a3; unfold State.pairChosen; (repeat' (first | (with_reducible rfl) | split | simp only [↓State.pairWith_kept, ↓State.unmatched_kept]))
theorem State.pairInOrder_kept : ∀ s a1 a2 a3, State.kept (State.pairInOrder s a1 a2 a3) = State.kept s := by
  intro s a1 a2 a3; unfold State.pairInOrder; (repeat' (first | (with_reducible rfl) | split | simp only [↓State.setAna_kept, ↓State.bumpBy_kept, ↓State.pairWith_kept, ↓State.chooseB_kept, ↓State.unmatched_kept]))
theorem State.pairOldest_kept : ∀ s a1 a2 a3, State.kept (State.pairOldest s a1 a2 a3) = State.kept s := by
  intro s a1 a2 a3; unfold State.pairOldest; (repeat' (first | (with_reducible rfl) | split | simp only [↓State.pairWith_kept, ↓State.chooseB_kept, ↓State.unmatched_kept]))
theorem State.tryPair_kept : ∀ s a1 a2, State.kept (State.tryPair s a1 a2) = State.kept s := by
  intro s a1 a2; unfold State.tryPair; (repeat' (first | (with_reducible rfl) | split | simp only [↓State.pairChosen_kept, ↓State.pairInOrder_kept, ↓State.pairOldest_kept]))
theorem State.anaSof_kept : ∀ s a1 a2, State.kept (State.anaSof s a1 a2) = State.kept s := by
  intro s a1 a2; unfold State.anaSof; simp only [↓kept_ite, ite_self, ↓State.setAna_kept, ↓State.decidePair_kept, ↓State.staticRef_kept]
theorem State.analysisFrameEnd_kept : ∀ s a1, State.kept (State.analysisFrameEnd s a1) = State.kept s := by
  intro s a1; unfold State.analysisFrameEnd; (repeat' (first | (with_reducible rfl) | split | simp only [↓State.setAna_kept, ↓State.bump_kept, ↓State.dropUnit_kept, ↓State.sinkDone_kept]))
theorem State.analysisRecordWritten_kept : ∀ s a1, State.kept (State.analysisRecordWritten s a1) = State.kept s := by
  intro s a1; unfold State.analysisRecordWritten; (repeat' (first | (with_reducible rfl) | split | simp only [↓State.setAna_kept, ↓State.resultRecord_kept]))
theorem State.setCmx_kept : ∀ s a1 a2, State.kept (State.setCmx s a1 a2) = State.kept s := by
  intro s a1 a2; unfold State.setCmx; simp only [↓kept_mk, kept_mk]
theorem State.cmxBFrameStore_kept : ∀ s a1, State.kept (State.cmxBFrameStore s a1) = State.kept s := by
  intro s a1; unfold State.cmxBFrameStore; (repeat' (first | (with_reducible rfl) | split | simp only [↓kept_ite, ite_self, ↓State.sinkDone_kept, ↓State.setCmx_kept, ↓State.bump_kept, ↓State.writeLines_kept]))
theorem State.cmxDrop_kept : ∀ s a1 a2 a3, State.kept (State.cmxDrop s a1 a2 a3) = State.kept s := by
  intro s a1 a2 a3; unfold State.cmxDrop; simp only [↓State.putFlow_kept, ↓State.bump_kept, ↓State.dropUnit_kept]
theorem State.cmxSof_kept : ∀ s a1 a2 a3, State.kept (State.cmxSof s a1 a2 a3) = State.kept s := by
  intro s a1 a2 a3; unfold State.cmxSof; ((repeat' (first | (with_reducible rfl) | split | simp only [↓State.putFlow_kept, ↓State.cmxDrop_kept]))); (all_goals (repeat (rename_i h; first | (have h' := congrArg (fun p => State.kept (Prod.snd p)) h; simp only [↓State.setCmx_kept, ↓State.readLines_kept] at h'; clear h; revert h') | clear h | revert h))); all_goals (intros; first | (with_reducible rfl) | (simp only [↓kept_mk, ↓kept_evt, ↓kept_ite, ↓snd_ite, ite_self, ↓kept_foldl, ↓kept_when, andThen_cons, andThen_nil, implies_true, kept_mk, kept_evt, ↓State.putFlow_kept, ↓State.cmxDrop_kept, ↓State.setCmx_kept, ↓State.readLines_kept]; done) | (simp only [↓kept_mk, ↓kept_evt, ↓kept_ite, ↓snd_ite, ite_self, ↓kept_foldl, ↓kept_when, andThen_cons, andThen_nil, implies_true, kept_mk, kept_evt, ↓State.putFlow_kept, ↓State.cmxDrop_kept, ↓State.setCmx_kept, ↓State.readLines_kept]; simp only [*]; done) | simp only [*])
theorem State.setOpk_kept : ∀ s a1 a2, State.kept (State.setOpk s a1 a2) = State.kept s := by
  intro s a1 a2; unfold State.setOpk; simp only [↓kept_mk, kept_mk]
theorem State.opkFrameWrite_kept : ∀ s a1, State.kept (State.opkFrameWrite s a1) = State.kept s := by
  intro s a1; unfold State.opkFrameWrite; (repeat' (first | (with_reducible rfl) | split | simp only [↓kept_ite, ite_self, ↓State.setOpk_kept, ↓State.bump_kept, ↓State.dropUnit_kept, ↓State.writeLines_kept, ↓State.sinkDone_kept]))
theorem State.offer_kept : ∀ s a1 a2, State.kept (State.offer s a1 a2) = State.kept s := by
  intro s a1 a2; unfold State.offer; simp only [↓kept_ite, ite_self, ↓kept_foldl, implies_true, ↓State.setVce_kept]
theorem State.opkBufferRecord_kept : ∀ s a1, State.kept (State.opkBufferRecord s a1) = State.kept s := by
  intro s a1; unfold State.opkBufferRecord; ((repeat' (first | (with_reducible rfl) | split | simp only [↓State.setOpk_kept, ↓State.feed_kept, ↓State.put_kept, ↓State.offer_kept]))); (all_goals (repeat (rename_i h; first | (have h' := congrArg (fun p => State.kept (Prod.snd p)) h; simp only [↓State.setOpk_kept, ↓State.ringRecord_kept] at h'; clear h; revert h') | clear h | revert h))); all_goals (intros; first | (with_reducible rfl) | (simp only [↓kept_mk, ↓kept_evt, ↓kept_ite, ↓snd_ite, ite_self, ↓kept_foldl, ↓kept_when, andThen_cons, andThen_nil, implies_true, kept_mk, kept_evt, ↓State.setOpk_kept, ↓State.ringRecord_kept, ↓State.feed_kept, ↓State.put_kept, ↓State.offer_kept]; done) | (simp only [↓kept_mk, ↓kept_evt, ↓kept_ite, ↓snd_ite, ite_self, ↓kept_foldl, ↓kept_when, andThen_cons, andThen_nil, implies_true, kept_mk, kept_evt, ↓State.setOpk_kept, ↓State.ringRecord_kept, ↓State.feed_kept, ↓State.put_kept, ↓State.offer_kept]; simp only [*]; done) | simp only [*])
theorem State.synSof_kept : ∀ s a1 a2 a3, State.kept (State.synSof s a1 a2 a3) = State.kept s := by
  intro s a1 a2 a3; unfold State.synSof; simp only [↓kept_mk, ↓kept_ite, ite_self, kept_mk, ↓State.putFlow_kept]
theorem State.opkSof_kept : ∀ s a1 a2 a3, State.kept (State.opkSof s a1 a2 a3) = State.kept s := by
  intro s a1 a2 a3; unfold State.opkSof; (repeat' (first | (with_reducible rfl) | split | simp only [↓kept_when, ↓State.dropUnit_kept, ↓State.sinkDone_kept]))
theorem State.tileSofArrive_kept : ∀ s a1, State.kept (State.tileSofArrive s a1) = State.kept s := by
  intro s a1; unfold State.tileSofArrive; (repeat' (first | (with_reducible rfl) | split | simp only [↓State.putFlow_kept, ↓State.switchTile_kept, ↓State.synSof_kept, ↓State.anaSof_kept, ↓State.cmxSof_kept, ↓State.opkSof_kept]))
theorem State.countTile_kept : ∀ s a1 a2 a3, State.kept (State.countTile s a1 a2 a3) = State.kept s := by
  intro s a1 a2 a3; unfold State.countTile; (repeat' (first | (with_reducible rfl) | split | simp only [↓State.bumpBy_kept]))
theorem State.frameEndAtRoot_kept : ∀ s a1, State.kept (State.frameEndAtRoot s a1) = State.kept s := by
  intro s a1; unfold State.frameEndAtRoot; ((repeat' (first | (with_reducible rfl) | split | simp only [↓kept_ite, ite_self, ↓kept_foldl, ↓kept_when, implies_true, ↓State.mapFrames_kept, ↓State.setBrew_kept, ↓State.countTile_kept, ↓State.setCmx_kept, ↓State.dropUnit_kept, ↓State.putFrameRecord_kept]))); (all_goals (repeat (rename_i h; first | (have h' := congrArg (fun p => State.kept (Prod.snd p)) h; simp only [↓kept_ite, ↓snd_ite, ite_self, ↓State.readSlot_kept] at h'; clear h; revert h') | clear h | revert h))); all_goals (intros; first | (with_reducible rfl) | (simp only [↓kept_mk, ↓kept_evt, ↓kept_ite, ↓snd_ite, ite_self, ↓kept_foldl, ↓kept_when, andThen_cons, andThen_nil, implies_true, kept_mk, kept_evt, ↓State.readSlot_kept, ↓State.mapFrames_kept, ↓State.setBrew_kept, ↓State.countTile_kept, ↓State.setCmx_kept, ↓State.dropUnit_kept, ↓State.putFrameRecord_kept]; done) | (simp only [↓kept_mk, ↓kept_evt, ↓kept_ite, ↓snd_ite, ite_self, ↓kept_foldl, ↓kept_when, andThen_cons, andThen_nil, implies_true, kept_mk, kept_evt, ↓State.readSlot_kept, ↓State.mapFrames_kept, ↓State.setBrew_kept, ↓State.countTile_kept, ↓State.setCmx_kept, ↓State.dropUnit_kept, ↓State.putFrameRecord_kept]; simp only [*]; done) | simp only [*])

theorem wrFabCommit_kept : ∀ a0 a1 s, State.kept (wrFabCommit a0 a1 s) = State.kept s := by
  intro a0 a1 s; unfold wrFabCommit; simp only [↓State.commitWrite_kept]
theorem State.commitFetchDone_kept : ∀ s a1, State.kept (State.commitFetchDone s a1) = State.kept s := by
  intro s a1; unfold State.commitFetchDone; (repeat' (first | (with_reducible rfl) | split | simp only [↓State.commitFetch_kept]))
theorem State.rootSofEmit_kept : ∀ s a1, State.kept (State.rootSofEmit s a1) = State.kept s := by
  intro s a1; unfold State.rootSofEmit; (repeat' (first | (with_reducible rfl) | split | simp only [↓State.emitSof_kept, ↓State.updateFrame_kept]))
theorem wrIngPbWidx_kept : ∀ a0 a1 a2 s, State.kept (wrIngPbWidx a0 a1 a2 s) = State.kept s := by
  intro a0 a1 a2 s; unfold wrIngPbWidx; simp only [↓kept_ite, ite_self, ↓State.plainWrite_kept]
theorem State.playLines_kept (s : State) (t fmt w pitch a y n : Nat) : State.kept (s.playLines t fmt w pitch a y n) = s.kept := by
  induction n generalizing s a y with
  | zero => rfl
  | succ n ih =>
    unfold State.playLines
    rw [ih]
    have hr := State.engRead_kept s (rootReq t none) a (playbackBytes fmt w)
    split <;> (rename_i e; rw [e] at hr; dsimp only at hr)
    · rw [State.lineArrives_kept, hr]
    · dsimp only
      split
      · rw [State.updateFrame_kept, State.lineArrives_kept, hr]
      · rw [State.lineArrives_kept, hr]
    · rw [State.lineLost_kept, hr]
theorem State.playFrame_kept : ∀ s a1 a2 a3 a4, State.kept (State.playFrame s a1 a2 a3 a4) = State.kept s := by
  intro s a1 a2 a3 a4; unfold State.playFrame; ((repeat' (first | (with_reducible rfl) | split | simp only [↓State.enterFrame_kept, ↓State.playLines_kept, ↓State.frameClose_kept]))); (all_goals (repeat (rename_i h; first | (have h' := congrArg (fun p => State.kept (Prod.snd p)) h; simp only [↓kept_mk, ↓kept_evt, ↓kept_ite, ↓snd_ite, ite_self, ↓kept_foldl, ↓kept_when, andThen_cons, andThen_nil, implies_true, kept_mk, kept_evt, ↓State.enterFrame_kept, ↓State.playLines_kept, ↓State.frameClose_kept] at h'; clear h; revert h') | clear h | revert h))); all_goals (intros; first | (with_reducible rfl) | (simp only [↓kept_mk, ↓kept_evt, ↓kept_ite, ↓snd_ite, ite_self, ↓kept_foldl, ↓kept_when, andThen_cons, andThen_nil, implies_true, kept_mk, kept_evt, ↓State.enterFrame_kept, ↓State.playLines_kept, ↓State.frameClose_kept]; done) | (simp only [↓kept_mk, ↓kept_evt, ↓kept_ite, ↓snd_ite, ite_self, ↓kept_foldl, ↓kept_when, andThen_cons, andThen_nil, implies_true, kept_mk, kept_evt, ↓State.enterFrame_kept, ↓State.playLines_kept, ↓State.frameClose_kept]; simp only [*]; done) | simp only [*])
theorem State.playTake_kept : ∀ s a1 a2 a3 a4, State.kept (State.playTake s a1 a2 a3 a4) = State.kept s := by
  intro s a1 a2 a3 a4; unfold State.playTake; (repeat' (first | (with_reducible rfl) | split | simp only [↓State.setRoot_kept, ↓State.newFrame_kept, ↓State.dropFrame_kept, ↓State.playFrame_kept]))
theorem State.playbackStart_kept : ∀ s a1, State.kept (State.playbackStart s a1) = State.kept s := by
  intro s a1; unfold State.playbackStart; ((repeat' (first | (with_reducible rfl) | split | simp only [↓kept_ite, ↓State.playTake_kept, ↓State.put_kept]))); (all_goals (repeat (rename_i h; first | (have h' := congrArg (fun p => State.kept (Prod.snd p)) h; simp only [↓State.engRead_kept] at h'; clear h; revert h') | clear h | revert h))); all_goals (intros; first | (with_reducible rfl) | (simp only [↓kept_mk, ↓kept_evt, ↓kept_ite, ↓snd_ite, ite_self, ↓kept_foldl, ↓kept_when, andThen_cons, andThen_nil, implies_true, kept_mk, kept_evt, ↓State.playTake_kept, ↓State.put_kept, ↓State.engRead_kept]; done) | (simp only [↓kept_mk, ↓kept_evt, ↓kept_ite, ↓snd_ite, ite_self, ↓kept_foldl, ↓kept_when, andThen_cons, andThen_nil, implies_true, kept_mk, kept_evt, ↓State.playTake_kept, ↓State.put_kept, ↓State.engRead_kept]; simp only [*]; done) | simp only [*])
theorem State.patternStart_kept : ∀ s a1, State.kept (State.patternStart s a1) = State.kept s := by
  intro s a1; unfold State.patternStart; (repeat' (first | (with_reducible rfl) | split | simp only [↓State.bump_kept, ↓State.newFrame_kept, ↓State.enterFrame_kept]))
theorem rdIngSeqLo_kept : ∀ a0 a1 s, State.kept (rdIngSeqLo a0 a1 s).2 = State.kept s := by
  intro a0 a1 s; unfold rdIngSeqLo; simp only [↓State.put_kept]
theorem rdPatSeqLo_kept : ∀ a0 a1 s, State.kept (rdPatSeqLo a0 a1 s).2 = State.kept s := by
  intro a0 a1 s; unfold rdPatSeqLo; simp only [↓State.put_kept]
theorem State.nextIdx_kept : ∀ s a1 a2, State.kept (State.nextIdx s a1 a2) = State.kept s := by
  intro s a1 a2; unfold State.nextIdx; simp only [↓State.put_kept]
theorem wrIndexed_kept (idx : Fld) (n : Nat) (f : Nat → Nat) (w : Nat) (v : Word) (s : State) :
    State.kept (wrIndexed idx n f w v s) = s.kept := by unfold wrIndexed; simp only [↓State.wix_kept, ↓State.nextIdx_kept]
theorem rdIndexed_kept (idx : Fld) (n : Nat) (f : Nat → Nat) (s : State) : State.kept (rdIndexed idx n f s).2 = s.kept := by
  unfold rdIndexed; simp only [↓State.nextIdx_kept]
theorem State.indexAccess_kept (s : State) (off : Nat) (idx : Fld) (n : Nat) (f : Nat → Nat) (w : Option Word) :
    State.kept (s.indexAccess off idx n f w) = s.kept := by
  unfold State.indexAccess
  split
  · rw [State.answer_kept]; exact State.guardRead_kept _ _ _ (rdIndexed_kept _ _ _)
  · exact State.guardWrite_kept _ _ _ (wrIndexed_kept _ _ _ _ _)

end Sys2Proof.Machine
end

