-- ==== Sys2Proof/Laws/KeptLinks.lean ====
section
/-! SUPPORT. What hardly any operation changes, for links, lanes, DRAM, Ethernet and the time unit. -/

namespace Sys2Proof.Machine

set_option maxRecDepth 4000
set_option linter.unusedVariables false

theorem State.linkEvent_kept : ∀ s a1 a2, State.kept (State.linkEvent s a1 a2) = State.kept s := by
  intro s a1 a2; unfold State.linkEvent; simp only [↓State.post_kept]
theorem State.rxUp_kept : ∀ s a1 a2, State.kept (State.rxUp s a1 a2) = State.kept s := by
  intro s a1 a2; unfold State.rxUp; simp only [andThen_cons, andThen_nil, ↓State.setRx_kept, ↓State.put_kept]
theorem State.rxClose_kept : ∀ s a1, State.kept (State.rxClose s a1) = State.kept s := by
  intro s a1; unfold State.rxClose; (repeat' (first | (with_reducible rfl) | split | simp only [↓State.frameClose_kept, ↓State.setRx_kept]))
theorem State.rxLanes_kept : ∀ s a1, State.kept (State.rxLanes s a1) = State.kept s := by
  intro s a1; unfold State.rxLanes; simp only [↓kept_ite, ite_self, ↓State.put_kept]
theorem State.orphanWrites_kept : ∀ s a1, State.kept (State.orphanWrites s a1) = State.kept s := by
  intro s a1; unfold State.orphanWrites; simp only [↓kept_foldl, implies_true, ↓State.setScp_kept]
theorem State.rxDown_kept : ∀ s a1, State.kept (State.rxDown s a1) = State.kept s := by
  intro s a1; unfold State.rxDown; simp only [andThen_cons, andThen_nil, ↓State.rxClose_kept, ↓State.orphanWrites_kept, ↓State.setRx_kept, ↓State.put_kept, ↓State.rxLanes_kept]
theorem State.rxRealign_kept : ∀ s a1, State.kept (State.rxRealign s a1) = State.kept s := by
  intro s a1; unfold State.rxRealign; simp only [↓kept_ite, ite_self, andThen_cons, andThen_nil, ↓State.setRx_kept, ↓State.put_kept]
theorem State.alignColumn_kept : ∀ s a1 a2 a3, State.kept (State.alignColumn s a1 a2 a3) = State.kept s := by
  intro s a1 a2 a3; unfold State.alignColumn; simp only [↓kept_ite, ite_self, andThen_cons, andThen_nil, ↓State.put_kept, ↓State.linkEvent_kept, ↓State.rxRealign_kept, ↓State.setRx_kept]
theorem State.xsColumn_kept : ∀ s a1 a2, State.kept (State.xsColumn s a1 a2) = State.kept s := by
  intro s a1 a2; unfold State.xsColumn; simp only [↓kept_ite, ite_self, ↓State.setRx_kept, ↓State.bump_kept]
theorem State.negFail_kept : ∀ s a1, State.kept (State.negFail s a1) = State.kept s := by
  intro s a1; unfold State.negFail; simp only [↓State.put_kept, ↓State.linkEvent_kept]
theorem State.versionWrite_kept : ∀ s a1 a2, State.kept (State.versionWrite s a1 a2) = State.kept s := by
  intro s a1 a2; unfold State.versionWrite; simp only [↓kept_ite, ite_self, ↓State.setRx_kept, ↓State.linkEvent_kept, ↓State.setScp_kept, ↓State.scpNext_kept]
theorem State.capPacket_kept : ∀ s a1 a2 a3 a4, State.kept (State.capPacket s a1 a2 a3 a4) = State.kept s := by
  intro s a1 a2 a3 a4; unfold State.capPacket; simp only [↓kept_ite, ite_self, ↓State.bump_kept, ↓State.negFail_kept, ↓State.versionWrite_kept, ↓State.rxUp_kept]
theorem State.linkLost_kept : ∀ s a1, State.kept (State.linkLost s a1) = State.kept s := by
  intro s a1; unfold State.linkLost; simp only [↓State.bump_kept, ↓State.frameLost_kept]
theorem State.linkLostN_kept (s : State) (p n : Nat) : State.kept (s.linkLostN p n) = s.kept := by
  induction n generalizing s with
  | zero => rfl
  | succ n ih => unfold State.linkLostN; rw [ih, State.linkLost_kept]
theorem State.fsNumber_kept : ∀ s a1 a2, State.kept (State.fsNumber s a1 a2) = State.kept s := by
  intro s a1 a2; unfold State.fsNumber; (repeat' (first | (with_reducible rfl) | split | simp only [↓State.linkEvent_kept, ↓State.linkLostN_kept]))
theorem State.linkStart_kept : ∀ s a1 a2 a3 a4 a5 a6 a7 a8, State.kept (State.linkStart s a1 a2 a3 a4 a5 a6 a7 a8) = State.kept s := by
  intro s a1 a2 a3 a4 a5 a6 a7 a8; unfold State.linkStart; simp only [↓State.setRx_kept, ↓State.fsLag_kept, ↓State.frameStart_kept]
theorem State.fsPacket_kept : ∀ s a1 a2 a3 a4 a5 a6 a7, State.kept (State.fsPacket s a1 a2 a3 a4 a5 a6 a7) = State.kept s := by
  intro s a1 a2 a3 a4 a5 a6 a7; unfold State.fsPacket; simp only [↓kept_ite, ite_self, ↓State.bump_kept, ↓State.rxClose_kept, ↓State.fsNumber_kept, ↓State.linkStart_kept]
theorem State.sgenMismatch_kept : ∀ s a1 a2 a3, State.kept (State.sgenMismatch s a1 a2 a3) = State.kept s := by
  intro s a1 a2 a3; unfold State.sgenMismatch; (repeat' (first | (with_reducible rfl) | split | simp only [↓State.updateFrame_kept, ↓State.bump_kept]))
theorem State.lineSettled_kept : ∀ s a1 a2 a3, State.kept (State.lineSettled s a1 a2 a3) = State.kept s := by
  intro s a1 a2 a3; unfold State.lineSettled; simp only [↓kept_ite, ite_self, ↓State.setRx_kept, ↓State.frameClose_kept]
theorem State.ldPacket_kept : ∀ s a1 a2 a3 a4 a5 a6, State.kept (State.ldPacket s a1 a2 a3 a4 a5 a6) = State.kept s := by
  intro s a1 a2 a3 a4 a5 a6; unfold State.ldPacket; (repeat' (first | (with_reducible rfl) | split | simp only [↓State.bump_kept, ↓State.setRx_kept, ↓State.linkLost_kept, ↓State.lineLost_kept, ↓State.lineSettled_kept, ↓State.sgenMismatch_kept, ↓State.lineArrives_kept]))
theorem State.fePacket_kept : ∀ s a1 a2, State.kept (State.fePacket s a1 a2) = State.kept s := by
  intro s a1 a2; unfold State.fePacket; simp only [↓kept_ite, ite_self, ↓State.rxClose_kept, ↓State.bump_kept]
theorem State.mdPacket_kept : ∀ s a1 a2 a3, State.kept (State.mdPacket s a1 a2 a3) = State.kept s := by
  intro s a1 a2 a3; unfold State.mdPacket; (repeat' (first | (with_reducible rfl) | split | simp only [↓State.bump_kept]))
theorem State.rawSeenNow_kept : ∀ s a1 a2, State.kept (State.rawSeenNow s a1 a2) = State.kept s := by
  intro s a1 a2; unfold State.rawSeenNow; simp only [↓kept_ite, ite_self, ↓kept_foldl, implies_true, ↓State.setRx_kept, ↓State.setBit_kept, ↓State.rxUp_kept, ↓State.put_kept]
theorem State.rawLineLost_kept : ∀ s a1, State.kept (State.rawLineLost s a1) = State.kept s := by
  intro s a1; unfold State.rawLineLost; (repeat' (first | (with_reducible rfl) | split | simp only [↓State.lineLost_kept, ↓State.lineSettled_kept]))
theorem State.rawCode_kept : ∀ s a1 a2 a3 a4 a5 a6, State.kept (State.rawCode s a1 a2 a3 a4 a5 a6) = State.kept s := by
  intro s a1 a2 a3 a4 a5 a6; unfold State.rawCode; (repeat' (first | (with_reducible rfl) | split | simp only [↓kept_ite, ite_self, ↓State.rawSeenNow_kept, ↓State.rawLineLost_kept, ↓State.setRx_kept, ↓State.rxClose_kept, ↓State.linkStart_kept, ↓State.lineArrives_kept, ↓State.lineSettled_kept]))
theorem State.sendBlock_kept : ∀ s a1 a2 a3, State.kept (State.sendBlock s a1 a2 a3) = State.kept s := by
  intro s a1 a2 a3; unfold State.sendBlock; simp only [↓State.setTx_kept, ↓State.emit_kept]
theorem State.sendColumn_kept : ∀ s a1 a2, State.kept (State.sendColumn s a1 a2) = State.kept s := by
  intro s a1 a2; unfold State.sendColumn; simp only [↓kept_foldl, implies_true, ↓State.sendBlock_kept]
theorem State.sendControl_kept : ∀ s a1 a2, State.kept (State.sendControl s a1 a2) = State.kept s := by
  intro s a1 a2; unfold State.sendControl; simp only [↓State.sendColumn_kept]
theorem State.sendPacket_kept : ∀ s a1 a2, State.kept (State.sendPacket s a1 a2) = State.kept s := by
  intro s a1 a2; unfold State.sendPacket; simp only [↓kept_foldl, implies_true, ↓State.sendColumn_kept, ↓State.sendControl_kept]
theorem State.txSelect_kept : ∀ s a1, State.kept (State.txSelect s a1) = State.kept s := by
  intro s a1; unfold State.txSelect; simp only [↓kept_ite, ite_self, ↓State.setTx_kept]
theorem State.txUp_kept : ∀ s a1 a2, State.kept (State.txUp s a1 a2) = State.kept s := by
  intro s a1 a2; unfold State.txUp; simp only [andThen_cons, andThen_nil, ↓State.setTx_kept, ↓State.put_kept]
theorem State.seedLanes_kept : ∀ s a1, State.kept (State.seedLanes s a1) = State.kept s := by
  intro s a1; unfold State.seedLanes; simp only [↓kept_foldl, implies_true, ↓State.takeFree_kept, ↓State.setTx_kept]
theorem State.txLanes_kept : ∀ s a1, State.kept (State.txLanes s a1) = State.kept s := by
  intro s a1; unfold State.txLanes; simp only [↓kept_ite, ite_self, ↓State.txUp_kept, ↓State.put_kept, ↓State.setTx_kept, ↓State.seedLanes_kept, ↓State.txSelect_kept]
theorem State.capSend_kept : ∀ s a1, State.kept (State.capSend s a1) = State.kept s := by
  intro s a1; unfold State.capSend; simp only [↓kept_ite, ite_self, ↓State.takeFree_kept, ↓State.sendPacket_kept, ↓State.setTx_kept, ↓State.txUp_kept]
theorem State.alignSend_kept : ∀ s a1, State.kept (State.alignSend s a1) = State.kept s := by
  intro s a1; unfold State.alignSend; simp only [↓kept_ite, ite_self, ↓State.setTx_kept, ↓State.sendColumn_kept]
theorem State.txDown_kept : ∀ s a1, State.kept (State.txDown s a1) = State.kept s := by
  intro s a1; unfold State.txDown; (repeat' (first | (with_reducible rfl) | split | simp only [↓kept_foldl, andThen_cons, andThen_nil, implies_true, ↓State.setTx_kept, ↓State.put_kept, ↓State.dropUnit_kept, ↓State.sinkDone_kept, ↓State.txLanes_kept]))
theorem State.exposure_kept : ∀ s a1 a2, State.kept (State.exposure s a1 a2) = State.kept s := by
  intro s a1 a2; unfold State.exposure; simp only [↓kept_ite, ite_self, ↓State.setTx_kept, ↓State.sendControl_kept]
theorem State.emuExposure_kept : ∀ s a1, State.kept (State.emuExposure s a1) = State.kept s := by
  intro s a1; unfold State.emuExposure; (repeat' (first | (with_reducible rfl) | split | simp only [↓State.exposure_kept]))
theorem State.emuEdge_kept : ∀ s a1, State.kept (State.emuEdge s a1) = State.kept s := by
  intro s a1; unfold State.emuEdge; (repeat' (first | (with_reducible rfl) | split | simp only [↓State.exposure_kept, ↓State.bump_kept]))
theorem State.emitSens_kept : ∀ s a1 a2 a3, State.kept (State.emitSens s a1 a2 a3) = State.kept s := by
  intro s a1 a2 a3; unfold State.emitSens; simp only [↓kept_ite, ite_self, ↓State.emit_kept]
theorem wrSlkSyncctl_kept : ∀ a0 a1 a2 s, State.kept (wrSlkSyncctl a0 a1 a2 s) = State.kept s := by
  intro a0 a1 a2 s; unfold wrSlkSyncctl; simp only [↓State.plainWrite_kept, ↓State.emitSens_kept]
theorem State.vsyncAssert_kept : ∀ s a1, State.kept (State.vsyncAssert s a1) = State.kept s := by
  intro s a1; unfold State.vsyncAssert; simp only [↓kept_mk, ↓kept_ite, ite_self, kept_mk, ↓State.emitSens_kept]
theorem State.vsyncEnd_kept : ∀ s a1, State.kept (State.vsyncEnd s a1) = State.kept s := by
  intro s a1; unfold State.vsyncEnd; simp only [↓kept_mk, ↓kept_ite, ite_self, kept_mk, ↓State.emitSens_kept]
theorem State.hsyncPulse_kept : ∀ s a1, State.kept (State.hsyncPulse s a1) = State.kept s := by
  intro s a1; unfold State.hsyncPulse; simp only [↓kept_mk, ↓kept_ite, ite_self, kept_mk, ↓State.emitSens_kept]
theorem State.vsyncEdge_kept : ∀ s a1, State.kept (State.vsyncEdge s a1) = State.kept s := by
  intro s a1; unfold State.vsyncEdge; simp only [↓kept_ite, ite_self, ↓kept_foldl, implies_true, ↓State.put_kept, ↓State.setRx_kept, ↓State.capture_kept, ↓State.patternStart_kept, ↓State.emuEdge_kept]
theorem State.echoSgen_kept : ∀ s a1 a2, State.kept (State.echoSgen s a1 a2).2 = State.kept s := by
  intro s a1 a2; unfold State.echoSgen; (repeat' (first | (with_reducible rfl) | split | simp only [↓kept_ite, ↓snd_ite, ↓State.setTx_kept, ↓State.takeFree_kept]))
theorem State.rawSend_kept (s : State) (p : Nat) (r : SyncRec) (f : Nat → List Nat) : State.kept (s.rawSend p r f) = s.kept := by
  unfold State.rawSend; refine kept_foldl _ ?_ _ _; intro s r; rfl
theorem State.emuFs_kept : ∀ s a1, State.kept (State.emuFs s a1) = State.kept s := by
  intro s a1; unfold State.emuFs; (repeat' (first | (with_reducible rfl) | split | simp only [↓State.setTx_kept, ↓State.echoSgen_kept, ↓State.rawSend_kept, ↓State.sendPacket_kept, ↓State.setTfile_kept, ↓State.vsyncAssert_kept]))
theorem State.sendLine_kept : ∀ s a1, State.kept (State.sendLine s a1) = State.kept s := by
  intro s a1; unfold State.sendLine; (repeat' (first | (with_reducible rfl) | split | simp only [↓State.rawSend_kept, ↓State.sendPacket_kept, ↓State.setTx_kept, ↓State.sinkDone_kept]))
theorem State.txLine_kept : ∀ s a1, State.kept (State.txLine s a1) = State.kept s := by
  intro s a1; unfold State.txLine; (repeat' (first | (with_reducible rfl) | split | simp only [↓State.sendLine_kept, ↓State.bump_kept]))
theorem State.linePace_kept : ∀ s a1, State.kept (State.linePace s a1) = State.kept s := by
  intro s a1; unfold State.linePace; (repeat' (first | (with_reducible rfl) | split | simp only [↓State.setTx_kept, ↓State.sendLine_kept]))
theorem wrSlkRxcfg_kept : ∀ a0 a1 a2 s, State.kept (wrSlkRxcfg a0 a1 a2 s) = State.kept s := by
  intro a0 a1 a2 s; unfold wrSlkRxcfg; simp only [↓kept_ite, ite_self, ↓State.plainWrite_kept, ↓State.put_kept, ↓State.rxLanes_kept, ↓State.rxDown_kept]
theorem wrSlkTxcfg_kept : ∀ a0 a1 a2 s, State.kept (wrSlkTxcfg a0 a1 a2 s) = State.kept s := by
  intro a0 a1 a2 s; unfold wrSlkTxcfg; simp only [↓kept_ite, ite_self, ↓State.plainWrite_kept, ↓State.put_kept, ↓State.txLanes_kept, ↓State.txDown_kept]
theorem State.halfWrite_kept (s : State) (p : Nat) (tx : Bool) (v : Word) (src : Nat) : State.kept (s.halfWrite p tx v src) = s.kept := by
  unfold State.halfWrite
  split
  · exact State.guardWrite_kept _ _ _ (wrSlkTxcfg_kept _ _ _)
  · exact State.guardWrite_kept _ _ _ (wrSlkRxcfg_kept _ _ _)

theorem State.setLane_kept : ∀ s a1 a2, State.kept (State.setLane s a1 a2) = State.kept s := by
  intro s a1 a2; unfold State.setLane; simp only [↓kept_mk, kept_mk]
theorem State.applyTxEq_kept : ∀ s a1, State.kept (State.applyTxEq s a1) = State.kept s := by
  intro s a1; unfold State.applyTxEq; simp only [↓State.setLane_kept, ↓State.emit_kept]
theorem State.loadTxEq_kept : ∀ s a1, State.kept (State.loadTxEq s a1) = State.kept s := by
  intro s a1; unfold State.loadTxEq; simp only [↓State.applyTxEq_kept, ↓State.put_kept]
theorem wrLnkTxeq_kept : ∀ a0 a1 a2 s, State.kept (wrLnkTxeq a0 a1 a2 s) = State.kept s := by
  intro a0 a1 a2 s; unfold wrLnkTxeq; simp only [↓kept_ite, ite_self, ↓State.plainWrite_kept, ↓State.applyTxEq_kept, ↓State.loadTxEq_kept]
theorem State.rawUnalign_kept : ∀ s a1 a2, State.kept (State.rawUnalign s a1 a2) = State.kept s := by
  intro s a1 a2; unfold State.rawUnalign; simp only [↓State.setBit_kept, ↓State.setRx_kept]
theorem State.laneUnalign_kept : ∀ s a1 a2, State.kept (State.laneUnalign s a1 a2) = State.kept s := by
  intro s a1 a2; unfold State.laneUnalign; (repeat' (first | (with_reducible rfl) | split | simp only [↓State.rawUnalign_kept]))
theorem State.laneUp_kept : ∀ s a1, State.kept (State.laneUp s a1) = State.kept s := by
  intro s a1; unfold State.laneUp; (repeat' (first | (with_reducible rfl) | split | simp only [↓kept_when, ↓State.rxLanes_kept, ↓State.laneUnalign_kept, ↓State.rxRealign_kept]))
theorem State.laneSends_kept : ∀ s a1, State.kept (State.laneSends s a1) = State.kept s := by
  intro s a1; unfold State.laneSends; (repeat' (first | (with_reducible rfl) | split | simp only [↓State.txLanes_kept]))
theorem State.laneDown_kept : ∀ s a1, State.kept (State.laneDown s a1) = State.kept s := by
  intro s a1; unfold State.laneDown; (repeat' (first | (with_reducible rfl) | split | simp only [↓State.rxDown_kept]))
theorem State.showFom_kept : ∀ s a1 a2 a3 a4 a5, State.kept (State.showFom s a1 a2 a3 a4 a5) = State.kept s := by
  intro s a1 a2 a3 a4 a5; unfold State.showFom; simp only [andThen_cons, andThen_nil, ↓State.put_kept, ↓State.incr_kept]
theorem State.detect_kept : ∀ s a1 a2, State.kept (State.detect s a1 a2) = State.kept s := by
  intro s a1 a2; unfold State.detect; simp only [↓kept_ite, ite_self, andThen_cons, andThen_nil, ↓State.setLane_kept, ↓State.putB_kept, ↓State.put_kept, ↓State.bump_kept, ↓State.post_kept, ↓State.laneDown_kept, ↓State.laneUp_kept]
theorem State.takeTaps_kept : ∀ s a1 a2 a3, State.kept (State.takeTaps s a1 a2 a3) = State.kept s := by
  intro s a1 a2 a3; unfold State.takeTaps; simp only [↓State.setLane_kept, ↓State.wreg_kept]
theorem State.follow_kept : ∀ s a1 a2 a3, State.kept (State.follow s a1 a2 a3) = State.kept s := by
  intro s a1 a2 a3; unfold State.follow; simp only [↓kept_ite, ite_self, ↓State.takeTaps_kept]
theorem State.fomUpdate_kept : ∀ s a1 a2 a3 a4 a5 a6 a7 a8, State.kept (State.fomUpdate s a1 a2 a3 a4 a5 a6 a7 a8) = State.kept s := by
  intro s a1 a2 a3 a4 a5 a6 a7 a8; unfold State.fomUpdate; simp only [↓kept_ite, ite_self, ↓State.follow_kept, ↓State.showFom_kept, ↓State.detect_kept]
theorem State.laneClocked_kept : ∀ s a1, State.kept (State.laneClocked s a1) = State.kept s := by
  intro s a1; unfold State.laneClocked; simp only [↓kept_ite, ite_self, andThen_cons, andThen_nil, ↓State.loadTxEq_kept, ↓State.put_kept, ↓State.laneSends_kept]
theorem State.laneEnter_kept : ∀ s a1, State.kept (State.laneEnter s a1) = State.kept s := by
  intro s a1; unfold State.laneEnter; simp only [↓kept_ite, ite_self, andThen_cons, andThen_nil, ↓State.bringUp_kept, ↓State.put_kept, ↓State.putB_kept, ↓State.laneClocked_kept]
theorem State.quadLock_kept : ∀ s a1, State.kept (State.quadLock s a1) = State.kept s := by
  intro s a1; unfold State.quadLock; simp only [↓kept_mk, ↓kept_ite, ite_self, ↓kept_foldl, implies_true, kept_mk, ↓State.laneClocked_kept]
theorem State.recalStops_kept : ∀ s a1, State.kept (State.recalStops s a1) = State.kept s := by
  intro s a1; unfold State.recalStops; (repeat' (first | (with_reducible rfl) | split | simp only [andThen_cons, andThen_nil, ↓State.setLane_kept, ↓State.put_kept]))
theorem State.laneLeave_kept : ∀ s a1, State.kept (State.laneLeave s a1) = State.kept s := by
  intro s a1; unfold State.laneLeave; simp only [↓kept_ite, ite_self, andThen_cons, andThen_nil, ↓State.recalStops_kept, ↓State.setLane_kept, ↓State.put_kept, ↓State.laneDown_kept]
theorem State.takeAdapt_kept : ∀ s a1 a2, State.kept (State.takeAdapt s a1 a2) = State.kept s := by
  intro s a1 a2; unfold State.takeAdapt; simp only [↓State.setLane_kept, ↓State.put_kept, ↓State.takeTaps_kept]
theorem State.showAdapt_kept : ∀ s a1 a2, State.kept (State.showAdapt s a1 a2) = State.kept s := by
  intro s a1 a2; unfold State.showAdapt; simp only [↓State.put_kept, ↓State.showFom_kept]
theorem State.laneComesUp_kept : ∀ s a1, State.kept (State.laneComesUp s a1) = State.kept s := by
  intro s a1; unfold State.laneComesUp; simp only [andThen_cons, andThen_nil, ↓State.setLane_kept, ↓State.put_kept, ↓State.laneUp_kept]
theorem State.adaptEnds_kept : ∀ s a1 a2, State.kept (State.adaptEnds s a1 a2) = State.kept s := by
  intro s a1 a2; unfold State.adaptEnds; simp only [↓kept_ite, ite_self, ↓State.showAdapt_kept, ↓State.takeAdapt_kept, ↓State.put_kept, ↓State.laneComesUp_kept, ↓State.setLane_kept, ↓State.post_kept]
theorem State.recalStart_kept : ∀ s a1 a2, State.kept (State.recalStart s a1 a2) = State.kept s := by
  intro s a1 a2; unfold State.recalStart; simp only [↓kept_ite, ite_self, andThen_cons, andThen_nil, ↓State.setLane_kept, ↓State.put_kept]
theorem wrLnkRecal_kept : ∀ a0 a1 s, State.kept (wrLnkRecal a0 a1 s) = State.kept s := by
  intro a0 a1 s; unfold wrLnkRecal; simp only [↓kept_ite, ite_self, ↓State.put_kept, ↓State.recalStart_kept]
theorem State.recalSendDone_kept : ∀ s a1 a2, State.kept (State.recalSendDone s a1 a2) = State.kept s := by
  intro s a1 a2; unfold State.recalSendDone; simp only [↓State.loadTxEq_kept, ↓State.put_kept, ↓State.putB_kept]
theorem State.recalInDone_kept : ∀ s a1 a2 a3 a4, State.kept (State.recalInDone s a1 a2 a3 a4) = State.kept s := by
  intro s a1 a2 a3 a4; unfold State.recalInDone; simp only [↓kept_ite, ite_self, ↓State.put_kept, ↓State.takeTaps_kept]
theorem State.recalOutDone_kept : ∀ s a1 a2 a3 a4 a5, State.kept (State.recalOutDone s a1 a2 a3 a4 a5) = State.kept s := by
  intro s a1 a2 a3 a4 a5; unfold State.recalOutDone; simp only [↓kept_ite, ite_self, ↓State.put_kept, ↓State.showAdapt_kept, ↓State.takeAdapt_kept, ↓State.laneComesUp_kept, ↓State.laneUp_kept]
theorem State.recalDone_kept : ∀ s a1 a2 a3, State.kept (State.recalDone s a1 a2 a3) = State.kept s := by
  intro s a1 a2 a3; unfold State.recalDone; (repeat' (first | (with_reducible rfl) | split | simp only [↓State.setLane_kept, ↓State.put_kept, ↓State.recalSendDone_kept, ↓State.recalInDone_kept, ↓State.recalOutDone_kept]))
theorem State.lolTimeout_kept : ∀ s a1, State.kept (State.lolTimeout s a1) = State.kept s := by
  intro s a1; unfold State.lolTimeout; simp only [↓kept_ite, ite_self, ↓State.recalStart_kept]
theorem State.laneBand_kept : ∀ s a1, State.kept (State.laneBand s a1) = State.kept s := by
  intro s a1; unfold State.laneBand; simp only [↓kept_ite, ite_self, ↓State.loadTxEq_kept, ↓State.recalStart_kept]
theorem wrLnkRefcfg_kept : ∀ a0 a1 s, State.kept (wrLnkRefcfg a0 a1 s) = State.kept s := by
  intro a0 a1 s; unfold wrLnkRefcfg; simp only [↓kept_ite, ite_self, ↓kept_foldl, implies_true, ↓State.plainWrite_kept, ↓State.emit_kept, ↓State.postIgnored_kept]
theorem State.refReturns_kept : ∀ s a1, State.kept (State.refReturns s a1) = State.kept s := by
  intro s a1; unfold State.refReturns; simp only [↓kept_ite, ite_self, ↓State.put_kept, ↓State.setLane_kept]
theorem wrLnkSlip_kept : ∀ a0 a1 s, State.kept (wrLnkSlip a0 a1 s) = State.kept s := by
  intro a0 a1 s; unfold wrLnkSlip; simp only [↓kept_ite, ite_self, ↓State.put_kept]
theorem State.slipApplied_kept : ∀ s a1, State.kept (State.slipApplied s a1) = State.kept s := by
  intro s a1; unfold State.slipApplied; (repeat' (first | (with_reducible rfl) | split | simp only [↓State.put_kept, ↓State.laneUnalign_kept]))
theorem wrLnkPrbs_kept : ∀ a0 a1 a2 s, State.kept (wrLnkPrbs a0 a1 a2 s) = State.kept s := by
  intro a0 a1 a2 s; unfold wrLnkPrbs; (repeat' (first | (with_reducible rfl) | split | simp only [↓kept_ite, ite_self, ↓State.plainWrite_kept, ↓State.put_kept, ↓State.setLane_kept, ↓State.emit_kept, ↓State.laneUp_kept, ↓State.laneSends_kept]))
theorem State.prbsCheck_kept : ∀ s a1 a2, State.kept (State.prbsCheck s a1 a2) = State.kept s := by
  intro s a1 a2; unfold State.prbsCheck; (repeat' (first | (with_reducible rfl) | split | simp only [↓State.setLane_kept, ↓State.putB_kept, ↓State.bumpBy_kept]))

theorem State.fwVerify_kept : ∀ s a1 a2, State.kept (State.fwVerify s a1 a2).2 = State.kept s := by
  intro s a1 a2; unfold State.fwVerify; simp only [↓kept_ite, ite_self, ↓State.post_kept]
theorem State.writeSlot_kept : ∀ s a1 a2, State.kept (State.writeSlot s a1 a2) = State.kept s := by
  intro s a1 a2; unfold State.writeSlot; simp only [↓kept_mk, kept_mk]
theorem State.runFirmware_kept : ∀ s a1 a2 a3, State.kept (State.runFirmware s a1 a2 a3) = State.kept s := by
  intro s a1 a2 a3; unfold State.runFirmware; simp only [↓kept_mk, kept_mk, ↓State.setBytes_kept, ↓State.put_kept, ↓State.emit_kept]
theorem State.ethStart_kept : ∀ s a1, State.kept (State.ethStart s a1) = State.kept s := by
  intro s a1; unfold State.ethStart; simp only [↓kept_foldl, implies_true, ↓State.put_kept, ↓State.laneEnter_kept]
theorem State.bootIp_kept : ∀ s a1 a2 a3, State.kept (State.bootIp s a1 a2 a3) = State.kept s := by
  intro s a1 a2 a3; unfold State.bootIp; simp only [andThen_cons, andThen_nil, ↓State.put_kept]
theorem State.bootEth_kept : ∀ s, State.kept (State.bootEth s) = State.kept s := by
  intro s; unfold State.bootEth; simp only [↓kept_ite, ite_self, ↓State.bringUp_kept, ↓State.bootIp_kept, ↓State.put_kept, ↓State.ethStart_kept]
theorem State.startNetBoot_kept : ∀ s a1, State.kept (State.startNetBoot s a1) = State.kept s := by
  intro s a1; unfold State.startNetBoot; simp only [↓kept_mk, kept_mk, ↓State.bootEth_kept]
theorem State.enterRecovery_kept : ∀ s, State.kept (State.enterRecovery s) = State.kept s := by
  intro s; unfold State.enterRecovery; simp only [↓kept_mk, kept_mk, ↓State.bootEth_kept]
theorem State.trySlots_kept (s : State) (k : Nat) (l : List Nat) :
    State.kept (s.trySlots k l).2 = s.kept ∧ ∀ t, (s.trySlots k l).1 = some t → t.kept = s.kept := by
  induction l generalizing s with
  | nil => exact ⟨rfl, fun t h => by cases h⟩
  | cons x r ih =>
    unfold State.trySlots
    split
    · exact ih s
    · have h := State.fwVerify_kept s (s.slotImage x) 0x1000000
      split
      · rename_i e
        rw [e] at h
        exact ⟨h, fun t ht => by cases ht; rw [State.runFirmware_kept]; exact h⟩
      · rename_i t _ e
        rw [e] at h
        exact ⟨(ih t).1.trans h, fun u hu => ((ih t).2 u hu).trans h⟩
theorem State.nvsWrite_kept : ∀ s a1 a2 a3, State.kept (State.nvsWrite s a1 a2 a3) = State.kept s := by
  intro s a1 a2 a3; unfold State.nvsWrite; simp only [↓kept_ite, ite_self, ↓State.setBytes_kept, ↓State.post_kept]

theorem State.wrDrcMapctl_kept : ∀ s a1, State.kept (State.wrDrcMapctl s a1) = State.kept s := by
  intro s a1; unfold State.wrDrcMapctl; simp only [↓kept_ite, ite_self, ↓State.put_kept, ↓State.putB_kept]
theorem State.wrDrcMap_kept : ∀ s a1 a2 a3, State.kept (State.wrDrcMap s a1 a2 a3) = State.kept s := by
  intro s a1 a2 a3; unfold State.wrDrcMap; simp only [↓kept_ite, ite_self, ↓State.plainWrite_kept]
theorem State.drainRule_kept : ∀ s a1 a2, State.kept (State.drainRule s a1 a2) = State.kept s := by
  intro s a1 a2; unfold State.drainRule; simp only [↓kept_ite, ite_self, ↓State.drainTo_kept]
theorem State.noteServed_kept : ∀ s a1, State.kept (State.noteServed s a1) = State.kept s := by
  intro s a1; unfold State.noteServed; simp only [↓kept_mk, kept_mk]
theorem State.dramPerform_kept : ∀ s a1 a2, State.kept (State.dramPerform s a1 a2) = State.kept s := by
  intro s a1 a2; unfold State.dramPerform; ((repeat' (first | (with_reducible rfl) | split | simp only [↓kept_mk, kept_mk, ↓State.noteServed_kept, ↓State.charge_kept, ↓State.touchRow_kept, ↓State.drainRule_kept, ↓State.emit_kept]))); (all_goals (repeat (rename_i h; first | (have h' := congrArg (fun p => State.kept (Prod.snd p)) h; simp only [↓State.noteServed_kept, ↓State.dramRead_kept] at h'; clear h; revert h') | clear h | revert h))); all_goals (intros; first | (with_reducible rfl) | (simp only [↓kept_mk, ↓kept_evt, ↓kept_ite, ↓snd_ite, ite_self, ↓kept_foldl, ↓kept_when, andThen_cons, andThen_nil, implies_true, kept_mk, kept_evt, ↓State.noteServed_kept, ↓State.charge_kept, ↓State.touchRow_kept, ↓State.drainRule_kept, ↓State.dramRead_kept, ↓State.emit_kept]; done) | (simp only [↓kept_mk, ↓kept_evt, ↓kept_ite, ↓snd_ite, ite_self, ↓kept_foldl, ↓kept_when, andThen_cons, andThen_nil, implies_true, kept_mk, kept_evt, ↓State.noteServed_kept, ↓State.charge_kept, ↓State.touchRow_kept, ↓State.drainRule_kept, ↓State.dramRead_kept, ↓State.emit_kept]; simp only [*]; done) | simp only [*])
theorem State.serveWaiting_kept (s : State) (n : Nat) : State.kept (s.serveWaiting n) = s.kept := by
  induction n generalizing s with
  | zero => rfl
  | succ n ih =>
    unfold State.serveWaiting
    split
    · rfl
    · rw [ih, State.dramPerform_kept]; rfl
theorem State.serveAll_kept : ∀ s, State.kept (State.serveAll s) = State.kept s := by
  intro s; unfold State.serveAll; simp only [↓State.serveWaiting_kept]
theorem State.dramSubmit_kept : ∀ s a1 a2, State.kept (State.dramSubmit s a1 a2) = State.kept s := by
  intro s a1 a2; unfold State.dramSubmit; simp only [↓kept_mk, ↓kept_ite, ite_self, ↓kept_when, kept_mk, ↓State.dramFail_kept, ↓State.emit_kept, ↓State.exitSelfRefresh_kept, ↓State.dramPerform_kept, ↓State.setClient_kept]
theorem State.dueShort_kept : ∀ s a1, State.kept (State.dueShort s a1) = State.kept s := by
  intro s a1; unfold State.dueShort; (repeat' (first | (with_reducible rfl) | split | simp only [↓kept_mk, kept_mk, ↓State.startShort_kept]))
theorem State.dueBoth_kept : ∀ s a1, State.kept (State.dueBoth s a1) = State.kept s := by
  intro s a1; unfold State.dueBoth; simp only [↓State.dueShort_kept]
theorem State.drcInit_kept (s : State) (ch : Nat) (b : Bool) : State.kept (s.drcInit ch b) = s.kept := by
  unfold State.drcInit
  extract_lets +onlyGivenNames st
  split
  · rw [andThen_cons, andThen_cons, andThen_cons, andThen_cons, andThen_cons, andThen_cons, andThen_nil]
    rw [show ∀ t : State, State.kept { t with dram := { t.dram with resume := sset false t.dram.resume ch b } } = t.kept from fun _ => rfl,
      State.put_kept, State.put_kept, State.demand_kept, State.demand_kept, State.demand_kept]
  · rw [State.postIgnored_kept]
theorem State.drcRetrain_kept : ∀ s a1 a2, State.kept (State.drcRetrain s a1 a2) = State.kept s := by
  intro s a1 a2; unfold State.drcRetrain; simp only [↓kept_ite, ite_self, ↓State.put_kept, ↓State.dueBoth_kept]
theorem State.wrDrcCtrl_kept : ∀ s a1 a2, State.kept (State.wrDrcCtrl s a1 a2) = State.kept s := by
  intro s a1 a2; unfold State.wrDrcCtrl; simp only [↓kept_ite, ite_self, ↓State.drcInit_kept, ↓State.drcRetrain_kept]
theorem State.loseChannel_kept : ∀ s a1, State.kept (State.loseChannel s a1) = State.kept s := by
  intro s a1; unfold State.loseChannel; simp only [↓kept_mk, kept_mk, ↓kept_foldl, implies_true, ↓State.takeFreeBytes_kept, ↓State.setByte_kept]
theorem State.runDue_kept : ∀ s a1, State.kept (State.runDue s a1) = State.kept s := by
  intro s a1; unfold State.runDue; simp only [↓kept_mk, ↓kept_foldl, implies_true, kept_mk, ↓State.startShort_kept]
theorem State.applyPresets_kept : ∀ s a1, State.kept (State.applyPresets s a1) = State.kept s := by
  intro s a1; unfold State.applyPresets; simp only [↓kept_mk, kept_mk]
theorem State.trainFail_kept : ∀ s a1 a2 a3, State.kept (State.trainFail s a1 a2 a3) = State.kept s := by
  intro s a1 a2 a3; unfold State.trainFail; simp only [↓State.put_kept, ↓State.post_kept]
theorem State.failWaiting_kept : ∀ s a1, State.kept (State.failWaiting s a1) = State.kept s := by
  intro s a1; unfold State.failWaiting; simp only [↓kept_mk, ↓kept_foldl, ↓kept_when, implies_true, kept_mk, ↓State.dramFail_kept, ↓State.emit_kept]
theorem State.trainDone_kept : ∀ s a1 a2, State.kept (State.trainDone s a1 a2) = State.kept s := by
  intro s a1 a2; unfold State.trainDone; simp only [↓kept_mk, ↓kept_ite, ite_self, kept_mk, ↓State.bump_kept, ↓State.trainFail_kept, ↓State.failWaiting_kept, ↓State.put_kept, ↓State.applyPresets_kept, ↓State.runDue_kept, ↓State.serveAll_kept, ↓State.loseChannel_kept]
theorem State.nextShort_kept (s : State) (l : List Nat) : State.kept (s.nextShort l) = s.kept := by
  induction l generalizing s with
  | nil => rfl
  | cons x r ih => unfold State.nextShort; split; rfl; rw [ih]; rfl
theorem State.shortDone_kept : ∀ s, State.kept (State.shortDone s) = State.kept s := by
  intro s; unfold State.shortDone; (repeat' (first | (with_reducible rfl) | split | simp only [↓State.bump_kept, ↓State.applyPresets_kept, ↓State.nextShort_kept, ↓State.serveAll_kept]))
theorem State.rebandChannel_kept : ∀ s a1, State.kept (State.rebandChannel s a1) = State.kept s := by
  intro s a1; unfold State.rebandChannel; simp only [↓kept_ite, ite_self, ↓State.put_kept, ↓State.dueBoth_kept]
theorem State.readDevice_kept : ∀ s a1 a2, State.kept (State.readDevice s a1 a2) = State.kept s := by
  intro s a1 a2; unfold State.readDevice; simp only [↓kept_mk, kept_mk]
theorem State.readDevices_kept (s : State) (k : Nat) (l : List (Option Int)) : State.kept (s.readDevices k l) = s.kept := by
  induction l generalizing s k with
  | nil => rfl
  | cons x r ih => unfold State.readDevices; rw [ih, State.readDevice_kept]
theorem State.closeRows_kept : ∀ s a1 a2, State.kept (State.closeRows s a1 a2) = State.kept s := by
  intro s a1 a2; unfold State.closeRows; simp only [↓kept_mk, kept_mk]
theorem State.refreshRank_kept : ∀ s a1, State.kept (State.refreshRank s a1) = State.kept s := by
  intro s a1; unfold State.refreshRank; simp only [↓kept_mk, kept_mk, ↓State.closeRows_kept]
theorem State.selfRefresh_kept : ∀ s a1, State.kept (State.selfRefresh s a1) = State.kept s := by
  intro s a1; unfold State.selfRefresh; simp only [andThen_cons, andThen_nil, ↓State.drainTo_kept, ↓State.refreshRank_kept, ↓State.put_kept]
theorem State.closeClient_kept : ∀ s a1 a2, State.kept (State.closeClient s a1 a2) = State.kept s := by
  intro s a1 a2; unfold State.closeClient; simp only [↓kept_when, andThen_cons, andThen_nil, ↓State.put_kept, ↓State.bump_kept, ↓State.post_kept, ↓State.setClient_kept]
theorem State.openClient_kept : ∀ s a1, State.kept (State.openClient s a1) = State.kept s := by
  intro s a1; unfold State.openClient; simp only [↓State.setClient_kept]
theorem State.steepEnd_kept : ∀ s a1, State.kept (State.steepEnd s a1) = State.kept s := by
  intro s a1; unfold State.steepEnd; simp only [↓kept_mk, ↓kept_foldl, implies_true, kept_mk, ↓State.closeClient_kept, ↓State.put_kept, ↓State.incr_kept]
theorem State.steepBegin_kept : ∀ s, State.kept (State.steepBegin s) = State.kept s := by
  intro s; unfold State.steepBegin; simp only [↓kept_foldl, implies_true, ↓State.openClient_kept, ↓State.serveAll_kept]

theorem State.ethOut_kept : ∀ s a1, State.kept (State.ethOut s a1) = State.kept s := by
  intro s a1; unfold State.ethOut; simp only [↓kept_mk, ↓kept_ite, ite_self, kept_mk]
theorem State.ethFlush_kept : ∀ s, State.kept (State.ethFlush s) = State.kept s := by
  intro s; unfold State.ethFlush; simp only [↓kept_mk, ↓kept_foldl, implies_true, kept_mk, ↓State.ethOut_kept]
theorem State.ipSend_kept : ∀ s a1 a2 a3 a4 a5, State.kept (State.ipSend s a1 a2 a3 a4 a5) = State.kept s := by
  intro s a1 a2 a3 a4 a5; unfold State.ipSend; (repeat' (first | (with_reducible rfl) | split | simp only [↓kept_mk, ↓kept_ite, kept_mk, ↓State.ethOut_kept]))
theorem State.arpLearn_kept : ∀ s a1 a2 a3, State.kept (State.arpLearn s a1 a2 a3) = State.kept s := by
  intro s a1 a2 a3; unfold State.arpLearn; simp only [↓kept_mk, ↓kept_foldl, implies_true, kept_mk, ↓State.ethOut_kept]
theorem State.setQp_kept : ∀ s a1 a2, State.kept (State.setQp s a1 a2) = State.kept s := by
  intro s a1 a2; unfold State.setQp; simp only [↓kept_mk, kept_mk]
theorem State.roceOut_kept : ∀ s a1 a2 a3, State.kept (State.roceOut s a1 a2 a3) = State.kept s := by
  intro s a1 a2 a3; unfold State.roceOut; simp only [↓State.ipSend_kept]
theorem State.roceTransmit_kept : ∀ s a1 a2, State.kept (State.roceTransmit s a1 a2) = State.kept s := by
  intro s a1 a2; unfold State.roceTransmit; simp only [↓State.roceOut_kept]
theorem State.rocePost_kept : ∀ s a1 a2, State.kept (State.rocePost s a1 a2) = State.kept s := by
  intro s a1 a2; unfold State.rocePost; (repeat' (first | (with_reducible rfl) | split | simp only [↓State.setQp_kept, ↓State.roceTransmit_kept]))
theorem State.roceWaiting_kept (s : State) (q n : Nat) : State.kept (s.roceWaiting q n) = s.kept := by
  induction n generalizing s with
  | zero => rfl
  | succ n ih =>
    unfold State.roceWaiting
    repeat' split
    all_goals first | rfl | rw [ih, State.rocePost_kept, State.setQp_kept]
theorem State.endCommands_kept : ∀ s a1, State.kept (State.endCommands s a1) = State.kept s := by
  intro s a1; unfold State.endCommands; simp only [↓kept_mk, ↓kept_ite, ite_self, kept_mk, ↓State.withdrawFault_kept]
theorem State.qpError_kept : ∀ s a1, State.kept (State.qpError s a1) = State.kept s := by
  intro s a1; unfold State.qpError; (repeat' (first | (with_reducible rfl) | split | simp only [↓State.setQp_kept, ↓State.endCommands_kept]))
theorem State.qpFail_kept : ∀ s a1, State.kept (State.qpFail s a1) = State.kept s := by
  intro s a1; unfold State.qpFail; (repeat' (first | (with_reducible rfl) | split | simp only [↓State.qpError_kept, ↓State.post_kept]))
theorem State.qpFree_kept : ∀ s a1, State.kept (State.qpFree s a1) = State.kept s := by
  intro s a1; unfold State.qpFree; simp only [↓kept_mk, kept_mk, ↓State.setQp_kept]
theorem State.qpKill_kept : ∀ s a1, State.kept (State.qpKill s a1) = State.kept s := by
  intro s a1; unfold State.qpKill; simp only [↓State.qpError_kept, ↓State.qpFree_kept]
theorem State.roceAck_kept : ∀ s a1 a2, State.kept (State.roceAck s a1 a2) = State.kept s := by
  intro s a1 a2; unfold State.roceAck; (repeat' (first | (with_reducible rfl) | split | simp only [↓State.setQp_kept, ↓State.roceWaiting_kept]))
theorem State.roceAgain_kept : ∀ s a1, State.kept (State.roceAgain s a1) = State.kept s := by
  intro s a1; unfold State.roceAgain; (repeat' (first | (with_reducible rfl) | split | simp only [↓kept_foldl, implies_true, ↓State.roceTransmit_kept, ↓State.bumpBy_kept]))
theorem State.roceRetry_kept : ∀ s a1, State.kept (State.roceRetry s a1) = State.kept s := by
  intro s a1; unfold State.roceRetry; (repeat' (first | (with_reducible rfl) | split | simp only [↓State.qpFail_kept, ↓State.setQp_kept, ↓State.roceAgain_kept]))
theorem State.roceRnrRetry_kept : ∀ s a1, State.kept (State.roceRnrRetry s a1) = State.kept s := by
  intro s a1; unfold State.roceRnrRetry; (repeat' (first | (with_reducible rfl) | split | simp only [↓kept_ite, ite_self, ↓State.qpFail_kept, ↓State.setQp_kept, ↓State.roceAgain_kept]))
theorem State.setCcpQ_kept : ∀ s a1 a2, State.kept (State.setCcpQ s a1 a2) = State.kept s := by
  intro s a1 a2; unfold State.setCcpQ; simp only [↓kept_mk, kept_mk]
theorem State.ccpRing_kept : ∀ s a1 a2 a3, State.kept (State.ccpRing s a1 a2 a3) = State.kept s := by
  intro s a1 a2 a3; unfold State.ccpRing; (repeat' (first | (with_reducible rfl) | split | simp only [↓State.setCcpQ_kept]))
theorem State.ccpDoorbell_kept : ∀ s a1 a2, State.kept (State.ccpDoorbell s a1 a2) = State.kept s := by
  intro s a1 a2; unfold State.ccpDoorbell; (repeat' (first | (with_reducible rfl) | split | simp only [↓State.ccpRing_kept, ↓State.post_kept]))
theorem State.roceDropped_kept : ∀ s a1 a2, State.kept (State.roceDropped s a1 a2) = State.kept s := by
  intro s a1 a2; unfold State.roceDropped; (repeat' (first | (with_reducible rfl) | split | simp only [↓State.post_kept]))
theorem State.keyCheck_kept : ∀ s a1 a2 a3 a4 a5 a6, State.kept (State.keyCheck s a1 a2 a3 a4 a5 a6).2 = State.kept s := by
  intro s a1 a2 a3 a4 a5 a6; unfold State.keyCheck; ((repeat' (first | (with_reducible rfl) | split | simp only))); (all_goals (repeat (rename_i h; first | (have h' := congrArg (fun p => State.kept (Prod.snd p)) h; simp only [↓State.engRead_kept, ↓State.roceDropped_kept] at h'; clear h; revert h') | clear h | revert h))); all_goals (intros; first | (with_reducible rfl) | (simp only [↓kept_mk, ↓kept_evt, ↓kept_ite, ↓snd_ite, ite_self, ↓kept_foldl, ↓kept_when, andThen_cons, andThen_nil, implies_true, kept_mk, kept_evt, ↓State.engRead_kept, ↓State.roceDropped_kept]; done) | (simp only [↓kept_mk, ↓kept_evt, ↓kept_ite, ↓snd_ite, ite_self, ↓kept_foldl, ↓kept_when, andThen_cons, andThen_nil, implies_true, kept_mk, kept_evt, ↓State.engRead_kept, ↓State.roceDropped_kept]; simp only [*]; done) | simp only [*])
theorem State.roceNak_kept : ∀ s a1 a2 a3, State.kept (State.roceNak s a1 a2 a3) = State.kept s := by
  intro s a1 a2 a3; unfold State.roceNak; simp only [↓State.roceOut_kept, ↓State.qpFail_kept]
theorem State.roceWrite_kept : ∀ s a1 a2 a3, State.kept (State.roceWrite s a1 a2 a3).2 = State.kept s := by
  intro s a1 a2 a3; unfold State.roceWrite; ((repeat' (first | (with_reducible rfl) | split | simp only [↓State.roceDropped_kept]))); (all_goals (repeat (rename_i h; first | (have h' := congrArg (fun p => State.kept (Prod.snd p)) h; simp only [↓State.engWrite_kept] at h'; clear h; revert h') | clear h | revert h))); all_goals (intros; first | (with_reducible rfl) | (simp only [↓kept_mk, ↓kept_evt, ↓kept_ite, ↓snd_ite, ite_self, ↓kept_foldl, ↓kept_when, andThen_cons, andThen_nil, implies_true, kept_mk, kept_evt, ↓State.engWrite_kept, ↓State.roceDropped_kept]; done) | (simp only [↓kept_mk, ↓kept_evt, ↓kept_ite, ↓snd_ite, ite_self, ↓kept_foldl, ↓kept_when, andThen_cons, andThen_nil, implies_true, kept_mk, kept_evt, ↓State.engWrite_kept, ↓State.roceDropped_kept]; simp only [*]; done) | simp only [*])
theorem State.roceRequest_kept (s : State) (q : Nat) (x : EthQp) (k : RocePkt) : State.kept (s.roceRequest q x k) = s.kept := by
  unfold State.roceRequest
  extract_lets +onlyGivenNames p done ack
  have hd : ∀ t y n, State.kept (done t y n) = t.kept := fun _ _ _ => State.setQp_kept _ _ _
  have ha : ∀ t, State.kept (ack t) = t.kept := by
    intro t; simp only [ack]; split
    · exact State.roceOut_kept _ _ _ _
    · rfl
  clear_value done ack
  split
  · split
    · exact State.roceOut_kept _ _ _ _
    · extract_lets +onlyGivenNames c c2 t
      have h : t.kept = s.kept := by simp only [t]; rw [ha, hd]
      split
      · rw [State.ccpDoorbell_kept]; exact h
      · exact h
  · extract_lets +onlyGivenNames start
    have hs : State.kept start.2 = s.kept := by
      simp only [start]
      split
      · have h := State.keyCheck_kept s q p k.va k.rkey k.len 1
        split
        · rename_i e; rw [e] at h; exact h
        · rename_i e; rw [e] at h; exact h
        · rename_i e; rw [e] at h; exact h
      · rfl
    clear_value start
    split
    · rw [State.roceNak_kept]; exact hs
    · rename_i c t
      split
      rename_i c' u e
      have h := State.roceWrite_kept t p c k.data
      rw [e] at h
      rw [ha, hd, h]; exact hs
  · have h := State.keyCheck_kept s q p k.va k.rkey k.len 0
    split
    · rename_i e; rw [e] at h; rw [State.roceNak_kept]; exact h
    · rename_i e; rw [e] at h; rw [State.roceNak_kept]; exact h
    · rename_i t e
      rw [e] at h
      have h2 := State.engRead_kept t (ethReq p) k.va k.len
      split
      · rename_i e2; rw [e2] at h2; rw [State.roceNak_kept, State.roceDropped_kept, h2]; exact h
      · rename_i e2; rw [e2] at h2; rw [State.roceOut_kept, hd, h2]; exact h
theorem State.roceReceive_kept : ∀ s a1 a2, State.kept (State.roceReceive s a1 a2) = State.kept s := by
  intro s a1 a2; unfold State.roceReceive; ((repeat' (first | (with_reducible rfl) | split | simp only [↓State.latchWake_kept, ↓State.bump_kept, ↓State.roceAck_kept, ↓State.roceRetry_kept, ↓State.qpFail_kept, ↓State.roceRequest_kept, ↓State.setQp_kept, ↓State.roceOut_kept, ↓State.roceDropped_kept, ↓State.roceNak_kept]))); (all_goals (repeat (rename_i h; first | (have h' := congrArg (fun p => State.kept (Prod.snd p)) h; simp only [↓State.keyCheck_kept, ↓State.engRead_kept] at h'; clear h; revert h') | clear h | revert h))); all_goals (intros; first | (with_reducible rfl) | (simp only [↓kept_mk, ↓kept_evt, ↓kept_ite, ↓snd_ite, ite_self, ↓kept_foldl, ↓kept_when, andThen_cons, andThen_nil, implies_true, kept_mk, kept_evt, ↓State.latchWake_kept, ↓State.bump_kept, ↓State.roceAck_kept, ↓State.roceRetry_kept, ↓State.qpFail_kept, ↓State.roceRequest_kept, ↓State.setQp_kept, ↓State.roceOut_kept, ↓State.keyCheck_kept, ↓State.engRead_kept, ↓State.roceDropped_kept, ↓State.roceNak_kept]; done) | (simp only [↓kept_mk, ↓kept_evt, ↓kept_ite, ↓snd_ite, ite_self, ↓kept_foldl, ↓kept_when, andThen_cons, andThen_nil, implies_true, kept_mk, kept_evt, ↓State.latchWake_kept, ↓State.bump_kept, ↓State.roceAck_kept, ↓State.roceRetry_kept, ↓State.qpFail_kept, ↓State.roceRequest_kept, ↓State.setQp_kept, ↓State.roceOut_kept, ↓State.keyCheck_kept, ↓State.engRead_kept, ↓State.roceDropped_kept, ↓State.roceNak_kept]; simp only [*]; done) | simp only [*])
theorem wrEthQpSel_kept (src : Nat) (v : Word) (s : State) : State.kept (wrEthQpSel src v s) = s.kept := by
  unfold wrEthQpSel
  extract_lets +onlyGivenNames t
  have h : t.kept = s.kept := State.plainWrite_kept _ _ _ _
  split
  · rw [State.qpKill_kept, State.ethFlush_kept, h]
  · exact h

theorem rdTimNowNs_kept : ∀ s, State.kept (rdTimNowNs s).2 = State.kept s := by
  intro s; unfold rdTimNowNs; simp only [andThen_cons, andThen_nil, ↓State.put_kept]
theorem wrTimSlew_kept : ∀ a0 s, State.kept (wrTimSlew a0 s) = State.kept s := by
  intro a0 s; unfold wrTimSlew; simp only [↓kept_mk, kept_mk]
theorem wrTrgCfg_kept (k : Nat) (v : Word) (s : State) : State.kept (wrTrgCfg k v s) = s.kept := by
  unfold wrTrgCfg
  split
  · split
    · exact State.put_kept _ _ _
    · rfl
  · extract_lets +onlyGivenNames t
    have h : t.kept = s.kept := by simp only [t]; rw [State.put_kept, State.put_kept]
    split
    · simp only [↓kept_mk, ↓State.put_kept]; exact h
    · exact h
theorem wrTrgClosed_kept : ∀ a0 a1 a2 a3 s, State.kept (wrTrgClosed a0 a1 a2 a3 s) = State.kept s := by
  intro a0 a1 a2 a3 s; unfold wrTrgClosed; simp only [↓kept_ite, ite_self, ↓State.plainWrite_kept]
theorem State.toutFire_kept : ∀ s a1 a2, State.kept (State.toutFire s a1 a2) = State.kept s := by
  intro s a1 a2; unfold State.toutFire; simp only [↓kept_mk, ↓kept_ite, ite_self, kept_mk, ↓State.emit_kept]
theorem State.consume_kept : ∀ s a1, State.kept (State.consume s a1) = State.kept s := by
  intro s a1; unfold State.consume; simp only [↓kept_ite, ite_self, ↓kept_foldl, ↓kept_when, implies_true, ↓State.toutFire_kept, ↓State.vsyncAssert_kept, ↓State.audTrigger_kept, ↓State.patternStart_kept, ↓State.setBit_kept, ↓State.latchWake_kept]
theorem State.trgFire_kept (s : State) (k : Nat) : State.kept (s.trgFire k) = s.kept := by
  unfold State.trgFire
  dsimp only
  split
  · rfl
  · rw [State.consume_kept]
    split
    · simp only [↓kept_mk, ↓State.put_kept, ↓State.bump_kept]
    · simp only [↓kept_mk, ↓State.bumpBy_kept, ↓State.bump_kept]
theorem State.toutEnd_kept : ∀ s a1, State.kept (State.toutEnd s a1) = State.kept s := by
  intro s a1; unfold State.toutEnd; simp only [↓kept_mk, ↓kept_ite, ite_self, kept_mk, ↓State.emit_kept]
theorem wrGpioTout_kept : ∀ a0 a1 a2 s, State.kept (wrGpioTout a0 a1 a2 s) = State.kept s := by
  intro a0 a1 a2 s; unfold wrGpioTout; simp only [↓kept_mk, ↓kept_ite, ite_self, kept_mk, ↓State.plainWrite_kept, ↓State.emit_kept]
theorem wrGpio_kept : ∀ a0 a1 a2 s, State.kept (wrGpio a0 a1 a2 s) = State.kept s := by
  intro a0 a1 a2 s; unfold wrGpio; simp only [↓State.plainWrite_kept, ↓State.emit_kept]
theorem State.captureEdge_kept : ∀ s a1 a2, State.kept (State.captureEdge s a1 a2) = State.kept s := by
  intro s a1 a2; unfold State.captureEdge; simp only [↓kept_ite, ite_self, ↓State.setBit_kept, ↓State.capture_kept, ↓State.latchWake_kept, ↓State.vsyncEdge_kept]
theorem State.setPps_kept : ∀ s a1, State.kept (State.setPps s a1) = State.kept s := by
  intro s a1; unfold State.setPps; simp only [↓kept_mk, ↓kept_ite, ite_self, kept_mk, ↓State.emit_kept]
theorem wrTimCtl_kept : ∀ a0 a1 s, State.kept (wrTimCtl a0 a1 s) = State.kept s := by
  intro a0 a1 s; unfold wrTimCtl; simp only [↓kept_ite, ite_self, ↓State.plainWrite_kept, ↓State.setPps_kept]
theorem State.ptpReceive_kept : ∀ s a1 a2, State.kept (State.ptpReceive s a1 a2) = State.kept s := by
  intro s a1 a2; unfold State.ptpReceive; ((repeat' (first | (with_reducible rfl) | split | simp only [↓kept_mk, ↓kept_ite, ite_self, kept_mk, ↓State.bump_kept]))); (all_goals (repeat (rename_i h; first | (have h' := congrArg (fun p => State.kept (Prod.snd p)) h; simp only [↓kept_mk, kept_mk, ↓State.bump_kept, ↓State.ringRecord_kept] at h'; clear h; revert h') | clear h | revert h))); all_goals (intros; first | (with_reducible rfl) | (simp only [↓kept_mk, ↓kept_evt, ↓kept_ite, ↓snd_ite, ite_self, ↓kept_foldl, ↓kept_when, andThen_cons, andThen_nil, implies_true, kept_mk, kept_evt, ↓State.bump_kept, ↓State.ringRecord_kept]; done) | (simp only [↓kept_mk, ↓kept_evt, ↓kept_ite, ↓snd_ite, ite_self, ↓kept_foldl, ↓kept_when, andThen_cons, andThen_nil, implies_true, kept_mk, kept_evt, ↓State.bump_kept, ↓State.ringRecord_kept]; simp only [*]; done) | simp only [*])
theorem State.ptpTxDone_kept : ∀ s, State.kept (State.ptpTxDone s) = State.kept s := by
  intro s; unfold State.ptpTxDone; ((repeat' (first | (with_reducible rfl) | split | simp only [↓kept_ite, ↓State.put_kept, ↓State.emit_kept, ↓State.engWrite_kept]))); (all_goals (repeat (rename_i h; first | (have h' := congrArg (fun p => State.kept (Prod.snd p)) h; simp only [↓State.engRead_kept] at h'; clear h; revert h') | clear h | revert h))); all_goals (intros; first | (with_reducible rfl) | (simp only [↓kept_mk, ↓kept_evt, ↓kept_ite, ↓snd_ite, ite_self, ↓kept_foldl, ↓kept_when, andThen_cons, andThen_nil, implies_true, kept_mk, kept_evt, ↓State.put_kept, ↓State.engRead_kept, ↓State.emit_kept, ↓State.engWrite_kept]; done) | (simp only [↓kept_mk, ↓kept_evt, ↓kept_ite, ↓snd_ite, ite_self, ↓kept_foldl, ↓kept_when, andThen_cons, andThen_nil, implies_true, kept_mk, kept_evt, ↓State.put_kept, ↓State.engRead_kept, ↓State.emit_kept, ↓State.engWrite_kept]; simp only [*]; done) | simp only [*])
theorem State.tcForward_kept : ∀ s a1, State.kept (State.tcForward s a1) = State.kept s := by
  intro s a1; unfold State.tcForward; (repeat' (first | (with_reducible rfl) | split | simp only [↓kept_mk, ↓kept_ite, ite_self, kept_mk, ↓State.bump_kept, ↓State.emit_kept]))

theorem State.ethDisable_kept (s : State) (p : Nat) : State.kept (s.ethDisable p) = s.kept := by
  unfold State.ethDisable
  refine (kept_foldl _ (fun t e => ?_) _ _).trans ?_
  · repeat' split
    all_goals first | rfl | exact State.qpError_kept _ _
  · refine (kept_foldl _ (fun t e => State.laneLeave_kept _ _) _ _).trans ?_
    simp only [↓State.put_kept]
theorem wrEthCfg_kept (p src : Nat) (v : Word) (s : State) : State.kept (wrEthCfg p src v s) = s.kept := by
  unfold wrEthCfg
  dsimp only
  split
  · split
    · exact State.postIgnored_kept _ _ _ _
    · simp only [↓State.ethDisable_kept, ↓State.ethFlush_kept, ↓kept_ite, ↓State.postIgnored_kept, ite_self]
  · split
    · refine (kept_foldl _ (fun t i => State.laneEnter_kept _ _) _ _).trans ?_
      simp only [↓State.put_kept, ↓State.plainWrite_kept]
    · exact State.plainWrite_kept _ _ _ _
theorem wrEthAddr_kept : ∀ a0 a1 a2 a3 s, State.kept (wrEthAddr a0 a1 a2 a3 s) = State.kept s := by
  intro a0 a1 a2 a3 s; unfold wrEthAddr; simp only [↓kept_ite, ite_self, ↓State.postIgnored_kept, ↓State.plainWrite_kept]
theorem wrEthKeytab_kept : ∀ a0 a1 a2 s, State.kept (wrEthKeytab a0 a1 a2 s) = State.kept s := by
  intro a0 a1 a2 s; unfold wrEthKeytab; simp only [↓kept_ite, ite_self, ↓State.plainWrite_kept, ↓State.postIgnored_kept]
theorem State.mgmtReply_kept : ∀ s a1 a2 a3 a4, State.kept (State.mgmtReply s a1 a2 a3 a4) = State.kept s := by
  intro s a1 a2 a3 a4; unfold State.mgmtReply; simp only [↓State.ipSend_kept]
theorem State.mgmtDiscover_kept : ∀ s a1, State.kept (State.mgmtDiscover s a1) = State.kept s := by
  intro s a1; unfold State.mgmtDiscover; simp only [↓State.mgmtReply_kept]
theorem State.openQp_kept : ∀ s a1 a2 a3 a4 a5, State.kept (State.openQp s a1 a2 a3 a4 a5).2 = State.kept s := by
  intro s a1 a2 a3 a4 a5; unfold State.openQp; ((repeat' (first | (with_reducible rfl) | split | simp only [↓kept_ite, ↓snd_ite, ite_self, ↓State.setQp_kept, ↓State.setCcpQ_kept]))); (all_goals (repeat (rename_i h; first | (have h' := congrArg (fun p => State.kept (Prod.snd p)) h; simp only [↓State.takeFree_kept] at h'; clear h; revert h') | clear h | revert h))); all_goals (intros; first | (with_reducible rfl) | (simp only [↓kept_mk, ↓kept_evt, ↓kept_ite, ↓snd_ite, ite_self, ↓kept_foldl, ↓kept_when, andThen_cons, andThen_nil, implies_true, kept_mk, kept_evt, ↓State.takeFree_kept, ↓State.setQp_kept, ↓State.setCcpQ_kept]; done) | (simp only [↓kept_mk, ↓kept_evt, ↓kept_ite, ↓snd_ite, ite_self, ↓kept_foldl, ↓kept_when, andThen_cons, andThen_nil, implies_true, kept_mk, kept_evt, ↓State.takeFree_kept, ↓State.setQp_kept, ↓State.setCcpQ_kept]; simp only [*]; done) | simp only [*])
theorem State.mgmtConnect_kept : ∀ s a1 a2, State.kept (State.mgmtConnect s a1 a2) = State.kept s := by
  intro s a1 a2; unfold State.mgmtConnect; ((repeat' (first | (with_reducible rfl) | split | simp only [↓kept_mk, kept_mk, ↓State.mgmtReply_kept]))); (all_goals (repeat (rename_i h; first | (have h' := congrArg (fun p => State.kept (Prod.snd p)) h; simp only [↓State.openQp_kept] at h'; clear h; revert h') | clear h | revert h))); all_goals (intros; first | (with_reducible rfl) | (simp only [↓kept_mk, ↓kept_evt, ↓kept_ite, ↓snd_ite, ite_self, ↓kept_foldl, ↓kept_when, andThen_cons, andThen_nil, implies_true, kept_mk, kept_evt, ↓State.mgmtReply_kept, ↓State.openQp_kept]; done) | (simp only [↓kept_mk, ↓kept_evt, ↓kept_ite, ↓snd_ite, ite_self, ↓kept_foldl, ↓kept_when, andThen_cons, andThen_nil, implies_true, kept_mk, kept_evt, ↓State.mgmtReply_kept, ↓State.openQp_kept]; simp only [*]; done) | simp only [*])
theorem State.mgmtDisconnect_kept : ∀ s a1 a2, State.kept (State.mgmtDisconnect s a1 a2) = State.kept s := by
  intro s a1 a2; unfold State.mgmtDisconnect; (repeat' (first | (with_reducible rfl) | split | simp only [↓State.mgmtReply_kept, ↓State.qpKill_kept]))
theorem State.bootRead_kept : ∀ s, State.kept (State.bootRead s) = State.kept s := by
  intro s; unfold State.bootRead; (repeat' (first | (with_reducible rfl) | split | simp only [↓State.ipSend_kept]))
theorem State.setNet_kept : ∀ s a1, State.kept (State.setNet s a1) = State.kept s := by
  intro s a1; unfold State.setNet; simp only [↓kept_mk, kept_mk]
theorem State.bootSolicit_kept : ∀ s, State.kept (State.bootSolicit s) = State.kept s := by
  intro s; unfold State.bootSolicit; (repeat' (first | (with_reducible rfl) | split | simp only [↓State.ipSend_kept]))
theorem State.bootOffer_kept : ∀ s a1, State.kept (State.bootOffer s a1) = State.kept s := by
  intro s a1; unfold State.bootOffer; (repeat' (first | (with_reducible rfl) | split | simp only [↓State.bootIp_kept, ↓State.setNet_kept, ↓State.bootRead_kept]))
theorem State.bootData_kept : ∀ s a1, State.kept (State.bootData s a1) = State.kept s := by
  intro s a1; unfold State.bootData; ((repeat' (first | (with_reducible rfl) | split | simp only [↓kept_ite, ↓State.setBytes_kept, ↓State.setNet_kept, ↓State.bootRead_kept, ↓State.runFirmware_kept, ↓State.enterRecovery_kept]))); (all_goals (repeat (rename_i h; first | (have h' := congrArg (fun p => State.kept (Prod.snd p)) h; simp only [↓State.setBytes_kept, ↓State.setNet_kept, ↓State.fwVerify_kept] at h'; clear h; revert h') | clear h | revert h))); all_goals (intros; first | (with_reducible rfl) | (simp only [↓kept_mk, ↓kept_evt, ↓kept_ite, ↓snd_ite, ite_self, ↓kept_foldl, ↓kept_when, andThen_cons, andThen_nil, implies_true, kept_mk, kept_evt, ↓State.setBytes_kept, ↓State.setNet_kept, ↓State.bootRead_kept, ↓State.fwVerify_kept, ↓State.runFirmware_kept, ↓State.enterRecovery_kept]; done) | (simp only [↓kept_mk, ↓kept_evt, ↓kept_ite, ↓snd_ite, ite_self, ↓kept_foldl, ↓kept_when, andThen_cons, andThen_nil, implies_true, kept_mk, kept_evt, ↓State.setBytes_kept, ↓State.setNet_kept, ↓State.bootRead_kept, ↓State.fwVerify_kept, ↓State.runFirmware_kept, ↓State.enterRecovery_kept]; simp only [*]; done) | simp only [*])
theorem State.bootTimeout_kept : ∀ s, State.kept (State.bootTimeout s) = State.kept s := by
  intro s; unfold State.bootTimeout; (repeat' (first | (with_reducible rfl) | split | simp only [↓State.bootIp_kept, ↓State.setNet_kept, ↓State.bootSolicit_kept, ↓State.bootRead_kept]))
theorem State.ethDiscard_kept : ∀ s a1, State.kept (State.ethDiscard s a1) = State.kept s := by
  intro s a1; unfold State.ethDiscard; simp only [↓State.bump_kept]
theorem State.mgmtBad_kept : ∀ s a1, State.kept (State.mgmtBad s a1) = State.kept s := by
  intro s a1; unfold State.mgmtBad; simp only [↓State.bump_kept]
theorem State.setPause_kept : ∀ s a1 a2 a3, State.kept (State.setPause s a1 a2 a3) = State.kept s := by
  intro s a1 a2 a3; unfold State.setPause; simp only [↓kept_mk, kept_mk]
theorem State.macControl_kept : ∀ s a1 a2, State.kept (State.macControl s a1 a2) = State.kept s := by
  intro s a1 a2; unfold State.macControl; (repeat' (first | (with_reducible rfl) | split | simp only [↓kept_ite, ite_self, ↓kept_foldl, implies_true, ↓State.setPause_kept, ↓State.ethDiscard_kept]))
theorem State.arpReceive_kept : ∀ s a1 a2, State.kept (State.arpReceive s a1 a2) = State.kept s := by
  intro s a1 a2; unfold State.arpReceive; simp only [↓kept_ite, ite_self, ↓State.arpLearn_kept, ↓State.ethOut_kept]
theorem State.icmpReceive_kept : ∀ s a1 a2 a3, State.kept (State.icmpReceive s a1 a2 a3) = State.kept s := by
  intro s a1 a2 a3; unfold State.icmpReceive; simp only [↓kept_ite, ite_self, ↓State.ipSend_kept, ↓State.ethDiscard_kept]

end Sys2Proof.Machine
end

