-- ==== Sys2Proof/Laws/KeptStore.lean ====
section
/-! SUPPORT. What hardly any operation changes, for compression and the capture store. -/

namespace Sys2Proof.Machine

set_option maxRecDepth 4000
set_option linter.unusedVariables false

theorem State.cmpShow_kept (s : State) : State.kept s.cmpShow = s.kept := by
  unfold State.cmpShow
  refine kept_foldl _ (fun t k => ?_) _ _
  dsimp only
  repeat' split
  all_goals simp only [↓State.setBit_kept, ↓State.put_kept]
theorem State.cmpUpdate_kept : ∀ s a1, State.kept (State.cmpUpdate s a1) = State.kept s := by
  intro s a1; unfold State.cmpUpdate; simp only [↓kept_mk, kept_mk]
theorem State.cmpRemove_kept : ∀ s a1, State.kept (State.cmpRemove s a1) = State.kept s := by
  intro s a1; unfold State.cmpRemove; simp only [↓kept_mk, kept_mk]
theorem State.cmpUndefined_kept : ∀ s a1, State.kept (State.cmpUndefined s a1) = State.kept s := by
  intro s a1; unfold State.cmpUndefined; simp only [↓kept_ite, ite_self, ↓State.scramble_kept]
theorem State.cmpComplete_kept : ∀ s a1 a2 a3 a4, State.kept (State.cmpComplete s a1 a2 a3 a4) = State.kept s := by
  intro s a1 a2 a3 a4; unfold State.cmpComplete; ((repeat' (first | (with_reducible rfl) | split | simp only [↓kept_mk, kept_mk]))); (all_goals (repeat (rename_i h; first | (have h' := congrArg (fun p => State.kept (Prod.snd p)) h; simp only [↓State.cmpRemove_kept, ↓State.cmpUndefined_kept, ↓State.bump_kept, ↓State.post_kept, ↓State.ringRecord_kept] at h'; clear h; revert h') | clear h | revert h))); all_goals (intros; first | (with_reducible rfl) | (simp only [↓kept_mk, ↓kept_evt, ↓kept_ite, ↓snd_ite, ite_self, ↓kept_foldl, ↓kept_when, andThen_cons, andThen_nil, implies_true, kept_mk, kept_evt, ↓State.cmpRemove_kept, ↓State.cmpUndefined_kept, ↓State.bump_kept, ↓State.post_kept, ↓State.ringRecord_kept]; done) | (simp only [↓kept_mk, ↓kept_evt, ↓kept_ite, ↓snd_ite, ite_self, ↓kept_foldl, ↓kept_when, andThen_cons, andThen_nil, implies_true, kept_mk, kept_evt, ↓State.cmpRemove_kept, ↓State.cmpUndefined_kept, ↓State.bump_kept, ↓State.post_kept, ↓State.ringRecord_kept]; simp only [*]; done) | simp only [*])
theorem State.cmpRestore_kept : ∀ s a1, State.kept (State.cmpRestore s a1) = State.kept s := by
  intro s a1; unfold State.cmpRestore; ((repeat' (first | (with_reducible rfl) | split | simp only [↓State.cmpUpdate_kept, ↓State.cmpComplete_kept]))); (all_goals (repeat (rename_i h; first | (have h' := congrArg (fun p => State.kept (Prod.snd p)) h; simp only [↓State.engRead_kept] at h'; clear h; revert h') | clear h | revert h))); all_goals (intros; first | (with_reducible rfl) | (simp only [↓kept_mk, ↓kept_evt, ↓kept_ite, ↓snd_ite, ite_self, ↓kept_foldl, ↓kept_when, andThen_cons, andThen_nil, implies_true, kept_mk, kept_evt, ↓State.engRead_kept, ↓State.cmpUpdate_kept, ↓State.cmpComplete_kept]; done) | (simp only [↓kept_mk, ↓kept_evt, ↓kept_ite, ↓snd_ite, ite_self, ↓kept_foldl, ↓kept_when, andThen_cons, andThen_nil, implies_true, kept_mk, kept_evt, ↓State.engRead_kept, ↓State.cmpUpdate_kept, ↓State.cmpComplete_kept]; simp only [*]; done) | simp only [*])
theorem State.cmpFetch_kept (s : State) (q k : Nat) : State.kept (s.cmpFetch q k) = s.kept := by
  induction k generalizing s with
  | zero => rfl
  | succ k ih =>
    unfold State.cmpFetch
    extract_lets +onlyGivenNames n i busy
    split
    · rfl
    · extract_lets +onlyGivenNames b0 t j
      have ht : t.kept = s.kept := by simp only [t, b0, ↓kept_mk, ↓State.put_kept]
      clear_value t j
      have h := State.engRead_kept t (t.cmpReq q 0 true none) (t.addr (R.CMP_Q_SQ_LO q) (R.CMP_Q_SQ_HI q) + 64 * i) 64
      split
      · rename_i e; rw [e] at h; rw [ih]; exact h.trans ht
      · rename_i e; rw [e] at h; rw [ih, State.cmpComplete_kept]; exact h.trans ht
      · rename_i e; rw [e] at h; rw [ih, State.cmpComplete_kept]; exact h.trans ht
theorem State.cmpPump_kept : ∀ s, State.kept (State.cmpPump s) = State.kept s := by
  intro s; unfold State.cmpPump; simp only [↓kept_foldl, implies_true, ↓State.cmpFetch_kept, ↓State.cmpRestore_kept, ↓State.cmpShow_kept]
theorem State.cmpLines_kept : ∀ s a1 a2 a3 a4 a5 a6, State.kept (State.cmpLines s a1 a2 a3 a4 a5 a6).2 = State.kept s := by
  intro s a1 a2 a3 a4 a5 a6; induction a6 generalizing s a1 a2 a3 a4 a5 with
    | zero => (unfold State.cmpLines; ((repeat' (first | (with_reducible rfl) | split | simp only [↓kept_mk, ↓kept_evt, ↓kept_ite, ↓snd_ite, ite_self, ↓kept_foldl, ↓kept_when, andThen_cons, andThen_nil, implies_true, kept_mk, kept_evt, ↓State.engRead_kept]))); (all_goals (repeat (rename_i h; first | (have h' := congrArg (fun p => State.kept (Prod.snd p)) h; simp only [↓kept_mk, ↓kept_evt, ↓kept_ite, ↓snd_ite, ite_self, ↓kept_foldl, ↓kept_when, andThen_cons, andThen_nil, implies_true, kept_mk, kept_evt, ↓State.engRead_kept] at h'; clear h; revert h') | clear h | revert h))); all_goals (intros; first | (with_reducible rfl) | (simp only [↓kept_mk, ↓kept_evt, ↓kept_ite, ↓snd_ite, ite_self, ↓kept_foldl, ↓kept_when, andThen_cons, andThen_nil, implies_true, kept_mk, kept_evt, ↓State.engRead_kept]; done) | (simp only [↓kept_mk, ↓kept_evt, ↓kept_ite, ↓snd_ite, ite_self, ↓kept_foldl, ↓kept_when, andThen_cons, andThen_nil, implies_true, kept_mk, kept_evt, ↓State.engRead_kept]; simp only [*]; done) | simp only [*]))
    | succ t0 ih0 => (unfold State.cmpLines; ((repeat' (first | (with_reducible rfl) | split | simp only))); ((all_goals (repeat (rename_i h; first | (have h' := congrArg (fun p => State.kept (Prod.snd p)) h; simp only [↓State.engRead_kept, ih0] at h'; clear h; revert h') | clear h | revert h))); all_goals (intros; first | (with_reducible rfl) | (simp only [↓kept_mk, ↓kept_evt, ↓kept_ite, ↓snd_ite, ite_self, ↓kept_foldl, ↓kept_when, andThen_cons, andThen_nil, implies_true, kept_mk, kept_evt, ↓State.engRead_kept]; done) | (simp only [↓kept_mk, ↓kept_evt, ↓kept_ite, ↓snd_ite, ite_self, ↓kept_foldl, ↓kept_when, andThen_cons, andThen_nil, implies_true, kept_mk, kept_evt, ↓State.engRead_kept]; simp only [*]; done) | simp only [*])))
theorem State.cmpPutLines_kept : ∀ s a1 a2 a3 a4 a5, State.kept (State.cmpPutLines s a1 a2 a3 a4 a5).2 = State.kept s := by
  intro s a1 a2 a3 a4 a5; induction a5 generalizing s a1 a2 a3 a4 with
    | nil => (unfold State.cmpPutLines; ((repeat' (first | (with_reducible rfl) | split | simp only [↓kept_mk, ↓kept_evt, ↓kept_ite, ↓snd_ite, ite_self, ↓kept_foldl, ↓kept_when, andThen_cons, andThen_nil, implies_true, kept_mk, kept_evt, ↓State.engWrite_kept]))); (all_goals (repeat (rename_i h; first | (have h' := congrArg (fun p => State.kept (Prod.snd p)) h; simp only [↓kept_mk, ↓kept_evt, ↓kept_ite, ↓snd_ite, ite_self, ↓kept_foldl, ↓kept_when, andThen_cons, andThen_nil, implies_true, kept_mk, kept_evt, ↓State.engWrite_kept] at h'; clear h; revert h') | clear h | revert h))); all_goals (intros; first | (with_reducible rfl) | (simp only [↓kept_mk, ↓kept_evt, ↓kept_ite, ↓snd_ite, ite_self, ↓kept_foldl, ↓kept_when, andThen_cons, andThen_nil, implies_true, kept_mk, kept_evt, ↓State.engWrite_kept]; done) | (simp only [↓kept_mk, ↓kept_evt, ↓kept_ite, ↓snd_ite, ite_self, ↓kept_foldl, ↓kept_when, andThen_cons, andThen_nil, implies_true, kept_mk, kept_evt, ↓State.engWrite_kept]; simp only [*]; done) | simp only [*]))
    | cons h0 t0 ih0 => (unfold State.cmpPutLines; ((repeat' (first | (with_reducible rfl) | split | simp only))); ((all_goals (repeat (rename_i h; first | (have h' := congrArg (fun p => State.kept (Prod.snd p)) h; simp only [↓State.engWrite_kept] at h'; clear h; revert h') | clear h | revert h))); all_goals (intros; first | (with_reducible rfl) | (simp only [↓kept_mk, ↓kept_evt, ↓kept_ite, ↓snd_ite, ite_self, ↓kept_foldl, ↓kept_when, andThen_cons, andThen_nil, implies_true, kept_mk, kept_evt, ↓State.engWrite_kept]; done) | (simp only [↓kept_mk, ↓kept_evt, ↓kept_ite, ↓snd_ite, ite_self, ↓kept_foldl, ↓kept_when, andThen_cons, andThen_nil, implies_true, kept_mk, kept_evt, ↓State.engWrite_kept]; simp only [*]; done) | simp only [*])))
theorem State.cmpEncode_kept : ∀ s a1, State.kept (State.cmpEncode s a1).2 = State.kept s := by
  intro s a1; unfold State.cmpEncode; ((repeat' (first | (with_reducible rfl) | split | simp only))); (all_goals (repeat (rename_i h; first | (have h' := congrArg (fun p => State.kept (Prod.snd p)) h; simp only [↓State.cmpLines_kept, ↓State.engWrite_kept] at h'; clear h; revert h') | clear h | revert h))); all_goals (intros; first | (with_reducible rfl) | (simp only [↓kept_mk, ↓kept_evt, ↓kept_ite, ↓snd_ite, ite_self, ↓kept_foldl, ↓kept_when, andThen_cons, andThen_nil, implies_true, kept_mk, kept_evt, ↓State.cmpLines_kept, ↓State.engWrite_kept]; done) | (simp only [↓kept_mk, ↓kept_evt, ↓kept_ite, ↓snd_ite, ite_self, ↓kept_foldl, ↓kept_when, andThen_cons, andThen_nil, implies_true, kept_mk, kept_evt, ↓State.cmpLines_kept, ↓State.engWrite_kept]; simp only [*]; done) | simp only [*])
theorem State.cmpDecode_kept : ∀ s a1, State.kept (State.cmpDecode s a1).2 = State.kept s := by
  intro s a1; unfold State.cmpDecode; ((repeat' (first | (with_reducible rfl) | split | simp only))); (all_goals (repeat (rename_i h; first | (have h' := congrArg (fun p => State.kept (Prod.snd p)) h; simp only [↓State.engRead_kept, ↓State.cmpPutLines_kept] at h'; clear h; revert h') | clear h | revert h))); all_goals (intros; first | (with_reducible rfl) | (simp only [↓kept_mk, ↓kept_evt, ↓kept_ite, ↓snd_ite, ite_self, ↓kept_foldl, ↓kept_when, andThen_cons, andThen_nil, implies_true, kept_mk, kept_evt, ↓State.engRead_kept, ↓State.cmpPutLines_kept]; done) | (simp only [↓kept_mk, ↓kept_evt, ↓kept_ite, ↓snd_ite, ite_self, ↓kept_foldl, ↓kept_when, andThen_cons, andThen_nil, implies_true, kept_mk, kept_evt, ↓State.engRead_kept, ↓State.cmpPutLines_kept]; simp only [*]; done) | simp only [*])
theorem State.cmpStripes_kept : ∀ s a1 a2, State.kept (State.cmpStripes s a1 a2).2 = State.kept s := by
  intro s a1 a2; induction a2 generalizing s a1 with
    | zero => (unfold State.cmpStripes; ((repeat' (first | (with_reducible rfl) | split | simp only [↓kept_mk, ↓kept_evt, ↓kept_ite, ↓snd_ite, ite_self, ↓kept_foldl, ↓kept_when, andThen_cons, andThen_nil, implies_true, kept_mk, kept_evt, ↓State.cmpEncode_kept, ↓State.cmpDecode_kept]))); (all_goals (repeat (rename_i h; first | (have h' := congrArg (fun p => State.kept (Prod.snd p)) h; simp only [↓kept_mk, ↓kept_evt, ↓kept_ite, ↓snd_ite, ite_self, ↓kept_foldl, ↓kept_when, andThen_cons, andThen_nil, implies_true, kept_mk, kept_evt, ↓State.cmpEncode_kept, ↓State.cmpDecode_kept] at h'; clear h; revert h') | clear h | revert h))); all_goals (intros; first | (with_reducible rfl) | (simp only [↓kept_mk, ↓kept_evt, ↓kept_ite, ↓snd_ite, ite_self, ↓kept_foldl, ↓kept_when, andThen_cons, andThen_nil, implies_true, kept_mk, kept_evt, ↓State.cmpEncode_kept, ↓State.cmpDecode_kept]; done) | (simp only [↓kept_mk, ↓kept_evt, ↓kept_ite, ↓snd_ite, ite_self, ↓kept_foldl, ↓kept_when, andThen_cons, andThen_nil, implies_true, kept_mk, kept_evt, ↓State.cmpEncode_kept, ↓State.cmpDecode_kept]; simp only [*]; done) | simp only [*]))
    | succ t0 ih0 => (unfold State.cmpStripes; ((repeat' (first | (with_reducible rfl) | split | simp only))); ((all_goals (repeat (rename_i h; first | (have h' := congrArg (fun p => State.kept (Prod.snd p)) h; simp only [↓kept_ite, ↓snd_ite, ite_self, ↓State.cmpEncode_kept, ↓State.cmpDecode_kept] at h'; clear h; revert h') | clear h | revert h))); all_goals (intros; first | (with_reducible rfl) | (simp only [↓kept_mk, ↓kept_evt, ↓kept_ite, ↓snd_ite, ite_self, ↓kept_foldl, ↓kept_when, andThen_cons, andThen_nil, implies_true, kept_mk, kept_evt, ↓State.cmpEncode_kept, ↓State.cmpDecode_kept]; done) | (simp only [↓kept_mk, ↓kept_evt, ↓kept_ite, ↓snd_ite, ite_self, ↓kept_foldl, ↓kept_when, andThen_cons, andThen_nil, implies_true, kept_mk, kept_evt, ↓State.cmpEncode_kept, ↓State.cmpDecode_kept]; simp only [*]; done) | simp only [*])))
theorem State.cmpBegin_kept (s : State) (j : CmpJob) : State.kept (s.cmpBegin j).2 = s.kept := by
  unfold State.cmpBegin
  split
  · rfl
  · extract_lets +onlyGivenNames k
    split
    rename_i st t e
    have h : t.kept = s.kept := by
      have hw := State.engRead_kept s (s.cmpReq j.q j.eng true none) (j.d 0x28 8) (0x1240 + 2 * k.w * k.pv)
      split at e
      · split at e
        · rename_i u e'
          rw [e'] at hw; cases e; exact hw
        · rename_i u e'
          rw [e'] at hw; cases e; exact hw
      · cases e; rfl
    clear e
    split
    · exact h
    · split
      · exact h
      · split
        · exact h
        · have hw := State.engRead_kept t (t.cmpReq j.q j.eng false none) (j.d 0x10 8) 64
          split
          · rename_i u e'
            rw [e'] at hw; exact hw.trans h
          · rename_i u e'
            rw [e'] at hw
            extract_lets +onlyGivenNames want
            split
            · exact hw.trans h
            · exact hw.trans h
theorem State.cmpFinish_kept (s : State) (j : CmpJob) : State.kept (s.cmpFinish j).2 = s.kept := by
  unfold State.cmpFinish
  extract_lets +onlyGivenNames w lines
  split
  rename_i a t e
  have h : t.kept = s.kept := by
    have hw := State.engWrite_kept s (s.cmpReq j.q j.eng false none) (j.d 0x20 8) j.header
    split at e
    · split at e
      · rename_i u e'
        rw [e'] at hw; cases e; exact hw
      · rename_i u e'
        rw [e'] at hw; cases e; exact hw
    · cases e; rfl
  split
  · exact h
  · extract_lets +onlyGivenNames res
    split
    · have hw := State.engWrite_kept t (t.cmpReq j.q j.eng true none) (j.d 0x28 8) j.record
      split
      · rename_i u e'
        rw [e'] at hw; exact hw.trans h
      · rename_i u e'
        rw [e'] at hw; exact hw.trans h
    · exact h
theorem State.cmpPredict_kept : ∀ s a1, State.kept (State.cmpPredict s a1).2 = State.kept s := by
  intro s a1; unfold State.cmpPredict; ((repeat' (first | (with_reducible rfl) | split | simp only))); (all_goals (repeat (rename_i h; first | (have h' := congrArg (fun p => State.kept (Prod.snd p)) h; simp only [↓State.cmpBegin_kept, ↓State.cmpStripes_kept, ↓State.cmpFinish_kept] at h'; clear h; revert h') | clear h | revert h))); all_goals (intros; first | (with_reducible rfl) | (simp only [↓kept_mk, ↓kept_evt, ↓kept_ite, ↓snd_ite, ite_self, ↓kept_foldl, ↓kept_when, andThen_cons, andThen_nil, implies_true, kept_mk, kept_evt, ↓State.cmpBegin_kept, ↓State.cmpStripes_kept, ↓State.cmpFinish_kept]; done) | (simp only [↓kept_mk, ↓kept_evt, ↓kept_ite, ↓snd_ite, ite_self, ↓kept_foldl, ↓kept_when, andThen_cons, andThen_nil, implies_true, kept_mk, kept_evt, ↓State.cmpBegin_kept, ↓State.cmpStripes_kept, ↓State.cmpFinish_kept]; simp only [*]; done) | simp only [*])
theorem State.cmpFlate_kept (s : State) (j : CmpJob) (out : List Byte) (x : (CmpJob × Except CmpStop (Nat × Nat)) × State)
    (h : s.cmpFlate j out = some x) : x.2.kept = s.kept := by
  unfold State.cmpFlate at h
  extract_lets +onlyGivenNames r at h
  have hr := State.engRead_kept s r (j.d 0x10 8) (j.d 0x18 4)
  split at h
  · rename_i t e
    rw [e] at hr; cases h; exact hr
  · rename_i inp t e
    rw [e] at hr
    extract_lets +onlyGivenNames put at h
    have hp : ∀ b u st y, put b u st = some y → y.2.kept = t.kept := by
      intro b u st y hy
      simp only [put] at hy
      split at hy
      · cases hy; rfl
      · have hw := State.engWrite_kept t r (j.d 0x20 8) b
        split at hy
        · rename_i e'
          rw [e'] at hw; cases hy; exact hw
        · rename_i e'
          rw [e'] at hw; cases hy; exact hw
    clear_value put
    repeat' split at h
    all_goals first | cases h; done | exact (hp _ _ _ _ h).trans hr | (cases h; exact hr)
theorem State.cmpSuspend_kept : ∀ s a1 a2 a3 a4 a5, State.kept (State.cmpSuspend s a1 a2 a3 a4 a5) = State.kept s := by
  intro s a1 a2 a3 a4 a5; unfold State.cmpSuspend; simp only [↓kept_ite, ite_self, ↓State.cmpUpdate_kept, ↓State.cmpShow_kept, ↓State.unitFault_kept]
theorem State.cmpEnd_kept (s : State) (k : Nat) (out : List Byte) : State.kept (s.cmpEnd k out) = s.kept := by
  unfold State.cmpEnd
  split
  · rfl
  · rename_i j _
    split
    · rfl
    · have h : ∀ x, (if j.isDeflate then s.cmpFlate j out else some (s.cmpPredict j)) = some x → x.2.kept = s.kept := by
        intro x hx
        split at hx
        · exact State.cmpFlate_kept _ _ _ _ hx
        · cases hx; exact State.cmpPredict_kept _ _
      split
      · rfl
      · rename_i e; rw [State.cmpPump_kept, State.cmpComplete_kept]; exact h _ e
      · rename_i e; rw [State.cmpPump_kept, State.cmpComplete_kept]; exact h _ e
      · rename_i e; rw [State.cmpSuspend_kept]; exact h _ e
theorem State.cmpRestart_kept : ∀ s a1, State.kept (State.cmpRestart s a1) = State.kept s := by
  intro s a1; unfold State.cmpRestart; (repeat' (first | (with_reducible rfl) | split | simp only [↓State.cmpUpdate_kept, ↓State.cmpShow_kept]))
theorem State.cmpFailFault_kept : ∀ s a1, State.kept (State.cmpFailFault s a1) = State.kept s := by
  intro s a1; unfold State.cmpFailFault; (repeat' (first | (with_reducible rfl) | split | simp only [↓State.cmpComplete_kept, ↓State.cmpPump_kept]))
theorem State.cmpStart_kept : ∀ s a1, State.kept (State.cmpStart s a1) = State.kept s := by
  intro s a1; unfold State.cmpStart; (repeat' (first | (with_reducible rfl) | split | simp only [↓kept_mk, kept_mk, ↓State.bringUp_kept, ↓State.cmpUpdate_kept, ↓State.cmpShow_kept, ↓State.cmpComplete_kept, ↓State.cmpPump_kept]))
theorem wrCmpAbort_kept : ∀ a0 s, State.kept (wrCmpAbort a0 s) = State.kept s := by
  intro a0 s; unfold wrCmpAbort; (repeat' (first | (with_reducible rfl) | split | simp only [↓State.put_kept, ↓State.withdrawFault_kept, ↓State.cmpComplete_kept, ↓State.cmpPump_kept]))
-- TODO cmpEvicted S ..
theorem cmpEvicted_kept (j : CmpJob) (p : Except AccErr Unit × State) : State.kept (cmpEvicted j p) = p.2.kept := by
  obtain ⟨e | u, v⟩ := p
  · cases e <;> (unfold cmpEvicted; dsimp only; rw [State.cmpPump_kept, State.cmpComplete_kept])
  · unfold cmpEvicted; dsimp only; rw [State.cmpShow_kept, State.cmpUpdate_kept]
theorem State.cmpEvict_kept (s : State) (j : CmpJob) : State.kept (s.cmpEvict j) = s.kept := by
  unfold State.cmpEvict
  rw [cmpEvicted_kept, State.scramble_kept]
theorem State.cmpSave_kept (s : State) (b : Bool) : State.kept (s.cmpSave b) = s.kept := by
  unfold State.cmpSave
  split
  · rfl
  · extract_lets +onlyGivenNames chosen
    split
    · rfl
    · split
      · rw [State.cmpEvict_kept, State.withdrawFault_kept]
      · split
        · rw [State.cmpEvict_kept]
        · rw [State.cmpUpdate_kept]
theorem State.cmpStopAll_kept : ∀ s, State.kept (State.cmpStopAll s) = State.kept s := by
  intro s; unfold State.cmpStopAll; simp only [↓kept_mk, ↓kept_ite, ite_self, ↓kept_foldl, implies_true, kept_mk, ↓State.withdrawFault_kept, ↓State.cmpShow_kept]
theorem wrCmpCfg_kept : ∀ a0 a1 s, State.kept (wrCmpCfg a0 a1 s) = State.kept s := by
  intro a0 a1 s; unfold wrCmpCfg; simp only [↓kept_ite, ite_self, ↓State.plainWrite_kept, ↓State.cmpStopAll_kept, ↓State.cmpPump_kept]
theorem wrCmpCtl_kept : ∀ a0 a1 a2 s, State.kept (wrCmpCtl a0 a1 a2 s) = State.kept s := by
  intro a0 a1 a2 s; unfold wrCmpCtl; simp only [↓kept_mk, ↓kept_ite, ite_self, kept_mk, ↓State.postIgnored_kept, ↓State.put_kept, ↓State.cmpPump_kept, ↓State.plainWrite_kept, ↓State.wreg_kept]
theorem State.closedWrite_kept : ∀ s a1 a2 a3 a4, State.kept (State.closedWrite s a1 a2 a3 a4) = State.kept s := by
  intro s a1 a2 a3 a4; unfold State.closedWrite; simp only [↓kept_ite, ite_self, ↓State.postIgnored_kept, ↓State.plainWrite_kept]
theorem wrCmpRing_kept : ∀ a0 a1 a2 a3 s, State.kept (wrCmpRing a0 a1 a2 a3 s) = State.kept s := by
  intro a0 a1 a2 a3 s; unfold wrCmpRing; simp only [↓State.closedWrite_kept]
theorem wrCmpSaveArea_kept : ∀ a0 a1 a2 s, State.kept (wrCmpSaveArea a0 a1 a2 s) = State.kept s := by
  intro a0 a1 a2 s; unfold wrCmpSaveArea; simp only [↓State.closedWrite_kept]
theorem wrCmpSqIdx_kept : ∀ a0 a1 a2 s, State.kept (wrCmpSqIdx a0 a1 a2 s) = State.kept s := by
  intro a0 a1 a2 s; unfold wrCmpSqIdx; simp only [↓State.plainWrite_kept, ↓State.cmpPump_kept]
theorem wrCmpCqIdx_kept : ∀ a0 a1 a2 s, State.kept (wrCmpCqIdx a0 a1 a2 s) = State.kept s := by
  intro a0 a1 a2 s; unfold wrCmpCqIdx; simp only [↓kept_mk, kept_mk, ↓State.plainWrite_kept, ↓State.cmpPump_kept]

theorem State.ccpShow_kept : ∀ s, State.kept (State.ccpShow s) = State.kept s := by
  intro s; unfold State.ccpShow; simp only [↓State.put_kept]
theorem State.touchIndex_kept : ∀ s, State.kept (State.touchIndex s).2 = State.kept s := by
  intro s; unfold State.touchIndex; simp only [↓State.scramble_kept]
theorem State.setTake_kept : ∀ s a1 a2, State.kept (State.setTake s a1 a2) = State.kept s := by
  intro s a1 a2; unfold State.setTake; simp only [↓kept_mk, kept_mk, ↓State.ccpShow_kept]
theorem State.setCmd_kept : ∀ s a1, State.kept (State.setCmd s a1) = State.kept s := by
  intro s a1; unfold State.setCmd; simp only [↓kept_mk, kept_mk]
theorem State.finish_kept : ∀ s a1 a2 a3, State.kept (State.finish s a1 a2 a3) = State.kept s := by
  intro s a1 a2 a3; unfold State.finish; (repeat' (first | (with_reducible rfl) | split | simp only [↓State.setCmd_kept, ↓State.bump_kept, ↓State.post_kept]))
theorem State.cmdError_kept : ∀ s a1 a2, State.kept (State.cmdError s a1 a2) = State.kept s := by
  intro s a1 a2; unfold State.cmdError; (repeat' (first | (with_reducible rfl) | split | simp only [↓State.finish_kept, ↓State.setCmd_kept, ↓State.unitFault_kept]))
theorem State.ccpRestart_kept : ∀ s, State.kept (State.ccpRestart s) = State.kept s := by
  intro s; unfold State.ccpRestart; simp only [↓kept_mk, kept_mk]
theorem State.ccpFailFault_kept : ∀ s, State.kept (State.ccpFailFault s) = State.kept s := by
  intro s; unfold State.ccpFailFault; (repeat' (first | (with_reducible rfl) | split | simp only [↓State.finish_kept]))
theorem State.hostWrite_kept : ∀ s a1 a2, State.kept (State.hostWrite s a1 a2).2 = State.kept s := by
  intro s a1 a2; unfold State.hostWrite; simp only [↓kept_ite, ↓snd_ite, ite_self, ↓State.engWrite_kept, ↓State.rocePost_kept]
theorem State.hostRead_kept : ∀ s a1 a2 a3 a4, State.kept (State.hostRead s a1 a2 a3 a4).2 = State.kept s := by
  intro s a1 a2 a3 a4; unfold State.hostRead; simp only [↓kept_ite, ↓snd_ite, ite_self, ↓State.engRead_kept, ↓State.rocePost_kept]
theorem State.answerHost_kept : ∀ s a1 a2 a3, State.kept (State.answerHost s a1 a2 a3) = State.kept s := by
  intro s a1 a2 a3; unfold State.answerHost; ((repeat' (first | (with_reducible rfl) | split | simp only [↓State.finish_kept, ↓State.cmdError_kept]))); (all_goals (repeat (rename_i h; first | (have h' := congrArg (fun p => State.kept (Prod.snd p)) h; simp only [↓State.hostWrite_kept] at h'; clear h; revert h') | clear h | revert h))); all_goals (intros; first | (with_reducible rfl) | (simp only [↓kept_mk, ↓kept_evt, ↓kept_ite, ↓snd_ite, ite_self, ↓kept_foldl, ↓kept_when, andThen_cons, andThen_nil, implies_true, kept_mk, kept_evt, ↓State.hostWrite_kept, ↓State.finish_kept, ↓State.cmdError_kept]; done) | (simp only [↓kept_mk, ↓kept_evt, ↓kept_ite, ↓snd_ite, ite_self, ↓kept_foldl, ↓kept_when, andThen_cons, andThen_nil, implies_true, kept_mk, kept_evt, ↓State.hostWrite_kept, ↓State.finish_kept, ↓State.cmdError_kept]; simp only [*]; done) | simp only [*])
theorem State.takeEntries_kept (s : State) (q : Nat) (x : CcpQueue) (l : List (List Byte)) : State.kept (s.takeEntries q x l) = s.kept := by
  induction l generalizing s with
  | nil => rfl
  | cons e r ih => unfold State.takeEntries; dsimp only; rw [ih]; simp only [↓kept_mk]
theorem State.submissionFetch_kept (s : State) (q : Nat) (l : List (List Byte)) : State.kept (s.submissionFetch q l) = s.kept := by
  unfold State.submissionFetch
  split
  · rfl
  · rename_i x _
    split
    · rfl
    · extract_lets +onlyGivenNames n
      clear_value n
      split
      · rfl
      · extract_lets +onlyGivenNames a
        clear_value a
        split
        rename_i b t e
        have h : t.kept = s.kept := by
          have hr := State.engRead_kept s (ccpReq true none) a (64 * n)
          split at e
          · split at e
            · rename_i e'; rw [e'] at hr; cases e; exact hr
            · rename_i e'; rw [e'] at hr; cases e; exact hr
          · cases e; exact State.rocePost_kept _ _ _
        clear e
        split
        · exact h
        · dsimp only
          rw [State.takeEntries_kept, kept_ite, State.put_kept, ite_self, State.setCcpQ_kept, h]
theorem State.flushHeld_kept (s : State) (q k : Nat) : State.kept (s.flushHeld q k) = s.kept := by
  induction k generalizing s with
  | zero => rfl
  | succ k ih =>
    unfold State.flushHeld
    split
    · rfl
    · split
      · rfl
      · rw [ih, State.setCcpQ_kept, State.rocePost_kept]
theorem State.sweepRuns_kept : ∀ s, State.kept (State.sweepRuns s) = State.kept s := by
  intro s; unfold State.sweepRuns; simp only [↓kept_mk, kept_mk, ↓State.ccpShow_kept]
theorem State.perform_kept (s : State) (q cid opc : Nat) (act : CcpCmd → State → State) (h : ∀ c s, State.kept (act c s) = s.kept) :
    State.kept (s.perform q cid opc act) = s.kept := by
  unfold State.perform
  repeat' split
  all_goals first | rfl | exact State.finish_kept _ _ _ _ | exact h _ _
theorem State.readBlock_kept : ∀ s a1 a2 a3, State.kept (State.readBlock s a1 a2 a3).2 = State.kept s := by
  intro s a1 a2 a3; unfold State.readBlock; (repeat' (first | (with_reducible rfl) | split | simp only [↓State.engRead_kept]))
theorem State.readBlocks_kept : ∀ s a1 a2 a3 a4, State.kept (State.readBlocks s a1 a2 a3 a4).2 = State.kept s := by
  intro s a1 a2 a3 a4; induction a4 generalizing s a1 a2 a3 with
    | zero => (unfold State.readBlocks; ((repeat' (first | (with_reducible rfl) | split | simp only [↓kept_mk, ↓kept_evt, ↓kept_ite, ↓snd_ite, ite_self, ↓kept_foldl, ↓kept_when, andThen_cons, andThen_nil, implies_true, kept_mk, kept_evt, ↓State.readBlock_kept]))); (all_goals (repeat (rename_i h; first | (have h' := congrArg (fun p => State.kept (Prod.snd p)) h; simp only [↓kept_mk, ↓kept_evt, ↓kept_ite, ↓snd_ite, ite_self, ↓kept_foldl, ↓kept_when, andThen_cons, andThen_nil, implies_true, kept_mk, kept_evt, ↓State.readBlock_kept] at h'; clear h; revert h') | clear h | revert h))); all_goals (intros; first | (with_reducible rfl) | (simp only [↓kept_mk, ↓kept_evt, ↓kept_ite, ↓snd_ite, ite_self, ↓kept_foldl, ↓kept_when, andThen_cons, andThen_nil, implies_true, kept_mk, kept_evt, ↓State.readBlock_kept]; done) | (simp only [↓kept_mk, ↓kept_evt, ↓kept_ite, ↓snd_ite, ite_self, ↓kept_foldl, ↓kept_when, andThen_cons, andThen_nil, implies_true, kept_mk, kept_evt, ↓State.readBlock_kept]; simp only [*]; done) | simp only [*]))
    | succ t0 ih0 => (unfold State.readBlocks; ((repeat' (first | (with_reducible rfl) | split | simp only))); ((all_goals (repeat (rename_i h; first | (have h' := congrArg (fun p => State.kept (Prod.snd p)) h; simp only [↓State.readBlock_kept, ih0] at h'; clear h; revert h') | clear h | revert h))); all_goals (intros; first | (with_reducible rfl) | (simp only [↓kept_mk, ↓kept_evt, ↓kept_ite, ↓snd_ite, ite_self, ↓kept_foldl, ↓kept_when, andThen_cons, andThen_nil, implies_true, kept_mk, kept_evt, ↓State.readBlock_kept]; done) | (simp only [↓kept_mk, ↓kept_evt, ↓kept_ite, ↓snd_ite, ite_self, ↓kept_foldl, ↓kept_when, andThen_cons, andThen_nil, implies_true, kept_mk, kept_evt, ↓State.readBlock_kept]; simp only [*]; done) | simp only [*])))
theorem doRead_kept : ∀ a0 s, State.kept (doRead a0 s) = State.kept s := by
  intro a0 s; unfold doRead; ((repeat' (first | (with_reducible rfl) | split | simp only [↓kept_ite, ↓State.finish_kept, ↓State.cmdError_kept, ↓State.answerHost_kept]))); (all_goals (repeat (rename_i h; first | (have h' := congrArg (fun p => State.kept (Prod.snd p)) h; simp only [↓State.readBlocks_kept] at h'; clear h; revert h') | clear h | revert h))); all_goals (intros; first | (with_reducible rfl) | (simp only [↓kept_mk, ↓kept_evt, ↓kept_ite, ↓snd_ite, ite_self, ↓kept_foldl, ↓kept_when, andThen_cons, andThen_nil, implies_true, kept_mk, kept_evt, ↓State.finish_kept, ↓State.readBlocks_kept, ↓State.cmdError_kept, ↓State.answerHost_kept]; done) | (simp only [↓kept_mk, ↓kept_evt, ↓kept_ite, ↓snd_ite, ite_self, ↓kept_foldl, ↓kept_when, andThen_cons, andThen_nil, implies_true, kept_mk, kept_evt, ↓State.finish_kept, ↓State.readBlocks_kept, ↓State.cmdError_kept, ↓State.answerHost_kept]; simp only [*]; done) | simp only [*])
theorem State.spoilBlock_kept : ∀ s a1, State.kept (State.spoilBlock s a1) = State.kept s := by
  intro s a1; unfold State.spoilBlock; ((repeat' (first | (with_reducible rfl) | split | simp only [↓State.markBad_kept]))); (all_goals (repeat (rename_i h; first | (have h' := congrArg (fun p => State.kept (Prod.snd p)) h; simp only [↓State.translate_kept] at h'; clear h; revert h') | clear h | revert h))); all_goals (intros; first | (with_reducible rfl) | (simp only [↓kept_mk, ↓kept_evt, ↓kept_ite, ↓snd_ite, ite_self, ↓kept_foldl, ↓kept_when, andThen_cons, andThen_nil, implies_true, kept_mk, kept_evt, ↓State.translate_kept, ↓State.markBad_kept]; done) | (simp only [↓kept_mk, ↓kept_evt, ↓kept_ite, ↓snd_ite, ite_self, ↓kept_foldl, ↓kept_when, andThen_cons, andThen_nil, implies_true, kept_mk, kept_evt, ↓State.translate_kept, ↓State.markBad_kept]; simp only [*]; done) | simp only [*])
theorem State.writeBlocks_kept : ∀ s a1 a2 a3 a4, State.kept (State.writeBlocks s a1 a2 a3 a4).2 = State.kept s := by
  intro s a1 a2 a3 a4; induction a4 generalizing s a1 a2 a3 with
    | nil => (unfold State.writeBlocks; ((repeat' (first | (with_reducible rfl) | split | simp only [↓kept_mk, ↓kept_evt, ↓kept_ite, ↓snd_ite, ite_self, ↓kept_foldl, ↓kept_when, andThen_cons, andThen_nil, implies_true, kept_mk, kept_evt, ↓State.engWrite_kept, ↓State.spoilBlock_kept]))); (all_goals (repeat (rename_i h; first | (have h' := congrArg (fun p => State.kept (Prod.snd p)) h; simp only [↓kept_mk, ↓kept_evt, ↓kept_ite, ↓snd_ite, ite_self, ↓kept_foldl, ↓kept_when, andThen_cons, andThen_nil, implies_true, kept_mk, kept_evt, ↓State.engWrite_kept, ↓State.spoilBlock_kept] at h'; clear h; revert h') | clear h | revert h))); all_goals (intros; first | (with_reducible rfl) | (simp only [↓kept_mk, ↓kept_evt, ↓kept_ite, ↓snd_ite, ite_self, ↓kept_foldl, ↓kept_when, andThen_cons, andThen_nil, implies_true, kept_mk, kept_evt, ↓State.engWrite_kept, ↓State.spoilBlock_kept]; done) | (simp only [↓kept_mk, ↓kept_evt, ↓kept_ite, ↓snd_ite, ite_self, ↓kept_foldl, ↓kept_when, andThen_cons, andThen_nil, implies_true, kept_mk, kept_evt, ↓State.engWrite_kept, ↓State.spoilBlock_kept]; simp only [*]; done) | simp only [*]))
    | cons h0 t0 ih0 => (unfold State.writeBlocks; ((repeat' (first | (with_reducible rfl) | split | simp only [↓State.spoilBlock_kept]))); ((all_goals (repeat (rename_i h; first | (have h' := congrArg (fun p => State.kept (Prod.snd p)) h; simp only [↓State.engWrite_kept] at h'; clear h; revert h') | clear h | revert h))); all_goals (intros; first | (with_reducible rfl) | (simp only [↓kept_mk, ↓kept_evt, ↓kept_ite, ↓snd_ite, ite_self, ↓kept_foldl, ↓kept_when, andThen_cons, andThen_nil, implies_true, kept_mk, kept_evt, ↓State.engWrite_kept, ↓State.spoilBlock_kept]; done) | (simp only [↓kept_mk, ↓kept_evt, ↓kept_ite, ↓snd_ite, ite_self, ↓kept_foldl, ↓kept_when, andThen_cons, andThen_nil, implies_true, kept_mk, kept_evt, ↓State.engWrite_kept, ↓State.spoilBlock_kept]; simp only [*]; done) | simp only [*])))
theorem State.stageBlocks_kept : ∀ s a1 a2, State.kept (State.stageBlocks s a1 a2).2 = State.kept s := by
  intro s a1 a2; unfold State.stageBlocks; ((repeat' (first | (with_reducible rfl) | split | simp only [↓kept_ite, ↓snd_ite]))); (all_goals (repeat (rename_i h; first | (have h' := congrArg (fun p => State.kept (Prod.snd p)) h; simp only [↓State.hostRead_kept] at h'; clear h; revert h') | clear h | revert h))); all_goals (intros; first | (with_reducible rfl) | (simp only [↓kept_mk, ↓kept_evt, ↓kept_ite, ↓snd_ite, ite_self, ↓kept_foldl, ↓kept_when, andThen_cons, andThen_nil, implies_true, kept_mk, kept_evt, ↓State.hostRead_kept]; done) | (simp only [↓kept_mk, ↓kept_evt, ↓kept_ite, ↓snd_ite, ite_self, ↓kept_foldl, ↓kept_when, andThen_cons, andThen_nil, implies_true, kept_mk, kept_evt, ↓State.hostRead_kept]; simp only [*]; done) | simp only [*])
theorem doWrite_kept : ∀ a0 a1 a2 a3 s, State.kept (doWrite a0 a1 a2 a3 s) = State.kept s := by
  intro a0 a1 a2 a3 s; unfold doWrite; ((repeat' (first | (with_reducible rfl) | split | simp only [↓kept_ite, ↓State.finish_kept, ↓State.cmdError_kept, ↓State.setCmd_kept, ↓State.setTake_kept]))); (all_goals (repeat (rename_i h; first | (have h' := congrArg (fun p => State.kept (Prod.snd p)) h; simp only [↓State.stageBlocks_kept, ↓State.setTake_kept, ↓State.writeBlocks_kept, ↓State.touchIndex_kept] at h'; clear h; revert h') | clear h | revert h))); all_goals (intros; first | (with_reducible rfl) | (simp only [↓kept_mk, ↓kept_evt, ↓kept_ite, ↓snd_ite, ite_self, ↓kept_foldl, ↓kept_when, andThen_cons, andThen_nil, implies_true, kept_mk, kept_evt, ↓State.finish_kept, ↓State.stageBlocks_kept, ↓State.cmdError_kept, ↓State.setCmd_kept, ↓State.setTake_kept, ↓State.writeBlocks_kept, ↓State.touchIndex_kept]; done) | (simp only [↓kept_mk, ↓kept_evt, ↓kept_ite, ↓snd_ite, ite_self, ↓kept_foldl, ↓kept_when, andThen_cons, andThen_nil, implies_true, kept_mk, kept_evt, ↓State.finish_kept, ↓State.stageBlocks_kept, ↓State.cmdError_kept, ↓State.setCmd_kept, ↓State.setTake_kept, ↓State.writeBlocks_kept, ↓State.touchIndex_kept]; simp only [*]; done) | simp only [*])
theorem State.withIndex_kept (s : State) (c : CcpCmd) (act : State → State) (h : ∀ s, State.kept (act s) = s.kept) :
    State.kept (s.withIndex c act) = s.kept := by
  unfold State.withIndex
  have ht := State.touchIndex_kept s
  split
  · rename_i e; rw [e] at ht; rw [State.cmdError_kept]; exact ht
  · rename_i e; rw [e] at ht; rw [h]; exact ht
theorem doCreate_kept : ∀ a0 s, State.kept (doCreate a0 s) = State.kept s := by
  intro a0 s; unfold doCreate; simp only [↓kept_ite, ite_self, implies_true, ↓State.finish_kept, ↓State.withIndex_kept, ↓State.setTake_kept]
theorem doClose_kept : ∀ a0 s, State.kept (doClose a0 s) = State.kept s := by
  intro a0 s; unfold doClose; simp only [↓kept_ite, ite_self, implies_true, ↓State.finish_kept, ↓State.withIndex_kept, ↓State.setTake_kept]
theorem doDelete_kept : ∀ a0 s, State.kept (doDelete a0 s) = State.kept s := by
  intro a0 s; unfold doDelete; simp only [↓kept_mk, ↓kept_ite, ite_self, implies_true, kept_mk, ↓State.finish_kept, ↓State.withIndex_kept, ↓State.setTake_kept]
theorem doInfo_kept : ∀ a0 s, State.kept (doInfo a0 s) = State.kept s := by
  intro a0 s; unfold doInfo; simp only [↓kept_ite, ite_self, ↓State.finish_kept, ↓State.answerHost_kept]
theorem doAbort_kept : ∀ a0 s, State.kept (doAbort a0 s) = State.kept s := by
  intro a0 s; unfold doAbort; (repeat' (first | (with_reducible rfl) | split | simp only [↓State.withdrawFault_kept, ↓State.finish_kept]))
theorem doFrames_kept : ∀ a0 s, State.kept (doFrames a0 s) = State.kept s := by
  intro a0 s; unfold doFrames; simp only [↓kept_ite, ite_self, ↓State.finish_kept, ↓State.answerHost_kept]
theorem doMap_kept : ∀ a0 s, State.kept (doMap a0 s) = State.kept s := by
  intro a0 s; unfold doMap; simp only [↓kept_ite, ite_self, ↓State.finish_kept, ↓State.answerHost_kept]
theorem doIdentify_kept : ∀ a0 s, State.kept (doIdentify a0 s) = State.kept s := by
  intro a0 s; unfold doIdentify; simp only [↓State.answerHost_kept]
theorem doLog_kept : ∀ a0 s, State.kept (doLog a0 s) = State.kept s := by
  intro a0 s; unfold doLog; (repeat' (first | (with_reducible rfl) | split | simp only [↓State.finish_kept, ↓State.answerHost_kept]))
theorem doGetFeature_kept : ∀ a0 s, State.kept (doGetFeature a0 s) = State.kept s := by
  intro a0 s; unfold doGetFeature; (repeat' (first | (with_reducible rfl) | split | simp only [↓State.finish_kept]))
theorem doSetFeature_kept : ∀ a0 s, State.kept (doSetFeature a0 s) = State.kept s := by
  intro a0 s; unfold doSetFeature; (repeat' (first | (with_reducible rfl) | split | simp only [↓kept_ite, ite_self, ↓State.finish_kept, ↓State.setCcpQ_kept, ↓State.put_kept]))
theorem State.physGet_kept : ∀ s a1 a2, State.kept (State.physGet s a1 a2).2 = State.kept s := by
  intro s a1 a2; induction a2 generalizing s a1 with
    | nil => (unfold State.physGet; ((repeat' (first | (with_reducible rfl) | split | simp only [↓kept_mk, ↓kept_evt, ↓kept_ite, ↓snd_ite, ite_self, ↓kept_foldl, ↓kept_when, andThen_cons, andThen_nil, implies_true, kept_mk, kept_evt, ↓State.physRead_kept]))); (all_goals (repeat (rename_i h; first | (have h' := congrArg (fun p => State.kept (Prod.snd p)) h; simp only [↓kept_mk, ↓kept_evt, ↓kept_ite, ↓snd_ite, ite_self, ↓kept_foldl, ↓kept_when, andThen_cons, andThen_nil, implies_true, kept_mk, kept_evt, ↓State.physRead_kept] at h'; clear h; revert h') | clear h | revert h))); all_goals (intros; first | (with_reducible rfl) | (simp only [↓kept_mk, ↓kept_evt, ↓kept_ite, ↓snd_ite, ite_self, ↓kept_foldl, ↓kept_when, andThen_cons, andThen_nil, implies_true, kept_mk, kept_evt, ↓State.physRead_kept]; done) | (simp only [↓kept_mk, ↓kept_evt, ↓kept_ite, ↓snd_ite, ite_self, ↓kept_foldl, ↓kept_when, andThen_cons, andThen_nil, implies_true, kept_mk, kept_evt, ↓State.physRead_kept]; simp only [*]; done) | simp only [*]))
    | cons h0 t0 ih0 => (unfold State.physGet; ((repeat' (first | (with_reducible rfl) | split | simp only))); ((all_goals (repeat (rename_i h; first | (have h' := congrArg (fun p => State.kept (Prod.snd p)) h; simp only [↓State.physRead_kept, ih0] at h'; clear h; revert h') | clear h | revert h))); all_goals (intros; first | (with_reducible rfl) | (simp only [↓kept_mk, ↓kept_evt, ↓kept_ite, ↓snd_ite, ite_self, ↓kept_foldl, ↓kept_when, andThen_cons, andThen_nil, implies_true, kept_mk, kept_evt, ↓State.physRead_kept]; done) | (simp only [↓kept_mk, ↓kept_evt, ↓kept_ite, ↓snd_ite, ite_self, ↓kept_foldl, ↓kept_when, andThen_cons, andThen_nil, implies_true, kept_mk, kept_evt, ↓State.physRead_kept]; simp only [*]; done) | simp only [*])))
theorem State.physPut_kept : ∀ s a1 a2 a3, State.kept (State.physPut s a1 a2 a3).2 = State.kept s := by
  intro s a1 a2 a3; induction a2 generalizing s a1 a3 with
    | nil => (unfold State.physPut; ((repeat' (first | (with_reducible rfl) | split | simp only [↓kept_mk, ↓kept_evt, ↓kept_ite, ↓snd_ite, ite_self, ↓kept_foldl, ↓kept_when, andThen_cons, andThen_nil, implies_true, kept_mk, kept_evt, ↓State.physWrite_kept]))); (all_goals (repeat (rename_i h; first | (have h' := congrArg (fun p => State.kept (Prod.snd p)) h; simp only [↓kept_mk, ↓kept_evt, ↓kept_ite, ↓snd_ite, ite_self, ↓kept_foldl, ↓kept_when, andThen_cons, andThen_nil, implies_true, kept_mk, kept_evt, ↓State.physWrite_kept] at h'; clear h; revert h') | clear h | revert h))); all_goals (intros; first | (with_reducible rfl) | (simp only [↓kept_mk, ↓kept_evt, ↓kept_ite, ↓snd_ite, ite_self, ↓kept_foldl, ↓kept_when, andThen_cons, andThen_nil, implies_true, kept_mk, kept_evt, ↓State.physWrite_kept]; done) | (simp only [↓kept_mk, ↓kept_evt, ↓kept_ite, ↓snd_ite, ite_self, ↓kept_foldl, ↓kept_when, andThen_cons, andThen_nil, implies_true, kept_mk, kept_evt, ↓State.physWrite_kept]; simp only [*]; done) | simp only [*]))
    | cons h0 t0 ih0 => (unfold State.physPut; ((repeat' (first | (with_reducible rfl) | split | simp only))); ((all_goals (repeat (rename_i h; first | (have h' := congrArg (fun p => State.kept (Prod.snd p)) h; simp only [↓State.physWrite_kept] at h'; clear h; revert h') | clear h | revert h))); all_goals (intros; first | (with_reducible rfl) | (simp only [↓kept_mk, ↓kept_evt, ↓kept_ite, ↓snd_ite, ite_self, ↓kept_foldl, ↓kept_when, andThen_cons, andThen_nil, implies_true, kept_mk, kept_evt, ↓State.physWrite_kept]; done) | (simp only [↓kept_mk, ↓kept_evt, ↓kept_ite, ↓snd_ite, ite_self, ↓kept_foldl, ↓kept_when, andThen_cons, andThen_nil, implies_true, kept_mk, kept_evt, ↓State.physWrite_kept]; simp only [*]; done) | simp only [*])))
theorem doDownload_kept : ∀ a0 a1 s, State.kept (doDownload a0 a1 s) = State.kept s := by
  intro a0 a1 s; unfold doDownload; ((repeat' (first | (with_reducible rfl) | split | simp only [↓State.cmdError_kept, ↓State.finish_kept]))); (all_goals (repeat (rename_i h; first | (have h' := congrArg (fun p => State.kept (Prod.snd p)) h; simp only [↓State.hostRead_kept, ↓State.physPut_kept] at h'; clear h; revert h') | clear h | revert h))); all_goals (intros; first | (with_reducible rfl) | (simp only [↓kept_mk, ↓kept_evt, ↓kept_ite, ↓snd_ite, ite_self, ↓kept_foldl, ↓kept_when, andThen_cons, andThen_nil, implies_true, kept_mk, kept_evt, ↓State.hostRead_kept, ↓State.cmdError_kept, ↓State.physPut_kept, ↓State.finish_kept]; done) | (simp only [↓kept_mk, ↓kept_evt, ↓kept_ite, ↓snd_ite, ite_self, ↓kept_foldl, ↓kept_when, andThen_cons, andThen_nil, implies_true, kept_mk, kept_evt, ↓State.hostRead_kept, ↓State.cmdError_kept, ↓State.physPut_kept, ↓State.finish_kept]; simp only [*]; done) | simp only [*])
theorem State.stagedImage_kept : ∀ s, State.kept (State.stagedImage s).2 = State.kept s := by
  intro s; unfold State.stagedImage; ((repeat' (first | (with_reducible rfl) | split | simp only))); (all_goals (repeat (rename_i h; first | (have h' := congrArg (fun p => State.kept (Prod.snd p)) h; simp only [↓State.physGet_kept] at h'; clear h; revert h') | clear h | revert h))); all_goals (intros; first | (with_reducible rfl) | (simp only [↓kept_mk, ↓kept_evt, ↓kept_ite, ↓snd_ite, ite_self, ↓kept_foldl, ↓kept_when, andThen_cons, andThen_nil, implies_true, kept_mk, kept_evt, ↓State.physGet_kept]; done) | (simp only [↓kept_mk, ↓kept_evt, ↓kept_ite, ↓snd_ite, ite_self, ↓kept_foldl, ↓kept_when, andThen_cons, andThen_nil, implies_true, kept_mk, kept_evt, ↓State.physGet_kept]; simp only [*]; done) | simp only [*])
theorem State.performCommit_kept (s : State) (q cid a : Nat) (act : CcpCmd → State → State) (h : ∀ c s, State.kept (act c s) = s.kept) :
    State.kept (s.performCommit q cid a act) = s.kept := by
  unfold State.performCommit
  refine State.perform_kept _ _ _ _ _ (fun c t => ?_)
  split
  · exact h _ _
  · rfl
theorem doCreateQp_kept : ∀ a0 a1 s, State.kept (doCreateQp a0 a1 s) = State.kept s := by
  intro a0 a1 s; unfold doCreateQp; ((repeat' (first | (with_reducible rfl) | split | simp only [↓State.finish_kept, ↓State.cmdError_kept]))); (all_goals (repeat (rename_i h; first | (have h' := congrArg (fun p => State.kept (Prod.snd p)) h; simp only [↓State.hostRead_kept, ↓State.openQp_kept] at h'; clear h; revert h') | clear h | revert h))); all_goals (intros; first | (with_reducible rfl) | (simp only [↓kept_mk, ↓kept_evt, ↓kept_ite, ↓snd_ite, ite_self, ↓kept_foldl, ↓kept_when, andThen_cons, andThen_nil, implies_true, kept_mk, kept_evt, ↓State.finish_kept, ↓State.hostRead_kept, ↓State.cmdError_kept, ↓State.openQp_kept]; done) | (simp only [↓kept_mk, ↓kept_evt, ↓kept_ite, ↓snd_ite, ite_self, ↓kept_foldl, ↓kept_when, andThen_cons, andThen_nil, implies_true, kept_mk, kept_evt, ↓State.finish_kept, ↓State.hostRead_kept, ↓State.cmdError_kept, ↓State.openQp_kept]; simp only [*]; done) | simp only [*])
theorem doDeleteQp_kept : ∀ a0 s, State.kept (doDeleteQp a0 s) = State.kept s := by
  intro a0 s; unfold doDeleteQp; simp only [↓kept_ite, ite_self, ↓State.finish_kept, ↓State.qpKill_kept]
theorem State.endStream_kept (s : State) (k : Nat) : State.kept (s.endStream k) = s.kept := by
  unfold State.endStream
  split
  · rfl
  · dsimp only
    refine (kept_foldl _ (fun t st => ?_) _ _).trans ?_
    · split
      · exact State.finish_kept _ _ _ _
      · rfl
    · simp only [↓State.setBit_kept, ↓State.put_kept, ↓State.setStream_kept, ↓kept_ite, ↓State.setStr_kept, ite_self]
theorem doStart_kept : ∀ a0 a1 s, State.kept (doStart a0 a1 s) = State.kept s := by
  intro a0 a1 s; unfold doStart; ((repeat' (first | (with_reducible rfl) | split | simp only [andThen_cons, andThen_nil, ↓State.cmdError_kept, ↓State.finish_kept, ↓State.setStream_kept, ↓State.put_kept, ↓State.setBit_kept, ↓State.setStr_kept]))); (all_goals (repeat (rename_i h; first | (have h' := congrArg (fun p => State.kept (Prod.snd p)) h; simp only [↓State.hostRead_kept] at h'; clear h; revert h') | clear h | revert h))); all_goals (intros; first | (with_reducible rfl) | (simp only [↓kept_mk, ↓kept_evt, ↓kept_ite, ↓snd_ite, ite_self, ↓kept_foldl, ↓kept_when, andThen_cons, andThen_nil, implies_true, kept_mk, kept_evt, ↓State.hostRead_kept, ↓State.cmdError_kept, ↓State.finish_kept, ↓State.setStream_kept, ↓State.put_kept, ↓State.setBit_kept, ↓State.setStr_kept]; done) | (simp only [↓kept_mk, ↓kept_evt, ↓kept_ite, ↓snd_ite, ite_self, ↓kept_foldl, ↓kept_when, andThen_cons, andThen_nil, implies_true, kept_mk, kept_evt, ↓State.hostRead_kept, ↓State.cmdError_kept, ↓State.finish_kept, ↓State.setStream_kept, ↓State.put_kept, ↓State.setBit_kept, ↓State.setStr_kept]; simp only [*]; done) | simp only [*])
theorem doStop_kept : ∀ a0 s, State.kept (doStop a0 s) = State.kept s := by
  intro a0 s; unfold doStop; (repeat' (first | (with_reducible rfl) | split | simp only [↓State.finish_kept, ↓State.setStream_kept, ↓State.put_kept, ↓State.endStream_kept]))
theorem State.jobLost_kept : ∀ s a1 a2, State.kept (State.jobLost s a1 a2) = State.kept s := by
  intro s a1 a2; unfold State.jobLost; simp only [↓State.bump_kept, ↓State.post_kept]
theorem State.streamData_kept : ∀ s a1 a2, State.kept (State.streamData s a1 a2).2 = State.kept s := by
  intro s a1 a2; unfold State.streamData; ((repeat' (first | (with_reducible rfl) | split | simp only [↓State.jobLost_kept, ↓State.bump_kept, ↓State.bumpBy_kept]))); (all_goals (repeat (rename_i h; first | (have h' := congrArg (fun p => State.kept (Prod.snd p)) h; simp only [↓State.engRead_kept] at h'; clear h; revert h') | clear h | revert h))); all_goals (intros; first | (with_reducible rfl) | (simp only [↓kept_mk, ↓kept_evt, ↓kept_ite, ↓snd_ite, ite_self, ↓kept_foldl, ↓kept_when, andThen_cons, andThen_nil, implies_true, kept_mk, kept_evt, ↓State.engRead_kept, ↓State.jobLost_kept, ↓State.bump_kept, ↓State.bumpBy_kept]; done) | (simp only [↓kept_mk, ↓kept_evt, ↓kept_ite, ↓snd_ite, ite_self, ↓kept_foldl, ↓kept_when, andThen_cons, andThen_nil, implies_true, kept_mk, kept_evt, ↓State.engRead_kept, ↓State.jobLost_kept, ↓State.bump_kept, ↓State.bumpBy_kept]; simp only [*]; done) | simp only [*])
theorem State.nextFrame_kept (s : State) (x : StreamRun) (y : FeedItem × State) (h : s.nextFrame x = some y) : y.2.kept = s.kept := by
  unfold State.nextFrame at h
  split at h
  · extract_lets +onlyGivenNames a at h
    split at h
    · cases h
    · cases h; exact State.setStr_kept _ _ _
  · split at h
    · cases h
    · cases h; rfl
theorem State.streamAppend_kept (s : State) (k : Nat) : State.kept (s.streamAppend k) = s.kept := by
  unfold State.streamAppend
  split
  · rfl
  · rename_i x _
    split
    · rfl
    · split
      · rfl
      · rename_i i t e
        have h : t.kept = s.kept := State.nextFrame_kept _ _ _ e
        extract_lets +onlyGivenNames staged
        have hs : ∀ d f n u, State.kept (staged d f n u) = u.kept := by
          intro d f n u
          simp only [staged]
          split
          · rw [State.put_kept, State.setStream_kept]
          · rw [State.setStream_kept]
        clear_value staged
        have hd := State.streamData_kept t x i
        split
        · rename_i e2; rw [e2] at hd; rw [hs]; exact hd.trans h
        · rename_i e2; rw [e2] at hd; rw [hs]; exact hd.trans h
theorem State.writeTake_kept : ∀ s a1 a2 a3 a4, State.kept (State.writeTake s a1 a2 a3 a4).2 = State.kept s := by
  intro s a1 a2 a3 a4; induction a2 generalizing s a1 a3 a4 with
    | zero => (unfold State.writeTake; ((repeat' (first | (with_reducible rfl) | split | simp only [↓kept_mk, ↓kept_evt, ↓kept_ite, ↓snd_ite, ite_self, ↓kept_foldl, ↓kept_when, andThen_cons, andThen_nil, implies_true, kept_mk, kept_evt, ↓State.engWrite_kept]))); (all_goals (repeat (rename_i h; first | (have h' := congrArg (fun p => State.kept (Prod.snd p)) h; simp only [↓kept_mk, ↓kept_evt, ↓kept_ite, ↓snd_ite, ite_self, ↓kept_foldl, ↓kept_when, andThen_cons, andThen_nil, implies_true, kept_mk, kept_evt, ↓State.engWrite_kept] at h'; clear h; revert h') | clear h | revert h))); all_goals (intros; first | (with_reducible rfl) | (simp only [↓kept_mk, ↓kept_evt, ↓kept_ite, ↓snd_ite, ite_self, ↓kept_foldl, ↓kept_when, andThen_cons, andThen_nil, implies_true, kept_mk, kept_evt, ↓State.engWrite_kept]; done) | (simp only [↓kept_mk, ↓kept_evt, ↓kept_ite, ↓snd_ite, ite_self, ↓kept_foldl, ↓kept_when, andThen_cons, andThen_nil, implies_true, kept_mk, kept_evt, ↓State.engWrite_kept]; simp only [*]; done) | simp only [*]))
    | succ t0 ih0 => (unfold State.writeTake; ((repeat' (first | (with_reducible rfl) | split | simp only))); ((all_goals (repeat (rename_i h; first | (have h' := congrArg (fun p => State.kept (Prod.snd p)) h; simp only [↓State.engWrite_kept] at h'; clear h; revert h') | clear h | revert h))); all_goals (intros; first | (with_reducible rfl) | (simp only [↓kept_mk, ↓kept_evt, ↓kept_ite, ↓snd_ite, ite_self, ↓kept_foldl, ↓kept_when, andThen_cons, andThen_nil, implies_true, kept_mk, kept_evt, ↓State.engWrite_kept]; done) | (simp only [↓kept_mk, ↓kept_evt, ↓kept_ite, ↓snd_ite, ite_self, ↓kept_foldl, ↓kept_when, andThen_cons, andThen_nil, implies_true, kept_mk, kept_evt, ↓State.engWrite_kept]; simp only [*]; done) | simp only [*])))
theorem State.putEntry_kept : ∀ s a1 a2 a3 a4 a5 a6, State.kept (State.putEntry s a1 a2 a3 a4 a5 a6) = State.kept s := by
  intro s a1 a2 a3 a4 a5 a6; unfold State.putEntry; simp only [↓kept_ite, ite_self, ↓kept_when, ↓State.setTake_kept, ↓State.incr_kept, ↓State.bump_kept, ↓State.setStream_kept, ↓State.endStream_kept]
theorem State.streamEntry_kept : ∀ s a1, State.kept (State.streamEntry s a1) = State.kept s := by
  intro s a1; unfold State.streamEntry; ((repeat' (first | (with_reducible rfl) | split | simp only [↓State.bump_kept, ↓State.putEntry_kept]))); (all_goals (repeat (rename_i h; first | (have h' := congrArg (fun p => State.kept (Prod.snd p)) h; simp only [↓State.writeTake_kept, ↓State.touchIndex_kept] at h'; clear h; revert h') | clear h | revert h))); all_goals (intros; first | (with_reducible rfl) | (simp only [↓kept_mk, ↓kept_evt, ↓kept_ite, ↓snd_ite, ite_self, ↓kept_foldl, ↓kept_when, andThen_cons, andThen_nil, implies_true, kept_mk, kept_evt, ↓State.bump_kept, ↓State.putEntry_kept, ↓State.writeTake_kept, ↓State.touchIndex_kept]; done) | (simp only [↓kept_mk, ↓kept_evt, ↓kept_ite, ↓snd_ite, ite_self, ↓kept_foldl, ↓kept_when, andThen_cons, andThen_nil, implies_true, kept_mk, kept_evt, ↓State.bump_kept, ↓State.putEntry_kept, ↓State.writeTake_kept, ↓State.touchIndex_kept]; simp only [*]; done) | simp only [*])
theorem State.endStreams_kept : ∀ s, State.kept (State.endStreams s) = State.kept s := by
  intro s; unfold State.endStreams; simp only [↓kept_foldl, implies_true, ↓State.endStream_kept]
theorem State.ccpDown_kept : ∀ s, State.kept (State.ccpDown s) = State.kept s := by
  intro s; unfold State.ccpDown; simp only [↓kept_mk, ↓kept_ite, ite_self, ↓kept_foldl, implies_true, kept_mk, ↓State.qpError_kept, ↓State.endStreams_kept, ↓State.endCommands_kept, ↓State.put_kept]
theorem wrCcpCtl_kept : ∀ a0 a1 s, State.kept (wrCcpCtl a0 a1 s) = State.kept s := by
  intro a0 a1 s; unfold wrCcpCtl; simp only [↓kept_mk, ↓kept_ite, ite_self, kept_mk, ↓State.plainWrite_kept, ↓State.put_kept, ↓State.ccpDown_kept]
theorem State.ccpReady_kept : ∀ s, State.kept (State.ccpReady s) = State.kept s := by
  intro s; unfold State.ccpReady; (repeat' (first | (with_reducible rfl) | split | simp only [↓kept_mk, ↓kept_ite, ite_self, kept_mk, ↓State.post_kept, ↓State.put_kept, ↓State.ccpShow_kept]))
theorem wrCcpClosed_kept : ∀ a0 a1 a2 s, State.kept (wrCcpClosed a0 a1 a2 s) = State.kept s := by
  intro a0 a1 a2 s; unfold wrCcpClosed; simp only [↓kept_ite, ite_self, ↓State.postIgnored_kept, ↓State.plainWrite_kept]
theorem State.localDown_kept : ∀ s, State.kept (State.localDown s) = State.kept s := by
  intro s; unfold State.localDown; simp only [↓kept_mk, kept_mk, ↓State.endCommands_kept]
theorem wrCcpLqCtl_kept : ∀ a0 a1 s, State.kept (wrCcpLqCtl a0 a1 s) = State.kept s := by
  intro a0 a1 s; unfold wrCcpLqCtl; (repeat' (first | (with_reducible rfl) | split | simp only [↓kept_ite, ite_self, ↓State.postIgnored_kept, ↓State.put_kept, ↓State.setCcpQ_kept, ↓State.localDown_kept, ↓State.plainWrite_kept, ↓State.wreg_kept]))
theorem wrCcpLqRing_kept : ∀ a0 a1 a2 s, State.kept (wrCcpLqRing a0 a1 a2 s) = State.kept s := by
  intro a0 a1 a2 s; unfold wrCcpLqRing; simp only [↓State.closedWrite_kept]
theorem wrCcpLqIdx_kept : ∀ a0 a1 a2 s, State.kept (wrCcpLqIdx a0 a1 a2 s) = State.kept s := by
  intro a0 a1 a2 s; unfold wrCcpLqIdx; (repeat' (first | (with_reducible rfl) | split | simp only [↓State.plainWrite_kept, ↓State.ccpRing_kept]))

end Sys2Proof.Machine
end

