-- ==== Sys2Proof/Laws/KeptBlocks.lean ====
section
/-! SUPPORT. What hardly any operation changes, for the remaining blocks and the register window. -/

namespace Sys2Proof.Machine

set_option maxRecDepth 4000
set_option linter.unusedVariables false

theorem State.setSdiI_kept : ∀ s a1 a2, State.kept (State.setSdiI s a1 a2) = State.kept s := by
  intro s a1 a2; unfold State.setSdiI; simp only [↓kept_mk, kept_mk]
theorem State.sdiRelight_kept : ∀ s a1, State.kept (State.sdiRelight s a1) = State.kept s := by
  intro s a1; unfold State.sdiRelight; simp only [↓kept_foldl, andThen_cons, andThen_nil, implies_true, ↓State.put_kept, ↓State.post_kept, ↓State.laneEnter_kept]
theorem State.sdiEnable_kept : ∀ s a1, State.kept (State.sdiEnable s a1) = State.kept s := by
  intro s a1; unfold State.sdiEnable; (repeat' (first | (with_reducible rfl) | split | simp only [↓kept_ite, ite_self, ↓kept_foldl, implies_true, ↓State.put_kept]))
theorem wrSdiOutCfg_kept : ∀ a0 a1 a2 s, State.kept (wrSdiOutCfg a0 a1 a2 s) = State.kept s := by
  intro a0 a1 a2 s; unfold wrSdiOutCfg; simp only [↓kept_ite, ite_self, ↓State.postIgnored_kept, ↓State.put_kept, ↓State.setSdiO_kept, ↓State.sdiRelight_kept, ↓State.plainWrite_kept, ↓State.sdiEnable_kept]
theorem wrSdiOutFmt_kept : ∀ a0 a1 a2 s, State.kept (wrSdiOutFmt a0 a1 a2 s) = State.kept s := by
  intro a0 a1 a2 s; unfold wrSdiOutFmt; simp only [↓kept_ite, ite_self, ↓State.postIgnored_kept, ↓State.plainWrite_kept]
theorem State.sdiStops_kept : ∀ s a1, State.kept (State.sdiStops s a1) = State.kept s := by
  intro s a1; unfold State.sdiStops; simp only [↓State.setSdiO_kept, ↓State.emit_kept, ↓State.sdiRelight_kept]
theorem State.sdiOutputLost_kept : ∀ s a1, State.kept (State.sdiOutputLost s a1) = State.kept s := by
  intro s a1; unfold State.sdiOutputLost; simp only [↓kept_ite, ite_self, ↓State.sdiStops_kept]
theorem State.sdiInstant_kept : ∀ s a1, State.kept (State.sdiInstant s a1) = State.kept s := by
  intro s a1; unfold State.sdiInstant; simp only [↓kept_ite, ite_self, ↓State.setSdiO_kept, ↓State.sdiStops_kept]
theorem State.tgInstant_kept : ∀ s a1 a2, State.kept (State.tgInstant s a1 a2) = State.kept s := by
  intro s a1 a2; unfold State.tgInstant; simp only [↓kept_mk, ↓kept_ite, ite_self, ↓kept_foldl, implies_true, kept_mk, ↓State.put_kept, ↓State.putB_kept, ↓State.sdiInstant_kept]
theorem State.sendTimecode_kept : ∀ s a1, State.kept (State.sendTimecode s a1) = State.kept s := by
  intro s a1; unfold State.sendTimecode; (repeat' (first | (with_reducible rfl) | split | simp only [↓kept_ite, ite_self, ↓State.emit_kept]))
theorem State.outLines_kept (s : State) (n : Nat) (k : Option OpkSlot) (late l : List Nat) : State.kept (s.outLines n k late l).2.2 = s.kept := by
  induction l generalizing s with
  | nil => rfl
  | cons y r ih =>
    unfold State.outLines
    split
    · exact ih _
    · rename_i q
      have hq : (if late.contains y then ((.error .parity : Except AccErr (List Byte)), s)
          else s.engRead (sdiReq n) (q.addr + y * q.pitch) q.pitch).2.kept = s.kept := by
        split
        · rfl
        · exact State.engRead_kept _ _ _ _
      revert hq
      generalize (if late.contains y then ((.error .parity : Except AccErr (List Byte)), s)
          else s.engRead (sdiReq n) (q.addr + y * q.pitch) q.pitch) = g
      intro hq
      obtain ⟨a, b⟩ := g
      dsimp only at hq ⊢
      split
      · dsimp only; rw [ih, hq]
      · dsimp only; rw [ih, hq]
theorem State.sendRows_kept : ∀ s a1 a2 a3, State.kept (State.sendRows s a1 a2 a3) = State.kept s := by
  intro s a1 a2 a3; unfold State.sendRows; simp only [↓kept_foldl, implies_true, ↓State.emit_kept]
theorem State.sendPids_kept : ∀ s a1 a2, State.kept (State.sendPids s a1 a2) = State.kept s := by
  intro s a1 a2; unfold State.sendPids; simp only [↓kept_foldl, implies_true, ↓State.emit_kept]
theorem State.embedFrame_kept : ∀ s a1 a2, State.kept (State.embedFrame s a1 a2) = State.kept s := by
  intro s a1 a2; unfold State.embedFrame; simp only [↓kept_ite, ite_self, ↓kept_foldl, ↓kept_when, implies_true, ↓State.setSdiO_kept, ↓State.bump_kept, ↓State.emit_kept]
theorem State.sdiTake_kept : ∀ s a1 a2, State.kept (State.sdiTake s a1 a2) = State.kept s := by
  intro s a1 a2; unfold State.sdiTake; (repeat' (first | (with_reducible rfl) | split | simp only [↓kept_ite, ite_self, ↓State.bumpBy_kept, ↓State.bump_kept, ↓State.setSdiO_kept, ↓State.sendPids_kept, ↓State.sendTimecode_kept, ↓State.outLines_kept, ↓State.sendRows_kept, ↓State.embedFrame_kept, ↓State.post_kept]))
theorem State.sdiDetect_kept : ∀ s a1 a2, State.kept (State.sdiDetect s a1 a2) = State.kept s := by
  intro s a1 a2; unfold State.sdiDetect; simp only [↓kept_ite, ite_self, ↓kept_foldl, andThen_cons, andThen_nil, implies_true, ↓State.setSdiI_kept, ↓State.put_kept, ↓State.putB_kept]
theorem State.sdiDeliver_kept : ∀ s a1 a2 a3 a4, State.kept (State.sdiDeliver s a1 a2 a3 a4) = State.kept s := by
  intro s a1 a2 a3 a4; unfold State.sdiDeliver; simp only [↓kept_ite, ite_self, ↓kept_foldl, implies_true, ↓State.frameStart_kept, ↓State.setSdiI_kept, ↓State.lineArrives_kept, ↓State.frameClose_kept]
theorem State.sdiInputLost_kept : ∀ s a1, State.kept (State.sdiInputLost s a1) = State.kept s := by
  intro s a1; unfold State.sdiInputLost; simp only [↓State.setSdiI_kept, ↓State.put_kept]
theorem State.sdiReceive_kept : ∀ s a1 a2, State.kept (State.sdiReceive s a1 a2) = State.kept s := by
  intro s a1 a2; unfold State.sdiReceive; simp only [↓kept_ite, ite_self, ↓kept_foldl, implies_true, ↓State.sdiInputLost_kept, ↓State.bumpBy_kept, ↓State.sdiDetect_kept, ↓State.setSdiI_kept, ↓State.bump_kept, ↓State.sdiDeliver_kept]
theorem State.tgJam_kept : ∀ s a1, State.kept (State.tgJam s a1) = State.kept s := by
  intro s a1; unfold State.tgJam; simp only [↓kept_mk, kept_mk, ↓State.bump_kept]

theorem State.loadEnds_kept : ∀ s a1 a2 a3, State.kept (State.loadEnds s a1 a2 a3) = State.kept s := by
  intro s a1 a2 a3; unfold State.loadEnds; simp only [↓kept_mk, ↓kept_when, andThen_cons, andThen_nil, kept_mk, ↓State.put_kept, ↓State.irq_kept, ↓State.post_kept]
theorem IxPort.write_kept : ∀ a0 a1 s, State.kept (IxPort.write a0 a1 s) = State.kept s := by
  intro a0 a1 s; unfold IxPort.write; simp only [↓kept_ite, ite_self, ↓wrIndexed_kept, ↓State.wix_kept]
theorem IxPort.read_kept : ∀ a0 s, State.kept (IxPort.read a0 s).2 = State.kept s := by
  intro a0 s; unfold IxPort.read; simp only [↓kept_ite, ↓snd_ite, ite_self, ↓rdIndexed_kept]
theorem kept_cur (s : State) (c : Sparse Word) : State.kept { s with cur := c } = s.kept := rfl
theorem State.param_kept (s : State) (k : ParamRec) : State.kept (s.param k) = s.kept := by
  unfold State.param
  dsimp only
  split
  · rfl
  · split
    · rw [kept_cur, IxPort.write_kept]
    · split
      · rfl
      · rw [kept_cur, State.wreg_kept]
theorem State.showMosaic_kept : ∀ s a1 a2 a3 a4, State.kept (State.showMosaic s a1 a2 a3 a4) = State.kept s := by
  intro s a1 a2 a3 a4; unfold State.showMosaic; (repeat' (first | (with_reducible rfl) | split | simp only [andThen_cons, andThen_nil, ↓State.put_kept]))
theorem State.forgetTile_kept : ∀ s a1, State.kept (State.forgetTile s a1) = State.kept s := by
  intro s a1; unfold State.forgetTile; simp only [↓kept_mk, ↓kept_foldl, implies_true, kept_mk, ↓State.setRoot_kept, ↓State.setSta_kept, ↓State.setAna_kept, ↓State.setCmx_kept, ↓State.setOpk_kept]
theorem State.tileGone_kept : ∀ s a1, State.kept (State.tileGone s a1) = State.kept s := by
  intro s a1; unfold State.tileGone; simp only [↓State.forgetTile_kept, ↓State.domainOff_kept, ↓State.stopIdlePll_kept]
theorem State.tileIn_kept : ∀ s a1 a2, State.kept (State.tileIn s a1 a2) = State.kept s := by
  intro s a1 a2; unfold State.tileIn; simp only [andThen_cons, andThen_nil, ↓State.bringUp_kept, ↓State.put_kept]
theorem State.overridePolicy_kept : ∀ s a1, State.kept (State.overridePolicy s a1) = State.kept s := by
  intro s a1; unfold State.overridePolicy; simp only [↓State.put_kept, ↓State.post_kept]
theorem kept_four (s : State) (l : List Nat) (k : Nat) (f : State → Nat → State) (h : ∀ s n, State.kept (f s n) = s.kept) :
    State.kept (l.foldl (fun s i => f s (4 * k + i)) s) = s.kept := kept_foldl _ (fun s _ => h s _) _ _
theorem State.blockLost_kept (s : State) (d : Nat) : State.kept (s.blockLost d) = s.kept := by
  unfold State.blockLost
  extract_lets +onlyGivenNames four
  repeat' split
  · exact kept_four _ _ _ _ (fun s n => State.laneLeave_kept s n)
  · exact State.ethDisable_kept _ _
  · rw [State.localDown_kept, State.ccpDown_kept]
  · exact kept_four _ _ _ _ (fun s n => State.sdiOutputLost_kept s n)
  · exact kept_four _ _ _ _ (fun s n => State.setSdiI_kept s n _)
  · exact kept_four s _ _ (fun s n => (s.setAud n audInit).emit "audTx" n []) (fun s n => by rw [State.emit_kept, State.setAud_kept])
  · exact kept_foldl _ (fun s n => State.setScp_kept s _ _) _ _
  · rw [State.txDown_kept, State.rxDown_kept]
  · rfl
theorem State.policyOff_kept : ∀ s a1, State.kept (State.policyOff s a1) = State.kept s := by
  intro s a1; unfold State.policyOff; simp only [↓kept_mk, ↓kept_ite, ite_self, kept_mk, ↓State.blockLost_kept, ↓State.domainOff_kept, ↓State.stopIdlePll_kept]
theorem State.setPolicy_kept : ∀ s a1 a2, State.kept (State.setPolicy s a1 a2) = State.kept s := by
  intro s a1 a2; unfold State.setPolicy; simp only [↓kept_ite, ite_self, ↓State.put_kept, ↓State.overridePolicy_kept, ↓State.policyOff_kept, ↓State.bringUp_kept]
theorem State.unbond_kept : ∀ s a1, State.kept (State.unbond s a1) = State.kept s := by
  intro s a1; unfold State.unbond; simp only [↓kept_ite, ite_self, ↓kept_foldl, implies_true, ↓State.laneLeave_kept, ↓State.rxDown_kept, ↓State.txDown_kept, ↓State.sdiInputLost_kept, ↓State.sdiOutputLost_kept]
theorem State.bond_kept : ∀ s a1, State.kept (State.bond s a1) = State.kept s := by
  intro s a1; unfold State.bond; simp only [↓kept_foldl, implies_true, ↓State.laneEnter_kept]
theorem State.newSteep_kept : ∀ s a1, State.kept (State.newSteep s a1) = State.kept s := by
  intro s a1; unfold State.newSteep; simp only [↓kept_foldl, andThen_cons, andThen_nil, implies_true, ↓State.steepEnd_kept, ↓State.put_kept, ↓State.steepBegin_kept]
theorem State.newPartition_kept : ∀ s a1, State.kept (State.newPartition s a1) = State.kept s := by
  intro s a1; unfold State.newPartition; simp only [↓kept_foldl, implies_true, ↓State.repartition_kept, ↓State.bringUp_kept, ↓State.serveWaits_kept]
theorem State.applyGlobal_kept : ∀ s a1 a2, State.kept (State.applyGlobal s a1 a2) = State.kept s := by
  intro s a1 a2; unfold State.applyGlobal; simp only [↓kept_foldl, implies_true, ↓State.unbond_kept, ↓State.setPolicy_kept, ↓State.newPartition_kept, ↓State.newSteep_kept]
theorem State.applyBrews_kept : ∀ s a1 a2 a3, State.kept (State.applyBrews s a1 a2 a3) = State.kept s := by
  intro s a1 a2 a3; unfold State.applyBrews; simp only [↓kept_mk, ↓kept_foldl, implies_true, kept_mk, ↓State.tileIn_kept, ↓State.setCmx_kept, ↓State.setBrew_kept, ↓State.param_kept, ↓State.showMosaic_kept]
theorem State.endLostStreams_kept (s : State) (c : FabCfg) : State.kept (s.endLostStreams c) = s.kept := by
  unfold State.endLostStreams
  refine kept_foldl _ (fun t k => ?_) _ _
  repeat' split
  all_goals first | rfl | exact State.endStream_kept _ _
theorem State.install_kept : ∀ s a1 a2 a3, State.kept (State.install s a1 a2 a3) = State.kept s := by
  intro s a1 a2 a3; unfold State.install; simp only [↓kept_mk, ↓kept_ite, ite_self, ↓kept_foldl, implies_true, kept_mk, ↓State.tileGone_kept, ↓State.setBrew_kept, ↓State.applyGlobal_kept, ↓State.overridePolicy_kept, ↓State.bond_kept, ↓State.applyBrews_kept, ↓State.endLostStreams_kept]
theorem State.verifyBrews_kept (s : State) (c : FabCfg) (l : List BrewRec) : State.kept (s.verifyBrews c l).2 = s.kept := by
  induction l generalizing s with
  | nil => rfl
  | cons b r ih =>
    unfold State.verifyBrews
    have h := State.fetchBrew_kept s s.cur c b
    split
    · rename_i e; rw [e] at h; exact h
    · rename_i e; rw [e] at h; dsimp only; rw [ih]; simp only [↓kept_mk]; exact h
theorem State.loadSucceeds_kept : ∀ s a1, State.kept (State.loadSucceeds s a1) = State.kept s := by
  intro s a1; unfold State.loadSucceeds; simp only [↓kept_mk, ↓kept_ite, ite_self, ↓kept_foldl, andThen_cons, andThen_nil, implies_true, kept_mk, ↓State.put_kept, ↓State.setRoot_kept, ↓State.loadEnds_kept]
theorem State.loadLost_kept : ∀ s a1 a2, State.kept (State.loadLost s a1 a2) = State.kept s := by
  intro s a1 a2; unfold State.loadLost; simp only [↓kept_mk, ↓kept_ite, ite_self, andThen_cons, andThen_nil, kept_mk, ↓State.install_kept, ↓State.put_kept, ↓State.loadEnds_kept]
theorem kept_regsCur (s : State) (r c : Sparse Word) : State.kept { s with regs := r, cur := c } = s.kept := rfl
theorem State.unparam_kept (s : State) (l : LoadRun) : State.kept (s.unparam l) = s.kept := by
  unfold State.unparam
  refine kept_foldl _ (fun t k => ?_) _ _
  dsimp only
  split
  · rw [State.wreg_kept, kept_regsCur]
  · exact kept_regsCur _ _ _
theorem State.loadRestore_kept : ∀ s a1 a2, State.kept (State.loadRestore s a1 a2) = State.kept s := by
  intro s a1 a2; unfold State.loadRestore; ((repeat' (first | (with_reducible rfl) | split | simp only [↓State.loadLost_kept, ↓State.loadEnds_kept]))); (all_goals (repeat (rename_i h; first | (have h' := congrArg (fun p => State.kept (Prod.snd p)) h; simp only [↓State.put_kept, ↓State.unparam_kept, ↓State.install_kept, ↓State.newPartition_kept, ↓State.verifyBrews_kept] at h'; clear h; revert h') | clear h | revert h))); all_goals (intros; first | (with_reducible rfl) | (simp only [↓kept_mk, ↓kept_evt, ↓kept_ite, ↓snd_ite, ite_self, ↓kept_foldl, ↓kept_when, andThen_cons, andThen_nil, implies_true, kept_mk, kept_evt, ↓State.loadLost_kept, ↓State.put_kept, ↓State.unparam_kept, ↓State.install_kept, ↓State.newPartition_kept, ↓State.verifyBrews_kept, ↓State.loadEnds_kept]; done) | (simp only [↓kept_mk, ↓kept_evt, ↓kept_ite, ↓snd_ite, ite_self, ↓kept_foldl, ↓kept_when, andThen_cons, andThen_nil, implies_true, kept_mk, kept_evt, ↓State.loadLost_kept, ↓State.put_kept, ↓State.unparam_kept, ↓State.install_kept, ↓State.newPartition_kept, ↓State.verifyBrews_kept, ↓State.loadEnds_kept]; simp only [*]; done) | simp only [*])
theorem State.loadVerify_kept : ∀ s a1, State.kept (State.loadVerify s a1) = State.kept s := by
  intro s a1; unfold State.loadVerify; ((repeat' (first | (with_reducible rfl) | split | simp only [↓State.loadSucceeds_kept, ↓State.loadRestore_kept]))); (all_goals (repeat (rename_i h; first | (have h' := congrArg (fun p => State.kept (Prod.snd p)) h; simp only [↓State.put_kept, ↓State.verifyBrews_kept] at h'; clear h; revert h') | clear h | revert h))); all_goals (intros; first | (with_reducible rfl) | (simp only [↓kept_mk, ↓kept_evt, ↓kept_ite, ↓snd_ite, ite_self, ↓kept_foldl, ↓kept_when, andThen_cons, andThen_nil, implies_true, kept_mk, kept_evt, ↓State.put_kept, ↓State.verifyBrews_kept, ↓State.loadSucceeds_kept, ↓State.loadRestore_kept]; done) | (simp only [↓kept_mk, ↓kept_evt, ↓kept_ite, ↓snd_ite, ite_self, ↓kept_foldl, ↓kept_when, andThen_cons, andThen_nil, implies_true, kept_mk, kept_evt, ↓State.put_kept, ↓State.verifyBrews_kept, ↓State.loadSucceeds_kept, ↓State.loadRestore_kept]; simp only [*]; done) | simp only [*])
theorem State.loadApply_kept : ∀ s a1, State.kept (State.loadApply s a1) = State.kept s := by
  intro s a1; unfold State.loadApply; simp only [↓kept_mk, ↓kept_ite, ite_self, kept_mk, ↓State.put_kept, ↓State.install_kept, ↓State.loadVerify_kept]
theorem State.dropSources_kept : ∀ s a1, State.kept (State.dropSources s a1) = State.kept s := by
  intro s a1; unfold State.dropSources; simp only [↓kept_foldl, implies_true, ↓State.mapFrames_kept, ↓State.dropFrame_kept]
theorem State.quiesceBrew_kept : ∀ s a1, State.kept (State.quiesceBrew s a1) = State.kept s := by
  intro s a1; unfold State.quiesceBrew; (repeat' (first | (with_reducible rfl) | split | simp only [↓State.setBrew_kept, ↓State.dropSources_kept]))
theorem State.invalidateB_kept : ∀ s a1, State.kept (State.invalidateB s a1) = State.kept s := by
  intro s a1; unfold State.invalidateB; simp only [↓kept_foldl, implies_true, ↓State.setCmx_kept]
theorem State.quietBrew_kept : ∀ s a1 a2, State.kept (State.quietBrew s a1 a2).1 = State.kept s := by
  intro s a1 a2; unfold State.quietBrew; simp only [↓kept_mk, kept_mk, ↓State.setBit_kept, ↓State.setBrew_kept]
theorem State.quietAll_kept (s : State) (l : LoadRun) (r : List Nat) : State.kept (s.quietAll l r).1 = s.kept := by
  induction r generalizing s l with
  | nil => rfl
  | cons b r ih =>
    unfold State.quietAll
    split
    · rw [ih, State.quietBrew_kept]
    · exact ih _ _
theorem State.applyIfQuiet_kept : ∀ s a1, State.kept (State.applyIfQuiet s a1) = State.kept s := by
  intro s a1; unfold State.applyIfQuiet; simp only [↓kept_ite, ite_self, ↓State.loadApply_kept]
theorem State.preApplyDone_kept : ∀ s, State.kept (State.preApplyDone s) = State.kept s := by
  intro s; unfold State.preApplyDone; (repeat' (first | (with_reducible rfl) | split | simp only [↓kept_foldl, implies_true, ↓State.put_kept, ↓State.quiesceBrew_kept, ↓State.invalidateB_kept, ↓State.quietAll_kept, ↓State.applyIfQuiet_kept]))
theorem State.brewQuiescent_kept (s : State) (b : Nat) : State.kept (s.brewQuiescent b) = s.kept := by
  unfold State.brewQuiescent
  split
  · rfl
  · split
    · rfl
    · rw [State.applyIfQuiet_kept, State.quietBrew_kept]
theorem State.forceFrame_kept (s : State) (b : BrewRec) (f : Frame) : State.kept (s.forceFrame b f) = s.kept := by
  unfold State.forceFrame
  dsimp only
  rw [State.setBrew_kept]
  refine (kept_foldl _ (fun t k => State.bFrameStore_kept _ _) _ _).trans ?_
  refine (kept_foldl _ (fun t k => ?_) _ _).trans ?_
  · split
    · exact State.statsFrameEnd_kept _ _ _
    · rw [State.analysisFrameEnd_kept, State.setAna_kept]
    · exact State.opkFrameWrite_kept _ _
    · exact State.setCmx_kept _ _ _
    · rfl
  · rw [kept_when _ _ _ (State.putFrameRecord_kept _ _ _ _ _), kept_when _ _ _ (State.dropUnit_kept _ _ _ _ _), State.setBrew_kept, State.mapFrames_kept]
theorem State.forceBrew_kept : ∀ s a1, State.kept (State.forceBrew s a1) = State.kept s := by
  intro s a1; unfold State.forceBrew; (repeat' (first | (with_reducible rfl) | split | simp only [↓kept_foldl, implies_true, ↓State.forceFrame_kept, ↓State.setBrew_kept]))
theorem State.quiesceTimeout_kept : ∀ s, State.kept (State.quiesceTimeout s) = State.kept s := by
  intro s; unfold State.quiesceTimeout; (repeat' (first | (with_reducible rfl) | split | simp only [↓kept_foldl, implies_true, ↓State.forceBrew_kept, ↓State.quietAll_kept, ↓State.applyIfQuiet_kept]))
theorem State.applyFetchDone_kept : ∀ s, State.kept (State.applyFetchDone s) = State.kept s := by
  intro s; unfold State.applyFetchDone; (repeat' (first | (with_reducible rfl) | split | simp only [↓State.loadVerify_kept]))
theorem State.readImage_kept : ∀ s a1 a2 a3, State.kept (State.readImage s a1 a2 a3).2 = State.kept s := by
  intro s a1 a2 a3; induction a3 generalizing s a1 a2 with
    | nil => (unfold State.readImage; ((repeat' (first | (with_reducible rfl) | split | simp only [↓kept_mk, ↓kept_evt, ↓kept_ite, ↓snd_ite, ite_self, ↓kept_foldl, ↓kept_when, andThen_cons, andThen_nil, implies_true, kept_mk, kept_evt, ↓State.physRead_kept]))); (all_goals (repeat (rename_i h; first | (have h' := congrArg (fun p => State.kept (Prod.snd p)) h; simp only [↓kept_mk, ↓kept_evt, ↓kept_ite, ↓snd_ite, ite_self, ↓kept_foldl, ↓kept_when, andThen_cons, andThen_nil, implies_true, kept_mk, kept_evt, ↓State.physRead_kept] at h'; clear h; revert h') | clear h | revert h))); all_goals (intros; first | (with_reducible rfl) | (simp only [↓kept_mk, ↓kept_evt, ↓kept_ite, ↓snd_ite, ite_self, ↓kept_foldl, ↓kept_when, andThen_cons, andThen_nil, implies_true, kept_mk, kept_evt, ↓State.physRead_kept]; done) | (simp only [↓kept_mk, ↓kept_evt, ↓kept_ite, ↓snd_ite, ite_self, ↓kept_foldl, ↓kept_when, andThen_cons, andThen_nil, implies_true, kept_mk, kept_evt, ↓State.physRead_kept]; simp only [*]; done) | simp only [*]))
    | cons h0 t0 ih0 => (unfold State.readImage; ((repeat' (first | (with_reducible rfl) | split | simp only))); ((all_goals (repeat (rename_i h; first | (have h' := congrArg (fun p => State.kept (Prod.snd p)) h; simp only [↓State.physRead_kept, ih0] at h'; clear h; revert h') | clear h | revert h))); all_goals (intros; first | (with_reducible rfl) | (simp only [↓kept_mk, ↓kept_evt, ↓kept_ite, ↓snd_ite, ite_self, ↓kept_foldl, ↓kept_when, andThen_cons, andThen_nil, implies_true, kept_mk, kept_evt, ↓State.physRead_kept]; done) | (simp only [↓kept_mk, ↓kept_evt, ↓kept_ite, ↓snd_ite, ite_self, ↓kept_foldl, ↓kept_when, andThen_cons, andThen_nil, implies_true, kept_mk, kept_evt, ↓State.physRead_kept]; simp only [*]; done) | simp only [*])))
theorem State.retainCopy_kept : ∀ s a1, State.kept (State.retainCopy s a1) = State.kept s := by
  intro s a1; unfold State.retainCopy; simp only [↓kept_mk, kept_mk, ↓State.takeFreeBytes_kept, ↓State.setBytes_kept, ↓State.charge_kept]
theorem State.startLoad_kept : ∀ s a1 a2, State.kept (State.startLoad s a1 a2) = State.kept s := by
  intro s a1 a2; unfold State.startLoad; ((repeat' (first | (with_reducible rfl) | split | simp only [↓kept_mk, ↓kept_ite, andThen_cons, andThen_nil, kept_mk, ↓State.put_kept, ↓State.loadEnds_kept, ↓State.retainCopy_kept]))); (all_goals (repeat (rename_i h; first | (have h' := congrArg (fun p => State.kept (Prod.snd p)) h; simp only [↓State.put_kept, ↓State.readImage_kept] at h'; clear h; revert h') | clear h | revert h))); all_goals (intros; first | (with_reducible rfl) | (simp only [↓kept_mk, ↓kept_evt, ↓kept_ite, ↓snd_ite, ite_self, ↓kept_foldl, ↓kept_when, andThen_cons, andThen_nil, implies_true, kept_mk, kept_evt, ↓State.put_kept, ↓State.loadEnds_kept, ↓State.readImage_kept, ↓State.retainCopy_kept]; done) | (simp only [↓kept_mk, ↓kept_evt, ↓kept_ite, ↓snd_ite, ite_self, ↓kept_foldl, ↓kept_when, andThen_cons, andThen_nil, implies_true, kept_mk, kept_evt, ↓State.put_kept, ↓State.loadEnds_kept, ↓State.readImage_kept, ↓State.retainCopy_kept]; simp only [*]; done) | simp only [*])
theorem wrFabLoad_kept : ∀ a0 a1 s, State.kept (wrFabLoad a0 a1 s) = State.kept s := by
  intro a0 a1 s; unfold wrFabLoad; simp only [↓kept_ite, ite_self, ↓State.postIgnored_kept, ↓State.startLoad_kept]
theorem wrFabAddr_kept : ∀ a0 a1 a2 s, State.kept (wrFabAddr a0 a1 a2 s) = State.kept s := by
  intro a0 a1 a2 s; unfold wrFabAddr; simp only [↓kept_ite, ite_self, ↓State.plainWrite_kept]
theorem wrFabRetain_kept : ∀ a0 a1 a2 s, State.kept (wrFabRetain a0 a1 a2 s) = State.kept s := by
  intro a0 a1 a2 s; unfold wrFabRetain; simp only [↓kept_ite, ite_self, ↓State.postIgnored_kept, ↓State.lockEvent_kept, ↓State.plainWrite_kept]

theorem State.requestFreeze_kept : ∀ s a1, State.kept (State.requestFreeze s a1) = State.kept s := by
  intro s a1; unfold State.requestFreeze; simp only [↓kept_ite, ite_self, ↓State.put_kept]
theorem State.mirror_kept : ∀ s a1, State.kept (State.mirror s a1) = State.kept s := by
  intro s a1; unfold State.mirror; ((repeat' (first | (with_reducible rfl) | split | simp only [↓State.bump_kept]))); (all_goals (repeat (rename_i h; first | (have h' := congrArg (fun p => State.kept (Prod.snd p)) h; simp only [↓State.ringRecord_kept] at h'; clear h; revert h') | clear h | revert h))); all_goals (intros; first | (with_reducible rfl) | (simp only [↓kept_mk, ↓kept_evt, ↓kept_ite, ↓snd_ite, ite_self, ↓kept_foldl, ↓kept_when, andThen_cons, andThen_nil, implies_true, kept_mk, kept_evt, ↓State.ringRecord_kept, ↓State.bump_kept]; done) | (simp only [↓kept_mk, ↓kept_evt, ↓kept_ite, ↓snd_ite, ite_self, ↓kept_foldl, ↓kept_when, andThen_cons, andThen_nil, implies_true, kept_mk, kept_evt, ↓State.ringRecord_kept, ↓State.bump_kept]; simp only [*]; done) | simp only [*])
theorem wrEvtClear_kept (v : Word) (s : State) : State.kept (wrEvtClear v s) = s.kept := by
  unfold wrEvtClear
  split
  · rfl
  · rw [State.put_kept, kept_when]
    · rfl
    · exact State.wreg_kept _ _ _
theorem rdEvtLastLo_kept : ∀ s, State.kept (rdEvtLastLo s).2 = State.kept s := by
  intro s; unfold rdEvtLastLo; simp only [↓State.put_kept]
theorem wrEvtPostData_kept : ∀ a0 a1 a2 s, State.kept (wrEvtPostData a0 a1 a2 s) = State.kept s := by
  intro a0 a1 a2 s; unfold wrEvtPostData; simp only [↓kept_evt, kept_evt]
theorem wrEvtPost_kept : ∀ a0 a1 s, State.kept (wrEvtPost a0 a1 s) = State.kept s := by
  intro a0 a1 s; unfold wrEvtPost; simp only [↓kept_ite, ite_self, ↓State.post_kept]

theorem State.setDma_kept : ∀ s a1 a2, State.kept (State.setDma s a1 a2) = State.kept s := by
  intro s a1 a2; unfold State.setDma; simp only [↓kept_mk, kept_mk]
theorem State.dmaComplete_kept : ∀ s a1 a2 a3, State.kept (State.dmaComplete s a1 a2 a3) = State.kept s := by
  intro s a1 a2 a3; unfold State.dmaComplete; ((repeat' (first | (with_reducible rfl) | split | simp only [↓State.setDma_kept]))); (all_goals (repeat (rename_i h; first | (have h' := congrArg (fun p => State.kept (Prod.snd p)) h; simp only [↓State.setDma_kept, ↓State.bump_kept, ↓State.post_kept, ↓State.ringRecord_kept] at h'; clear h; revert h') | clear h | revert h))); all_goals (intros; first | (with_reducible rfl) | (simp only [↓kept_mk, ↓kept_evt, ↓kept_ite, ↓snd_ite, ite_self, ↓kept_foldl, ↓kept_when, andThen_cons, andThen_nil, implies_true, kept_mk, kept_evt, ↓State.setDma_kept, ↓State.bump_kept, ↓State.post_kept, ↓State.ringRecord_kept]; done) | (simp only [↓kept_mk, ↓kept_evt, ↓kept_ite, ↓snd_ite, ite_self, ↓kept_foldl, ↓kept_when, andThen_cons, andThen_nil, implies_true, kept_mk, kept_evt, ↓State.setDma_kept, ↓State.bump_kept, ↓State.post_kept, ↓State.ringRecord_kept]; simp only [*]; done) | simp only [*])
theorem State.dmaTake_kept : ∀ s a1, State.kept (State.dmaTake s a1) = State.kept s := by
  intro s a1; unfold State.dmaTake; ((repeat' (first | (with_reducible rfl) | split | simp only [↓kept_ite, ↓State.dmaComplete_kept, ↓State.setDma_kept]))); (all_goals (repeat (rename_i h; first | (have h' := congrArg (fun p => State.kept (Prod.snd p)) h; simp only [↓State.put_kept, ↓State.engRead_kept] at h'; clear h; revert h') | clear h | revert h))); all_goals (intros; first | (with_reducible rfl) | (simp only [↓kept_mk, ↓kept_evt, ↓kept_ite, ↓snd_ite, ite_self, ↓kept_foldl, ↓kept_when, andThen_cons, andThen_nil, implies_true, kept_mk, kept_evt, ↓State.put_kept, ↓State.engRead_kept, ↓State.dmaComplete_kept, ↓State.setDma_kept]; done) | (simp only [↓kept_mk, ↓kept_evt, ↓kept_ite, ↓snd_ite, ite_self, ↓kept_foldl, ↓kept_when, andThen_cons, andThen_nil, implies_true, kept_mk, kept_evt, ↓State.put_kept, ↓State.engRead_kept, ↓State.dmaComplete_kept, ↓State.setDma_kept]; simp only [*]; done) | simp only [*])
theorem State.dmaBurst_kept : ∀ s a1 a2, State.kept (State.dmaBurst s a1 a2).2 = State.kept s := by
  intro s a1 a2; unfold State.dmaBurst; ((repeat' (first | (with_reducible rfl) | split | simp only [↓State.engRead_kept]))); (all_goals (repeat (rename_i h; first | (have h' := congrArg (fun p => State.kept (Prod.snd p)) h; simp only [↓State.engRead_kept, ↓State.engWrite_kept] at h'; clear h; revert h') | clear h | revert h))); all_goals (intros; first | (with_reducible rfl) | (simp only [↓kept_mk, ↓kept_evt, ↓kept_ite, ↓snd_ite, ite_self, ↓kept_foldl, ↓kept_when, andThen_cons, andThen_nil, implies_true, kept_mk, kept_evt, ↓State.engRead_kept, ↓State.engWrite_kept]; done) | (simp only [↓kept_mk, ↓kept_evt, ↓kept_ite, ↓snd_ite, ite_self, ↓kept_foldl, ↓kept_when, andThen_cons, andThen_nil, implies_true, kept_mk, kept_evt, ↓State.engRead_kept, ↓State.engWrite_kept]; simp only [*]; done) | simp only [*])
theorem State.dmaBursts_kept : ∀ s a1 a2 a3, State.kept (State.dmaBursts s a1 a2 a3).2 = State.kept s := by
  intro s a1 a2 a3; induction a3 generalizing s a1 a2 with
    | zero => (unfold State.dmaBursts; ((repeat' (first | (with_reducible rfl) | split | simp only [↓kept_mk, ↓kept_evt, ↓kept_ite, ↓snd_ite, ite_self, ↓kept_foldl, ↓kept_when, andThen_cons, andThen_nil, implies_true, kept_mk, kept_evt, ↓State.dmaBurst_kept]))); (all_goals (repeat (rename_i h; first | (have h' := congrArg (fun p => State.kept (Prod.snd p)) h; simp only [↓kept_mk, ↓kept_evt, ↓kept_ite, ↓snd_ite, ite_self, ↓kept_foldl, ↓kept_when, andThen_cons, andThen_nil, implies_true, kept_mk, kept_evt, ↓State.dmaBurst_kept] at h'; clear h; revert h') | clear h | revert h))); all_goals (intros; first | (with_reducible rfl) | (simp only [↓kept_mk, ↓kept_evt, ↓kept_ite, ↓snd_ite, ite_self, ↓kept_foldl, ↓kept_when, andThen_cons, andThen_nil, implies_true, kept_mk, kept_evt, ↓State.dmaBurst_kept]; done) | (simp only [↓kept_mk, ↓kept_evt, ↓kept_ite, ↓snd_ite, ite_self, ↓kept_foldl, ↓kept_when, andThen_cons, andThen_nil, implies_true, kept_mk, kept_evt, ↓State.dmaBurst_kept]; simp only [*]; done) | simp only [*]))
    | succ t0 ih0 => (unfold State.dmaBursts; ((repeat' (first | (with_reducible rfl) | split | simp only))); ((all_goals (repeat (rename_i h; first | (have h' := congrArg (fun p => State.kept (Prod.snd p)) h; simp only [↓State.dmaBurst_kept] at h'; clear h; revert h') | clear h | revert h))); all_goals (intros; first | (with_reducible rfl) | (simp only [↓kept_mk, ↓kept_evt, ↓kept_ite, ↓snd_ite, ite_self, ↓kept_foldl, ↓kept_when, andThen_cons, andThen_nil, implies_true, kept_mk, kept_evt, ↓State.dmaBurst_kept]; done) | (simp only [↓kept_mk, ↓kept_evt, ↓kept_ite, ↓snd_ite, ite_self, ↓kept_foldl, ↓kept_when, andThen_cons, andThen_nil, implies_true, kept_mk, kept_evt, ↓State.dmaBurst_kept]; simp only [*]; done) | simp only [*])))
theorem State.dmaEnd_kept : ∀ s a1, State.kept (State.dmaEnd s a1) = State.kept s := by
  intro s a1; unfold State.dmaEnd; ((repeat' (first | (with_reducible rfl) | split | simp only [↓State.dmaComplete_kept, ↓State.setDma_kept, ↓State.unitFault_kept]))); (all_goals (repeat (rename_i h; first | (have h' := congrArg (fun p => State.kept (Prod.snd p)) h; simp only [↓State.dmaBursts_kept] at h'; clear h; revert h') | clear h | revert h))); all_goals (intros; first | (with_reducible rfl) | (simp only [↓kept_mk, ↓kept_evt, ↓kept_ite, ↓snd_ite, ite_self, ↓kept_foldl, ↓kept_when, andThen_cons, andThen_nil, implies_true, kept_mk, kept_evt, ↓State.dmaBursts_kept, ↓State.dmaComplete_kept, ↓State.setDma_kept, ↓State.unitFault_kept]; done) | (simp only [↓kept_mk, ↓kept_evt, ↓kept_ite, ↓snd_ite, ite_self, ↓kept_foldl, ↓kept_when, andThen_cons, andThen_nil, implies_true, kept_mk, kept_evt, ↓State.dmaBursts_kept, ↓State.dmaComplete_kept, ↓State.setDma_kept, ↓State.unitFault_kept]; simp only [*]; done) | simp only [*])
theorem State.dmaRestart_kept : ∀ s a1, State.kept (State.dmaRestart s a1) = State.kept s := by
  intro s a1; unfold State.dmaRestart; (repeat' (first | (with_reducible rfl) | split | simp only [↓State.setDma_kept]))
theorem State.dmaFailFault_kept : ∀ s a1, State.kept (State.dmaFailFault s a1) = State.kept s := by
  intro s a1; unfold State.dmaFailFault; (repeat' (first | (with_reducible rfl) | split | simp only [↓State.dmaComplete_kept]))
theorem wrDmaCtl_kept : ∀ a0 a1 a2 s, State.kept (wrDmaCtl a0 a1 a2 s) = State.kept s := by
  intro a0 a1 a2 s; unfold wrDmaCtl; (repeat' (first | (with_reducible rfl) | split | simp only [↓kept_ite, ite_self, ↓State.postIgnored_kept, ↓State.put_kept, ↓State.withdrawFault_kept, ↓State.dmaComplete_kept, ↓State.plainWrite_kept, ↓State.wreg_kept, ↓State.setDma_kept]))
theorem wrDmaRing_kept : ∀ a0 a1 a2 a3 s, State.kept (wrDmaRing a0 a1 a2 a3 s) = State.kept s := by
  intro a0 a1 a2 a3 s; unfold wrDmaRing; simp only [↓State.closedWrite_kept]
theorem wrDmaCqIdx_kept : ∀ a0 a1 a2 s, State.kept (wrDmaCqIdx a0 a1 a2 s) = State.kept s := by
  intro a0 a1 a2 s; unfold wrDmaCqIdx; simp only [↓State.plainWrite_kept, ↓State.setDma_kept]

theorem State.serveOne_kept : ∀ s, State.kept (State.serveOne s) = State.kept s := by
  intro s; unfold State.serveOne; (repeat' (first | (with_reducible rfl) | split | simp only [↓kept_mk, ↓kept_ite, ite_self, ↓kept_foldl, implies_true, kept_mk, ↓State.startPll_kept, ↓State.put_kept]))
theorem State.serve_kept (s : State) (n : Nat) : State.kept (s.serve n) = s.kept := by
  induction n generalizing s with
  | zero => rfl
  | succ n ih =>
    unfold State.serve
    split
    · rfl
    · rw [ih, State.serveOne_kept]
theorem wrPwrDom_kept : ∀ a0 a1 a2 s, State.kept (wrPwrDom a0 a1 a2 s) = State.kept s := by
  intro a0 a1 a2 s; unfold wrPwrDom; simp only [↓kept_ite, ite_self, ↓State.plainWrite_kept, ↓State.demand_kept, ↓State.serve_kept]
theorem State.retain_kept : ∀ s a1, State.kept (State.retain s a1) = State.kept s := by
  intro s a1; unfold State.retain; simp only [↓kept_mk, ↓kept_ite, ite_self, kept_mk, ↓State.put_kept, ↓State.stopIdlePll_kept]
theorem State.loseDram_kept : ∀ s, State.kept (State.loseDram s) = State.kept s := by
  intro s; unfold State.loseDram; simp only [↓kept_mk, ↓kept_foldl, implies_true, kept_mk, ↓State.put_kept, ↓State.failWaiting_kept]
theorem State.pwrGood_kept : ∀ s a1, State.kept (State.pwrGood s a1) = State.kept s := by
  intro s a1; unfold State.pwrGood; simp only [↓State.emit_kept]
theorem wrPwrRail_kept : ∀ a0 a1 s, State.kept (wrPwrRail a0 a1 s) = State.kept s := by
  intro a0 a1 s; unfold wrPwrRail; simp only [↓kept_ite, ite_self, ↓kept_foldl, ↓kept_when, implies_true, ↓State.plainWrite_kept, ↓State.setBit_kept, ↓State.pwrGood_kept]
theorem State.rampUp_kept : ∀ s, State.kept (State.rampUp s) = State.kept s := by
  intro s; unfold State.rampUp; simp only [↓kept_mk, kept_mk, ↓State.put_kept, ↓State.pwrGood_kept, ↓State.startCore0_kept]
theorem State.passStep3_kept : ∀ s, State.kept (State.passStep3 s) = State.kept s := by
  intro s; unfold State.passStep3; simp only [↓kept_mk, ↓kept_ite, ite_self, andThen_cons, andThen_nil, kept_mk, ↓State.put_kept, ↓State.rampUp_kept]
theorem State.step3_kept : ∀ s a1, State.kept (State.step3 s a1) = State.kept s := by
  intro s a1; unfold State.step3; simp only [↓kept_mk, ↓kept_ite, ite_self, kept_mk, ↓State.put_kept, ↓State.passStep3_kept]
theorem State.coreOff_kept : ∀ s a1, State.kept (State.coreOff s a1) = State.kept s := by
  intro s a1; unfold State.coreOff; simp only [↓State.domainOff_kept, ↓State.put_kept]
theorem State.nap_kept : ∀ s, State.kept (State.nap s) = State.kept s := by
  intro s; unfold State.nap; simp only [↓kept_mk, ↓kept_ite, ite_self, ↓kept_foldl, implies_true, kept_mk, ↓State.coreOff_kept, ↓State.retain_kept, ↓State.put_kept]
theorem State.segment1Off_kept : ∀ s, State.kept (State.segment1Off s) = State.kept s := by
  intro s; unfold State.segment1Off; simp only [↓kept_mk, kept_mk, ↓State.domainOff_kept, ↓State.put_kept]
theorem State.doze_kept (s : State) : State.kept s.doze = s.kept := by
  unfold State.doze
  dsimp only
  rw [State.put_kept, State.put_kept, State.segment1Off_kept, State.domainOff_kept]
  refine (kept_foldl _ (fun t k => State.retain_kept _ _) _ _).trans ?_
  refine (kept_foldl _ (fun t k => ?_) _ _).trans ?_
  · split
    · exact State.selfRefresh_kept _ _
    · rfl
  · simp only [↓kept_mk]
theorem State.wakeUp_kept : ∀ s a1, State.kept (State.wakeUp s a1) = State.kept s := by
  intro s a1; unfold State.wakeUp; simp only [↓kept_mk, andThen_cons, andThen_nil, kept_mk, ↓State.startPll_kept, ↓State.domainOn_kept, ↓State.put_kept, ↓State.emit_kept]
theorem State.wakeEvent_kept : ∀ s a1, State.kept (State.wakeEvent s a1) = State.kept s := by
  intro s a1; unfold State.wakeEvent; (repeat' (first | (with_reducible rfl) | split | simp only [↓kept_mk, ↓kept_ite, ↓kept_when, kept_mk, ↓State.latchWake_kept, ↓State.put_kept, ↓State.wakeUp_kept]))
theorem State.channelBack_kept : ∀ s a1, State.kept (State.channelBack s a1) = State.kept s := by
  intro s a1; unfold State.channelBack; simp only [↓kept_ite, ite_self, ↓State.exitSelfRefresh_kept, ↓State.dueBoth_kept]
theorem wrPwrClksel_kept : ∀ a0 a1 s, State.kept (wrPwrClksel a0 a1 s) = State.kept s := by
  intro a0 a1 s; unfold wrPwrClksel; simp only [↓kept_ite, ite_self, ↓State.postIgnored_kept, ↓State.plainWrite_kept]
theorem State.clearResidency_kept : ∀ s, State.kept (State.clearResidency s) = State.kept s := by
  intro s; unfold State.clearResidency; simp only [↓kept_mk, kept_mk]
theorem wrPwrCtl_kept : ∀ a0 a1 s, State.kept (wrPwrCtl a0 a1 s) = State.kept s := by
  intro a0 a1 s; unfold wrPwrCtl; simp only [↓kept_when, ↓State.plainWrite_kept, ↓State.clearResidency_kept]
theorem rdPwrSresLo_kept : ∀ a0 s, State.kept (rdPwrSresLo a0 s).2 = State.kept s := by
  intro a0 s; unfold rdPwrSresLo; simp only [↓State.put_kept]
theorem rdPwrDresLo_kept : ∀ a0 s, State.kept (rdPwrDresLo a0 s).2 = State.kept s := by
  intro a0 s; unfold rdPwrDresLo; simp only [↓State.put_kept]
theorem State.countPeriod_kept : ∀ s, State.kept (State.countPeriod s) = State.kept s := by
  intro s; unfold State.countPeriod; simp only [↓kept_mk, kept_mk]
theorem State.cosyTick_kept : ∀ s, State.kept (State.cosyTick s) = State.kept s := by
  intro s; unfold State.cosyTick; simp only [↓kept_mk, ↓kept_ite, ite_self, kept_mk, ↓State.countPeriod_kept]

theorem State.sensorFault_kept : ∀ s a1, State.kept (State.sensorFault s a1) = State.kept s := by
  intro s a1; unfold State.sensorFault; simp only [↓kept_mk, ↓kept_when, kept_mk, ↓State.put_kept, ↓State.post_kept]
theorem State.throttle_kept : ∀ s, State.kept (State.throttle s) = State.kept s := by
  intro s; unfold State.throttle; simp only [↓State.put_kept]
theorem State.enterBand_kept : ∀ s a1 a2, State.kept (State.enterBand s a1 a2) = State.kept s := by
  intro s a1 a2; unfold State.enterBand; simp only [↓kept_ite, ite_self, ↓kept_foldl, implies_true, ↓State.put_kept, ↓State.rebandChannel_kept, ↓State.laneBand_kept, ↓State.post_kept, ↓State.irq_kept, ↓State.latchWake_kept]
theorem State.evaluate_kept : ∀ s, State.kept (State.evaluate s) = State.kept s := by
  intro s; unfold State.evaluate; (repeat' (first | (with_reducible rfl) | split | simp only [↓State.put_kept, ↓State.enterBand_kept, ↓State.throttle_kept, ↓State.putB_kept]))
theorem State.moduleLimit_kept : ∀ s a1 a2, State.kept (State.moduleLimit s a1 a2) = State.kept s := by
  intro s a1 a2; unfold State.moduleLimit; simp only [↓kept_ite, ite_self, ↓State.put_kept, ↓State.post_kept]
theorem wrThmMask_kept : ∀ a0 a1 s, State.kept (wrThmMask a0 a1 s) = State.kept s := by
  intro a0 a1 s; unfold wrThmMask; simp only [↓kept_foldl, implies_true, ↓State.plainWrite_kept, ↓State.putB_kept]
theorem wrThmThrottle_kept : ∀ a0 a1 a2 s, State.kept (wrThmThrottle a0 a1 a2 s) = State.kept s := by
  intro a0 a1 a2 s; unfold wrThmThrottle; simp only [↓State.plainWrite_kept, ↓State.throttle_kept]

theorem wrCoreCtl_kept : ∀ a0 a1 s, State.kept (wrCoreCtl a0 a1 s) = State.kept s := by
  intro a0 a1 s; unfold wrCoreCtl; simp only [↓kept_ite, ite_self, ↓State.domainOff_kept, ↓State.put_kept, ↓State.bringUp_kept, ↓State.emit_kept]
theorem wrCpuWdog_kept : ∀ a0 a1 s, State.kept (wrCpuWdog a0 a1 s) = State.kept s := by
  intro a0 a1 s; unfold wrCpuWdog; simp only [↓kept_mk, ↓kept_ite, ite_self, kept_mk, ↓State.plainWrite_kept]
theorem wrDbgCtl_kept : ∀ a0 a1 s, State.kept (wrDbgCtl a0 a1 s) = State.kept s := by
  intro a0 a1 s; unfold wrDbgCtl; simp only [↓kept_ite, ite_self, ↓State.plainWrite_kept, ↓State.requestFreeze_kept]
theorem State.settle_kept : ∀ s a1, State.kept (State.settle s a1) = State.kept s := by
  intro s a1; unfold State.settle; (repeat' (first | (with_reducible rfl) | split | simp only [↓State.put_kept, ↓State.setBit_kept]))
theorem State.dropCommands_kept : ∀ s, State.kept (State.dropCommands s) = State.kept s := by
  intro s; unfold State.dropCommands; simp only [↓kept_mk, kept_mk]
theorem State.linksDown_kept : ∀ s, State.kept (State.linksDown s) = State.kept s := by
  intro s; unfold State.linksDown; simp only [↓kept_foldl, implies_true, ↓State.put_kept]
theorem keptHeld (s : State) (j : JtagState) (n : Nat) : State.kept { s with jtag := j, free := n } = s.kept := rfl
theorem keptNoLoad (s : State) (b : Nat) : State.kept { s.put F.FAB_LOAD_STAT.BUSY b with load := none } = s.kept := by
  rw [← State.put_kept s F.FAB_LOAD_STAT.BUSY b]; rfl
theorem State.stopAll_kept (s : State) : State.kept s.stopAll = s.kept := by
  unfold State.stopAll
  simp only
  generalize h1 : List.foldl State.settle s (List.range 8) = s1
  have g1 : s1.kept = s.kept := by rw [← h1]; exact kept_foldl _ (fun s x => State.settle_kept s x) _ _
  generalize h2 : (if s1.load.isSome = true then { s1.put F.FAB_LOAD_STAT.BUSY 0 with load := none } else s1) = s2
  have g2 : s2.kept = s1.kept := by
    rw [← h2]; split
    · exact keptNoLoad _ _
    · rfl
  generalize h3 : List.foldl State.recalStops s2 (List.range 96) = s3
  have g3 : s3.kept = s2.kept := by rw [← h3]; exact kept_foldl _ (fun s x => State.recalStops_kept s x) _ _
  rw [keptHeld, State.emit_kept, State.put_kept, State.linksDown_kept, State.dropCommands_kept, State.cmpStopAll_kept, g3, g2, g1]

theorem wrMmuCtl_kept : ∀ a0 a1 s, State.kept (wrMmuCtl a0 a1 s) = State.kept s := by
  intro a0 a1 s; unfold wrMmuCtl; simp only [↓State.plainWrite_kept]
theorem wrMmuUnitCfg_kept : ∀ a0 a1 a2 s, State.kept (wrMmuUnitCfg a0 a1 a2 s) = State.kept s := by
  intro a0 a1 a2 s; unfold wrMmuUnitCfg; simp only [↓State.plainWrite_kept, ↓State.setTlb_kept]
theorem State.invalidateTlbs_kept : ∀ s, State.kept (State.invalidateTlbs s) = State.kept s := by
  intro s; unfold State.invalidateTlbs; simp only [↓kept_foldl, implies_true, ↓State.setTlb_kept]
theorem wrMmuInv_kept : ∀ a0 a1 s, State.kept (wrMmuInv a0 a1 s) = State.kept s := by
  intro a0 a1 s; unfold wrMmuInv; simp only [↓kept_ite, ite_self, ↓State.postIgnored_kept, ↓State.plainWrite_kept, ↓State.put_kept, ↓State.invalidateTlbs_kept]
theorem State.suspendUnit_kept : ∀ s a1 a2 a3 a4, State.kept (State.suspendUnit s a1 a2 a3 a4) = State.kept s := by
  intro s a1 a2 a3 a4; unfold State.suspendUnit; (repeat' (first | (with_reducible rfl) | split | simp only [↓State.vceSuspend_kept, ↓State.unitFault_kept, ↓State.cmpSuspend_kept, ↓State.setDma_kept, ↓State.cmdError_kept]))
theorem State.tableWalk_kept : ∀ s a1 a2 a3 a4, State.kept (State.tableWalk s a1 a2 a3 a4) = State.kept s := by
  intro s a1 a2 a3 a4; unfold State.tableWalk; ((repeat' (first | (with_reducible rfl) | split | simp only [↓State.suspendUnit_kept]))); (all_goals (repeat (rename_i h; first | (have h' := congrArg (fun p => State.kept (Prod.snd p)) h; simp only [↓State.translate_kept] at h'; clear h; revert h') | clear h | revert h))); all_goals (intros; first | (with_reducible rfl) | (simp only [↓kept_mk, ↓kept_evt, ↓kept_ite, ↓snd_ite, ite_self, ↓kept_foldl, ↓kept_when, andThen_cons, andThen_nil, implies_true, kept_mk, kept_evt, ↓State.translate_kept, ↓State.suspendUnit_kept]; done) | (simp only [↓kept_mk, ↓kept_evt, ↓kept_ite, ↓snd_ite, ite_self, ↓kept_foldl, ↓kept_when, andThen_cons, andThen_nil, implies_true, kept_mk, kept_evt, ↓State.translate_kept, ↓State.suspendUnit_kept]; simp only [*]; done) | simp only [*])
theorem State.resolveWork_kept : ∀ s a1 a2, State.kept (State.resolveWork s a1 a2) = State.kept s := by
  intro s a1 a2; unfold State.resolveWork; (repeat' (first | (with_reducible rfl) | split | simp only [↓State.vceFailFault_kept, ↓State.vceRestart_kept, ↓State.cmpFailFault_kept, ↓State.cmpRestart_kept, ↓State.dmaFailFault_kept, ↓State.dmaRestart_kept, ↓State.ccpFailFault_kept, ↓State.ccpRestart_kept]))
theorem State.mmuResume_kept : ∀ s a1 a2, State.kept (State.mmuResume s a1 a2) = State.kept s := by
  intro s a1 a2; unfold State.mmuResume; simp only [↓kept_ite, ite_self, ↓State.put_kept, ↓State.clearFault_kept, ↓State.resolveWork_kept]
theorem wrMmuResume_kept : ∀ a0 s, State.kept (wrMmuResume a0 s) = State.kept s := by
  intro a0 s; unfold wrMmuResume; simp only [↓kept_ite, ite_self, ↓State.mmuResume_kept]
theorem State.faultTimeout_kept : ∀ s a1, State.kept (State.faultTimeout s a1) = State.kept s := by
  intro s a1; unfold State.faultTimeout; simp only [↓kept_ite, ite_self, ↓State.clearFault_kept, ↓State.resolveWork_kept, ↓State.post_kept]

theorem wrFab_kept : ∀ a0 a1 a2 s, State.kept (wrFab a0 a1 a2 s) = State.kept s := by
  intro a0 a1 a2 s; unfold wrFab; simp only [↓kept_ite, ite_self, ↓wrFabLoad_kept, ↓wrFabAddr_kept, ↓wrFabRetain_kept, ↓wrFabCommit_kept, ↓State.plainWrite_kept]
theorem wrTile_kept (src off : Nat) (v : Word) (s : State) : State.kept (wrTile src off v s) = s.kept := by
  unfold wrTile
  cases ixPort off with
  | some x => exact IxPort.write_kept _ _ _
  | none => exact State.plainWrite_kept _ _ _ _
theorem wrLnk_kept : ∀ a0 a1 a2 s, State.kept (wrLnk a0 a1 a2 s) = State.kept s := by
  intro a0 a1 a2 s; unfold wrLnk; simp only [↓kept_ite, ite_self, ↓wrLnkRefcfg_kept, ↓State.plainWrite_kept, ↓wrLnkTxeq_kept, ↓wrLnkRecal_kept, ↓wrLnkSlip_kept, ↓wrLnkPrbs_kept]
theorem wrSlk_kept : ∀ a0 a1 a2 s, State.kept (wrSlk a0 a1 a2 s) = State.kept s := by
  intro a0 a1 a2 s; unfold wrSlk; simp only [↓kept_ite, ite_self, ↓wrSlkRxcfg_kept, ↓wrSlkTxcfg_kept, ↓wrSlkSyncctl_kept, ↓State.plainWrite_kept]
theorem wrScp_kept : ∀ a0 a1 a2 s, State.kept (wrScp a0 a1 a2 s) = State.kept s := by
  intro a0 a1 a2 s; unfold wrScp; simp only [↓kept_ite, ite_self, ↓State.plainWrite_kept, ↓State.scpNext_kept, ↓wrScpCmdctl_kept, ↓wrScpBmem_kept, ↓wrScpTfile_kept, ↓wrScpBdesc_kept, ↓wrScpBurstReg_kept]
theorem wrSdi_kept : ∀ a0 a1 a2 s, State.kept (wrSdi a0 a1 a2 s) = State.kept s := by
  intro a0 a1 a2 s; unfold wrSdi; simp only [↓kept_ite, ite_self, ↓State.plainWrite_kept, ↓wrSdiOutCfg_kept, ↓wrSdiOutFmt_kept]
theorem wrCmp_kept : ∀ a0 a1 a2 s, State.kept (wrCmp a0 a1 a2 s) = State.kept s := by
  intro a0 a1 a2 s; unfold wrCmp; simp only [↓kept_ite, ite_self, ↓wrCmpCfg_kept, ↓wrCmpAbort_kept, ↓State.plainWrite_kept, ↓wrCmpSaveArea_kept, ↓wrCmpCtl_kept, ↓wrCmpSqIdx_kept, ↓wrCmpCqIdx_kept, ↓wrCmpRing_kept]
theorem wrDrc_kept : ∀ a0 a1 a2 s, State.kept (wrDrc a0 a1 a2 s) = State.kept s := by
  intro a0 a1 a2 s; unfold wrDrc; simp only [↓kept_ite, ite_self, ↓State.wrDrcCtrl_kept, ↓State.wrDrcMapctl_kept, ↓State.wrDrcMap_kept, ↓State.plainWrite_kept]
theorem wrMmu_kept : ∀ a0 a1 a2 s, State.kept (wrMmu a0 a1 a2 s) = State.kept s := by
  intro a0 a1 a2 s; unfold wrMmu; simp only [↓kept_ite, ite_self, ↓wrMmuCtl_kept, ↓wrMmuInv_kept, ↓wrMmuResume_kept, ↓wrMmuUnitCfg_kept, ↓State.plainWrite_kept, ↓wrDmaCtl_kept, ↓wrDmaRing_kept, ↓wrDmaCqIdx_kept]
theorem wrEth_kept : ∀ a0 a1 a2 s, State.kept (wrEth a0 a1 a2 s) = State.kept s := by
  intro a0 a1 a2 s; unfold wrEth; simp only [↓kept_ite, ite_self, ↓wrEthKeytab_kept, ↓wrEthQpSel_kept, ↓State.plainWrite_kept, ↓wrEthCfg_kept, ↓wrEthAddr_kept]
theorem wrCcp_kept : ∀ a0 a1 a2 s, State.kept (wrCcp a0 a1 a2 s) = State.kept s := by
  intro a0 a1 a2 s; unfold wrCcp; simp only [↓kept_ite, ite_self, ↓wrCcpCtl_kept, ↓wrCcpClosed_kept, ↓wrCcpLqCtl_kept, ↓wrCcpLqRing_kept, ↓wrCcpLqIdx_kept, ↓State.plainWrite_kept]
theorem wrAud_kept : ∀ a0 a1 a2 s, State.kept (wrAud a0 a1 a2 s) = State.kept s := by
  intro a0 a1 a2 s; unfold wrAud; simp only [↓kept_ite, ite_self, ↓wrAudPll_kept, ↓wrAudGrp_kept, ↓State.plainWrite_kept, ↓wrAudCfg_kept, ↓wrAudClosed_kept]
theorem wrPwr_kept : ∀ a0 a1 a2 s, State.kept (wrPwr a0 a1 a2 s) = State.kept s := by
  intro a0 a1 a2 s; unfold wrPwr; simp only [↓kept_ite, ite_self, ↓wrPwrCtl_kept, ↓wrPwrClksel_kept, ↓wrPwrRail_kept, ↓wrPwrDom_kept, ↓State.plainWrite_kept]
theorem wrThm_kept : ∀ a0 a1 a2 s, State.kept (wrThm a0 a1 a2 s) = State.kept s := by
  intro a0 a1 a2 s; unfold wrThm; simp only [↓kept_ite, ite_self, ↓wrThmMask_kept, ↓wrThmThrottle_kept, ↓State.plainWrite_kept]
theorem wrEvt_kept : ∀ a0 a1 a2 s, State.kept (wrEvt a0 a1 a2 s) = State.kept s := by
  intro a0 a1 a2 s; unfold wrEvt; simp only [↓kept_ite, ite_self, ↓wrEvtClear_kept, ↓wrEvtPost_kept, ↓wrEvtPostData_kept, ↓State.plainWrite_kept]
theorem wrCpu_kept : ∀ a0 a1 a2 s, State.kept (wrCpu a0 a1 a2 s) = State.kept s := by
  intro a0 a1 a2 s; unfold wrCpu; simp only [↓kept_ite, ite_self, ↓wrCpuWdog_kept, ↓wrCoreCtl_kept, ↓State.plainWrite_kept]
theorem wrGpioBlock_kept : ∀ a0 a1 a2 s, State.kept (wrGpioBlock a0 a1 a2 s) = State.kept s := by
  intro a0 a1 a2 s; unfold wrGpioBlock; simp only [↓kept_ite, ite_self, ↓wrGpio_kept, ↓wrGpioTout_kept, ↓State.plainWrite_kept]
theorem State.clearRc_kept : ∀ s a1, State.kept (State.clearRc s a1) = State.kept s := by
  intro s a1; unfold State.clearRc; (repeat' (first | (with_reducible rfl) | split | simp only [↓State.wreg_kept, ↓State.put_kept, ↓State.setClient_kept]))
theorem rdPlain_kept : ∀ a0 a1 s, State.kept (rdPlain a0 a1 s).2 = State.kept s := by
  intro a0 a1 s; unfold rdPlain; simp only [↓State.clearRc_kept]
theorem rdTile_kept (src off : Nat) (s : State) : State.kept (rdTile src off s).2 = s.kept := by
  unfold rdTile
  cases ixPort off with
  | some x => exact IxPort.read_kept _ _
  | none => simp only [snd_ite, kept_ite, rdIngSeqLo_kept, rdPatSeqLo_kept, rdPlain_kept, ite_self]
theorem rdScp_kept : ∀ a0 a1 s, State.kept (rdScp a0 a1 s).2 = State.kept s := by
  intro a0 a1 s; unfold rdScp; simp only [↓kept_ite, ↓snd_ite, ite_self, ↓rdScpBmem_kept, ↓rdScpTfile_kept, ↓rdPlain_kept]
theorem rdTim_kept : ∀ a0 a1 s, State.kept (rdTim a0 a1 s).2 = State.kept s := by
  intro a0 a1 s; unfold rdTim; simp only [↓kept_ite, ↓snd_ite, ite_self, ↓rdTimNowNs_kept, ↓rdCapNs_kept, ↓rdPlain_kept]
theorem rdAud_kept : ∀ a0 a1 s, State.kept (rdAud a0 a1 s).2 = State.kept s := by
  intro a0 a1 s; unfold rdAud; simp only [↓kept_ite, ↓snd_ite, ite_self, ↓rdAudFrameLo_kept, ↓rdPlain_kept]
theorem rdPwr_kept : ∀ a0 a1 s, State.kept (rdPwr a0 a1 s).2 = State.kept s := by
  intro a0 a1 s; unfold rdPwr; simp only [↓kept_ite, ↓snd_ite, ite_self, ↓rdPwrDresLo_kept, ↓rdPwrSresLo_kept, ↓rdPlain_kept]
theorem regRead_kept (src off : Nat) (s : State) : State.kept (regRead src off s).2 = s.kept := by
  unfold regRead
  split
  · exact rdTile_kept _ _ _
  · exact rdTile_kept _ _ _
  · exact rdTile_kept _ _ _
  · exact rdScp_kept _ _ _
  · exact rdTim_kept _ _ _
  · exact rdAud_kept _ _ _
  · exact rdPwr_kept _ _ _
  · split
    · exact rdEvtLastLo_kept _
    · exact rdPlain_kept _ _ _
  · exact rdPlain_kept _ _ _
theorem State.busRead_kept : ∀ s a1 a2 a3, State.kept (State.busRead s a1 a2 a3).2 = State.kept s := by
  intro s a1 a2 a3; unfold State.busRead; simp only [↓kept_ite, ↓snd_ite, ite_self, implies_true, ↓State.guardRead_kept, ↓regRead_kept]
theorem State.busReads_kept : ∀ s a1 a2 a3, State.kept (State.busReads s a1 a2 a3).2 = State.kept s := by
  intro s a1 a2 a3; induction a3 generalizing s a1 a2 with
    | zero => (unfold State.busReads; ((repeat' (first | (with_reducible rfl) | split | simp only [↓kept_mk, ↓kept_evt, ↓kept_ite, ↓snd_ite, ite_self, ↓kept_foldl, ↓kept_when, andThen_cons, andThen_nil, implies_true, kept_mk, kept_evt, ↓State.busRead_kept]))); (all_goals (repeat (rename_i h; first | (have h' := congrArg (fun p => State.kept (Prod.snd p)) h; simp only [↓kept_mk, ↓kept_evt, ↓kept_ite, ↓snd_ite, ite_self, ↓kept_foldl, ↓kept_when, andThen_cons, andThen_nil, implies_true, kept_mk, kept_evt, ↓State.busRead_kept] at h'; clear h; revert h') | clear h | revert h))); all_goals (intros; first | (with_reducible rfl) | (simp only [↓kept_mk, ↓kept_evt, ↓kept_ite, ↓snd_ite, ite_self, ↓kept_foldl, ↓kept_when, andThen_cons, andThen_nil, implies_true, kept_mk, kept_evt, ↓State.busRead_kept]; done) | (simp only [↓kept_mk, ↓kept_evt, ↓kept_ite, ↓snd_ite, ite_self, ↓kept_foldl, ↓kept_when, andThen_cons, andThen_nil, implies_true, kept_mk, kept_evt, ↓State.busRead_kept]; simp only [*]; done) | simp only [*]))
    | succ t0 ih0 => (unfold State.busReads; ((repeat' (first | (with_reducible rfl) | split | simp only))); ((all_goals (repeat (rename_i h; first | (have h' := congrArg (fun p => State.kept (Prod.snd p)) h; simp only [↓State.busRead_kept, ih0] at h'; clear h; revert h') | clear h | revert h))); all_goals (intros; first | (with_reducible rfl) | (simp only [↓kept_mk, ↓kept_evt, ↓kept_ite, ↓snd_ite, ite_self, ↓kept_foldl, ↓kept_when, andThen_cons, andThen_nil, implies_true, kept_mk, kept_evt, ↓State.busRead_kept]; done) | (simp only [↓kept_mk, ↓kept_evt, ↓kept_ite, ↓snd_ite, ite_self, ↓kept_foldl, ↓kept_when, andThen_cons, andThen_nil, implies_true, kept_mk, kept_evt, ↓State.busRead_kept]; simp only [*]; done) | simp only [*])))
theorem doRegRead_kept : ∀ a0 s, State.kept (doRegRead a0 s) = State.kept s := by
  intro a0 s; unfold doRegRead; simp only [↓State.busReads_kept, ↓State.answerHost_kept]

theorem State.setIr_kept : ∀ s a1, State.kept (State.setIr s a1) = State.kept s := by
  intro s a1; unfold State.setIr; simp only [↓kept_mk, ↓kept_ite, ite_self, kept_mk, ↓State.emit_kept]
theorem State.scan_kept (s : State) (code : Nat) (f : State → State) (h : ∀ s, State.kept (f s) = s.kept) : State.kept (s.scan code f) = s.kept := by
  unfold State.scan
  split
  · rw [h]; exact State.setIr_kept _ _
  · rfl
theorem State.boundaryScan_kept : ∀ s a1 a2, State.kept (State.boundaryScan s a1 a2) = State.kept s := by
  intro s a1 a2; unfold State.boundaryScan; simp only [↓kept_mk, kept_mk]
theorem State.driveLands_kept : ∀ s, State.kept (State.driveLands s) = State.kept s := by
  intro s; unfold State.driveLands; simp only [↓State.emit_kept]
theorem State.frozenView_kept : ∀ s a1, State.kept (State.frozenView s a1) = State.kept s := by
  intro s a1; unfold State.frozenView; simp only [↓kept_mk, ↓kept_ite, ite_self, kept_mk]
theorem State.snapData_kept : ∀ s, State.kept (State.snapData s) = State.kept s := by
  intro s; unfold State.snapData; (repeat' (first | (with_reducible rfl) | split | simp only [↓kept_mk, kept_mk, ↓State.takeFree_kept]))
theorem State.drCapture_kept : ∀ s, State.kept (State.drCapture s).2.2 = State.kept s := by
  intro s; unfold State.drCapture; ((repeat' (first | (with_reducible rfl) | split | simp only))); (all_goals (repeat (rename_i h; first | (have h' := congrArg (fun p => State.kept (Prod.snd p)) h; simp only [↓State.takeFree_kept] at h'; clear h; revert h') | clear h | revert h))); all_goals (intros; first | (with_reducible rfl) | (simp only [↓kept_mk, ↓kept_evt, ↓kept_ite, ↓snd_ite, ite_self, ↓kept_foldl, ↓kept_when, andThen_cons, andThen_nil, implies_true, kept_mk, kept_evt, ↓State.access_kept, ↓State.takeFree_kept]; done) | (simp only [↓kept_mk, ↓kept_evt, ↓kept_ite, ↓snd_ite, ite_self, ↓kept_foldl, ↓kept_when, andThen_cons, andThen_nil, implies_true, kept_mk, kept_evt, ↓State.access_kept, ↓State.takeFree_kept]; simp only [*]; done) | simp only [*])
theorem State.memAcc_kept : ∀ s a1 a2 a3 a4, State.kept (State.memAcc s a1 a2 a3 a4) = State.kept s := by
  intro s a1 a2 a3 a4; unfold State.memAcc; simp only [↓kept_mk, ↓kept_ite, ite_self, kept_mk, ↓State.drCapture_kept]
theorem State.memStream_kept : ∀ s, State.kept (State.memStream s) = State.kept s := by
  intro s; unfold State.memStream; simp only [↓kept_mk, ↓kept_ite, ite_self, kept_mk, ↓State.drCapture_kept]
theorem State.debugCells_kept : ∀ s a1 a2, State.kept (State.debugCells s a1 a2).2 = State.kept s := by
  intro s a1 a2; unfold State.debugCells; (repeat' (first | (with_reducible rfl) | split | simp only [↓State.setBytes_kept, ↓State.clearBad_kept]))

end Sys2Proof.Machine
end

