-- ==== Sys2Proof/Laws/KeptCommands.lean ====
section
/-! SUPPORT. Commands that answer a next state with the time counter, the store, the event ring and the queue as they were. -/

namespace Sys2Proof.Machine

set_option maxRecDepth 4000
set_option linter.unusedVariables false

theorem running_kept (s t : State) (h : t.kept = s.kept) : ∃ u, s.running t = .next u ∧ u.kept = s.kept := by
  unfold State.running
  refine ⟨_, rfl, ?_⟩
  split
  · rfl
  · exact h
theorem execAudioPllEnable_kept (v : Word) (src : Nat) (s : State) : ∃ fin, execAudioPllEnable v src s = .next fin ∧ fin.kept = s.kept := by
  unfold execAudioPllEnable; apply running_kept; simp only [implies_true, ↓State.guardWrite_kept, ↓wrAudPll_kept]
theorem execAudioTdmFrame_kept (n : Fin 8) (slots : List Nat) (sachet : Bool) (s : State) : ∃ fin, execAudioTdmFrame n slots sachet s = .next fin ∧ fin.kept = s.kept := by
  unfold execAudioTdmFrame; apply running_kept; simp only [↓State.tdmFrame_kept]
theorem execAudioPortStart_kept (n : Fin 8) (v : Word) (src : Nat) (s : State) : ∃ fin, execAudioPortStart n v src s = .next fin ∧ fin.kept = s.kept := by
  unfold execAudioPortStart; apply running_kept; simp only [implies_true, ↓State.guardWrite_kept, ↓wrAudCfg_kept]
theorem execAudioPortStop_kept (n : Fin 8) (v : Word) (src : Nat) (s : State) : ∃ fin, execAudioPortStop n v src s = .next fin ∧ fin.kept = s.kept := by
  unfold execAudioPortStop; apply running_kept; simp only [implies_true, ↓State.guardWrite_kept, ↓wrAudCfg_kept]
theorem execAudioGroupStart_kept (g : Fin 2) (v : Word) (s : State) : ∃ fin, execAudioGroupStart g v s = .next fin ∧ fin.kept = s.kept := by
  unfold execAudioGroupStart; apply running_kept; simp only [implies_true, ↓State.guardWrite_kept, ↓wrAudGrp_kept]
theorem execAudioGroupStop_kept (g : Fin 2) (v : Word) (s : State) : ∃ fin, execAudioGroupStop g v s = .next fin ∧ fin.kept = s.kept := by
  unfold execAudioGroupStop; apply running_kept; simp only [implies_true, ↓State.guardWrite_kept, ↓wrAudGrp_kept]
theorem execAudioMaskWrite_kept (n : Fin 8) (tx : Bool) (v : Word) (src : Nat) (s : State) : ∃ fin, execAudioMaskWrite n tx v src s = .next fin ∧ fin.kept = s.kept := by
  unfold execAudioMaskWrite; apply running_kept; simp only [implies_true, ↓State.guardWrite_kept, ↓State.plainWrite_kept]
theorem execAudioTxSubmit_kept (n : Fin 8) (widx : Half) (src : Nat) (s : State) : ∃ fin, execAudioTxSubmit n widx src s = .next fin ∧ fin.kept = s.kept := by
  unfold execAudioTxSubmit; apply running_kept; simp only [implies_true, ↓State.guardWrite_kept, ↓State.plainWrite_kept]
theorem execAudioFrameLoRead_kept (n : Fin 8) (s : State) : ∃ fin, execAudioFrameLoRead n s = .next fin ∧ fin.kept = s.kept := by
  unfold execAudioFrameLoRead; apply running_kept; simp only [implies_true, ↓State.answer_kept, ↓State.guardRead_kept, ↓rdAudFrameLo_kept]
theorem execAudioStreamSet_kept (st : Fin 16) (s : State) : ∃ fin, execAudioStreamSet st s = .next fin ∧ fin.kept = s.kept := by
  unfold execAudioStreamSet; apply running_kept; simp only [↓State.streamSet_kept]
theorem execSachetRequest_kept (cls : Fin 7) (chan : Nat) (s : State) : ∃ fin, execSachetRequest cls chan s = .next fin ∧ fin.kept = s.kept := by
  unfold execSachetRequest; apply running_kept; simp only [↓State.sachetRequest_kept]
theorem execVceCfgWrite_kept (src : Nat) (v : Word) (s : State) : ∃ fin, execVceCfgWrite src v s = .next fin ∧ fin.kept = s.kept := by
  unfold execVceCfgWrite; apply running_kept; simp only [implies_true, ↓State.guardWrite_kept, ↓wrVceCfg_kept]
theorem execVceOpen_kept (n : Fin 32) (s : State) : ∃ fin, execVceOpen n s = .next fin ∧ fin.kept = s.kept := by
  unfold execVceOpen; apply running_kept; simp only [implies_true, ↓State.guardWrite_kept, ↓wrVceCtrl_kept]
theorem execVceClose_kept (n : Fin 32) (s : State) : ∃ fin, execVceClose n s = .next fin ∧ fin.kept = s.kept := by
  unfold execVceClose; apply running_kept; simp only [implies_true, ↓State.guardWrite_kept, ↓wrVceCtrl_kept]
theorem execVceReload_kept (n : Fin 32) (s : State) : ∃ fin, execVceReload n s = .next fin ∧ fin.kept = s.kept := by
  unfold execVceReload; apply running_kept; simp only [implies_true, ↓State.guardWrite_kept, ↓wrVceCtrl_kept]
theorem execForceIrap_kept (n : Fin 32) (s : State) : ∃ fin, execForceIrap n s = .next fin ∧ fin.kept = s.kept := by
  unfold execForceIrap; apply running_kept; simp only [implies_true, ↓State.guardWrite_kept, ↓wrVceCtrl_kept]
theorem execVceFlush_kept (n : Fin 32) (s : State) : ∃ fin, execVceFlush n s = .next fin ∧ fin.kept = s.kept := by
  unfold execVceFlush; apply running_kept; simp only [implies_true, ↓State.guardWrite_kept, ↓wrVceCtrl_kept]
theorem execEncodeCandidate_kept (n : Fin 32) (s : State) : ∃ fin, execEncodeCandidate n s = .next fin ∧ fin.kept = s.kept := by
  unfold execEncodeCandidate; apply running_kept; simp only [↓State.encodeCandidate_kept]
theorem execDecodeJobTake_kept (n : Fin 32) (s : State) : ∃ fin, execDecodeJobTake n s = .next fin ∧ fin.kept = s.kept := by
  unfold execDecodeJobTake; apply running_kept; simp only [↓State.decodeJobTake_kept]
theorem execPictureStart_kept (pix : Nat) (s : State) : ∃ fin, execPictureStart pix s = .next fin ∧ fin.kept = s.kept := by
  unfold execPictureStart; apply running_kept; simp only [↓State.pictureStart_kept]
theorem execPicturePreempt_kept (s : State) : ∃ fin, execPicturePreempt s = .next fin ∧ fin.kept = s.kept := by
  unfold execPicturePreempt; apply running_kept; simp only [↓State.picturePreempt_kept]
theorem execPictureDone_kept (n : Fin 32) (res : CodecOut) (s : State) : ∃ fin, execPictureDone n res s = .next fin ∧ fin.kept = s.kept := by
  unfold execPictureDone; apply running_kept; simp only [↓State.pictureDone_kept]
theorem execBitstreamSpaceFree_kept (n : Fin 32) (s : State) : ∃ fin, execBitstreamSpaceFree n s = .next fin ∧ fin.kept = s.kept := by
  unfold execBitstreamSpaceFree; apply running_kept; simp only [↓kept_ite, ite_self, ↓State.vceRefresh_kept]
theorem execSachetRelease_kept (sachet : Fin 12288) (s : State) : ∃ fin, execSachetRelease sachet s = .next fin ∧ fin.kept = s.kept := by
  unfold execSachetRelease; apply running_kept; simp only [↓State.sachetRelease_kept, ↓State.vceChains_kept]
theorem execOutputSlotFree_kept (n : Fin 32) (s : State) : ∃ fin, execOutputSlotFree n s = .next fin ∧ fin.kept = s.kept := by
  unfold execOutputSlotFree; apply running_kept; simp only [↓State.outputSlotFree_kept]
theorem execScpImmediate_kept (p : Fin 4) (v : Word) (s : State) : ∃ fin, execScpImmediate p v s = .next fin ∧ fin.kept = s.kept := by
  unfold execScpImmediate; apply running_kept; simp only [implies_true, ↓State.guardWrite_kept, ↓wrScpCmdctl_kept]
theorem execScpTransactionDone_kept (p : Fin 4) (ack : Bool) (rdata : Half) (s : State) : ∃ fin, execScpTransactionDone p ack rdata s = .next fin ∧ fin.kept = s.kept := by
  unfold execScpTransactionDone; apply running_kept; simp only [↓State.immEnds_kept]
theorem execScpBurstRelease_kept (p : Fin 4) (s : State) : ∃ fin, execScpBurstRelease p s = .next fin ∧ fin.kept = s.kept := by
  unfold execScpBurstRelease; apply running_kept; simp only [↓State.releaseDue_kept]
theorem execScpBurstArm_kept (p : Fin 4) (k : Fin 4) (v : Word) (s : State) : ∃ fin, execScpBurstArm p k v s = .next fin ∧ fin.kept = s.kept := by
  unfold execScpBurstArm; apply running_kept; simp only [implies_true, ↓State.guardWrite_kept, ↓wrScpBdesc_kept]
theorem execScpBurstDisarm_kept (p : Fin 4) (k : Fin 4) (v : Word) (s : State) : ∃ fin, execScpBurstDisarm p k v s = .next fin ∧ fin.kept = s.kept := by
  unfold execScpBurstDisarm; apply running_kept; simp only [implies_true, ↓State.guardWrite_kept, ↓wrScpBdesc_kept]
theorem execScpBurstEntryDone_kept (p : Fin 4) (ack : Bool) (s : State) : ∃ fin, execScpBurstEntryDone p ack s = .next fin ∧ fin.kept = s.kept := by
  unfold execScpBurstEntryDone; apply running_kept; simp only [↓State.entryEnds_kept]
theorem execScpStretchTimeout_kept (p : Fin 4) (s : State) : ∃ fin, execScpStretchTimeout p s = .next fin ∧ fin.kept = s.kept := by
  unfold execScpStretchTimeout; apply running_kept; (repeat' (first | (with_reducible rfl) | split | simp only [↓State.immEnds_kept, ↓State.entryEnds_kept]))
theorem execScpBmemAccess_kept (p : Fin 4) (w : Option Word) (s : State) : ∃ fin, execScpBmemAccess p w s = .next fin ∧ fin.kept = s.kept := by
  unfold execScpBmemAccess; apply running_kept; simp only [implies_true, ↓State.access_kept, ↓rdScpBmem_kept, ↓wrScpBmem_kept]
theorem execScpTfileAccess_kept (p : Fin 4) (w : Option Word) (s : State) : ∃ fin, execScpTfileAccess p w s = .next fin ∧ fin.kept = s.kept := by
  unfold execScpTfileAccess; apply running_kept; simp only [implies_true, ↓State.access_kept, ↓rdScpTfile_kept, ↓wrScpTfile_kept]
theorem execScpTargetRead_kept (p : Fin 4) (addr : Byte × Option Half) (s : State) : ∃ fin, execScpTargetRead p addr s = .next fin ∧ fin.kept = s.kept :=
  running_kept _ _ (State.targetAccess_kept _ _ _ _ _ _ (fun n => State.targetRead_kept _ _ _))
theorem execScpTargetWrite_kept (p : Fin 4) (addr : Byte × Option Half) (data : Half) (s : State) : ∃ fin, execScpTargetWrite p addr data s = .next fin ∧ fin.kept = s.kept :=
  running_kept _ _ (State.targetAccess_kept _ _ _ _ _ _ (fun n => State.targetWrite_kept _ _ _ _))
theorem execStatsFrameEnd_kept (t : Fin 4) (fits : Nat) (s : State) : ∃ fin, execStatsFrameEnd t fits s = .next fin ∧ fin.kept = s.kept := by
  unfold execStatsFrameEnd; apply running_kept; simp only [↓State.statsFrameEnd_kept]
theorem execStatsRecordWritten_kept (t : Fin 4) (s : State) : ∃ fin, execStatsRecordWritten t s = .next fin ∧ fin.kept = s.kept := by
  unfold execStatsRecordWritten; apply running_kept; simp only [↓State.statsRecordWritten_kept]
theorem execBFrameStore_kept (t : Fin 4) (s : State) : ∃ fin, execBFrameStore t s = .next fin ∧ fin.kept = s.kept := by
  unfold execBFrameStore; apply running_kept; simp only [↓State.bFrameStore_kept]
theorem execAnalysisPairing_kept (t : Fin 4) (s : State) : ∃ fin, execAnalysisPairing t s = .next fin ∧ fin.kept = s.kept := by
  unfold execAnalysisPairing; apply running_kept; simp only [↓State.tryPair_kept]
theorem execAnalysisWaitTimeout_kept (t : Fin 4) (s : State) : ∃ fin, execAnalysisWaitTimeout t s = .next fin ∧ fin.kept = s.kept := by
  unfold execAnalysisWaitTimeout; apply running_kept; simp only [↓State.tryPair_kept]
theorem execAnalysisFrameEnd_kept (t : Fin 4) (s : State) : ∃ fin, execAnalysisFrameEnd t s = .next fin ∧ fin.kept = s.kept := by
  unfold execAnalysisFrameEnd; apply running_kept; simp only [↓State.analysisFrameEnd_kept]
theorem execAnalysisRecordWritten_kept (t : Fin 4) (s : State) : ∃ fin, execAnalysisRecordWritten t s = .next fin ∧ fin.kept = s.kept := by
  unfold execAnalysisRecordWritten; apply running_kept; simp only [↓State.analysisRecordWritten_kept]
theorem execCmxBFrameStore_kept (t : Fin 4) (s : State) : ∃ fin, execCmxBFrameStore t s = .next fin ∧ fin.kept = s.kept := by
  unfold execCmxBFrameStore; apply running_kept; simp only [↓State.cmxBFrameStore_kept]
theorem execOpkFrameWrite_kept (t : Fin 4) (s : State) : ∃ fin, execOpkFrameWrite t s = .next fin ∧ fin.kept = s.kept := by
  unfold execOpkFrameWrite; apply running_kept; simp only [↓State.opkFrameWrite_kept]
theorem execOpkBufferRecord_kept (t : Fin 4) (s : State) : ∃ fin, execOpkBufferRecord t s = .next fin ∧ fin.kept = s.kept := by
  unfold execOpkBufferRecord; apply running_kept; simp only [↓State.opkBufferRecord_kept]
theorem execTileSofArrive_kept (t : Fin 48) (s : State) : ∃ fin, execTileSofArrive t s = .next fin ∧ fin.kept = s.kept := by
  unfold execTileSofArrive; apply running_kept; simp only [↓State.tileSofArrive_kept]
theorem execFrameEndAtRoot_kept (b : Fin 16) (s : State) : ∃ fin, execFrameEndAtRoot b s = .next fin ∧ fin.kept = s.kept := by
  unfold execFrameEndAtRoot; apply running_kept; simp only [↓State.frameEndAtRoot_kept]
theorem execFabCommit_kept (src : Nat) (v : Word) (s : State) : ∃ fin, execFabCommit src v s = .next fin ∧ fin.kept = s.kept := by
  unfold execFabCommit; apply running_kept; simp only [implies_true, ↓State.guardWrite_kept, ↓wrFabCommit_kept]
theorem execCommitFetchDone_kept (b : Fin 16) (s : State) : ∃ fin, execCommitFetchDone b s = .next fin ∧ fin.kept = s.kept := by
  unfold execCommitFetchDone; apply running_kept; simp only [↓State.commitFetchDone_kept]
theorem execRootSofEmit_kept (b : Fin 16) (s : State) : ∃ fin, execRootSofEmit b s = .next fin ∧ fin.kept = s.kept := by
  unfold execRootSofEmit; apply running_kept; simp only [↓State.rootSofEmit_kept]
theorem execQueueArbitration_kept (b : Fin 16) (s : State) : ∃ fin, execQueueArbitration b s = .next fin ∧ fin.kept = s.kept := by
  unfold execQueueArbitration; apply running_kept; (repeat' (first | (with_reducible rfl) | split | simp only [↓State.arbitrate_kept]))
theorem execStripeBoundary_kept (b : Fin 16) (s : State) : ∃ fin, execStripeBoundary b s = .next fin ∧ fin.kept = s.kept := by
  unfold execStripeBoundary; apply running_kept; (repeat' (first | (with_reducible rfl) | split | simp only [↓State.stripeBoundary_kept]))
theorem execPlaybackWidxWrite_kept (t : Fin 4) (v : Word) (src : Nat) (s : State) : ∃ fin, execPlaybackWidxWrite t v src s = .next fin ∧ fin.kept = s.kept := by
  unfold execPlaybackWidxWrite; apply running_kept; simp only [implies_true, ↓State.guardWrite_kept, ↓wrIngPbWidx_kept]
theorem execPlaybackDescriptorTake_kept (t : Fin 4) (s : State) : ∃ fin, execPlaybackDescriptorTake t s = .next fin ∧ fin.kept = s.kept := by
  unfold execPlaybackDescriptorTake; apply running_kept; simp only [↓State.playbackStart_kept]
theorem execPatternStartInstant_kept (t : Fin 2) (s : State) : ∃ fin, execPatternStartInstant t s = .next fin ∧ fin.kept = s.kept := by
  unfold execPatternStartInstant; apply running_kept; simp only [↓kept_ite, ite_self, ↓State.patternStart_kept]
theorem execIngSeqLoRead_kept (t : Fin 4) (s : State) : ∃ fin, execIngSeqLoRead t s = .next fin ∧ fin.kept = s.kept := by
  unfold execIngSeqLoRead; apply running_kept; simp only [implies_true, ↓State.answer_kept, ↓State.guardRead_kept, ↓rdIngSeqLo_kept]
theorem execRwcSiteGainAccess_kept (t : Fin 4) (ctx : Fin 2) (w : Option Word) (s : State) : ∃ fin, execRwcSiteGainAccess t ctx w s = .next fin ∧ fin.kept = s.kept := by
  unfold execRwcSiteGainAccess; apply running_kept; simp only [↓State.indexAccess_kept]
theorem execSynSiteGainAccess_kept (t : Fin 4) (ctx : Fin 2) (w : Option Word) (s : State) : ∃ fin, execSynSiteGainAccess t ctx w s = .next fin ∧ fin.kept = s.kept := by
  unfold execSynSiteGainAccess; apply running_kept; simp only [↓State.indexAccess_kept]
theorem execColCoefDataAccess_kept (t : Fin 8) (ctx : Fin 2) (w : Option Word) (s : State) : ∃ fin, execColCoefDataAccess t ctx w s = .next fin ∧ fin.kept = s.kept := by
  unfold execColCoefDataAccess; apply running_kept; simp only [↓State.indexAccess_kept]
theorem execSynCoefDataAccess_kept (t : Fin 4) (ctx : Fin 2) (w : Option Word) (s : State) : ∃ fin, execSynCoefDataAccess t ctx w s = .next fin ∧ fin.kept = s.kept := by
  unfold execSynCoefDataAccess; apply running_kept; simp only [↓State.indexAccess_kept]
theorem execIdleColumn_kept (p : Fin 2) (col : List (BitVec 2 × BitVec 64)) (s : State) : ∃ fin, execIdleColumn p col s = .next fin ∧ fin.kept = s.kept := by
  unfold execIdleColumn; apply running_kept; simp only [↓kept_ite, ite_self, ↓State.bumpBy_kept]
theorem execAlignColumn_kept (p : Fin 2) (col : List (Nat × Nat)) (gap : Nat) (s : State) : ∃ fin, execAlignColumn p col gap s = .next fin ∧ fin.kept = s.kept := by
  unfold execAlignColumn; apply running_kept; simp only [↓State.alignColumn_kept]
theorem execXsColumn_kept (p : Fin 2) (num : BitVec 24) (s : State) : ∃ fin, execXsColumn p num s = .next fin ∧ fin.kept = s.kept := by
  unfold execXsColumn; apply running_kept; simp only [↓State.xsColumn_kept]
theorem execCapPacket_kept (p : Fin 2) (mask : BitVec 3) (selected : BitVec 2) (crcOk : Bool) (s : State) : ∃ fin, execCapPacket p mask selected crcOk s = .next fin ∧ fin.kept = s.kept := by
  unfold execCapPacket; apply running_kept; simp only [↓State.capPacket_kept]
theorem execFsPacket_kept (p : Fin 2) (num : Word) (sgen : Half) (w : Half) (h : Half) (depth : Byte) (crcOk : Bool) (s : State) : ∃ fin, execFsPacket p num sgen w h depth crcOk s = .next fin ∧ fin.kept = s.kept := by
  unfold execFsPacket; apply running_kept; simp only [↓State.fsPacket_kept]
theorem execLdPacket_kept (p : Fin 2) (num : Word) (sgen : Half) (payload : List Byte) (crcOk : Bool) (fits : Bool) (s : State) : ∃ fin, execLdPacket p num sgen payload crcOk fits s = .next fin ∧ fin.kept = s.kept := by
  unfold execLdPacket; apply running_kept; simp only [↓State.ldPacket_kept]
theorem execFePacket_kept (p : Fin 2) (crcOk : Bool) (s : State) : ∃ fin, execFePacket p crcOk s = .next fin ∧ fin.kept = s.kept := by
  unfold execFePacket; apply running_kept; simp only [↓State.fePacket_kept]
theorem execMdPacket_kept (p : Fin 2) (payload : List Byte) (crcOk : Bool) (s : State) : ∃ fin, execMdPacket p payload crcOk s = .next fin ∧ fin.kept = s.kept := by
  unfold execMdPacket; apply running_kept; simp only [↓State.mdPacket_kept]
theorem execRawCodeWord_kept (p : Fin 2) (code : List Half × Half) (lanes : Nat) (words : List (List Nat)) (fits : Bool) (s : State) : ∃ fin, execRawCodeWord p code lanes words fits s = .next fin ∧ fin.kept = s.kept := by
  unfold execRawCodeWord; apply running_kept; simp only [↓State.rawCode_kept]
theorem execCapSend_kept (p : Fin 2) (s : State) : ∃ fin, execCapSend p s = .next fin ∧ fin.kept = s.kept := by
  unfold execCapSend; apply running_kept; simp only [↓State.capSend_kept]
theorem execNegTimeout_kept (p : Fin 2) (s : State) : ∃ fin, execNegTimeout p s = .next fin ∧ fin.kept = s.kept := by
  unfold execNegTimeout; apply running_kept; simp only [↓kept_ite, ite_self, ↓State.txSelect_kept]
theorem execAlignSend_kept (p : Fin 2) (s : State) : ∃ fin, execAlignSend p s = .next fin ∧ fin.kept = s.kept := by
  unfold execAlignSend; apply running_kept; simp only [↓State.alignSend_kept]
theorem execEmuExposureStart_kept (p : Fin 2) (s : State) : ∃ fin, execEmuExposureStart p s = .next fin ∧ fin.kept = s.kept := by
  unfold execEmuExposureStart; apply running_kept; simp only [↓State.emuExposure_kept]
theorem execVsyncPulseEnd_kept (p : Fin 2) (s : State) : ∃ fin, execVsyncPulseEnd p s = .next fin ∧ fin.kept = s.kept := by
  unfold execVsyncPulseEnd; apply running_kept; simp only [↓State.vsyncEnd_kept]
theorem execHsyncPulse_kept (p : Fin 2) (s : State) : ∃ fin, execHsyncPulse p s = .next fin ∧ fin.kept = s.kept := by
  unfold execHsyncPulse; apply running_kept; simp only [↓State.hsyncPulse_kept]
theorem execVsyncInputEdge_kept (p : Fin 2) (s : State) : ∃ fin, execVsyncInputEdge p s = .next fin ∧ fin.kept = s.kept := by
  unfold execVsyncInputEdge; apply running_kept; simp only [↓State.vsyncEdge_kept]
theorem execEmuFsSend_kept (p : Fin 2) (s : State) : ∃ fin, execEmuFsSend p s = .next fin ∧ fin.kept = s.kept := by
  unfold execEmuFsSend; apply running_kept; simp only [↓State.emuFs_kept]
theorem execTxLine_kept (p : Fin 2) (s : State) : ∃ fin, execTxLine p s = .next fin ∧ fin.kept = s.kept := by
  unfold execTxLine; apply running_kept; simp only [↓State.txLine_kept]
theorem execEmuLinePace_kept (p : Fin 2) (s : State) : ∃ fin, execEmuLinePace p s = .next fin ∧ fin.kept = s.kept := by
  unfold execEmuLinePace; apply running_kept; simp only [↓State.linePace_kept]
theorem execLinkHalfEnable_kept (p : Fin 2) (tx : Bool) (v : Word) (src : Nat) (s : State) : ∃ fin, execLinkHalfEnable p tx v src s = .next fin ∧ fin.kept = s.kept := by
  unfold execLinkHalfEnable; apply running_kept; simp only [↓State.halfWrite_kept]
theorem execLinkHalfDisable_kept (p : Fin 2) (tx : Bool) (v : Word) (src : Nat) (s : State) : ∃ fin, execLinkHalfDisable p tx v src s = .next fin ∧ fin.kept = s.kept := by
  unfold execLinkHalfDisable; apply running_kept; simp only [↓State.halfWrite_kept]
theorem execFomUpdate_kept (l : Fin 96) (centre : Bool) (w h : Nat × Nat) (taps : List Byte) (ofs : Byte) (s : State) : ∃ fin, execFomUpdate l centre w h taps ofs s = .next fin ∧ fin.kept = s.kept := by
  unfold execFomUpdate; apply running_kept; simp only [↓State.fomUpdate_kept]
theorem execLaneEnterLink_kept (l : Fin 96) (s : State) : ∃ fin, execLaneEnterLink l s = .next fin ∧ fin.kept = s.kept := by
  unfold execLaneEnterLink; apply running_kept; simp only [↓State.laneEnter_kept]
theorem execCdrLock_kept (l : Fin 96) (s : State) : ∃ fin, execCdrLock l s = .next fin ∧ fin.kept = s.kept := by
  unfold execCdrLock; apply running_kept; simp only [↓kept_ite, ite_self, ↓State.put_kept, ↓State.setLane_kept]
theorem execInitialAdaptationDone_kept (l : Fin 96) (a : AdaptOut) (s : State) : ∃ fin, execInitialAdaptationDone l a s = .next fin ∧ fin.kept = s.kept := by
  unfold execInitialAdaptationDone; apply running_kept; simp only [↓kept_ite, ite_self, ↓State.adaptEnds_kept]
theorem execAdaptationRetryTimeout_kept (l : Fin 96) (s : State) : ∃ fin, execAdaptationRetryTimeout l s = .next fin ∧ fin.kept = s.kept := by
  unfold execAdaptationRetryTimeout; apply running_kept; simp only [↓kept_ite, ite_self, ↓State.setLane_kept]
theorem execRecalInService_kept (l : Fin 96) (s : State) : ∃ fin, execRecalInService l s = .next fin ∧ fin.kept = s.kept := by
  unfold execRecalInService; apply running_kept; simp only [implies_true, ↓State.guardWrite_kept, ↓wrLnkRecal_kept]
theorem execRecalOutOfService_kept (l : Fin 96) (s : State) : ∃ fin, execRecalOutOfService l s = .next fin ∧ fin.kept = s.kept := by
  unfold execRecalOutOfService; apply running_kept; simp only [implies_true, ↓State.guardWrite_kept, ↓wrLnkRecal_kept]
theorem execRecalDone_kept (l : Fin 96) (before : Byte) (a : AdaptOut) (s : State) : ∃ fin, execRecalDone l before a s = .next fin ∧ fin.kept = s.kept := by
  unfold execRecalDone; apply running_kept; simp only [↓State.recalDone_kept]
theorem execLolRetrainTimeout_kept (l : Fin 96) (s : State) : ∃ fin, execLolRetrainTimeout l s = .next fin ∧ fin.kept = s.kept := by
  unfold execLolRetrainTimeout; apply running_kept; simp only [↓State.lolTimeout_kept]
theorem execLnkRefcfgWrite_kept (v : Word) (src : Nat) (s : State) : ∃ fin, execLnkRefcfgWrite v src s = .next fin ∧ fin.kept = s.kept := by
  unfold execLnkRefcfgWrite; apply running_kept; simp only [implies_true, ↓State.guardWrite_kept, ↓wrLnkRefcfg_kept]
theorem execLinkReferenceLost_kept (s : State) : ∃ fin, execLinkReferenceLost s = .next fin ∧ fin.kept = s.kept := by
  unfold execLinkReferenceLost; apply running_kept; simp only [↓kept_ite, ite_self, ↓State.put_kept, ↓State.post_kept]
theorem execLinkReferenceRestored_kept (s : State) : ∃ fin, execLinkReferenceRestored s = .next fin ∧ fin.kept = s.kept := by
  unfold execLinkReferenceRestored; apply running_kept; simp only [↓kept_ite, ite_self, ↓kept_foldl, implies_true, ↓State.refReturns_kept, ↓State.put_kept]
theorem execBitSlip_kept (l : Fin 96) (s : State) : ∃ fin, execBitSlip l s = .next fin ∧ fin.kept = s.kept := by
  unfold execBitSlip; apply running_kept; simp only [implies_true, ↓State.guardWrite_kept, ↓wrLnkSlip_kept]
theorem execSlipApplied_kept (l : Fin 96) (s : State) : ∃ fin, execSlipApplied l s = .next fin ∧ fin.kept = s.kept := by
  unfold execSlipApplied; apply running_kept; simp only [↓State.slipApplied_kept]
theorem execPrbsCheckLock_kept (l : Fin 96) (bits : List Bool) (s : State) : ∃ fin, execPrbsCheckLock l bits s = .next fin ∧ fin.kept = s.kept := by
  unfold execPrbsCheckLock; apply running_kept; simp only [↓State.prbsCheck_kept]
theorem execNvsWrite_kept (src addr : Nat) (data : BitVec 64) (wide : Bool) (s : State) : ∃ fin, execNvsWrite src addr data wide s = .next fin ∧ fin.kept = s.kept := by
  unfold execNvsWrite; apply running_kept; simp only [↓State.nvsWrite_kept]
theorem execDrcMapApply_kept (v : Word) (s : State) : ∃ fin, execDrcMapApply v s = .next fin ∧ fin.kept = s.kept := by
  unfold execDrcMapApply; apply running_kept; simp only [implies_true, ↓State.guardWrite_kept, ↓State.wrDrcMapctl_kept]
theorem execDrcInit_kept (ch : Fin 8) (s : State) : ∃ fin, execDrcInit ch s = .next fin ∧ fin.kept = s.kept := by
  unfold execDrcInit; apply running_kept; simp only [↓State.drcInit_kept]
theorem execDrcInitResume_kept (ch : Fin 8) (s : State) : ∃ fin, execDrcInitResume ch s = .next fin ∧ fin.kept = s.kept := by
  unfold execDrcInitResume; apply running_kept; simp only [↓State.drcInit_kept]
theorem execDrcRetrainShort_kept (ch : Fin 8) (s : State) : ∃ fin, execDrcRetrainShort ch s = .next fin ∧ fin.kept = s.kept := by
  unfold execDrcRetrainShort; apply running_kept; simp only [↓State.drcRetrain_kept]
theorem execDrcRetrainFull_kept (ch : Fin 8) (s : State) : ∃ fin, execDrcRetrainFull ch s = .next fin ∧ fin.kept = s.kept := by
  unfold execDrcRetrainFull; apply running_kept; simp only [↓State.drcRetrain_kept]
theorem execDrcTrainDone_kept (ch err : Fin 8) (s : State) : ∃ fin, execDrcTrainDone ch err s = .next fin ∧ fin.kept = s.kept := by
  unfold execDrcTrainDone; apply running_kept; simp only [↓State.trainDone_kept]
theorem execShortRetrainDue_kept (x : Fin 16) (s : State) : ∃ fin, execShortRetrainDue x s = .next fin ∧ fin.kept = s.kept := by
  unfold execShortRetrainDue; apply running_kept; simp only [↓State.dueShort_kept]
theorem execShortRetrainDone_kept (s : State) : ∃ fin, execShortRetrainDone s = .next fin ∧ fin.kept = s.kept := by
  unfold execShortRetrainDone; apply running_kept; simp only [↓State.shortDone_kept]
theorem execDramRequest_kept (client : Fin 32) (addr : Nat) (write : Bool) (data : List Byte) (mask : BitVec 64) (reads : Bool)
    (s : State) : ∃ fin, execDramRequest client addr write data mask reads s = .next fin ∧ fin.kept = s.kept := by
  unfold execDramRequest; apply running_kept; simp only [↓State.dramSubmit_kept]
theorem execAlertNAssert_kept (ch : Fin 8) (s : State) : ∃ fin, execAlertNAssert ch s = .next fin ∧ fin.kept = s.kept := by
  unfold execAlertNAssert; apply running_kept; simp only [↓State.bump_kept, ↓State.post_kept, ↓State.dueBoth_kept]
theorem execDramTempRead_kept (ch : Fin 8) (temps : List (Option Int)) (s : State) : ∃ fin, execDramTempRead ch temps s = .next fin ∧ fin.kept = s.kept := by
  unfold execDramTempRead; apply running_kept; simp only [↓State.readDevices_kept, ↓State.rebandChannel_kept]
theorem execRefreshDue_kept (rank : Fin 32) (postpone : Bool) (s : State) : ∃ fin, execRefreshDue rank postpone s = .next fin ∧ fin.kept = s.kept := by
  unfold execRefreshDue; apply running_kept; simp only [↓kept_mk, ↓kept_ite, ite_self, kept_mk, ↓State.refreshRank_kept]
theorem execPageAutoTimeout_kept (bank : Fin 512) (s : State) : ∃ fin, execPageAutoTimeout bank s = .next fin ∧ fin.kept = s.kept := by
  unfold execPageAutoTimeout; apply running_kept; (repeat' (first | (with_reducible rfl) | split | simp only [↓State.closeRows_kept]))
theorem execSelfRefreshEntry_kept (ch : Fin 8) (s : State) : ∃ fin, execSelfRefreshEntry ch s = .next fin ∧ fin.kept = s.kept := by
  unfold execSelfRefreshEntry; apply running_kept; simp only [↓kept_ite, ite_self, ↓State.selfRefresh_kept]
theorem execSteepBoundary_kept (s : State) : ∃ fin, execSteepBoundary s = .next fin ∧ fin.kept = s.kept := by
  unfold execSteepBoundary; apply running_kept; simp only [↓kept_ite, ite_self, ↓State.steepEnd_kept, ↓State.steepBegin_kept]
theorem execRocePacketReceive_kept (p : Fin 2) (pkt : RocePkt) (s : State) : ∃ fin, execRocePacketReceive p pkt s = .next fin ∧ fin.kept = s.kept := by
  unfold execRocePacketReceive; apply running_kept; simp only [↓State.ethFlush_kept, ↓State.roceReceive_kept]
theorem execRoceRetryTimeout_kept (qp : Fin 64) (s : State) : ∃ fin, execRoceRetryTimeout qp s = .next fin ∧ fin.kept = s.kept := by
  unfold execRoceRetryTimeout; apply running_kept; simp only [↓State.ethFlush_kept, ↓State.roceRetry_kept]
theorem execRoceRnrTimeout_kept (qp : Fin 64) (s : State) : ∃ fin, execRoceRnrTimeout qp s = .next fin ∧ fin.kept = s.kept := by
  unfold execRoceRnrTimeout; apply running_kept; simp only [↓State.ethFlush_kept, ↓State.roceRnrRetry_kept]
theorem execQpKill_kept (v : Word) (src : Nat) (s : State) : ∃ fin, execQpKill v src s = .next fin ∧ fin.kept = s.kept := by
  unfold execQpKill; apply running_kept; simp only [implies_true, ↓State.guardWrite_kept, ↓wrEthQpSel_kept]
theorem execTimeIncWrite_kept (hi : Bool) (v : Word) (src : Nat) (s : State) : ∃ fin, execTimeIncWrite hi v src s = .next fin ∧ fin.kept = s.kept := by
  unfold execTimeIncWrite; apply running_kept; simp only [implies_true, ↓State.guardWrite_kept, ↓State.plainWrite_kept]
theorem execTimeNowRead_kept (s : State) : ∃ fin, execTimeNowRead s = .next fin ∧ fin.kept = s.kept := by
  unfold execTimeNowRead; apply running_kept; simp only [implies_true, ↓State.answer_kept, ↓State.guardRead_kept, ↓rdTimNowNs_kept]
theorem execTimeSlew_kept (v : Word) (_src : Nat) (s : State) : ∃ fin, execTimeSlew v _src s = .next fin ∧ fin.kept = s.kept := by
  unfold execTimeSlew; apply running_kept; simp only [implies_true, ↓State.guardWrite_kept, ↓wrTimSlew_kept]
theorem execTriggerArm_kept (k : Fin 16) (v : Word) (s : State) : ∃ fin, execTriggerArm k v s = .next fin ∧ fin.kept = s.kept := by
  unfold execTriggerArm; apply running_kept; simp only [implies_true, ↓State.guardWrite_kept, ↓wrTrgCfg_kept]
theorem execTriggerDisarm_kept (k : Fin 16) (v : Word) (s : State) : ∃ fin, execTriggerDisarm k v s = .next fin ∧ fin.kept = s.kept := by
  unfold execTriggerDisarm; apply running_kept; simp only [implies_true, ↓State.guardWrite_kept, ↓wrTrgCfg_kept]
theorem execTriggerFire_kept (k : Fin 16) (s : State) : ∃ fin, execTriggerFire k s = .next fin ∧ fin.kept = s.kept := by
  unfold execTriggerFire; apply running_kept; simp only [↓State.trgFire_kept]
theorem execTrigOutPulseEnd_kept (n : Fin 8) (s : State) : ∃ fin, execTrigOutPulseEnd n s = .next fin ∧ fin.kept = s.kept := by
  unfold execTrigOutPulseEnd; apply running_kept; simp only [↓State.toutEnd_kept]
theorem execCaptureEdge_kept (j : Fin 11) (rising : Bool) (s : State) : ∃ fin, execCaptureEdge j rising s = .next fin ∧ fin.kept = s.kept := by
  unfold execCaptureEdge; apply running_kept; simp only [↓State.captureEdge_kept]
theorem execCaptureNsRead_kept (j : Fin 11) (s : State) : ∃ fin, execCaptureNsRead j s = .next fin ∧ fin.kept = s.kept := by
  unfold execCaptureNsRead; apply running_kept; simp only [implies_true, ↓State.answer_kept, ↓State.guardRead_kept, ↓rdCapNs_kept]
theorem execPpsOutRise_kept (s : State) : ∃ fin, execPpsOutRise s = .next fin ∧ fin.kept = s.kept := by
  unfold execPpsOutRise; apply running_kept; simp only [↓kept_ite, ite_self, ↓State.setPps_kept]
theorem execPpsOutFall_kept (s : State) : ∃ fin, execPpsOutFall s = .next fin ∧ fin.kept = s.kept := by
  unfold execPpsOutFall; apply running_kept; simp only [↓State.setPps_kept]
theorem execPtpReceive_kept (p : Fin 2) (frame : List Byte) (s : State) : ∃ fin, execPtpReceive p frame s = .next fin ∧ fin.kept = s.kept := by
  unfold execPtpReceive; apply running_kept; simp only [↓State.ptpReceive_kept]
theorem execPtpTxSubmit_kept (widx : Half) (src : Nat) (s : State) : ∃ fin, execPtpTxSubmit widx src s = .next fin ∧ fin.kept = s.kept := by
  unfold execPtpTxSubmit; apply running_kept; simp only [implies_true, ↓State.guardWrite_kept, ↓State.plainWrite_kept]
theorem execPtpTxDone_kept (s : State) : ∃ fin, execPtpTxDone s = .next fin ∧ fin.kept = s.kept := by
  unfold execPtpTxDone; apply running_kept; simp only [↓State.ptpTxDone_kept]
theorem execPtpTcForward_kept (p : Fin 2) (s : State) : ∃ fin, execPtpTcForward p s = .next fin ∧ fin.kept = s.kept := by
  unfold execPtpTcForward; apply running_kept; simp only [↓State.tcForward_kept]
theorem execEthPortEnable_kept (p : Fin 2) (v : Word) (src : Nat) (s : State) : ∃ fin, execEthPortEnable p v src s = .next fin ∧ fin.kept = s.kept := by
  unfold execEthPortEnable; apply running_kept; simp only [implies_true, ↓State.guardWrite_kept, ↓wrEthCfg_kept]
theorem execEthPortDisable_kept (p : Fin 2) (v : Word) (src : Nat) (s : State) : ∃ fin, execEthPortDisable p v src s = .next fin ∧ fin.kept = s.kept := by
  unfold execEthPortDisable; apply running_kept; simp only [implies_true, ↓State.guardWrite_kept, ↓wrEthCfg_kept]
theorem execEthLinkUp_kept (p : Fin 2) (k : Fin 4) (agreed : Bool) (s : State) : ∃ fin, execEthLinkUp p k agreed s = .next fin ∧ fin.kept = s.kept := by
  unfold execEthLinkUp; apply running_kept; simp only [↓kept_ite, ite_self, ↓State.put_kept, ↓State.setBit_kept]
theorem execEthLinkDown_kept (p : Fin 2) (k : Fin 4) (s : State) : ∃ fin, execEthLinkDown p k s = .next fin ∧ fin.kept = s.kept := by
  unfold execEthLinkDown; apply running_kept; simp only [↓State.setBit_kept]
theorem execArpEntryExpire_kept (p : Fin 2) (k : Fin 4) (ip : Word) (s : State) : ∃ fin, execArpEntryExpire p k ip s = .next fin ∧ fin.kept = s.kept := by
  unfold execArpEntryExpire; apply running_kept; simp only [↓kept_mk, kept_mk]
theorem execMgmtDiscover_kept (req : MgmtReq) (s : State) : ∃ fin, execMgmtDiscover req s = .next fin ∧ fin.kept = s.kept := by
  unfold execMgmtDiscover; apply running_kept; simp only [↓State.ethFlush_kept, ↓State.mgmtDiscover_kept]
theorem execMgmtConnect_kept (req : MgmtReq) (body : List Byte) (s : State) : ∃ fin, execMgmtConnect req body s = .next fin ∧ fin.kept = s.kept := by
  unfold execMgmtConnect; apply running_kept; simp only [↓State.ethFlush_kept, ↓State.mgmtConnect_kept]
theorem execConnectReplyExpire_kept (ip : Word) (port : Half) (seq : Word) (s : State) : ∃ fin, execConnectReplyExpire ip port seq s = .next fin ∧ fin.kept = s.kept := by
  unfold execConnectReplyExpire; apply running_kept; simp only [↓kept_mk, kept_mk]
theorem execMgmtDisconnect_kept (req : MgmtReq) (body : List Byte) (s : State) : ∃ fin, execMgmtDisconnect req body s = .next fin ∧ fin.kept = s.kept := by
  unfold execMgmtDisconnect; apply running_kept; simp only [↓State.ethFlush_kept, ↓State.mgmtDisconnect_kept]
theorem execBootSolicit_kept (s : State) : ∃ fin, execBootSolicit s = .next fin ∧ fin.kept = s.kept := by
  unfold execBootSolicit; apply running_kept; simp only [↓State.ethFlush_kept, ↓State.bootSolicit_kept]
theorem execBootOffer_kept (req : MgmtReq) (body : List Byte) (s : State) : ∃ fin, execBootOffer req body s = .next fin ∧ fin.kept = s.kept := by
  unfold execBootOffer; apply running_kept; simp only [↓kept_ite, ite_self, ↓State.ethFlush_kept, ↓State.bootOffer_kept]
theorem execBootData_kept (req : MgmtReq) (body : List Byte) (s : State) : ∃ fin, execBootData req body s = .next fin ∧ fin.kept = s.kept := by
  unfold execBootData; apply running_kept; simp only [↓kept_ite, ite_self, ↓State.ethFlush_kept, ↓State.bootData_kept]
theorem execBootReadTimeout_kept (s : State) : ∃ fin, execBootReadTimeout s = .next fin ∧ fin.kept = s.kept := by
  unfold execBootReadTimeout; apply running_kept; simp only [↓State.ethFlush_kept, ↓State.bootTimeout_kept]
theorem execCmpJobDone_kept (k : Fin 6) (out : List Byte) (s : State) : ∃ fin, execCmpJobDone k out s = .next fin ∧ fin.kept = s.kept := by
  unfold execCmpJobDone; apply running_kept; simp only [↓State.cmpEnd_kept]
theorem execCmpJobTake_kept (deflate : Bool) (s : State) : ∃ fin, execCmpJobTake deflate s = .next fin ∧ fin.kept = s.kept := by
  unfold execCmpJobTake; apply running_kept; simp only [↓State.cmpStart_kept]
theorem execCmpAbort_kept (v : Word) (s : State) : ∃ fin, execCmpAbort v s = .next fin ∧ fin.kept = s.kept := by
  unfold execCmpAbort; apply running_kept; simp only [implies_true, ↓State.guardWrite_kept, ↓wrCmpAbort_kept]
theorem execCmpPreempt_kept (deflate : Bool) (s : State) : ∃ fin, execCmpPreempt deflate s = .next fin ∧ fin.kept = s.kept := by
  unfold execCmpPreempt; apply running_kept; simp only [↓State.cmpSave_kept]
theorem execCmpDisable_kept (v : Word) (src : Nat) (s : State) : ∃ fin, execCmpDisable v src s = .next fin ∧ fin.kept = s.kept := by
  unfold execCmpDisable; apply running_kept; simp only [implies_true, ↓State.guardWrite_kept, ↓wrCmpCfg_kept]
theorem execCmpQueueEnable_kept (q : Fin 8) (v : Word) (src : Nat) (s : State) : ∃ fin, execCmpQueueEnable q v src s = .next fin ∧ fin.kept = s.kept := by
  unfold execCmpQueueEnable; apply running_kept; simp only [implies_true, ↓State.guardWrite_kept, ↓wrCmpCtl_kept]
theorem execCmpSubmit_kept (q : Fin 8) (widx : Half) (src : Nat) (s : State) : ∃ fin, execCmpSubmit q widx src s = .next fin ∧ fin.kept = s.kept := by
  unfold execCmpSubmit; apply running_kept; simp only [implies_true, ↓State.guardWrite_kept, ↓wrCmpSqIdx_kept]
theorem execCcpEnableFormat_kept (v : Word) (src : Nat) (s : State) : ∃ fin, execCcpEnableFormat v src s = .next fin ∧ fin.kept = s.kept := by
  unfold execCcpEnableFormat; apply running_kept; simp only [implies_true, ↓State.guardWrite_kept, ↓wrCcpCtl_kept]
theorem execCcpEnableKeep_kept (v : Word) (src : Nat) (s : State) : ∃ fin, execCcpEnableKeep v src s = .next fin ∧ fin.kept = s.kept := by
  unfold execCcpEnableKeep; apply running_kept; simp only [implies_true, ↓State.guardWrite_kept, ↓wrCcpCtl_kept]
theorem execCcpDisable_kept (v : Word) (src : Nat) (s : State) : ∃ fin, execCcpDisable v src s = .next fin ∧ fin.kept = s.kept := by
  unfold execCcpDisable; apply running_kept; simp only [implies_true, ↓State.guardWrite_kept, ↓wrCcpCtl_kept]
theorem execCcpReady_kept (s : State) : ∃ fin, execCcpReady s = .next fin ∧ fin.kept = s.kept := by
  unfold execCcpReady; apply running_kept; simp only [↓State.ccpReady_kept]
theorem execCcpDoorbell_kept (q : Fin 64) (send : List Byte) (s : State) : ∃ fin, execCcpDoorbell q send s = .next fin ∧ fin.kept = s.kept := by
  unfold execCcpDoorbell; apply running_kept; simp only [↓kept_ite, ite_self, ↓State.ccpDoorbell_kept]
theorem execLocalQueueDoorbell_kept (widx : Half) (src : Nat) (s : State) : ∃ fin, execLocalQueueDoorbell widx src s = .next fin ∧ fin.kept = s.kept := by
  unfold execLocalQueueDoorbell; apply running_kept; simp only [implies_true, ↓State.guardWrite_kept, ↓wrCcpLqIdx_kept]
theorem execSubmissionFetch_kept (q : Fin 65) (entries : List (List Byte)) (s : State) : ∃ fin, execSubmissionFetch q entries s = .next fin ∧ fin.kept = s.kept := by
  unfold execSubmissionFetch; apply running_kept; simp only [↓State.submissionFetch_kept]
theorem execCoalesceTimeout_kept (q : Fin 65) (s : State) : ∃ fin, execCoalesceTimeout q s = .next fin ∧ fin.kept = s.kept := by
  unfold execCoalesceTimeout; apply running_kept; simp only [↓State.flushHeld_kept]
theorem execCcpRead_kept (q : Fin 65) (cid : Half) (s : State) : ∃ fin, execCcpRead q cid s = .next fin ∧ fin.kept = s.kept := by
  unfold execCcpRead; apply running_kept; simp only [implies_true, ↓State.perform_kept, ↓doRead_kept]
theorem execCcpWrite_kept (q : Fin 65) (cid : Half) (data : List Byte) (fate : Option Nat × Bool) (s : State) : ∃ fin, execCcpWrite q cid data fate s = .next fin ∧ fin.kept = s.kept := by
  unfold execCcpWrite; apply running_kept; simp only [implies_true, ↓State.perform_kept, ↓doWrite_kept]
theorem execCreateTake_kept (q : Fin 65) (cid : Half) (s : State) : ∃ fin, execCreateTake q cid s = .next fin ∧ fin.kept = s.kept := by
  unfold execCreateTake; apply running_kept; simp only [implies_true, ↓State.perform_kept, ↓doCreate_kept]
theorem execCloseTake_kept (q : Fin 65) (cid : Half) (s : State) : ∃ fin, execCloseTake q cid s = .next fin ∧ fin.kept = s.kept := by
  unfold execCloseTake; apply running_kept; simp only [implies_true, ↓State.perform_kept, ↓doClose_kept]
theorem execDeleteTake_kept (q : Fin 65) (cid : Half) (s : State) : ∃ fin, execDeleteTake q cid s = .next fin ∧ fin.kept = s.kept := by
  unfold execDeleteTake; apply running_kept; simp only [implies_true, ↓State.perform_kept, ↓doDelete_kept]
theorem execTakeInfo_kept (q : Fin 65) (cid : Half) (s : State) : ∃ fin, execTakeInfo q cid s = .next fin ∧ fin.kept = s.kept := by
  unfold execTakeInfo; apply running_kept; simp only [implies_true, ↓State.perform_kept, ↓doInfo_kept]
theorem execCcpAbort_kept (q : Fin 65) (cid : Half) (s : State) : ∃ fin, execCcpAbort q cid s = .next fin ∧ fin.kept = s.kept := by
  unfold execCcpAbort; apply running_kept; simp only [implies_true, ↓State.perform_kept, ↓doAbort_kept]
theorem execGetFrames_kept (q : Fin 65) (cid : Half) (s : State) : ∃ fin, execGetFrames q cid s = .next fin ∧ fin.kept = s.kept := by
  unfold execGetFrames; apply running_kept; simp only [implies_true, ↓State.perform_kept, ↓doFrames_kept]
theorem execStartStream_kept (q : Fin 65) (cid : Half) (data : List Byte) (s : State) : ∃ fin, execStartStream q cid data s = .next fin ∧ fin.kept = s.kept := by
  unfold execStartStream; apply running_kept; simp only [implies_true, ↓State.perform_kept, ↓doStart_kept]
theorem execStopStream_kept (q : Fin 65) (cid : Half) (s : State) : ∃ fin, execStopStream q cid s = .next fin ∧ fin.kept = s.kept := by
  unfold execStopStream; apply running_kept; simp only [implies_true, ↓State.perform_kept, ↓doStop_kept]
theorem execCcpMap_kept (q : Fin 65) (cid : Half) (s : State) : ∃ fin, execCcpMap q cid s = .next fin ∧ fin.kept = s.kept := by
  unfold execCcpMap; apply running_kept; simp only [implies_true, ↓State.perform_kept, ↓doMap_kept]
theorem execIdentify_kept (q : Fin 65) (cid : Half) (s : State) : ∃ fin, execIdentify q cid s = .next fin ∧ fin.kept = s.kept := by
  unfold execIdentify; apply running_kept; simp only [implies_true, ↓State.perform_kept, ↓doIdentify_kept]
theorem execGetLog_kept (q : Fin 65) (cid : Half) (s : State) : ∃ fin, execGetLog q cid s = .next fin ∧ fin.kept = s.kept := by
  unfold execGetLog; apply running_kept; simp only [implies_true, ↓State.perform_kept, ↓doLog_kept]
theorem execGetFeature_kept (q : Fin 65) (cid : Half) (s : State) : ∃ fin, execGetFeature q cid s = .next fin ∧ fin.kept = s.kept := by
  unfold execGetFeature; apply running_kept; simp only [implies_true, ↓State.perform_kept, ↓doGetFeature_kept]
theorem execSetFeature_kept (q : Fin 65) (cid : Half) (s : State) : ∃ fin, execSetFeature q cid s = .next fin ∧ fin.kept = s.kept := by
  unfold execSetFeature; apply running_kept; simp only [implies_true, ↓State.perform_kept, ↓doSetFeature_kept]
theorem execFwDownload_kept (q : Fin 65) (cid : Half) (data : List Byte) (s : State) : ∃ fin, execFwDownload q cid data s = .next fin ∧ fin.kept = s.kept := by
  unfold execFwDownload; apply running_kept; simp only [implies_true, ↓State.perform_kept, ↓doDownload_kept]
theorem execCreateQp_kept (q : Fin 65) (cid : Half) (data : List Byte) (s : State) : ∃ fin, execCreateQp q cid data s = .next fin ∧ fin.kept = s.kept := by
  unfold execCreateQp; apply running_kept; simp only [implies_true, ↓State.perform_kept, ↓doCreateQp_kept]
theorem execDeleteQp_kept (q : Fin 65) (cid : Half) (s : State) : ∃ fin, execDeleteQp q cid s = .next fin ∧ fin.kept = s.kept := by
  unfold execDeleteQp; apply running_kept; simp only [implies_true, ↓State.perform_kept, ↓doDeleteQp_kept]
theorem execStreamFrameAppend_kept (st : Fin 16) (s : State) : ∃ fin, execStreamFrameAppend st s = .next fin ∧ fin.kept = s.kept := by
  unfold execStreamFrameAppend; apply running_kept; simp only [↓State.streamAppend_kept]
theorem execStreamFrameEntry_kept (st : Fin 16) (s : State) : ∃ fin, execStreamFrameEntry st s = .next fin ∧ fin.kept = s.kept := by
  unfold execStreamFrameEntry; apply running_kept; simp only [↓State.streamEntry_kept]
theorem execSdiOutEnable_kept (n : Fin 16) (v : Word) (src : Nat) (s : State) : ∃ fin, execSdiOutEnable n v src s = .next fin ∧ fin.kept = s.kept := by
  unfold execSdiOutEnable; apply running_kept; simp only [implies_true, ↓State.guardWrite_kept, ↓wrSdiOutCfg_kept]
theorem execSdiOutDisable_kept (n : Fin 16) (v : Word) (src : Nat) (s : State) : ∃ fin, execSdiOutDisable n v src s = .next fin ∧ fin.kept = s.kept := by
  unfold execSdiOutDisable; apply running_kept; simp only [implies_true, ↓State.guardWrite_kept, ↓wrSdiOutCfg_kept]
theorem execTgFrameInstant_kept (k : Fin 4) (phase : Half) (s : State) : ∃ fin, execTgFrameInstant k phase s = .next fin ∧ fin.kept = s.kept := by
  unfold execTgFrameInstant; apply running_kept; simp only [↓State.tgInstant_kept]
theorem execSdiSlotTake_kept (n : Fin 16) (late1 late2 : List Nat) (s : State) : ∃ fin, execSdiSlotTake n late1 late2 s = .next fin ∧ fin.kept = s.kept := by
  unfold execSdiSlotTake; apply running_kept; simp only [↓State.sdiTake_kept]
theorem execSdiRxFrame_kept (m : Fin 8) (x : SdiRx) (s : State) : ∃ fin, execSdiRxFrame m x s = .next fin ∧ fin.kept = s.kept := by
  unfold execSdiRxFrame; apply running_kept; simp only [↓State.sdiReceive_kept]
theorem execGenlockSourceLost_kept (s : State) : ∃ fin, execGenlockSourceLost s = .next fin ∧ fin.kept = s.kept := by
  unfold execGenlockSourceLost; apply running_kept; simp only [↓kept_mk, ↓kept_ite, ite_self, ↓kept_foldl, implies_true, kept_mk, ↓State.put_kept, ↓State.post_kept]
theorem execGenlockSourceReturn_kept (far : Nat) (s : State) : ∃ fin, execGenlockSourceReturn far s = .next fin ∧ fin.kept = s.kept := by
  unfold execGenlockSourceReturn; apply running_kept; simp only [↓kept_ite, ite_self, ↓kept_foldl, implies_true, ↓State.put_kept, ↓State.tgJam_kept]
theorem execPreApplyDone_kept (s : State) : ∃ fin, execPreApplyDone s = .next fin ∧ fin.kept = s.kept := by
  unfold execPreApplyDone; apply running_kept; simp only [↓State.preApplyDone_kept]
theorem execBrewQuiescent_kept (b : Fin 16) (s : State) : ∃ fin, execBrewQuiescent b s = .next fin ∧ fin.kept = s.kept := by
  unfold execBrewQuiescent; apply running_kept; simp only [↓State.brewQuiescent_kept]
theorem execQuiesceTimeout_kept (s : State) : ∃ fin, execQuiesceTimeout s = .next fin ∧ fin.kept = s.kept := by
  unfold execQuiesceTimeout; apply running_kept; simp only [↓State.quiesceTimeout_kept]
theorem execApplyFetchDone_kept (s : State) : ∃ fin, execApplyFetchDone s = .next fin ∧ fin.kept = s.kept := by
  unfold execApplyFetchDone; apply running_kept; simp only [↓State.applyFetchDone_kept]
theorem execFabLoadFull_kept (v : Word) (src : Nat) (s : State) : ∃ fin, execFabLoadFull v src s = .next fin ∧ fin.kept = s.kept := by
  unfold execFabLoadFull; apply running_kept; simp only [implies_true, ↓State.guardWrite_kept, ↓wrFabLoad_kept]
theorem execFabLoadPartial_kept (v : Word) (src : Nat) (s : State) : ∃ fin, execFabLoadPartial v src s = .next fin ∧ fin.kept = s.kept := by
  unfold execFabLoadPartial; apply running_kept; simp only [implies_true, ↓State.guardWrite_kept, ↓wrFabLoad_kept]
theorem execEvtClear_kept (v : Word) (s : State) : ∃ fin, execEvtClear v s = .next fin ∧ fin.kept = s.kept := by
  unfold execEvtClear; apply running_kept; simp only [implies_true, ↓State.guardWrite_kept, ↓wrEvtClear_kept]
theorem execEvtLastLoRead_kept (s : State) : ∃ fin, execEvtLastLoRead s = .next fin ∧ fin.kept = s.kept := by
  unfold execEvtLastLoRead; apply running_kept; simp only [implies_true, ↓State.answer_kept, ↓State.guardRead_kept, ↓rdEvtLastLo_kept]
theorem execEvtPost_kept (v : Word) (src : Nat) (s : State) : ∃ fin, execEvtPost v src s = .next fin ∧ fin.kept = s.kept := by
  unfold execEvtPost; apply running_kept; simp only [implies_true, ↓State.guardWrite_kept, ↓wrEvtPost_kept]
theorem execDmaEnable_kept (c : Fin 4) (v : Word) (src : Nat) (s : State) : ∃ fin, execDmaEnable c v src s = .next fin ∧ fin.kept = s.kept := by
  unfold execDmaEnable; apply running_kept; simp only [implies_true, ↓State.guardWrite_kept, ↓wrDmaCtl_kept]
theorem execDmaDisable_kept (c : Fin 4) (v : Word) (src : Nat) (s : State) : ∃ fin, execDmaDisable c v src s = .next fin ∧ fin.kept = s.kept := by
  unfold execDmaDisable; apply running_kept; simp only [implies_true, ↓State.guardWrite_kept, ↓wrDmaCtl_kept]
theorem execDmaSubmit_kept (c : Fin 4) (widx : Half) (src : Nat) (s : State) : ∃ fin, execDmaSubmit c widx src s = .next fin ∧ fin.kept = s.kept := by
  unfold execDmaSubmit; apply running_kept; simp only [implies_true, ↓State.guardWrite_kept, ↓State.plainWrite_kept]
theorem execDmaDescriptorTake_kept (c : Fin 4) (s : State) : ∃ fin, execDmaDescriptorTake c s = .next fin ∧ fin.kept = s.kept := by
  unfold execDmaDescriptorTake; apply running_kept; simp only [↓State.dmaTake_kept]
theorem execDmaDescriptorDone_kept (c : Fin 4) (s : State) : ∃ fin, execDmaDescriptorDone c s = .next fin ∧ fin.kept = s.kept := by
  unfold execDmaDescriptorDone; apply running_kept; simp only [↓State.dmaEnd_kept]
theorem execKettleDemand_kept (d : Fin 148) (s : State) : ∃ fin, execKettleDemand d s = .next fin ∧ fin.kept = s.kept := by
  unfold execKettleDemand; apply running_kept; simp only [↓State.demand_kept, ↓State.serve_kept]
theorem execDomainHold_kept (d : Fin 148) (s : State) : ∃ fin, execDomainHold d s = .next fin ∧ fin.kept = s.kept := by
  unfold execDomainHold; apply running_kept; simp only [implies_true, ↓State.guardWrite_kept, ↓wrPwrDom_kept]
theorem execDomainOn_kept (d : Fin 148) (s : State) : ∃ fin, execDomainOn d s = .next fin ∧ fin.kept = s.kept := by
  unfold execDomainOn; apply running_kept; simp only [↓kept_ite, ite_self, ↓State.domainOn_kept, ↓State.serve_kept]
theorem execPllLock_kept (k : Fin 32) (s : State) : ∃ fin, execPllLock k s = .next fin ∧ fin.kept = s.kept := by
  unfold execPllLock; apply running_kept; simp only [↓kept_ite, ite_self, ↓kept_when, andThen_cons, andThen_nil, ↓State.setBit_kept, ↓State.put_kept, ↓State.quadLock_kept]
theorem execDomainIdleTimeout_kept (d : Fin 148) (s : State) : ∃ fin, execDomainIdleTimeout d s = .next fin ∧ fin.kept = s.kept := by
  unfold execDomainIdleTimeout; apply running_kept; simp only [↓kept_ite, ite_self, ↓State.retain_kept]
theorem execRailFault_kept (out : Fin 5) (s : State) : ∃ fin, execRailFault out s = .next fin ∧ fin.kept = s.kept := by
  unfold execRailFault; refine ⟨_, rfl, ?_⟩; simp only [↓kept_ite, ite_self, ↓State.setBit_kept, ↓State.irq_kept, ↓State.put_kept, ↓State.loseDram_kept, ↓State.pwrGood_kept, ↓State.post_kept]
theorem execRailRetry_kept (v : Word) (s : State) : ∃ fin, execRailRetry v s = .next fin ∧ fin.kept = s.kept := by
  unfold execRailRetry; apply running_kept; simp only [implies_true, ↓State.guardWrite_kept, ↓wrPwrRail_kept]
theorem execIdleEntry_kept (s : State) : ∃ fin, execIdleEntry s = .next fin ∧ fin.kept = s.kept := by
  unfold execIdleEntry; apply running_kept; simp only [↓kept_mk, ↓kept_ite, ite_self, ↓kept_foldl, implies_true, kept_mk, ↓State.put_kept]
theorem execNapEntry_kept (s : State) : ∃ fin, execNapEntry s = .next fin ∧ fin.kept = s.kept := by
  unfold execNapEntry; apply running_kept; simp only [↓kept_ite, ite_self, ↓State.nap_kept]
theorem execDozeEntry_kept (s : State) : ∃ fin, execDozeEntry s = .next fin ∧ fin.kept = s.kept := by
  unfold execDozeEntry; apply running_kept; simp only [↓kept_ite, ite_self, ↓State.doze_kept]
theorem execWake_kept (event : Fin 9) (s : State) : ∃ fin, execWake event s = .next fin ∧ fin.kept = s.kept := by
  unfold execWake; refine ⟨_, rfl, ?_⟩; simp only [↓State.wakeEvent_kept]
theorem execClockSelect_kept (v : Word) (src : Nat) (s : State) : ∃ fin, execClockSelect v src s = .next fin ∧ fin.kept = s.kept := by
  unfold execClockSelect; apply running_kept; simp only [implies_true, ↓State.guardWrite_kept, ↓wrPwrClksel_kept]
theorem execResidencyClear_kept (v : Word) (s : State) : ∃ fin, execResidencyClear v s = .next fin ∧ fin.kept = s.kept := by
  unfold execResidencyClear; apply running_kept; simp only [implies_true, ↓State.guardWrite_kept, ↓wrPwrCtl_kept]
theorem execResidencyLoRead_kept (counter : Fin 153) (s : State) : ∃ fin, execResidencyLoRead counter s = .next fin ∧ fin.kept = s.kept := by
  unfold execResidencyLoRead; apply running_kept; simp only [↓kept_ite, ↓snd_ite, ite_self, implies_true, ↓State.answer_kept, ↓State.guardRead_kept, ↓rdPwrSresLo_kept, ↓rdPwrDresLo_kept]
theorem execCosyXtalSwitch_kept (s : State) : ∃ fin, execCosyXtalSwitch s = .next fin ∧ fin.kept = s.kept := by
  unfold execCosyXtalSwitch; refine ⟨_, rfl, ?_⟩; simp only [↓kept_mk, ↓kept_ite, ite_self, kept_mk]
theorem execSensorTimeout_kept (n : Fin 26) (s : State) : ∃ fin, execSensorTimeout n s = .next fin ∧ fin.kept = s.kept := by
  unfold execSensorTimeout; refine ⟨_, rfl, ?_⟩; simp only [↓kept_ite, ite_self, ↓State.moduleLimit_kept, ↓State.sensorFault_kept]
theorem execPowerupThermalHold_kept (s : State) : ∃ fin, execPowerupThermalHold s = .next fin ∧ fin.kept = s.kept := by
  unfold execPowerupThermalHold; refine ⟨_, rfl, ?_⟩; simp only [↓kept_ite, ite_self, ↓State.passStep3_kept, ↓State.putB_kept]
theorem execCoreStart_kept (c : Fin 4) (s : State) : ∃ fin, execCoreStart c s = .next fin ∧ fin.kept = s.kept := by
  unfold execCoreStart; apply running_kept; simp only [implies_true, ↓State.guardWrite_kept, ↓wrCoreCtl_kept]
theorem execCoreReset_kept (c : Fin 4) (s : State) : ∃ fin, execCoreReset c s = .next fin ∧ fin.kept = s.kept := by
  unfold execCoreReset; apply running_kept; simp only [implies_true, ↓State.guardWrite_kept, ↓wrCoreCtl_kept]
theorem execWatchdogKick_kept (v : Half) (src : Nat) (s : State) : ∃ fin, execWatchdogKick v src s = .next fin ∧ fin.kept = s.kept := by
  unfold execWatchdogKick; apply running_kept; simp only [implies_true, ↓State.guardWrite_kept, ↓wrCpuWdog_kept]
theorem execSysLockSet_kept (s : State) : ∃ fin, execSysLockSet s = .next fin ∧ fin.kept = s.kept := by
  unfold execSysLockSet; apply running_kept; simp only [implies_true, ↓State.guardWrite_kept, ↓State.put_kept]
theorem execFreezeNLow_kept (s : State) : ∃ fin, execFreezeNLow s = .next fin ∧ fin.kept = s.kept := by
  unfold execFreezeNLow; refine ⟨_, rfl, ?_⟩; simp only [↓State.requestFreeze_kept]
theorem execDbgFreeze_kept (v : Word) (src : Nat) (s : State) : ∃ fin, execDbgFreeze v src s = .next fin ∧ fin.kept = s.kept := by
  unfold execDbgFreeze; apply running_kept; simp only [implies_true, ↓State.guardWrite_kept, ↓wrDbgCtl_kept]
theorem execMmuEnable_kept (v : Word) (src : Nat) (s : State) : ∃ fin, execMmuEnable v src s = .next fin ∧ fin.kept = s.kept := by
  unfold execMmuEnable; apply running_kept; simp only [implies_true, ↓State.guardWrite_kept, ↓wrMmuCtl_kept]
theorem execMmuUnitCfgWrite_kept (u : Fin 43) (v : Word) (src : Nat) (s : State) : ∃ fin, execMmuUnitCfgWrite u v src s = .next fin ∧ fin.kept = s.kept := by
  unfold execMmuUnitCfgWrite; apply running_kept; simp only [implies_true, ↓State.guardWrite_kept, ↓wrMmuUnitCfg_kept]
theorem execMmuInvalidate_kept (v : Word) (src : Nat) (s : State) : ∃ fin, execMmuInvalidate v src s = .next fin ∧ fin.kept = s.kept := by
  unfold execMmuInvalidate; apply running_kept; simp only [implies_true, ↓State.guardWrite_kept, ↓wrMmuInv_kept]
theorem execMmuInvalidateDone_kept (s : State) : ∃ fin, execMmuInvalidateDone s = .next fin ∧ fin.kept = s.kept := by
  unfold execMmuInvalidateDone; apply running_kept; simp only [↓kept_ite, ite_self, ↓State.invalidateTlbs_kept, ↓State.put_kept]
theorem execTableWalk_kept (u : Fin 43) (va : BitVec 48) (write pinned : Bool) (s : State) : ∃ fin, execTableWalk u va write pinned s = .next fin ∧ fin.kept = s.kept := by
  unfold execTableWalk; apply running_kept; simp only [↓State.tableWalk_kept]
theorem execMmuResumeRestart_kept (u : Fin 64) (s : State) : ∃ fin, execMmuResumeRestart u s = .next fin ∧ fin.kept = s.kept := by
  unfold execMmuResumeRestart; apply running_kept; simp only [implies_true, ↓State.guardWrite_kept, ↓State.mmuResume_kept]
theorem execMmuResumeFail_kept (u : Fin 64) (s : State) : ∃ fin, execMmuResumeFail u s = .next fin ∧ fin.kept = s.kept := by
  unfold execMmuResumeFail; apply running_kept; simp only [implies_true, ↓State.guardWrite_kept, ↓State.mmuResume_kept]
theorem execMmuFaultTimeout_kept (u : Fin 43) (s : State) : ∃ fin, execMmuFaultTimeout u s = .next fin ∧ fin.kept = s.kept := by
  unfold execMmuFaultTimeout; apply running_kept; simp only [↓State.faultTimeout_kept]
theorem execReadClearField_kept (off : Nat) (word : Bool) (src : Nat) (s : State) : ∃ fin, execReadClearField off word src s = .next fin ∧ fin.kept = s.kept := by
  unfold execReadClearField; apply running_kept; simp only [↓State.answer_kept, ↓State.busRead_kept]
theorem execRegRead_kept (q : Fin 65) (cid : Half) (s : State) : ∃ fin, execRegRead q cid s = .next fin ∧ fin.kept = s.kept := by
  unfold execRegRead; apply running_kept; simp only [implies_true, ↓State.perform_kept, ↓doRegRead_kept]
theorem execIdcode_kept (s : State) : ∃ fin, execIdcode s = .next fin ∧ fin.kept = s.kept := by
  unfold execIdcode; refine ⟨_, rfl, ?_⟩; simp only [↓kept_mk, implies_true, kept_mk, ↓State.scan_kept]
theorem execExtest_kept (pins data : List Bool) (s : State) : ∃ fin, execExtest pins data s = .next fin ∧ fin.kept = s.kept := by
  unfold execExtest; refine ⟨_, rfl, ?_⟩; simp only [↓kept_ite, ite_self, ↓State.setIr_kept, ↓State.driveLands_kept, ↓State.boundaryScan_kept]
theorem execSamplePreload_kept (pins data : List Bool) (s : State) : ∃ fin, execSamplePreload pins data s = .next fin ∧ fin.kept = s.kept := by
  unfold execSamplePreload; refine ⟨_, rfl, ?_⟩; simp only [implies_true, ↓State.scan_kept, ↓State.boundaryScan_kept]
theorem execBypass_kept (code : Byte) (s : State) : ∃ fin, execBypass code s = .next fin ∧ fin.kept = s.kept := by
  unfold execBypass; refine ⟨_, rfl, ?_⟩; simp only [↓kept_mk, implies_true, kept_mk, ↓State.scan_kept]
theorem execFreeze_kept (s : State) : ∃ fin, execFreeze s = .next fin ∧ fin.kept = s.kept := by
  unfold execFreeze; refine ⟨_, rfl, ?_⟩; simp only [implies_true, ↓State.scan_kept, ↓State.requestFreeze_kept]
theorem execJtagTrst_kept (s : State) : ∃ fin, execJtagTrst s = .next fin ∧ fin.kept = s.kept := by
  unfold execJtagTrst; refine ⟨_, rfl, ?_⟩; simp only [↓kept_ite, ite_self, ↓State.setIr_kept]
theorem execSnapSel_kept (chain : Half) (s : State) : ∃ fin, execSnapSel chain s = .next fin ∧ fin.kept = s.kept := by
  unfold execSnapSel; refine ⟨_, rfl, ?_⟩; simp only [↓kept_mk, implies_true, kept_mk, ↓State.scan_kept]
theorem execSnapData_kept (s : State) : ∃ fin, execSnapData s = .next fin ∧ fin.kept = s.kept := by
  unfold execSnapData; refine ⟨_, rfl, ?_⟩; simp only [implies_true, ↓State.scan_kept, ↓State.snapData_kept]
theorem execMemacc_kept (data : BitVec 64) (addr : BitVec 40) (write autoinc : Bool) (s : State) : ∃ fin, execMemacc data addr write autoinc s = .next fin ∧ fin.kept = s.kept := by
  unfold execMemacc; refine ⟨_, rfl, ?_⟩; simp only [implies_true, ↓State.scan_kept, ↓State.memAcc_kept]
theorem execMemstream_kept (s : State) : ∃ fin, execMemstream s = .next fin ∧ fin.kept = s.kept := by
  unfold execMemstream; refine ⟨_, rfl, ?_⟩; simp only [implies_true, ↓State.scan_kept, ↓State.memStream_kept]
theorem execDebugSelfRefreshReturn_kept (ch : Fin 8) (s : State) : ∃ fin, execDebugSelfRefreshReturn ch s = .next fin ∧ fin.kept = s.kept := by
  unfold execDebugSelfRefreshReturn; refine ⟨_, rfl, ?_⟩; simp only [↓kept_mk, kept_mk]

end Sys2Proof.Machine
end

