-- ==== Sys2Proof/Laws/Keeps.lean ====
section
/-! SUPPORT. What a step other than the end of a clear does to the parts that outlive it: the queue, the time, revoked slots, the
rollback floor, the event ring and its severity-7 records, for the operations that do change some of them. -/

namespace Sys2Proof.Machine

set_option maxRecDepth 4000
set_option linter.unusedVariables false

/-- What a step other than the end of a clear does to the parts that outlive it. -/
structure Keeps (s t : State) : Prop where
  queue : t.pending = s.pending
  time : s.time.ns.toNat < 1000000000 → t.time.ns.toNat < 1000000000
  revoked : ∀ k, s.sec.revoked.testBit k = true → t.sec.revoked.testBit k = true
  floor : s.sec.floor ≤ t.sec.floor
  ring : RingOk s.evt.ring → RingOk t.evt.ring
  grave : RingOk s.evt.ring → ∀ k e, Grave s k e → Grave t k e

theorem Keeps.rfl' (s : State) : Keeps s s := ⟨rfl, id, fun _ => id, Nat.le_refl _, id, fun _ _ _ => id⟩
theorem Keeps.trans {a b c : State} (h : Keeps a b) (g : Keeps b c) : Keeps a c :=
  ⟨g.queue.trans h.queue, g.time ∘ h.time, fun k x => g.revoked k (h.revoked k x), Nat.le_trans h.floor g.floor,
    g.ring ∘ h.ring, fun o k e x => g.grave (h.ring o) k e (h.grave o k e x)⟩
theorem keeps_of_kept {s t : State} (h : t.kept = s.kept) : Keeps s t := by
  simp only [State.kept, Prod.mk.injEq] at h
  obtain ⟨a, b, c, d, e⟩ := h
  exact ⟨e, by rw [a]; exact id, by rw [b]; exact fun _ => id, Nat.le_of_eq (by rw [b]), by rw [c]; exact id,
    by unfold Grave; rw [c]; exact fun _ _ _ => id⟩

theorem Keeps.step {a b c : State} (g : c.kept = b.kept) (h : Keeps a b) : Keeps a c := h.trans (keeps_of_kept g)

theorem emptyFrom_le (k : Nat) (l : List Nat) : k ≤ emptyFrom k l := by
  induction l generalizing k with
  | nil => exact Nat.le_refl _
  | cons x r ih =>
    unfold emptyFrom; split
    · exact Nat.le_of_succ_le (ih (k + 1))
    · exact Nat.le_refl _

theorem emptyFrom_fresh (k : Nat) (l : List Nat) (h : l.Pairwise (· < ·)) (hk : ∀ x ∈ l, k ≤ x) : emptyFrom k l ∉ l := by
  induction l generalizing k with
  | nil => simp
  | cons x r ih =>
    have ⟨a, b⟩ := List.pairwise_cons.1 h
    unfold emptyFrom
    split
    · rename_i e
      subst e
      have i := ih (x + 1) b (fun y hy => a y hy)
      have := emptyFrom_le (x + 1) r
      simp only [List.mem_cons, not_or]
      exact ⟨by omega, i⟩
    · rename_i e
      have := hk x (by simp)
      intro hm
      rcases List.mem_cons.1 hm with hm | hm
      · omega
      · have := a _ hm; omega

theorem oldestSlot_mem {p : EvRecord → Bool} {l : Sparse (Option EvRecord)} {k : Nat} {e : EvRecord}
    (h : oldestSlot p l = some (k, e)) : (k, some e) ∈ l ∧ p e = true := by
  induction l generalizing k e with
  | nil => cases h
  | cons a r ih =>
    obtain ⟨j, o⟩ := a
    cases o with
    | none => simp only [oldestSlot] at h; exact ⟨List.mem_cons_of_mem _ (ih h).1, (ih h).2⟩
    | some f =>
      simp only [oldestSlot] at h
      split at h
      · split at h
        · rename_i hp; cases h; exact ⟨by simp, hp⟩
        · cases h
      · rename_i k' e' hs
        split at h
        · rename_i hp; cases h; simp at hp; exact ⟨by simp, hp.1⟩
        · cases h; exact ⟨List.mem_cons_of_mem _ (ih hs).1, (ih hs).2⟩

/-- The slot that a newcomer takes lies in the ring and holds no record of severity 7. -/
theorem slotFor_spec {r : Recorder} {sev : Fin 8} {k : Nat} {b : Bool} (ok : RingOk r.ring)
    (h : r.slotFor sev = some (k, b)) : k < ringSlots ∧ ∀ e, sget none r.ring k = some e → e.sev ≠ 7 := by
  unfold Recorder.slotFor at h
  have hp := (canonical_iff.1 ok.1).1
  simp only at h
  split at h
  · rename_i hk
    cases h
    refine ⟨hk, fun e he => ?_⟩
    have := mem_of_sget he (by simp)
    exact absurd (List.mem_map_of_mem (f := Prod.fst) this) (emptyFrom_fresh 0 _ hp (by simp))
  · split at h
    · rename_i k' e' ho
      cases h
      obtain ⟨hm, hs⟩ := oldestSlot_mem ho
      refine ⟨ok.2 _ hm, fun e he => ?_⟩
      rw [sget_of_mem ok.1 hm] at he
      cases he
      simp at hs
      intro h7; rw [h7] at hs; omega
    · split at h
      · cases h
      · rename_i h7
        split at h
        · rename_i k' e' ho
          cases h
          obtain ⟨hm, hs⟩ := oldestSlot_mem ho
          refine ⟨ok.2 _ hm, fun e he => ?_⟩
          rw [sget_of_mem ok.1 hm] at he
          cases he
          simp at hs
          rw [hs]; exact h7
        · cases h

theorem mem_sset {α : Type} [DecidableEq α] {d : α} {l : Sparse α} {x : Nat} {v : α} {e : Nat × α} (h : e ∈ sset d l x v) : e = (x, v) ∨ e ∈ l := by
  unfold sset at h
  split at h
  · exact .inr (mem_serase.1 h).1
  · rcases mem_sinsert.1 h with a | a
    · exact .inl a
    · exact .inr (mem_serase.1 a).1

theorem keeps_place (s : State) (e : Event) (b : Bool) : Keeps s (s.place e b) := by
  unfold State.place
  split
  · exact keeps_of_kept (by simp only [State.bump_kept])
  · rename_i k above h
    simp only
    refine Keeps.step (b := { s with evt := { s.evt with ring := sset none s.evt.ring k (some ⟨s.evt.nextSeq, e.src, e.code, e.sev, b, e.time, e.data⟩), nextSeq := s.evt.nextSeq + 1 } }) ?_ ?_
    · generalize ({ s with evt := { s.evt with ring := sset none s.evt.ring k (some ⟨s.evt.nextSeq, e.src, e.code, e.sev, b, e.time, e.data⟩), nextSeq := s.evt.nextSeq + 1 } } : State) = t
      simp only [andThen_cons, andThen_nil, kept_when, State.incr_kept, State.mirror_kept, State.irq_kept, State.requestFreeze_kept]
    · constructor
      · rfl
      · exact id
      · exact fun _ => id
      · exact Nat.le_refl _
      · intro ok
        refine ⟨canonical_sset (x := k) (v := some ⟨s.evt.nextSeq, e.src, e.code, e.sev, b, e.time, e.data⟩) ok.1, fun x hx => ?_⟩
        rcases mem_sset (d := none) (l := s.evt.ring) (x := k) (v := some ⟨s.evt.nextSeq, e.src, e.code, e.sev, b, e.time, e.data⟩) hx with rfl | hx
        · exact (slotFor_spec ok h).1
        · exact ok.2 _ hx
      · rintro ok j x ⟨hx, h7⟩
        refine ⟨?_, h7⟩
        have : j ≠ k := by rintro rfl; exact (slotFor_spec ok h).2 x hx h7
        exact (sget_sset_other none none s.evt.ring (some ⟨s.evt.nextSeq, e.src, e.code, e.sev, b, e.time, e.data⟩) this).trans hx

theorem keeps_ite {s : State} (c : Prop) [Decidable c] {a b : State} (ha : c → Keeps s a) (hb : ¬c → Keeps s b) : Keeps s (if c then a else b) := by
  split
  · exact ha ‹_›
  · exact hb ‹_›

theorem keeps_foldl {α : Type} (f : State → α → State) (h : ∀ s x, Keeps s (f s x)) (l : List α) (s : State) : Keeps s (l.foldl f s) := by
  induction l generalizing s with
  | nil => exact Keeps.rfl' s
  | cons x r ih => exact (h s x).trans (ih _)

theorem keeps_confirm (s : State) : Keeps s s.confirm := by
  unfold State.confirm
  simp only
  refine keeps_ite _ (fun _ => Keeps.rfl' s) (fun _ => keeps_ite _ (fun _ => ?_) (fun _ => ?_))
  · exact ⟨rfl, id, fun _ => id, Nat.le_max_left _ _, id, fun _ _ _ => id⟩
  · exact ⟨rfl, id, fun _ => id, Nat.le_max_left _ _, id, fun _ _ _ => id⟩

theorem keeps_wrSecBoot (v : Word) (s : State) : Keeps s (wrSecBoot v s) :=
  keeps_ite _ (fun _ => keeps_confirm s) (fun _ => Keeps.rfl' s)

theorem keeps_wrSecRevoke (src : Nat) (v : Word) (s : State) : Keeps s (wrSecRevoke src v s) := by
  unfold wrSecRevoke
  refine keeps_ite _ (fun _ => ?_) (fun _ => keeps_of_kept (by simp only [State.postIgnored_kept]))
  exact ⟨rfl, id, fun k h => by simp [h], Nat.le_refl _, id, fun _ _ _ => id⟩

theorem keeps_wrSec (src off : Nat) (v : Word) (s : State) : Keeps s (wrSec src off v s) := by
  unfold wrSec
  exact keeps_ite _ (fun _ => keeps_wrSecRevoke src v s) (fun _ => keeps_ite _ (fun _ => keeps_wrSecBoot v s)
    (fun _ => keeps_of_kept (by simp only [State.plainWrite_kept])))

/-- A state whose queue, store and ring are those of `s`, its time at the start. -/
theorem keeps_zero {s t : State} (hp : t.pending = s.pending) (hs : t.sec = s.sec) (hr : t.evt.ring = s.evt.ring)
    (ht : t.time.ns.toNat < 1000000000 ∨ t.time = s.time) : Keeps s t :=
  ⟨hp, fun h => ht.elim id (fun e => e ▸ h), by rw [hs]; exact fun _ => id, Nat.le_of_eq (by rw [hs]), by rw [hr]; exact id,
    by unfold Grave; rw [hr]; exact fun _ _ _ => id⟩

theorem reset_time : State.reset.time.ns.toNat < 1000000000 := by decide

theorem keeps_coldFrom (s : State) : Keeps s s.coldFrom := keeps_zero rfl rfl rfl (.inl reset_time)
theorem keeps_cold (s : State) (b : Bool) : Keeps s (s.cold b) := keeps_zero rfl rfl rfl (.inl reset_time)

theorem keeps_warmReset (s : State) (c : Nat) : Keeps s (s.warmReset c) := by
  unfold State.warmReset
  simp only
  generalize hu : (if s.on F.DBG_STAT.FROZEN then s.emit "FREEZE_ACK" 0 [0] else s) = u
  have h : Keeps s u := by
    subst hu
    exact keeps_ite _ (fun _ => keeps_of_kept (by simp only [State.emit_kept])) (fun _ => Keeps.rfl' s)
  simp only [andThen_cons, andThen_nil]
  refine Keeps.step (b := u.coldFrom) ?_ (h.trans (keeps_coldFrom u))
  simp only [State.startCore0_kept, State.put_kept]
  rw [State.recalsStopped_kept]; rfl

theorem keeps_wrSys (src off : Nat) (v : Word) (s : State) : Keeps s (wrSys src off v s) := by
  unfold wrSys
  exact keeps_ite _ (fun _ => keeps_ite _ (fun _ => keeps_warmReset s 2) (fun _ => Keeps.rfl' s))
    (fun _ => keeps_of_kept (by simp only [State.plainWrite_kept]))

theorem timeAdd_ns (t : Time) (d : Int) : (timeAdd t d).ns.toNat < 1000000000 := by
  unfold timeAdd
  simp only [BitVec.toNat_ofNat]
  have : 0 < secNs := by decide
  have h1 := Int.emod_lt_of_pos ((((t.ns.toNat * fracNs + t.frac.toNat : Nat) : Int) + d) / (fracNs : Int)) this
  have h2 : secNs = 1000000000 := rfl
  omega

theorem keeps_tick (s : State) : Keeps s s.tick := by
  unfold State.tick
  exact keeps_zero rfl rfl rfl (.inl (timeAdd_ns _ _))

theorem steppedTime_ns (s : State) (m : Nat) : (s.steppedTime m).ns.toNat < 1000000000 := by
  unfold State.steppedTime
  split
  · simp only [BitVec.toNat_ofNat]; omega
  · exact timeAdd_ns _ _

theorem keeps_timeStep (s : State) (m : Nat) : Keeps s (s.timeStep m) := by
  unfold State.timeStep
  simp only
  refine Keeps.step (b := { s with time := s.steppedTime m, tim := { s.tim with slew := none } }) ?_ ?_
  · simp only [State.post_kept, State.bump_kept]
  · exact keeps_zero rfl rfl rfl (.inl (steppedTime_ns _ _))

theorem keeps_wrTimStep (v : Word) (s : State) : Keeps s (wrTimStep v s) :=
  keeps_ite _ (fun _ => keeps_timeStep s _) (fun _ => Keeps.rfl' s)

theorem keeps_wrTim (src off : Nat) (v : Word) (s : State) : Keeps s (wrTim src off v s) := by
  unfold wrTim
  refine keeps_ite _ (fun _ => keeps_of_kept (by simp only [wrTimCtl_kept])) (fun _ => keeps_ite _ (fun _ => keeps_wrTimStep v s) (fun _ => ?_))
  refine keeps_of_kept ?_
  simp only [kept_ite, wrTimSlew_kept, wrTrgCfg_kept, wrTrgClosed_kept, State.plainWrite_kept, ite_self]

theorem keeps_slewEnds (s : State) : Keeps s s.slewEnds := by
  unfold State.slewEnds
  split
  · exact keeps_ite _ (fun _ => keeps_tick s) (fun _ => Keeps.rfl' s)
  · exact Keeps.rfl' s

theorem keeps_regWrite (src off : Nat) (v : Word) (s : State) : Keeps s (regWrite src off v s) := by
  unfold regWrite
  split
  · exact keeps_wrSys src off v s
  · exact keeps_wrSec src off v s
  all_goals first | exact keeps_wrTim src off v s | (refine keeps_of_kept ?_; simp only [wrFab_kept, wrTile_kept, wrLnk_kept, wrSlk_kept, wrScp_kept, wrSdi_kept, wrVce_kept, wrCmp_kept, wrDrc_kept, wrMmu_kept, wrEth_kept, wrCcp_kept, wrAud_kept, wrPwr_kept, wrThm_kept, wrEvt_kept, wrCpu_kept, wrGpioBlock_kept, State.plainWrite_kept]; done) | skip
  · refine keeps_of_kept ?_; simp only [kept_ite, wrDbgCtl_kept, State.plainWrite_kept, ite_self]

theorem keeps_guardWrite (s : State) (off : Nat) (f : State → State) (h : ∀ s, Keeps s (f s)) : Keeps s (s.guardWrite off f) := by
  unfold State.guardWrite
  exact keeps_ite _ (fun _ => Keeps.rfl' s) (fun _ => keeps_ite _ (fun _ => keeps_of_kept (by simp only [State.postIgnored_kept]))
    (fun _ => keeps_ite _ (fun _ => Keeps.rfl' s) (fun _ => (keeps_of_kept (by simp only [State.touchDomain_kept])).trans (h _))))

theorem keeps_busWrite (s : State) (src off : Nat) (w : Bool) (v : Word) : Keeps s (s.busWrite src off w v) := by
  unfold State.busWrite
  exact keeps_ite _ (fun _ => Keeps.rfl' s) (fun _ => keeps_guardWrite s off _ (keeps_regWrite src off v))

theorem keeps_busWrites (s : State) (src off : Nat) (l : List (List Byte)) : Keeps s (s.busWrites src off l) := by
  induction l generalizing s off with
  | nil => exact Keeps.rfl' s
  | cons b r ih => exact (keeps_busWrite s src off true _).trans (ih _ _)

theorem keeps_perform (s : State) (q cid opc : Nat) (act : CcpCmd → State → State) (h : ∀ c s, Keeps s (act c s)) :
    Keeps s (s.perform q cid opc act) := by
  unfold State.perform
  repeat' split
  all_goals first | exact Keeps.rfl' _ | exact keeps_of_kept (State.finish_kept _ _ _ _) | exact h _ _

theorem keeps_doRegWrite (data : List Byte) (c : CcpCmd) (s : State) : Keeps s (doRegWrite data c s) := by
  unfold doRegWrite
  simp only
  have h := State.hostRead_kept s c 0 (4 * c.f 0x24 2) data
  revert h
  generalize s.hostRead c 0 (4 * c.f 0x24 2) data = r
  obtain ⟨a, t⟩ := r
  intro h
  cases a with
  | error e => exact keeps_of_kept ((State.cmdError_kept _ _ _).trans h)
  | ok b => exact Keeps.step (State.finish_kept _ _ _ _) ((keeps_of_kept h).trans (keeps_busWrites _ _ _ _))

theorem keeps_sec {s : State} (c : SecStore) (hr : ∀ k, s.sec.revoked.testBit k = true → c.revoked.testBit k = true) (hf : s.sec.floor ≤ c.floor) :
    Keeps s { s with sec := c } := ⟨rfl, id, hr, hf, id, fun _ _ _ => id⟩

theorem keeps_doCommit (program : Bool) (c : CcpCmd) (s : State) : Keeps s (doCommit program c s) := by
  unfold doCommit
  simp only
  refine keeps_ite _ (fun _ => keeps_of_kept (State.finish_kept _ _ _ _)) (fun _ => ?_)
  have h := State.stagedImage_kept s
  revert h
  generalize s.stagedImage = r
  obtain ⟨a, t⟩ := r
  intro h
  cases a with
  | error e => exact keeps_of_kept ((State.cmdError_kept _ _ _).trans h)
  | ok img =>
    simp only
    refine (keeps_of_kept h).trans ?_
    have g := State.fwVerify_kept t img 16777216
    revert g
    generalize t.fwVerify img 16777216 = r
    obtain ⟨e, u⟩ := r
    intro g
    refine (keeps_of_kept g).trans ?_
    cases e with
    | succ e => exact keeps_of_kept (State.finish_kept _ _ _ _)
    | zero =>
      simp only
      refine keeps_ite _ (fun _ => ?_) (fun _ => ?_)
      · exact Keeps.step (State.finish_kept _ _ _ _) (keeps_sec _ (fun _ => id) (Nat.le_refl _))
      · refine Keeps.step (State.finish_kept _ _ _ _) ?_
        generalize hw : u.writeSlot (c.f 0x20 1) (img.take (field img 8 4)) = w
        have : Keeps u w := hw ▸ keeps_of_kept (State.writeSlot_kept _ _ _)
        refine this.trans ?_
        refine keeps_ite _ (fun _ => ?_) (fun _ => ?_)
        · exact keeps_sec _ (fun _ => id) (Nat.le_refl _)
        · exact keeps_sec _ (fun _ => id) (Nat.le_refl _)

theorem keeps_bootSlots (s : State) : Keeps s s.bootSlots.1 := by
  unfold State.bootSlots
  simp only
  split
  · exact keeps_sec _ (fun _ => id) (Nat.le_refl _)
  · exact Keeps.rfl' s

theorem keeps_trySlots (s : State) (a : Nat) (l : List Nat) :
    (s.trySlots a l).2.kept = s.kept ∧ ∀ t, (s.trySlots a l).1 = some t → t.kept = s.kept := by
  induction l generalizing s with
  | nil => exact ⟨rfl, fun t h => by cases h⟩
  | cons k r ih =>
    unfold State.trySlots
    split
    · exact ih s
    · have g := State.fwVerify_kept s (s.slotImage k) 0x1000000
      revert g
      generalize s.fwVerify (s.slotImage k) 0x1000000 = x
      obtain ⟨e, u⟩ := x
      intro g
      cases e with
      | zero => exact ⟨g, fun t h => by cases h; exact (State.runFirmware_kept _ _ _ _).trans g⟩
      | succ e => exact ⟨(ih u).1.trans g, fun t h => ((ih u).2 t h).trans g⟩

theorem keeps_tryOne (t : State) (a : Nat) (l : List Nat) : Keeps t (match t.trySlots a l with
        | (some s, _) => s
        | (none, s) => s) := by
  have ⟨g1, g2⟩ := keeps_trySlots t a l
  revert g1 g2
  generalize t.trySlots a l = y
  obtain ⟨a, u⟩ := y
  intro g1 g2
  cases a with
  | some w => exact keeps_of_kept (g2 w rfl)
  | none => exact keeps_of_kept g1

theorem keeps_bootFlash (s : State) : Keeps s s.bootFlash := by
  unfold State.bootFlash
  have h := keeps_bootSlots s
  revert h
  generalize s.bootSlots = x
  obtain ⟨t, order⟩ := x
  intro h
  refine h.trans ?_
  simp only
  have ⟨g1, g2⟩ := keeps_trySlots t 0 order
  revert g1 g2
  generalize t.trySlots 0 order = y
  obtain ⟨a, u⟩ := y
  intro g1 g2
  cases a with
  | some w => exact keeps_of_kept (g2 w rfl)
  | none => exact (keeps_of_kept g1).trans (keeps_ite _ (fun _ => keeps_of_kept (State.startNetBoot_kept _ _)) (fun _ => keeps_of_kept (State.enterRecovery_kept _)))

theorem kept_boot (s : State) (x : BootState) : State.kept { s with boot := x } = s.kept := rfl

theorem keeps_bootRun (s : State) (sel : Nat) : Keeps s (s.bootRun sel) := by
  unfold State.bootRun
  have h : ∀ x, Keeps s { s with boot := x } := fun x => keeps_of_kept (kept_boot s x)
  replace h := h { s.boot with sel := sel }
  simp only
  revert h
  generalize ({ s with boot := { s.boot with sel := sel } } : State) = t
  intro h
  split
  · exact h.trans (keeps_of_kept (State.startNetBoot_kept _ _))
  · exact h.trans (keeps_of_kept (State.enterRecovery_kept _))
  · exact h.trans (keeps_bootFlash _)

theorem keeps_mgmtRecover (s : State) (r : MgmtReq) (b : List Byte) : Keeps s (s.mgmtRecover r b) := by
  unfold State.mgmtRecover
  simp only
  refine keeps_ite _ (fun _ => keeps_of_kept (State.mgmtReply_kept _ _ _ _ _)) (fun _ =>
    keeps_ite _ (fun _ => keeps_of_kept (State.mgmtReply_kept _ _ _ _ _)) (fun _ =>
    keeps_ite _ (fun _ => keeps_of_kept (State.mgmtReply_kept _ _ _ _ _)) (fun _ => ?_)))
  refine (keeps_of_kept (State.mgmtReply_kept s r 0x20 0 [])).trans ?_
  generalize s.mgmtReply r 0x20 0 [] = t
  split
  · exact keeps_of_kept (State.startNetBoot_kept _ _)
  · exact keeps_tryOne _ _ _
  · exact keeps_tryOne _ _ _
  · exact (keeps_sec (s := t) { t.sec with trial := 3, attempts := 0 } (fun _ => id) (Nat.le_refl _)).trans (keeps_bootFlash _)

theorem keeps_mgmtReceive (s : State) (x ip port : Nat) (m : List Byte) : Keeps s (s.mgmtReceive x ip port m) := by
  unfold State.mgmtReceive
  simp only
  refine keeps_ite _ (fun _ => keeps_of_kept (State.mgmtBad_kept _ _)) (fun _ => ?_)
  split
  · exact keeps_of_kept (State.mgmtDiscover_kept _ _)
  · exact keeps_of_kept (State.mgmtConnect_kept _ _ _)
  · exact keeps_of_kept (State.mgmtDisconnect_kept _ _ _)
  · exact keeps_mgmtRecover _ _ _
  · exact keeps_ite _ (fun _ => keeps_of_kept (State.bootOffer_kept _ _)) (fun _ => Keeps.rfl' _)
  · exact keeps_ite _ (fun _ => keeps_of_kept (State.bootData_kept _ _)) (fun _ => Keeps.rfl' _)
  · exact keeps_of_kept (State.mgmtBad_kept _ _)

theorem keeps_ipReceive (s : State) (x : Nat) (f : List Byte) : Keeps s (s.ipReceive x f) := by
  unfold State.ipReceive
  simp only
  refine keeps_ite _ (fun _ => keeps_of_kept (State.ethDiscard_kept _ _)) (fun _ =>
    keeps_ite _ (fun _ => keeps_of_kept (State.icmpReceive_kept _ _ _ _)) (fun _ =>
    keeps_ite _ (fun _ => keeps_of_kept (State.ethDiscard_kept _ _)) (fun _ =>
    keeps_ite _ (fun _ => Keeps.rfl' s) (fun _ =>
    keeps_ite _ (fun _ => keeps_ite _ (fun _ => keeps_of_kept (State.ptpReceive_kept _ _ _)) (fun _ => keeps_of_kept (State.ethDiscard_kept _ _))) (fun _ =>
    keeps_ite _ (fun _ => keeps_mgmtReceive _ _ _ _ _) (fun _ => keeps_of_kept (State.ethDiscard_kept _ _)))))))

theorem keeps_ethDeliver (s : State) (p k : Nat) (fcs : Bool) (f : List Byte) : Keeps s (s.ethDeliver p k fcs f) := by
  unfold State.ethDeliver
  simp only
  generalize hu : (if dstMac f = s.subMac (4 * p + k) then s.latchWake (3 + p) else s) = u
  have h : Keeps s u := hu ▸ keeps_ite _ (fun _ => keeps_of_kept (State.latchWake_kept _ _)) (fun _ => Keeps.rfl' s)
  refine h.trans ?_
  refine keeps_ite _ (fun _ => keeps_of_kept (State.bump_kept _ _)) (fun _ =>
    keeps_ite _ (fun _ => keeps_of_kept (State.ethDiscard_kept _ _)) (fun _ =>
    keeps_ite _ (fun _ => keeps_of_kept (State.macControl_kept _ _ _)) (fun _ =>
    keeps_ite _ (fun _ => keeps_of_kept (State.ethDiscard_kept _ _)) (fun _ => ?_))))
  split
  · exact keeps_of_kept (State.arpReceive_kept _ _ _)
  · exact keeps_ipReceive _ _ _
  · exact keeps_of_kept (State.ethDiscard_kept _ _)

theorem keeps_ethReceive (s : State) (p k : Nat) (fcs : Bool) (f : List Byte) : Keeps s (s.ethReceive p k fcs f) := by
  unfold State.ethReceive
  simp only
  refine keeps_ite _ (fun _ => Keeps.rfl' s) (fun _ => keeps_ite _ (fun _ => ?_) (fun _ => keeps_ethDeliver _ _ _ _ _))
  generalize hu : (if dstMac f = s.subMac (4 * p + k) then s.latchWake (3 + p) else s) = u
  have h : Keeps s u := hu ▸ keeps_ite _ (fun _ => keeps_of_kept (State.latchWake_kept _ _)) (fun _ => Keeps.rfl' s)
  exact h.trans (keeps_ite _ (fun _ => keeps_of_kept rfl) (fun _ => keeps_of_kept (State.ethDiscard_kept _ _)))

theorem keeps_ethAwake (s : State) : Keeps s s.ethAwake :=
  Keeps.trans (b := { s with eth := { s.eth with asleep := [] } }) (keeps_of_kept rfl) (keeps_foldl _ (fun s e => keeps_ethDeliver s _ _ _ _) _ _)

end Sys2Proof.Machine
end

