-- ==== Sys2Proof/Laws/KeepsCommands.lean ====
section
/-! SUPPORT. What the commands that change the time counter, the store or the event ring do to them. -/

namespace Sys2Proof.Machine

set_option maxRecDepth 4000
set_option linter.unusedVariables false

theorem keeps_commandComplete (s : State) (q cid : Nat) : Keeps s (s.commandComplete q cid) := by
  unfold State.commandComplete
  split
  · simp only
    refine keeps_ite _ (fun _ => Keeps.rfl' s) (fun _ => ?_)
    generalize hv : State.sweepRuns _ = v
    have h : Keeps s v := by
      subst hv
      refine Keeps.step (State.sweepRuns_kept _) ?_
      refine keeps_ite _ (fun _ => ?_) (fun _ => ?_)
      · split
        · rename_i h
          have h' := congrArg (fun p => State.kept (Prod.snd p)) h
          simp only [State.engWrite_kept] at h'
          refine keeps_of_kept ?_
          simp only [State.irq_kept, State.put_kept, State.setCcpQ_kept]
          rw [← h']; rfl
        · rename_i h
          have h' := congrArg (fun p => State.kept (Prod.snd p)) h
          simp only [State.engWrite_kept] at h'
          refine keeps_of_kept ?_
          rw [← h']; rfl
      · refine keeps_of_kept ?_
        simp only [kept_ite, State.flushHeld_kept, State.setCcpQ_kept, ite_self]
        rfl
    exact keeps_ite _ (fun _ => h.trans (keeps_warmReset v 2)) (fun _ => h)
  · exact Keeps.rfl' s

theorem keeps_powerDown (s : State) (b : Bool) : Keeps s (s.powerDown b) := by
  unfold State.powerDown
  simp only
  generalize hv : (s.cold b).pwrGood false = v
  have h : Keeps s v := hv ▸ Keeps.step (State.pwrGood_kept _ _) (keeps_cold s b)
  exact h.trans (keeps_of_kept rfl)

theorem keeps_shutdown (s : State) (n temp : Nat) : Keeps s (s.shutdown n temp) := by
  unfold State.shutdown
  simp only
  refine Keeps.trans ?_ (keeps_powerDown _ _)
  refine Keeps.trans (b := _) ?_ (keeps_place _ _ _)
  refine keeps_of_kept ?_
  refine Eq.trans (b := State.kept ((s.put F.THM_STAT.THERM 1).setBytes shutdownAt ((s.put F.THM_STAT.THERM 1).shutdownRecord n temp (s.thermal.shutdowns.toNat + 1)))) ?_ ?_
  · rfl
  · simp only [State.setBytes_kept, State.put_kept]

theorem keeps_hot (s : State) (l : Sparse Bool) : State.kept { s with thermal := { s.thermal with hot125 := l } } = s.kept := rfl

theorem keeps_converted (s : State) (n temp : Nat) : Keeps s (s.converted n temp) := by
  unfold State.converted
  simp only
  generalize hu : s.put (F.THM_SENS.VALID n) 1 = u
  have hu' : u.kept = s.kept := by rw [← hu]; exact State.put_kept _ _ _
  generalize hv : (u.put (F.THM_SENS.FAULT n) 0).put (F.THM_SENS.TEMP n) temp = v
  have hv' : v.kept = s.kept := by rw [← hv, State.put_kept, State.put_kept]; exact hu'
  refine keeps_ite _ (fun _ => keeps_of_kept (by rw [State.evaluate_kept, State.moduleLimit_kept, State.sensorFault_kept]; exact hu')) (fun _ => ?_)
  refine keeps_ite _ (fun _ => Keeps.trans (keeps_of_kept hv') (keeps_shutdown _ _ _)) (fun _ => keeps_of_kept ?_)
  rw [State.evaluate_kept, State.moduleLimit_kept, keeps_hot]
  exact hv'

theorem keeps_fold_put (l : List Nat) (f : Nat → Fld) (v : Nat) (s : State) : Keeps s (l.foldl (fun t d => t.put (f d) v) s) :=
  keeps_foldl _ (fun s x => keeps_of_kept (State.put_kept _ _ _)) l s

theorem keeps_hibernate (s : State) : Keeps s s.hibernate := by
  unfold State.hibernate
  simp only
  generalize hu : s.post srcPwr 5 6 0 0 = u
  have h : Keeps s u := hu ▸ keeps_of_kept (State.post_kept _ _ _ _ _ _)
  refine h.trans (Keeps.step (State.put_kept _ _ _) (Keeps.step (State.put_kept _ _ _) (Keeps.step (State.put_kept _ _ _) ?_)))
  refine Keeps.trans ?_ (keeps_fold_put _ _ _ _)
  exact keeps_zero rfl rfl rfl (.inl reset_time)

theorem keeps_debugAt (s : State) (off : Nat) (w : Option (List Byte)) : Keeps s (s.debugAt off w).2 := by
  unfold State.debugAt
  cases w with
  | some b => exact keeps_busWrites _ _ _ _
  | none => exact keeps_of_kept (State.busReads_kept _ _ _ _)

theorem keeps_debugWindow (s : State) (a : Nat) (w : Option (List Byte)) : Keeps s (s.debugWindow a w).2 := by
  unfold State.debugWindow
  exact keeps_debugAt _ _ _

theorem keeps_debugRunning (s : State) (a : Nat) (w : Option (List Byte)) : Keeps s (s.debugRunning a w).2 := by
  unfold State.debugRunning
  split
  · exact keeps_debugWindow _ _ _
  · exact keeps_of_kept (State.nvsWrite_kept _ _ _ _)
  · exact keeps_of_kept (State.outsideMap_kept _ _ _ _)
  · exact keeps_of_kept (State.outsideMap_kept _ _ _ _)
  · exact keeps_of_kept (by simp only [snd_ite, State.physWrite_kept, ite_self])
  · exact keeps_of_kept (by simp only [State.physWrite_kept])
  · rename_i r
    have h := State.physRead_kept s debugReq a 8
    revert h
    generalize s.physRead debugReq a 8 = y
    obtain ⟨x, t⟩ := y
    intro h
    cases x with
    | ok b => exact keeps_of_kept h
    | error e =>
      refine (keeps_of_kept h).trans (keeps_of_kept ?_)
      simp only
      split
      · exact State.takeFree_kept _
      · rfl

theorem keeps_debugFrozen (s : State) (a : Nat) (w : Option (List Byte)) : Keeps s (s.debugFrozen a w).2 := by
  unfold State.debugFrozen
  simp only
  split
  · rw [snd_ite]
    exact keeps_ite _ (fun _ => Keeps.trans (b := { s with jtag := { s.jtag with awake := _ } }) (keeps_of_kept rfl) (keeps_of_kept (State.debugCells_kept _ _ _)))
      (fun _ => keeps_of_kept (State.takeFree_kept _))
  · exact keeps_of_kept (State.debugCells_kept _ _ _)
  · rw [snd_ite]
    exact keeps_ite _ (fun _ => keeps_debugWindow _ _ _) (fun _ => keeps_of_kept (State.takeFree_kept _))
  · exact keeps_of_kept (State.outsideMap_kept _ _ _ _)
  · exact keeps_of_kept (State.outsideMap_kept _ _ _ _)
  · split
    · exact keeps_of_kept (State.nvsWrite_kept _ _ _ _)
    · exact Keeps.rfl' s
  · exact Keeps.rfl' s

theorem keeps_memAccDone (s : State) : Keeps s s.memAccDone := by
  unfold State.memAccDone
  split
  · exact Keeps.rfl' s
  · rename_i a w _
    refine keeps_ite _ (fun _ => Keeps.rfl' s) (fun _ => ?_)
    have h : Keeps s (if s.on F.DBG_STAT.FROZEN then s.debugFrozen a w else s.debugRunning a w).2 := by
      rw [snd_ite]
      exact keeps_ite _ (fun _ => keeps_debugFrozen _ _ _) (fun _ => keeps_debugRunning _ _ _)
    revert h
    generalize (if s.on F.DBG_STAT.FROZEN then s.debugFrozen a w else s.debugRunning a w) = x
    obtain ⟨⟨d, st⟩, u⟩ := x
    intro h
    exact h.trans (keeps_of_kept rfl)

theorem keeps_freezeComplete (s : State) : Keeps s s.freezeComplete := by
  unfold State.freezeComplete
  exact keeps_ite _ (fun _ => Keeps.rfl' s) (fun _ => Keeps.trans (keeps_of_kept (State.stopAll_kept s)) (keeps_place _ _ _))

theorem keeps_pass (s : State) : Keeps s s.pass := by
  unfold State.pass
  simp only
  refine Keeps.step (State.cosyTick_kept _) (keeps_ite _ (fun _ => (keeps_tick s).trans (keeps_of_kept rfl)) (fun _ => Keeps.rfl' s))

/-- A command answers a next state that keeps what outlives it. -/
def Ends (s : State) (o : Host.Outcome State Fault Refusal) : Prop := ∃ t, o = .next t ∧ Keeps s t

theorem ends_of_kept {s : State} {o : Host.Outcome State Fault Refusal} (h : ∃ t, o = .next t ∧ t.kept = s.kept) : Ends s o :=
  let ⟨t, h, g⟩ := h
  ⟨t, h, keeps_of_kept g⟩

theorem ends_running (s t : State) (h : Keeps s t) : Ends s (s.running t) := by
  unfold State.running
  exact ⟨_, rfl, keeps_ite _ (fun _ => Keeps.rfl' s) (fun _ => h)⟩

theorem ends_bootConfirm (v : Word) (s : State) : Ends s (execBootConfirm v s) := ends_running _ _ (keeps_guardWrite _ _ _ (fun s => keeps_wrSecBoot _ s))
theorem ends_bootStart (sel : Fin 4) (s : State) : Ends s (execBootStart sel s) := by
  refine ends_running _ _ (keeps_ite _ (fun _ => Keeps.trans ?_ (keeps_bootRun _ _)) (fun _ => Keeps.rfl' s))
  refine keeps_of_kept ?_
  rw [State.emit_kept, State.put_kept]
  rfl
theorem ends_commandComplete (q : Fin 65) (cid : Half) (s : State) : Ends s (execCommandComplete q cid s) := ends_running _ _ (keeps_commandComplete _ _ _)
theorem ends_ethFrameReceive (p : Fin 2) (k : Fin 4) (fcs : Bool) (frame : List Byte) (s : State) : Ends s (execEthFrameReceive p k fcs frame s) :=
  ends_running _ _ (Keeps.trans (keeps_of_kept (State.ethFlush_kept _)) (keeps_ethReceive _ _ _ _ _))
theorem ends_eventPlace (s : State) : Ends s (execEventPlace s) := by
  refine ⟨_, rfl, keeps_ite _ (fun _ => ?_) (fun _ => Keeps.rfl' s)⟩
  unfold State.placeNext
  split
  · exact Keeps.rfl' s
  · rename_i e r _
    exact Keeps.trans (b := { s with evt := { s.evt with intake := r } }) (keeps_of_kept rfl) (keeps_place _ _ _)
theorem ends_summaryPlace (s : State) : Ends s (execSummaryPlace s) := by
  refine ⟨_, rfl, keeps_ite _ (fun _ => ?_) (fun _ => Keeps.rfl' s)⟩
  unfold State.placeSummary
  split
  · rename_i x r _ _
    exact Keeps.trans (b := { s with evt := { s.evt with supp := r } }) (keeps_of_kept rfl) (keeps_place _ _ _)
  · exact Keeps.rfl' s
theorem ends_freezeComplete (s : State) : Ends s (execFreezeComplete s) := ⟨_, rfl, keeps_freezeComplete s⟩
theorem ends_performCommit (q cid k : Nat) (act : CcpCmd → State → State) (s : State) (h : ∀ c s, Keeps s (act c s)) : Keeps s (s.performCommit q cid k act) :=
  keeps_perform _ _ _ _ _ (fun c s => keeps_ite _ (fun _ => h c s) (fun _ => Keeps.rfl' s))
theorem ends_fwCommitWrite (q : Fin 65) (cid : Half) (b : Bool) (s : State) : Ends s (execFwCommitWrite q cid b s) :=
  ends_running _ _ (ends_performCommit _ _ _ _ _ (keeps_doCommit b))
theorem ends_fwCommitTry (q : Fin 65) (cid : Half) (b : Bool) (s : State) : Ends s (execFwCommitTry q cid b s) :=
  ends_running _ _ (ends_performCommit _ _ _ _ _ (keeps_doCommit b))
theorem ends_fwCommitTryReset (q : Fin 65) (cid : Half) (b : Bool) (s : State) : Ends s (execFwCommitTryReset q cid b s) :=
  ends_running _ _ (ends_performCommit _ _ _ _ _ (keeps_doCommit b))
theorem ends_fwCommitConfirm (q : Fin 65) (cid : Half) (s : State) : Ends s (execFwCommitConfirm q cid s) :=
  ends_running _ _ (ends_performCommit _ _ _ _ _ (fun c s => Keeps.step (State.finish_kept _ _ _ _) (keeps_confirm s)))
theorem ends_hibernateEntry (s : State) : Ends s (execHibernateEntry s) :=
  ends_running _ _ (keeps_ite _ (fun _ => keeps_hibernate s) (fun _ => Keeps.rfl' s))
theorem ends_hibernateExit (hot : Bool) (s : State) : Ends s (execHibernateExit hot s) := by
  refine ⟨_, rfl, keeps_ite _ (fun _ => Keeps.step (State.step3_kept _ _) (Keeps.step (State.put_kept _ _ _) (Keeps.step (State.put_kept _ _ _) ?_))) (fun _ => Keeps.rfl' s)⟩
  exact keeps_zero rfl rfl rfl (.inl reset_time)
theorem ends_keyRevoke (v : Word) (src : Nat) (s : State) : Ends s (execKeyRevoke v src s) :=
  ends_running _ _ (keeps_guardWrite _ _ _ (fun s => keeps_wrSecRevoke _ _ s))
theorem ends_memaccDone (s : State) : Ends s (execMemaccDone s) := ⟨_, rfl, keeps_ite _ (fun _ => keeps_memAccDone s) (fun _ => Keeps.rfl' s)⟩
theorem ends_mgmtRecover (r : MgmtReq) (b : List Byte) (s : State) : Ends s (execMgmtRecover r b s) :=
  ends_running _ _ (Keeps.trans (keeps_of_kept (State.ethFlush_kept _)) (keeps_mgmtRecover _ _ _))
theorem ends_powerLoss (c : Fin 3) (b : Bool) (s : State) : Ends s (execPowerLoss c b s) := by
  refine ⟨_, rfl, keeps_ite _ (fun _ => ?_) (fun _ => keeps_of_kept rfl)⟩
  exact Keeps.trans (keeps_ite _ (fun _ => keeps_place _ _ _) (fun _ => Keeps.rfl' s)) (keeps_powerDown _ _)
theorem ends_powerUp (v : Half × Half) (hot : Bool) (x : BitVec 4) (s : State) : Ends s (execPowerUp v hot x s) := by
  refine ⟨_, rfl, keeps_ite _ (fun _ => Keeps.rfl' s) (fun _ => Keeps.step (State.step3_kept _ _) (Keeps.step (State.put_kept _ _ _) (Keeps.step (State.put_kept _ _ _) ?_)))⟩
  exact Keeps.trans (keeps_ite _ (fun _ => Keeps.rfl' s) (fun _ => keeps_cold _ _)) (keeps_of_kept rfl)
theorem ends_regWrite (q : Fin 65) (cid : Half) (d : List Byte) (s : State) : Ends s (execRegWrite q cid d s) :=
  ends_running _ _ (keeps_perform _ _ _ _ _ (keeps_doRegWrite d))
theorem ends_registerWrite (off : Nat) (v : Word) (w : Bool) (src : Nat) (s : State) : Ends s (execRegisterWrite off v w src s) :=
  ends_running _ _ (keeps_busWrite _ _ _ _ _)
theorem ends_sensorConversion (n : Fin 26) (t : Half) (s : State) : Ends s (execSensorConversion n t s) :=
  ⟨_, rfl, keeps_ite _ (fun _ => keeps_converted _ _ _) (fun _ => Keeps.rfl' s)⟩
theorem ends_slewComplete (s : State) : Ends s (execSlewComplete s) := ends_running _ _ (keeps_slewEnds s)
theorem ends_timeStepOffset (v : Word) (s : State) : Ends s (execTimeStepOffset v s) := ends_running _ _ (keeps_guardWrite _ _ _ (fun s => keeps_wrTimStep _ s))
theorem ends_timeStepSet (v : Word) (s : State) : Ends s (execTimeStepSet v s) := ends_running _ _ (keeps_guardWrite _ _ _ (fun s => keeps_wrTimStep _ s))
theorem ends_wakeComplete (s : State) : Ends s (execWakeComplete s) := by
  refine ends_running _ _ (keeps_ite _ (fun _ => Keeps.trans ?_ (keeps_ethAwake _)) (fun _ => Keeps.rfl' s))
  generalize h2 : s.power.offChannels.foldl State.channelBack (s.power.offDomains.foldl State.bringUp s) = s2
  have g : s2.kept = s.kept := by
    subst h2
    rw [kept_foldl _ (fun s x => State.channelBack_kept s x), kept_foldl _ (fun s x => State.bringUp_kept s x)]
  exact keeps_of_kept (Eq.trans (b := s2.kept) rfl g)
theorem ends_warmReset (c : Fin 4) (s : State) : Ends s (execWarmReset c s) := ⟨_, rfl, keeps_ite _ (fun _ => Keeps.rfl' s) (fun _ => keeps_warmReset s _)⟩
theorem ends_warmrst (s : State) : Ends s (execWarmrst s) := by
  refine ⟨_, rfl, ?_⟩
  unfold State.scan
  generalize hu : s.setIr 0x15 = u
  have h : Keeps s u := by rw [← hu]; exact keeps_of_kept (State.setIr_kept _ _)
  exact keeps_ite _ (fun _ => h.trans (keeps_warmReset u 4)) (fun _ => Keeps.rfl' s)

theorem ends_watchdogExpire (s : State) : Ends s (execWatchdogExpire s) := by
  refine ends_running _ _ (keeps_ite _ (fun _ => Keeps.rfl' s) (fun _ => keeps_ite _ (fun _ => ?_) (fun _ => ?_)))
  · exact Keeps.trans (keeps_of_kept (State.post_kept _ _ _ _ _ _)) (keeps_warmReset _ _)
  · exact keeps_of_kept (Eq.trans (b := State.kept (s.irq 9)) rfl (State.irq_kept _ _))

theorem ends_clear (s : State) : ∃ t, execEvtClearDone s = .next t ∧ t.pending = s.pending ∧ t.time = s.time ∧ t.sec = s.sec ∧
    (RingOk s.evt.ring → RingOk t.evt.ring) := by
  unfold execEvtClearDone
  refine ⟨_, rfl, ?_⟩
  split
  · exact ⟨rfl, rfl, rfl, id⟩
  · rename_i sev last _
    have h := State.put_kept ({ s with evt := { s.evt with clearing := none, ring := s.evt.ring.filter (fun x => !clears sev last x.2) } } : State) F.EVT_CLEAR.BUSY 0
    simp only [State.kept, Prod.mk.injEq] at h
    obtain ⟨a, b, c, _, e⟩ := h
    refine ⟨e, a, b, fun ok => ?_⟩
    rw [c]
    exact ⟨canonical_filter ok.1 _, fun x hx => ok.2 x (List.mem_filter.1 hx).1⟩


end Sys2Proof.Machine
end

