-- ==== Sys2Proof/WellFormed.lean ====
section
/-! DEFINITION. Well-formed commands: the operands that a sender can deliver. Fields with a width of their own are typed by it; here
stand the ranges of the others. -/

namespace Sys2Proof

/-- The codes of Table 3.11, a sweep of at most seven codes (R84), eight taps, openings of six bits. -/
def AdaptOut.wellFormed (a : AdaptOut) : Bool :=
  decide (a.vga < 64 ∧ a.sweep.length ≤ 7 ∧ a.taps.length = 8 ∧ a.wl ≤ 32 ∧ a.wr ≤ 32 ∧ a.hu ≤ 32 ∧ a.hd ≤ 32)

/-- Every line of a plane has the plane's width, and every sample fits its depth. -/
def planeOk (w h depth : Nat) (l : List (List Nat)) : Bool :=
  l.length == h && l.all (fun r => decide (r.length = w) && r.all (fun v => decide (v < 2 ^ depth)))

/-- Planes as chroma_format_idc divides them. -/
def Planes.wellFormed (p : Planes) : Bool :=
  let cw := if p.chroma = 0 then 0 else if p.chroma = 3 then p.w else p.w / 2
  let ch := if p.chroma = 0 then 0 else if p.chroma = 1 then p.h / 2 else p.h
  decide (p.chroma ≤ 3) && planeOk p.w p.h p.depth p.y && planeOk cw ch p.depthC p.cb && planeOk cw ch p.depthC p.cr

def CodecOut.wellFormed : CodecOut → Bool
  | .coded _ ends _ _ _ => decide (ends.Pairwise (· ≤ ·))
  | .decoded _ _ pic _ _ _ _ _ => pic.wellFormed

/-- Frames of at most four audio groups and 18-bit codes' worth of samples. -/
def SdiRx.wellFormed (x : SdiRx) : Bool :=
  decide (x.links.length ≤ 4 ∧ x.groups.length ≤ 4) && x.links.all (fun l => l.all (fun r => r.all (fun v => decide (v < 65536))))

def RocePkt.wellFormed (p : RocePkt) : Bool :=
  decide (p.qp < 64 ∧ p.op ≤ 6 ∧ p.psn < 2 ^ 24 ∧ p.rkey < 2 ^ 32 ∧ p.len < 2 ^ 32 ∧ p.va < 2 ^ 64)

def MgmtReq.wellFormed (r : MgmtReq) : Bool := decide (r.sub < 8 ∧ r.ip < 2 ^ 32 ∧ r.port < 2 ^ 16 ∧ r.seq < 2 ^ 32)

/-- The well-formed commands. -/
def Instr.wellFormed : Instr → Bool
  | .registerWrite off _ _ src => decide (src < 65536 ∧ off < 0x2000000)
  | .readClearField off _ src => decide (src < 65536 ∧ off < 0x2000000)
  | .sysLockSet => true
  | .fabLoadFull _ src => decide (src < 65536)
  | .fabLoadPartial _ src => decide (src < 65536)
  | .preApplyDone => true
  | .brewQuiescent _ => true
  | .quiesceTimeout => true
  | .applyFetchDone => true
  | .fabCommit src _ => decide (src < 65536)
  | .commitFetchDone _ => true
  | .rootSofEmit _ => true
  | .tileSofArrive _ => true
  | .fomUpdate _ _ w h taps _ => decide (w.1 ≤ 32 ∧ w.2 ≤ 32 ∧ h.1 ≤ 32 ∧ h.2 ≤ 32 ∧ taps.length = 8)
  | .laneEnterLink _ => true
  | .pllLock _ => true
  | .cdrLock _ => true
  | .initialAdaptationDone _ a => a.wellFormed
  | .adaptationRetryTimeout _ => true
  | .lolRetrainTimeout _ => true
  | .linkReferenceLost => true
  | .linkReferenceRestored => true
  | .lnkRefcfgWrite _ src => decide (src < 65536)
  | .recalInService _ => true
  | .recalOutOfService _ => true
  | .recalDone _ _ a => a.wellFormed
  | .bitSlip _ => true
  | .slipApplied _ => true
  | .prbsCheckLock _ bits => decide (bits.length < 2 ^ 16)
  | .idleColumn _ col => decide (col.length ≤ 32)
  | .alignColumn _ col _ => decide (col.length ≤ 32)
  | .alignSend _ => true
  | .xsColumn _ _ => true
  | .capPacket _ _ _ _ => true
  | .capSend _ => true
  | .negTimeout _ => true
  | .linkHalfEnable _ _ _ src => decide (src < 65536)
  | .fsPacket _ _ _ _ _ _ _ => true
  | .ldPacket _ _ _ payload _ _ => decide (payload.length < 65536)
  | .fePacket _ _ => true
  | .mdPacket _ payload _ => decide (payload.length < 65536)
  | .rawCodeWord _ code lanes words _ => decide (code.1.length ≤ 3 ∧ lanes < 2 ^ 32 ∧ words.length ≤ 32)
  | .txLine _ => true
  | .scpImmediate _ _ => true
  | .scpTransactionDone _ _ _ => true
  | .scpStretchTimeout _ => true
  | .scpBurstArm _ _ _ => true
  | .scpBurstDisarm _ _ _ => true
  | .scpBurstRelease _ => true
  | .scpBurstEntryDone _ _ => true
  | .scpBmemAccess _ _ => true
  | .scpTfileAccess _ _ => true
  | .scpTargetRead _ _ => true
  | .scpTargetWrite _ _ _ => true
  | .vsyncInputEdge _ => true
  | .hsyncPulse _ => true
  | .frameEndAtRoot _ => true
  | .queueArbitration _ => true
  | .stripeBoundary _ => true
  | .playbackWidxWrite _ _ src => decide (src < 65536)
  | .playbackDescriptorTake _ => true
  | .ingSeqLoRead _ => true
  | .rwcSiteGainAccess _ _ _ => true
  | .synSiteGainAccess _ _ _ => true
  | .colCoefDataAccess _ _ _ => true
  | .synCoefDataAccess _ _ _ => true
  | .statsFrameEnd _ _ => true
  | .statsRecordWritten _ => true
  | .patternStartInstant _ => true
  | .emuExposureStart _ => true
  | .emuFsSend _ => true
  | .emuLinePace _ => true
  | .bFrameStore _ => true
  | .analysisPairing _ => true
  | .analysisWaitTimeout _ => true
  | .analysisRecordWritten _ => true
  | .cmxBFrameStore _ => true
  | .opkFrameWrite _ => true
  | .opkBufferRecord _ => true
  | .sdiOutEnable _ _ src => decide (src < 65536)
  | .sdiOutDisable _ _ src => decide (src < 65536)
  | .tgFrameInstant _ _ => true
  | .sdiSlotTake _ _ _ => true
  | .sdiRxFrame _ x => x.wellFormed
  | .genlockSourceLost => true
  | .genlockSourceReturn far => decide (far < 2 ^ 32)
  | .vceCfgWrite src _ => decide (src < 65536)
  | .vceOpen _ => true
  | .vceClose _ => true
  | .vceReload _ => true
  | .forceIrap _ => true
  | .vceFlush _ => true
  | .encodeCandidate _ => true
  | .decodeJobTake _ => true
  | .pictureStart pix => decide (pix < 64)
  | .picturePreempt => true
  | .pictureDone _ res => res.wellFormed
  | .bitstreamSpaceFree _ => true
  | .outputSlotFree _ => true
  | .cmpSubmit _ _ src => decide (src < 65536)
  | .cmpQueueEnable _ _ src => decide (src < 65536)
  | .cmpDisable _ src => decide (src < 65536)
  | .cmpJobTake _ => true
  | .cmpJobDone _ _ => true
  | .cmpAbort _ => true
  | .cmpPreempt _ => true
  | .drcMapApply _ => true
  | .drcInit _ => true
  | .drcInitResume _ => true
  | .drcRetrainShort _ => true
  | .drcRetrainFull _ => true
  | .drcTrainDone _ _ => true
  | .shortRetrainDue _ => true
  | .shortRetrainDone => true
  | .dramRequest _ addr _ data _ _ => decide (addr % 64 = 0 ∧ addr < 0x4000000000 ∧ data.length = 64)
  | .alertNAssert _ => true
  | .dramTempRead _ temps => decide (temps.length ≤ 12)
  | .refreshDue _ _ => true
  | .pageAutoTimeout _ => true
  | .selfRefreshEntry _ => true
  | .steepBoundary => true
  | .sachetRequest _ chan => decide (chan < 65536)
  | .sachetRelease _ => true
  | .mmuEnable _ src => decide (src < 65536)
  | .mmuUnitCfgWrite _ _ src => decide (src < 65536)
  | .mmuInvalidate _ src => decide (src < 65536)
  | .mmuInvalidateDone => true
  | .tableWalk _ _ _ _ => true
  | .mmuResumeRestart _ => true
  | .mmuResumeFail _ => true
  | .mmuFaultTimeout _ => true
  | .dmaEnable _ _ src => decide (src < 65536)
  | .dmaDisable _ _ src => decide (src < 65536)
  | .dmaSubmit _ _ src => decide (src < 65536)
  | .dmaDescriptorTake _ => true
  | .dmaDescriptorDone _ => true
  | .ethPortEnable _ _ src => decide (src < 65536)
  | .ethPortDisable _ _ src => decide (src < 65536)
  | .ethLinkUp _ _ _ => true
  | .ethLinkDown _ _ => true
  | .ethFrameReceive _ _ _ _ => true
  | .arpEntryExpire _ _ _ => true
  | .rocePacketReceive _ pkt => pkt.wellFormed
  | .roceRetryTimeout _ => true
  | .roceRnrTimeout _ => true
  | .qpKill _ src => decide (src < 65536)
  | .mgmtDiscover req => req.wellFormed
  | .mgmtConnect req _ => req.wellFormed
  | .connectReplyExpire _ _ _ => true
  | .mgmtDisconnect req _ => req.wellFormed
  | .bootSolicit => true
  | .bootOffer req _ => req.wellFormed
  | .bootData req _ => req.wellFormed
  | .bootReadTimeout => true
  | .mgmtRecover req _ => req.wellFormed
  | .ccpEnableFormat _ src => decide (src < 65536)
  | .ccpEnableKeep _ src => decide (src < 65536)
  | .ccpReady => true
  | .ccpDisable _ src => decide (src < 65536)
  | .ccpDoorbell _ _ => true
  | .localQueueDoorbell _ src => decide (src < 65536)
  | .submissionFetch _ entries => entries.all (fun e => e.length == 64)
  | .commandComplete _ _ => true
  | .coalesceTimeout _ => true
  | .ccpRead _ _ => true
  | .ccpWrite _ _ _ _ => true
  | .createTake _ _ => true
  | .closeTake _ _ => true
  | .deleteTake _ _ => true
  | .takeInfo _ _ => true
  | .ccpAbort _ _ => true
  | .getFrames _ _ => true
  | .startStream _ _ _ => true
  | .stopStream _ _ => true
  | .ccpMap _ _ => true
  | .identify _ _ => true
  | .getLog _ _ => true
  | .getFeature _ _ => true
  | .setFeature _ _ => true
  | .fwDownload _ _ _ => true
  | .fwCommitWrite _ _ _ => true
  | .fwCommitTry _ _ _ => true
  | .fwCommitConfirm _ _ => true
  | .fwCommitTryReset _ _ _ => true
  | .regRead _ _ => true
  | .regWrite _ _ _ => true
  | .createQp _ _ _ => true
  | .deleteQp _ _ => true
  | .streamFrameAppend _ => true
  | .streamFrameEntry _ => true
  | .timeIncWrite _ _ src => decide (src < 65536)
  | .timeNowRead => true
  | .timeStepSet _ => true
  | .timeStepOffset _ => true
  | .timeSlew _ src => decide (src < 65536)
  | .slewComplete => true
  | .triggerArm _ _ => true
  | .triggerDisarm _ _ => true
  | .triggerFire _ => true
  | .trigOutPulseEnd _ => true
  | .captureEdge _ _ => true
  | .captureNsRead _ => true
  | .ppsOutRise => true
  | .ppsOutFall => true
  | .ptpReceive _ _ => true
  | .ptpTxSubmit _ src => decide (src < 65536)
  | .ptpTxDone => true
  | .ptpTcForward _ => true
  | .audioPllEnable _ src => decide (src < 65536)
  | .audioPortStart _ _ src => decide (src < 65536)
  | .audioPortStop _ _ src => decide (src < 65536)
  | .audioGroupStart _ _ => true
  | .audioGroupStop _ _ => true
  | .audioMaskWrite _ _ _ src => decide (src < 65536)
  | .audioTdmFrame _ slots _ => decide (slots.length ≤ 32)
  | .audioTxSubmit _ _ src => decide (src < 65536)
  | .audioFrameLoRead _ => true
  | .audioStreamSet _ => true
  | .powerUp _ _ _ => true
  | .powerLoss _ _ => true
  | .railFault _ => true
  | .railRetry _ => true
  | .domainHold _ => true
  | .kettleDemand _ => true
  | .domainOn _ => true
  | .domainIdleTimeout _ => true
  | .idleEntry => true
  | .napEntry => true
  | .dozeEntry => true
  | .hibernateEntry => true
  | .wake _ => true
  | .wakeComplete => true
  | .hibernateExit _ => true
  | .clockSelect _ src => decide (src < 65536)
  | .residencyClear _ => true
  | .residencyLoRead _ => true
  | .sensorConversion _ _ => true
  | .sensorTimeout _ => true
  | .powerupThermalHold => true
  | .cosyXtalSwitch => true
  | .coreStart _ => true
  | .coreReset _ => true
  | .watchdogKick _ src => decide (src < 65536)
  | .watchdogExpire => true
  | .nvsWrite src addr _ _ => decide (src < 65536 ∧ addr < 2 ^ 40)
  | .warmReset _ => true
  | .bootStart _ => true
  | .bootConfirm _ => true
  | .keyRevoke _ src => decide (src < 65536)
  | .evtPost _ src => decide (src < 65536)
  | .eventPlace => true
  | .summaryPlace => true
  | .evtClear _ => true
  | .evtClearDone => true
  | .evtLastLoRead => true
  | .freezeNLow => true
  | .dbgFreeze _ src => decide (src < 65536)
  | .jtagFreeze => true
  | .freezeComplete => true
  | .idcode => true
  | .extest pins data => decide (pins.length = data.length)
  | .samplePreload pins data => decide (pins.length = data.length)
  | .bypass code => !List.contains [0x00, 0x01, 0x02, 0x10, 0x11, 0x12, 0x13, 0x14, 0x15] code.toNat
  | .snapSel _ => true
  | .snapData => true
  | .memacc _ addr _ _ => decide (addr.toNat % 8 = 0)
  | .memstream => true
  | .memaccDone => true
  | .debugSelfRefreshReturn _ => true
  | .warmrst => true
  | .linkHalfDisable _ _ _ src => decide (src < 65536)
  | .vsyncPulseEnd _ => true
  | .analysisFrameEnd _ => true
  | .jtagTrst => true

end Sys2Proof
end

