-- ==== Sys2Proof/Laws/PerInstr.lean ====
section
/-! SUPPORT. Statements made per command. `Sourced`: a well-formed command that writes or reads a register on behalf of a writer names
the writer by a source ID, which is 16 bits wide. -/

namespace Sys2Proof.Laws

/-- The source ID of the writer or reader that a register command carries. -/
def writer : Instr → Option Nat
  | .registerWrite _ _ _ src => some src
  | .readClearField _ _ src => some src
  | .sysLockSet => none
  | .fabLoadFull _ src => some src
  | .fabLoadPartial _ src => some src
  | .preApplyDone => none
  | .brewQuiescent _ => none
  | .quiesceTimeout => none
  | .applyFetchDone => none
  | .fabCommit src _ => some src
  | .commitFetchDone _ => none
  | .rootSofEmit _ => none
  | .tileSofArrive _ => none
  | .fomUpdate _ _ _ _ _ _ => none
  | .laneEnterLink _ => none
  | .pllLock _ => none
  | .cdrLock _ => none
  | .initialAdaptationDone _ _ => none
  | .adaptationRetryTimeout _ => none
  | .lolRetrainTimeout _ => none
  | .linkReferenceLost => none
  | .linkReferenceRestored => none
  | .lnkRefcfgWrite _ src => some src
  | .recalInService _ => none
  | .recalOutOfService _ => none
  | .recalDone _ _ _ => none
  | .bitSlip _ => none
  | .slipApplied _ => none
  | .prbsCheckLock _ _ => none
  | .idleColumn _ _ => none
  | .alignColumn _ _ _ => none
  | .alignSend _ => none
  | .xsColumn _ _ => none
  | .capPacket _ _ _ _ => none
  | .capSend _ => none
  | .negTimeout _ => none
  | .linkHalfEnable _ _ _ src => some src
  | .fsPacket _ _ _ _ _ _ _ => none
  | .ldPacket _ _ _ _ _ _ => none
  | .fePacket _ _ => none
  | .mdPacket _ _ _ => none
  | .rawCodeWord _ _ _ _ _ => none
  | .txLine _ => none
  | .scpImmediate _ _ => none
  | .scpTransactionDone _ _ _ => none
  | .scpStretchTimeout _ => none
  | .scpBurstArm _ _ _ => none
  | .scpBurstDisarm _ _ _ => none
  | .scpBurstRelease _ => none
  | .scpBurstEntryDone _ _ => none
  | .scpBmemAccess _ _ => none
  | .scpTfileAccess _ _ => none
  | .scpTargetRead _ _ => none
  | .scpTargetWrite _ _ _ => none
  | .vsyncInputEdge _ => none
  | .hsyncPulse _ => none
  | .frameEndAtRoot _ => none
  | .queueArbitration _ => none
  | .stripeBoundary _ => none
  | .playbackWidxWrite _ _ src => some src
  | .playbackDescriptorTake _ => none
  | .ingSeqLoRead _ => none
  | .rwcSiteGainAccess _ _ _ => none
  | .synSiteGainAccess _ _ _ => none
  | .colCoefDataAccess _ _ _ => none
  | .synCoefDataAccess _ _ _ => none
  | .statsFrameEnd _ _ => none
  | .statsRecordWritten _ => none
  | .patternStartInstant _ => none
  | .emuExposureStart _ => none
  | .emuFsSend _ => none
  | .emuLinePace _ => none
  | .bFrameStore _ => none
  | .analysisPairing _ => none
  | .analysisWaitTimeout _ => none
  | .analysisRecordWritten _ => none
  | .cmxBFrameStore _ => none
  | .opkFrameWrite _ => none
  | .opkBufferRecord _ => none
  | .sdiOutEnable _ _ src => some src
  | .sdiOutDisable _ _ src => some src
  | .tgFrameInstant _ _ => none
  | .sdiSlotTake _ _ _ => none
  | .sdiRxFrame _ _ => none
  | .genlockSourceLost => none
  | .genlockSourceReturn _ => none
  | .vceCfgWrite src _ => some src
  | .vceOpen _ => none
  | .vceClose _ => none
  | .vceReload _ => none
  | .forceIrap _ => none
  | .vceFlush _ => none
  | .encodeCandidate _ => none
  | .decodeJobTake _ => none
  | .pictureStart _ => none
  | .picturePreempt => none
  | .pictureDone _ _ => none
  | .bitstreamSpaceFree _ => none
  | .outputSlotFree _ => none
  | .cmpSubmit _ _ src => some src
  | .cmpQueueEnable _ _ src => some src
  | .cmpDisable _ src => some src
  | .cmpJobTake _ => none
  | .cmpJobDone _ _ => none
  | .cmpAbort _ => none
  | .cmpPreempt _ => none
  | .drcMapApply _ => none
  | .drcInit _ => none
  | .drcInitResume _ => none
  | .drcRetrainShort _ => none
  | .drcRetrainFull _ => none
  | .drcTrainDone _ _ => none
  | .shortRetrainDue _ => none
  | .shortRetrainDone => none
  | .dramRequest _ _ _ _ _ _ => none
  | .alertNAssert _ => none
  | .dramTempRead _ _ => none
  | .refreshDue _ _ => none
  | .pageAutoTimeout _ => none
  | .selfRefreshEntry _ => none
  | .steepBoundary => none
  | .sachetRequest _ _ => none
  | .sachetRelease _ => none
  | .mmuEnable _ src => some src
  | .mmuUnitCfgWrite _ _ src => some src
  | .mmuInvalidate _ src => some src
  | .mmuInvalidateDone => none
  | .tableWalk _ _ _ _ => none
  | .mmuResumeRestart _ => none
  | .mmuResumeFail _ => none
  | .mmuFaultTimeout _ => none
  | .dmaEnable _ _ src => some src
  | .dmaDisable _ _ src => some src
  | .dmaSubmit _ _ src => some src
  | .dmaDescriptorTake _ => none
  | .dmaDescriptorDone _ => none
  | .ethPortEnable _ _ src => some src
  | .ethPortDisable _ _ src => some src
  | .ethLinkUp _ _ _ => none
  | .ethLinkDown _ _ => none
  | .ethFrameReceive _ _ _ _ => none
  | .arpEntryExpire _ _ _ => none
  | .rocePacketReceive _ _ => none
  | .roceRetryTimeout _ => none
  | .roceRnrTimeout _ => none
  | .qpKill _ src => some src
  | .mgmtDiscover _ => none
  | .mgmtConnect _ _ => none
  | .connectReplyExpire _ _ _ => none
  | .mgmtDisconnect _ _ => none
  | .bootSolicit => none
  | .bootOffer _ _ => none
  | .bootData _ _ => none
  | .bootReadTimeout => none
  | .mgmtRecover _ _ => none
  | .ccpEnableFormat _ src => some src
  | .ccpEnableKeep _ src => some src
  | .ccpReady => none
  | .ccpDisable _ src => some src
  | .ccpDoorbell _ _ => none
  | .localQueueDoorbell _ src => some src
  | .submissionFetch _ _ => none
  | .commandComplete _ _ => none
  | .coalesceTimeout _ => none
  | .ccpRead _ _ => none
  | .ccpWrite _ _ _ _ => none
  | .createTake _ _ => none
  | .closeTake _ _ => none
  | .deleteTake _ _ => none
  | .takeInfo _ _ => none
  | .ccpAbort _ _ => none
  | .getFrames _ _ => none
  | .startStream _ _ _ => none
  | .stopStream _ _ => none
  | .ccpMap _ _ => none
  | .identify _ _ => none
  | .getLog _ _ => none
  | .getFeature _ _ => none
  | .setFeature _ _ => none
  | .fwDownload _ _ _ => none
  | .fwCommitWrite _ _ _ => none
  | .fwCommitTry _ _ _ => none
  | .fwCommitConfirm _ _ => none
  | .fwCommitTryReset _ _ _ => none
  | .regRead _ _ => none
  | .regWrite _ _ _ => none
  | .createQp _ _ _ => none
  | .deleteQp _ _ => none
  | .streamFrameAppend _ => none
  | .streamFrameEntry _ => none
  | .timeIncWrite _ _ src => some src
  | .timeNowRead => none
  | .timeStepSet _ => none
  | .timeStepOffset _ => none
  | .timeSlew _ src => some src
  | .slewComplete => none
  | .triggerArm _ _ => none
  | .triggerDisarm _ _ => none
  | .triggerFire _ => none
  | .trigOutPulseEnd _ => none
  | .captureEdge _ _ => none
  | .captureNsRead _ => none
  | .ppsOutRise => none
  | .ppsOutFall => none
  | .ptpReceive _ _ => none
  | .ptpTxSubmit _ src => some src
  | .ptpTxDone => none
  | .ptpTcForward _ => none
  | .audioPllEnable _ src => some src
  | .audioPortStart _ _ src => some src
  | .audioPortStop _ _ src => some src
  | .audioGroupStart _ _ => none
  | .audioGroupStop _ _ => none
  | .audioMaskWrite _ _ _ src => some src
  | .audioTdmFrame _ _ _ => none
  | .audioTxSubmit _ _ src => some src
  | .audioFrameLoRead _ => none
  | .audioStreamSet _ => none
  | .powerUp _ _ _ => none
  | .powerLoss _ _ => none
  | .railFault _ => none
  | .railRetry _ => none
  | .domainHold _ => none
  | .kettleDemand _ => none
  | .domainOn _ => none
  | .domainIdleTimeout _ => none
  | .idleEntry => none
  | .napEntry => none
  | .dozeEntry => none
  | .hibernateEntry => none
  | .wake _ => none
  | .wakeComplete => none
  | .hibernateExit _ => none
  | .clockSelect _ src => some src
  | .residencyClear _ => none
  | .residencyLoRead _ => none
  | .sensorConversion _ _ => none
  | .sensorTimeout _ => none
  | .powerupThermalHold => none
  | .cosyXtalSwitch => none
  | .coreStart _ => none
  | .coreReset _ => none
  | .watchdogKick _ src => some src
  | .watchdogExpire => none
  | .nvsWrite src _ _ _ => some src
  | .warmReset _ => none
  | .bootStart _ => none
  | .bootConfirm _ => none
  | .keyRevoke _ src => some src
  | .evtPost _ src => some src
  | .eventPlace => none
  | .summaryPlace => none
  | .evtClear _ => none
  | .evtClearDone => none
  | .evtLastLoRead => none
  | .freezeNLow => none
  | .dbgFreeze _ src => some src
  | .jtagFreeze => none
  | .freezeComplete => none
  | .idcode => none
  | .extest _ _ => none
  | .samplePreload _ _ => none
  | .bypass _ => none
  | .snapSel _ => none
  | .snapData => none
  | .memacc _ _ _ _ => none
  | .memstream => none
  | .memaccDone => none
  | .debugSelfRefreshReturn _ => none
  | .warmrst => none
  | .linkHalfDisable _ _ _ src => some src
  | .vsyncPulseEnd _ => none
  | .analysisFrameEnd _ => none
  | .jtagTrst => none

/-- The family: a writer's source ID lies below 65,536. -/
def Sourced.Statement (i : Instr) : Prop := i.wellFormed = true → ∀ w, writer i = some w → w < 65536

theorem Sourced.of_none {i : Instr} (h : writer i = none) : Sourced.Statement i := fun _ w e => by rw [h] at e; cases e

theorem Sourced.of_some {i : Instr} {n : Nat} (h : writer i = some n) (b : i.wellFormed = true → n < 65536) : Sourced.Statement i :=
  fun hw w e => by rw [h] at e; cases e; exact b hw

theorem Sourced.registerWrite (off : Nat) (v : Word) (word : Bool) (src : Nat) : Sourced.Statement (.registerWrite off v word src) := Sourced.of_some rfl fun h => (of_decide_eq_true h).1
theorem Sourced.readClearField (off : Nat) (word : Bool) (src : Nat) : Sourced.Statement (.readClearField off word src) := Sourced.of_some rfl fun h => (of_decide_eq_true h).1
theorem Sourced.sysLockSet : Sourced.Statement .sysLockSet := Sourced.of_none rfl
theorem Sourced.fabLoadFull (v : Word) (src : Nat) : Sourced.Statement (.fabLoadFull v src) := Sourced.of_some rfl fun h => of_decide_eq_true h
theorem Sourced.fabLoadPartial (v : Word) (src : Nat) : Sourced.Statement (.fabLoadPartial v src) := Sourced.of_some rfl fun h => of_decide_eq_true h
theorem Sourced.preApplyDone : Sourced.Statement .preApplyDone := Sourced.of_none rfl
theorem Sourced.brewQuiescent (b : Fin 16) : Sourced.Statement (.brewQuiescent b) := Sourced.of_none rfl
theorem Sourced.quiesceTimeout : Sourced.Statement .quiesceTimeout := Sourced.of_none rfl
theorem Sourced.applyFetchDone : Sourced.Statement .applyFetchDone := Sourced.of_none rfl
theorem Sourced.fabCommit (src : Nat) (v : Word) : Sourced.Statement (.fabCommit src v) := Sourced.of_some rfl fun h => of_decide_eq_true h
theorem Sourced.commitFetchDone (b : Fin 16) : Sourced.Statement (.commitFetchDone b) := Sourced.of_none rfl
theorem Sourced.rootSofEmit (b : Fin 16) : Sourced.Statement (.rootSofEmit b) := Sourced.of_none rfl
theorem Sourced.tileSofArrive (t : Fin 48) : Sourced.Statement (.tileSofArrive t) := Sourced.of_none rfl
theorem Sourced.fomUpdate (l : Fin 96) (centre : Bool) (w : Nat × Nat) (h : Nat × Nat) (taps : List Byte) (ofs : Byte) : Sourced.Statement (.fomUpdate l centre w h taps ofs) := Sourced.of_none rfl
theorem Sourced.laneEnterLink (l : Fin 96) : Sourced.Statement (.laneEnterLink l) := Sourced.of_none rfl
theorem Sourced.pllLock (k : Fin 32) : Sourced.Statement (.pllLock k) := Sourced.of_none rfl
theorem Sourced.cdrLock (l : Fin 96) : Sourced.Statement (.cdrLock l) := Sourced.of_none rfl
theorem Sourced.initialAdaptationDone (l : Fin 96) (a : AdaptOut) : Sourced.Statement (.initialAdaptationDone l a) := Sourced.of_none rfl
theorem Sourced.adaptationRetryTimeout (l : Fin 96) : Sourced.Statement (.adaptationRetryTimeout l) := Sourced.of_none rfl
theorem Sourced.lolRetrainTimeout (l : Fin 96) : Sourced.Statement (.lolRetrainTimeout l) := Sourced.of_none rfl
theorem Sourced.linkReferenceLost : Sourced.Statement .linkReferenceLost := Sourced.of_none rfl
theorem Sourced.linkReferenceRestored : Sourced.Statement .linkReferenceRestored := Sourced.of_none rfl
theorem Sourced.lnkRefcfgWrite (v : Word) (src : Nat) : Sourced.Statement (.lnkRefcfgWrite v src) := Sourced.of_some rfl fun h => of_decide_eq_true h
theorem Sourced.recalInService (l : Fin 96) : Sourced.Statement (.recalInService l) := Sourced.of_none rfl
theorem Sourced.recalOutOfService (l : Fin 96) : Sourced.Statement (.recalOutOfService l) := Sourced.of_none rfl
theorem Sourced.recalDone (l : Fin 96) (before : Byte) (a : AdaptOut) : Sourced.Statement (.recalDone l before a) := Sourced.of_none rfl
theorem Sourced.bitSlip (l : Fin 96) : Sourced.Statement (.bitSlip l) := Sourced.of_none rfl
theorem Sourced.slipApplied (l : Fin 96) : Sourced.Statement (.slipApplied l) := Sourced.of_none rfl
theorem Sourced.prbsCheckLock (l : Fin 96) (bits : List Bool) : Sourced.Statement (.prbsCheckLock l bits) := Sourced.of_none rfl
theorem Sourced.idleColumn (p : Fin 2) (col : List (BitVec 2 × BitVec 64)) : Sourced.Statement (.idleColumn p col) := Sourced.of_none rfl
theorem Sourced.alignColumn (p : Fin 2) (col : List (Nat × Nat)) (gap : Nat) : Sourced.Statement (.alignColumn p col gap) := Sourced.of_none rfl
theorem Sourced.alignSend (p : Fin 2) : Sourced.Statement (.alignSend p) := Sourced.of_none rfl
theorem Sourced.xsColumn (p : Fin 2) (num : BitVec 24) : Sourced.Statement (.xsColumn p num) := Sourced.of_none rfl
theorem Sourced.capPacket (p : Fin 2) (mask : BitVec 3) (selected : BitVec 2) (crcOk : Bool) : Sourced.Statement (.capPacket p mask selected crcOk) := Sourced.of_none rfl
theorem Sourced.capSend (p : Fin 2) : Sourced.Statement (.capSend p) := Sourced.of_none rfl
theorem Sourced.negTimeout (p : Fin 2) : Sourced.Statement (.negTimeout p) := Sourced.of_none rfl
theorem Sourced.linkHalfEnable (p : Fin 2) (tx : Bool) (v : Word) (src : Nat) : Sourced.Statement (.linkHalfEnable p tx v src) := Sourced.of_some rfl fun h => of_decide_eq_true h
theorem Sourced.fsPacket (p : Fin 2) (num : Word) (sgen : Half) (w : Half) (h : Half) (depth : Byte) (crcOk : Bool) : Sourced.Statement (.fsPacket p num sgen w h depth crcOk) := Sourced.of_none rfl
theorem Sourced.ldPacket (p : Fin 2) (num : Word) (sgen : Half) (payload : List Byte) (crcOk : Bool) (fits : Bool) : Sourced.Statement (.ldPacket p num sgen payload crcOk fits) := Sourced.of_none rfl
theorem Sourced.fePacket (p : Fin 2) (crcOk : Bool) : Sourced.Statement (.fePacket p crcOk) := Sourced.of_none rfl
theorem Sourced.mdPacket (p : Fin 2) (payload : List Byte) (crcOk : Bool) : Sourced.Statement (.mdPacket p payload crcOk) := Sourced.of_none rfl
theorem Sourced.rawCodeWord (p : Fin 2) (code : List Half × Half) (lanes : Nat) (words : List (List Nat)) (fits : Bool) : Sourced.Statement (.rawCodeWord p code lanes words fits) := Sourced.of_none rfl
theorem Sourced.txLine (p : Fin 2) : Sourced.Statement (.txLine p) := Sourced.of_none rfl
theorem Sourced.scpImmediate (p : Fin 4) (v : Word) : Sourced.Statement (.scpImmediate p v) := Sourced.of_none rfl
theorem Sourced.scpTransactionDone (p : Fin 4) (ack : Bool) (rdata : Half) : Sourced.Statement (.scpTransactionDone p ack rdata) := Sourced.of_none rfl
theorem Sourced.scpStretchTimeout (p : Fin 4) : Sourced.Statement (.scpStretchTimeout p) := Sourced.of_none rfl
theorem Sourced.scpBurstArm (p : Fin 4) (k : Fin 4) (v : Word) : Sourced.Statement (.scpBurstArm p k v) := Sourced.of_none rfl
theorem Sourced.scpBurstDisarm (p : Fin 4) (k : Fin 4) (v : Word) : Sourced.Statement (.scpBurstDisarm p k v) := Sourced.of_none rfl
theorem Sourced.scpBurstRelease (p : Fin 4) : Sourced.Statement (.scpBurstRelease p) := Sourced.of_none rfl
theorem Sourced.scpBurstEntryDone (p : Fin 4) (ack : Bool) : Sourced.Statement (.scpBurstEntryDone p ack) := Sourced.of_none rfl
theorem Sourced.scpBmemAccess (p : Fin 4) (w : Option Word) : Sourced.Statement (.scpBmemAccess p w) := Sourced.of_none rfl
theorem Sourced.scpTfileAccess (p : Fin 4) (w : Option Word) : Sourced.Statement (.scpTfileAccess p w) := Sourced.of_none rfl
theorem Sourced.scpTargetRead (p : Fin 4) (addr : Byte × Option Half) : Sourced.Statement (.scpTargetRead p addr) := Sourced.of_none rfl
theorem Sourced.scpTargetWrite (p : Fin 4) (addr : Byte × Option Half) (data : Half) : Sourced.Statement (.scpTargetWrite p addr data) := Sourced.of_none rfl
theorem Sourced.vsyncInputEdge (p : Fin 2) : Sourced.Statement (.vsyncInputEdge p) := Sourced.of_none rfl
theorem Sourced.hsyncPulse (p : Fin 2) : Sourced.Statement (.hsyncPulse p) := Sourced.of_none rfl
theorem Sourced.frameEndAtRoot (b : Fin 16) : Sourced.Statement (.frameEndAtRoot b) := Sourced.of_none rfl
theorem Sourced.queueArbitration (b : Fin 16) : Sourced.Statement (.queueArbitration b) := Sourced.of_none rfl
theorem Sourced.stripeBoundary (b : Fin 16) : Sourced.Statement (.stripeBoundary b) := Sourced.of_none rfl
theorem Sourced.playbackWidxWrite (t : Fin 4) (v : Word) (src : Nat) : Sourced.Statement (.playbackWidxWrite t v src) := Sourced.of_some rfl fun h => of_decide_eq_true h
theorem Sourced.playbackDescriptorTake (t : Fin 4) : Sourced.Statement (.playbackDescriptorTake t) := Sourced.of_none rfl
theorem Sourced.ingSeqLoRead (t : Fin 4) : Sourced.Statement (.ingSeqLoRead t) := Sourced.of_none rfl
theorem Sourced.rwcSiteGainAccess (t : Fin 4) (ctx : Fin 2) (w : Option Word) : Sourced.Statement (.rwcSiteGainAccess t ctx w) := Sourced.of_none rfl
theorem Sourced.synSiteGainAccess (t : Fin 4) (ctx : Fin 2) (w : Option Word) : Sourced.Statement (.synSiteGainAccess t ctx w) := Sourced.of_none rfl
theorem Sourced.colCoefDataAccess (t : Fin 8) (ctx : Fin 2) (w : Option Word) : Sourced.Statement (.colCoefDataAccess t ctx w) := Sourced.of_none rfl
theorem Sourced.synCoefDataAccess (t : Fin 4) (ctx : Fin 2) (w : Option Word) : Sourced.Statement (.synCoefDataAccess t ctx w) := Sourced.of_none rfl
theorem Sourced.statsFrameEnd (t : Fin 4) (fits : Nat) : Sourced.Statement (.statsFrameEnd t fits) := Sourced.of_none rfl
theorem Sourced.statsRecordWritten (t : Fin 4) : Sourced.Statement (.statsRecordWritten t) := Sourced.of_none rfl
theorem Sourced.patternStartInstant (t : Fin 2) : Sourced.Statement (.patternStartInstant t) := Sourced.of_none rfl
theorem Sourced.emuExposureStart (p : Fin 2) : Sourced.Statement (.emuExposureStart p) := Sourced.of_none rfl
theorem Sourced.emuFsSend (p : Fin 2) : Sourced.Statement (.emuFsSend p) := Sourced.of_none rfl
theorem Sourced.emuLinePace (p : Fin 2) : Sourced.Statement (.emuLinePace p) := Sourced.of_none rfl
theorem Sourced.bFrameStore (t : Fin 4) : Sourced.Statement (.bFrameStore t) := Sourced.of_none rfl
theorem Sourced.analysisPairing (t : Fin 4) : Sourced.Statement (.analysisPairing t) := Sourced.of_none rfl
theorem Sourced.analysisWaitTimeout (t : Fin 4) : Sourced.Statement (.analysisWaitTimeout t) := Sourced.of_none rfl
theorem Sourced.analysisRecordWritten (t : Fin 4) : Sourced.Statement (.analysisRecordWritten t) := Sourced.of_none rfl
theorem Sourced.cmxBFrameStore (t : Fin 4) : Sourced.Statement (.cmxBFrameStore t) := Sourced.of_none rfl
theorem Sourced.opkFrameWrite (t : Fin 4) : Sourced.Statement (.opkFrameWrite t) := Sourced.of_none rfl
theorem Sourced.opkBufferRecord (t : Fin 4) : Sourced.Statement (.opkBufferRecord t) := Sourced.of_none rfl
theorem Sourced.sdiOutEnable (n : Fin 16) (v : Word) (src : Nat) : Sourced.Statement (.sdiOutEnable n v src) := Sourced.of_some rfl fun h => of_decide_eq_true h
theorem Sourced.sdiOutDisable (n : Fin 16) (v : Word) (src : Nat) : Sourced.Statement (.sdiOutDisable n v src) := Sourced.of_some rfl fun h => of_decide_eq_true h
theorem Sourced.tgFrameInstant (k : Fin 4) (phase : Half) : Sourced.Statement (.tgFrameInstant k phase) := Sourced.of_none rfl
theorem Sourced.sdiSlotTake (n : Fin 16) (late1 : List Nat) (late2 : List Nat) : Sourced.Statement (.sdiSlotTake n late1 late2) := Sourced.of_none rfl
theorem Sourced.sdiRxFrame (m : Fin 8) (x : SdiRx) : Sourced.Statement (.sdiRxFrame m x) := Sourced.of_none rfl
theorem Sourced.genlockSourceLost : Sourced.Statement .genlockSourceLost := Sourced.of_none rfl
theorem Sourced.genlockSourceReturn (far : Nat) : Sourced.Statement (.genlockSourceReturn far) := Sourced.of_none rfl
theorem Sourced.vceCfgWrite (src : Nat) (v : Word) : Sourced.Statement (.vceCfgWrite src v) := Sourced.of_some rfl fun h => of_decide_eq_true h
theorem Sourced.vceOpen (n : Fin 32) : Sourced.Statement (.vceOpen n) := Sourced.of_none rfl
theorem Sourced.vceClose (n : Fin 32) : Sourced.Statement (.vceClose n) := Sourced.of_none rfl
theorem Sourced.vceReload (n : Fin 32) : Sourced.Statement (.vceReload n) := Sourced.of_none rfl
theorem Sourced.forceIrap (n : Fin 32) : Sourced.Statement (.forceIrap n) := Sourced.of_none rfl
theorem Sourced.vceFlush (n : Fin 32) : Sourced.Statement (.vceFlush n) := Sourced.of_none rfl
theorem Sourced.encodeCandidate (n : Fin 32) : Sourced.Statement (.encodeCandidate n) := Sourced.of_none rfl
theorem Sourced.decodeJobTake (n : Fin 32) : Sourced.Statement (.decodeJobTake n) := Sourced.of_none rfl
theorem Sourced.pictureStart (pix : Nat) : Sourced.Statement (.pictureStart pix) := Sourced.of_none rfl
theorem Sourced.picturePreempt : Sourced.Statement .picturePreempt := Sourced.of_none rfl
theorem Sourced.pictureDone (n : Fin 32) (res : CodecOut) : Sourced.Statement (.pictureDone n res) := Sourced.of_none rfl
theorem Sourced.bitstreamSpaceFree (n : Fin 32) : Sourced.Statement (.bitstreamSpaceFree n) := Sourced.of_none rfl
theorem Sourced.outputSlotFree (n : Fin 32) : Sourced.Statement (.outputSlotFree n) := Sourced.of_none rfl
theorem Sourced.cmpSubmit (q : Fin 8) (widx : Half) (src : Nat) : Sourced.Statement (.cmpSubmit q widx src) := Sourced.of_some rfl fun h => of_decide_eq_true h
theorem Sourced.cmpQueueEnable (q : Fin 8) (v : Word) (src : Nat) : Sourced.Statement (.cmpQueueEnable q v src) := Sourced.of_some rfl fun h => of_decide_eq_true h
theorem Sourced.cmpDisable (v : Word) (src : Nat) : Sourced.Statement (.cmpDisable v src) := Sourced.of_some rfl fun h => of_decide_eq_true h
theorem Sourced.cmpJobTake (deflate : Bool) : Sourced.Statement (.cmpJobTake deflate) := Sourced.of_none rfl
theorem Sourced.cmpJobDone (k : Fin 6) (out : List Byte) : Sourced.Statement (.cmpJobDone k out) := Sourced.of_none rfl
theorem Sourced.cmpAbort (v : Word) : Sourced.Statement (.cmpAbort v) := Sourced.of_none rfl
theorem Sourced.cmpPreempt (deflate : Bool) : Sourced.Statement (.cmpPreempt deflate) := Sourced.of_none rfl
theorem Sourced.drcMapApply (v : Word) : Sourced.Statement (.drcMapApply v) := Sourced.of_none rfl
theorem Sourced.drcInit (ch : Fin 8) : Sourced.Statement (.drcInit ch) := Sourced.of_none rfl
theorem Sourced.drcInitResume (ch : Fin 8) : Sourced.Statement (.drcInitResume ch) := Sourced.of_none rfl
theorem Sourced.drcRetrainShort (ch : Fin 8) : Sourced.Statement (.drcRetrainShort ch) := Sourced.of_none rfl
theorem Sourced.drcRetrainFull (ch : Fin 8) : Sourced.Statement (.drcRetrainFull ch) := Sourced.of_none rfl
theorem Sourced.drcTrainDone (ch : Fin 8) (err : Fin 8) : Sourced.Statement (.drcTrainDone ch err) := Sourced.of_none rfl
theorem Sourced.shortRetrainDue (x : Fin 16) : Sourced.Statement (.shortRetrainDue x) := Sourced.of_none rfl
theorem Sourced.shortRetrainDone : Sourced.Statement .shortRetrainDone := Sourced.of_none rfl
theorem Sourced.dramRequest (client : Fin 32) (addr : Nat) (write : Bool) (data : List Byte) (mask : BitVec 64) (reads : Bool) : Sourced.Statement (.dramRequest client addr write data mask reads) := Sourced.of_none rfl
theorem Sourced.alertNAssert (ch : Fin 8) : Sourced.Statement (.alertNAssert ch) := Sourced.of_none rfl
theorem Sourced.dramTempRead (ch : Fin 8) (temps : List (Option Int)) : Sourced.Statement (.dramTempRead ch temps) := Sourced.of_none rfl
theorem Sourced.refreshDue (rank : Fin 32) (postpone : Bool) : Sourced.Statement (.refreshDue rank postpone) := Sourced.of_none rfl
theorem Sourced.pageAutoTimeout (bank : Fin 512) : Sourced.Statement (.pageAutoTimeout bank) := Sourced.of_none rfl
theorem Sourced.selfRefreshEntry (ch : Fin 8) : Sourced.Statement (.selfRefreshEntry ch) := Sourced.of_none rfl
theorem Sourced.steepBoundary : Sourced.Statement .steepBoundary := Sourced.of_none rfl
theorem Sourced.sachetRequest (cls : Fin 7) (chan : Nat) : Sourced.Statement (.sachetRequest cls chan) := Sourced.of_none rfl
theorem Sourced.sachetRelease (sachet : Fin 12288) : Sourced.Statement (.sachetRelease sachet) := Sourced.of_none rfl
theorem Sourced.mmuEnable (v : Word) (src : Nat) : Sourced.Statement (.mmuEnable v src) := Sourced.of_some rfl fun h => of_decide_eq_true h
theorem Sourced.mmuUnitCfgWrite (u : Fin 43) (v : Word) (src : Nat) : Sourced.Statement (.mmuUnitCfgWrite u v src) := Sourced.of_some rfl fun h => of_decide_eq_true h
theorem Sourced.mmuInvalidate (v : Word) (src : Nat) : Sourced.Statement (.mmuInvalidate v src) := Sourced.of_some rfl fun h => of_decide_eq_true h
theorem Sourced.mmuInvalidateDone : Sourced.Statement .mmuInvalidateDone := Sourced.of_none rfl
theorem Sourced.tableWalk (u : Fin 43) (va : BitVec 48) (write : Bool) (pinned : Bool) : Sourced.Statement (.tableWalk u va write pinned) := Sourced.of_none rfl
theorem Sourced.mmuResumeRestart (u : Fin 64) : Sourced.Statement (.mmuResumeRestart u) := Sourced.of_none rfl
theorem Sourced.mmuResumeFail (u : Fin 64) : Sourced.Statement (.mmuResumeFail u) := Sourced.of_none rfl
theorem Sourced.mmuFaultTimeout (u : Fin 43) : Sourced.Statement (.mmuFaultTimeout u) := Sourced.of_none rfl
theorem Sourced.dmaEnable (c : Fin 4) (v : Word) (src : Nat) : Sourced.Statement (.dmaEnable c v src) := Sourced.of_some rfl fun h => of_decide_eq_true h
theorem Sourced.dmaDisable (c : Fin 4) (v : Word) (src : Nat) : Sourced.Statement (.dmaDisable c v src) := Sourced.of_some rfl fun h => of_decide_eq_true h
theorem Sourced.dmaSubmit (c : Fin 4) (widx : Half) (src : Nat) : Sourced.Statement (.dmaSubmit c widx src) := Sourced.of_some rfl fun h => of_decide_eq_true h
theorem Sourced.dmaDescriptorTake (c : Fin 4) : Sourced.Statement (.dmaDescriptorTake c) := Sourced.of_none rfl
theorem Sourced.dmaDescriptorDone (c : Fin 4) : Sourced.Statement (.dmaDescriptorDone c) := Sourced.of_none rfl
theorem Sourced.ethPortEnable (p : Fin 2) (v : Word) (src : Nat) : Sourced.Statement (.ethPortEnable p v src) := Sourced.of_some rfl fun h => of_decide_eq_true h
theorem Sourced.ethPortDisable (p : Fin 2) (v : Word) (src : Nat) : Sourced.Statement (.ethPortDisable p v src) := Sourced.of_some rfl fun h => of_decide_eq_true h
theorem Sourced.ethLinkUp (p : Fin 2) (k : Fin 4) (agreed : Bool) : Sourced.Statement (.ethLinkUp p k agreed) := Sourced.of_none rfl
theorem Sourced.ethLinkDown (p : Fin 2) (k : Fin 4) : Sourced.Statement (.ethLinkDown p k) := Sourced.of_none rfl
theorem Sourced.ethFrameReceive (p : Fin 2) (k : Fin 4) (fcs : Bool) (frame : List Byte) : Sourced.Statement (.ethFrameReceive p k fcs frame) := Sourced.of_none rfl
theorem Sourced.arpEntryExpire (p : Fin 2) (k : Fin 4) (ip : Word) : Sourced.Statement (.arpEntryExpire p k ip) := Sourced.of_none rfl
theorem Sourced.rocePacketReceive (p : Fin 2) (pkt : RocePkt) : Sourced.Statement (.rocePacketReceive p pkt) := Sourced.of_none rfl
theorem Sourced.roceRetryTimeout (qp : Fin 64) : Sourced.Statement (.roceRetryTimeout qp) := Sourced.of_none rfl
theorem Sourced.roceRnrTimeout (qp : Fin 64) : Sourced.Statement (.roceRnrTimeout qp) := Sourced.of_none rfl
theorem Sourced.qpKill (v : Word) (src : Nat) : Sourced.Statement (.qpKill v src) := Sourced.of_some rfl fun h => of_decide_eq_true h
theorem Sourced.mgmtDiscover (req : MgmtReq) : Sourced.Statement (.mgmtDiscover req) := Sourced.of_none rfl
theorem Sourced.mgmtConnect (req : MgmtReq) (body : List Byte) : Sourced.Statement (.mgmtConnect req body) := Sourced.of_none rfl
theorem Sourced.connectReplyExpire (ip : Word) (port : Half) (seq : Word) : Sourced.Statement (.connectReplyExpire ip port seq) := Sourced.of_none rfl
theorem Sourced.mgmtDisconnect (req : MgmtReq) (body : List Byte) : Sourced.Statement (.mgmtDisconnect req body) := Sourced.of_none rfl
theorem Sourced.bootSolicit : Sourced.Statement .bootSolicit := Sourced.of_none rfl
theorem Sourced.bootOffer (req : MgmtReq) (body : List Byte) : Sourced.Statement (.bootOffer req body) := Sourced.of_none rfl
theorem Sourced.bootData (req : MgmtReq) (body : List Byte) : Sourced.Statement (.bootData req body) := Sourced.of_none rfl
theorem Sourced.bootReadTimeout : Sourced.Statement .bootReadTimeout := Sourced.of_none rfl
theorem Sourced.mgmtRecover (req : MgmtReq) (body : List Byte) : Sourced.Statement (.mgmtRecover req body) := Sourced.of_none rfl
theorem Sourced.ccpEnableFormat (v : Word) (src : Nat) : Sourced.Statement (.ccpEnableFormat v src) := Sourced.of_some rfl fun h => of_decide_eq_true h
theorem Sourced.ccpEnableKeep (v : Word) (src : Nat) : Sourced.Statement (.ccpEnableKeep v src) := Sourced.of_some rfl fun h => of_decide_eq_true h
theorem Sourced.ccpReady : Sourced.Statement .ccpReady := Sourced.of_none rfl
theorem Sourced.ccpDisable (v : Word) (src : Nat) : Sourced.Statement (.ccpDisable v src) := Sourced.of_some rfl fun h => of_decide_eq_true h
theorem Sourced.ccpDoorbell (q : Fin 64) (send : List Byte) : Sourced.Statement (.ccpDoorbell q send) := Sourced.of_none rfl
theorem Sourced.localQueueDoorbell (widx : Half) (src : Nat) : Sourced.Statement (.localQueueDoorbell widx src) := Sourced.of_some rfl fun h => of_decide_eq_true h
theorem Sourced.submissionFetch (q : Fin 65) (entries : List (List Byte)) : Sourced.Statement (.submissionFetch q entries) := Sourced.of_none rfl
theorem Sourced.commandComplete (q : Fin 65) (cid : Half) : Sourced.Statement (.commandComplete q cid) := Sourced.of_none rfl
theorem Sourced.coalesceTimeout (q : Fin 65) : Sourced.Statement (.coalesceTimeout q) := Sourced.of_none rfl
theorem Sourced.ccpRead (q : Fin 65) (cid : Half) : Sourced.Statement (.ccpRead q cid) := Sourced.of_none rfl
theorem Sourced.ccpWrite (q : Fin 65) (cid : Half) (data : List Byte) (fate : Option Nat × Bool) : Sourced.Statement (.ccpWrite q cid data fate) := Sourced.of_none rfl
theorem Sourced.createTake (q : Fin 65) (cid : Half) : Sourced.Statement (.createTake q cid) := Sourced.of_none rfl
theorem Sourced.closeTake (q : Fin 65) (cid : Half) : Sourced.Statement (.closeTake q cid) := Sourced.of_none rfl
theorem Sourced.deleteTake (q : Fin 65) (cid : Half) : Sourced.Statement (.deleteTake q cid) := Sourced.of_none rfl
theorem Sourced.takeInfo (q : Fin 65) (cid : Half) : Sourced.Statement (.takeInfo q cid) := Sourced.of_none rfl
theorem Sourced.ccpAbort (q : Fin 65) (cid : Half) : Sourced.Statement (.ccpAbort q cid) := Sourced.of_none rfl
theorem Sourced.getFrames (q : Fin 65) (cid : Half) : Sourced.Statement (.getFrames q cid) := Sourced.of_none rfl
theorem Sourced.startStream (q : Fin 65) (cid : Half) (data : List Byte) : Sourced.Statement (.startStream q cid data) := Sourced.of_none rfl
theorem Sourced.stopStream (q : Fin 65) (cid : Half) : Sourced.Statement (.stopStream q cid) := Sourced.of_none rfl
theorem Sourced.ccpMap (q : Fin 65) (cid : Half) : Sourced.Statement (.ccpMap q cid) := Sourced.of_none rfl
theorem Sourced.identify (q : Fin 65) (cid : Half) : Sourced.Statement (.identify q cid) := Sourced.of_none rfl
theorem Sourced.getLog (q : Fin 65) (cid : Half) : Sourced.Statement (.getLog q cid) := Sourced.of_none rfl
theorem Sourced.getFeature (q : Fin 65) (cid : Half) : Sourced.Statement (.getFeature q cid) := Sourced.of_none rfl
theorem Sourced.setFeature (q : Fin 65) (cid : Half) : Sourced.Statement (.setFeature q cid) := Sourced.of_none rfl
theorem Sourced.fwDownload (q : Fin 65) (cid : Half) (data : List Byte) : Sourced.Statement (.fwDownload q cid data) := Sourced.of_none rfl
theorem Sourced.fwCommitWrite (q : Fin 65) (cid : Half) (program : Bool) : Sourced.Statement (.fwCommitWrite q cid program) := Sourced.of_none rfl
theorem Sourced.fwCommitTry (q : Fin 65) (cid : Half) (program : Bool) : Sourced.Statement (.fwCommitTry q cid program) := Sourced.of_none rfl
theorem Sourced.fwCommitConfirm (q : Fin 65) (cid : Half) : Sourced.Statement (.fwCommitConfirm q cid) := Sourced.of_none rfl
theorem Sourced.fwCommitTryReset (q : Fin 65) (cid : Half) (program : Bool) : Sourced.Statement (.fwCommitTryReset q cid program) := Sourced.of_none rfl
theorem Sourced.regRead (q : Fin 65) (cid : Half) : Sourced.Statement (.regRead q cid) := Sourced.of_none rfl
theorem Sourced.regWrite (q : Fin 65) (cid : Half) (data : List Byte) : Sourced.Statement (.regWrite q cid data) := Sourced.of_none rfl
theorem Sourced.createQp (q : Fin 65) (cid : Half) (data : List Byte) : Sourced.Statement (.createQp q cid data) := Sourced.of_none rfl
theorem Sourced.deleteQp (q : Fin 65) (cid : Half) : Sourced.Statement (.deleteQp q cid) := Sourced.of_none rfl
theorem Sourced.streamFrameAppend (st : Fin 16) : Sourced.Statement (.streamFrameAppend st) := Sourced.of_none rfl
theorem Sourced.streamFrameEntry (st : Fin 16) : Sourced.Statement (.streamFrameEntry st) := Sourced.of_none rfl
theorem Sourced.timeIncWrite (hi : Bool) (v : Word) (src : Nat) : Sourced.Statement (.timeIncWrite hi v src) := Sourced.of_some rfl fun h => of_decide_eq_true h
theorem Sourced.timeNowRead : Sourced.Statement .timeNowRead := Sourced.of_none rfl
theorem Sourced.timeStepSet (v : Word) : Sourced.Statement (.timeStepSet v) := Sourced.of_none rfl
theorem Sourced.timeStepOffset (v : Word) : Sourced.Statement (.timeStepOffset v) := Sourced.of_none rfl
theorem Sourced.timeSlew (v : Word) (src : Nat) : Sourced.Statement (.timeSlew v src) := Sourced.of_some rfl fun h => of_decide_eq_true h
theorem Sourced.slewComplete : Sourced.Statement .slewComplete := Sourced.of_none rfl
theorem Sourced.triggerArm (k : Fin 16) (v : Word) : Sourced.Statement (.triggerArm k v) := Sourced.of_none rfl
theorem Sourced.triggerDisarm (k : Fin 16) (v : Word) : Sourced.Statement (.triggerDisarm k v) := Sourced.of_none rfl
theorem Sourced.triggerFire (k : Fin 16) : Sourced.Statement (.triggerFire k) := Sourced.of_none rfl
theorem Sourced.trigOutPulseEnd (n : Fin 8) : Sourced.Statement (.trigOutPulseEnd n) := Sourced.of_none rfl
theorem Sourced.captureEdge (j : Fin 11) (rising : Bool) : Sourced.Statement (.captureEdge j rising) := Sourced.of_none rfl
theorem Sourced.captureNsRead (j : Fin 11) : Sourced.Statement (.captureNsRead j) := Sourced.of_none rfl
theorem Sourced.ppsOutRise : Sourced.Statement .ppsOutRise := Sourced.of_none rfl
theorem Sourced.ppsOutFall : Sourced.Statement .ppsOutFall := Sourced.of_none rfl
theorem Sourced.ptpReceive (p : Fin 2) (frame : List Byte) : Sourced.Statement (.ptpReceive p frame) := Sourced.of_none rfl
theorem Sourced.ptpTxSubmit (widx : Half) (src : Nat) : Sourced.Statement (.ptpTxSubmit widx src) := Sourced.of_some rfl fun h => of_decide_eq_true h
theorem Sourced.ptpTxDone : Sourced.Statement .ptpTxDone := Sourced.of_none rfl
theorem Sourced.ptpTcForward (p : Fin 2) : Sourced.Statement (.ptpTcForward p) := Sourced.of_none rfl
theorem Sourced.audioPllEnable (v : Word) (src : Nat) : Sourced.Statement (.audioPllEnable v src) := Sourced.of_some rfl fun h => of_decide_eq_true h
theorem Sourced.audioPortStart (n : Fin 8) (v : Word) (src : Nat) : Sourced.Statement (.audioPortStart n v src) := Sourced.of_some rfl fun h => of_decide_eq_true h
theorem Sourced.audioPortStop (n : Fin 8) (v : Word) (src : Nat) : Sourced.Statement (.audioPortStop n v src) := Sourced.of_some rfl fun h => of_decide_eq_true h
theorem Sourced.audioGroupStart (g : Fin 2) (v : Word) : Sourced.Statement (.audioGroupStart g v) := Sourced.of_none rfl
theorem Sourced.audioGroupStop (g : Fin 2) (v : Word) : Sourced.Statement (.audioGroupStop g v) := Sourced.of_none rfl
theorem Sourced.audioMaskWrite (n : Fin 8) (tx : Bool) (v : Word) (src : Nat) : Sourced.Statement (.audioMaskWrite n tx v src) := Sourced.of_some rfl fun h => of_decide_eq_true h
theorem Sourced.audioTdmFrame (n : Fin 8) (slots : List Nat) (sachet : Bool) : Sourced.Statement (.audioTdmFrame n slots sachet) := Sourced.of_none rfl
theorem Sourced.audioTxSubmit (n : Fin 8) (widx : Half) (src : Nat) : Sourced.Statement (.audioTxSubmit n widx src) := Sourced.of_some rfl fun h => of_decide_eq_true h
theorem Sourced.audioFrameLoRead (n : Fin 8) : Sourced.Statement (.audioFrameLoRead n) := Sourced.of_none rfl
theorem Sourced.audioStreamSet (st : Fin 16) : Sourced.Statement (.audioStreamSet st) := Sourced.of_none rfl
theorem Sourced.powerUp (vin : Half × Half) (hot : Bool) (vio : BitVec 4) : Sourced.Statement (.powerUp vin hot vio) := Sourced.of_none rfl
theorem Sourced.powerLoss (cause : Fin 3) (recorded : Bool) : Sourced.Statement (.powerLoss cause recorded) := Sourced.of_none rfl
theorem Sourced.railFault (out : Fin 5) : Sourced.Statement (.railFault out) := Sourced.of_none rfl
theorem Sourced.railRetry (v : Word) : Sourced.Statement (.railRetry v) := Sourced.of_none rfl
theorem Sourced.domainHold (d : Fin 148) : Sourced.Statement (.domainHold d) := Sourced.of_none rfl
theorem Sourced.kettleDemand (d : Fin 148) : Sourced.Statement (.kettleDemand d) := Sourced.of_none rfl
theorem Sourced.domainOn (d : Fin 148) : Sourced.Statement (.domainOn d) := Sourced.of_none rfl
theorem Sourced.domainIdleTimeout (d : Fin 148) : Sourced.Statement (.domainIdleTimeout d) := Sourced.of_none rfl
theorem Sourced.idleEntry : Sourced.Statement .idleEntry := Sourced.of_none rfl
theorem Sourced.napEntry : Sourced.Statement .napEntry := Sourced.of_none rfl
theorem Sourced.dozeEntry : Sourced.Statement .dozeEntry := Sourced.of_none rfl
theorem Sourced.hibernateEntry : Sourced.Statement .hibernateEntry := Sourced.of_none rfl
theorem Sourced.wake (event : Fin 9) : Sourced.Statement (.wake event) := Sourced.of_none rfl
theorem Sourced.wakeComplete : Sourced.Statement .wakeComplete := Sourced.of_none rfl
theorem Sourced.hibernateExit (hot : Bool) : Sourced.Statement (.hibernateExit hot) := Sourced.of_none rfl
theorem Sourced.clockSelect (v : Word) (src : Nat) : Sourced.Statement (.clockSelect v src) := Sourced.of_some rfl fun h => of_decide_eq_true h
theorem Sourced.residencyClear (v : Word) : Sourced.Statement (.residencyClear v) := Sourced.of_none rfl
theorem Sourced.residencyLoRead (counter : Fin 153) : Sourced.Statement (.residencyLoRead counter) := Sourced.of_none rfl
theorem Sourced.sensorConversion (n : Fin 26) (temp : Half) : Sourced.Statement (.sensorConversion n temp) := Sourced.of_none rfl
theorem Sourced.sensorTimeout (n : Fin 26) : Sourced.Statement (.sensorTimeout n) := Sourced.of_none rfl
theorem Sourced.powerupThermalHold : Sourced.Statement .powerupThermalHold := Sourced.of_none rfl
theorem Sourced.cosyXtalSwitch : Sourced.Statement .cosyXtalSwitch := Sourced.of_none rfl
theorem Sourced.coreStart (c : Fin 4) : Sourced.Statement (.coreStart c) := Sourced.of_none rfl
theorem Sourced.coreReset (c : Fin 4) : Sourced.Statement (.coreReset c) := Sourced.of_none rfl
theorem Sourced.watchdogKick (v : Half) (src : Nat) : Sourced.Statement (.watchdogKick v src) := Sourced.of_some rfl fun h => of_decide_eq_true h
theorem Sourced.watchdogExpire : Sourced.Statement .watchdogExpire := Sourced.of_none rfl
theorem Sourced.nvsWrite (src : Nat) (addr : Nat) (data : BitVec 64) (wide : Bool) : Sourced.Statement (.nvsWrite src addr data wide) := Sourced.of_some rfl fun h => (of_decide_eq_true h).1
theorem Sourced.warmReset (cause : Fin 4) : Sourced.Statement (.warmReset cause) := Sourced.of_none rfl
theorem Sourced.bootStart (sel : Fin 4) : Sourced.Statement (.bootStart sel) := Sourced.of_none rfl
theorem Sourced.bootConfirm (v : Word) : Sourced.Statement (.bootConfirm v) := Sourced.of_none rfl
theorem Sourced.keyRevoke (v : Word) (src : Nat) : Sourced.Statement (.keyRevoke v src) := Sourced.of_some rfl fun h => of_decide_eq_true h
theorem Sourced.evtPost (v : Word) (src : Nat) : Sourced.Statement (.evtPost v src) := Sourced.of_some rfl fun h => of_decide_eq_true h
theorem Sourced.eventPlace : Sourced.Statement .eventPlace := Sourced.of_none rfl
theorem Sourced.summaryPlace : Sourced.Statement .summaryPlace := Sourced.of_none rfl
theorem Sourced.evtClear (v : Word) : Sourced.Statement (.evtClear v) := Sourced.of_none rfl
theorem Sourced.evtClearDone : Sourced.Statement .evtClearDone := Sourced.of_none rfl
theorem Sourced.evtLastLoRead : Sourced.Statement .evtLastLoRead := Sourced.of_none rfl
theorem Sourced.freezeNLow : Sourced.Statement .freezeNLow := Sourced.of_none rfl
theorem Sourced.dbgFreeze (v : Word) (src : Nat) : Sourced.Statement (.dbgFreeze v src) := Sourced.of_some rfl fun h => of_decide_eq_true h
theorem Sourced.jtagFreeze : Sourced.Statement .jtagFreeze := Sourced.of_none rfl
theorem Sourced.freezeComplete : Sourced.Statement .freezeComplete := Sourced.of_none rfl
theorem Sourced.idcode : Sourced.Statement .idcode := Sourced.of_none rfl
theorem Sourced.extest (pins : List Bool) (data : List Bool) : Sourced.Statement (.extest pins data) := Sourced.of_none rfl
theorem Sourced.samplePreload (pins : List Bool) (data : List Bool) : Sourced.Statement (.samplePreload pins data) := Sourced.of_none rfl
theorem Sourced.bypass (code : Byte) : Sourced.Statement (.bypass code) := Sourced.of_none rfl
theorem Sourced.snapSel (chain : Half) : Sourced.Statement (.snapSel chain) := Sourced.of_none rfl
theorem Sourced.snapData : Sourced.Statement .snapData := Sourced.of_none rfl
theorem Sourced.memacc (data : BitVec 64) (addr : BitVec 40) (write : Bool) (autoinc : Bool) : Sourced.Statement (.memacc data addr write autoinc) := Sourced.of_none rfl
theorem Sourced.memstream : Sourced.Statement .memstream := Sourced.of_none rfl
theorem Sourced.memaccDone : Sourced.Statement .memaccDone := Sourced.of_none rfl
theorem Sourced.debugSelfRefreshReturn (ch : Fin 8) : Sourced.Statement (.debugSelfRefreshReturn ch) := Sourced.of_none rfl
theorem Sourced.warmrst : Sourced.Statement .warmrst := Sourced.of_none rfl
theorem Sourced.linkHalfDisable (p : Fin 2) (tx : Bool) (v : Word) (src : Nat) : Sourced.Statement (.linkHalfDisable p tx v src) := Sourced.of_some rfl fun h => of_decide_eq_true h
theorem Sourced.vsyncPulseEnd (p : Fin 2) : Sourced.Statement (.vsyncPulseEnd p) := Sourced.of_none rfl
theorem Sourced.analysisFrameEnd (t : Fin 4) : Sourced.Statement (.analysisFrameEnd t) := Sourced.of_none rfl
theorem Sourced.jtagTrst : Sourced.Statement .jtagTrst := Sourced.of_none rfl

end Sys2Proof.Laws
end

