-- ==== Sys2Proof/Laws/TimeBase.lean ====
section
/-! SUPPORT. What moving the time counter does to its value. -/

namespace Sys2Proof.Machine
theorem timeAdd_value (t : Time) (d : Nat) :
    ((timeAdd t (d : Int)).sec.toNat * 1000000000 + (timeAdd t (d : Int)).ns.toNat) * 2 ^ 32 + (timeAdd t (d : Int)).frac.toNat =
      ((t.sec.toNat * 1000000000 + t.ns.toNat) * 2 ^ 32 + t.frac.toNat + d) % (2 ^ 48 * 1000000000 * 2 ^ 32) := by
  have hx : ∃ x : Nat, ((t.ns.toNat * fracNs + t.frac.toNat : Nat) : Int) + (d : Int) = (x : Int) ∧ x = t.ns.toNat * 2 ^ 32 + t.frac.toNat + d :=
    ⟨t.ns.toNat * 2 ^ 32 + t.frac.toNat + d, by rw [show fracNs = 2 ^ 32 from rfl]; omega, rfl⟩
  obtain ⟨x, h, hx⟩ := hx
  unfold timeAdd
  simp only [h]
  generalize t.sec.toNat = S at *
  generalize t.ns.toNat = N at *
  generalize t.frac.toNat = Fr at *
  have e1 : ((x : Int) / (fracNs : Int)) = ((x / 2 ^ 32 : Nat) : Int) := by rw [show fracNs = 2 ^ 32 from rfl]; omega
  have e2 : ((x : Int) % (fracNs : Int)).toNat = x % 2 ^ 32 := by
    rw [show fracNs = 2 ^ 32 from rfl]; omega
  rw [e1, e2]
  generalize hq : x / 2 ^ 32 = q
  generalize hr : x % 2 ^ 32 = r
  have e3 : ((q : Int) % secNs).toNat = q % 1000000000 := by
    rw [show secNs = 1000000000 from rfl]; omega
  have e4 : (S : Int) + (q : Int) / secNs = ((S + q / 1000000000 : Nat) : Int) := by rw [show secNs = 1000000000 from rfl]; omega
  rw [e3, e4]
  simp only [BitVec.toNat_ofNat, BitVec.ofInt_natCast]
  omega

end Sys2Proof.Machine
end

