-- ==== Sys2Proof/Machine/Lands.lean ====
section
/-! DEFINITION. The lands of the module: their names and places (R533 to R537), and the state that each group takes in each state of
the device (R542, R546). -/

namespace Sys2Proof.Machine

/-! ### Names and places (R533 to R537) -/

/-- The letters of a row's name, in order (R533, Table 24.2). -/
def rowLetters : List String := ["A", "B", "C", "D", "E", "F", "G", "H", "J", "K", "L", "M", "N", "P", "T", "U", "V", "W", "Y"]

/-- The name of row 1 to 48. -/
def rowName (r : Nat) : String :=
  if r ≤ 19 then rowLetters.getD (r - 1) "" else if r ≤ 38 then "A" ++ rowLetters.getD (r - 20) "" else "B" ++ rowLetters.getD (r - 39) ""

/-- A land by row and column, counted from 1. -/
structure Land where
  row : Nat
  col : Nat
deriving DecidableEq, Repr

/-- A land's name, for example BK48. -/
def Land.name (l : Land) : String := rowName l.row ++ toString l.col

/-- A number in two digits. -/
def twoDigits (n : Nat) : String := if n < 10 then "0" ++ toString n else toString n

/-- The first land of a lane quad's cell (R535). -/
def quadCell (q : Nat) : Land := ⟨4 * (q / 6) + 1, 13 + 4 * (q % 6)⟩

/-- The land of lane `n` of quads 0 to 21, _P or _N (R535). -/
def laneLand (n : Nat) (neg : Bool) : Land :=
  let c := quadCell (n / 4)
  ⟨c.row + n % 4, c.col + (if neg then 2 else 1)⟩

/-- The land of lane `j` of Ethernet port `p`: TX_P, TX_N, RX_P, RX_N by `k` (R535). -/
def ethLand (p j k : Nat) : Land :=
  let c := quadCell (22 + p)
  ⟨c.row + j, c.col + k⟩

/-- The land of a reference clock in the cell of quad `q`, _P or _N (R535). -/
def clockLand (q : Nat) (neg : Bool) : Land :=
  let c := quadCell q
  ⟨c.row + (if neg then 1 else 0), c.col⟩

/-- The land at position 0 to 71 of subchannel `sub` of channel `ch` (R536). -/
def ddrLand (ch sub pos : Nat) : Land :=
  ⟨12 * (ch % 4) + 6 * sub + pos / 12 + 1, if ch < 4 then pos % 12 + 1 else 48 - pos % 12⟩

/-- The signal at a position of a subchannel, without the subchannel's name (R536). -/
def ddrSignal (pos : Nat) : String :=
  if pos < 44 then
    let k := pos / 11
    let i := pos % 11
    if i < 8 then "DQ" ++ toString (8 * k + i)
    else if i = 8 then "DQS" ++ toString k ++ "_P" else if i = 9 then "DQS" ++ toString k ++ "_N" else "GND"
  else if pos < 48 then "DQ" ++ toString (pos - 12)
  else if pos < 51 then ["DQS4_P", "DQS4_N", "GND"].getD (pos - 48) ""
  else if pos < 65 then "CA" ++ toString (pos - 51)
  else ["CS0", "CS1", "CK_P", "CK_N", "ZQ", "RESET_N", "GND"].getD (pos - 65) ""

/-- The name of a subchannel's land; DDRc_RESET_N and DDRc_ALERT_N belong to the channel. -/
def ddrName (ch sub pos : Nat) : String :=
  let d := "DDR" ++ toString ch
  if pos = 70 then d ++ (if sub = 0 then "_RESET_N" else "_ALERT_N")
  else if ddrSignal pos = "GND" then "GND" else d ++ (if sub = 0 then "A_" else "B_") ++ ddrSignal pos

/-- The name of a serial lane's pair. -/
def laneName (n : Nat) : String :=
  if n < 32 then "SL_RX" ++ twoDigits n else if n < 64 then "SL_TX" ++ twoDigits (n - 32)
  else if n < 80 then "SDI_TX" ++ twoDigits (n - 64) else "SDI_RX" ++ twoDigits (n - 80)

/-- The reference clock of a quad's cell. -/
def quadClock (q : Nat) : Option String :=
  if q = 8 then some "LINK_REFCLK_IN" else if q = 21 then some "REFCLK_ETH"
  else if q < 8 ∧ q % 2 = 0 then some ("LINK_REFCLK_OUT" ++ toString (q / 2)) else none

/-- The signal at row 1 to 16 of the lanes' region (R535). -/
def laneSignal (row col : Nat) : String :=
  let q := 6 * ((row - 1) / 4) + (col - 13) / 4
  let j := (row - 1) % 4
  let k := (col - 13) % 4
  let pol (neg : Bool) : String := if neg then "_N" else "_P"
  if 22 ≤ q then
    "ETH" ++ toString (q - 22) ++ (if k < 2 then "_TX" else "_RX") ++ toString j ++ pol (k % 2 == 1)
  else if k = 0 then
    (match quadClock q with
      | some c => if j < 2 then c ++ pol (j == 1) else "GND"
      | none => "GND")
  else if k = 3 then "GND" else laneName (4 * q + j) ++ pol (k == 2)

/-- The lands of a row of the control region, from column 13 (Table 24.4). -/
def controlRow (row : Nat) : List String :=
  let num (s : String) (a n : Nat) : List String := (List.range n).map (fun i => s ++ toString (a + i))
  let aud (n : Nat) : List String := ["BCLK", "FSYNC", "DIN", "DOUT"].map (fun x => "AUD" ++ toString n ++ "_" ++ x)
  let scp (n : Nat) : List String := ["SCK", "SDO", "SDI", "CS_N"].map (fun x => "SCP" ++ toString n ++ "_" ++ x)
  let rsv (a n : Nat) : List String := (List.range n).map (fun i => "RSV" ++ twoDigits (a + i))
  match row with
  | 17 => num "GPIO" 0 24
  | 19 => num "GPIO" 24 8 ++ num "TRIG_IN" 0 8 ++ num "TRIG_OUT" 0 8
  | 21 => ["PPS_IN", "PPS_OUT", "QSPI_SCK", "QSPI_CS_N"] ++ num "QSPI_IO" 0 4
  | 23 => (List.range 6).flatMap aud
  | 25 => aud 6 ++ aud 7 ++ ["AUD_MCLK_IN", "AUD_MCLK_OUT"] ++ (List.range 3).flatMap scp ++ ["SCP_VIO0", "SCP_VIO1"]
  | 27 => scp 3 ++ ["SENS0_VSYNC", "SENS0_HSYNC", "SENS1_VSYNC", "SENS1_HSYNC", "SENS_VIO0", "SENS_VIO1", "REFCLK_SYS", "XTAL32_IN",
      "XTAL32_OUT", "PWR_EN", "PWR_GOOD", "RESET_N", "FREEZE_N", "FREEZE_ACK", "THERM_N", "BOOT_SEL0", "BOOT_SEL1", "DBG_UART_TX",
      "DBG_UART_RX", "MOD_PRES_N"]
  | 29 => ["JTAG_TCK", "JTAG_TMS", "JTAG_TDI", "JTAG_TDO", "JTAG_TRST_N", "CLK32_OUT", "TEST0", "TEST1"] ++ rsv 0 16
  | 31 => rsv 16 12
  | _ => []

/-- The signal at a land of the power region (R537). -/
def powerSignal (row col : Nat) : String :=
  match row with
  | 47 | 48 => "VIN"
  | 46 => "MEM_VDD"
  | 45 => if col < 19 then "MEM_VDD" else if col < 33 then "MEM_VDDQ" else "MEM_VPP"
  | 44 => ["MEM_VDD_SNS", "MEM_VDDQ_SNS", "MEM_VPP_SNS", "MEM_SNS_GND", "AUX_3V3", "AUX_3V3", "AUX_1V8", "AUX_1V8"].getD (col - 13) "GND"
  | _ => "GND"

/-- What every land carries: the regions of Table 24.3, GND where no rule places a signal (R534). -/
def Land.signal (l : Land) : String :=
  let pos (place : Nat) : Nat := (l.row - 1) % 6 * 12 + place
  let sub := (l.row - 1) % 12 / 6
  if l.col ≤ 12 then ddrName ((l.row - 1) / 12) sub (pos (l.col - 1))
  else if 37 ≤ l.col then ddrName (4 + (l.row - 1) / 12) sub (pos (48 - l.col))
  else if l.row ≤ 16 then laneSignal l.row l.col
  else if l.row ≤ 38 then (controlRow l.row).getD (l.col - 13) "GND"
  else powerSignal l.row l.col

/-! ### Land states (R542, R546) -/

/-- The columns of Table 24.8. -/
inductive LandPhase where
  | unpowered | reset | running | napping | hibernating | frozen
deriving DecidableEq, Repr

/-- The rows of Table 24.8, by instance. -/
inductive LandGroup where
  | ddr (ch : Fin 8)
  | memoryRails
  | auxRails
  | transmitter (lane : Fin 96)
  | sdiTransmitter (n : Fin 16)
  | receiver (lane : Fin 96)
  | referenceOut (k : Fin 4)
  | scp (p : Fin 4)
  | sync (p : Fin 2)
  | audio (n : Fin 8)
  | audioMclk
  | gpio (n : Fin 32)
  | trigOut (n : Fin 8)
  | pps
  | qspi
  | pwrGood
  | thermN
  | freezeAck
  | tdo
  | uartAndClock
deriving DecidableEq, Repr

/-- What lands do; `asState` follows DRC_CTRL.STATE. -/
inductive LandState where
  | highImpedance | low | high | off | ramping | on | idle | active | terminated | carrier | selfRefresh | resetLow | asState (n : Nat)
  | released | held | configured
deriving DecidableEq, Repr

/-- The column of Table 24.8 that the device is in. -/
def State.landPhase (s : State) : LandPhase :=
  if !s.power.cosy then .unpowered
  else if s.power.mode = .hibernate then .hibernating
  else if s.on F.DBG_STAT.FROZEN then .frozen
  else if !s.power.railsOn then .reset
  else match s.power.mode with
    | .nap | .doze => .napping
    | _ => .running

/-- Asserted or not, a low or a released land. -/
def openDrain (b : Bool) : LandState := if b then .low else .released

/-- A land of the Run column that its registers configure: driven, or high-impedance. -/
def driven (b : Bool) : LandState := if b then .configured else .highImpedance

/-- The state of a group's lands. -/
def State.landState (s : State) (g : LandGroup) : LandState :=
  let p := s.landPhase
  match g with
  | .ddr c =>
    (match p with
      | .unpowered | .hibernating => .highImpedance
      | .reset => .resetLow
      | .frozen => .selfRefresh
      | .napping => if s.power.mode = .doze then .selfRefresh else .active
      | .running => .asState (s.get (F.DRC_CTRL.STATE c)))
  | .memoryRails => (match p with | .unpowered | .hibernating => .off | .reset => .ramping | _ => if s.bit F.PWR_RAIL.GOOD 0 then .on else .off)
  | .auxRails => (match p with | .unpowered => .off | .reset => .ramping | _ => if s.bit F.PWR_RAIL.GOOD 3 then .on else .off)
  | .transmitter l =>
    (match p with
      | .running => if s.on (F.LNK_STAT.IN_LINK l) then .active else .idle
      | .napping => if s.on (F.LNK_STAT.IN_LINK l) ∧ 88 ≤ l.val ∧ s.bit F.PWR_WAKE_EN.EN (3 + (l.val - 88) / 4) then .active else .idle
      | _ => .idle)
  | .sdiTransmitter n => if p = .running ∧ s.on (F.SDI_OUT_CFG.EN n) then .carrier else .terminated
  | .receiver _ => .terminated
  | .referenceOut k => if p = .running ∧ s.bit F.LNK_REFCFG.OUT_EN k then .active else .off
  | .scp n => if p = .running ∧ s.power.vio.testBit (n.val / 2) then driven (s.on (F.SCP_CFG.ENABLE n)) else .highImpedance
  | .sync n => if p = .running ∧ s.power.vio.testBit (2 + n.val) then driven (s.get (F.SLK_SYNCCTL.MODE n) == 2) else .highImpedance
  | .audio n => (match p with | .unpowered => .highImpedance | .running => if (s.audP n).running then .configured else .low | _ => .low)
  | .audioMclk => (match p with | .unpowered => .highImpedance | .running => if s.on F.AUD_PLL_CFG.MCLK_EN then .configured else .low | _ => .low)
  | .gpio n =>
    (match p with
      | .unpowered | .reset => .highImpedance
      | .hibernating | .frozen => .held
      | _ => driven (s.bit F.GPIO_OE.OE n))
  | .trigOut n =>
    (match p with
      | .unpowered | .reset => .highImpedance
      | .hibernating => if s.on (F.GPIO_TOUT_CFG.EN n) then (if s.on (F.GPIO_TOUT_CFG.POL n) then .high else .low) else .highImpedance
      | .frozen => .held
      | _ => driven (s.on (F.GPIO_TOUT_CFG.EN n)))
  | .pps => (match p with | .unpowered => .highImpedance | .running | .napping => if s.tim.pps then .high else .low | _ => .low)
  | .qspi => if p = .unpowered then .highImpedance else .idle
  | .pwrGood => (match p with | .unpowered | .reset | .hibernating => .low | _ => openDrain (s.get F.PWR_RAIL.GOOD % 8 != 7))
  | .thermN => (match p with | .unpowered => .released | _ => openDrain (s.on F.THM_STAT.THERM))
  | .freezeAck => (match p with | .unpowered => .highImpedance | .frozen => .high | _ => .low)
  | .tdo => .highImpedance
  | .uartAndClock => if p = .unpowered then .highImpedance else .active

end Sys2Proof.Machine
end

