-- ==== Sys2Proof/Tests/Slice0.lean ====
section
/-! SUPPORT. Tests: ill-formed operands, a word's command, witnesses that meet the hypotheses of each statement, and small steps
whose results the spec gives. -/

open Sys2Proof Sys2Proof.Machine

namespace Sys2Proof.Tests

set_option maxRecDepth 8000
set_option Elab.async false


/-- Reset with the listed domains On and the listed fields written. -/
def live (doms : List Nat) (l : List (Fld × Nat)) : State :=
  l.foldl (fun s e => s.put e.1 e.2) (doms.foldl (fun s d => s.put (F.PWR_DOM.STATE d) 2) State.reset)

/-- An access to `off` reaches a block that is On already. -/
def reachOk (s : State) (off : Nat) : Bool :=
  !s.dark && !s.heldPage off && !s.ctxPage off && (match domainOf off with | none => true | some d => decide (s.dom d = 2))

theorem reach {s : State} {off : Nat} (h : reachOk s off = true) : Reaches s off s := by
  unfold reachOk at h; simp only [Bool.and_eq_true, Bool.not_eq_true'] at h
  refine ⟨h.1.1.1, ?_, h.1.1.2, h.1.2, ?_⟩
  · unfold State.reachable; have := h.2; split <;> rename_i e <;> rw [e] at this <;> simp_all
  · unfold State.touchDomain; have := h.2; split <;> rename_i e <;> rw [e] at this <;> simp_all


theorem ok_of {α β : Type} {r : Except β α × State} (h : r.1.toOption.isSome = true) : ∃ d u, r = (.ok d, u) := by
  obtain ⟨_ | d, u⟩ := r
  · simp [Except.toOption] at h
  · exact ⟨d, u, rfl⟩

theorem error_of {α β : Type} {r : Except β α × State} (h : r.1.toOption.isSome = false) : ∃ e u, r = (.error e, u) := by
  obtain ⟨e | d, u⟩ := r
  · exact ⟨e, u, rfl⟩
  · simp [Except.toOption] at h

theorem read_of {β : Type} {r : Except β (List Byte) × State} {d : List Byte} (h : r.1.toOption = some d) : ∃ u, r = (.ok d, u) := by
  obtain ⟨e | d, u⟩ := r
  · simp [Except.toOption] at h
  · simp [Except.toOption] at h; subst h; exact ⟨u, rfl⟩
/-! ### Witnesses: the queue, time, the invariants -/

def waiting (l : List Instr) : State := { State.reset with pending := l }

theorem test_meets_FrontCommandRuns : (waiting [.idcode]).pending = .idcode :: [] := rfl
theorem test_meets_QueueIsFirstInFirstOut : (∃ t, (waiting [.idcode, .snapData]).pending = .idcode :: [.snapData] ∧ step (waiting [.idcode, .snapData]) = .next t) ∧
    ∃ t, State.reset.pending = [] ∧ step State.reset = .next t := ⟨⟨_, rfl, rfl⟩, ⟨_, rfl, rfl⟩⟩

def ticking : State := { State.reset with power := { State.reset.power with railsOn := true } }
theorem test_meets_IdleTickAdvancesTime : (ticking.pending = [] ∧ ticking.tclkRuns = true ∧ ticking.tim.slew = none) ∧
    (State.reset.pending = [] ∧ State.reset.tclkRuns = false) := by decide

def rec7 : EvRecord := ⟨5, 0x1700, 0x6000, 7, false, 0, 0⟩
def graved (clearing : Option (Nat × BitVec 48)) : State :=
  { State.reset with evt := { State.reset.evt with ring := [(3, some rec7)], nextSeq := 6, clearing := clearing } }
theorem graved_inv (c : Option (Nat × BitVec 48)) : Inv (graved c) :=
  ⟨show (0 : Nat) < 1000000000 by decide, show Canonical none [(3, some rec7)] = true by decide, fun e h => by simp [graved] at h; subst h; decide⟩
theorem test_meets_EveryStepKeepsTheInvariant : ∃ t, Inv (graved none) ∧ step (graved none) = .next t := ⟨_, graved_inv _, rfl⟩
theorem test_meets_GraveRecordsPersist :
    (∃ t, Inv (graved none) ∧ (graved none).pending.head? ≠ some .evtClearDone ∧ step (graved none) = .next t ∧ Grave (graved none) 3 rec7) ∧
    (∃ t, Inv (graved (some (7, 4))) ∧ exec .evtClearDone (graved (some (7, 4))) = .next t ∧ Grave (graved (some (7, 4))) 3 rec7 ∧
      ∀ sev last, (graved (some (7, 4))).evt.clearing = some (sev, last) → sev < 7 ∨ last.toNat < rec7.seq.toNat) :=
  ⟨⟨_, graved_inv _, by decide, rfl, rfl, rfl⟩, ⟨_, graved_inv _, rfl, ⟨rfl, rfl⟩, fun sev last h => by cases h; exact .inr (by decide)⟩⟩

/-- Key slots 0 and 3 present. -/
def keyed : State := { live [146] [] with sec := { State.reset.sec with keys := [(0, some []), (3, some [])] } }
theorem test_meets_RevocationAndFloorNeverFall :
    (∃ t, step keyed = .next t) ∧
    (Reaches keyed R.SEC_REVOKE keyed ∧
      ∃ k < 4, keyed.keysPresent.testBit k = true ∧ (keyed.sec.revoked ||| getBits 1 3 0).testBit k = false) ∧
    (∀ k < 4, keyed.keysPresent.testBit k = true → (keyed.sec.revoked ||| getBits 9 3 0).testBit k = true) ∧
    Reads keyed R.SEC_KEYSTAT keyed :=
  ⟨⟨_, rfl⟩, ⟨reach (by decide), 3, by decide, by decide, by decide⟩, by decide, (reach (by decide)).reads⟩

/-! ### The register window, cores, lock, watchdog, resets and boot -/

theorem test_meets_FieldsActByAccessType : ∃ (f : FieldDef) (i : Nat), f.lo ≤ f.hi ∧ f.hi < 32 ∧ i < 32 ∧ f.lo ≤ i ∧ i ≤ f.hi ∧ f.acc = .rwl :=
  ⟨⟨31, 31, .rwl⟩, 31, by decide⟩
theorem test_meets_FieldsActByAccessType_acc : ∀ a : Acc, ∃ f : FieldDef, f.lo ≤ f.hi ∧ f.hi < 32 ∧ f.acc = a := fun a => ⟨⟨31, 0, a⟩, Nat.zero_le 31, show 31 < 32 by decide, rfl⟩
/-- Tile 0 in brew 2, which no active image describes. -/
def inBrew2 : State := live [0] [(F.FAB_TILE_STAT.ASSIGNED 0, 1), (F.FAB_TILE_STAT.BREW 0, 2)]
theorem test_meets_UnimplementedOffsets : implemented 0x2 = false ∧ implemented 0xFFFFC = false ∧ inBrew2.ctxPage 0x30800 = true := by decide
theorem test_meets_WindowAccesses :
    (R.PWR_WAKE_EN % 4 = 0 ∧ implemented R.PWR_WAKE_EN = true ∧ Reaches State.reset R.PWR_WAKE_EN State.reset) ∧
    (R.MMU_CTL % 4 = 0 ∧ implemented R.MMU_CTL = true ∧ Reaches (live [139, 140] []) R.MMU_CTL (live [139, 140] []) ∧ R.MMU_CTL / 0x10000 ∈ [0xF, 0x10, 0x11]) ∧
    (State.reset.dark = false ∧ 0x160002 % 4 ≠ 0) ∧
    (∃ d, implemented (R.THM_SENS 0) = true ∧ Reads State.reset (R.THM_SENS 0) State.reset ∧ regDefAt (R.THM_SENS 0) = some d ∧
      (∀ f ∈ d.fields, f.lo ≤ f.hi ∧ f.hi < 32) ∧ R.THM_SENS 0 / 0x10000 ∉ [3, 4, 5, 9, 0xF, 0x10, 0x14, 0x15, 0x16, 0x18]) :=
  ⟨⟨by decide, by decide, reach (by decide)⟩, ⟨by decide, by decide, reach (by decide), by decide⟩, by decide, ⟨_, by decide, (reach (by decide)).reads, rfl, by decide, by decide⟩⟩

/-- Cores: core 1 stopped, core 2 running. -/
def cores : State := live [139] [(F.CPU_CORE_CTL.STATE 2, 2)]
theorem test_meets_CoreControl :
    (Reaches cores (R.CPU_CORE_CTL 1) cores ∧ (1 : Fin 4) ≠ 0 ∧ cores.get (F.CPU_CORE_CTL.STATE 1) = 0) ∧
    (Reaches cores (R.CPU_CORE_CTL 2) cores ∧ (2 : Fin 4) ≠ 0 ∧ cores.get (F.CPU_CORE_CTL.STATE 2) ≠ 0) ∧
    (Reaches cores (R.CPU_CORE_CTL 3) cores ∧ (3 : Fin 4) ≠ 0) ∧ Reaches cores (R.CPU_CORE_CTL 0) cores :=
  ⟨⟨reach (by decide), by decide⟩, ⟨reach (by decide), by decide⟩, ⟨reach (by decide), by decide⟩, reach (by decide)⟩

def dog (action : Nat) : State := live [139] [(F.CPU_WDOG.EN, 1), (F.CPU_WDOG.ACTION, action)]
theorem test_meets_LockAndWatchdog :
    Reaches State.reset R.SYS_LOCK State.reset ∧ Reaches (dog 0) R.CPU_WDOG (dog 0) ∧
    ((dog 0).dark = false ∧ (dog 0).on F.CPU_WDOG.EN = true ∧ (dog 0).on F.CPU_WDOG.ACTION = false) ∧
    ((dog 1).dark = false ∧ (dog 1).on F.CPU_WDOG.EN = true ∧ (dog 1).on F.CPU_WDOG.ACTION = true) :=
  ⟨reach (by decide), reach (by decide), by decide, by decide⟩

def frozen : State := live [] [(F.DBG_STAT.SRC, 1), (F.DBG_STAT.FROZEN, 1)]
theorem test_meets_WarmResetKeeps :
    (State.reset.power.cosy = true ∧ State.reset.power.mode ≠ .hibernate ∧ (State.reset.freezing = true → (1 : Fin 4) ≠ 1 ∧ (1 : Fin 4) ≠ 2)) ∧
    (frozen.power.cosy = true ∧ frozen.power.mode ≠ .hibernate ∧ frozen.freezing = true ∧ (3 : Fin 4) ≠ 1 ∧ (3 : Fin 4) ≠ 2) ∧
    region 0x4000000000 = .caddy ∧ region 0 = .dram ∧ region nvsBase = .nvs := by decide

def booted (phase slot : Nat) : State :=
  { live [119, 139, 146] [(F.CPU_CORE_CTL.STATE 0, 1)] with boot := { State.reset.boot with phase := phase, booted := slot, rollback := 4 } }
theorem test_meets_BootAndConfirm :
    ((booted 0 0).dark = false ∧ (booted 0 0).get (F.CPU_CORE_CTL.STATE 0) = 1) ∧
    (Reaches (booted 2 1) R.SEC_BOOT (booted 2 1) ∧ (booted 2 1).boot.phase = 2 ∧ (booted 2 1).boot.booted < 2) ∧
    (Reaches (booted 2 2) R.SEC_BOOT (booted 2 2) ∧ (booted 2 2).boot.phase = 2 ∧ 2 ≤ (booted 2 2).boot.booted) ∧
    (Reaches (booted 1 3) R.SEC_BOOT (booted 1 3) ∧ (booted 1 3).boot.phase ≠ 2) ∧
    (∀ addr ∈ [nvsBase + 0x203000, nvsBase + 0x3FF000 - 8], addr % 8 = 0 ∧ nvsBase + 0x203000 ≤ addr ∧ addr < nvsBase + 0x3FF000) ∧
    (nvsBase + 0x203004) % 8 ≠ 0 ∧ nvsBase + 0x202FF8 < nvsBase + 0x203000 ∧ nvsBase + 0x3FF000 ≤ nvsBase + 0x3FF000 :=
  ⟨by decide, ⟨reach (by decide), by decide⟩, ⟨reach (by decide), by decide⟩, ⟨reach (by decide), by decide⟩, by decide, by decide, by decide, by decide⟩

/-! ### Witnesses: loads, commits, frames in brews -/

/-- Brew 0: root ING0, to a statistics tile, an output pack tile and transmit half 0. Brew 1: roots ING2 and ING3. -/
def image : FabCfg := { (default : FabCfg) with
  tiles := [⟨0, 0, 0, 0, 0, 0⟩, ⟨26, 0, 0, 0, 0, 0⟩, ⟨44, 0, 0, 0, 0, 0⟩, ⟨2, 1, 0, 0, 0, 0⟩, ⟨3, 1, 0, 0, 0, 0⟩, ⟨36, 0, 0, 0, 0, 0⟩, ⟨40, 0, 0, 0, 0, 0⟩]
  routes := [⟨0, 0, 26, 0, 0⟩, ⟨0, 0, 44, 0, 0⟩, ⟨44, 0, 0xFF, 12, 0⟩, ⟨26, 0, 0xFF, 12, 0⟩, ⟨0, 0, 36, 0, 0⟩, ⟨2, 0, 36, 1, 0⟩, ⟨0, 0, 40, 0, 0⟩, ⟨2, 0, 40, 1, 0⟩]
  brews := [⟨0, 0, 0xFF, 0, 0, 64, 16, 0, 0⟩, ⟨1, 2, 3, 0, 0, 64, 16, 0, 0⟩, ⟨2, 34, 0xFF, 0, 0, 64, 16, 0, 0⟩] }
def brew0 : BrewRec := ⟨0, 0, 0xFF, 0, 0, 64, 16, 0, 0⟩
def brew1 : BrewRec := ⟨1, 2, 3, 0, 0, 64, 16, 0, 0⟩

def loaded (l : List (Fld × Nat)) : State := { live [0, 2, 3, 26, 34, 36, 40, 44, 139, 141, 142] l with active := some image }

def loading (phase tmo : Nat) : State :=
  { loaded [(F.FAB_LOAD_STAT.BUSY, 1), (F.FAB_LOAD_STAT.PHASE, phase), (F.FAB_QUIESCE_TMO.TMO_MS, tmo)] with
    load := some { (default : LoadRun) with full := true, replaced := [0, 1] } }
def run01 : LoadRun := { (default : LoadRun) with full := true, replaced := [0, 1] }

theorem test_meets_LoadsStart :
    (Reaches (loaded []) R.FAB_LOAD (loaded []) ∧ (loaded []).on F.FAB_LOAD_STAT.BUSY = false) ∧
    (Reaches (loading 2 0) R.FAB_LOAD (loading 2 0) ∧ (loading 2 0).on F.FAB_LOAD_STAT.BUSY = true) :=
  ⟨⟨reach (by decide), by decide⟩, ⟨reach (by decide), by decide⟩⟩

theorem test_meets_LoadsProceed :
    ((loading 1 0).dark = false ∧ (loading 1 0).load = some run01 ∧ (loading 1 0).get F.FAB_LOAD_STAT.PHASE = 1) ∧
    ((loading 2 0).load = some run01 ∧ (loading 2 0).get F.FAB_LOAD_STAT.PHASE = 2 ∧ run01.replaced.contains 1 = true ∧ run01.quiet.contains 1 = false ∧ (loading 2 0).isQuiet 1 = true) ∧
    ((loading 2 1).get F.FAB_LOAD_STAT.PHASE = 2 ∧ (loading 2 1).get F.FAB_QUIESCE_TMO.TMO_MS ≠ 0) ∧
    ((loading 2 0).dark = false ∧ (loading 2 0).get F.FAB_QUIESCE_TMO.TMO_MS = 0) ∧
    ((loading 3 0).dark = false ∧ (loading 3 0).load = some run01 ∧ (loading 3 0).get F.FAB_LOAD_STAT.PHASE = 3) ∧ (loaded []).load = none := by decide

theorem test_meets_CommitsPend :
    (Reaches (loaded []) R.FAB_COMMIT (loaded []) ∧ (loaded []).brewRec (getBits 0 3 0) = some brew0 ∧ (loaded []).held (getBits 0 3 0) = false) ∧
    (Reaches (loaded []) R.FAB_COMMIT (loaded []) ∧ (loaded []).brewRec (getBits 15 3 0) = none) ∧
    (Reaches (loading 2 0) R.FAB_COMMIT (loading 2 0) ∧ (loading 2 0).held (getBits 1 3 0) = true) ∧
    ((loaded [(F.FAB_COMMIT_PEND.PEND, 1)]).dark = false ∧ (loaded [(F.FAB_COMMIT_PEND.PEND, 1)]).brewRec 0 = some brew0 ∧
      (loaded [(F.FAB_COMMIT_PEND.PEND, 1)]).bit F.FAB_COMMIT_PEND.PEND 0 = true ∧ ((loaded [(F.FAB_COMMIT_PEND.PEND, 1)]).brew 0).fetched = false) ∧
    ((loaded []).dark = false ∧ (loaded []).bit F.FAB_COMMIT_PEND.PEND 0 = false) :=
  ⟨⟨reach (by decide), by decide⟩, ⟨reach (by decide), by decide⟩, ⟨reach (by decide), by decide⟩, by decide, by decide⟩

def frameOf (tile : Nat) (ns : BitVec 30) : Frame := { (default : Frame) with tile := tile, fs := ⟨0, ns, 0⟩, w := 64, h := 16, n := 1 }
/-- Frames that wait at the two roots of brew 1, that of ING3 the earlier. -/
def queued : State := { loaded [] with roots := [(2, { (default : RootRun) with frames := [frameOf 2 9] }), (3, { (default : RootRun) with frames := [frameOf 3 4] })] }
/-- A frame at the head of brew 0, whose start has left the root or not. -/
def headed (emitted : Bool) : State := { loaded [] with roots := [(0, { (default : RootRun) with frames := [{ frameOf 0 4 with emitted := emitted }] })] }

theorem test_meets_FramesThroughBrews :
    (queued.dark = false ∧ queued.brewRec 1 = some brew1 ∧ brew1.two = true ∧ brew1.striped = false ∧ (queued.brew 1).sel = none ∧
      (brew1.sources.filterMap queued.headOf).find? (fun f => (brew1.sources.filterMap queued.headOf).all (fun g => earlier f g)) = some (frameOf 3 4)) ∧
    (({ queued with brews := [(1, { (default : BrewRun) with sel := some 2 })] } : State).brew 1).sel.isSome = true ∧
    (queued.brewRec 1 = some brew1 ∧ queued.held 1 = false) ∧
    ((headed false).dark = false ∧ (headed false).brewRec 0 = some brew0 ∧ brew0.striped = false ∧ (headed false).held 0 = false ∧
      (headed false).currentFrame brew0 = some (frameOf 0 4) ∧ (frameOf 0 4).emitted = false) ∧
    ((headed true).currentFrame brew0 = some { frameOf 0 4 with emitted := true }) ∧
    ((headed true).brewOfTile 26 = some brew0 ∧ ((headed true).inBrew brew0).find? (fun f => !f.sofAt.contains 26) = some { frameOf 0 4 with emitted := true }) ∧
    ((loaded []).dark = false ∧ (loaded []).brewRec 0 = some brew0 ∧ (loaded []).endingAtRoot brew0 = none) := by decide

theorem test_meets_IndexedMemories :
    (∀ k ∈ [0, 3], Reads (live [4, 7] []) (R.RWC_SITE_GAIN k 0) (live [4, 7] []) ∧ Reaches (live [4, 7] []) (R.RWC_SITE_GAIN k 1) (live [4, 7] [])) ∧
    (∀ k ∈ [0, 3], Reaches (live [30, 33] []) (R.SYN_SITE_GAIN k 0) (live [30, 33] []) ∧ Reaches (live [30, 33] []) (R.SYN_COEF_DATA k 1) (live [30, 33] [])) ∧
    (∀ k ∈ [0, 7], Reaches (live [12, 19] []) (R.COL_COEF_DATA k 0) (live [12, 19] [])) := by
  refine ⟨fun k h => ?_, fun k h => ?_, fun k h => ?_⟩ <;> simp only [List.mem_cons, List.not_mem_nil, or_false] at h <;> rcases h with rfl | rfl
  · exact ⟨(reach (by decide)).reads, reach (by decide)⟩
  · exact ⟨(reach (by decide)).reads, reach (by decide)⟩
  · exact ⟨reach (by decide), reach (by decide)⟩
  · exact ⟨reach (by decide), reach (by decide)⟩
  · exact reach (by decide)
  · exact reach (by decide)

/-- ING2 as the one root of brew 1, in playback; PAT0 as the root of brew 2. -/
def solo : FabCfg := { image with brews := [⟨1, 2, 0xFF, 0, 0, 64, 16, 0, 0⟩, ⟨2, 34, 0xFF, 0, 0, 64, 16, 0, 0⟩] }
def played (widx : Nat) : State :=
  { live [2, 34] [(F.ING_PB_WIDX.WIDX 2 0, widx), (F.ING_PB_HI.ADDR 2 0, 0x40)] with
    active := some solo
    cur := [(R.ING_CFG 2 0, setBits (setBits 0 (F.ING_CFG.ENABLE 2 0).hi (F.ING_CFG.ENABLE 2 0).lo 1) (F.ING_CFG.SRCSEL 2 0).hi (F.ING_CFG.SRCSEL 2 0).lo 1),
      (R.PAT_CFG 0 0, setBits 0 (F.PAT_CFG.RUN 0 0).hi (F.PAT_CFG.RUN 0 0).lo 1)]
    mem := [(1, 1)] }
def rec2 : BrewRec := ⟨2, 34, 0xFF, 0, 0, 64, 16, 0, 0⟩
def busyPat : State := { played 0 with roots := [(34, { (default : RootRun) with frames := [frameOf 34 0] })] }

theorem test_meets_FrameSources :
    (2 ≤ (2 : Fin 4).val ∧ Reaches (live [2] []) (R.ING_PB_WIDX 2 0) (live [2] [])) ∧
    ((1 : Fin 4).val < 2 ∧ Reaches (live [1] []) (R.ING_PB_WIDX 1 0) (live [1] [])) ∧
    ((played 0).dark = false ∧ (played 0).brewOfRoot 2 = some (⟨1, 2, 0xFF, 0, 0, 64, 16, 0, 0⟩, 0) ∧
      (playTiles 2 && (played 0).onCur (F.ING_CFG.SRCSEL 2 0) && (played 0).onCur (F.ING_CFG.ENABLE 2 0) && (played 0).playbackDue ⟨1, 2, 0xFF, 0, 0, 64, 16, 0, 0⟩ 2) = true ∧
      (played 0).get (F.ING_PB_CTL.RIDX 2 0) = 0 ∧ (played 0).get (F.ING_PB_WIDX.WIDX 2 0) % ringSize ((played 0).get (F.ING_PB_CTL.LOG2CNT 2 0)) 1 12 = 0) ∧
    ((played 1).get (F.ING_PB_WIDX.WIDX 2 0) % ringSize ((played 1).get (F.ING_PB_CTL.LOG2CNT 2 0)) 1 12 = 1) ∧
    (∃ u, (played 1).engRead (rootReq 2 none) ((played 1).addr (R.ING_PB_LO 2 0) (R.ING_PB_HI 2 0)) 32 = (.ok (zeros 32), u)) ∧ (field (zeros 32) 0x11 1).testBit 1 = false ∧
    ((played 0).brewOfRoot 3 = none) ∧
    ((played 0).patBase 0 0 = true ∧ (played 0).brewOfRoot 34 = some (rec2, 0) ∧ (played 0).onCur (F.PAT_CFG.RUN 0 0) = true ∧ (played 0).brewFree rec2 = true ∧
      busyPat.patBase 0 0 = true ∧ busyPat.brewFree rec2 = false) ∧
    Reads (live [3] []) (R.ING_SEQ_LO 3 0) (live [3] []) :=
  ⟨⟨by decide, reach (by decide)⟩, ⟨by decide, reach (by decide)⟩, by decide, by decide, read_of (by decide), by decide, by decide, by decide, (reach (by decide)).reads⟩

/-! ### Witnesses: statistics, analysis, compose and pack -/

/-- A frame of brew 0 whose end has left its root and that the listed tiles have begun. -/
def ended (bad : Bool) : Frame := { frameOf 0 4 with emitted := true, closed := true, dropped := bad, sofAt := [26, 36, 40, 44], rows := [] }
def flowing (bad : Bool) (l : List (Fld × Nat)) : State := { loaded l with brews := [(0, { (default : BrewRun) with flow := [ended bad] })] }
/-- A frame of brew 1 that ends at input B of tiles 36 and 40. -/
def endedB (bad : Bool) : Frame := { frameOf 2 4 with emitted := true, closed := true, dropped := bad }
def flowingB (bad : Bool) (l : List (Fld × Nat)) : State := { loaded l with brews := [(1, { (default : BrewRun) with flow := [endedB bad] })] }
def record0 : PendRec := { (default : PendRec) with header := zeros 64 }

theorem test_meets_StatisticsFrames :
    ((flowing true []).dark = false ∧ (flowing true []).brewOfTile (26 + (0 : Fin 4).val) = some brew0 ∧ (flowing true []).endingAt brew0 (26 + (0 : Fin 4).val) = some (ended true) ∧
      (ended true).bad = true ∧ (⟨(ended true).par, (ended true).tabs⟩ : Par).on (F.STA_CFG.TAP_EN 0 (ended true).ctx) = false) ∧
    ((flowing false []).dark = false ∧ (flowing false []).brewOfTile (26 + (0 : Fin 4).val) = some brew0 ∧ (flowing false []).endingAt brew0 (26 + (0 : Fin 4).val) = some (ended false) ∧
      (ended false).bad = false ∧ (⟨(ended false).par, (ended false).tabs⟩ : Par).on (F.STA_CFG.TAP_EN 0 (ended false).ctx) = false ∧
      ((flowing false []).staPend (26 + (0 : Fin 4).val)).any (fun x => x.ctx == (ended false).ctx) = false ∧
      gridFault ⟨(ended false).par, (ended false).tabs⟩ ((flowing false []).cfg.mosaicAt brew0.brew (ended false).ctx) (0 : Fin 4) (ended false).ctx
        (tileIn (flowing false []).cfg brew0 (ended false) (26 + (0 : Fin 4).val)).pic.n = false) ∧
    ((loaded []).brewOfTile (26 + (1 : Fin 4).val) = none) ∧
    ((loaded []).brewOfTile (26 + (0 : Fin 4).val) = some brew0 ∧ (loaded []).endingAt brew0 (26 + (0 : Fin 4).val) = none) ∧
    (({ loaded [] with sta := [(26, [record0])] } : State).dark = false ∧ ({ loaded [] with sta := [(26, [record0])] } : State).staPend (26 + (0 : Fin 4).val) = record0 :: []) ∧
    (loaded []).staPend (26 + (3 : Fin 4).val) = [] := by decide +kernel

/-- An A frame of analysis tile 36 that waits, paired by sequence number or by the latest. -/
def waitA (mode : Nat) (chosen : Option FrameTag) (bq : List BEntry) : State :=
  { loaded [] with
    ana := [(36, { (default : AnaRun) with bq := bq, cur := [{ (default : AnaCur) with chosen := chosen }] })]
    cur := [(R.ANA_MATCH 0 0, setBits (setBits 0 (F.ANA_MATCH.MODE 0 0).hi (F.ANA_MATCH.MODE 0 0).lo mode) (F.ANA_MATCH.WAIT_US 0 0).hi (F.ANA_MATCH.WAIT_US 0 0).lo 5)] }
def cur0 (chosen : Option FrameTag) : AnaCur := { (default : AnaCur) with chosen := chosen }
def entry0 : BEntry := default
def begunB : State := { waitA 0 none [] with brews := [(1, { (default : BrewRun) with flow := [endedB false] })] }

def queueing : State := { flowingB false [] with cur := [(R.ANA_MATCH 0 0, 0)] }
theorem test_meets_AnalysisPairs :
    (queueing.dark = false ∧ queueing.endingB (36 + (0 : Fin 4).val) = some (brew1, endedB false, 2) ∧
      queueing.onCur (F.ANA_CFG.B_SRC (36 + (0 : Fin 4).val - 36) 0) = false ∧ queueing.getCur (F.ANA_MATCH.MODE (36 + (0 : Fin 4).val - 36) 0) < 2 ∧
      queueing.get (F.ANA_BQ_CTL.SLOT (36 + (0 : Fin 4).val - 36) 0) * 65536 < (tileOut queueing.cfg brew1 (endedB false) 48 2).pic.h *
        tapPitch (tileOut queueing.cfg brew1 (endedB false) 48 2).pic.w (tileOut queueing.cfg brew1 (endedB false) 48 2).pic.n
          (queueing.on (F.ANA_BQ_CTL.ENC (36 + (0 : Fin 4).val - 36) 0))) ∧
    2 ≤ ({ flowingB false [] with cur := [(R.ANA_MATCH 0 0, setBits 0 (F.ANA_MATCH.MODE 0 0).hi (F.ANA_MATCH.MODE 0 0).lo 2)] } : State).getCur (F.ANA_MATCH.MODE (36 + (0 : Fin 4).val - 36) 0) ∧
    ((loaded []).endingB (36 + (0 : Fin 4).val) = none) ∧
    ((waitA 0 none []).dark = false ∧ ((waitA 0 none []).anaRun (36 + (0 : Fin 4).val)).waitingA = some (cur0 none) ∧ (cur0 none).chosen = none ∧
      (waitA 0 none []).getCur (F.ANA_MATCH.MODE (36 + (0 : Fin 4).val - 36) (cur0 none).ctx) = 0 ∧
      (waitA 0 none []).getCur (F.ANA_MATCH.WAIT_US (36 + (0 : Fin 4).val - 36) (cur0 none).ctx) ≠ 0) ∧
    ((waitA 0 none [entry0]).anaRun (36 + (0 : Fin 4).val)).bq.find? (fun e => e.tag.seq == (waitA 0 none [entry0]).wantedSeq (36 + (0 : Fin 4).val) (cur0 none)
      && !((waitA 0 none [entry0]).anaRun (36 + (0 : Fin 4).val)).reads e.slot) = some entry0 ∧
    (begunB.startedB (36 + (0 : Fin 4).val)).find? (fun f => f.tag.seq == begunB.wantedSeq (36 + (0 : Fin 4).val) (cur0 none)) = some (endedB false) ∧
    ((waitA 1 none [entry0]).getCur (F.ANA_MATCH.MODE (36 + (0 : Fin 4).val - 36) (cur0 none).ctx) ≠ 0 ∧
      ((waitA 1 none [entry0]).anaRun (36 + (0 : Fin 4).val)).bq.find? (fun e => !((waitA 1 none [entry0]).anaRun (36 + (0 : Fin 4).val)).reads e.slot) = some entry0) ∧
    (((waitA 0 (some default) []).anaRun (36 + (0 : Fin 4).val)).waitingA = some (cur0 (some default)) ∧ (cur0 (some default)).chosen = some default ∧
      ((waitA 0 (some default) []).startedB (36 + (0 : Fin 4).val)).any (fun f => f.tag == default) = false ∧
      (({ begunB with ana := (waitA 0 (some default) []).ana } : State).startedB (36 + (0 : Fin 4).val)).any (fun f => f.tag == default) = true) ∧
    ((loaded []).anaRun (36 + (3 : Fin 4).val)).waitingA = none := by decide +kernel

def decidedA (bad : Bool) (flags : Nat) (pend : List PendRec) : State :=
  { flowing bad [] with ana := [(36, ⟨[], [{ (default : AnaCur) with decided := true, flags := flags }], pend⟩)] }
theorem test_meets_AnalysisRecords :
    ((decidedA true 0 []).dark = false ∧ (decidedA true 0 []).brewOfTile (36 + (0 : Fin 4).val) = some brew0 ∧
      (decidedA true 0 []).endingAt brew0 (36 + (0 : Fin 4).val) = some (ended true) ∧ (ended true).bad = true ∧
      ((decidedA true 0 []).anaRun (36 + (0 : Fin 4).val)).cur.find? (fun a => a.tag == (ended true).tag && a.decided) = some { (default : AnaCur) with decided := true }) ∧
    ((decidedA false 0 []).endingAt brew0 (36 + (0 : Fin 4).val) = some (ended false) ∧ (ended false).bad = false ∧
      (((decidedA false 0 []).anaRun (36 + (0 : Fin 4).val)).pend.any (fun r => r.ctx == (ended false).ctx)) = false) ∧
    (((decidedA false 0 [record0]).anaRun (36 + (0 : Fin 4).val)).pend.any (fun r => r.ctx == (ended false).ctx)) = true ∧
    (anaUnmatched &&& (anaUnmatched + anaBDropped + anaMismatch) ≠ 0) ∧
    ((loaded []).brewOfTile (36 + (0 : Fin 4).val) = some brew0 ∧ (loaded []).endingAt brew0 (36 + (0 : Fin 4).val) = none) ∧
    ((flowing false []).endingAt brew0 (36 + (0 : Fin 4).val) = some (ended false) ∧
      ((flowing false []).anaRun (36 + (0 : Fin 4).val)).cur.find? (fun a => a.tag == (ended false).tag && a.decided) = none) ∧
    ((loaded []).brewOfTile (36 + (1 : Fin 4).val) = none) ∧
    ((decidedA false 0 [record0]).dark = false ∧ ((decidedA false 0 [record0]).anaRun (36 + (0 : Fin 4).val)).pend = record0 :: []) ∧
    ((loaded []).anaRun (36 + (3 : Fin 4).val)).pend = [] := by decide +kernel

def slotK : OpkSlot := { (default : OpkSlot) with valid := true, slot := 1 }
def packed : State := { loaded [(F.OPK_REC_HI.ADDR 0 0, 0x40)] with opk := [(44, { (default : OpkRun) with pend := [slotK] })] }
theorem test_meets_ComposeAndPack :
    ((flowingB true []).dark = false ∧ (flowingB true []).endingB (40 + (0 : Fin 4).val) = some (brew1, endedB true, 2) ∧ (endedB true).bad = true) ∧
    ({ loading 2 0 with brews := (flowingB false []).brews } : State).held brew1.brew = true ∧
    ((flowingB false []).endingB (40 + (0 : Fin 4).val) = some (brew1, endedB false, 2) ∧ (endedB false).bad = false ∧ (flowingB false []).held brew1.brew = false ∧
      (flowingB false []).get (F.CMX_BBUF_CTL.SLOT (40 + (0 : Fin 4).val - 40) 0) * 65536 < (tileOut (flowingB false []).cfg brew1 (endedB false) 48 2).pic.h *
        tapPitch (tileOut (flowingB false []).cfg brew1 (endedB false) 48 2).pic.w (tileOut (flowingB false []).cfg brew1 (endedB false) 48 2).pic.n true) ∧
    ((loaded []).endingB (40 + (1 : Fin 4).val) = none) ∧
    ((flowing true []).dark = false ∧ (flowing true []).brewOfTile (44 + (0 : Fin 4).val) = some brew0 ∧ (flowing true []).endingAt brew0 (44 + (0 : Fin 4).val) = some (ended true) ∧
      (flowing true []).cfg.portOf (44 + (0 : Fin 4).val) = some 12) ∧
    ((loaded []).brewOfTile (44 + (1 : Fin 4).val) = none ∧ (loaded []).endingAt brew0 (44 + (0 : Fin 4).val) = none) ∧
    (packed.dark = false ∧ (packed.opkRun (44 + (0 : Fin 4).val)).pend = slotK :: [] ∧ slotK.valid = true ∧
      ((packed.setOpk 44 { packed.opkRun 44 with pend := [] }).ringRecord (portReq 44 ((packed.cfg.portOf 44).getD 0) (some slotK.tag.toNat))
        (packed.addr (R.OPK_REC_LO 0 0) (R.OPK_REC_HI 0 0)) 64 (ringSize (packed.get (F.OPK_REC_CTL.LOG2CNT 0 0)) 4 16) (F.OPK_REC_CTL.WIDX 0 0) slotK.record).1 = true) ∧
    ((loaded []).opkRun (44 + (0 : Fin 4).val)).pend = [] := by decide +kernel

/-! ### Witnesses: sensor link -/

/-- Link 0 receives on lanes 0 and 1, port 0 sends on lanes 32 and 33, port 1 receives raw on lanes 2 and 3; brew 0 also goes to transmit half 0. -/
def sync1 : SyncRec := ⟨1, 12, 12, 3, [0xFFF, 0, 0], 0xAB0, 0x800, 0x9D0, 0xB60, 0, 64, 16, 0, 0⟩
def wired : FabCfg := { image with
  routes := image.routes ++ [⟨44, 0, 0xFE, 0, 0⟩]
  lanes := [⟨0, 2, 0, [0, 1]⟩, ⟨2, 2, 0, [32, 33]⟩, ⟨1, 2, 0, [2, 3]⟩]
  syncs := [sync1] }
def link (l : List (Fld × Nat)) : State :=
  { live [0, 26, 44, 137, 138] ([(F.LNK_STAT.UP 0, 1), (F.LNK_STAT.UP 1, 1), (F.LNK_STAT.UP 2, 1), (F.LNK_STAT.UP 3, 1), (F.SLK_RXCFG.ENABLE 0, 1)] ++ l) with active := some wired }
/-- The receive half of port 0 in a state, at version 2 or 3. -/
def rxIn (st ver : Nat) : State := link [(F.SLK_STAT.RX_STATE 0, st), (F.SLK_STAT.RX_VER 0, ver)]
def rxWith (st ver : Nat) (x : RxHalf) : State := { rxIn st ver with rx := [(0, x)] }
def rx0 : RxHalf := (rxIn 4 2).rxH 0
def openFrame : LinkFrame := ⟨5, 0, 64, 16, 12, 2, false⟩
def txIn (st ver : Nat) (x : TxHalf) (l : List (Fld × Nat)) : State :=
  { link ([(F.SLK_STAT.TX_STATE 0, st), (F.SLK_STAT.TX_VER 0, ver)] ++ l) with tx := [(0, x)] }
def tx0 : TxHalf := (link []).txH 0

theorem test_meets_LinkColumns :
    ((rxIn 4 3).dark = false ∧ (rxIn 4 3).rxSees (0 : Fin 2) = true ∧ (rxIn 4 3).rxDiscards (0 : Fin 2) = false) ∧
    (∀ ty ∈ [0x1E, 0x33, 0x55, 0x4B], (∀ e ∈ [((2 : BitVec 2), BitVec.ofNat 64 ty), (2, BitVec.ofNat 64 (ty + 256))], e.1 = 2 ∧ e.2.toNat % 256 = ty) ∧ (rxIn 4 3).columnKnown (0 : Fin 2) ty = true) ∧
    ((∀ e ∈ [((1 : BitVec 2), (0x1E : BitVec 64)), (2, 0x1E)], e.1 = 1 ∨ e.1 = 2) ∧ ((1 : BitVec 2), (0x1E : BitVec 64)) ∈ [((1 : BitVec 2), (0x1E : BitVec 64)), (2, 0x1E)]) ∧
    ((rxIn 2 0).dark = false ∧ (rxIn 2 0).rxSees (0 : Fin 2) = true ∧ (rxIn 2 0).linkValid (0 : Fin 2) = true ∧
      [(0, 0), (0, 0)].map (·.1) ≠ List.range ((rxIn 2 0).cfg.linkLanes (0 : Fin 2)).length ∧ (∃ e ∈ [(0, 0), (1, 17)], 16 < e.2)) ∧
    ([(0, 0), (1, 16)].map (·.1) = List.range ((rxIn 2 0).cfg.linkLanes (0 : Fin 2)).length ∧ (∀ e ∈ [(0, 0), (1, 16)], e.2 ≤ 16) ∧ ((rxIn 2 0).rxH (0 : Fin 2)).good = 0) ∧
    (0 < ((rxWith 2 0 { rx0 with good := 1 }).rxH (0 : Fin 2)).good ∧ (rxWith 2 0 { rx0 with good := 1 }).rxState (0 : Fin 2) = 2) ∧
    ((rxIn 4 3).rxState (0 : Fin 2) = 4 ∧ (rxIn 4 3).get (F.SLK_STAT.RX_VER (0 : Fin 2)) = 3 ∧ (rxIn 4 2).get (F.SLK_STAT.RX_VER (0 : Fin 2)) ≠ 3) ∧
    ((rxIn 0 0).rxSees (0 : Fin 2) = false ∧ (rxWith 2 0 { rx0 with back := 4 }).rxDiscards (0 : Fin 2) = true ∧ (link []).linkValid (2 : Fin 4) = false) := by
  refine ⟨by decide +kernel, ?_, by simp, ⟨by decide +kernel, by decide +kernel, by decide +kernel, by decide +kernel, (1, 17), by simp, by decide⟩,
    ⟨by decide +kernel, by simp, by decide +kernel⟩, by decide +kernel, by decide +kernel, by decide +kernel⟩
  simp only [List.mem_cons, List.not_mem_nil, or_false]
  rintro ty (rfl | rfl | rfl | rfl) <;> exact ⟨by simp, by decide +kernel⟩

theorem test_meets_LinkNegotiates :
    ((rxIn 3 0).dark = false ∧ (rxIn 3 0).rxSees (0 : Fin 2) = true ∧ 3 ≤ (rxIn 3 0).rxState (0 : Fin 2) ∧ (false && (rxIn 3 0).packetLanesOk (0 : Fin 2) 24) = false) ∧
    ((rxIn 3 0).rxState (0 : Fin 2) = 3 ∧ (rxIn 3 0).packetLanesOk (0 : Fin 2) 24 = true ∧ topVersion ((0 : BitVec 3).toNat % 2 ^ max 1 ((rxIn 3 0).get (F.SLK_RXCFG.MAXVER (0 : Fin 2)))) = 0) ∧
    (let s := (rxIn 3 0).put (F.SLK_RXCFG.SCP 0) 4
     topVersion ((7 : BitVec 3).toNat % 2 ^ max 1 (s.get (F.SLK_RXCFG.MAXVER (0 : Fin 2)))) ≠ 0 ∧ 0 < (1 : BitVec 2).toNat ∧
      (1 : BitVec 2).toNat ≤ max 1 (s.get (F.SLK_RXCFG.MAXVER (0 : Fin 2))) ∧ 4 ≤ s.get (F.SLK_RXCFG.SCP (0 : Fin 2))) ∧
    ((rxIn 0 0).rxSees (0 : Fin 2) = false ∧ (rxIn 2 0).rxState (0 : Fin 2) < 3) ∧
    ((txIn 3 0 tx0 []).dark = false ∧ (txIn 3 0 tx0 []).txState (0 : Fin 2) = 3 ∧ ((txIn 3 0 tx0 []).txH (0 : Fin 2)).ver = 0) ∧
    (((txIn 3 0 { tx0 with ver := 2, capLeft := 1 } []).txH (0 : Fin 2)).ver ≠ 0 ∧ ((txIn 3 0 { tx0 with ver := 2, capLeft := 1 } []).txH (0 : Fin 2)).capLeft ≤ 1) ∧
    (1 < ((txIn 3 0 { tx0 with ver := 2, capLeft := 2 } []).txH (0 : Fin 2)).capLeft) ∧ (link []).txState (0 : Fin 2) ≠ 3 ∧
    (((txIn 3 0 { tx0 with capSent := true } []).txH (0 : Fin 2)).capSent = true ∧ ((txIn 3 0 { tx0 with capSent := true } []).txH (0 : Fin 2)).ver = 0) ∧
    ((link []).txH (0 : Fin 2)).capSent = false ∧ (txIn 3 0 tx0 []).txRaw (0 : Fin 2) = false ∧ (link [(F.SLK_TXCFG.RAW 0, 1)]).txRaw (0 : Fin 2) = true := by decide +kernel

theorem test_meets_LinkPackets :
    ((rxIn 4 2).dark = false ∧ (rxIn 4 2).rxTakes (0 : Fin 2) = true ∧ (∀ n ∈ [16, 24, 16 + 96], (rxIn 4 2).packetLanesOk (0 : Fin 2) n = true)) ∧
    ((false && (rxIn 4 2).packetLanesOk (0 : Fin 2) 24) = false) ∧
    (((rxWith 4 2 { rx0 with frame := some openFrame }).rxH (0 : Fin 2)).frame = some openFrame ∧ openFrame.full = false ∧
      (rxWith 4 2 { rx0 with frame := some openFrame }).get (F.SLK_STAT.RX_VER (0 : Fin 2)) < 3 ∧ 2 ≤ (rxWith 4 2 { rx0 with frame := some openFrame }).get (F.SLK_STAT.RX_VER (0 : Fin 2)) ∧
      (rxWith 4 2 { rx0 with frame := some openFrame }).rxTakes (0 : Fin 2) = true) ∧
    (((rxIn 4 2).rxH (0 : Fin 2)).frame = none ∧ ((rxIn 4 2).rxH (0 : Fin 2)).skipping = false ∧ ((rxWith 4 2 { rx0 with skipping := true }).rxH (0 : Fin 2)).skipping = true) ∧
    (openFrame.h ≤ (16 : Word).toNat ∧ (1 : Word).toNat < openFrame.next) ∧
    (openFrame.next ≤ (2 : Word).toNat ∧ (15 : Word).toNat < openFrame.h ∧ (zeros 96).length = lineBytes openFrame.w openFrame.depth) ∧
    (rxIn 3 0).rxTakes (0 : Fin 2) = false := by decide +kernel

/-- Port 1 as a raw link whose lanes have locked. -/
def raw1 (st aligned : Nat) : State := link [(F.SLK_RXCFG.ENABLE 1, 1), (F.SLK_RXCFG.RAW 1, 1), (F.SLK_STAT.RX_STATE 1, st), (F.SLK_STAT.RAW_ALIGNED 1, aligned)]
theorem test_meets_RawLinkAndHalves :
    (let s := raw1 4 3
     let pre := [(0xFFF : Half), 0, 0]
     (s.dark = false ∧ s.cfg.syncOf (1 : Fin 2) = some sync1 ∧ s.on (F.SLK_RXCFG.ENABLE (1 : Fin 2)) = true ∧ s.on (F.SLK_RXCFG.RAW (1 : Fin 2)) = true ∧ s.rxState (1 : Fin 2) = 4 ∧
       s.linkValid (1 : Fin 2) = true ∧ sync1.preambleIs (pre.map (·.toNat)) = true ∧ s.get (F.SLK_STAT.RAW_ALIGNED (1 : Fin 2)) % 2 ^ (s.cfg.linkLanes (1 : Fin 2)).length = 2 ^ (s.cfg.linkLanes (1 : Fin 2)).length - 1 ∧
       (s.rxH (1 : Fin 2)).rawLine = false) ∧
     (∀ c ∈ [sync1.eof, sync1.eol], c % 2 ^ sync1.width ≠ sync1.sol % 2 ^ sync1.width ∧ c % 2 ^ sync1.width ≠ sync1.sof % 2 ^ sync1.width) ∧ sync1.eof % 2 ^ sync1.width ≠ sync1.eol % 2 ^ sync1.width ∧
     (let v := s.rawSeenNow (1 : Fin 2) 3
      v.rxState (1 : Fin 2) = 4 ∧ v.linkValid (1 : Fin 2) = true ∧ (v.rxH (1 : Fin 2)).rawLine = false ∧
        v.get (F.SLK_STAT.RAW_ALIGNED (1 : Fin 2)) % 2 ^ (v.cfg.linkLanes (1 : Fin 2)).length = 2 ^ (v.cfg.linkLanes (1 : Fin 2)).length - 1) ∧
     s.cfg.syncOf (0 : Fin 2) = none ∧ sync1.preambleIs [0, 0, 0] = false) ∧
    (∀ p : Fin 2, Reaches (link []) (R.SLK_RXCFG p) (link []) ∧ Reaches (link []) (R.SLK_TXCFG p) (link [])) ∧
    ((link []).on (F.SLK_RXCFG.ENABLE (1 : Fin 2)) = false ∧ ((link []).plainWrite 0 (R.SLK_RXCFG (1 : Fin 2)) 0x80000000).on (F.SLK_RXCFG.ENABLE (1 : Fin 2)) = true) ∧
    ((link []).on (F.SLK_RXCFG.ENABLE (0 : Fin 2)) = true ∧ ((link []).plainWrite 0 (R.SLK_RXCFG (0 : Fin 2)) 0).on (F.SLK_RXCFG.ENABLE (0 : Fin 2)) = false) ∧
    ((link []).on (F.SLK_TXCFG.ENABLE (0 : Fin 2)) = false ∧ ((link []).plainWrite 0 (R.SLK_TXCFG (0 : Fin 2)) 0x80000000).on (F.SLK_TXCFG.ENABLE (0 : Fin 2)) = true) ∧
    (Reaches (link [(F.SLK_TXCFG.ENABLE 0, 1)]) (R.SLK_TXCFG (0 : Fin 2)) (link [(F.SLK_TXCFG.ENABLE 0, 1)]) ∧ (link [(F.SLK_TXCFG.ENABLE 0, 1)]).on (F.SLK_TXCFG.ENABLE (0 : Fin 2)) = true ∧
      ((link [(F.SLK_TXCFG.ENABLE 0, 1)]).plainWrite 0 (R.SLK_TXCFG (0 : Fin 2)) 0).on (F.SLK_TXCFG.ENABLE (0 : Fin 2)) = false) :=
  ⟨by decide +kernel, fun p => by revert p; intro p; match p with | 0 => exact ⟨reach (by decide), reach (by decide)⟩ | 1 => exact ⟨reach (by decide), reach (by decide)⟩,
    by decide +kernel, by decide +kernel, by decide +kernel, reach (by decide), by decide +kernel⟩

/-- Transmit half 0 up, with a frame of brew 0 standing at it or being sent. -/
def sending (x : TxHalf) (l : List (Fld × Nat)) : State := { txIn 4 3 x l with brews := [(0, { (default : BrewRun) with flow := [ended false] })] }
def cur1 (due : Nat) : TxFrame := ⟨(ended false).tag, 1, 0, 1, due⟩
def sent (due pace : Nat) : State := sending { tx0 with cur := some (cur1 due) } [(F.SLK_EMU.PACE 0, pace)]
def synced (mode : Nat) : State := { link [(F.SLK_SYNCCTL.MODE 0, mode)] with tim := { State.reset.tim with vsync := [0], hsync := [(0, 1)] } }
theorem test_meets_LinkSends :
    (let s := sending tx0 []
     s.dark = false ∧ s.txState (0 : Fin 2) = 4 ∧ s.on (F.SLK_EMU.FOLLOW (0 : Fin 2)) = false ∧ s.txWaiting (0 : Fin 2) = ended false :: [] ∧ s.get (F.SLK_STAT.TX_VER (0 : Fin 2)) = 3 ∧ s.txRaw (0 : Fin 2) = false) ∧
    ((sending tx0 [(F.SLK_TXCFG.RAW 0, 1)]).txWaiting (0 : Fin 2) = ended false :: [] ∧ (sending tx0 [(F.SLK_TXCFG.RAW 0, 1)]).txRaw (0 : Fin 2) = true) ∧
    (let s := sending { tx0 with exposed := [((ended false).tag, ⟨0, 0, 0⟩)] } []
     s.dark = false ∧ s.txTile (0 : Fin 2) = some (brew0, 44) ∧ (s.txH (0 : Fin 2)).exposed = ((ended false).tag, ⟨0, 0, 0⟩) :: [] ∧ (s.txH (0 : Fin 2)).cur = none ∧ s.txState (0 : Fin 2) = 4 ∧
       2 * s.get (F.SLK_EMU_XS.TICKS (0 : Fin 2)) ≤ (s.now - timeN ⟨0, 0, 0⟩).toNat ∧ (s.inBrew brew0).find? (fun f => f.tag == (ended false).tag) = some (ended false) ∧
       (let g := s.echoSgen (0 : Fin 2) (ended false)
        g.2.txRaw (0 : Fin 2) = false ∧ g.2.on (F.SLK_EMU.FCNT_EN (0 : Fin 2)) = false ∧ g.2.on (F.SLK_EMU.VS_AT_FS (0 : Fin 2)) = false)) ∧
    (let s := sending { tx0 with exposed := [((frameOf 3 0).tag, ⟨0, 0, 0⟩)] } [(F.SLK_EMU_XS.TICKS 0, 1)]
     (s.now - timeN ⟨0, 0, 0⟩).toNat < 2 * s.get (F.SLK_EMU_XS.TICKS (0 : Fin 2))) ∧
    (({ sending tx0 [] with brews := [] } : State).inBrew brew0).find? (fun f => f.tag == (ended false).tag) = none ∧
    ((sent 1 0).dark = false ∧ ((sent 1 0).txH (0 : Fin 2)).cur = some (cur1 1) ∧ (sent 1 0).on (F.SLK_EMU.PACE (0 : Fin 2)) = false) ∧
    ((sent 2 1).on (F.SLK_EMU.PACE (0 : Fin 2)) = true ∧ (cur1 2).next < (cur1 2).due ∧ ((sent 2 1).txNextLine (0 : Fin 2)).isSome = true) ∧
    ((cur1 1).next = (cur1 1).due ∧ ((sent 1 1).txNextLine (0 : Fin 2)).isSome = true) ∧ ((cur1 0).due ≤ (cur1 0).next ∧ (cur1 0).next ≠ (cur1 0).due) ∧
    ((link []).txH (0 : Fin 2)).cur = none ∧
    ((synced 2).dark = false ∧ (synced 2).tim.vsync.contains (0 : Fin 2).val = true ∧ (synced 2).get (F.SLK_SYNCCTL.MODE (0 : Fin 2)) = 2 ∧ sget 0 (synced 2).tim.hsync (0 : Fin 2) = 0 + 1) ∧
    ((synced 1).get (F.SLK_SYNCCTL.MODE (0 : Fin 2)) = 1 ∧ (synced 0).get (F.SLK_SYNCCTL.MODE (0 : Fin 2)) ≠ 1) := by decide +kernel

/-! ### Witnesses: lanes, sensor control ports -/

def lane (l : Nat) (st : Nat) (f : List (Fld × Nat)) : State := link ([(F.PWR_DOM.STATE (48 + l / 4), 2), (F.LNK_STAT.STATE l, st)] ++ f)
def wide : AdaptOut := ⟨0, [], [], 0, 32, 32, 32, 32⟩
def less : AdaptOut := ⟨0, [], [], 0, 20, 20, 20, 20⟩
def shut : AdaptOut := ⟨0, [], [], 0, 0, 0, 0, 0⟩
theorem test_meets_LanesComeUp :
    ((lane 0 0 []).dark = false ∧ (lane 0 0 []).inLink (0 : Fin 96) = true ∧ (lane 0 0 []).laneState (0 : Fin 96) = 0) ∧
    ((lane 0 0 []).inLink (31 : Fin 96) = false ∧ (lane 0 1 []).laneState (0 : Fin 96) ≠ 0) ∧
    ((lane 0 2 []).laneState (0 : Fin 96) = 2 ∧ (lane 0 1 []).laneState (0 : Fin 96) ≠ 2) ∧
    ((lane 0 3 []).dark = false ∧ (lane 0 3 []).laneState (0 : Fin 96) = 3 ∧ ((lane 0 3 []).lane (0 : Fin 96)).retry = false) ∧
    (let t := fun a : AdaptOut => (((lane 0 3 []).showAdapt (0 : Fin 96) a).takeAdapt (0 : Fin 96) a).put (F.LNK_STAT.BAND (0 : Fin 96)) (lane 0 3 []).band
     (t wide).get (F.LNK_DET.LOL_THR (0 : Fin 96)) ≤ adaptFom wide ∧ adaptFom shut < (t shut).get (F.LNK_DET.LOL_THR (0 : Fin 96))) ∧
    (({ lane 0 3 [] with lanes := [(0, { (lane 0 3 []).lane 0 with retry := true })] } : State).lane (0 : Fin 96)).retry = true ∧
    (∀ l : Fin 96, l = 0 ∨ l = 31 ∨ l = 80 ∨ l = 95 → laneReceives l = true) ∧ laneReceives (32 : Fin 96) = false ∧ laneReceives (79 : Fin 96) = false ∧
    ((lane 0 4 [(F.LNK_STAT.IN_LINK 0, 1)]).on (F.LNK_STAT.IN_LINK (0 : Fin 96)) = true ∧ (lane 0 4 []).laneState (0 : Fin 96) = 4 ∧ (lane 0 4 []).on (F.LNK_STAT.IN_LINK (0 : Fin 96)) = false) ∧
    (lane 0 4 [(F.LNK_CTRL.ADAPT 0, 0)]).get (F.LNK_CTRL.ADAPT (0 : Fin 96)) = 0 := by decide +kernel

/-- A lane that runs a recalibration. -/
def recal (l m back : Nat) : State := { lane l 5 [(F.LNK_RECAL.BUSY l, 1)] with lanes := [(l, { (lane l 5 []).lane l with recal := some m, back := back })] }
theorem test_meets_LanesRecalibrate :
    (∀ l : Fin 96, l = 0 ∨ l = 32 → Reaches (lane l 4 [(F.LNK_STAT.UP l, 1)]) (R.LNK_RECAL l) (lane l 4 [(F.LNK_STAT.UP l, 1)]) ∧
      (lane l 4 [(F.LNK_STAT.UP l, 1)]).on (F.LNK_RECAL.BUSY l) = false ∧ (lane l 4 [(F.LNK_STAT.UP l, 1)]).on (F.LNK_STAT.LOS l) = false ∧
      3 ≤ (lane l 4 [(F.LNK_STAT.UP l, 1)]).laneState l ∧ (lane l 4 [(F.LNK_STAT.UP l, 1)]).on (F.LNK_STAT.UP l) = true ∧ laneSendsOnly l = decide (l = 32)) ∧
    (Reaches (lane 0 2 []) (R.LNK_RECAL (0 : Fin 96)) (lane 0 2 []) ∧ (lane 0 2 []).laneState (0 : Fin 96) < 3 ∧ (lane 0 4 [(F.LNK_RECAL.BUSY 0, 1)]).on (F.LNK_RECAL.BUSY (0 : Fin 96)) = true) ∧
    (((lane 0 4 []).lane (0 : Fin 96)).recal = none) ∧
    ((recal 32 1 4).dark = false ∧ ((recal 32 1 4).lane (32 : Fin 96)).recal = some 1 ∧ laneSendsOnly (32 : Fin 96) = true) ∧
    (((recal 0 0 4).lane (0 : Fin 96)).recal = some 0 ∧ laneSendsOnly (0 : Fin 96) = false ∧
      (let s := recal 0 0 4
       let w := (((s.setLane 0 { s.lane 0 with recal := none }).put (F.LNK_RECAL.BUSY 0) 0).put (F.LNK_STAT.STATE 0) 4)
       (0 : Byte).toNat < (w.put (F.LNK_RECAL.FOM_BEFORE 0) 0).get (F.LNK_DET.LOS_THR 0) ∧ (w.put (F.LNK_RECAL.FOM_BEFORE 0) 64).get (F.LNK_DET.LOS_THR 0) ≤ (64 : Byte).toNat ∧
       ((w.put (F.LNK_RECAL.FOM_BEFORE 0) 64).put (F.LNK_RECAL.FOM_AFTER 0) (adaptFom wide)).get (F.LNK_DET.LOS_THR 0) ≤ adaptFom wide ∧ (255 : Byte).toNat ≤ adaptFom wide ∧
       ((w.put (F.LNK_RECAL.FOM_BEFORE 0) 255).put (F.LNK_RECAL.FOM_AFTER 0) (adaptFom less)).get (F.LNK_DET.LOS_THR 0) ≤ adaptFom less ∧ adaptFom less < (255 : Byte).toNat)) ∧
    (((recal 0 1 4).lane (0 : Fin 96)).recal = some 1 ∧ ((recal 0 1 4).lane (0 : Fin 96)).back ≠ 2 ∧
      (let s := recal 0 1 4
       ((((s.setLane 0 { s.lane 0 with recal := none }).put (F.LNK_RECAL.BUSY 0) 0).put (F.LNK_RECAL.FOM_BEFORE 0) 64).put (F.LNK_RECAL.FOM_AFTER 0) (adaptFom wide)
         |>.showAdapt 0 wide).get (F.LNK_DET.LOL_THR 0) ≤ adaptFom wide)) ∧
    (let s := lane 0 4 [(F.LNK_STAT.LOL 0, 1), (F.LNK_CTRL.AUTO_RETRAIN 0, 1)]
     s.dark = false ∧ s.laneState (0 : Fin 96) = 4 ∧ s.on (F.LNK_STAT.LOL (0 : Fin 96)) = true ∧ s.on (F.LNK_STAT.LOS (0 : Fin 96)) = false ∧ s.on (F.LNK_CTRL.AUTO_RETRAIN (0 : Fin 96)) = true ∧
       (s.lane (0 : Fin 96)).recal = none) ∧
    (lane 0 2 []).laneState (0 : Fin 96) ≠ 4 := by
  refine ⟨fun l h => ?_, ⟨reach (by decide), by decide +kernel⟩, by decide +kernel, by decide +kernel, by decide +kernel, by decide +kernel, by decide +kernel, by decide +kernel⟩
  rcases h with rfl | rfl
  · exact ⟨reach (by decide), by decide +kernel⟩
  · exact ⟨reach (by decide), by decide +kernel⟩

def lost : State := lane 0 4 [(F.LNK_REFSTAT.IN_LOST, 1), (F.LNK_STAT.LOL 0, 1)]
def checking (pat : Nat) : State := lane 0 7 [(F.LNK_STAT.IN_LINK 0, 1), (F.LNK_PRBS.CHECK 0, 1), (F.LNK_PRBS.PATTERN 0, pat)]
def slipping (pending : Nat) : State := lane 2 4 [(F.PWR_DOM.STATE 48, 2), (F.LNK_STAT.UP 2, 1), (F.SLK_RXCFG.RAW 1, 1), (F.LNK_SLIP.PENDING 2, pending), (F.LNK_SLIP.PENDING 40, 1)]
theorem test_meets_LanesTestAndReference :
    ((lane 0 0 []).dark = false ∧ (lane 0 0 []).on F.LNK_REFSTAT.IN_LOST = false ∧ lost.dark = false ∧ lost.on F.LNK_REFSTAT.IN_LOST = true) ∧
    (laneReceives 0 = true ∧ lost.on (F.LNK_STAT.LOL 0) = true ∧ lost.laneState 0 = 4) ∧
    (Reaches (live [142] []) R.LNK_REFCFG (live [142] []) ∧ ∀ l, l < 64 → (live [142] []).laneState l = 0) ∧
    (Reaches (live [142] [(F.LNK_STAT.STATE 63, 4)]) R.LNK_REFCFG (live [142] [(F.LNK_STAT.STATE 63, 4)]) ∧ ∃ l, l < 64 ∧ (live [142] [(F.LNK_STAT.STATE 63, 4)]).laneState l ≠ 0) ∧
    (Reaches (slipping 0) (R.LNK_SLIP (2 : Fin 96)) (slipping 0) ∧ (slipping 0).on (F.LNK_SLIP.PENDING (2 : Fin 96)) = false ∧ (slipping 0).on (F.LNK_STAT.UP (2 : Fin 96)) = true ∧
      0 < (slipping 0).slipWidth (2 : Fin 96)) ∧
    (Reaches (slipping 1) (R.LNK_SLIP (2 : Fin 96)) (slipping 1) ∧ (slipping 1).on (F.LNK_SLIP.PENDING (2 : Fin 96)) = true) ∧
    ((slipping 1).dark = false ∧ (slipping 1).on (F.LNK_SLIP.PENDING (40 : Fin 96)) = true ∧ (slipping 1).rxLinkOf (40 : Fin 96) = none) ∧
    ((checking 1).dark = false ∧ prbsTaps ((checking 1).get (F.LNK_PRBS.PATTERN (0 : Fin 96))) = some (7, 6, false) ∧ laneReceives (0 : Fin 96) = true ∧
      (checking 1).on (F.LNK_STAT.IN_LINK (0 : Fin 96)) = true ∧ (checking 1).on (F.LNK_PRBS.CHECK (0 : Fin 96)) = true ∧ prbsTaps ((checking 5).get (F.LNK_PRBS.PATTERN (0 : Fin 96))) = some (31, 28, true)) ∧
    prbsTaps ((checking 6).get (F.LNK_PRBS.PATTERN (0 : Fin 96))) = none :=
  ⟨by decide +kernel, by decide +kernel, ⟨reach (by decide), by decide +kernel⟩, ⟨reach (by decide), by decide +kernel⟩, ⟨reach (by decide), by decide +kernel⟩,
    ⟨reach (by decide), by decide +kernel⟩, by decide +kernel, by decide +kernel, by decide +kernel⟩

/-- Sensor control port 0, with what it runs. -/
def port (f : List (Fld × Nat)) (x : ScpPort) : State := { live [135, 136] f with scp := [(0, x)] }
def scp0 : ScpPort := State.reset.scpP 0
def burst0 : ScpBurst := { (default : ScpBurst) with count := 2 }
theorem test_meets_ImmediateTransactions :
    (∀ f ∈ [[], [(F.SCP_CFG.ENABLE 0, 1)], [(F.SCP_CFG.ENABLE 0, 1), (F.SCP_CFG.ROLE 0, 1)], [(F.SCP_CMDCTL.BUSY 0, 1)]], Reaches (port f scp0) (R.SCP_CMDCTL (0 : Fin 4)) (port f scp0)) ∧
    ((0x10000 : Word).getLsbD 16 = true ∧ (port [] scp0).on (F.SCP_CMDCTL.BUSY (0 : Fin 4)) = false ∧ (port [] scp0).on (F.SCP_CFG.ENABLE (0 : Fin 4)) = false ∧
      (port [(F.SCP_CFG.ENABLE 0, 1)] scp0).on (F.SCP_CFG.ENABLE (0 : Fin 4)) = true ∧ (port [(F.SCP_CFG.ENABLE 0, 1)] scp0).on (F.SCP_CFG.ROLE (0 : Fin 4)) = false ∧
      (port [(F.SCP_CFG.ENABLE 0, 1), (F.SCP_CFG.ROLE 0, 1)] scp0).on (F.SCP_CFG.ROLE (0 : Fin 4)) = true ∧ (port [(F.SCP_CMDCTL.BUSY 0, 1)] scp0).on (F.SCP_CMDCTL.BUSY (0 : Fin 4)) = true) ∧
    (let x : ScpPort := { scp0 with cur := some (.imm ⟨none, true, 3, 4⟩) }
     (port [] x).dark = false ∧ ((port [] x).scpP (0 : Fin 4)).cur = some (.imm ⟨none, true, 3, 4⟩) ∧ (port [] x).on (F.SCP_CFG.BUS (0 : Fin 4)) = false ∧
       (port [(F.SCP_CFG.BUS 0, 1)] x).on (F.SCP_CFG.BUS (0 : Fin 4)) = true) ∧
    ((port [] { scp0 with cur := some (.entry 1 0) }).dark = false ∧ ((port [] { scp0 with cur := some (.entry 1 0) }).scpP (0 : Fin 4)).cur = some (.entry 1 0)) ∧
    ((port [] scp0).scpP (0 : Fin 4)).cur = none := by
  refine ⟨fun f h => ?_, by decide +kernel, by decide +kernel, by decide +kernel, by decide +kernel⟩
  simp only [List.mem_cons, List.not_mem_nil, or_false] at h
  rcases h with rfl | rfl | rfl | rfl <;> exact reach (by decide)

theorem test_meets_Bursts :
    (∀ f ∈ [[], [(F.SCP_CFG.ENABLE 0, 1)], [(F.SCP_CFG.ENABLE 0, 1), (F.SCP_CFG.ROLE 0, 1)], [(F.SCP_BDESC.STATE 0 1, 1)], [(F.SCP_BDESC.STATE 0 1, 2)]],
      Reaches (port f scp0) (R.SCP_BDESC (0 : Fin 4) (1 : Fin 4)) (port f scp0)) ∧
    ((0x20000 : Word).getLsbD 30 = false ∧ (port [] scp0).burstHeld (0 : Fin 4) (1 : Fin 4) = false ∧ (port [(F.SCP_BDESC.STATE 0 1, 1)] scp0).burstHeld (0 : Fin 4) (1 : Fin 4) = true) ∧
    (let w := fun f => ((port f scp0).put (F.SCP_BDESC.COUNT 0 1) (getBits ((0x20000 : Word) ||| 0x80000000) 25 16)).put (F.SCP_BDESC.START 0 1) (getBits ((0x20000 : Word) ||| 0x80000000) 9 0)
     (w []).on (F.SCP_CFG.ENABLE 0) = false ∧ (w [(F.SCP_CFG.ENABLE 0, 1), (F.SCP_CFG.ROLE 0, 1)]).on (F.SCP_CFG.ROLE 0) = true ∧
       (w [(F.SCP_CFG.ENABLE 0, 1)]).on (F.SCP_CFG.ENABLE 0) = true ∧ (w [(F.SCP_CFG.ENABLE 0, 1)]).on (F.SCP_CFG.ROLE 0) = false) ∧
    ((port [(F.SCP_BDESC.STATE 0 1, 1)] scp0).get (F.SCP_BDESC.STATE (0 : Fin 4) (1 : Fin 4)) = 1 ∧ (port [(F.SCP_BDESC.STATE 0 1, 2)] scp0).get (F.SCP_BDESC.STATE (0 : Fin 4) (1 : Fin 4)) = 2) ∧
    ((port [] scp0).isController (0 : Fin 4) = false ∧ (port [(F.SCP_CFG.ENABLE 0, 1)] scp0).isController (0 : Fin 4) = true ∧ (port [(F.SCP_CFG.ENABLE 0, 1)] scp0).dark = false) ∧
    (let s := fun (i : Nat) (abort : Bool) => port [(F.SCP_CFG.ENABLE 0, 1)] { scp0 with cur := some (.entry 1 i), bursts := [(1, some burst0)], abort := abort }
     (s 0 false).dark = false ∧ ((s 0 false).scpP (0 : Fin 4)).cur = some (.entry 1 0) ∧ sget none ((s 0 false).scpP (0 : Fin 4)).bursts 1 = some burst0 ∧ (s 0 false).on (F.SCP_CFG.BUS (0 : Fin 4)) = false ∧
       ((s 0 true).scpP (0 : Fin 4)).abort = true ∧ ((s 0 false).scpP (0 : Fin 4)).abort = false ∧ burst0.count ≤ 1 + 1 ∧ 0 + 1 < burst0.count ∧
       ((s 0 false).put (F.SCP_BPROG.SENT 0 1) 1).isController (0 : Fin 4) = true ∧
       ((port [] { scp0 with cur := some (.entry 1 0), bursts := [(1, some burst0)] }).put (F.SCP_BPROG.SENT 0 1) 1).isController (0 : Fin 4) = false ∧
       (port [(F.SCP_CFG.BUS 0, 1)] scp0).on (F.SCP_CFG.BUS (0 : Fin 4)) = true) ∧
    ((port [] scp0).scpP (0 : Fin 4)).cur = none := by
  refine ⟨fun f h => ?_, by decide +kernel, by decide +kernel, by decide +kernel, by decide +kernel, by decide +kernel, by decide +kernel⟩
  simp only [List.mem_cons, List.not_mem_nil, or_false] at h
  rcases h with rfl | rfl | rfl | rfl | rfl <;> exact reach (by decide)

def target (f : List (Fld × Nat)) : State := live [135, 136] ([(F.SCP_CFG.ENABLE 0, 1), (F.SCP_CFG.ROLE 0, 1), (F.SCP_FMT.CMD 0, 1), (F.SCP_FMT.DATA_BYTES 0, 0)] ++ f)
theorem test_meets_PortMemories :
    (∀ s ∈ [port [] scp0, port [(F.SCP_BDESC.STATE 0 1, 1)] { scp0 with bursts := [(1, some burst0)] }], Reads s (R.SCP_BMEM_DATA (0 : Fin 4)) s ∧ Reaches s (R.SCP_BMEM_DATA (0 : Fin 4)) s ∧
      Reads s (R.SCP_TFILE_DATA (0 : Fin 4)) s ∧ Reaches s (R.SCP_TFILE_DATA (0 : Fin 4)) s) ∧
    ((port [] scp0).entryHeld (0 : Fin 4) ((port [] scp0).get (F.SCP_BMEM_IDX.IDX (0 : Fin 4))) = false ∧
      (let s := port [(F.SCP_BDESC.STATE 0 1, 1)] { scp0 with bursts := [(1, some burst0)] }
       s.entryHeld (0 : Fin 4) (s.get (F.SCP_BMEM_IDX.IDX (0 : Fin 4))) = true)) ∧
    (let s := target []
     s.dark = false ∧ s.isTarget (0 : Fin 4) = true ∧ s.targetOp (0 : Fin 4) true ((s.get (F.SCP_FMT.READ_OP 0))) = true ∧ s.targetOp (0 : Fin 4) false ((s.get (F.SCP_FMT.WRITE_OP 0))) = true ∧
       s.targetAddr (0 : Fin 4) (((some 0x21) : Option Half).map (·.toNat)) = some (0x21 % 2 ^ s.addrBits 0) ∧ s.dataBytes (0 : Fin 4) = 2 ∧ s.targetOp (0 : Fin 4) true 0xFF = false ∧ s.targetOp (0 : Fin 4) false 0xFF = false) ∧
    ((target [(F.SCP_CFG.BUS 0, 1)]).on (F.SCP_CFG.BUS (0 : Fin 4)) = true ∧ (target []).on (F.SCP_CFG.BUS (0 : Fin 4)) = false ∧ (port [] scp0).isTarget (0 : Fin 4) = false ∧
      (target []).targetAddr (0 : Fin 4) ((none : Option Half).map (·.toNat)) = none) := by
  refine ⟨fun s h => ?_, by decide +kernel, by decide +kernel, by decide +kernel⟩
  simp only [List.mem_cons, List.not_mem_nil, or_false] at h
  rcases h with rfl | rfl <;> exact ⟨(reach (by decide)).reads, reach (by decide), (reach (by decide)).reads, reach (by decide)⟩

/-! ### Witnesses: SDI -/

/-- Output 0 on lane 64, input 0 on lane 80; raster 2 at rate 1. -/
def sdi (f : List (Fld × Nat)) : State :=
  { live [64, 68, 127, 131, 143] ([(F.SDI_OUT_FMT.RASTER 0, 2), (F.LNK_STAT.UP 80, 1)] ++ f) with
    active := some { image with lanes := [⟨0x10, 1, 0, [64]⟩, ⟨0x20, 1, 0, [80]⟩] } }
def enabled (v : Word) : State := (sdi []).plainWrite 0 (R.SDI_OUT_CFG (0 : Fin 16)) (v ||| 0x80000000)
def output (x : SdiOut) : State := { sdi [] with sdiOut := [(0, x)] }
def out0 : SdiOut := { (default : SdiOut) with running := true, last := some slotK }
def shown : OpkSlot := { slotK with w := 1920, h := 1080, fmt := 2, depth := 10 }
theorem test_meets_SdiOutputs :
    (Reaches (sdi []) (R.SDI_OUT_CFG (0 : Fin 16)) (sdi []) ∧ (sdi []).on (F.SDI_OUT_CFG.EN (0 : Fin 16)) = false ∧
      (let w := enabled 0
       w.on (F.SDI_OUT_CFG.EN (0 : Fin 16)) = true ∧ w.sdiUnit (0 : Fin 16) = some 2 ∧
         w.sdiFits ((0 : Fin 16).val :: (List.range 16).filter (fun k => k != (0 : Fin 16).val && w.sdiActive k)) = true) ∧
      ((sdi []).plainWrite 0 (R.SDI_OUT_CFG (1 : Fin 16)) 0x80000000).on (F.SDI_OUT_CFG.EN (1 : Fin 16)) = true ∧
      ((sdi []).plainWrite 0 (R.SDI_OUT_CFG (1 : Fin 16)) 0x80000000).sdiUnit (1 : Fin 16) = none) ∧
    (Reaches (sdi [(F.SDI_OUT_CFG.EN 0, 1)]) (R.SDI_OUT_CFG (0 : Fin 16)) (sdi [(F.SDI_OUT_CFG.EN 0, 1)]) ∧ (sdi [(F.SDI_OUT_CFG.EN 0, 1)]).on (F.SDI_OUT_CFG.EN (0 : Fin 16)) = true ∧
      getBits ((0 : Word) &&& 0x7FFFFFFF) 29 28 = (sdi [(F.SDI_OUT_CFG.EN 0, 1)]).get (F.SDI_OUT_CFG.TG (0 : Fin 16)) ∧
      getBits ((0 : Word) &&& 0x7FFFFFFF) 25 24 = (sdi [(F.SDI_OUT_CFG.EN 0, 1)]).get (F.SDI_OUT_CFG.OPK (0 : Fin 16)) ∧
      getBits ((0 : Word) &&& 0x7FFFFFFF) 16 16 = (sdi [(F.SDI_OUT_CFG.EN 0, 1)]).get (F.SDI_OUT_CFG.MAP (0 : Fin 16))) ∧
    ((sdi [(F.SDI_TG_CFG.EN 0, 1)]).dark = false ∧ (sdi [(F.SDI_TG_CFG.EN 0, 1)]).on (F.SDI_TG_CFG.EN (0 : Fin 4)) = true ∧ (sdi [(F.SDI_TG_CFG.EN 0, 1)]).tgDue (0 : Fin 4) = true ∧
      (sdi []).on (F.SDI_TG_CFG.EN (0 : Fin 4)) = false) ∧
    ((output out0).dark = false ∧ ((output out0).sdiO (0 : Fin 16)).running = true ∧ ((output out0).sdiO (0 : Fin 16)).started = false ∧ ((output out0).sdiO (0 : Fin 16)).last = some slotK ∧
      ((output out0).opkRun ((output out0).sdiSource (0 : Fin 16))).latest.filter (fun k => (output out0).slotMatches (0 : Fin 16) k
        && ((output out0).opkRun ((output out0).sdiSource (0 : Fin 16))).count != ((output out0).sdiO (0 : Fin 16)).seen) = none) ∧
    (let s : State := { output out0 with opk := [(44, { (default : OpkRun) with latest := some shown, count := 1 })] }
     (s.opkRun (s.sdiSource (0 : Fin 16))).latest.filter (fun k => s.slotMatches (0 : Fin 16) k && (s.opkRun (s.sdiSource (0 : Fin 16))).count != (s.sdiO (0 : Fin 16)).seen) = some shown) ∧
    (let s : State := (output out0).put (F.SDI_OUT_FMT.RATE 1) 0
     let d : State := { s with
       active := some { image with lanes := [⟨0x10, 1, 0, [65]⟩, ⟨0x11, 1, 0, [64]⟩] }
       sdiOut := [(0, out0), (1, { (default : SdiOut) with running := true })] }
     ((d.bump (F.SDI_OUT_STAT.REPEATS 0)).setSdiO 0 { d.sdiO 0 with hold := some slotK.slot, last := some slotK, started := true }).sdiLit (0 : Fin 16) = false) ∧
    (let s : State := output { (default : SdiOut) with running := true }
     s.dark = false ∧ (s.sdiO (0 : Fin 16)).running = true ∧ (s.sdiO (0 : Fin 16)).started = false ∧ (s.sdiO (0 : Fin 16)).last = none ∧
       (s.opkRun (s.sdiSource (0 : Fin 16))).latest = none ∧ (s.setSdiO (0 : Fin 16) { s.sdiO (0 : Fin 16) with started := true }).sdiLit (0 : Fin 16) = true) ∧
    ((sdi []).sdiO (0 : Fin 16)).running = false :=
  ⟨⟨reach (by decide), by decide +kernel⟩, ⟨reach (by decide), by decide +kernel⟩, by decide +kernel, by decide +kernel, by decide +kernel, by decide +kernel, by decide +kernel, by decide +kernel⟩

def rxFrame (raster links : Nat) (skew : Bool) : SdiRx := { (default : SdiRx) with skewOk := skew, raster := raster, links := List.replicate links [] }
def holding (src jam : Nat) (locked : Nat) : State := sdi [(F.SDI_GLK_CFG.SRC, src), (F.SDI_GLK_CFG.JAM, jam), (F.SDI_GLK_STAT.HOLDOVER, 1), (F.TIM_CTL.LOCKED, locked), (F.SDI_IN_STAT.LOCKED 0, locked)]
theorem test_meets_SdiInputsAndGenlock :
    (let s := sdi [(F.SDI_IN_CFG.EN 0, 1)]
     s.dark = false ∧ s.on (F.SDI_IN_CFG.EN (0 : Fin 8)) = true ∧ s.sdiLanes (0x20 + (0 : Fin 8)) ≠ [] ∧ (rxFrame 2 1 true).links.length = (s.sdiLanes (0x20 + (0 : Fin 8))).length ∧
       (s.sdiLanes (0x20 + (0 : Fin 8))).all s.laneValid = true ∧ (rxFrame 2 2 true).links.length ≠ (s.sdiLanes (0x20 + (0 : Fin 8))).length) ∧
    ((rxFrame 2 1 false).skewOk = false ∧ (rxFrame 0 1 true).skewOk = true ∧ sdiKey (rxFrame 0 1 true) = 0 ∧ sdiKey (rxFrame 2 1 true) ≠ 0) ∧
    ((sdi []).on (F.SDI_IN_CFG.EN (0 : Fin 8)) = false ∧ (sdi [(F.SDI_IN_CFG.EN 7, 1)]).sdiLanes (0x20 + (7 : Fin 8)) = []) ∧
    (∀ src ∈ [1, 2], (sdi [(F.SDI_GLK_CFG.SRC, src)]).dark = false ∧ ((sdi [(F.SDI_GLK_CFG.SRC, src)]).get F.SDI_GLK_CFG.SRC = 1 ∨ (sdi [(F.SDI_GLK_CFG.SRC, src)]).get F.SDI_GLK_CFG.SRC = 2) ∧
      (sdi [(F.SDI_GLK_CFG.SRC, src)]).genlockSource = false ∧ (sdi [(F.SDI_GLK_CFG.SRC, src)]).on F.SDI_GLK_STAT.HOLDOVER = false) ∧
    ((sdi []).get F.SDI_GLK_CFG.SRC ≠ 1 ∧ (sdi []).get F.SDI_GLK_CFG.SRC ≠ 2) ∧
    (∀ jam ∈ [0, 1], ∀ src ∈ [1, 2], (holding src jam 1).dark = false ∧ (holding src jam 1).on F.SDI_GLK_STAT.HOLDOVER = true ∧ (holding src jam 1).genlockSource = true ∧
      ((holding src jam 1).put F.SDI_GLK_STAT.HOLDOVER 0).on F.SDI_GLK_CFG.JAM = decide (jam = 1)) ∧
    (holding 1 0 0).genlockSource = false := by decide +kernel

/-! ### Witnesses: codec and compression -/

theorem pair_of {α β : Type} [DecidableEq α] {r : α × β} {a : α} (h : r.1 = a) : ∃ b, r = (a, b) := ⟨r.2, by rw [← h]⟩
theorem triple_of {α β : Type} {r : Nat × α × β} {a : Nat} (h : r.1 = a) : ∃ b c, r = (a, b, c) := ⟨r.2.1, r.2.2, by rw [← h]⟩

/-- A list of bytes with some fields set, as (offset, width, value). -/
def packBytes (n : Nat) (l : List (Nat × Nat × Nat)) : List Byte :=
  (List.range n).map (fun i => match l.find? (fun (o, k, _) => decide (o ≤ i ∧ i < o + k)) with | some (o, _, v) => BitVec.ofNat 8 (v / 256 ^ (i - o)) | none => 0)

/-- A context descriptor for decoding, and one for encoding. -/
def descOf (l : List (Nat × Nat × Nat)) : List Byte := packBytes 252 l ++ leBytes 4 (crc32c (packBytes 252 l))
def decodeDesc : List Byte := descOf [(0, 1, 1), (1, 1, 1), (8, 2, 64), (0xA, 2, 64), (0x68, 1, 4), (0x58, 4, 0x20000), (0x5C, 1, 2), (0x78, 1, 1), (0x8C, 1, 2)]
def openAt (desc : List Byte) : State :=
  (live [] [(F.VCE_CTX_DESC_HI.ADDR 0, 0x40), (F.VCE_CTX_SAVE_HI.ADDR 0, 0x40)]).setBytes 0x4000000000 desc
def context (st : Nat) (x : VceCtx) (f : List (Fld × Nat)) : State := { live [] ((F.VCE_CTX_CTRL.STATE 0, st) :: (F.VCE_CFG.EN, 1) :: f) with vce := [(0, x)] }
def ctx0 : VceCtx := vceInit
theorem test_meets_CodecContexts :
    (Reaches (context 0 ctx0 []) R.VCE_CFG (context 0 ctx0 []) ∧ (context 0 ctx0 []).vce.any (fun c => [2, 3, 4].contains ((context 0 ctx0 []).vceState c.1)) = false) ∧
    (Reaches (context 2 ctx0 []) R.VCE_CFG (context 2 ctx0 []) ∧ (context 2 ctx0 []).vce.any (fun c => [2, 3, 4].contains ((context 2 ctx0 []).vceState c.1)) = true) ∧
    (Reaches (openAt decodeDesc) (R.VCE_CTX_CTRL (0 : Fin 32)) (openAt decodeDesc) ∧ (openAt decodeDesc).vceState (0 : Fin 32) = 0 ∧ (∃ d w, (openAt decodeDesc).openCheck (0 : Fin 32) = (0, d, w))) ∧
    (Reaches (openAt []) (R.VCE_CTX_CTRL (0 : Fin 32)) (openAt []) ∧ (openAt []).vceState (0 : Fin 32) = 0 ∧ (∃ d w, (openAt []).openCheck (0 : Fin 32) = (1, d, w))) ∧
    (∀ st ∈ [1, 2, 3, 4], Reaches (context st ctx0 []) (R.VCE_CTX_CTRL (0 : Fin 32)) (context st ctx0 []) ∧ (context st ctx0 []).vceState (0 : Fin 32) = st) ∧
    ((context 1 ctx0 []).vceC (0 : Fin 32)).pic = none := by
  refine ⟨⟨reach (by decide), by decide +kernel⟩, ⟨reach (by decide), by decide +kernel⟩, ⟨reach (by decide +kernel), by decide +kernel, triple_of (by decide +kernel)⟩,
    ⟨reach (by decide +kernel), by decide +kernel, triple_of (by decide +kernel)⟩, fun st h => ?_, by decide +kernel⟩
  simp only [List.mem_cons, List.not_mem_nil, or_false] at h
  rcases h with rfl | rfl | rfl | rfl <;> exact ⟨reach (by decide), by decide⟩

def picture (started : Bool) : CodecRun := { (default : CodecRun) with started := started }
def decoding (pic : Option CodecRun) (ready : Option Nat) (st : Nat) (f : List (Fld × Nat)) : State := context st { ctx0 with desc := decodeDesc, pic := pic, ready := ready } f
/-- Context 0 of PRIO 0 waits for engines that context 1 of PRIO 1 holds. -/
def taken (chosen : Bool) : CodecRun := { (default : CodecRun) with ent := some 1, pix := 63, started := true, chosen := chosen }
def laterCtx (chosen : Bool) : VceCtx := { ctx0 with desc := packBytes 256 [(0, 1, 1), (4, 1, 1)], pic := some (taken chosen) }
def wants : VceCtx := { ctx0 with desc := decodeDesc, ready := some 0 }
def preempting (chosen : Bool) : State := { live [] [(F.VCE_CFG.EN, 1), (F.VCE_CTX_CTRL.STATE 0, 1), (F.VCE_CTX_CTRL.STATE 1, 2)] with vce := [(0, wants), (1, laterCtx chosen)] }
/-- An encode context that waits for ring space. -/
def encDesc (size : Nat) : List Byte := packBytes 256 [(0x16, 1, 1), (0x24, 4, 4096), (0x48, 4, size)]
def ringWait (size : Nat) : State := context 6 { ctx0 with desc := encDesc size, cands := [(0, slotK)] } []
theorem test_meets_CodecPictures :
    (let s := context 1 { ctx0 with offers := [slotK] } []
     let s1 := context 1 { ctx0 with desc := encDesc 8192, offers := [slotK] } []
     s.dark = false ∧ (s.vceC (0 : Fin 32)).offers = slotK :: [] ∧ (s.vceC (0 : Fin 32)).d 0x16 1 ≤ (s.vceC (0 : Fin 32)).cands.length ∧ s1.dark = false ∧
       (s1.vceC (0 : Fin 32)).cands.length < (s1.vceC (0 : Fin 32)).d 0x16 1) ∧
    (let s := decoding none none 1 []
     s.dark = false ∧ s.vceState (0 : Fin 32) = 1 ∧ (s.vceC (0 : Fin 32)).pic = none ∧ (s.vceC (0 : Fin 32)).decodes = true ∧ (s.vceC (0 : Fin 32)).closing = false ∧ (s.vceC (0 : Fin 32)).reload = false ∧
       s.vceOn = true ∧ s.get (F.VCE_CTX_JOB.RIDX (0 : Fin 32)) % 2 ^ (s.vceC (0 : Fin 32)).d 0x78 1 = s.get (F.VCE_CTX_JOB.WIDX (0 : Fin 32)) % 2 ^ (s.vceC (0 : Fin 32)).d 0x78 1) ∧
    (let s := decoding none none 1 [(F.VCE_CTX_JOB.WIDX 0, 1)]
     s.get (F.VCE_CTX_JOB.RIDX (0 : Fin 32)) % 2 ^ (s.vceC (0 : Fin 32)).d 0x78 1 ≠ s.get (F.VCE_CTX_JOB.WIDX (0 : Fin 32)) % 2 ^ (s.vceC (0 : Fin 32)).d 0x78 1) ∧
    (let s := fun p => decoding p (some 0) 1 []
     (s none).dark = false ∧ (s none).vceOn = true ∧ ∀ p ∈ [none, some (picture false), some (picture true)],
       minBy beforeIn ((s p).vce.filter (fun c => c.2.ready.isSome && ((s p).freeEnt c.2.decodes).isSome && (s p).freePix c.2.decodes 63 != 0)) =
         some (0, { ctx0 with desc := decodeDesc, pic := p, ready := some 0 })) ∧
    (∀ chosen ∈ [false, true], (preempting chosen).dark = false ∧
      minBy beforeIn ((preempting chosen).vce.filter (fun c => c.2.ready.isSome && c.2.prio == 0 &&
        (((preempting chosen).freeEnt c.2.decodes).isNone || (preempting chosen).freePix c.2.decodes 63 == 0))) = some (0, wants) ∧
      (laterCtx chosen).pic = some (taken chosen) ∧ (preempting chosen).vceState 1 ≠ 4 ∧
      ((preempting chosen).vceVictims wants.decodes).find? (fun c => c.2.isChosen) = (if chosen then some (1, laterCtx chosen) else none) ∧
      minBy lastStarted ((preempting chosen).vceVictims wants.decodes) = some (1, laterCtx chosen) ∧ (taken chosen).chosen = chosen) ∧
    ((context 0 ctx0 []).vce.any (fun c => c.2.ready.isSome && c.2.prio == 0 && (((context 0 ctx0 []).freeEnt c.2.decodes).isNone || (context 0 ctx0 []).freePix c.2.decodes 63 == 0))) = false ∧
    ((decoding (some (picture true)) none 2 []).dark = false ∧ (decoding (some (picture true)) none 2 []).vceState (0 : Fin 32) = 2 ∧
      ((decoding (some (picture true)) none 2 []).vceC (0 : Fin 32)).pic = some (picture true) ∧ (picture true).stopped = false ∧ (context 1 ctx0 []).vceState (0 : Fin 32) ≠ 2) ∧
    (∀ size ∈ [0, 16384], (ringWait size).dark = false ∧ (ringWait size).vceState (0 : Fin 32) = 6 ∧ ((ringWait size).vceC (0 : Fin 32)).decodes = false ∧ ((ringWait size).vceC (0 : Fin 32)).pic = none ∧
      ((ringWait size).vceC (0 : Fin 32)).closing = false ∧ ((ringWait size).vceC (0 : Fin 32)).bumps = 0 ∧ ((ringWait size).vceC (0 : Fin 32)).nextPick.isSome = true ∧
      ((ringWait size).vceC (0 : Fin 32)).ready = none ∧ (ringWait size).auStart (0 : Fin 32) ((ringWait size).vceC (0 : Fin 32)) = (if size = 0 then none else some 0)) ∧
    (let s := context 6 { ctx0 with desc := decodeDesc, bumps := 1 } []
     s.dark = false ∧ s.vceState (0 : Fin 32) = 6 ∧ (s.vceC (0 : Fin 32)).decodes = true ∧ (s.vceC (0 : Fin 32)).bumps ≠ 0) := by
  repeat' apply And.intro
  all_goals decide +kernel

def jobOf (l : List (Nat × Nat × Nat)) : CmpJob := { (default : CmpJob) with desc := packBytes 60 l ++ leBytes 4 (crc32c (packBytes 60 l)) }
/-- A job that INFLATEs, one of R297's checks broken, and one that PRED_DECODEs a stream too short for its header. -/
def goodJob : CmpJob := jobOf [(0, 1, 3), (0x38, 4, 7)]
def badJob : CmpJob := { goodJob with desc := zeros 64 }
def emptyJob : CmpJob := { jobOf [(0x24, 4, 0x40)] with started := some 0 }
def shortJob : CmpJob := { jobOf [(0, 1, 1)] with started := some 0 }
def longJob : CmpJob := { jobOf [(0, 1, 1), (0x18, 4, 64)] with started := some 0 }
def compress (l : List CmpJob) (f : List (Fld × Nat)) : State := { live [140] ((F.CMP_CFG.EN, 1) :: f) with cmp := l }

theorem ends_ok {r : (CmpJob × Except CmpStop (Nat × Nat)) × State} (h : r.1.2.toOption.isSome = true) : ∃ i o n w, r = ((i, .ok (o, n)), w) := by
  obtain ⟨⟨i, _ | ⟨o, n⟩⟩, w⟩ := r
  · simp [Except.toOption] at h
  · exact ⟨i, o, n, w, rfl⟩

theorem ends_in {r : (CmpJob × Except CmpStop (Nat × Nat)) × State} {p : CmpStop → Bool} (h : (match r.1.2 with | .error e => p e | .ok _ => false) = true) :
    ∃ i e w, p e = true ∧ r = ((i, .error e), w) := by
  obtain ⟨⟨i, e | _⟩, w⟩ := r
  · exact ⟨i, e, w, h, rfl⟩
  · exact absurd h (by simp)

def isStatus : CmpStop → Bool | .status _ => true | .fault _ _ _ => false
def isFault : CmpStop → Bool | .status _ => false | .fault _ _ _ => true

/-- All the engines that inflate run jobs of PRIO 1, and a job of queue 0 with PRIO 0 is ready. -/
def victimJob (k : Nat) (chosen : Bool) : CmpJob := { goodJob with q := 1, started := some k, eng := k, chosen := chosen }
def crowded (chosen : Bool) : State := compress [victimJob 4 false, victimJob 5 chosen, goodJob] [(F.CMP_Q_CTL.PRIO 0, 0), (F.CMP_Q_CTL.PRIO 1, 1)]

theorem test_meets_CompressionJobs :
    (∀ q : Fin 8, q = 0 ∨ q = 7 → Reaches (compress [] []) (R.CMP_Q_SQ_IDX q) (compress [] []) ∧ Reaches (compress [] []) (R.CMP_Q_CTL q) (compress [] []) ∧
      (compress [] []).on (F.CMP_Q_CTL.EN q) = false ∧ ((compress [] []).plainWrite 0 (R.CMP_Q_CTL q) 0x80000000).on (F.CMP_Q_CTL.EN q) = true) ∧
    (let s := compress [] [(F.CMP_Q_CTL.EN 0, 1), (F.CMP_Q_CTL.CLIENT 0, 0), (F.CMP_Q_CTL.LOG2CNT 0, 0)]
     Reaches s (R.CMP_Q_CTL (0 : Fin 8)) s ∧ s.on (F.CMP_Q_CTL.EN (0 : Fin 8)) = true ∧ getBits (0x80000000 : Word) 20 16 = s.get (F.CMP_Q_CTL.CLIENT (0 : Fin 8)) ∧
       getBits (0x80000000 : Word) 3 0 = s.get (F.CMP_Q_CTL.LOG2CNT (0 : Fin 8))) ∧
    (Reaches (compress [] []) R.CMP_CFG (compress [] []) ∧ (compress [] []).on F.CMP_CFG.EN = true ∧ ((compress [] []).plainWrite 0 R.CMP_CFG ((0 : Word) &&& 0x7FFFFFFF)).on F.CMP_CFG.EN = false) ∧
    (Reaches (live [] []) R.CMP_CFG (live [] []) ∧ (live [] []).on F.CMP_CFG.EN = false) ∧
    (∀ j ∈ [goodJob, badJob], (compress [j] []).dark = false ∧ (compress [j] []).on F.CMP_CFG.EN = true ∧ j.ok = (j.desc != zeros 64) ∧
      (cmpEngines j.isDeflate).filterMap (fun k => if ((compress [j] []).cmpRunning k).isSome then none
        else ((isort (compress [j] []).cmpBefore ((compress [j] []).cmpReady j.isDeflate)).find? (fun i => ((compress [j] []).cmpHeld k).isNone || (compress [j] []).cmpPrio i.q == 0)).map (fun i => (k, i))) =
        (cmpEngines j.isDeflate).map (fun k => (k, j))) ∧
    ((compress [] []).cmpReady true = [] ∧ (compress [] []).cmpReady false = []) ∧
    (∀ j ∈ [emptyJob, shortJob, longJob], (compress [j] []).dark = false ∧ (compress [j] []).cmpRunning (0 : Fin 6) = some j ∧ j.susp = false ∧ j.stopped = false ∧ j.isDeflate = false) ∧
    (∃ i o n w, (compress [{ emptyJob with desc := packBytes 64 [(0x24, 4, 0x40)] }] []).cmpPredict { emptyJob with desc := packBytes 64 [(0x24, 4, 0x40)] } = ((i, .ok (o, n)), w)) ∧
    (∃ i e w, isStatus e = true ∧ (compress [shortJob] []).cmpPredict shortJob = ((i, .error e), w)) ∧
    (let s := compress [longJob] [(F.MMU_CTL.EN, 1), (F.DRC_CTRL.STATE 0, 2), (F.DRC_MAPCTL.APPLY, 1)]
     ∃ i e w, isFault e = true ∧ s.cmpPredict longJob = ((i, .error e), w)) ∧
    (compress [] []).cmpRunning (0 : Fin 6) = none ∧
    (let s := compress [goodJob] [(F.CMP_ABORT_ID.JOB_ID, 7)]
     Reaches s R.CMP_ABORT s ∧ s.cmp.find? (fun j => j.q == getBits ((0 : Word) ||| 0x80000000) 26 24 && j.id == s.get F.CMP_ABORT_ID.JOB_ID) = some goodJob) ∧
    (Reaches (compress [] []) R.CMP_ABORT (compress [] []) ∧ (compress [] []).cmp = []) ∧
    (∀ c ∈ [false, true], (crowded c).dark = false ∧ ((crowded c).cmpReady true).any (fun j => (crowded c).cmpPrio j.q == 0) = true ∧
      (cmpEngines true).any (fun k => ((crowded c).cmpRunning k).isNone) = false ∧ (victimJob 5 c).susp = false ∧
      ((cmpEngines true).filterMap (crowded c).cmpRunning).find? (·.chosen) = (if c then some (victimJob 5 c) else none) ∧ (crowded c).cmpVictim true = some (victimJob 5 c) ∧ (victimJob 5 c).chosen = c) ∧
    ((compress [] []).cmpReady true).any (fun j => (compress [] []).cmpPrio j.q == 0) = false := by
  refine ⟨fun q h => ?_, ⟨reach (by decide), by decide +kernel⟩, ⟨reach (by decide), by decide +kernel⟩, ⟨reach (by decide), by decide⟩, by decide +kernel, by decide +kernel, by decide +kernel,
    ends_ok (by decide +kernel), ends_in (by decide +kernel), ends_in (by decide +kernel), by decide +kernel, ⟨reach (by decide +kernel), by decide +kernel⟩, ⟨reach (by decide), rfl⟩,
    by decide +kernel, by decide +kernel⟩
  rcases h with rfl | rfl <;> exact ⟨reach (by decide), reach (by decide), by decide +kernel⟩

/-! ### Witnesses: translation, DMA, caddy, DRAM -/

def mmu (f : List (Fld × Nat)) : State := live [140] f
def dramUp : List (Fld × Nat) := [(F.DRC_CTRL.STATE 0, 2), (F.DRC_MAPCTL.APPLY, 1)]
def walker (f : List (Fld × Nat)) : State := mmu ((F.MMU_CTL.EN, 1) :: dramUp ++ f)
theorem test_meets_Translation :
    (Reaches (mmu []) R.MMU_CTL (mmu []) ∧ Reaches (mmu []) (R.MMU_UNIT_CFG (42 : Fin 43)) (mmu []) ∧ Reaches (mmu []) R.MMU_INV (mmu []) ∧ (mmu []).on F.MMU_INV.BUSY = false) ∧
    (Reaches (mmu [(F.MMU_INV.BUSY, 1)]) R.MMU_INV (mmu [(F.MMU_INV.BUSY, 1)]) ∧ (mmu [(F.MMU_INV.BUSY, 1)]).on F.MMU_INV.BUSY = true ∧ (mmu [(F.MMU_INV.BUSY, 1)]).dark = false) ∧
    ((mmu []).dark = false ∧ (mmu []).on (F.MMU_UNIT_FLT_HI.VALID (22 : Fin 43)) = false) ∧
    (∃ a w, (mmu []).translate ⟨unitSrc 22, 22, noClient, false || !mayFault 22, none⟩ (0x10000 : BitVec 48).toNat true = (.ok a, w)) ∧
    (∃ a b c w, (walker []).translate ⟨unitSrc 22, 22, noClient, false || !mayFault 22, none⟩ (0x10000 : BitVec 48).toNat true = (.error (.fault a b c), w)) ∧
    (∀ u : Fin 43, u = 22 ∨ u = 40 → mayFault u = true) ∧ mayFault (21 : Fin 43) = false ∧ mayFault (41 : Fin 43) = false ∧
    (let s := mmu [(F.MMU_UNIT_FLT_HI.VALID 22, 1), (F.MMU_CTL.FLT_TMO_MS, 1)]
     Reaches s R.MMU_RESUME s ∧ (22 : Fin 64).val < 43 ∧ s.on (F.MMU_UNIT_FLT_HI.VALID (22 : Fin 64)) = true ∧ s.dark = false ∧ s.on (F.MMU_UNIT_FLT_HI.VALID (22 : Fin 43)) = true ∧ s.get F.MMU_CTL.FLT_TMO_MS ≠ 0) ∧
    (Reaches (mmu []) R.MMU_RESUME (mmu []) ∧ 43 ≤ (43 : Fin 64).val ∧ (mmu []).on (F.MMU_UNIT_FLT_HI.VALID (42 : Fin 64)) = false) ∧ (mmu [(F.MMU_CTL.FLT_TMO_MS, 0)]).get F.MMU_CTL.FLT_TMO_MS = 0 := by
  refine ⟨⟨reach (by decide), reach (by decide), reach (by decide), by decide⟩, ⟨reach (by decide), by decide⟩, by decide, ok_of (by decide +kernel), ?_, by decide, by decide, by decide,
    ⟨reach (by decide), by decide +kernel⟩, ⟨reach (by decide), by decide +kernel⟩, by decide +kernel⟩
  have h : (match ((walker []).translate ⟨unitSrc 22, 22, noClient, false || !mayFault 22, none⟩ (0x10000 : BitVec 48).toNat true).1 with | .error (.fault _ _ _) => true | _ => false) = true := by decide +kernel
  generalize (walker []).translate ⟨unitSrc 22, 22, noClient, false || !mayFault 22, none⟩ (0x10000 : BitVec 48).toNat true = r at h ⊢
  obtain ⟨_ | _, w⟩ := r
  · rename_i e; cases e <;> simp at h; exact ⟨_, _, _, w, rfl⟩
  · simp at h

/-- A DMA channel with a descriptor of one 64-byte row at hand in the caddy. -/
def dmaDesc (src : Nat) : List Byte := let b := packBytes 60 [(2, 2, 1), (4, 4, 64), (8, 8, src), (0x18, 8, 0x4000001000)]; b ++ leBytes 4 (crc32c b)
def dmaJob (src : Nat) : DmaJob := { (default : DmaJob) with desc := dmaDesc src }
def dmaState (job : Option DmaJob) (f : List (Fld × Nat)) : State :=
  { mmu ([(F.MMU_DMA_CTL.EN 0, 1), (F.MMU_DMA_CTL.CLIENT 0, 0), (F.MMU_DMA_CTL.LOG2CNT 0, 0)] ++ f) with dma := [(0, ⟨job, 0⟩)] }
def dmaRing (hi : Nat) (f : List (Fld × Nat)) : State := dmaState none ([(F.MMU_DMA_SQ_IDX.WIDX 0, 1), (F.MMU_DMA_SQ_HI.ADDR 0, hi)] ++ f)
def dmaFetch (s : State) : Except AccErr (List Byte) × State :=
  let v := s.put (F.MMU_DMA_SQ_IDX.RIDX 0) ((0 + 1) % s.dmaSize 0)
  v.engRead (v.dmaReq 0 true ({ (default : DmaJob) with desc := zeros 64 } : DmaJob).id) (v.addr (R.MMU_DMA_SQ_LO 0) (R.MMU_DMA_SQ_HI 0) + 64 * 0) 64
def sachets : State := live [140, 89] [(F.CAD_AVAIL.BANKS, 1), (F.CAD_CL_CFG.RESERVE 0, 2)]
theorem dma_of {r : (DmaJob × Option AccErr) × State} {e : Option AccErr} (h : r.1.2 = e) : ∃ k w, r = ((k, e), w) := ⟨r.1.1, r.2, by rw [← h]⟩

theorem test_meets_DmaSachetsAndSteeps :
    (∀ c : Fin 4, c = 0 ∨ c = 3 → Reaches (mmu []) (R.MMU_DMA_CTL c) (mmu []) ∧ (mmu []).on (F.MMU_DMA_CTL.EN c) = false ∧
      ((mmu []).plainWrite 0 (R.MMU_DMA_CTL c) ((0 : Word) ||| 0x80000000)).on (F.MMU_DMA_CTL.EN c) = true ∧ Reaches (mmu []) (R.MMU_DMA_SQ_IDX c) (mmu [])) ∧
    (∀ j ∈ [none, some (dmaJob 0x4000000000)], Reaches (dmaState j []) (R.MMU_DMA_CTL (0 : Fin 4)) (dmaState j []) ∧ (dmaState j []).on (F.MMU_DMA_CTL.EN (0 : Fin 4)) = true ∧
      getBits ((0 : Word) ||| 0x80000000) 20 16 = (dmaState j []).get (F.MMU_DMA_CTL.CLIENT (0 : Fin 4)) ∧ getBits ((0 : Word) &&& 0x7FFFFFFF) 20 16 = (dmaState j []).get (F.MMU_DMA_CTL.CLIENT (0 : Fin 4)) ∧
      getBits ((0 : Word) ||| 0x80000000) 3 0 = (dmaState j []).get (F.MMU_DMA_CTL.LOG2CNT (0 : Fin 4)) ∧ getBits ((0 : Word) &&& 0x7FFFFFFF) 3 0 = (dmaState j []).get (F.MMU_DMA_CTL.LOG2CNT (0 : Fin 4)) ∧
      ((((dmaState j []).put (F.MMU_DMA_CTL.EN 0) 0).withdrawFault (36 + 0)).dmaC (0 : Fin 4)).job = j) ∧
    (let s := dmaRing 0x40 []
     s.dark = false ∧ s.on (F.MMU_DMA_CTL.EN (0 : Fin 4)) = true ∧ (s.dmaC (0 : Fin 4)).job = none ∧
       s.get (F.MMU_DMA_SQ_IDX.RIDX (0 : Fin 4)) % s.dmaSize (0 : Fin 4) ≠ s.get (F.MMU_DMA_SQ_IDX.WIDX (0 : Fin 4)) % s.dmaSize (0 : Fin 4) ∧ (s.dmaC (0 : Fin 4)).unread < s.dmaSize (0 : Fin 4)) ∧
    ((∃ w, dmaFetch ((dmaRing 0x40 []).setBytes 0x4000000000 (dmaDesc 0x4000000000)) = (.ok (dmaDesc 0x4000000000), w)) ∧ (dmaJob 0x4000000000).ok = true) ∧
    ((∃ w, dmaFetch (dmaRing 0x40 []) = (.ok (zeros 64), w)) ∧ ({ (default : DmaJob) with desc := zeros 64 } : DmaJob).ok = false) ∧
    (dmaFetch (dmaRing 0 [])).1.toOption = none ∧ (match (dmaFetch (dmaRing 0 [])).1 with | .error .parity => true | _ => false) = true ∧
    (match (dmaFetch (dmaRing 0 ((F.MMU_CTL.EN, 1) :: dramUp))).1 with | .error .parity => false | .error _ => true | _ => false) = true ∧
    ((mmu []).on (F.MMU_DMA_CTL.EN (0 : Fin 4)) = false) ∧
    ((dmaState (some (dmaJob 0)) []).dark = false ∧ ((dmaState (some (dmaJob 0)) []).dmaC (0 : Fin 4)).job = some (dmaJob 0) ∧ (dmaJob 0).susp = false) ∧
    (∃ k w, (dmaState (some (dmaJob 0x4000000000)) []).dmaBursts 0 (dmaJob 0x4000000000) ((dmaJob 0x4000000000).rows * ((dmaJob 0x4000000000).len / 64 + 2)) = ((k, none), w)) ∧
    (∃ k w, (dmaState (some (dmaJob 0)) []).dmaBursts 0 (dmaJob 0) ((dmaJob 0).rows * ((dmaJob 0).len / 64 + 2)) = ((k, some .parity), w)) ∧
    (∃ k w, (dmaState (some (dmaJob 0)) ((F.MMU_CTL.EN, 1) :: dramUp)).dmaBursts 0 (dmaJob 0) ((dmaJob 0).rows * ((dmaJob 0).len / 64 + 2)) = ((k, some (.fault 0 false 0)), w)) ∧
    ((mmu []).dmaC (0 : Fin 4)).job = none ∧
    (sachets.dark = false ∧ sachets.get (F.CAD_CL_HELD.HELD (0 : Fin 7)) < sachets.classMax (0 : Fin 7) ∧ sachets.chooseSachet 0 5 = some 0) ∧
    ((live [140, 89] [(F.CAD_CL_SHARE.QUOTA 0, 0)]).classMax (0 : Fin 7) ≤ (live [140, 89] [(F.CAD_CL_SHARE.QUOTA 0, 0)]).get (F.CAD_CL_HELD.HELD (0 : Fin 7))) ∧
    (let s : State := { sachets with caddy := { sachets.caddy with held := [(0, some (0, 5))] } }
     s.dark = false ∧ s.sachetHolder (0 : Fin 12288) = some (0, 5) ∧ s.caddy.waits = [] ∧ s.sachetHolder (1 : Fin 12288) = none) ∧
    (sachets.domOn 140 = true ∧ State.reset.domOn 140 = false) := by
  refine ⟨fun c h => ?_, fun j h => ?_, by decide +kernel, ⟨read_of (by decide +kernel), by decide +kernel⟩, ⟨read_of (by decide +kernel), by decide +kernel⟩, by decide +kernel, by decide +kernel,
    by decide +kernel, by decide +kernel, by decide +kernel, dma_of (by decide +kernel), dma_of (by decide +kernel), dma_of (by decide +kernel), by decide +kernel, by decide +kernel, by decide +kernel,
    by decide +kernel, by decide +kernel⟩
  · rcases h with rfl | rfl <;> exact ⟨reach (by decide), by decide +kernel, by decide +kernel, reach (by decide)⟩
  · simp only [List.mem_cons, List.not_mem_nil, or_false] at h
    rcases h with rfl | rfl <;> exact ⟨reach (by decide +kernel), by decide +kernel⟩

def chan (st : Nat) (f : List (Fld × Nat)) : State := live [72, 73, 88] ([(F.DRC_CTRL.STATE 0, st), (F.DRC_MAPCTL.APPLY, 1), (F.PWR_PLL.LOCK, 2)] ++ f)
theorem test_meets_DramTraining :
    (Reaches (live [] []) R.DRC_MAPCTL (live [] []) ∧ (0x80000000 : Word).getLsbD 31 = true ∧ (live [] []).on F.DRC_MAPCTL.APPLY = false) ∧
    (Reaches (chan 0 []) R.DRC_MAPCTL (chan 0 []) ∧ (chan 0 []).on F.DRC_MAPCTL.APPLY = true ∧ (0 : Word).getLsbD 31 = false) ∧
    (∀ st ∈ [0, 1, 2, 3, 4, 5], (chan st []).dark = false ∧ (chan st []).on F.DRC_MAPCTL.APPLY = true ∧ (chan st []).get (F.DRC_CTRL.STATE (0 : Fin 8)) = st) ∧
    ((chan 1 []).domOn 88 = true ∧ (chan 1 []).domOn (72 + 2 * (0 : Fin 8)) = true ∧ (chan 1 []).domOn (73 + 2 * (0 : Fin 8)) = true ∧ (chan 1 []).bit F.PWR_PLL.LOCK 1 = true ∧
      sget false (chan 1 []).dram.resume (0 : Fin 8) = false) ∧
    (let s : State := { chan 1 [] with dram := { (chan 1 []).dram with resume := [(0, true)] } }
     sget false s.dram.resume (0 : Fin 8) = true ∧ sget false s.dram.selfRef (0 : Fin 8) = false ∧ sget false ({ s.dram with selfRef := [(0, true)] } : DramState).selfRef (0 : Fin 8) = true) ∧
    (∀ x : Fin 16, x = 0 ∨ x = 1 → (chan 2 []).get (F.DRC_CTRL.STATE (x / 2 : Nat)) = 2 ∧ (chan 3 []).get (F.DRC_CTRL.STATE (x / 2 : Nat)) = 3) ∧
    (let s : State := { chan 2 [] with dram := { (chan 2 []).dram with short := some 1 } }
     s.dark = false ∧ s.dram.short = some 1 ∧ (chan 2 []).dram.short = none) := by
  refine ⟨⟨reach (by decide), by decide⟩, ⟨reach (by decide), by decide⟩, ?_, ?_, ?_, ?_, ?_⟩ <;> decide +kernel

def upkeep (f : List (Fld × Nat)) : State := live [] (dramUp ++ f)
def waitAt (a : Nat) : WaitReq := ⟨3, a, false, [], 0⟩
theorem test_meets_DramUpkeep :
    (let v := (upkeep []).exitSelfRefresh ((upkeep []).dramLoc 0).ch
     (upkeep []).dark = false ∧ (upkeep []).dramReady 0 = true ∧ v.admissible (waitAt 0) = true ∧ v.steepWait.any (fun x => x.addr == 0) = false ∧ (live [] []).dramReady 0 = false) ∧
    (({ upkeep [] with steepWait := [waitAt 0] } : State).steepWait.any (fun x => x.addr == 0) = true) ∧
    ((upkeep []).get F.THM_STAT.BAND = 0 ∧ (upkeep [(F.DRC_CTRL.BAND 0, 1)]).get (F.DRC_CTRL.BAND (0 : Fin 8)) = 1) ∧
    ((upkeep []).dark = false ∧ (upkeep []).get (F.DRC_CTRL.STATE ((3 : Fin 32) / 4 : Nat)) = 2 ∧ (upkeep []).get (F.DRC_CTRL.STATE ((4 : Fin 32) / 4 : Nat)) ≠ 2 ∧
      (upkeep []).get (F.DRC_CTRL.STATE ((4 : Fin 32) / 4 : Nat)) ≠ 4 ∧ (upkeep []).subWaits ((0 : Fin 32) / 2 : Nat) = false) ∧
    (({ upkeep [] with steepWait := [waitAt 0] } : State).subWaits (((upkeep []).dramLoc 0).subIdx) = true ∧ sget 0 (upkeep []).dram.postponed 0 < 4) ∧
    (let s : State := { upkeep [] with dram := { (upkeep []).dram with rows := [(0, some (5, 0)), (1, some (6, 2))] } }
     s.dark = false ∧ sget none s.dram.rows (0 : Fin 512).val = some (5, 0) ∧ sget none s.dram.rows (1 : Fin 512).val = some (6, 1 + 1) ∧ sget none s.dram.rows (2 : Fin 512).val = none) ∧
    (let s := upkeep [(F.DRC_SR.EN 0, 1), (F.DRC_SR.IDLE_US 0, 1)]
     s.dark = false ∧ s.get (F.DRC_CTRL.STATE (0 : Fin 8)) = 2 ∧ s.on (F.DRC_SR.EN (0 : Fin 8)) = true ∧ s.get (F.DRC_SR.IDLE_US (0 : Fin 8)) ≠ 0 ∧
       s.steepWait.any (fun w => (s.dramLoc w.addr).ch == (0 : Fin 8).val) = false ∧ s.dram.short = none ∧ s.dram.shortWait = []) := by decide +kernel

/-! ### Witnesses: Ethernet, RoCE, management, network boot -/

/-- Port 0 enabled in mode 3 on lane 88, its link up. -/
def eth (x : EthState) (f : List (Fld × Nat)) : State :=
  { live [124, 125] ([(F.ETH_CFG.EN 0, 1), (F.ETH_CFG.SPEED 0, 3), (F.LNK_STAT.UP 88, 1), (F.ETH_STAT.LINK 0, 1)] ++ f) with eth := x }
def eth0 : EthState := default
def napping (x : EthState) : State := { eth x [] with power := { State.reset.power with mode := .nap } }
theorem test_meets_EthernetPorts :
    (∀ p : Fin 2, Reaches (live [124, 125] []) (R.ETH_CFG p) (live [124, 125] []) ∧ (live [124, 125] []).on (F.ETH_CFG.EN p) = false ∧
      ((live [124, 125] []).plainWrite 0 (R.ETH_CFG p) ((0 : Word) ||| 0x80000000)).on (F.ETH_CFG.EN p) = true) ∧
    (Reaches (eth eth0 []) (R.ETH_CFG (0 : Fin 2)) (eth eth0 []) ∧ (eth eth0 []).on (F.ETH_CFG.EN (0 : Fin 2)) = true ∧
      (((eth eth0 []).reg (R.ETH_CFG (0 : Fin 2)) &&& 0x7FFFFFFF) ^^^ (eth eth0 []).reg (R.ETH_CFG (0 : Fin 2))) &&& 0x7FFFFFFF = 0) ∧
    ((eth eth0 []).dark = false ∧ (eth eth0 []).subLanes (0 : Fin 2) (0 : Fin 4) ≠ [] ∧ ((eth eth0 []).subLanes (0 : Fin 2) (0 : Fin 4)).all (fun n => (eth eth0 []).on (F.LNK_STAT.UP n)) = true ∧
      (eth eth0 [(F.ETH_CFG.AN 0, 0)]).on (F.ETH_CFG.AN (0 : Fin 2)) = false ∧ (eth eth0 [(F.ETH_CFG.AN 0, 1)]).on (F.ETH_CFG.AN (0 : Fin 2)) = true ∧
      (eth eth0 []).subLanes (0 : Fin 2) (1 : Fin 4) = []) ∧
    ((eth eth0 []).ethFlush.on (F.ETH_CFG.EN (0 : Fin 2)) = true ∧ (eth eth0 []).ethFlush.ethUp (0 : Fin 2) (0 : Fin 4) = true ∧ (eth eth0 []).ethFlush.drowsy = false ∧
      (true && ((eth eth0 []).ethFlush.subLanes (0 : Fin 2) (0 : Fin 4)).all (fun n => (eth eth0 []).ethFlush.on (F.LNK_STAT.UP n))) = true ∧ (zeros 59).length < 60) ∧
    ((napping eth0).dark = false ∧ (napping eth0).ethFlush.ethUp (0 : Fin 2) (0 : Fin 4) = true ∧ (napping eth0).ethFlush.drowsy = true ∧
      ((napping eth0).ethFlush.eth.asleep.filter (fun e => e.1 == (0 : Fin 2).val)).foldl (fun n e => n + e.2.2.2.length) 0 + (zeros 64).length ≤ 16384) ∧
    (live [124] []).ethFlush.ethUp (1 : Fin 2) (3 : Fin 4) = false := by
  refine ⟨fun p => ?_, ⟨reach (by decide +kernel), by decide +kernel⟩, by decide +kernel, by decide +kernel, by decide +kernel, by decide +kernel⟩
  match p with
  | 0 => exact ⟨reach (by decide), by decide +kernel⟩
  | 1 => exact ⟨reach (by decide), by decide +kernel⟩

def pair5 (retries rnr : Nat) (error : Bool) (msgs : List RoceMsg) : EthQp := { (default : EthQp) with ip := 0x0A, ePsn := 10, error := error, retries := retries, rnr := rnr, msgs := msgs }
def pairs (x : EthQp) : EthState := { eth0 with qps := [(5, some x)] }
def rocePkt (op psn code : Nat) (icrc : Bool) : RocePkt := { (default : RocePkt) with qp := 5, op := op, psn := psn, icrc := icrc, code := code }
theorem test_meets_QueuePairs :
    (∀ e ∈ [false, true], let s := eth (pairs (pair5 0 0 e [])) []
      s.dark = false ∧ s.ethFlush.qp (rocePkt 0 10 0 true).qp = some (pair5 0 0 e []) ∧ (pair5 0 0 e []).sub / 4 = (0 : Fin 2).val ∧ s.ethFlush.ethUp (0 : Fin 2) ((pair5 0 0 e []).sub % 4) = true ∧
        s.ethFlush.drowsy = false ∧ (pair5 0 0 e []).error = e) ∧
    ((napping (pairs (pair5 0 0 false []))).ethFlush.drowsy = true ∧ (napping (pairs (pair5 0 0 false []))).ethFlush.qp 5 = some (pair5 0 0 false [])) ∧
    ((rocePkt 0 10 0 false).icrc = false ∧ (rocePkt 3 0 0 true).op = 3 ∧ (rocePkt 6 0 0 true).op = 6 ∧ (rocePkt 5 0 1 true).code ≠ 0 ∧ (rocePkt 2 10 0 true).psn = (pair5 0 0 false []).ePsn ∧
      (rocePkt 2 11 0 true).psn ≠ (pair5 0 0 false []).ePsn ∧ psnAfter (rocePkt 2 11 0 true).psn (pair5 0 0 false []).ePsn = true ∧ (pair5 0 0 false []).nak = false) ∧
    ((eth eth0 []).ethFlush.qp 5 = none ∧ (pair5 0 0 false []).sub / 4 ≠ (1 : Fin 2).val) ∧
    (∀ r ∈ [(0, 0), (7, 7)], let s := eth (pairs (pair5 r.1 r.2 false [default])) [(F.ETH_RETRY.RETRY, 7), (F.ETH_RETRY.RNR, 6)]
      s.ethFlush.qp (5 : Fin 64) = some (pair5 r.1 r.2 false [default]) ∧ (pair5 r.1 r.2 false [default]).msgs ≠ [] ∧
        (decide (r.1 < s.ethFlush.get F.ETH_RETRY.RETRY)) = (r.1 == 0) ∧ s.ethFlush.get F.ETH_RETRY.RNR ≠ 7 ∧ (decide (r.2 < s.ethFlush.get F.ETH_RETRY.RNR)) = (r.2 == 0)) ∧
    (eth eth0 [(F.ETH_RETRY.RNR, 7)]).ethFlush.get F.ETH_RETRY.RNR = 7 ∧ Reaches (eth eth0 []) R.ETH_QP_SEL (eth eth0 []) :=
  ⟨by decide +kernel, by decide +kernel, by decide +kernel, by decide +kernel, by decide +kernel, by decide +kernel, reach (by decide +kernel)⟩

def host1 : MgmtReq := ⟨0, 0x0A, 0x1234, 1⟩
def managed (phase connect : Nat) (x : EthState) : State := { eth x [(F.ETH_MGMT.CONNECT_EN, connect)] with boot := { State.reset.boot with phase := phase } }
def connectBody (mtu : Nat) : List Byte := packBytes 64 [(8, 2, mtu), (0xA, 2, 0x100), (0xC, 2, 0x203), (0x1C, 2, 64), (0x1E, 2, 64)]
def recoverBody (action serial : Nat) : List Byte := packBytes 64 [(0, 1, action), (4, 16, serial)]
theorem test_meets_ManagementMessages :
    ((managed 2 1 eth0).dark = false ∧ (managed 2 1 eth0).ethFlush.eth.replies.find? (fun k => k.ip == host1.ip && k.port == host1.port && k.seq == host1.seq) = none ∧
      (managed 2 1 eth0).ethFlush.boot.phase = 2 ∧ (managed 2 1 eth0).ethFlush.on F.ETH_MGMT.CONNECT_EN = true) ∧
    (let s := managed 2 1 { eth0 with replies := [⟨host1.ip, host1.port, host1.seq, 0, []⟩] }
     s.dark = false ∧ s.ethFlush.eth.replies.find? (fun k => k.ip == host1.ip && k.port == host1.port && k.seq == host1.seq) = some ⟨host1.ip, host1.port, host1.seq, 0, []⟩) ∧
    ((managed 1 1 eth0).ethFlush.boot.phase ≠ 2 ∧ (managed 2 0 eth0).ethFlush.on F.ETH_MGMT.CONNECT_EN = false) ∧
    (∃ e w, (managed 2 1 eth0).ethFlush.openQp host1.sub host1.ip (connectBody 512) true 0 = (.error e, w)) ∧
    (∃ r w, (managed 2 1 eth0).ethFlush.openQp host1.sub host1.ip (connectBody 1024) true 0 = (.ok r, w)) ∧
    ((zeros 3).length ≠ 4 ∧ (leBytes 4 5).length = 4 ∧ (managed 2 1 eth0).ethFlush.qp (field (leBytes 4 5) 0 4) = none ∧
      (managed 2 1 (pairs (pair5 0 0 false []))).ethFlush.qp (field (leBytes 4 5) 0 4) = some (pair5 0 0 false []) ∧ (pair5 0 0 false []).ip = host1.ip ∧
      (pair5 0 0 false []).ip ≠ ({ host1 with ip := 0x0B } : MgmtReq).ip) ∧
    ((managed 1 1 eth0).dark = false ∧ (managed 1 1 eth0).ethFlush.boot.phase = 1 ∧ (∀ a ∈ [0, 1, 2, 3], (recoverBody a 0).length = 64 ∧ field (recoverBody a 0) 0 1 = a ∧
      field (recoverBody a 0) 4 16 = (managed 1 1 eth0).ethFlush.sec.serial) ∧ 3 < field (recoverBody 4 0) 0 1 ∧ field (recoverBody 0 1) 4 16 ≠ (managed 1 1 eth0).ethFlush.sec.serial) := by
  refine ⟨by decide +kernel, by decide +kernel, by decide +kernel, error_of (by decide +kernel), ok_of (by decide +kernel), by decide +kernel, by decide +kernel⟩

theorem pos_of {r : Nat × State} (h : r.1 ≠ 0) : ∃ e x, r = (e + 1, x) := by
  obtain ⟨_ | e, x⟩ := r
  · exact absurd rfl h
  · exact ⟨e, x, rfl⟩

def netBoot (n : NetBoot) : State := { eth eth0 [] with boot := { State.reset.boot with phase := 1, net := some n } }
def offered : NetBoot := ⟨true, 0x0A, 32, 0, 0⟩
def bootBody (off len : Nat) : List Byte := packBytes (8 + len) [(0, 4, off), (4, 4, len)]
theorem test_meets_NetworkBoot :
    ((netBoot { offered with offered := false }).dark = false ∧ (netBoot { offered with offered := false }).ethFlush.boot.net = some { offered with offered := false } ∧
      (netBoot { offered with offered := false }).ethFlush.ethUp 0 0 = true ∧ host1.sub = 0 ∧ (zeros 32).length = 32) ∧
    ((netBoot offered).dark = false ∧ (netBoot offered).ethFlush.boot.net = some offered ∧ offered.offered = true ∧ (zeros 31).length ≠ 32) ∧
    (∀ len ∈ [16, 32], field (bootBody 0 len) 0 4 = offered.off ∧ field (bootBody 0 len) 4 4 ≠ 0 ∧ field (bootBody 0 len) 4 4 ≤ 1024 ∧ 8 + field (bootBody 0 len) 4 4 ≤ (bootBody 0 len).length ∧
      offered.off + field (bootBody 0 len) 4 4 ≤ 0x1000000 ∧ (decide (offered.off + field (bootBody 0 len) 4 4 < offered.len)) = (len == 16)) ∧
    (∃ e x, ((((netBoot offered).ethFlush.setBytes (bootMem + offered.off) (((bootBody 0 32).drop 8).take 32)).setNet none).fwVerify
      (((netBoot offered).ethFlush.setBytes (bootMem + offered.off) (((bootBody 0 32).drop 8).take 32)).bytes bootMem 32) 32) = (e + 1, x)) ∧
    (field (bootBody 1 16) 0 4 ≠ offered.off ∧ offered.tries < 7 ∧ 7 ≤ ({ offered with tries := 7 } : NetBoot).tries) ∧
    ((eth eth0 []).ethFlush.boot.net = none ∧ ({ host1 with sub := 1 } : MgmtReq).sub ≠ 0) := by
  refine ⟨by decide +kernel, by decide +kernel, by decide +kernel, ?_, by decide +kernel, by decide +kernel⟩
  exact pos_of (by decide +kernel)

/-! ### Witnesses: capture store -/

def live5 : EthQp := default
/-- The capture store at work with queue 0 on a queue pair and the local queue; index and store in the caddy, two runs. -/
def store (c : CcpState) (f : List (Fld × Nat)) : State :=
  { live [126, 140] ([(F.CCP_CTL.EN, 1), (F.CCP_CTL.READY, 1), (F.CCP_INDEX_HI.ADDR, 0x40), (F.CCP_STORE_HI.ADDR, 0x40), (F.CCP_STORE_BLKS.BLKS, 1024)] ++ f) with
    eth := { eth0 with qps := [(0, some live5)] }, ccp := c }
def queue0 : CcpQueue := { (default : CcpQueue) with ver := 0x203, admin := true, sqDepth := 8, cqDepth := 8, phase := true, coMax := 1 }
def ccp0 : CcpState := { (default : CcpState) with queues := [(0, some queue0), (64, some queue0)] }
/-- A command of queue 0 with CID 9 and the given fields. -/
def cmdOf (opc : Nat) (l : List (Nat × Nat × Nat)) : CcpCmd := { (default : CcpCmd) with stamp := 3, sub := packBytes 64 ([(0, 1, opc), (2, 2, 9)] ++ l) }
def doing (c : CcpCmd) (takes : Sparse Take) (more : List CcpCmd) (f : List (Fld × Nat)) : State := store { ccp0 with takes := takes, cmds := more ++ [c] } f
def opened : Take := { freeTake with state := 1, runs := [0], length := 4096 }
def closed : Take := { opened with state := 2 }

/-- Queue `q` performs command `c`. -/
def performs (s : State) (q cid opc : Nat) (c : CcpCmd) : Bool :=
  !s.dark && (s.ccp.cmds.find? (fun c => c.q == q && c.cid == cid && c.opc == opc && c.done.isNone) == some c) && s.queueLive q && !c.susp &&
    !s.on (F.MMU_UNIT_FLT_HI.VALID 40) && s.on F.CCP_CTL.READY

theorem performing {s : State} {q cid opc : Nat} {c : CcpCmd} (h : performs s q cid opc c = true) : Performs s q cid opc c := by
  simp only [performs, Bool.and_eq_true, Bool.not_eq_true', beq_iff_eq] at h
  exact ⟨h.1.1.1.1.1, h.1.1.1.1.2, h.1.1.1.2, h.1.1.2, h.1.2, h.2⟩

theorem test_meets_CaptureQueues :
    (let s := live [126] []
     Reaches s R.CCP_CTL s ∧ s.on F.CCP_CTL.EN = false ∧ (s.plainWrite 0 R.CCP_CTL (((0 : Word) ||| 0x80000000) &&& 0xBFFFFFFF)).on F.CCP_CTL.EN = true ∧
       (s.plainWrite 0 R.CCP_CTL ((0 : Word) ||| 0xC0000000)).on F.CCP_CTL.EN = true ∧ (s.plainWrite 0 R.CCP_CTL ((0 : Word) &&& 0x7FFFFFFF)).on F.CCP_CTL.EN = false) ∧
    (Reaches (store ccp0 []) R.CCP_CTL (store ccp0 []) ∧ (store ccp0 []).on F.CCP_CTL.EN = true ∧ ((store ccp0 []).plainWrite 0 R.CCP_CTL ((0 : Word) &&& 0x7FFFFFFF)).on F.CCP_CTL.EN = false) ∧
    ((store ccp0 []).ccp.opening = none ∧ ∀ keep ∈ [false, true], (store { ccp0 with opening := some keep, home := some 0x4000000000 } []).dark = false ∧
      (store { ccp0 with opening := some keep, home := some 0x4000000000 } []).ccp.opening = some keep) ∧
    ((store { ccp0 with home := some 0x4000000000 } []).ccp.home = some (store { ccp0 with home := some 0x4000000000 } []).indexBase ∧ (store ccp0 []).ccp.home ≠ some (store ccp0 []).indexBase) ∧
    ((store ccp0 []).dark = false ∧ (store ccp0 []).queueLive (0 : Fin 64) = true ∧ (store ccp0 []).ccpQ (0 : Fin 64) = some queue0 ∧ (packBytes 8 [(0, 2, 7), (2, 2, 7)]).length = 8 ∧
      field (packBytes 8 [(0, 2, 7), (2, 2, 7)]) 0 2 < queue0.sqDepth ∧ field (packBytes 8 [(0, 2, 7), (2, 2, 7)]) 2 2 < queue0.cqDepth ∧ field (packBytes 8 [(0, 2, 7), (2, 2, 7)]) 4 4 = 0 ∧
      queue0.sqDepth ≤ field (packBytes 8 [(0, 2, 8)]) 0 2 ∧ queue0.cqDepth ≤ field (packBytes 8 [(2, 2, 8)]) 2 2 ∧ field (packBytes 8 [(4, 4, 1)]) 4 4 ≠ 0) ∧
    (store ccp0 []).queueLive (1 : Fin 64) = false ∧ Reaches (store ccp0 []) R.CCP_LQ_SQ_IDX (store ccp0 []) ∧
    (((store ccp0 []).plainWrite 0 R.CCP_LQ_SQ_IDX 0).ccpQ 64 = some queue0 ∧ ((live [126] []).plainWrite 0 R.CCP_LQ_SQ_IDX 0).ccpQ 64 = none) ∧
    (let s := store { ccp0 with queues := [(0, some { queue0 with sqTail := 3 })] } []
     s.dark = false ∧ s.ccpQ (0 : Fin 65) = some { queue0 with sqTail := 3 } ∧ s.queueLive (0 : Fin 65) = true ∧ (0 : Fin 65).val ≠ 64 ∧ s.fetchable (0 : Fin 65) { queue0 with sqTail := 3 } ≠ 0) ∧
    (store ccp0 []).fetchable (0 : Fin 65) queue0 = 0 ∧
    (let c : CcpCmd := { cmdOf 0x80 [] with done := some (0, 0) }
     let s := doing c [] [] []
     s.ccp.cmds.find? (fun c => c.q == (0 : Fin 65).val && c.cid == (9 : Half).toNat && c.done.isSome) = some c ∧ c.done = some (0, 0) ∧
       (s.qp (0 : Fin 65)).any (fun p => (p.msgs ++ p.waiting).any (fun m => m.user == c.stamp)) = false ∧ c.opc ≠ 0x85 ∧ queue0.coHold = 0 ∧
       ({ queue0 with coHold := 5, coMax := 2 } : CcpQueue).coHold ≠ 0 ∧ ({ queue0 with coHold := 5, coMax := 2 } : CcpQueue).held.length + 1 < 2) ∧
    (store ccp0 []).ccp.cmds.find? (fun c => c.q == (0 : Fin 65).val && c.cid == (9 : Half).toNat && c.done.isSome) = none :=
  ⟨⟨reach (by decide), by decide +kernel⟩, ⟨reach (by decide +kernel), by decide +kernel⟩, by decide +kernel, by decide +kernel, by decide +kernel, by decide +kernel, reach (by decide +kernel), by decide +kernel,
    by decide +kernel, by decide +kernel, by decide +kernel, by decide +kernel⟩

def makeTake : CcpCmd := cmdOf 3 [(0x38, 4, 1)]
def makeBig : CcpCmd := cmdOf 3 [(0x38, 4, 3)]
def readCmd (off nblk : Nat) : CcpCmd := cmdOf 1 [(8, 4, off), (0xC, 4, nblk), (0x1C, 4, 4096)]
def writeCmd (off : Nat) : CcpCmd := cmdOf 2 [(8, 4, off), (0xC, 4, 1), (0x1C, 4, 4096)]
def earlier : CcpCmd := { writeCmd 0 with stamp := 1, sub := packBytes 64 [(0, 1, 2), (2, 2, 8), (0xC, 4, 1), (0x1C, 4, 4096)] }
/-- A WRITE whose one block is staged: written to DRAM behind a subchannel out of service, or to the caddy. -/
def stagedWrite (off : Nat) : CcpCmd := { writeCmd off with staged := [[1, 2, 3]] }
def abortCmd (cid : Nat) : CcpCmd := cmdOf 7 [(0x20, 2, cid), (0x22, 2, 0xFFFF)]
def many : Take := { opened with length := 4096, entries := [zeros 32] }

theorem test_meets_CaptureTakes :
    (Performs (doing makeTake [] [] []) (0 : Fin 65) (9 : Half).toNat 3 makeTake ∧ ((doing makeTake [] [] []).take makeTake.takeNo).state = 0 ∧
      makeTake.f 0x38 4 ≤ (doing makeTake [] [] []).freeRuns.length ∧ (∃ u w, (doing makeTake [] [] []).touchIndex = (.ok u, w)) ∧
      Performs (doing makeTake [(0, opened)] [] []) (0 : Fin 65) (9 : Half).toNat 3 makeTake ∧ ((doing makeTake [(0, opened)] [] []).take makeTake.takeNo).state ≠ 0 ∧
      Performs (doing makeBig [] [] []) (0 : Fin 65) (9 : Half).toNat 3 makeBig ∧ (doing makeBig [] [] []).freeRuns.length < makeBig.f 0x38 4) ∧
    (∀ opc ∈ [4, 5, 6, 8, 11, 1, 2, 7], Performs (doing (cmdOf opc []) [(0, opened)] [] []) (0 : Fin 65) (9 : Half).toNat opc (cmdOf opc []) ∧
      ((doing (cmdOf opc []) [(0, opened)] [] []).take (cmdOf opc []).takeNo).state = 1 ∧ (doing (cmdOf opc []) [(0, opened)] [] []).takeStream (cmdOf opc []).takeNo = none ∧
      (∃ u w, (doing (cmdOf opc []) [(0, opened)] [] []).touchIndex = (.ok u, w)) ∧ ((doing (cmdOf opc []) [(0, closed)] [] []).take (cmdOf opc []).takeNo).state ≠ 1 ∧
      ((doing (cmdOf opc []) [] [] []).take (cmdOf opc []).takeNo).state = 0 ∧ Performs (doing (cmdOf opc []) [] [] []) (0 : Fin 65) (9 : Half).toNat opc (cmdOf opc [])) ∧
    ((cmdOf 8 [(0xC, 4, 1)]).hlen < 32 * ((many.entries.drop (cmdOf 8 [(0xC, 4, 1)]).offset).take (cmdOf 8 [(0xC, 4, 1)]).nblk).length ∧
      32 * ((many.entries.drop (cmdOf 8 [(0xC, 4, 1), (0x1C, 4, 32)]).offset).take (cmdOf 8 [(0xC, 4, 1), (0x1C, 4, 32)]).nblk).length ≤ (cmdOf 8 [(0xC, 4, 1), (0x1C, 4, 32)]).hlen) ∧
    ((opened.length + 4095) / 4096 ≤ (cmdOf 11 [(8, 4, 1), (0xC, 4, 1)]).offset + (cmdOf 11 [(8, 4, 1), (0xC, 4, 1)]).nblk - 1 ∧
      (cmdOf 11 [(0xC, 4, 1)]).offset + (cmdOf 11 [(0xC, 4, 1)]).nblk - 1 < (opened.length + 4095) / 4096) ∧
    (Performs (doing (readCmd 0 1) [(0, opened)] [] []) (0 : Fin 65) (9 : Half).toNat 1 (readCmd 0 1) ∧ (doing (readCmd 0 1) [(0, opened)] [] []).readWaits (readCmd 0 1) 1 = false ∧
      (readCmd 0 1).offset + (readCmd 0 1).nblk - 1 < (opened.length + 4095) / 4096 ∧ (∃ b w, (doing (readCmd 0 1) [(0, opened)] [] []).readBlocks (readCmd 0 1) opened 0 1 = (.ok b, w))) ∧
    (∃ e w, (doing (readCmd 0 1) [(0, opened)] [] [(F.CCP_STORE_HI.ADDR, 0)]).readBlocks (readCmd 0 1) opened 0 1 = (.error e, w)) ∧
    ((doing (readCmd 0 1) [(0, opened)] [earlier] []).readWaits (readCmd 0 1) 1 = true ∧ (opened.length + 4095) / 4096 ≤ (readCmd 1 1).offset + (readCmd 1 1).nblk - 1) ∧
    (let s := doing (stagedWrite 0) [(0, opened)] [] []
     Performs s (0 : Fin 65) (9 : Half).toNat 2 (stagedWrite 0) ∧ s.heldBack (stagedWrite 0) = false ∧ (s.take (stagedWrite 0).takeNo).state = 1 ∧ (stagedWrite 0).offset ≤ (opened.length + 4095) / 4096 ∧
       (∃ d w, s.stageBlocks (stagedWrite 0) [] = (.ok d, w)) ∧ s.moreRuns opened ((0 + 1 + 511) / 512 - opened.runs.length) = some ([], opened) ∧
       (∃ u a, s.touchIndex = (.ok u, a))) ∧
    (Performs (doing (writeCmd 2) [(0, opened)] [] []) (0 : Fin 65) (9 : Half).toNat 2 (writeCmd 2) ∧ (opened.length + 4095) / 4096 < (writeCmd 2).offset) ∧
    (Performs (doing (writeCmd 0) [(0, opened)] [earlier] []) (0 : Fin 65) (9 : Half).toNat 2 (writeCmd 0) ∧ (doing (writeCmd 0) [(0, opened)] [earlier] []).heldBack (writeCmd 0) = true) ∧
    ((doing (writeCmd 0) [(0, { opened with runs := [] })] [] [(F.CCP_STORE_BLKS.BLKS, 0)]).moreRuns { opened with runs := [] } 1 = none) ∧
    (let s := doing (abortCmd 8) [(0, opened)] [earlier] []
     Performs s (0 : Fin 65) (9 : Half).toNat 7 (abortCmd 8) ∧
       s.ccp.cmds.find? (fun e => e.q == (abortCmd 8).q && e.cid == (abortCmd 8).f 0x20 2 && decide (e.stamp < (abortCmd 8).stamp) && e.done.isNone) = some earlier ∧ (abortCmd 8).f 0x22 2 = 0xFFFF) := by
  refine ⟨⟨performing (by decide +kernel), by decide +kernel, by decide +kernel, ok_of (by decide +kernel), performing (by decide +kernel), by decide +kernel, performing (by decide +kernel), by decide +kernel⟩,
    fun opc h => ?_, by decide +kernel, by decide +kernel, ⟨performing (by decide +kernel), by decide +kernel, by decide +kernel, ok_of (by decide +kernel)⟩, error_of (by decide +kernel), by decide +kernel,
    ⟨performing (by decide +kernel), by decide +kernel, by decide +kernel, by decide +kernel, ok_of (by decide +kernel), by decide +kernel, ok_of (by decide +kernel)⟩,
    ⟨performing (by decide +kernel), by decide +kernel⟩, ⟨performing (by decide +kernel), by decide +kernel⟩, by decide +kernel, ⟨performing (by decide +kernel), by decide +kernel⟩⟩
  simp only [List.mem_cons, List.not_mem_nil, or_false] at h
  rcases h with rfl | rfl | rfl | rfl | rfl | rfl | rfl | rfl <;>
    exact ⟨performing (by decide +kernel), by decide +kernel, by decide +kernel, ok_of (by decide +kernel), by decide +kernel, by decide +kernel, performing (by decide +kernel)⟩

def bootedCcp (c : CcpCmd) (slot : Nat) (f : List (Fld × Nat)) : State := { doing c [] [] f with boot := { State.reset.boot with booted := slot } }
theorem test_meets_CaptureAdministration :
    (∀ opc ∈ [0x80, 0x81, 0x82, 0x83, 0x84, 0x86, 0x87, 0x88, 0x89], Performs (doing (cmdOf opc []) [] [] []) (0 : Fin 65) (9 : Half).toNat opc (cmdOf opc []) ∧
      (doing (cmdOf opc []) [] [] []).ccpQ (cmdOf opc []).q = some queue0) ∧
    (∀ n ∈ [0, 1, 2, 3, 4], (cmdOf 0x81 [(0x20, 1, n)]).f 0x20 1 = n) ∧
    (∀ v ∈ [1, 64, 64 + 65536 * 1000], 0x203 ≤ queue0.ver ∧ 1 ≤ (cmdOf 0x83 [(0x20, 1, 2), (0x28, 8, v)]).f 0x28 8 % 65536 ∧ (cmdOf 0x83 [(0x20, 1, 2), (0x28, 8, v)]).f 0x28 8 % 65536 ≤ 64 ∧
      (cmdOf 0x83 [(0x20, 1, 2), (0x28, 8, v)]).f 0x28 8 / 65536 ≤ 1000) ∧
    (64 < (cmdOf 0x83 [(0x20, 1, 2), (0x28, 8, 65)]).f 0x28 8 % 65536 ∧ 1000 < (cmdOf 0x83 [(0x28, 8, 65536 * 1001)]).f 0x28 8 / 65536) ∧
    (let c := cmdOf 0x84 [(0x1C, 4, 64)]
     let s := doing c [] [] [(F.SEC_STAGE_HI.ADDR, 0x40)]
     (∃ b w, s.hostRead c 0 c.hlen [] = (.ok b, w)) ∧ (∃ u v, s.physPut (ccpReq true none) (pieces (c.hlen / 64 + 2) (s.stageBase + c.f 0x20 4) c.hlen) (zeros 64) = (.ok u, v))) ∧
    (let c : CcpCmd := { cmdOf 0x84 [(0x1C, 4, 64)] with q := 64 }
     ∃ e w, (doing c [] [] []).hostRead c 0 c.hlen [] = (.error e, w)) ∧
    (∀ a ∈ [0, 1, 2, 3], Performs (bootedCcp (cmdOf 0x85 [(0x21, 1, a)]) 0 []) (0 : Fin 65) (9 : Half).toNat 0x85 (cmdOf 0x85 [(0x21, 1, a)]) ∧ (cmdOf 0x85 [(0x21, 1, a)]).f 0x21 1 = a ∧
      (cmdOf 0x85 [(0x21, 1, a)]).f 0x20 1 = (bootedCcp (cmdOf 0x85 [(0x21, 1, a)]) 0 []).boot.booted ∧ (cmdOf 0x85 [(0x20, 1, 1), (0x21, 1, a)]).f 0x20 1 ≠ (bootedCcp (cmdOf 0x85 []) 0 []).boot.booted) ∧
    (∃ e w, (doing (cmdOf 0x85 []) [] [] []).stagedImage = (.error e, w)) ∧ (∃ b w, (doing (cmdOf 0x85 []) [] [] [(F.SEC_STAGE_HI.ADDR, 0x40)]).stagedImage = (.ok b, w)) ∧
    (∃ e x, (doing (cmdOf 0x85 []) [] [] []).fwVerify (zeros 64) 16777216 = (e + 1, x)) ∧
    (∃ b w, (doing (cmdOf 0x86 []) [] [] []).busReads srcCcp ((cmdOf 0x86 []).f 0x20 4) ((cmdOf 0x86 []).f 0x24 2) = (b, w)) ∧
    ((doing (cmdOf 0x88 []) [] [] []).qp (cmdOf 0x88 []).q = some live5 ∧ (∃ b w, (doing (cmdOf 0x88 []) [] [] []).hostRead (cmdOf 0x88 []) 0 64 (connectBody 1024) = (.ok b, w)) ∧
      (∃ r v, (doing (cmdOf 0x88 []) [] [] []).openQp 0 0 (connectBody 1024) false 1 = (.ok r, v)) ∧ (∃ e v, (doing (cmdOf 0x88 []) [] [] []).openQp 0 0 (connectBody 512) false 1 = (.error e, v))) ∧
    ((cmdOf 0x89 []).f 0x20 1 = (cmdOf 0x89 []).q ∧ (doing (cmdOf 0x89 []) [] [] []).qp ((cmdOf 0x89 [(0x20, 1, 1)]).f 0x20 1) = none ∧
      (let s := store { ccp0 with cmds := [cmdOf 0x89 [(0x20, 1, 1)]] } []
       let s : State := { s with eth := { s.eth with qps := [(0, some live5), (1, some live5)] } }
       Performs s (0 : Fin 65) (9 : Half).toNat 0x89 (cmdOf 0x89 [(0x20, 1, 1)]) ∧ (cmdOf 0x89 [(0x20, 1, 1)]).f 0x20 1 ≠ (cmdOf 0x89 [(0x20, 1, 1)]).q ∧ s.qp ((cmdOf 0x89 [(0x20, 1, 1)]).f 0x20 1) = some live5)) := by
  refine ⟨fun opc h => ?_, by decide +kernel, by decide +kernel, by decide +kernel, ⟨ok_of (by decide +kernel), ok_of (by decide +kernel)⟩, error_of (by decide +kernel), fun a h => ?_,
    error_of (by decide +kernel), ok_of (by decide +kernel), pos_of (by decide +kernel), ⟨_, _, rfl⟩, ⟨by decide +kernel, ok_of (by decide +kernel), ok_of (by decide +kernel), error_of (by decide +kernel)⟩,
    by decide +kernel, by decide +kernel, performing (by decide +kernel), by decide +kernel⟩
  · simp only [List.mem_cons, List.not_mem_nil, or_false] at h
    rcases h with rfl | rfl | rfl | rfl | rfl | rfl | rfl | rfl | rfl <;> exact ⟨performing (by decide +kernel), by decide +kernel⟩
  · simp only [List.mem_cons, List.not_mem_nil, or_false] at h
    rcases h with rfl | rfl | rfl | rfl <;> exact ⟨performing (by decide +kernel), by decide +kernel⟩

def tapDesc (kind src take : Nat) : List Byte := let b := packBytes 60 [(0, 1, kind), (1, 1, src), (8, 2, take)]; b ++ leBytes 4 (crc32c b)
def item : FeedItem := ⟨7, 0x4000000000, 64, 0, 0, 0, 0, false, false, none⟩
def stream0 (inbox : List FeedItem) (cur : Option StagedFrame) : StreamRun := ⟨0, tapDesc 1 26 0, inbox, cur, 0, []⟩
def streaming (x : StreamRun) (takes : Sparse Take) (f : List (Fld × Nat)) : State := store { ccp0 with streams := [(0, some x)], takes := takes } ((F.CCP_STR_STAT.STATE 0, 1) :: f)
def frame0 : StagedFrame := ⟨item, zeros 64, 0, 0⟩
theorem test_meets_CaptureStreams :
    (let c := cmdOf 9 []
     let s := doing c [(0, opened)] [] []
     Performs s (0 : Fin 65) (9 : Half).toNat 9 c ∧ (∃ w, s.hostRead c 0 64 (tapDesc 1 26 0) = (.ok (tapDesc 1 26 0), w)) ∧
       s.streamCheck 0 ⟨field (tapDesc 1 26 0) 8 2, tapDesc 1 26 0, [], none, 0, []⟩ = none ∧ s.streamCheck 0 ⟨0, tapDesc 5 26 0, [], none, 0, []⟩ = some 2 ∧
       s.streamCheck 0 ⟨1, tapDesc 1 26 1, [], none, 0, []⟩ = some 5) ∧
    (∀ cur ∈ [none, some frame0], let s : State := store { ccp0 with streams := [(0, some (stream0 [] cur))], cmds := [cmdOf 10 []] } []
      Performs s (0 : Fin 65) (9 : Half).toNat 10 (cmdOf 10 []) ∧ s.stream ((cmdOf 10 []).f 0x20 1) = some (stream0 [] cur)) ∧
    (Performs (doing (cmdOf 10 []) [] [] []) (0 : Fin 65) (9 : Half).toNat 10 (cmdOf 10 []) ∧ (doing (cmdOf 10 []) [] [] []).stream ((cmdOf 10 []).f 0x20 1) = none) ∧
    (let s := streaming (stream0 [item] none) [(0, opened)] []
     s.dark = false ∧ s.stream (0 : Fin 16) = some (stream0 [item] none) ∧ (stream0 [item] none).cur = none ∧ s.get (F.CCP_STR_STAT.STATE (0 : Fin 16)) = 1 ∧
       s.nextFrame (stream0 [item] none) = some (item, s) ∧ (∃ d v, s.streamData (stream0 [item] none) item = (.ok d, v)) ∧
       (∃ f v, s.streamData (stream0 [item] none) { item with bad := true } = (.error f, v))) ∧
    ((store ccp0 []).stream (0 : Fin 16) = none ∧ (streaming (stream0 [] none) [] []).nextFrame (stream0 [] none) = none) ∧
    (let s := streaming (stream0 [] (some frame0)) [(0, opened)] []
     s.dark = false ∧ s.stream (0 : Fin 16) = some (stream0 [] (some frame0)) ∧ (stream0 [] (some frame0)).cur = some frame0 ∧
       (s.moreRuns opened (1 + ((4096 + 64 + 2097151) / 2097152 - 1))).isSome = true ∧ (s.moreRuns opened 3) = none ∧
       (∃ u w, s.writeTake { opened with eruns := [1] } (64 / 2097152 + 2) 4096 (zeros 64) = (.ok u, w)) ∧ (∃ a v, s.touchIndex = (.ok a, v))) ∧
    (∃ e w, (streaming (stream0 [] (some frame0)) [(0, opened)] [(F.MMU_CTL.EN, 1), (F.DRC_CTRL.STATE 0, 2), (F.DRC_MAPCTL.APPLY, 1)]).writeTake { opened with eruns := [1] } (64 / 2097152 + 2) 4096 (zeros 64) = (.error e, w)) := by
  refine ⟨⟨performing (by decide +kernel), read_of (by decide +kernel), by decide +kernel⟩, fun cur h => ?_, ⟨performing (by decide +kernel), by decide +kernel⟩,
    ⟨by decide +kernel, by decide +kernel, by decide +kernel, by decide +kernel, by decide +kernel, ok_of (by decide +kernel), error_of (by decide +kernel)⟩, by decide +kernel,
    ⟨by decide +kernel, by decide +kernel, by decide +kernel, by decide +kernel, by decide +kernel, ok_of (by decide +kernel), ok_of (by decide +kernel)⟩, error_of (by decide +kernel)⟩
  simp only [List.mem_cons, List.not_mem_nil, or_false] at h
  rcases h with rfl | rfl <;> exact ⟨performing (by decide +kernel), by decide +kernel⟩

/-! ### Witnesses: time, triggers, PTP, audio -/

def time (x : TimState) (f : List (Fld × Nat)) : State := { live [145] f with tim := x }
def tim0 : TimState := default
theorem test_meets_TimeBase :
    (∀ hi : Bool, Reaches (time tim0 []) (if hi then R.TIM_INC_HI else R.TIM_INC_LO) (time tim0 [])) ∧ Reads (time tim0 []) R.TIM_NOW_NS (time tim0 []) ∧ Reaches (time tim0 []) R.TIM_STEP (time tim0 []) ∧
    Reaches (time tim0 []) R.TIM_SLEW (time tim0 []) ∧ ((0 : Word).toInt = 0 ∧ (0x80000000 : Word).toInt ≠ 0) ∧
    (∀ neg : Bool, (time { tim0 with slew := some (neg, 1) } []).dark = false ∧ (time { tim0 with slew := some (neg, 1) } []).tim.slew = some (neg, 1) ∧ 1 ≤ (time { tim0 with slew := some (neg, 1) } []).slewStep) ∧
    (time { tim0 with slew := some (true, 2 ^ 40) } []).slewStep < 2 ^ 40 ∧ (time tim0 []).tim.slew = none := by
  refine ⟨fun hi => ?_, (reach (by decide)).reads, reach (by decide), reach (by decide), by decide, by decide +kernel, by decide +kernel, rfl⟩
  cases hi <;> exact reach (by decide)

def armed (f : List (Fld × Nat)) : State := time tim0 ((F.TIM_TRG_CFG.ARM 3, 1) :: f)
/-- A PTP Sync frame of domain 0 for 224.0.1.129 whose reserved bytes are 0. -/
def ptpFrame : List Byte := zeros 12 ++ [0x08, 0x00, 0x45, 0x00, 0x00, 0x3E, 0, 0, 0, 0, 0, 17, 0xD9, 0x2E, 0, 0, 0, 0, 0xE0, 0x00, 0x01, 0x81, 0, 0, 0x01, 0x3F, 0x00, 0x2A, 0, 0] ++ packBytes 34 [(1, 1, 2)]
def ptpState (x : TimState) (f : List (Fld × Nat)) : State := time x ([(F.TIM_PTP.PORTS, 1), (F.ETH_STAT.LINK 0, 1), (F.TIM_PTX_HI.ADDR, 0x40), (F.TIM_PRX_HI.ADDR, 0x40)] ++ f)
def forward0 (ingress : Nat) : PtpForward := ⟨0, ptpFrame, ingress⟩
theorem test_meets_TriggersAndPtp :
    (∀ k : Fin 16, k = 0 ∨ k = 15 → Reaches (time tim0 []) (R.TIM_TRG_CFG k) (time tim0 []) ∧ (time tim0 []).on (F.TIM_TRG_CFG.ARM k) = false) ∧
    (Reaches (armed []) (R.TIM_TRG_CFG (3 : Fin 16)) (armed []) ∧ (armed []).on (F.TIM_TRG_CFG.ARM (3 : Fin 16)) = true) ∧
    ((armed []).dark = false ∧ (armed []).reached (sget 0 (armed []).tim.targets (3 : Fin 16) / fracNs) = true ∧
      (let w := fun s : State => ({ s.bump (F.TIM_TRG_STAT.FIRES 3) with tim := { s.tim with fired := sset none s.tim.fired 3 (some s.time) } } : State)
       (w (armed [])).get (F.TIM_TRG_PERIOD.NS 3) * fracNs + (w (armed [])).get (F.TIM_TRG_PFRAC.FRAC 3) = 0 ∧
         (w (armed [(F.TIM_TRG_PERIOD.NS 3, 5)])).get (F.TIM_TRG_PERIOD.NS 3) * fracNs + (w (armed [(F.TIM_TRG_PERIOD.NS 3, 5)])).get (F.TIM_TRG_PFRAC.FRAC 3) ≠ 0)) ∧
    ((time { tim0 with targets := [(3, 1000 * fracNs)] } []).reached (sget 0 (time { tim0 with targets := [(3, 1000 * fracNs)] } []).tim.targets (3 : Fin 16) / fracNs) = false) ∧
    ((time { tim0 with pulses := [7] } []).dark = false ∧ (time { tim0 with pulses := [7] } []).tim.pulses.contains (7 : Fin 8).val = true ∧ (time tim0 []).tim.pulses.contains (0 : Fin 8).val = false) ∧
    ((7 : Fin 11).val < 8 ∧ (8 : Fin 11).val = 8 ∧ 8 < (9 : Fin 11).val ∧ bits (((time tim0 [(F.GPIO_TIN_CFG.EDGE, 0x4000)]).setBit F.GPIO_TIN_CFG.LEVEL 7 true).get F.GPIO_TIN_CFG.EDGE) (2 * (7 : Fin 11)) 2 % 2 = 1 ∧
      2 ≤ bits (((time tim0 [(F.GPIO_TIN_CFG.EDGE, 0x8000)]).setBit F.GPIO_TIN_CFG.LEVEL 7 false).get F.GPIO_TIN_CFG.EDGE) (2 * (7 : Fin 11)) 2 ∧
      ¬ (bits (((time tim0 []).setBit F.GPIO_TIN_CFG.LEVEL 7 true).get F.GPIO_TIN_CFG.EDGE) (2 * (7 : Fin 11)) 2 % 2 = 1) ∧ false = (time tim0 []).on (F.SLK_SYNCCTL.POL ((9 : Fin 11) - 9))) ∧
    Reads (time tim0 []) (R.TIM_CAP_NS (10 : Fin 11)) (time tim0 []) ∧
    ((time tim0 [(F.TIM_CTL.PPS_EN, 1)]).dark = false ∧ (time tim0 [(F.TIM_CTL.PPS_EN, 1)]).on F.TIM_CTL.PPS_EN = true ∧ (time tim0 []).time.ns.toNat < 3 ∧ (time tim0 []).tim.pps = false ∧
      (time { tim0 with pps := true } []).tim.pps = true) ∧
    ((ptpState tim0 []).dark = false ∧ (ptpState tim0 []).bit F.TIM_PTP.PORTS (0 : Fin 2) = true ∧ (ptpState tim0 []).ethUp (0 : Fin 2) 0 = true ∧ ptpSelected ptpFrame = true ∧ ipDst ptpFrame = ptpIp ∧
      (ptpState tim0 []).on F.TIM_PTP.TC_EN = false ∧ (ptpState tim0 []).on F.TIM_PTP.RX_EN = false ∧ ptpSelected [] = false ∧ (time tim0 []).bit F.TIM_PTP.PORTS (1 : Fin 2) = false) ∧
    ((ptpState tim0 [(F.TIM_PTP.RX_EN, 1), (F.TIM_PTP.DOMAIN, 0)]).on F.TIM_PTP.RX_EN = true ∧ beField (udpData ptpFrame) 4 1 = (ptpState tim0 [(F.TIM_PTP.RX_EN, 1), (F.TIM_PTP.DOMAIN, 0)]).get F.TIM_PTP.DOMAIN) ∧
    Reaches (ptpState tim0 []) R.TIM_PTX_WIDX (ptpState tim0 []) ∧
    ((ptpState tim0 []).get F.TIM_PTX_CTL.RIDX % ringSize ((ptpState tim0 []).get F.TIM_PTX_CTL.LOG2CNT) 4 12 =
      (ptpState tim0 []).get F.TIM_PTX_WIDX.WIDX % ringSize ((ptpState tim0 []).get F.TIM_PTX_CTL.LOG2CNT) 4 12) ∧
    (let s := ptpState tim0 [(F.TIM_PTX_WIDX.WIDX, 1)]
     s.get F.TIM_PTX_CTL.RIDX % ringSize (s.get F.TIM_PTX_CTL.LOG2CNT) 4 12 ≠ s.get F.TIM_PTX_WIDX.WIDX % ringSize (s.get F.TIM_PTX_CTL.LOG2CNT) 4 12 ∧
       (∃ e w, s.engRead ptpReq (s.addr R.TIM_PTX_LO R.TIM_PTX_HI + 128 * 0) 128 = (.ok e, w)) ∧ s.ethUp (field (zeros 128) 0x0E 1 % 2) 0 = true ∧ s.paused (4 * 0) 8 = false ∧
       s.tim.forwards.any (fun w => w.port == 0) = false) ∧
    (∃ x w, (ptpState tim0 [(F.TIM_PTX_WIDX.WIDX, 1), (F.TIM_PTX_HI.ADDR, 0)]).engRead ptpReq 0 128 = (.error x, w)) ∧
    (let s := ptpState { tim0 with forwards := [forward0 0] } []
     s.dark = false ∧ s.tim.forwards.find? (fun w => w.port == (0 : Fin 2).val) = some (forward0 0) ∧ s.txStamp (0 : Fin 2) - (forward0 0).ingress ≤ 1000000 * 65536 ∧ s.paused (4 * (0 : Fin 2)) 8 = false ∧
       s.ethUp (0 : Fin 2) 0 = true ∧ 1000000 * 65536 < ({ s with time := ⟨1, 0, 0⟩ } : State).txStamp (0 : Fin 2) - (forward0 0).ingress) := by
  refine ⟨fun k h => ?_, ⟨reach (by decide), by decide⟩, by decide +kernel, by decide +kernel, by decide, by decide +kernel, (reach (by decide)).reads, by decide, by decide +kernel, by decide +kernel, reach (by decide +kernel),
    by decide +kernel, ⟨by decide +kernel, ok_of (by decide +kernel), by decide +kernel⟩, error_of (by decide +kernel), by decide +kernel⟩
  rcases h with rfl | rfl <;> exact ⟨reach (by decide), by decide⟩

def audio (f : List (Fld × Nat)) : State := live [144, 133, 134] f
def grouped (f : List (Fld × Nat)) : State := audio ([(F.AUD_GRP_CFG.PORTS 0, 1), (F.AUD_P_CFG.EN 0, 1)] ++ f)
def portOn (f : List (Fld × Nat)) : State := { audio f with aud := [(0, { (audio []).audP 0 with running := true })] }
def strState (x : AudStream) : State := { audio [(F.AUD_STR_CFG.EN 0, 1)] with str := [(0, x)] }
theorem test_meets_Audio :
    (Reaches (audio []) R.AUD_PLL_CFG (audio []) ∧ (audio []).anyPort = false ∧ ((audio []).plainWrite 0 R.AUD_PLL_CFG ((0 : Word) ||| 0x80000000)).on F.AUD_PLL_CFG.EN = true ∧
      (audio []).on F.AUD_PLL_CFG.EN = false ∧ (audio [(F.AUD_PLL_CFG.EN, 1)]).on F.AUD_PLL_CFG.EN = true ∧ (grouped []).anyPort = true) ∧
    (∀ n : Fin 8, n = 0 ∨ n = 7 → Reaches (audio []) (R.AUD_P_CFG n) (audio []) ∧ (audio []).on (F.AUD_P_CFG.EN n) = false ∧ ((audio []).plainWrite 0 (R.AUD_P_CFG n) ((0 : Word) ||| 0x80000000)).on (F.AUD_P_CFG.EN n) = true ∧
      ((audio []).plainWrite 0 (R.AUD_P_CFG n) ((0 : Word) &&& 0x7FFFFFFF)).on (F.AUD_P_CFG.EN n) = false ∧ (audio []).groupOf n = none) ∧
    (Reaches (grouped []) (R.AUD_P_CFG (0 : Fin 8)) (grouped []) ∧ (grouped []).on (F.AUD_P_CFG.EN (0 : Fin 8)) = true ∧ (grouped []).groupOf (0 : Fin 8) = some 0) ∧
    (Reaches (grouped []) (R.AUD_GRP_CFG (0 : Fin 2)) (grouped []) ∧
      (let w := fun s : State => s.put (F.AUD_GRP_CFG.PORTS 0) (getBits (((1 : Word) ||| 0x80000000) &&& 0xBFFFFFFF) 7 0)
       (w (grouped [])).get (F.AUD_GRP_CFG.STATE (0 : Fin 2)) = 0 ∧ (w (grouped [])).groupBad (0 : Fin 2) = false ∧ (w (audio [])).groupBad (0 : Fin 2) = true ∧
         (w (grouped [(F.AUD_GRP_CFG.STATE 0, 1)])).get (F.AUD_GRP_CFG.STATE (0 : Fin 2)) ≠ 0 ∧ (((w (grouped [])).put (F.AUD_GRP_CFG.ERR 0) 0).get (routeAud (0 : Fin 2))).testBit 4 = false ∧
         (((w (grouped [(F.TIM_ROUTE.AUD0, 16)])).put (F.AUD_GRP_CFG.ERR 0) 0).get (routeAud (0 : Fin 2))).testBit 4 = true)) ∧
    (∀ tx : Bool, Reaches (audio []) (if tx then R.AUD_P_TXMASK (0 : Fin 8) else R.AUD_P_RXMASK (0 : Fin 8)) (audio [])) ∧ Reaches (audio []) (R.AUD_P_TXR_IDX (0 : Fin 8)) (audio []) ∧
    ((portOn []).dark = false ∧ ((portOn []).audP (0 : Fin 8)).running = true ∧ (portOn []).on (F.AUD_P_CFG.RX_EN (0 : Fin 8)) = false ∧ (portOn [(F.AUD_P_CFG.RX_EN 0, 1)]).on (F.AUD_P_CFG.RX_EN (0 : Fin 8)) = true ∧
      ((audio []).audP (0 : Fin 8)).running = false) ∧
    Reads (audio []) (R.AUD_P_FRAME_LO (7 : Fin 8)) (audio []) ∧
    ((audio []).dark = false ∧ (audio []).on (F.AUD_STR_CFG.EN (0 : Fin 16)) = false ∧ (strState default).on (F.AUD_STR_CFG.EN (0 : Fin 16)) = true ∧ ((strState default).strS 0).recorded = false ∧
      ((strState { (default : AudStream) with recorded := true }).strS 0).recorded = true ∧
      (((strState { (default : AudStream) with recorded := true }).strS 0).sets ++ [[0, 0, 0, 0]]).length < 2 ^ (min ((audio [(F.AUD_STR_CFG.BLK 0, 0)]).get (F.AUD_STR_CFG.BLK 0)) 5 + 8) ∧
      2 ^ (min ((audio [(F.AUD_STR_CFG.BLK 0, 0)]).get (F.AUD_STR_CFG.BLK 0)) 5 + 8) ≤ (List.replicate 255 [0] ++ [[0, 0, 0, 0]]).length) := by
  refine ⟨⟨reach (by decide), by decide +kernel⟩, fun n h => ?_, ⟨reach (by decide), by decide +kernel⟩, ⟨reach (by decide), by decide +kernel⟩, fun tx => ?_, reach (by decide), by decide +kernel, (reach (by decide)).reads, by decide +kernel⟩
  · rcases h with rfl | rfl <;> exact ⟨reach (by decide), by decide +kernel⟩
  · cases tx <;> exact reach (by decide)

/-! ### Witnesses: power, events, debug -/

def power (x : PowerState) (f : List (Fld × Nat)) : State := { live [] f with power := x }
def power0 : PowerState := State.reset.power
/-- A domain in a state, with the PLLs of every domain locked. -/
def domain (d : Nat) (st : Nat) (f : List (Fld × Nat)) : State := live [] ([(F.PWR_DOM.STATE d, st), (F.PWR_PLL.LOCK, 255), (F.PWR_PLL.ON, 255)] ++ f)
def shutOff (hot : Bool) : State := power { power0 with afterShutdown := hot } []
theorem test_meets_PowerDomains :
    ((domain 2 1 []).dark = false ∧ (domain 2 1 []).dom (2 : Fin 148) = 1 ∧ (domain 2 1 []).clocked (2 : Fin 148) = true ∧ (domain 147 0 []).dom (147 : Fin 148) ≠ 1) ∧
    (let s := domain 2 2 [(F.PWR_DOM.POLICY 2, 1)]
     s.dark = false ∧ s.dom (2 : Fin 148) = 2 ∧ s.get (F.PWR_DOM.POLICY (2 : Fin 148)) = 1 ∧ s.on (F.PWR_DOM.HOLD (2 : Fin 148)) = false ∧ s.enabledIn (2 : Fin 148) = false ∧ s.workIn (2 : Fin 148) = false ∧
       s.power.demands.contains (2 : Fin 148).val = false) ∧
    (∀ d : Fin 148, d = 0 ∨ d = 147 → Reaches (live [] []) (R.PWR_DOM d) (live [] []) ∧ ((live [] []).plainWrite 0x1A00 (R.PWR_DOM d) 0x08000000).on (F.PWR_DOM.HOLD d) = true) ∧
    ((live [] []).dark = false ∧ (6 : Fin 32).val < 7 ∧ (7 : Fin 32).val = 7 ∧ 8 ≤ (8 : Fin 32).val ∧ (domain 0 0 [(F.AUD_PLL_CFG.EN, 1)]).bit F.PWR_PLL.ON (6 : Fin 32) = true ∧
      (domain 0 0 [(F.AUD_PLL_CFG.EN, 1)]).bit F.PWR_PLL.ON 7 = true ∧ (domain 0 0 [(F.AUD_PLL_CFG.EN, 1)]).on F.AUD_PLL_CFG.EN = true ∧ (live [] [(F.PWR_PLL.ON, 0)]).bit F.PWR_PLL.ON (7 : Fin 32) = false) ∧
    ((power { power0 with railsOn := true } []).power.railsOn = true) ∧
    (∀ hot : Bool, (shutOff hot).power.heldOff = false ∧ (shutOff hot).power.railsOn = false ∧ (shutOff hot).thermal.holding = false ∧ (shutOff hot).power.mode ≠ .hibernate ∧
      (((({ shutOff hot with power := { (shutOff hot).power with vio := 0 } } : State).put F.PWR_INPUT.VIN_MV 12000).put F.PWR_INPUT.IIN 5).power.afterShutdown = hot)) ∧
    ((live [] []).power.cosy = true ∧ (1 : Fin 3).val < 2 ∧ (2 : Fin 3).val = 2 ∧ (power { power0 with cosy := false } []).power.cosy = false) ∧
    ((live [] [(F.PWR_RAIL.GOOD, 0)]).bit F.PWR_RAIL.GOOD (0 : Fin 5) = false ∧ (live [] [(F.PWR_RAIL.GOOD, 31)]).bit F.PWR_RAIL.GOOD (2 : Fin 5) = true ∧ (2 : Fin 5).val < 3 ∧
      (live [] [(F.PWR_RAIL.GOOD, 31)]).bit F.PWR_RAIL.GOOD (3 : Fin 5) = true ∧ 3 ≤ (3 : Fin 5).val) ∧
    (Reaches (live [] []) R.PWR_RAIL (live [] []) ∧ Reaches (live [] []) R.PWR_CLKSEL (live [] []) ∧ Reaches (live [] []) R.PWR_CTL (live [] [])) ∧
    ((1 : Word).getLsbD 0 = true ∧ (live [] []).bit F.PWR_PLL.LOCK 2 = false ∧ (domain 0 0 []).bit F.PWR_PLL.LOCK 2 = true) ∧
    ((4 : Fin 153).val < 5 ∧ Reads (live [] []) (R.PWR_SRES_LO (4 : Fin 153)) (live [] [])) ∧ (5 ≤ (152 : Fin 153).val ∧ Reads (live [] []) (R.PWR_DRES_LO ((152 : Fin 153) - 5)) (live [] [])) := by
  refine ⟨by decide +kernel, by decide +kernel, fun d h => ?_, by decide +kernel, by decide +kernel, by decide +kernel, by decide +kernel, by decide +kernel, ⟨reach (by decide), reach (by decide), reach (by decide)⟩,
    by decide +kernel, ⟨by decide, (reach (by decide)).reads⟩, ⟨by decide, (reach (by decide)).reads⟩⟩
  rcases h with rfl | rfl <;> exact ⟨reach (by decide), by decide +kernel⟩

def inMode (m : PowerMode) (f : List (Fld × Nat)) : State := power { power0 with mode := m, railsOn := true } f
theorem test_meets_PowerStates :
    ((inMode .run [(F.CPU_CORE_CTL.STATE 1, 2)]).dark = false ∧ (inMode .run [(F.CPU_CORE_CTL.STATE 1, 2)]).power.mode = .run ∧ (inMode .run [(F.CPU_CORE_CTL.STATE 1, 2)]).power.railsOn = true ∧
      (List.range 4).any (fun c => (inMode .run [(F.CPU_CORE_CTL.STATE 1, 2)]).get (F.CPU_CORE_CTL.STATE c) == 1) = false ∧ (inMode .nap []).power.mode ≠ .run) ∧
    (let s := inMode .idle [(F.PWR_CTL.NAP_EN, 1), (F.PWR_WAKE_VEC_HI.ADDR, 1)]
     s.dark = false ∧ s.power.mode = .idle ∧ s.on F.PWR_CTL.NAP_EN = true ∧ s.addr R.PWR_WAKE_VEC_LO R.PWR_WAKE_VEC_HI ≠ 0 ∧ s.quiet = true) ∧
    ((inMode .nap [(F.PWR_CTL.DOZE_EN, 1)]).dark = false ∧ (inMode .nap [(F.PWR_CTL.DOZE_EN, 1)]).power.mode = .nap ∧ (inMode .nap [(F.PWR_CTL.DOZE_EN, 1)]).on F.PWR_CTL.DOZE_EN = true ∧
      (inMode .nap [(F.PWR_CTL.DOZE_EN, 1)]).freezing = false) ∧
    ((inMode .doze [(F.PWR_CTL.HIB_EN, 1)]).dark = false ∧ (inMode .doze [(F.PWR_CTL.HIB_EN, 1)]).on F.PWR_CTL.HIB_EN = true ∧ (inMode .doze [(F.PWR_CTL.HIB_EN, 1)]).freezing = false) ∧
    (∀ m ∈ [PowerMode.idle, .nap, .doze, .hibernate], (inMode m [(F.PWR_WAKE_EN.EN, 255)]).power.cosy = true ∧ ((inMode m [(F.PWR_WAKE_EN.EN, 255)]).latchWake (0 : Fin 9)).freezing = false ∧
      ((inMode m [(F.PWR_WAKE_EN.EN, 255)]).latchWake (0 : Fin 9)).bit F.PWR_WAKE_EN.EN (0 : Fin 9) = true ∧ wakesFrom ((inMode m [(F.PWR_WAKE_EN.EN, 255)]).latchWake (0 : Fin 9)).power.mode (0 : Fin 9) = true ∧
      ((inMode m [(F.PWR_WAKE_EN.EN, 255)]).latchWake (0 : Fin 9)).power.mode = m) ∧
    ((inMode .nap [(F.PWR_WAKE_EN.EN, 0)]).latchWake (8 : Fin 9)).bit F.PWR_WAKE_EN.EN (8 : Fin 9) = false ∧
    ((power { power0 with waking := true } []).dark = false ∧ (power { power0 with waking := true } []).power.waking = true ∧ (power { power0 with waking := true } []).power.mode = .run ∧ (live [] []).power.waking = false) ∧
    ((power { power0 with waking := true, mode := .hibernate } []).power.mode = .hibernate ∧ (power { power0 with waking := true, mode := .hibernate } []).power.waking = true) ∧
    ((-441 : Int) < -440 ∧ sint (BitVec.ofNat 16 (65536 - 441)).toNat 16 < -440 ∧ 1200 < sint (1201 : Half).toNat 16 ∧ -440 ≤ sint (1000 : Half).toNat 16 ∧ sint (1200 : Half).toNat 16 ≤ 1200 ∧ (23 : Fin 26).val < 24 ∧
      24 ≤ (24 : Fin 26).val ∧ 1000 ≤ sint (1000 : Half).toNat 16 ∧ sint (999 : Half).toNat 16 < 1000 ∧
      sget false ({ live [] [] with thermal := { State.reset.thermal with hot125 := [(23, true)] } } : State).thermal.hot125 (23 : Fin 26) = true ∧ sget false (live [] []).thermal.hot125 (23 : Fin 26) = false) ∧
    (({ live [] [] with thermal := { State.reset.thermal with holding := true } } : State).thermal.holding = true ∧ (live [] []).dieHot = false ∧ (live [] []).thermal.holding = false) := by decide +kernel

def event (sev : Fin 8) : Event := ⟨0x1A00, 0x3001, sev, 0, 7⟩
theorem test_meets_FirmwareEvents :
    (Reaches (live [] []) R.EVT_POST (live [] []) ∧ getBits (0xF000 : Word) 15 12 = 0xF ∧ getBits (0x57001 : Word) 15 12 ≠ 0xF ∧
      (live [] []).get F.EVT_CFG.MIN_SEV ≤ (Fin.ofNat 8 (getBits (0x57001 : Word) 18 16)).val ∧ (live [] []).evt.intake.length < 56) ∧
    (∀ hi : Bool, Reaches (live [] []) (if hi then R.EVT_POST_DATA_HI else R.EVT_POST_DATA_LO) (live [] [])) := by
  refine ⟨⟨reach (by decide), by decide +kernel⟩, fun hi => ?_⟩
  cases hi <;> exact reach (by decide)

def recording (l : List Event) (supp : List Suppressed) : State := { live [] [] with evt := { State.reset.evt with intake := l, supp := supp } }
def cleared : State := { live [] [] with evt := { State.reset.evt with clearing := some (3, 10), ring := [(4, some ⟨5, 0x1A00, 0x3001, 2, false, 0, 0⟩), (9, some ⟨6, 0x1A00, 0x3001, 4, false, 0, 0⟩)] } }
theorem test_meets_EventRecorder :
    ((recording [event 5] []).power.cosy = true ∧ (recording [event 5] []).evt.intake = event 5 :: [] ∧ ((recording [event 5] []).evt.slotFor (event 5).sev).isSome = true ∧ (live [] []).evt.intake = []) ∧
    ((recording [] [default]).power.cosy = true ∧ (recording [] [default]).evt.intake = [] ∧ (recording [] [default]).evt.supp = default :: []) ∧
    (Reaches (live [] []) R.EVT_CLEAR (live [] []) ∧ getBits (0x5AFE0007 : Word) 31 16 = 0x5AFE ∧ getBits (0x5AFF0007 : Word) 31 16 ≠ 0x5AFE ∧ (live [] []).on F.EVT_CLEAR.BUSY = false) ∧
    (cleared.evt.clearing = some (3, 10) ∧ (sget none cleared.evt.ring 4).isSome = true ∧ (sget none cleared.evt.ring 9).isSome = true ∧ Canonical none cleared.evt.ring = true ∧ (live [] []).evt.clearing = none) ∧
    Reads (live [] []) R.EVT_LAST_LO (live [] []) :=
  ⟨by decide +kernel, by decide +kernel, ⟨reach (by decide), by decide +kernel⟩, by decide +kernel, (reach (by decide)).reads⟩

def tap (x : JtagState) (f : List (Fld × Nat)) : State := { power { power0 with railsOn := true } f with jtag := x }
def tap0 : JtagState := State.reset.jtag
def halted : List (Fld × Nat) := [(F.DBG_STAT.SRC, 3), (F.DBG_STAT.FROZEN, 1)]
theorem test_meets_FreezeAndDebug :
    ((live [] []).power.cosy = true ∧ (live [] []).power.mode ≠ .hibernate ∧ (live [] []).get F.DBG_STAT.SRC = 0 ∧ (live [] [(F.DBG_STAT.SRC, 1)]).get F.DBG_STAT.SRC ≠ 0) ∧
    (Reaches (live [147] []) R.DBG_CTL (live [147] []) ∧ ((live [147] []).plainWrite 0 R.DBG_CTL ((0 : Word) ||| 0x80000000)).power.cosy = true ∧
      ((live [147] []).plainWrite 0 R.DBG_CTL ((0 : Word) ||| 0x80000000)).power.mode ≠ .hibernate ∧ ((live [147] []).plainWrite 0 R.DBG_CTL ((0 : Word) ||| 0x80000000)).get F.DBG_STAT.SRC = 0) ∧
    ((live [] [(F.DBG_STAT.SRC, 1)]).freezing = true ∧ (live [] [(F.DBG_STAT.SRC, 1)]).on F.DBG_STAT.FROZEN = false ∧ (live [] []).freezing = false) ∧
    ((tap tap0 []).tapOn = true ∧ (tap tap0 []).get F.DBG_STAT.SRC = 0 ∧ (tap tap0 halted).tapOn = true ∧ (tap tap0 halted).get F.DBG_STAT.SRC ≠ 0 ∧ (tap tap0 []).jtag.ir ≠ 0 ∧ (tap { tap0 with ir := 0 } []).jtag.ir = 0) ∧
    (((tap tap0 []).setIr 0x12).on F.DBG_STAT.FROZEN = false ∧ ((tap { tap0 with chain := 0 } halted).setIr 0x12).on F.DBG_STAT.FROZEN = true ∧ ((tap { tap0 with chain := 148 } halted).setIr 0x12).jtag.chain ≤ 148) ∧
    (((tap tap0 []).setIr 0x13).jtag.access.isSome = false ∧ ((tap { tap0 with access := some (0, none) } []).setIr 0x13).jtag.access.isSome = true) ∧
    ((∃ v st w, ((tap tap0 []).setIr 0x13).drCapture = (v, st, w)) ∧ ((tap { tap0 with auto := true } []).setIr 0x14).jtag.access.isSome = false) ∧
    ((tap { tap0 with access := some (0, none) } []).jtag.access = some (0, none) ∧ (tap tap0 []).jtag.access = none ∧ (tap { tap0 with access := some (0, none) } [(F.DBG_STAT.SRC, 1)]).freezing = true ∧
      (tap { tap0 with access := some (0, none) } [(F.DBG_STAT.SRC, 1)]).on F.DBG_STAT.FROZEN = false) ∧
    (power { power0 with cosy := false } []).tapOn = false ∧ (power { power0 with cosy := false } []).power.cosy = false := by
  refine ⟨by decide +kernel, ⟨reach (by decide), by decide +kernel⟩, by decide +kernel, by decide +kernel, by decide +kernel, by decide +kernel, ⟨⟨_, _, _, rfl⟩, by decide +kernel⟩, by decide +kernel, by decide +kernel, by decide +kernel⟩

/-! ### Ill-formed operands are refused -/

def goodAdapt : AdaptOut := ⟨63, List.replicate 7 0, List.replicate 8 0, 0, 32, 32, 32, 32⟩
theorem test_adaptation_ranges : goodAdapt.wellFormed = true ∧ ({ goodAdapt with vga := 64 } : AdaptOut).wellFormed = false ∧ ({ goodAdapt with sweep := List.replicate 8 0 } : AdaptOut).wellFormed = false ∧
    ({ goodAdapt with taps := [] } : AdaptOut).wellFormed = false ∧ ({ goodAdapt with wl := 33 } : AdaptOut).wellFormed = false ∧ ({ goodAdapt with wr := 33 } : AdaptOut).wellFormed = false ∧
    ({ goodAdapt with hu := 33 } : AdaptOut).wellFormed = false ∧ ({ goodAdapt with hd := 33 } : AdaptOut).wellFormed = false := by decide

def goodPlanes : Planes := ⟨2, 2, 1, 8, 8, [[0, 255], [1, 2]], [[7]], [[8]]⟩
theorem test_plane_shapes : goodPlanes.wellFormed = true ∧ ({ goodPlanes with chroma := 4 } : Planes).wellFormed = false ∧ ({ goodPlanes with y := [[0, 256], [1, 2]] } : Planes).wellFormed = false ∧
    ({ goodPlanes with y := [[0, 1]] } : Planes).wellFormed = false ∧ ({ goodPlanes with cb := [[7, 7]] } : Planes).wellFormed = false ∧ ({ goodPlanes with cr := [] } : Planes).wellFormed = false := by decide

theorem test_codec_results : (CodecOut.coded [] [3, 3, 9] [] [] []).wellFormed = true ∧ (CodecOut.coded [] [9, 3] [] [] []).wellFormed = false ∧
    (CodecOut.decoded default false goodPlanes false false 0 [] []).wellFormed = true ∧ (CodecOut.decoded default false { goodPlanes with chroma := 4 } false false 0 [] []).wellFormed = false := by decide

def goodRx : SdiRx := { (default : SdiRx) with links := [[[0, 65535]]] }
theorem test_sdi_ranges : goodRx.wellFormed = true ∧ ({ goodRx with links := [[[65536]]] } : SdiRx).wellFormed = false ∧ ({ goodRx with links := List.replicate 5 [] } : SdiRx).wellFormed = false ∧
    ({ goodRx with groups := List.replicate 5 [] } : SdiRx).wellFormed = false := by decide

def goodRoce : RocePkt := ⟨63, true, 6, true, true, 0xFFFFFF, 0, 0, 0, [], 0⟩
theorem test_roce_ranges : goodRoce.wellFormed = true ∧ ({ goodRoce with qp := 64 } : RocePkt).wellFormed = false ∧ ({ goodRoce with op := 7 } : RocePkt).wellFormed = false ∧
    ({ goodRoce with psn := 0x1000000 } : RocePkt).wellFormed = false ∧ ({ goodRoce with rkey := 0x100000000 } : RocePkt).wellFormed = false ∧ ({ goodRoce with len := 0x100000000 } : RocePkt).wellFormed = false ∧
    ({ goodRoce with va := 0x10000000000000000 } : RocePkt).wellFormed = false := by decide

theorem test_management_ranges : (⟨7, 0, 65535, 0⟩ : MgmtReq).wellFormed = true ∧ (⟨8, 0, 0, 0⟩ : MgmtReq).wellFormed = false ∧ (⟨0, 0x100000000, 0, 0⟩ : MgmtReq).wellFormed = false ∧
    (⟨0, 0, 65536, 0⟩ : MgmtReq).wellFormed = false ∧ (⟨0, 0, 0, 0x100000000⟩ : MgmtReq).wellFormed = false := by decide

theorem test_register_operands : (Instr.registerWrite 0x4 0 false 0x2000).wellFormed = true ∧ (Instr.registerWrite 0x2000000 0 false 0x2000).wellFormed = false ∧ (Instr.registerWrite 4 0 false 65536).wellFormed = false ∧
    (Instr.readClearField 0x2000000 false 0).wellFormed = false ∧ (Instr.readClearField 0 false 65536).wellFormed = false := by decide

theorem test_lane_operands : (Instr.fomUpdate 0 true (33, 0) (0, 0) (List.replicate 8 0) 0).wellFormed = false ∧ (Instr.fomUpdate 0 true (0, 0) (0, 0) [] 0).wellFormed = false ∧
    (Instr.initialAdaptationDone 0 { goodAdapt with vga := 64 }).wellFormed = false ∧ (Instr.idleColumn 0 (List.replicate 33 default)).wellFormed = false ∧
    (Instr.alignColumn 0 (List.replicate 33 default) 0).wellFormed = false ∧ (Instr.genlockSourceReturn 0x100000000).wellFormed = false ∧ (Instr.pictureStart 64).wellFormed = false := by decide

theorem test_memory_operands : (Instr.dramRequest 0 64 true (List.replicate 64 0) 0 false).wellFormed = true ∧ (Instr.dramRequest 0 65 true (List.replicate 64 0) 0 false).wellFormed = false ∧
    (Instr.dramRequest 0 0x4000000000 true (List.replicate 64 0) 0 false).wellFormed = false ∧ (Instr.dramRequest 0 64 true [] 0 false).wellFormed = false ∧
    (Instr.memacc 0 4 true false).wellFormed = false ∧ (Instr.nvsWrite 0 0x10000000000 0 false).wellFormed = false ∧ (Instr.submissionFetch 0 [[]]).wellFormed = false := by decide

theorem test_bypass_codes : (Instr.bypass 0x1F).wellFormed = true ∧ (Instr.bypass 0x12).wellFormed = false := by decide

/-! ### Words: no row of the table gives bits, so no word spells a command -/

theorem test_no_word_spells_a_command (s : State) (n w : Nat) : decodeTableWord n w = none ∧ s.withFetchWord n w = s := ⟨rfl, rfl⟩

/-! ### Results that the spec gives -/

/-- The three lands of 24_package_and_electrical.md's worked example, and a land named in R533. -/
theorem test_lands : (laneLand 13 true).name = "B27" ∧ (clockLand 4 true).name = "B29" ∧ (ddrLand 5 1 54).name = "AD42" ∧ ddrName 5 1 54 = "DDR5B_CA3" ∧
    (⟨2, 27⟩ : Land).signal = "SL_RX13_N" ∧ (⟨48, 48⟩ : Land).name = "BK48" := by decide +kernel

/-- 13_dram.md: the block of address 0x12_3456_7880 under the reset mapping. -/
theorem test_dram_location : State.reset.dramLoc 0x1234567880 = { sub := 0, ch := 4, bg := 1, bank := 3, rank := 1, row := 0x91A2, col := 0x1A0 } := by decide +kernel

/-- 03_serial_lanes.md: wl 21, wr 19, hu 14, hd 16 give FOM 120. -/
theorem test_fom : fomOf 21 19 14 16 = 120 := by decide

/-- 05_ingest_and_raw.md: the shading gain at fx 16, fy 48, and the rounding tie of the product. -/
theorem test_shading : shadeGain ((leBytes 2 4096 ++ List.replicate 14 0) ++ (leBytes 2 4608 ++ List.replicate 14 0) ++ (leBytes 2 4352 ++ List.replicate 14 0) ++ (leBytes 2 5120 ++ List.replicate 14 0)) 2 2 6 6 0 16 48 = 279 / 256 ∧
    rnd (.fin (343 / 512)) = 0x3F2B80 ∧ rnd (.fin (343 / 512 * (279 / 256))) = 0x3F3AE8 := by decide +kernel

/-- 07_colour.md: KLog of 18 % grey and its 10-bit codes. -/
theorem test_klog : rnd (.fin (18 / 100)) = 0x3E3852 ∧ transfer 7 false 0x3E3852 = 0x3EF1D3 ∧ quantise 10 false false 0x3EF1D3 = 483 ∧ quantise 10 true false 0x3EF1D3 = 478 := by decide +kernel

/-- 08_synthesis_and_emulation.md: the inverse shading and black level recover code 3,000. -/
theorem test_synthesis : rnd ((fpVal 0x3F3AE8).scale (256 / 279)) = 0x3F2B80 ∧ fpVal 0x398000 = .fin (1 / 4096) ∧ quantRaw 12 (rnd (.fin 3000)) = (rnd (.fin 3000), false) := by decide +kernel

/-- 18_time.md: a target across the 40-bit wrap. -/
theorem test_wrapped_target : ({ State.reset with time := timeOfNs (2 ^ 40 - 4096) } : State).past 2048 = -6144 ∧ ({ State.reset with time := timeOfNs (2 ^ 40 - 4096) } : State).past 0x8000000000 = 549755809792 ∧
    ({ State.reset with time := timeOfNs (2 ^ 40 - 4096) } : State).reached 0x8000000000 = true := by decide +kernel

/-- 18_time.md: the correctionField across the transparent clock. -/
theorem test_correction : ((corrected (List.replicate 50 0 ++ beBytes 8 0x0A000000 ++ List.replicate 26 0) 93093888).drop 50).take 8 = beBytes 8 0x0F8C8000 ∧
    time16 (timeAdd (timeOfNs 123458021) (1 * 2 ^ 31)) + 76 * 65536 - (time16 (timeOfNs 123456789) - 112 * 65536) = 93093888 := by decide +kernel

/-- 19_audio.md: TDM of 24-bit slots, eight kept: 32 bytes a frame and 127 frames a block; four kept: 16 and 254. -/
theorem test_compaction : (live [] [(F.AUD_P_CFG.FMT 2, 1), (F.AUD_P_CFG.SLOTS 2, 15), (F.AUD_P_CFG.WIDTH 2, 1)]).frameBytes 2 0xA5F0 = 32 ∧
    (live [] [(F.AUD_P_CFG.WIDTH 2, 1)]).framesPerBlock 2 0xA5F0 = 127 ∧ (live [] [(F.AUD_P_CFG.WIDTH 2, 1)]).framesPerBlock 2 0xF = 254 ∧ maskSlots 0xA5F0 = [4, 5, 6, 7, 8, 10, 13, 15] := by decide +kernel

/-- 10_geometry_and_sdi.md: at 1,700,000,000 s TG1 at 60 frames/s stands on an instant, and TG0 at 59.94 is past instant 101,898,101,898. -/
theorem test_frame_instants : (State.reset.put (F.SDI_TG_CFG.RATE 0) 8).tgPeriod 0 = (1001 * 1000000000, 60000) ∧ (State.reset.put (F.SDI_TG_CFG.RATE 0) 8).tgIndex 0 1700000000000000000 = 101898101898 ∧
    (State.reset.put (F.SDI_TG_CFG.RATE 1) 9).tgIndex 1 1700000000000000000 = 102000000000 ∧ (State.reset.put (F.SDI_TG_CFG.RATE 1) 9).tgIndex 1 1699999999999999999 = 101999999999 := by decide +kernel

end Sys2Proof.Tests
end

section
/-! The scope's rules on register accesses (00_scope): what each access type makes of a written bit, what a read clears, what an
access that reaches no register does, and SYS_LOCK and the watchdog. -/

namespace Sys2Proof.Machine

/-! ### What access types do to bits (Table 0.2) -/

/-- The bit that a write of `v` leaves in a field of access type `a` where the register holds `w` (Table 0.2). -/
def Acc.writtenBit (a : Acc) (locked v w : Bool) : Bool :=
  match a with
  | .rw | .rws => v
  | .rwl => if locked then w else v
  | .w1c => w && !v
  | .w1s => w || v
  | .ro | .wo | .rc => w

/-- Writing a field acts on its bits by its access type, and on no bit outside it. -/
theorem FieldDef.getLsbD_apply (f : FieldDef) (hlo : f.lo ≤ f.hi) (hhi : f.hi < 32) (locked : Bool) (v w : Word) {i : Nat} (hi : i < 32) :
    (f.apply locked v w).getLsbD i =
      if f.lo ≤ i ∧ i ≤ f.hi then f.acc.writtenBit locked (v.getLsbD i) (w.getLsbD i) else w.getLsbD i := by
  have bits := getLsbD_fmask hlo hhi i
  unfold FieldDef.apply
  by_cases inside : f.lo ≤ i ∧ i ≤ f.hi
  · rw [if_pos inside]
    rw [decide_eq_true inside] at bits
    cases f.acc <;> cases locked <;> simp [Acc.writtenBit, bits, hi, -BitVec.getLsbD_eq_getElem]
  · rw [if_neg inside]
    rw [decide_eq_false inside] at bits
    cases f.acc <;> cases locked <;> simp [bits, hi, -BitVec.getLsbD_eq_getElem]

/-- Settles O8: `FieldDef.getLsbD_apply`, read off for each access type. -/
theorem fieldsActByAccessType : Obligations.FieldsActByAccessType := by
  intro f locked v w i hlo hhi hi
  rw [f.getLsbD_apply hlo hhi locked v w hi]
  refine ⟨fun outside => if_neg outside, fun inside => ?_⟩
  rw [if_pos inside]
  refine ⟨?_, ?_, ?_, ?_, ?_⟩
  · rintro (h | h | ⟨h, rfl⟩) <;> rw [h] <;> rfl
  · rintro ⟨h, rfl⟩; rw [h]; rfl
  · intro h; rw [h]; rfl
  · intro h; rw [h]; rfl
  · rintro (h | h | h) <;> rw [h] <;> rfl

/-! ### The RC fields of a register (R6, R7) -/

/-- A word with the RC ones of a register's fields cleared. -/
def clearedRc (l : List FieldDef) (w : Word) : Word := l.foldl (fun w f => if f.acc = .rc then w &&& ~~~(fmask f.hi f.lo) else w) w

/-- Bit `i` lies in an RC field. -/
def rcAt (l : List FieldDef) (i : Nat) : Bool := l.any (fun f => decide (f.acc = .rc ∧ f.lo ≤ i ∧ i ≤ f.hi))

theorem rcAt_iff {l : List FieldDef} {i : Nat} : rcAt l i = true ↔ ∃ f ∈ l, f.acc = .rc ∧ f.lo ≤ i ∧ i ≤ f.hi := by simp [rcAt]

theorem getLsbD_clearedRc (l : List FieldDef) (ok : ∀ f ∈ l, f.lo ≤ f.hi ∧ f.hi < 32) (w : Word) (i : Nat) :
    (clearedRc l w).getLsbD i = (w.getLsbD i && !rcAt l i) := by
  unfold clearedRc rcAt
  induction l generalizing w with
  | nil => simp
  | cons f r ih =>
    obtain ⟨hlo, hhi⟩ := ok f (List.mem_cons_self ..)
    rw [List.foldl_cons, ih (fun g hg => ok g (List.mem_cons_of_mem _ hg)), List.any_cons]
    by_cases rc : f.acc = .rc
    · by_cases h : i < 32
      · simp [rc, getLsbD_fmask hlo hhi, h, Bool.and_assoc, -BitVec.getLsbD_eq_getElem]
      · simp [rc, BitVec.getLsbD_of_ge _ i (Nat.le_of_not_lt h)]
    · simp [rc]

theorem clearedRc_of_none {l : List FieldDef} (h : ∀ f ∈ l, f.acc ≠ .rc) (w : Word) : clearedRc l w = w := by
  unfold clearedRc
  exact List.foldlRecOn l _ (motive := fun x : Word => x = w) rfl fun x hx f hf => by rw [if_neg (h f hf), hx]

/-- Outside the steep and caddy blocks, clearing RC fields writes their register alone. -/
theorem reg_clearRc (s : State) {off : Nat} {d : RegDef} (hd : regDefAt off = some d) (hb : off / 0x10000 ∉ [0xF, 0x10]) :
    (s.clearRc off).reg off = clearedRc d.fields (s.reg off) ∧ ∀ off', off' ≠ off → (s.clearRc off).reg off' = s.reg off' := by
  simp only [List.mem_cons, List.not_mem_nil, or_false, not_or] at hb
  have notFree : off ≠ R.CAD_FREE := by unfold R.CAD_FREE; omega
  have notHeld : ¬ (0x100100 ≤ off ∧ off < 0x100180 ∧ off % 0x10 = 8) := by omega
  have notStat : ¬ (0xF0100 ≤ off ∧ off < 0xF0300 ∧ off % 0x10 = 0xC) := by omega
  unfold State.clearRc
  simp only [hd, if_neg notFree, if_neg notHeld, if_neg notStat]
  split
  · rename_i noRc
    exact ⟨(clearedRc_of_none (by simpa using noRc) _).symm, fun _ _ => rfl⟩
  · exact ⟨reg_wreg_same _ _ _, fun _ h => reg_wreg_other s _ h⟩

/-! ### Accesses of the window (R3, R5) -/

theorem exec_registerWrite (off : Nat) (v : Word) (word : Bool) (src : Nat) (s : State) :
    exec (.registerWrite off v word src) s = s.running (s.busWrite src off word v) := rfl

theorem exec_readClearField (off : Nat) (word : Bool) (src : Nat) (s : State) :
    exec (.readClearField off word src) s = s.running (State.answer (s.busRead src off word)) := rfl

/-- An access at which the bus finds no register: no aligned word, or nothing implemented there. -/
def NoRegister (off : Nat) (word : Bool) : Prop := off % 4 ≠ 0 ∨ word = false ∨ implemented off = false

theorem busWrite_noRegister (s : State) (src : Nat) (v : Word) {off : Nat} {word : Bool} (h : NoRegister off word) :
    s.busWrite src off word v = s := by
  unfold NoRegister at h; unfold State.busWrite; rw [if_pos (by simpa using h)]

theorem busRead_noRegister (s : State) (src : Nat) {off : Nat} {word : Bool} (h : NoRegister off word) :
    s.busRead src off word = (0, s) := by
  unfold NoRegister at h; unfold State.busRead; rw [if_pos (by simpa using h)]

theorem busWrite_register (s : State) (src : Nat) (v : Word) {off : Nat} (ha : off % 4 = 0) (hi : implemented off = true) :
    s.busWrite src off true v = s.guardWrite off (regWrite src off v) := by
  unfold State.busWrite; rw [if_neg (by simp [ha, hi])]

theorem busRead_register (s : State) (src : Nat) {off : Nat} (ha : off % 4 = 0) (hi : implemented off = true) :
    s.busRead src off true = s.guardRead off (regRead src off) := by
  unfold State.busRead; rw [if_neg (by simp [ha, hi])]

/-- A word at an offset that holds no register or that the tile's brew leaves reserved is not written (R5, R141). -/
theorem busWrite_absent (s : State) (src : Nat) (v : Word) {off : Nat} (h : implemented off = false ∨ s.ctxPage off = true) :
    s.busWrite src off true v = s := by
  by_cases absent : NoRegister off true
  · exact busWrite_noRegister s src v absent
  · obtain ⟨ha, hi⟩ : off % 4 = 0 ∧ implemented off = true := by simpa [NoRegister] using absent
    have reserved : s.ctxPage off = true := by simpa [hi] using h
    rw [busWrite_register s src v ha hi, State.guardWrite, if_pos reserved]

/-- A word at such an offset reads 0, with no other effect (R5, R141). -/
theorem busRead_absent (s : State) (src : Nat) {off : Nat} (h : implemented off = false ∨ s.ctxPage off = true) :
    s.busRead src off true = (0, s) := by
  by_cases absent : NoRegister off true
  · exact busRead_noRegister s src absent
  · obtain ⟨ha, hi⟩ : off % 4 = 0 ∧ implemented off = true := by simpa [NoRegister] using absent
    have reserved : s.ctxPage off = true := by simpa [hi] using h
    rw [busRead_register s src ha hi, State.guardRead, if_pos reserved]

/-- Settles O9: on the bus the access is the identity, whether the device is dark or not. -/
theorem unimplementedOffsets : Obligations.UnimplementedOffsets := by
  intro off v src s h
  rw [exec_registerWrite, exec_readClearField, busRead_absent s src h]
  refine ⟨running_self (busWrite_absent s src v h), _, rfl, fun awake => ?_⟩
  rw [awake]; rfl

/-- Every register of the steep and caddy blocks takes a plain write. -/
theorem regWrite_plain {off : Nat} (h : off / 0x10000 ∈ [0xF, 0x10]) (src : Nat) (v : Word) (s : State) :
    regWrite src off v s = s.plainWrite src off v := by
  simp only [List.mem_cons, List.not_mem_nil, or_false] at h
  unfold regWrite
  rcases h with h | h <;> rw [h] <;> rfl

/-- In a block whose registers have no read of their own, a read is plain. -/
theorem regRead_plain {off : Nat} (h : off / 0x10000 ∉ [3, 4, 5, 9, 0x14, 0x15, 0x16, 0x18]) (src : Nat) (s : State) :
    regRead src off s = rdPlain src off s := by
  simp only [List.mem_cons, List.not_mem_nil, or_false, not_or] at h
  unfold regRead
  split
  case h_9 => rfl
  all_goals omega

/-- A write that reaches its register is the register's own write. -/
theorem Reaches.registerWrite_next {s u : State} {off : Nat} (h : Reaches s off u) (ha : off % 4 = 0) (hi : implemented off = true)
    (v : Word) (src : Nat) : exec (.registerWrite off v true src) s = .next (regWrite src off v u) := by
  rw [exec_registerWrite, busWrite_register s src v ha hi, h.next]

/-- A read that reaches its register is the register's own read. -/
theorem Reads.readClearField_next {s u : State} {off : Nat} (h : Reads s off u) (ha : off % 4 = 0) (hi : implemented off = true)
    (src : Nat) : exec (.readClearField off true src) s = .next (State.answer (regRead src off u)) := by
  rw [exec_readClearField, busRead_register s src ha hi, h.next]

/-- Settles O10: a reached write is the register's own (`regWrite_plain` in the steep and caddy blocks), a reached read is
plain and clears the RC fields (`reg_clearRc`), and any other access finds no register. -/
theorem windowAccesses : Obligations.WindowAccesses := by
  refine ⟨?ownWrite, ?plainWrite, ?notAligned, ?plainRead⟩
  case ownWrite =>
    intro off v src s u ha hi reaches
    exact ⟨_, reaches.registerWrite_next ha hi v src, rfl⟩
  case plainWrite =>
    intro off v src s u ha hi reaches block
    refine ⟨_, reaches.registerWrite_next ha hi v src, ?_⟩
    rw [regWrite_plain block]
    exact plainWrite_reg u src off v
  case notAligned =>
    intro off v word src s awake h
    have absent : NoRegister off word := h.imp_right .inl
    rw [exec_registerWrite, exec_readClearField, busWrite_noRegister s src v absent, busRead_noRegister s src absent]
    exact ⟨running_next awake s, running_next awake _⟩
  case plainRead =>
    intro off src d s u ha hi reads hd ok block
    simp only [List.mem_cons, List.not_mem_nil, or_false, not_or] at block
    have read : regRead src off u = rdPlain src off u := regRead_plain (by simp [block]) src u
    obtain ⟨cleared, others⟩ := reg_clearRc u hd (by simp [block])
    have bits (i : Nat) : ((u.clearRc off).reg off).getLsbD i = ((u.reg off).getLsbD i && !rcAt d.fields i) := by
      rw [cleared, getLsbD_clearedRc d.fields ok]
    refine ⟨_, reads.readClearField_next ha hi src, ?_⟩
    rw [read]
    refine ⟨rfl, fun f hf rc i hlo hhi => (bits i).trans ?_, fun i free => (bits i).trans ?_, others⟩
    · rw [rcAt_iff.2 ⟨f, hf, rc, hlo, hhi⟩, Bool.not_true, Bool.and_false]
    · have outside : rcAt d.fields i = false :=
        Bool.eq_false_iff.2 fun h => let ⟨f, hf, rc, inside⟩ := rcAt_iff.1 h; free f hf rc inside
      rw [outside, Bool.not_false, Bool.and_true]

/-! ### SYS_LOCK and the watchdog (R9, R499) -/

theorem exec_sysLockSet (s : State) : exec .sysLockSet s = s.running (s.guardWrite R.SYS_LOCK (·.put F.SYS_LOCK.LOCK 1)) := rfl

theorem exec_watchdogKick (v : Half) (src : Nat) (s : State) :
    exec (.watchdogKick v src) s = s.running (s.guardWrite R.CPU_WDOG (wrCpuWdog src (v ++ 0x4B11#16))) := rfl

theorem exec_watchdogExpire (s : State) : exec .watchdogExpire s = execWatchdogExpire s := rfl

theorem plainWrite_mem (s : State) (src off : Nat) (v : Word) : (s.plainWrite src off v).mem = s.mem := by rw [plainWrite_rest]

/-- The low half of a word put together of two. -/
theorem getBits_low_append (hi lo : Half) : getBits (hi ++ lo) 15 0 = lo.toNat := by
  apply Nat.eq_of_testBit_eq
  intro i
  rw [testBit_getBits _ (by decide) (by decide), BitVec.getLsbD_append, BitVec.testBit_toNat, Nat.zero_add]
  by_cases low : i < 16
  · simp [low, Nat.le_of_lt_succ low]
  · simp [low, Nat.not_le.2 (Nat.lt_of_succ_le (Nat.le_of_not_lt low)), BitVec.getLsbD_of_ge lo i (Nat.le_of_not_lt low)]

/-- The key in KICK restarts the count, whatever the register held. -/
theorem wrCpuWdog_key (src : Nat) (v : Half) (u : State) :
    wrCpuWdog src (v ++ 0x4B11#16) u =
      { u.plainWrite src R.CPU_WDOG (v ++ 0x4B11#16) with power := { (u.plainWrite src R.CPU_WDOG (v ++ 0x4B11#16)).power with wdog := 0 } } := by
  unfold wrCpuWdog
  rw [if_pos (.inl (getBits_low_append v 0x4B11#16))]

/-- A one-bit field is on exactly when its bit of the register is set. -/
theorem on_eq_getLsbD (s : State) {f : Fld} (one : f.hi = f.lo) (ok : f.hi < 32) : s.on f = (s.reg f.reg).getLsbD f.lo := by
  have bit := testBit_getBits (s.reg f.reg) (Nat.le_of_eq one.symm) ok 0
  have small := getBits_lt (s.reg f.reg) (Nat.le_of_eq one.symm) ok
  rw [one, Nat.sub_self] at small
  simp only [Nat.zero_le, decide_true, Bool.true_and, Nat.add_zero, Nat.testBit_zero] at bit
  rw [← bit]
  unfold State.on State.get
  rw [Nat.mod_eq_of_lt (by rwa [one])]

/-- A set bit that only W1S fields hold stays set, whatever is written. -/
theorem RegDef.getLsbD_apply_w1s (d : RegDef) (ok : ∀ f ∈ d.fields, f.lo ≤ f.hi ∧ f.hi < 32) (locked : Bool) (v w : Word) {i : Nat}
    (hi : i < 32) (w1s : ∀ f ∈ d.fields, f.lo ≤ i ∧ i ≤ f.hi → f.acc = .w1s) (isSet : w.getLsbD i = true) :
    (d.apply locked v w).getLsbD i = true := by
  unfold RegDef.apply
  refine List.foldlRecOn d.fields _ (motive := fun x : Word => x.getLsbD i = true) isSet fun w isSet f hf => ?_
  rw [f.getLsbD_apply (ok f hf).1 (ok f hf).2 locked v w hi]
  split
  · rename_i inside
    rw [w1s f hf inside, isSet]; rfl
  · exact isSet

/-- The row of CPU_WDOG in the register map (Table 22.11): EN is W1S, and no other field holds its bit. -/
theorem regDefAt_CPU_WDOG :
    regDefAt R.CPU_WDOG = some ⟨"CPU_WDOG", 0x1a0200, [], 0x3e80000, [⟨31, 31, .w1s⟩, ⟨30, 30, .rwl⟩, ⟨29, 16, .rwl⟩, ⟨15, 0, .wo⟩]⟩ := rfl

/-- The watchdog's EN, once set, stays set through a write of its register. -/
theorem on_plainWrite_wdogEnable (u : State) (src : Nat) (v : Word) (h : u.on F.CPU_WDOG.EN = true) :
    (u.plainWrite src R.CPU_WDOG v).on F.CPU_WDOG.EN = true := by
  rw [on_eq_getLsbD _ rfl (by decide)] at h ⊢
  rw [show F.CPU_WDOG.EN.reg = R.CPU_WDOG from rfl, (plainWrite_reg u src R.CPU_WDOG v).1]
  unfold State.written
  rw [regDefAt_CPU_WDOG]
  exact RegDef.getLsbD_apply_w1s _ (by decide) _ v _ (by decide) (by decide) h

/-- Settles O12: each command's own effect, and the register laws for what it leaves. -/
theorem lockAndWatchdog : Obligations.LockAndWatchdog := by
  refine ⟨?lockSet, ?kick, ?interrupt, ?reset⟩
  case lockSet =>
    intro s u reaches
    refine ⟨u.put F.SYS_LOCK.LOCK 1, by rw [exec_sysLockSet, reaches.next], ?_, changesOnly_put u _ 1⟩
    exact get_put_same u (Fld.ok_of rfl) 1
  case kick =>
    intro v src s u reaches
    refine ⟨wrCpuWdog src (v ++ 0x4B11#16) u, by rw [exec_watchdogKick, reaches.next], ?_⟩
    rw [wrCpuWdog_key]
    exact ⟨rfl, on_plainWrite_wdogEnable u src _, plainWrite_mem u src R.CPU_WDOG _, (plainWrite_reg u src R.CPU_WDOG _).2⟩
  case interrupt =>
    intro s awake enabled interrupts
    refine ⟨{ s.irq 9 with power := { s.power with wdog := 0 } }, ?_, ?_, rfl, setBit_mem s F.CPU_IRQ_STAT.SRC 9 true, fun off h => reg_setBit_other s 9 true h⟩
    · rw [exec_watchdogExpire, execWatchdogExpire, running_next awake, enabled, interrupts]; rfl
    · exact bit_setBit_true s (f := F.CPU_IRQ_STAT.SRC) (Fld.ok_of rfl) (by decide)
  case reset =>
    intro s awake enabled resets
    refine ⟨_, ?_, rfl⟩
    rw [exec_watchdogExpire, execWatchdogExpire, running_next awake, enabled, resets]; rfl

end Sys2Proof.Machine
end

section
/-! Loads of the Forat image and commits (chapter 02, R144 to R146): how a load starts, and when a commit pends. -/

namespace Sys2Proof.Machine

/-! ### What a refused write leaves (Table 22.8) -/

theorem posted_postIgnored (s : State) (src : Nat) (sev : Fin 8) (off : Nat) : Posted s (s.postIgnored src sev off) :=
  posted_post s src sev 1 (off % 4096) off

theorem Posted.load {s t : State} (h : Posted s t) : t.load = s.load := by rw [h.rest]

theorem Posted.on {s t : State} (h : Posted s t) {f : Fld} (a : f.reg ≠ R.EVT_LOSS) (b : f.reg ≠ R.PWR_WAKE_CAUSE) : t.on f = s.on f := by
  unfold State.on; rw [h.get a b]

/-! ### FAB_LOAD (R53, R59, R66) -/

theorem exec_fabLoadFull (v : Word) (src : Nat) (s : State) :
    exec (.fabLoadFull v src) s = s.running (s.guardWrite R.FAB_LOAD (wrFabLoad src ((v ||| 1) &&& ~~~(2 : Word)))) := rfl

theorem exec_fabLoadPartial (v : Word) (src : Nat) (s : State) :
    exec (.fabLoadPartial v src) s = s.running (s.guardWrite R.FAB_LOAD (wrFabLoad src (v ||| 3))) := rfl

/-- START = 1 with no load in progress starts one: of the whole image just when PARTIAL = 0. -/
theorem wrFabLoad_idle {u : State} (idle : u.on F.FAB_LOAD_STAT.BUSY = false) (src : Nat) {v : Word} (start : v.getLsbD 0 = true) :
    wrFabLoad src v u = u.startLoad (!v.getLsbD 1) (getBits v 23 16) := by
  simp only [wrFabLoad, start, idle, Bool.not_true, Bool.false_eq_true, if_false]

/-- START = 1 while a load is in progress is ignored with an event (R66). -/
theorem wrFabLoad_busy {u : State} (busy : u.on F.FAB_LOAD_STAT.BUSY = true) (src : Nat) {v : Word} (start : v.getLsbD 0 = true) :
    wrFabLoad src v u = u.postIgnored src 3 R.FAB_LOAD := by
  simp only [wrFabLoad, start, busy, Bool.not_true, Bool.false_eq_true, if_false, if_true]

/-- The word of FAB_LOAD_FULL has START = 1 and PARTIAL = 0. -/
theorem fabLoadFull_bits (v : Word) :
    ((v ||| 1) &&& ~~~(2 : Word)).getLsbD 0 = true ∧ ((v ||| 1) &&& ~~~(2 : Word)).getLsbD 1 = false := by
  constructor <;> simp

/-- The word of FAB_LOAD_PARTIAL has START = 1 and PARTIAL = 1. -/
theorem fabLoadPartial_bits (v : Word) : (v ||| 3).getLsbD 0 = true ∧ (v ||| 3).getLsbD 1 = true := by
  constructor <;> simp

/-- Bits 0 and 1 lie outside REGIONS. -/
theorem getBits_regions_or_three (v : Word) : getBits (v ||| 3) 23 16 = getBits v 23 16 := by
  apply Nat.eq_of_testBit_eq
  intro i
  have high : (3 : Word).getLsbD (16 + i) = false :=
    Nat.testBit_lt_two_pow (Nat.lt_of_lt_of_le (by decide) (Nat.pow_le_pow_right (by decide) (Nat.le_add_right 16 i)))
  rw [testBit_getBits _ (by decide) (by decide), testBit_getBits _ (by decide) (by decide), BitVec.getLsbD_or, high, Bool.or_false]

/-- An ignored FAB_LOAD posts its event and leaves the load in progress. -/
theorem postIgnored_leaves_load {u : State} (busy : u.on F.FAB_LOAD_STAT.BUSY = true) (src : Nat) :
    (u.postIgnored src 3 R.FAB_LOAD).load = u.load ∧ (u.postIgnored src 3 R.FAB_LOAD).on F.FAB_LOAD_STAT.BUSY = true := by
  have posted := posted_postIgnored u src 3 R.FAB_LOAD
  exact ⟨posted.load, (posted.on (by decide) (by decide)).trans busy⟩

/-- Settles O15: both commands write FAB_LOAD with START = 1 (`fabLoadFull_bits`, `fabLoadPartial_bits`), and BUSY decides
between `wrFabLoad_idle` and `wrFabLoad_busy`. -/
theorem loadsStart : Obligations.LoadsStart := by
  refine ⟨?idle, ?busy⟩
  case idle =>
    intro v src s u reaches idle
    obtain ⟨start, whole⟩ := fabLoadFull_bits v
    obtain ⟨start', part⟩ := fabLoadPartial_bits v
    refine ⟨⟨_, by rw [exec_fabLoadFull, reaches.next], ?_⟩, ⟨_, by rw [exec_fabLoadPartial, reaches.next], ?_⟩⟩
    · rw [wrFabLoad_idle idle src start, whole]; rfl
    · rw [wrFabLoad_idle idle src start', part, getBits_regions_or_three]; rfl
  case busy =>
    intro v src s u reaches busy
    have left := postIgnored_leaves_load busy src
    refine ⟨⟨_, ?_, rfl, left⟩, ⟨_, ?_, rfl, left⟩⟩
    · rw [exec_fabLoadFull, reaches.next, wrFabLoad_busy busy src (fabLoadFull_bits v).1]
    · rw [exec_fabLoadPartial, reaches.next, wrFabLoad_busy busy src (fabLoadPartial_bits v).1]

/-! ### Commits (R71, R144 to R146) -/

theorem exec_fabCommit (src : Nat) (v : Word) (s : State) :
    exec (.fabCommit src v) s = s.running (s.guardWrite R.FAB_COMMIT fun u => u.commitWrite src (getBits v 3 0)) := rfl

theorem exec_commitFetchDone (b : Fin 16) (s : State) : exec (.commitFetchDone b) s = s.running (s.commitFetchDone b) := rfl

theorem brew_setBrew_same (s : State) (b : Nat) (x : BrewRun) : (s.setBrew b x).brew b = x := sget_sset_same _ _ _ _

theorem bit_setBrew (s : State) (b : Nat) (x : BrewRun) (f : Fld) (k : Nat) : (s.setBrew b x).bit f k = s.bit f k := rfl

/-- A commit of brew `b` is pending, and its fetches start afresh (R144). -/
def State.commitPends (s : State) (b : Nat) : State :=
  (s.setBit F.FAB_COMMIT_PEND.PEND b true).setBrew b { s.brew b with fetched := false, tabs := [] }

theorem commitPends_pend (s : State) {b : Nat} (small : b < 16) : (s.commitPends b).bit F.FAB_COMMIT_PEND.PEND b = true := by
  unfold State.commitPends
  rw [bit_setBrew]
  exact bit_setBit_true s (Fld.ok_of rfl) (Nat.le_of_lt_succ small)

theorem commitPends_fetched (s : State) (b : Nat) : ((s.commitPends b).brew b).fetched = false := by
  unfold State.commitPends
  rw [brew_setBrew_same]

/-- A commit of a brew that is there and not held pends, and fetches at once where it has no table to fetch. -/
theorem commitWrite_pends {u : State} {b : Nat} {r : BrewRec} (there : u.brewRec b = some r) (free : u.held b = false) (src : Nat) :
    u.commitWrite src b = if (u.commitPends b).commitHasTables r then u.commitPends b else (u.commitPends b).commitFetch r := by
  unfold State.commitWrite
  rw [there]
  simp only [free, Bool.false_eq_true, if_false]
  rfl

/-- A commit of a brew that is absent or held is refused with an event. -/
theorem commitWrite_refused {u : State} {b : Nat} (h : u.brewRec b = none ∨ u.held b = true) (src : Nat) :
    u.commitWrite src b = u.postIgnored src 3 R.FAB_COMMIT := by
  unfold State.commitWrite
  split
  · rfl
  · rename_i r there
    have held : u.held b = true := h.resolve_left (by rw [there]; exact Option.some_ne_none r)
    rw [if_pos held]

theorem commitFetchDone_pending {s : State} {b : Nat} {r : BrewRec} (there : s.brewRec b = some r)
    (pending : s.bit F.FAB_COMMIT_PEND.PEND b = true) (unfetched : (s.brew b).fetched = false) :
    s.commitFetchDone b = s.commitFetch r := by
  unfold State.commitFetchDone
  rw [there]
  simp only [pending, unfetched, Bool.not_false, Bool.and_self, if_true]

theorem commitFetchDone_idle {s : State} {b : Nat}
    (h : s.brewRec b = none ∨ s.bit F.FAB_COMMIT_PEND.PEND b = false ∨ (s.brew b).fetched = true) : s.commitFetchDone b = s := by
  unfold State.commitFetchDone
  split
  · rfl
  · rename_i r there
    refine if_neg fun due => ?_
    obtain ⟨pending, unfetched⟩ : s.bit F.FAB_COMMIT_PEND.PEND b = true ∧ (s.brew b).fetched = false := by simpa using due
    simp [there, pending, unfetched] at h

/-- Settles O17: `State.commitWrite` pends or refuses, and `State.commitFetchDone` fetches or does nothing. -/
theorem commitsPend : Obligations.CommitsPend := by
  refine ⟨?pends, ?refused, ?fetches, ?idle⟩
  case pends =>
    intro src v s u r reaches there free
    have small : getBits v 3 0 < 16 := getBits_lt v (by decide) (by decide)
    refine ⟨commitPends_pend u small, commitPends_fetched u _, _, ?_, rfl⟩
    rw [exec_fabCommit, reaches.next, commitWrite_pends there free src]
    rfl
  case refused =>
    intro src v s u reaches h
    refine ⟨_, ?_, rfl, (posted_postIgnored u src 3 R.FAB_COMMIT).get (by decide) (by decide)⟩
    rw [exec_fabCommit, reaches.next, commitWrite_refused h src]
  case fetches =>
    intro b s r awake there pending unfetched
    refine ⟨_, ?_, rfl⟩
    rw [exec_commitFetchDone, running_next awake, commitFetchDone_pending there pending unfetched]
  case idle =>
    intro b s _ h
    exact running_self (commitFetchDone_idle h)

end Sys2Proof.Machine
end

section
/-! Serial lanes (chapter 3): how a lane enters its link, adapts and comes up, what a figure-of-merit update does, and how a
recalibration starts and ends. -/

namespace Sys2Proof.Machine

/-! ### A command that acts answers its effect -/

/-- Where the block runs, a command answers the state that its effect is known to be. -/
theorem running_to {s t u : State} (awake : s.dark = false) (h : t = u) : ∃ x, s.running t = .next x ∧ x = u :=
  ⟨t, running_next awake t, h⟩

/-- A guarded write that is reached answers the state that its effect is known to be. -/
theorem Reaches.to {s u t : State} {off : Nat} (h : Reaches s off u) {f : State → State} (e : f u = t) :
    ∃ x, s.running (s.guardWrite off f) = .next x ∧ x = t :=
  ⟨f u, h.next f, e⟩

/-! ### A lane's own record and the fields of LNK_STAT -/

theorem lane_setLane_same (s : State) (l : Nat) (x : LaneRun) : (s.setLane l x).lane l = x := sget_sset_same _ _ _ _

theorem reg_setLane (s : State) (l : Nat) (x : LaneRun) (off : Nat) : (s.setLane l x).reg off = s.reg off := rfl

/-- STATE written with a state of Table 3.4 reads as written. -/
theorem laneState_put_same (s : State) (l : Nat) {v : Nat} (h : v < 8) : (s.put (F.LNK_STAT.STATE l) v).laneState l = v :=
  (get_put_same s (Fld.ok_of rfl) v).trans (Nat.mod_eq_of_lt h)

/-! ### Bring-up (R75, R86) -/

/-- A lane as its link takes it: its quad is up, it is in the link at its rate, and it waits for the quad PLL. -/
def State.laneWaits (s : State) (l : Nat) : State :=
  let v := s.bringUp (48 + laneQuad l)
  v.andThen [(·.put (F.LNK_STAT.IN_LINK l) 1), (·.put (F.LNK_STAT.STATE l) 1), (·.put (F.LNK_RATE.MBPS l) (v.laneRate l)),
    (·.putB (F.LNK_RATE.SSC l) (decide (l < 64) && v.on F.LNK_REFCFG.SSC && !v.on F.LNK_REFCFG.SRC))]

theorem laneEnter_idle {s : State} {l : Nat} (taken : s.inLink l = true) (idle : s.laneState l = 0) :
    s.laneEnter l = if (s.laneWaits l).quadPll.testBit (laneQuad l) then (s.laneWaits l).laneClocked l else s.laneWaits l := by
  unfold State.laneEnter
  rw [if_neg (by simp [taken, idle])]
  rfl

theorem laneEnter_other {s : State} {l : Nat} (h : s.inLink l = false ∨ s.laneState l ≠ 0) : s.laneEnter l = s := by
  unfold State.laneEnter
  exact if_pos (by simpa using h)

/-! ### The end of an adaptation (R84, R86) -/

/-- The state on which the final FOM of an adaptation is judged: LNK_FOM shows it, and its codes and taps are in use. -/
def State.adapted (s : State) (l : Nat) (a : AdaptOut) : State := ((s.showAdapt l a).takeAdapt l a).put (F.LNK_STAT.BAND l) s.band

theorem adaptEnds_good {s : State} {l : Nat} {a : AdaptOut} (h : (s.adapted l a).get (F.LNK_DET.LOL_THR l) ≤ adaptFom a) :
    s.adaptEnds l a = (s.adapted l a).laneComesUp l := if_pos h

theorem adaptEnds_low {s : State} {l : Nat} {a : AdaptOut} (h : adaptFom a < (s.adapted l a).get (F.LNK_DET.LOL_THR l)) :
    s.adaptEnds l a =
      (((s.adapted l a).setLane l { (s.adapted l a).lane l with retry := true }).put (F.LNK_STAT.STATE l) 3).post (srcLane l) 4 3 l (adaptFom a) :=
  if_neg (Nat.not_le.2 h)

/-! ### Updates of the figure of merit (R82, R83, R85) -/

theorem adapts_frozen {s : State} {l : Nat} (h : s.get (F.LNK_CTRL.ADAPT l) = 0) : s.adapts l = false := by
  unfold State.adapts
  rw [h]; rfl

/-- How far an update shows an opening to reach: 32 steps at most, and nowhere from a closed centre. -/
def shownReach (centre : Bool) (n : Nat) : Nat := if centre then min n 32 else 0

theorem shownReach_open (n : Nat) : shownReach true n = min n 32 := if_pos rfl

theorem shownReach_closed (n : Nat) : shownReach false n = 0 := if_neg Bool.false_ne_true

theorem fomOf_closed : fomOf 0 0 0 0 = 0 := rfl

/-- An update of a receive lane past bring-up: the data slice follows, LNK_FOM shows the openings, and the detectors judge their
FOM. -/
theorem fomUpdate_past {s : State} {l : Nat} (receives : laneReceives l = true) (linked : s.on (F.LNK_STAT.IN_LINK l) = true)
    (past : s.laneState l = 4) (c : Bool) (wl wr hu hd : Nat) (taps : List Byte) (ofs : Byte) :
    s.fomUpdate l c wl wr hu hd taps ofs =
      ((s.follow l taps ofs).showFom l (shownReach c wl) (shownReach c wr) (shownReach c hu) (shownReach c hd)).detect l
        (fomOf (shownReach c wl) (shownReach c wr) (shownReach c hu) (shownReach c hd)) := by
  unfold State.fomUpdate
  exact if_neg (by simp [receives, linked, past])

theorem fomUpdate_other {s : State} {l : Nat} (h : laneReceives l = false ∨ s.on (F.LNK_STAT.IN_LINK l) = false ∨ s.laneState l ≠ 4)
    (centre : Bool) (wl wr hu hd : Nat) (taps : List Byte) (ofs : Byte) : s.fomUpdate l centre wl wr hu hd taps ofs = s := by
  unfold State.fomUpdate
  exact if_pos (by simpa [or_assoc] using h)

/-- Settles O30: each command acts under its condition (`laneEnter_idle`, `adaptEnds_good`, `adaptEnds_low`, `fomUpdate_past`) and
is the identity elsewhere. -/
theorem lanesComeUp : Obligations.LanesComeUp := by
  refine ⟨?enters, ?stays, ?locks, ?noLock, ?adapts, ?noAdapt, ?retries, ?noRetry, ?updates, ?frozen, ?noUpdate⟩
  case enters =>
    intro l s awake taken idle
    exact running_to awake (laneEnter_idle taken idle)
  case stays =>
    intro l s h
    exact running_self (laneEnter_other h)
  case locks =>
    intro l s awake acquires
    refine ⟨(s.put (F.LNK_STAT.STATE l) 3).setLane l { s.lane l with retry := false }, ?_, ?_, ?_, ?_⟩
    · exact (running_next awake _).trans (congrArg _ (if_pos acquires))
    · exact laneState_put_same s l (by decide)
    · rw [lane_setLane_same]
    · intro off h
      rw [reg_setLane, reg_put_other s 3 h]
  case noLock =>
    intro l s h
    exact running_self (if_neg h)
  case adapts =>
    intro l a s awake adapting noRetry
    refine ⟨s.adaptEnds l a, ?_, adaptEnds_good, adaptEnds_low⟩
    exact (running_next awake _).trans (congrArg _ (if_pos ⟨adapting, by rw [noRetry]; rfl⟩))
  case noAdapt =>
    intro l a s h
    refine running_self (if_neg fun adapting => ?_)
    obtain ⟨state, noRetry⟩ := adapting
    exact h.elim (· state) fun retry => by simp [retry] at noRetry
  case retries =>
    intro l s awake adapting
    exact running_to awake (if_pos adapting)
  case noRetry =>
    intro l s h
    exact running_self (if_neg h)
  case updates =>
    intro l wl wr hu hd taps ofs s awake receives linked past
    have update (c : Bool) := fomUpdate_past receives linked past c wl wr hu hd taps ofs
    refine ⟨running_to awake ((update true).trans ?_), running_to awake ((update false).trans ?_)⟩
    · simp only [shownReach_open]; rfl
    · simp only [shownReach_closed, fomOf_closed, State.showFom]; rfl
  case frozen =>
    intro l s h
    exact adapts_frozen h
  case noUpdate =>
    intro l c wl wr hu hd taps ofs s h
    exact running_self (fomUpdate_other h c wl wr hu hd taps ofs)

/-! ### The start of a recalibration (R89, R91, R92) -/

/-- A recalibration that starts is kept with its mode and the state to go back to. -/
theorem lane_recalStart (s : State) (l mode : Nat) :
    (s.recalStart l mode).lane l = { s.lane l with recal := some mode, back := s.laneState l } := by
  unfold State.recalStart
  simp only [andThen_cons, andThen_nil]
  split <;> exact lane_setLane_same s l _

/-- A recalibration that starts sets BUSY and STATE 5 in service, 6 out of service, where UP clears. -/
theorem recalStart_fields (s : State) (l mode : Nat) :
    (s.recalStart l mode).on (F.LNK_RECAL.BUSY l) = true ∧
    (s.recalStart l mode).laneState l = (if mode = 0 then 5 else 6) ∧
    (mode ≠ 0 → (s.recalStart l mode).on (F.LNK_STAT.UP l) = false) := by
  have apart {f g : Fld} (hf : f.reg = R.LNK_STAT l) (hg : g.reg = R.LNK_RECAL l) : f.Apart g :=
    .inl (by rw [hf, hg]; unfold R.LNK_RECAL R.LNK_STAT; omega)
  unfold State.recalStart
  simp only [andThen_cons, andThen_nil]
  split
  · rename_i inService
    refine ⟨?_, laneState_put_same _ l (by decide), fun out => absurd inService out⟩
    rw [on_put_apart _ (apart rfl rfl), on_put_one _ (Fld.ok_of rfl)]
  · refine ⟨?_, ?_, fun _ => on_put_zero _ (Fld.ok_of rfl)⟩
    · rw [on_put_apart _ (apart rfl rfl), on_put_apart _ (apart rfl rfl), on_put_one _ (Fld.ok_of rfl)]
    · exact (get_put_apart _ (Fld.apart_of (Fld.ok_of rfl) (Fld.ok_of rfl) rfl) 0).trans (laneState_put_same _ l (by decide))

theorem reg_recalStart (s : State) (l mode : Nat) {off : Nat} (a : off ≠ R.LNK_RECAL l) (b : off ≠ R.LNK_STAT l) :
    (s.recalStart l mode).reg off = s.reg off := by
  unfold State.recalStart
  simp only [andThen_cons, andThen_nil]
  split
  · rw [reg_put_other _ _ b, reg_put_other _ _ a, reg_setLane]
  · rw [reg_put_other _ _ b, reg_put_other _ _ b, reg_put_other _ _ a, reg_setLane]

/-- What rejects a START (R92): BUSY, in service a lane that is down or sends only, LOS, a CDR that is not locked. -/
theorem recalRejected_iff (s : State) (l mode : Nat) :
    s.recalRejected l mode = true ↔ s.on (F.LNK_RECAL.BUSY l) = true ∨ (mode = 0 ∧ (s.on (F.LNK_STAT.UP l) = false ∨ laneSendsOnly l = true)) ∨
      s.on (F.LNK_STAT.LOS l) = true ∨ s.laneState l < 3 := by
  simp [State.recalRejected, or_assoc]

/-- A write with START = 1 leaves RESULT 5 or starts a recalibration of the mode that it names. -/
theorem wrLnkRecal_start {v : Word} {mode : Nat} (start : v.getLsbD 0 = true) (named : (if v.getLsbD 1 then 1 else 0) = mode)
    (l : Nat) (s : State) :
    wrLnkRecal l v s = if s.recalRejected l mode then s.put (F.LNK_RECAL.RESULT l) 5 else s.recalStart l mode := by
  simp only [wrLnkRecal, start, named, Bool.not_true, Bool.false_eq_true, if_false]

theorem wrLnkRecal_inService (l : Nat) (s : State) :
    wrLnkRecal l 1 s = if s.recalRejected l 0 then s.put (F.LNK_RECAL.RESULT l) 5 else s.recalStart l 0 :=
  wrLnkRecal_start (by decide) (by decide) l s

theorem wrLnkRecal_outOfService (l : Nat) (s : State) :
    wrLnkRecal l 3 s = if s.recalRejected l 1 then s.put (F.LNK_RECAL.RESULT l) 5 else s.recalStart l 1 :=
  wrLnkRecal_start (by decide) (by decide) l s

/-! ### The end of a recalibration (R90, R91) -/

/-- The lane's recalibration is no longer in progress. -/
def State.recalOver (s : State) (l : Nat) : State := (s.setLane l { s.lane l with recal := none }).put (F.LNK_RECAL.BUSY l) 0

theorem recalDone_none {s : State} {l : Nat} (h : (s.lane l).recal = none) (before : Nat) (a : AdaptOut) : s.recalDone l before a = s := by
  unfold State.recalDone
  rw [h]

/-- What ends follows from the lane and the mode. -/
theorem recalDone_some {s : State} {l mode : Nat} (h : (s.lane l).recal = some mode) (before : Nat) (a : AdaptOut) :
    s.recalDone l before a =
      if laneSendsOnly l then (s.recalOver l).recalSendDone l (s.lane l).back
      else if mode = 0 then (s.recalOver l).recalInDone l (s.lane l).back before a
      else (s.recalOver l).recalOutDone l mode (s.lane l).back before a := by
  unfold State.recalDone
  rw [h]
  rfl

/-- An in-service recalibration on the way to its result: the lane is back in its state and FOM_BEFORE is known. -/
def State.recalBefore (s : State) (l back before : Nat) : State := (s.put (F.LNK_STAT.STATE l) back).put (F.LNK_RECAL.FOM_BEFORE l) before

/-- FOM_AFTER is known too. -/
def State.recalAfter (s : State) (l : Nat) (a : AdaptOut) : State := s.put (F.LNK_RECAL.FOM_AFTER l) (adaptFom a)

theorem recalInDone_low {s : State} {l back before : Nat} (a : AdaptOut)
    (low : before < (s.recalBefore l back before).get (F.LNK_DET.LOS_THR l)) :
    s.recalInDone l back before a = (s.recalBefore l back before).put (F.LNK_RECAL.RESULT l) 3 := if_pos low

theorem recalInDone_kept {s : State} {l back before : Nat} {a : AdaptOut}
    (good : (s.recalBefore l back before).get (F.LNK_DET.LOS_THR l) ≤ before)
    (good' : ((s.recalBefore l back before).recalAfter l a).get (F.LNK_DET.LOS_THR l) ≤ adaptFom a) :
    s.recalInDone l back before a =
      if before ≤ adaptFom a then (((s.recalBefore l back before).recalAfter l a).takeTaps l a.taps a.ofs).put (F.LNK_RECAL.RESULT l) 1
      else ((s.recalBefore l back before).recalAfter l a).put (F.LNK_RECAL.RESULT l) 2 :=
  (if_neg (Nat.not_lt.2 good)).trans (if_neg (Nat.not_lt.2 good'))

/-- LNK_FOM after an out-of-service recalibration, with both FOMs in LNK_RECAL. -/
def State.recalShown (s : State) (l before : Nat) (a : AdaptOut) : State :=
  ((s.put (F.LNK_RECAL.FOM_BEFORE l) before).put (F.LNK_RECAL.FOM_AFTER l) (adaptFom a)).showAdapt l a

/-- One that neither the retrain rule forced nor the link reference overtook, and whose final FOM reaches LOL_THR. -/
theorem recalOutDone_good {s : State} {l mode back before : Nat} {a : AdaptOut} (plain : ¬ (mode = 2 ∨ back = 2))
    (good : (s.recalShown l before a).get (F.LNK_DET.LOL_THR l) ≤ adaptFom a) :
    s.recalOutDone l mode back before a =
      let x := (s.recalShown l before a).put (F.LNK_RECAL.RESULT l) 1
      ((x.takeAdapt l a).put (F.LNK_STAT.BAND l) x.band).laneComesUp l := by
  have ok : decide ((s.recalShown l before a).get (F.LNK_DET.LOL_THR l) ≤ adaptFom a) = true := decide_eq_true good
  unfold State.recalShown at ok ⊢
  simp only [State.recalOutDone, ok, if_neg plain, if_true]

theorem lolTimeout_other {s : State} {l : Nat}
    (h : s.laneState l ≠ 4 ∨ s.on (F.LNK_STAT.LOL l) = false ∨ s.on (F.LNK_STAT.LOS l) = true ∨ s.on (F.LNK_CTRL.AUTO_RETRAIN l) = false ∨
      (s.lane l).recal ≠ none) : s.lolTimeout l = s := by
  refine if_neg fun due => ?_
  obtain ⟨state, lol, noLos, auto, free⟩ := due
  rw [Bool.not_eq_true'] at noLos
  simp [state, lol, noLos, auto, free] at h

/-- Settles O31: START is rejected or starts (`recalRejected_iff`, `recalStart_fields`), and RECAL_DONE ends by the lane's kind, the mode
and the FOMs (`recalDone_some`). -/
theorem lanesRecalibrate : Obligations.LanesRecalibrate := by
  refine ⟨?starts, ?rejected, ?idle, ?ends, ?retrains, ?noRetrain⟩
  case starts =>
    intro l s u reaches free signal locked
    have others (mode off : Nat) (a : off ≠ R.LNK_RECAL l) (b : off ≠ R.LNK_STAT l) : (u.recalStart l mode).reg off = u.reg off :=
      reg_recalStart u l mode a b
    refine ⟨fun up receives => ?_, ?_⟩
    · have accepted : ¬ u.recalRejected l 0 = true := by
        rw [recalRejected_iff]; simp [free, signal, up, receives, locked]
      obtain ⟨busy, state, _⟩ := recalStart_fields u l 0
      refine ⟨u.recalStart l 0, ?_, by rw [lane_recalStart], by rw [lane_recalStart], busy, state, others 0⟩
      exact (reaches.next _).trans (congrArg _ ((wrLnkRecal_inService l u).trans (if_neg accepted)))
    · have accepted : ¬ u.recalRejected l 1 = true := by
        rw [recalRejected_iff]; simp [free, signal, locked]
      obtain ⟨busy, state, down⟩ := recalStart_fields u l 1
      refine ⟨u.recalStart l 1, ?_, by rw [lane_recalStart], by rw [lane_recalStart], busy, state, down (by decide), others 1⟩
      exact (reaches.next _).trans (congrArg _ ((wrLnkRecal_outOfService l u).trans (if_neg accepted)))
  case rejected =>
    intro l s u reaches
    refine ⟨fun h => ?_, fun h => ?_⟩
    · have refused : u.recalRejected l 1 = true := (recalRejected_iff u l 1).2 (h.imp_right .inr)
      exact reaches.to ((wrLnkRecal_outOfService l u).trans (if_pos refused))
    · have refused : u.recalRejected l 0 = true := by
        rw [recalRejected_iff]
        rcases h with busy | noSignal | unfit
        · exact .inl busy
        · exact .inr (.inr (.inl noSignal))
        · exact .inr (.inl ⟨rfl, unfit⟩)
      exact reaches.to ((wrLnkRecal_inService l u).trans (if_pos refused))
  case idle =>
    intro l before a s h
    exact running_self (recalDone_none h before.toNat a)
  case ends =>
    intro l before a s m awake running
    have done := recalDone_some running before.toNat a
    refine ⟨fun sendsOnly => ?_, fun receives inService => ?_, fun receives outOfService back good => ?_⟩
    · rw [if_pos sendsOnly] at done
      exact running_to awake done
    · rw [if_neg (by simp [receives]), if_pos inService] at done
      refine ⟨fun low => ?_, fun good good' better => ?_, fun good good' worse => ?_⟩
      · exact running_to awake (done.trans (recalInDone_low a low))
      · exact running_to awake (done.trans ((recalInDone_kept good good').trans (if_pos better)))
      · exact running_to awake (done.trans ((recalInDone_kept good good').trans (if_neg (Nat.not_le.2 worse))))
    · rw [if_neg (by simp [receives]), if_neg (by simp [outOfService])] at done
      exact running_to awake (done.trans (recalOutDone_good (by simp [outOfService, back]) good))
  case retrains =>
    intro l s awake state lol noLos auto free
    exact running_to awake (if_pos ⟨state, lol, by rw [noLos]; rfl, auto, free⟩)
  case noRetrain =>
    intro l s h
    exact running_self (lolTimeout_other h)

end Sys2Proof.Machine
end

section
/-! Sensor emulation and the sync pins (R204 to R211, R124): how the transmit half exposes, starts, paces and ends frames, and what
the pins' commands do. -/

namespace Sys2Proof.Machine

/-! ### What the transmit half sends leaves every register -/

theorem cfg_setTx (s : State) (p : Nat) (x : TxHalf) : (s.setTx p x).cfg = s.cfg := rfl

theorem txRaw_setTx (s : State) (p : Nat) (x : TxHalf) (q : Nat) : (s.setTx p x).txRaw q = s.txRaw q := rfl

theorem on_setTx (s : State) (p : Nat) (x : TxHalf) (f : Fld) : (s.setTx p x).on f = s.on f := rfl

theorem regs_sendColumn (s : State) (p : Nat) (col : List (Bool × Nat)) : (s.sendColumn p col).regs = s.regs :=
  List.foldlRecOn _ _ (motive := fun t : State => t.regs = s.regs) rfl fun _ kept _ _ => kept

theorem regs_sendPacket (s : State) (p : Nat) (b : List Byte) : (s.sendPacket p b).regs = s.regs :=
  List.foldlRecOn _ _ (motive := fun t : State => t.regs = s.regs) (regs_sendColumn s p _)
    fun t kept col _ => (regs_sendColumn t p col).trans kept

theorem on_sendPacket (s : State) (p : Nat) (b : List Byte) (f : Fld) : (s.sendPacket p b).on f = s.on f := by
  unfold State.on State.get State.reg
  rw [regs_sendPacket]

/-! ### Exposure (R207) -/

/-- A frame kept with the time at which its exposure starts, after those kept. -/
def State.exposes (s : State) (p : Nat) (f : Frame) : State := s.setTx p { s.txH p with exposed := (s.txH p).exposed ++ [(f.tag, s.time)] }

/-- With FOLLOW = 0 a half that is up exposes the first of the waiting frames. -/
theorem emuExposure_waiting {s : State} {p : Nat} {f : Frame} {l : List Frame} (up : s.txState p = 4)
    (free : s.on (F.SLK_EMU.FOLLOW p) = false) (waiting : s.txWaiting p = f :: l) : s.emuExposure p = s.exposure p f := by
  unfold State.emuExposure
  rw [if_neg (by simp [up, free]), waiting]

theorem exposure_column {s : State} {p : Nat} (f : Frame) (version : s.get (F.SLK_STAT.TX_VER p) = 3) (framed : s.txRaw p = false) :
    s.exposure p f = (s.exposes p f).sendControl p (0x4B + 256 * (((s.txH p).next + (s.txH p).exposed.length) % 2 ^ 24)) :=
  if_pos ⟨version, by rw [txRaw_setTx, framed]; rfl⟩

theorem exposure_silent {s : State} {p : Nat} (f : Frame) (h : s.get (F.SLK_STAT.TX_VER p) ≠ 3 ∨ s.txRaw p = true) :
    s.exposure p f = s.exposes p f := by
  refine if_neg fun column => ?_
  obtain ⟨version, framed⟩ := column
  rcases h with other | raw
  · exact other version
  · rw [txRaw_setTx, raw] at framed
    exact Bool.noConfusion framed

/-! ### The start of a frame (R205, R206, R210) -/

/-- The half has taken the first exposed frame, given it its number and its SGEN, and sends it. -/
def State.takesFrame (s : State) (p : Nat) (tag : FrameTag) (rest : List (FrameTag × Time)) (num sgen : Nat) : State :=
  s.setTx p { s.txH p with exposed := rest, next := (num + 1) % 2 ^ 32, cur := some ⟨tag, num, sgen, 0, 0⟩ }

/-- The FS packet of frame `f` at pack tile `t`: number and SGEN as the version has them, and the size (R102). -/
def fsPacket (s : State) (t : Nat) (f : Frame) (v1 : Bool) (num sgen : Nat) : List Byte :=
  packet 0x01 (if v1 then num % 65536 else num) (if v1 then 0 else sgen)
    (leBytes 2 (dimsIn s.cfg f t).1 ++ leBytes 2 (dimsIn s.cfg f t).2.1 ++ leBytes 1 (packOf ⟨f.par, f.tabs⟩ t f.ctx).n ++ zeros 3) false

section
variable {s : State} {p : Nat} {b : BrewRec} {t : Nat} {tag : FrameTag} {x : Time} {rest : List (FrameTag × Time)}
  (tile : s.txTile p = some (b, t)) (exposed : (s.txH p).exposed = (tag, x) :: rest) (idle : (s.txH p).cur = none)
include tile exposed idle

/-- Before its time the frame does not start. -/
theorem emuFs_early (early : (s.now - timeN x).toNat < 2 * s.get (F.SLK_EMU_XS.TICKS p)) : s.emuFs p = s := by
  unfold State.emuFs
  simp only [tile, exposed, idle]
  exact if_pos (.inr early)

variable (up : s.txState p = 4) (due : 2 * s.get (F.SLK_EMU_XS.TICKS p) ≤ (s.now - timeN x).toNat)
include up due

/-- A frame that has left its brew is forgotten. -/
theorem emuFs_gone (gone : (s.inBrew b).find? (fun f => f.tag == tag) = none) :
    s.emuFs p = s.setTx p { s.txH p with exposed := rest } := by
  unfold State.emuFs
  simp only [tile, exposed, idle, gone]
  exact if_neg (not_or.2 ⟨(· up), Nat.not_lt.2 due⟩)

/-- The frame starts with its FS packet, where raw mode, the frame counter and VS_AT_FS are off. -/
theorem emuFs_due {f : Frame} (there : (s.inBrew b).find? (fun f => f.tag == tag) = some f) (framed : (s.echoSgen p f).2.txRaw p = false)
    (noCount : (s.echoSgen p f).2.on (F.SLK_EMU.FCNT_EN p) = false) (noSync : (s.echoSgen p f).2.on (F.SLK_EMU.VS_AT_FS p) = false) :
    s.emuFs p = ((s.echoSgen p f).2.takesFrame p tag rest (s.txH p).next (s.echoSgen p f).1).sendPacket p
      (fsPacket (s.echoSgen p f).2 t f (decide (s.get (F.SLK_STAT.TX_VER p) = 1)) (s.txH p).next (s.echoSgen p f).1) := by
  unfold State.emuFs
  simp only [tile, exposed, idle, there]
  rw [if_neg (not_or.2 ⟨(· up), Nat.not_lt.2 due⟩)]
  generalize s.echoSgen p f = g at framed noCount noSync ⊢
  obtain ⟨sgen, v⟩ := g
  simp only at framed noCount noSync
  simp only [txRaw_setTx, framed, on_sendPacket, on_setTx, cfg_setTx, noCount, noSync, Bool.false_eq_true, if_false, State.takesFrame, fsPacket,
    decide_eq_true_eq]
end

/-! ### Lines (R209) -/

theorem txLine_idle {s : State} {p : Nat} (idle : (s.txH p).cur = none) : s.txLine p = s := by
  unfold State.txLine
  rw [idle]

theorem linePace_idle {s : State} {p : Nat} (idle : (s.txH p).cur = none) : s.linePace p = s := by
  unfold State.linePace
  rw [idle]

/-- One more paced instant of the frame that is being sent has come. -/
def State.pacesTo (s : State) (p : Nat) (c : TxFrame) : State := s.setTx p { s.txH p with cur := some { c with due := c.due + 1 } }

section
variable {s : State} {p : Nat} {c : TxFrame} (sending : (s.txH p).cur = some c)
include sending

theorem txLine_unpaced (unpaced : s.on (F.SLK_EMU.PACE p) = false) : s.txLine p = s.sendLine p := by
  unfold State.txLine
  simp only [sending, unpaced, Bool.not_false, if_true]

theorem linePace_unpaced (unpaced : s.on (F.SLK_EMU.PACE p) = false) : s.linePace p = s := by
  unfold State.linePace
  simp only [sending, unpaced, Bool.not_false, if_true]

/-- With PACE a line that is there goes out late, once its paced instant has passed. -/
theorem txLine_paced (paced : s.on (F.SLK_EMU.PACE p) = true) :
    s.txLine p = if c.next < c.due ∧ (s.txNextLine p).isSome then (s.bump (F.SLK_EMU_STAT.LATE p)).sendLine p else s := by
  unfold State.txLine
  simp only [sending, paced, Bool.not_true, Bool.false_eq_true, if_false]

/-- With PACE the line whose instant it is goes out when it is there, and the instant counts in any case. -/
theorem linePace_paced (paced : s.on (F.SLK_EMU.PACE p) = true) :
    s.linePace p = if c.next = c.due ∧ (s.txNextLine p).isSome then (s.pacesTo p c).sendLine p else s.pacesTo p c := by
  unfold State.linePace
  simp only [sending, paced, Bool.not_true, Bool.false_eq_true, if_false, State.pacesTo]
end

/-! ### The sync pins (R124) -/

theorem vsyncEnd_asserted {s : State} {p : Nat} (asserted : s.tim.vsync.contains p = true) :
    s.vsyncEnd p = ({ s with tim := { s.tim with vsync := s.tim.vsync.filter (· != p) } } : State).emitSens "vsync" p
      [if s.on (F.SLK_SYNCCTL.POL p) then 1 else 0] := if_pos asserted

theorem hsyncPulse_left {s : State} {p n : Nat} (output : s.get (F.SLK_SYNCCTL.MODE p) = 2) (left : sget 0 s.tim.hsync p = n + 1) :
    s.hsyncPulse p = ({ s with tim := { s.tim with hsync := sset 0 s.tim.hsync p n } } : State).emitSens "hsync" p
      [if s.on (F.SLK_SYNCCTL.POL p) then 0 else 1, 1 - if s.on (F.SLK_SYNCCTL.POL p) then 0 else 1] := by
  unfold State.hsyncPulse
  simp only [left]
  exact if_neg (by simp [output])

/-- Settles O29: one lemma for each way in which the half and the pins act or stay. -/
theorem linkSends : Obligations.LinkSends := by
  refine ⟨?exposes, ?starts, ?lines, ?noFrame, ?vsyncEnds, ?hsyncs, ?edge, ?noEdge⟩
  case exposes =>
    intro p s f l awake up free waiting
    have exposes := emuExposure_waiting up free waiting
    exact ⟨fun version framed => running_to awake (exposes.trans (exposure_column f version framed)),
      fun silent => running_to awake (exposes.trans (exposure_silent f silent))⟩
  case starts =>
    intro p s b t tag x rest awake tile exposed idle up
    exact ⟨fun early => running_self (emuFs_early tile exposed idle early),
      fun due f there framed noCount noSync => running_to awake (emuFs_due tile exposed idle up due there framed noCount noSync),
      fun due gone => running_to awake (emuFs_gone tile exposed idle up due gone)⟩
  case lines =>
    intro p s c awake sending
    refine ⟨fun unpaced => ?_, fun paced => ?_⟩
    · exact ⟨running_to awake (txLine_unpaced sending unpaced), running_self (linePace_unpaced sending unpaced)⟩
    · have line := txLine_paced sending paced
      have pace := linePace_paced sending paced
      refine ⟨fun late there => ?_, fun h => ?_, fun onTime there => ?_, fun h => ?_⟩
      · exact running_to awake (line.trans (if_pos ⟨late, there⟩))
      · refine running_self (line.trans (if_neg fun due => ?_))
        obtain ⟨late, there⟩ := due
        exact h.elim (Nat.not_le.2 late) fun missing => by simp [missing] at there
      · exact running_to awake (pace.trans (if_pos ⟨onTime, there⟩))
      · refine running_to awake (pace.trans (if_neg fun due => ?_))
        obtain ⟨onTime, there⟩ := due
        exact h.elim (· onTime) fun missing => by simp [missing] at there
  case noFrame =>
    intro p s idle
    exact ⟨running_self (txLine_idle idle), running_self (linePace_idle idle)⟩
  case vsyncEnds =>
    intro p s awake asserted
    exact running_to awake (vsyncEnd_asserted asserted)
  case hsyncs =>
    intro p s n awake output left
    exact running_to awake (hsyncPulse_left output left)
  case edge =>
    intro p s awake input
    exact running_to awake (if_neg (· input))
  case noEdge =>
    intro p s other
    exact running_self (if_pos other)

end Sys2Proof.Machine
end

section
/-! The sensor link as its receive half sees it (chapter 4): what columns, capability and frame packets and raw code words do, what
the transmit half sends to negotiate, and what turning a half on or off does. -/

namespace Sys2Proof.Machine

/-! ### The receive half's record and the fields -/

@[simp] theorem rxH_setRx_same (s : State) (p : Nat) (x : RxHalf) : (s.setRx p x).rxH p = x := sget_sset_same _ _ _ _

theorem rxH_put (s : State) (f : Fld) (v p : Nat) : (s.put f v).rxH p = s.rxH p := rfl

theorem rxH_bump (s : State) (f : Fld) (p : Nat) : (s.bump f).rxH p = s.rxH p := rfl

theorem rxState_setRx (s : State) (p : Nat) (x : RxHalf) (q : Nat) : (s.setRx p x).rxState q = s.rxState q := rfl

/-! ### IDLE columns (R97, R98) -/

section
variable {col : List (BitVec 2 × BitVec 64)}

/-- A column of one block type has that type. -/
theorem columnType_control {ty : Nat} (control : ∀ e ∈ col, e.1 = 2 ∧ blockType e = ty) (blocks : col ≠ []) : columnType col = some ty := by
  have valid : col.filter (fun b => b.1 == 1 || b.1 == 2) = col := List.filter_eq_self.2 fun e he => by simp [(control e he).1]
  unfold columnType
  rw [valid]
  cases col with
  | nil => exact absurd rfl blocks
  | cons b r =>
    have type : blockType b = ty := (control b (List.mem_cons_self ..)).2
    have all : (b :: r).all (fun e => e.1 == 2 && blockType e == blockType b) = true :=
      List.all_eq_true.2 fun e he => by simp [control e he, type]
    exact (if_pos all).trans (congrArg some type)

/-- A column with a data block, or with two types of blocks, has no type. -/
theorem columnType_mixed {e f : BitVec 2 × BitVec 64} (valid : ∀ e ∈ col, e.1 = 1 ∨ e.1 = 2) (he : e ∈ col) (hf : f ∈ col)
    (mixed : e.1 = 1 ∨ blockType e ≠ blockType f) : columnType col = none := by
  have all : col.filter (fun b => b.1 == 1 || b.1 == 2) = col := List.filter_eq_self.2 fun e he => by simpa using valid e he
  unfold columnType
  rw [all]
  cases col with
  | nil => rfl
  | cons b r =>
    refine if_neg fun same => ?_
    have same (g : BitVec 2 × BitVec 64) (hg : g ∈ b :: r) : g.1 = 2 ∧ blockType g = blockType b := by
      simpa using List.all_eq_true.1 same g hg
    rcases mixed with data | types
    · rw [(same e he).1] at data
      exact absurd data (by decide)
    · exact types ((same e he).2.trans (same f hf).2.symm)

/-- In a column of valid blocks its type alone decides. -/
theorem columnErrors_valid (s : State) (p : Nat) (valid : ∀ e ∈ col, e.1 = 1 ∨ e.1 = 2) (blocks : col ≠ []) :
    s.columnErrors p col = (columnType col).elim 1 fun ty => if s.columnKnown p ty then 0 else 1 := by
  have noBad : col.filter (fun b => b.1 == 0 || b.1 == 3) = [] :=
    List.filter_eq_nil_iff.2 fun e he => by rcases valid e he with h | h <;> simp [h]
  have some : ¬ 0 = col.length := fun h => blocks (List.length_eq_zero_iff.1 h.symm)
  unfold State.columnErrors
  simp only [noBad, List.length_nil, if_neg some, Nat.zero_add]
  cases columnType col <;> rfl

theorem columnErrors_known {s : State} {p ty : Nat} (control : ∀ e ∈ col, e.1 = 2 ∧ blockType e = ty) (known : s.columnKnown p ty = true) :
    s.columnErrors p col = 0 := by
  by_cases blocks : col = []
  · rw [blocks]; rfl
  · rw [columnErrors_valid s p (fun e he => .inr (control e he).1) blocks, columnType_control control blocks, Option.elim_some, if_pos known]

theorem columnErrors_mixed (s : State) (p : Nat) {e f : BitVec 2 × BitVec 64} (valid : ∀ e ∈ col, e.1 = 1 ∨ e.1 = 2) (he : e ∈ col)
    (hf : f ∈ col) (mixed : e.1 = 1 ∨ blockType e ≠ blockType f) : s.columnErrors p col = 1 := by
  rw [columnErrors_valid s p valid (List.ne_nil_of_mem he), columnType_mixed valid he hf mixed, Option.elim_none]
end

/-! ### ALIGN columns (R100) -/

theorem alignOk_iff (s : State) (p : Nat) (col : List (Nat × Nat)) :
    s.alignOk p col = true ↔ col.map (·.1) = List.range (s.cfg.linkLanes p).length ∧ ∀ e ∈ col, e.2 ≤ 16 := by
  simp [State.alignOk]

section
variable {s : State} {p : Nat} {col : List (Nat × Nat)} {gap : Nat}

theorem alignColumn_unseen (h : s.rxSees p = false ∨ s.linkValid p = false) : s.alignColumn p col gap = s := by
  unfold State.alignColumn
  exact if_pos (by simpa using h)

variable (sees : s.rxSees p = true) (valid : s.linkValid p = true)
include sees valid

/-- A bad ALIGN column: the half realigns with SKEW_FAIL, and keeps no good column. -/
theorem alignColumn_bad (bad : ¬ s.alignOk p col = true) :
    s.alignColumn p col gap =
      let v := ((s.put (F.SLK_STAT.SKEW_FAIL p) 1).linkEvent p 4).rxRealign p
      v.setRx p { v.rxH p with good := 0 } := by
  unfold State.alignColumn
  rw [if_neg (by simp [sees, valid]), if_pos (by simpa using bad)]

variable (ok : s.alignOk p col = true)
include ok

/-- A good column that does not follow another at 16,384 columns is kept as the first. -/
theorem alignColumn_first (first : gap ≠ 16384 ∨ (s.rxH p).good = 0) :
    s.alignColumn p col gap = s.setRx p { s.rxH p with good := 1 } := by
  have one : ¬ (gap = 16384 ∧ 0 < (s.rxH p).good) := fun ⟨g, k⟩ => first.elim (· g) (Nat.ne_of_gt k)
  unfold State.alignColumn
  rw [if_neg (by simp [sees, valid]), if_neg (by simp [ok])]
  simp only [if_neg one]
  exact if_pos (.inl (by decide))

/-- The second good column aligns a half that looks for alignment. -/
theorem alignColumn_second (second : gap = 16384) (kept : 0 < (s.rxH p).good) (looks : s.rxState p = 2) :
    s.alignColumn p col gap =
      ((s.setRx p { s.rxH p with good := 2 }).put (F.SLK_STAT.SKEW_FAIL p) 0 |>.setRx p { s.rxH p with good := 2, back := 0, backVer := 0 }).andThen
        [(·.put (F.SLK_STAT.RX_STATE p) (if (s.rxH p).back = 0 then 3 else (s.rxH p).back)), (·.put (F.SLK_STAT.RX_VER p) (s.rxH p).backVer)] := by
  unfold State.alignColumn
  rw [if_neg (by simp [sees, valid]), if_neg (by simp [ok])]
  simp only [second, kept, and_self, if_true, Nat.lt_irrefl, rxState_setRx, looks, ne_eq, not_true, or_self, if_false, rxH_put, rxH_setRx_same]
end

/-! ### XS columns (R107, R110) -/

section
variable {s : State} {p num : Nat}

theorem xsColumn_unseen (h : s.rxSees p = false ∨ s.rxDiscards p = true) : s.xsColumn p num = s := by
  unfold State.xsColumn
  exact if_pos (by simpa using h)

variable (sees : s.rxSees p = true) (keeps : s.rxDiscards p = false)
include sees keeps

theorem xsColumn_kept (up : s.rxState p = 4) (version : s.get (F.SLK_STAT.RX_VER p) = 3) :
    s.xsColumn p num = s.setRx p { s.rxH p with xs := (s.rxH p).xs ++ [(num, timeMinusNs s.time (s.get (F.SLK_XSCOMP.NS p)))] } := by
  unfold State.xsColumn
  rw [if_neg (by simp [sees, keeps]), if_pos ⟨up, version⟩]

theorem xsColumn_unknown (version : s.get (F.SLK_STAT.RX_VER p) ≠ 3) : s.xsColumn p num = s.bump (F.SLK_ERR.ALIGN_ERR p) := by
  unfold State.xsColumn
  rw [if_neg (by simp [sees, keeps]), if_neg fun known => version known.2]
end

/-- Settles O25: what a column adds to ALIGN_ERR (`columnErrors_known`, `columnErrors_mixed`), and the three ways of an ALIGN column. -/
theorem linkColumns : Obligations.LinkColumns := by
  refine ⟨?idle, ?known, ?mixed, ?bad, ?good, ?kept, ?unknown, ?unseen, ?blind⟩
  case idle =>
    intro p col s awake sees keeps
    exact running_to awake (if_pos (by rw [sees, keeps]; rfl))
  case known =>
    intro p ty col s control known
    exact columnErrors_known control known
  case mixed =>
    intro p col s e f valid he hf mixed
    exact columnErrors_mixed s p valid he hf mixed
  case bad =>
    intro p col gap s awake sees valid wrong
    have bad : ¬ s.alignOk p col = true := fun ok => by
      obtain ⟨order, skew⟩ := (alignOk_iff s p col).1 ok
      rcases wrong with other | ⟨e, he, late⟩
      · exact other order
      · exact Nat.not_le.2 late (skew e he)
    refine ⟨_, running_next awake _, alignColumn_bad sees valid bad, ?_⟩
    rw [alignColumn_bad sees valid bad, rxH_setRx_same]
  case good =>
    intro p col gap s awake sees valid order skew
    have ok : s.alignOk p col = true := (alignOk_iff s p col).2 ⟨order, skew⟩
    exact ⟨fun first => running_to awake (alignColumn_first sees valid ok first),
      fun second kept looks => running_to awake (alignColumn_second sees valid ok second kept looks)⟩
  case kept =>
    intro p num s awake sees keeps up version
    exact running_to awake (xsColumn_kept sees keeps up version)
  case unknown =>
    intro p num s awake sees keeps version
    exact running_to awake (xsColumn_unknown sees keeps version)
  case unseen =>
    intro p a num s h
    exact ⟨running_self (if_neg (by rcases h with h | h <;> simp [h])), running_self (xsColumn_unseen h)⟩
  case blind =>
    intro p col gap s h
    exact running_self (alignColumn_unseen h)

/-! ### Capability exchange, as sink (R104) -/

section
variable {s : State} {p mask sel : Nat} {ok : Bool}

theorem capPacket_deaf (h : s.rxSees p = false ∨ s.rxState p < 3) : s.capPacket p mask sel ok = s := by
  unfold State.capPacket
  exact if_pos (by simpa using h)

variable (sees : s.rxSees p = true)
include sees

theorem capPacket_bad (aligned : 3 ≤ s.rxState p) (bad : (ok && s.packetLanesOk p 24) = false) :
    s.capPacket p mask sel ok = s.bump (F.SLK_ERR.CRC p) := by
  unfold State.capPacket
  rw [if_neg (by simp [sees, aligned]), if_pos (by rw [bad]; rfl)]

variable (negotiates : s.rxState p = 3) (lanes : s.packetLanesOk p 24 = true)
include negotiates lanes

/-- No version in common, or a SELECTED above MAXVER. -/
theorem capPacket_refused
    (h : topVersion (mask % 2 ^ max 1 (s.get (F.SLK_RXCFG.MAXVER p))) = 0 ∨ max 1 (s.get (F.SLK_RXCFG.MAXVER p)) < sel) :
    s.capPacket p mask sel true = s.negFail p := by
  unfold State.capPacket
  rw [if_neg (by simp [sees, negotiates]), if_neg (by simp [lanes]), if_neg (by simp [negotiates])]
  exact if_pos h

/-- A version that the half can take, where no control port is named for the version write. -/
theorem capPacket_selected (common : topVersion (mask % 2 ^ max 1 (s.get (F.SLK_RXCFG.MAXVER p))) ≠ 0) (selected : 0 < sel)
    (able : sel ≤ max 1 (s.get (F.SLK_RXCFG.MAXVER p))) (noPort : 4 ≤ s.get (F.SLK_RXCFG.SCP p)) :
    s.capPacket p mask sel true = s.rxUp p sel := by
  have unnamed : decide (s.get (F.SLK_RXCFG.SCP p) < 4) = false := decide_eq_false (Nat.not_lt.2 noPort)
  unfold State.capPacket
  rw [if_neg (by simp [sees, negotiates]), if_neg (by simp [lanes]), if_neg (by simp [negotiates])]
  simp only [common, Nat.not_lt.2 able, or_self, unnamed, Bool.false_and, Bool.false_eq_true, if_false, Nat.ne_of_gt selected]
end

/-! ### Capability exchange and ALIGN columns, as source (R100, R103, R105) -/

section
variable {s : State} {p : Nat}

/-- The half has sent a CAP packet with its versions, lane count and rate, and a free identifier (Table 4.5). -/
def State.capOut (s : State) (p : Nat) : State :=
  let rate := match s.cfg.lanes.find? (fun r => r.link == 2 + p) with | some r => r.rate | none => 0
  s.takeFree.2.sendPacket p (packet 0x10 (2 ^ s.txMax p - 1 + 256 * (s.txH p).ver) (s.takeFree.1.toNat % 2 ^ 32)
    (leBytes 1 (s.cfg.linkLanes (2 + p)).length ++ [0] ++ leBytes 2 rate ++ zeros 4) false)

theorem capSend_other (h : s.txState p ≠ 3) : s.capSend p = s := if_pos h

/-- What follows the packet depends on the version selected and the packets left to send. -/
theorem capSend_negotiating (negotiates : s.txState p = 3) :
    s.capSend p =
      if (s.txH p).ver = 0 then (s.capOut p).setTx p { (s.capOut p).txH p with capSent := true }
      else if (s.txH p).capLeft ≤ 1 then
        ((s.capOut p).setTx p { (s.capOut p).txH p with capSent := true, capLeft := 0 }).txUp p (s.txH p).ver
      else (s.capOut p).setTx p { (s.capOut p).txH p with capSent := true, capLeft := (s.txH p).capLeft - 1 } :=
  if_neg (· negotiates)

theorem txSelect_unselected (negotiates : s.txState p = 3) (unselected : (s.txH p).ver = 0) :
    s.txSelect p = s.setTx p { s.txH p with ver := s.txMax p, capLeft := 16 } := if_pos ⟨negotiates, unselected⟩

theorem txSelect_other (h : s.txState p ≠ 3 ∨ (s.txH p).ver ≠ 0) : s.txSelect p = s :=
  if_neg fun due => h.elim (· due.1) (· due.2)

theorem alignSend_other (h : s.txState p < 3 ∨ s.txRaw p = true) : s.alignSend p = s := if_pos h

theorem alignSend_column (past : 3 ≤ s.txState p) (framed : s.txRaw p = false) :
    s.alignSend p = (s.setTx p { s.txH p with marker := ((s.txH p).marker + 1) % 65536 }).sendColumn p
      ((List.range (s.cfg.linkLanes (2 + p)).length).map (fun k => (true, 0x33 + 256 * k + 65536 * (s.txH p).marker))) :=
  if_neg (by simp [past, framed])
end

/-- Settles O26: one lemma for each way of a CAP packet, a CAP to send, its timeout and an ALIGN column to send. -/
theorem linkNegotiates : Obligations.LinkNegotiates := by
  refine ⟨?bad, ?judged, ?deaf, ?sends, ?noSend, ?selects, ?noSelect, ?aligns, ?noAlign⟩
  case bad =>
    intro p mask sel ok s awake sees aligned bad
    exact running_to awake (capPacket_bad sees aligned bad)
  case judged =>
    intro p mask sel s awake sees negotiates lanes
    exact ⟨fun refused => running_to awake (capPacket_refused sees negotiates lanes refused),
      fun common selected able noPort => running_to awake (capPacket_selected sees negotiates lanes common selected able noPort)⟩
  case deaf =>
    intro p mask sel ok s h
    exact running_self (capPacket_deaf h)
  case sends =>
    intro p s awake negotiates
    have sends := capSend_negotiating negotiates
    refine ⟨_, running_next awake _, fun unselected => ?_, fun selected last => ?_, fun selected more => ?_⟩
    · exact sends.trans (if_pos unselected)
    · exact sends.trans ((if_neg selected).trans (if_pos last))
    · exact sends.trans ((if_neg selected).trans (if_neg (Nat.not_le.2 more)))
  case noSend =>
    intro p s h
    exact running_self (capSend_other h)
  case selects =>
    intro p s awake begun negotiates unselected
    exact running_to awake ((if_pos begun).trans (txSelect_unselected negotiates unselected))
  case noSelect =>
    intro p s h
    refine running_self ?_
    split
    · rename_i begun
      exact txSelect_other (h.resolve_left (by simp [begun]))
    · rfl
  case aligns =>
    intro p s awake past framed
    exact running_to awake (alignSend_column past framed)
  case noAlign =>
    intro p s h
    exact running_self (alignSend_other h)

/-! ### Packets of a frame (R99, R101, R102, R107 to R109) -/

section
variable {s : State} {p : Nat}

section
variable (off : s.rxTakes p = false)
include off

theorem fsPacket_off {num sgen w h depth : Nat} {ok : Bool} : s.fsPacket p num sgen w h depth ok = s := if_pos (by rw [off]; rfl)

theorem ldPacket_off {num sgen : Nat} {payload : List Byte} {ok fits : Bool} : s.ldPacket p num sgen payload ok fits = s :=
  if_pos (by rw [off]; rfl)

theorem fePacket_off {ok : Bool} : s.fePacket p ok = s := if_pos (by rw [off]; rfl)

theorem mdPacket_off {payload : List Byte} {ok : Bool} : s.mdPacket p payload ok = s := if_pos (by rw [off]; rfl)
end

variable (takes : s.rxTakes p = true)
include takes

theorem fsPacket_bad {num sgen w h depth : Nat} {ok : Bool} (bad : (ok && s.packetLanesOk p 24) = false) :
    s.fsPacket p num sgen w h depth ok = s.bump (F.SLK_ERR.CRC p) := by
  unfold State.fsPacket
  rw [if_neg (by simp [takes]), if_pos (by rw [bad]; rfl)]

/-- A good FS closes the open frame, counts the frames its number skips, and starts its own. -/
theorem fsPacket_good {num sgen w h depth : Nat} (lanes : s.packetLanesOk p 24 = true) :
    s.fsPacket p num sgen w h depth true =
      let v2 := decide (2 ≤ s.get (F.SLK_STAT.RX_VER p))
      let n := if v2 then num else num % 65536
      ((s.rxClose p).fsNumber p n).linkStart p n sgen w h depth n v2 := by
  unfold State.fsPacket
  rw [if_neg (by simp [takes]), if_neg (by simp [lanes])]

theorem fePacket_bad {ok : Bool} (bad : (ok && s.packetLanesOk p 16) = false) : s.fePacket p ok = s.bump (F.SLK_ERR.CRC p) := by
  unfold State.fePacket
  rw [if_neg (by simp [takes]), if_neg (by simp [bad])]

theorem fePacket_good (lanes : s.packetLanesOk p 16 = true) : s.fePacket p true = s.rxClose p := by
  unfold State.fePacket
  rw [if_neg (by simp [takes]), if_pos (by rw [lanes]; rfl)]

theorem mdPacket_bad {payload : List Byte} {ok : Bool} (bad : (ok && s.packetLanesOk p (16 + payload.length)) = false) :
    s.mdPacket p payload ok = s.bump (F.SLK_ERR.CRC p) := by
  unfold State.mdPacket
  rw [if_neg (by simp [takes]), if_pos (by rw [bad]; rfl)]

/-- Inside a frame an MD packet is counted below version 3. -/
theorem mdPacket_early {payload : List Byte} {f : LinkFrame} (lanes : s.packetLanesOk p (16 + payload.length) = true)
    (inside : (s.rxH p).frame = some f) (lines : f.full = false) (version : s.get (F.SLK_STAT.RX_VER p) < 3) :
    s.mdPacket p payload true = s.bump (F.SLK_ERR.CRC p) := by
  unfold State.mdPacket
  rw [if_neg (by simp [takes]), if_neg (by simp [lanes]), inside]
  exact if_pos (by simp [lines, version])

/-! ### Lines (R101, R102, R108, R109, R129) -/

section
variable {num sgen : Nat} {payload : List Byte} {fits : Bool} (lanes : s.packetLanesOk p (16 + payload.length) = true)
include lanes

/-- A line of a frame whose FS was lost: the frame is lost, once. -/
theorem ldPacket_frameless (frameless : (s.rxH p).frame = none) :
    s.ldPacket p num sgen payload true fits =
      if (s.rxH p).skipping then s
      else (s.setRx p { s.rxH p with skipping := true, lostSince := (s.rxH p).lostSince + 1 }).linkLost p := by
  unfold State.ldPacket
  rw [if_neg (by simp [takes])]
  simp only [lanes, Bool.and_self, Bool.not_true, Bool.false_eq_true, if_false, frameless]

variable {f : LinkFrame} (inside : (s.rxH p).frame = some f) (lines : f.full = false) (version : 2 ≤ s.get (F.SLK_STAT.RX_VER p))
include inside lines version

/-- From version 2 a line goes where its number says: one that the frame does not wait for is counted. -/
theorem ldPacket_line :
    s.ldPacket p num sgen payload true fits =
      if f.h ≤ num ∨ num < f.next then s.bump (F.SLK_ERR.CRC p)
      else
        let ok := decide (payload.length = lineBytes f.w f.depth)
        ((s.sgenMismatch p sgen f).lineArrives p num (if ok then sampleRow (unpackCodes f.depth f.w payload) else []) (ok && fits)).lineSettled
          p num f := by
  unfold State.ldPacket
  rw [if_neg (by simp [takes])]
  simp only [lanes, Bool.and_self, Bool.not_true, Bool.false_eq_true, if_false, inside, lines, version, decide_true, if_true]

theorem ldPacket_unwanted (unwanted : f.h ≤ num ∨ num < f.next) : s.ldPacket p num sgen payload true fits = s.bump (F.SLK_ERR.CRC p) :=
  (ldPacket_line takes lanes inside lines version).trans (if_pos unwanted)

theorem ldPacket_wanted (unsettled : f.next ≤ num) (within : num < f.h) (length : payload.length = lineBytes f.w f.depth) :
    s.ldPacket p num sgen payload true fits =
      ((s.sgenMismatch p sgen f).lineArrives p num (sampleRow (unpackCodes f.depth f.w payload)) fits).lineSettled p num f := by
  rw [ldPacket_line takes lanes inside lines version, if_neg (not_or.2 ⟨Nat.not_le.2 within, Nat.not_lt.2 unsettled⟩)]
  simp only [length, decide_true, if_true, Bool.true_and]
end

/-- A line that fails its check: from version 2 its place is unknown, at version 1 it was the next one (R102, R108). -/
theorem ldPacket_bad {num sgen : Nat} {payload : List Byte} {fits : Bool} {f : LinkFrame} (inside : (s.rxH p).frame = some f)
    (lines : f.full = false) :
    s.ldPacket p num sgen payload false fits =
      let v := s.bump (F.SLK_ERR.CRC p)
      if 2 ≤ v.get (F.SLK_STAT.RX_VER p) then v else (v.lineLost p).lineSettled p f.next f := by
  unfold State.ldPacket
  rw [if_neg (by simp [takes])]
  simp only [Bool.false_and, Bool.not_false, if_true, rxH_bump, inside, lines, Bool.false_eq_true, if_false, decide_eq_true_eq]
end

/-- Settles O27: one lemma for each way of an FS, an LD, an FE and an MD packet. -/
theorem linkPackets : Obligations.LinkPackets := by
  refine ⟨?bad, ?start, ?ends, ?early, ?line, ?badLine, ?off⟩
  case bad =>
    intro p num sgen w h d pl ok s awake takes
    exact ⟨fun bad => running_to awake (fsPacket_bad takes bad), fun bad => running_to awake (fePacket_bad takes bad),
      fun bad => running_to awake (mdPacket_bad takes bad)⟩
  case start =>
    intro p num sgen w h d s awake takes lanes
    exact running_to awake (fsPacket_good takes lanes)
  case ends =>
    intro p s awake takes lanes
    exact running_to awake (fePacket_good takes lanes)
  case early =>
    intro p pl s f awake takes lanes inside lines version
    exact running_to awake (mdPacket_early takes lanes inside lines version)
  case line =>
    intro p num sgen pl fits s awake takes lanes
    refine ⟨fun frameless first => ?_, fun frameless again => ?_, fun f inside lines version => ⟨fun unwanted => ?_, fun unsettled within length => ?_⟩⟩
    · exact running_to awake ((ldPacket_frameless takes lanes frameless).trans (if_neg (by rw [first]; decide)))
    · exact running_self ((ldPacket_frameless takes lanes frameless).trans (if_pos again))
    · exact running_to awake (ldPacket_unwanted takes lanes inside lines version unwanted)
    · exact running_to awake (ldPacket_wanted takes lanes inside lines version unsettled within length)
  case badLine =>
    intro p num sgen pl fits s f awake takes inside lines
    exact running_to awake (ldPacket_bad takes inside lines)
  case off =>
    intro p num sgen w h d pl ok fits s off
    exact ⟨running_self (fsPacket_off off), running_self (ldPacket_off off), running_self (fePacket_off off), running_self (mdPacket_off off)⟩

/-! ### Code words of a raw link (R113) -/

/-- The receive half of link `p` is on, in raw mode, past its lanes, and `pre` is the preamble of its sync record. -/
structure RawHears (s : State) (p : Nat) (r : SyncRec) (pre : List Nat) : Prop where
  record : s.cfg.syncOf p = some r
  enabled : s.on (F.SLK_RXCFG.ENABLE p) = true
  raw : s.on (F.SLK_RXCFG.RAW p) = true
  past : 2 ≤ s.rxState p
  preamble : r.preambleIs pre = true

/-- The raw link `p` is up, valid and aligned on each of its lanes, and has no line open. -/
structure RawBetweenLines (s : State) (p : Nat) : Prop where
  up : s.rxState p = 4
  valid : s.linkValid p = true
  aligned : s.get (F.SLK_STAT.RAW_ALIGNED p) % 2 ^ (s.cfg.linkLanes p).length = 2 ^ (s.cfg.linkLanes p).length - 1
  between : (s.rxH p).rawLine = false

theorem rawCode_other {s : State} {p : Nat} {pre : List Nat} (h : s.cfg.syncOf p = none ∨ ∃ r, s.cfg.syncOf p = some r ∧ r.preambleIs pre = false)
    (code lanes : Nat) (words : List (List Nat)) (fits : Bool) : s.rawCode p pre code lanes words fits = s := by
  unfold State.rawCode
  rcases h with none | ⟨r, record, other⟩
  · rw [none]
  · rw [record]
    exact if_pos (by simp [other])

section
variable {s : State} {p : Nat} {r : SyncRec} {pre : List Nat} (hears : RawHears s p r pre)
  {code lanes : Nat} {words : List (List Nat)} {fits : Bool}
include hears

/-- Where the link stays aligned with no line open, its code alone says what the word does. -/
theorem rawCode_between {v : State} (seen : v = if code % 2 ^ r.width = r.sol % 2 ^ r.width ∨ code % 2 ^ r.width = r.sof % 2 ^ r.width
      then s.rawSeenNow p lanes else s) (idle : RawBetweenLines v p) :
    s.rawCode p pre code lanes words fits =
      if code % 2 ^ r.width = r.sof % 2 ^ r.width then (v.rxClose p).linkStart p 0 0 r.activeW r.activeH r.depth 0 false
      else if code % 2 ^ r.width = r.sol % 2 ^ r.width then v.setRx p { v.rxH p with rawLine := (v.rxH p).frame.isSome }
      else if code % 2 ^ r.width = r.eol % 2 ^ r.width then v
      else if code % 2 ^ r.width = r.eof % 2 ^ r.width then v.rxClose p
      else v := by
  obtain ⟨record, enabled, raw, past, preamble⟩ := hears
  obtain ⟨up, valid, aligned, between⟩ := idle
  unfold State.rawCode
  rw [record]
  simp only [enabled, raw, past, preamble, decide_true, Bool.and_self, Bool.not_true, Bool.false_eq_true, if_false, ← seen, up, valid, aligned,
    ne_eq, not_true, or_self, between]

/-- SOF closes the open frame and starts one of the active size. -/
theorem rawCode_sof (idle : RawBetweenLines (s.rawSeenNow p lanes) p) (sof : code % 2 ^ r.width = r.sof % 2 ^ r.width) :
    s.rawCode p pre code lanes words fits =
      ((s.rawSeenNow p lanes).rxClose p).linkStart p 0 0 r.activeW r.activeH r.depth 0 false :=
  (rawCode_between hears (if_pos (.inr sof)).symm idle).trans (if_pos sof)

/-- SOL opens a line where a frame is open. -/
theorem rawCode_sol (idle : RawBetweenLines (s.rawSeenNow p lanes) p) (noSof : code % 2 ^ r.width ≠ r.sof % 2 ^ r.width)
    (sol : code % 2 ^ r.width = r.sol % 2 ^ r.width) :
    s.rawCode p pre code lanes words fits =
      (s.rawSeenNow p lanes).setRx p { (s.rawSeenNow p lanes).rxH p with rawLine := ((s.rawSeenNow p lanes).rxH p).frame.isSome } :=
  (rawCode_between hears (if_pos (.inl sol)).symm idle).trans ((if_neg noSof).trans (if_pos sol))

section
variable (idle : RawBetweenLines s p) (noSol : code % 2 ^ r.width ≠ r.sol % 2 ^ r.width) (noSof : code % 2 ^ r.width ≠ r.sof % 2 ^ r.width)
include idle noSol noSof

/-- EOL with no line open does nothing. -/
theorem rawCode_eol (eol : code % 2 ^ r.width = r.eol % 2 ^ r.width) : s.rawCode p pre code lanes words fits = s := by
  rw [rawCode_between hears (if_neg (not_or.2 ⟨noSol, noSof⟩)).symm idle, if_neg noSof, if_neg noSol, if_pos eol]

/-- EOF closes the open frame. -/
theorem rawCode_eof (noEol : code % 2 ^ r.width ≠ r.eol % 2 ^ r.width) (eof : code % 2 ^ r.width = r.eof % 2 ^ r.width) :
    s.rawCode p pre code lanes words fits = s.rxClose p := by
  rw [rawCode_between hears (if_neg (not_or.2 ⟨noSol, noSof⟩)).symm idle, if_neg noSof, if_neg noSol, if_neg noEol, if_pos eof]
end
end

/-! ### Turning a half on and off (R100, R103, R106) -/

section
variable {u : State} {p src : Nat} {v : Word}

theorem wrSlkRxcfg_on (on : (u.plainWrite src (R.SLK_RXCFG p) v).on (F.SLK_RXCFG.ENABLE p) = true) :
    wrSlkRxcfg p src v u =
      if u.on (F.SLK_RXCFG.ENABLE p) then u.plainWrite src (R.SLK_RXCFG p) v
      else ((u.plainWrite src (R.SLK_RXCFG p) v).put (F.SLK_STAT.RX_STATE p) 1).rxLanes p := by
  unfold wrSlkRxcfg
  cases was : u.on (F.SLK_RXCFG.ENABLE p) <;> simp [on]

theorem wrSlkRxcfg_off (was : u.on (F.SLK_RXCFG.ENABLE p) = true)
    (off : (u.plainWrite src (R.SLK_RXCFG p) v).on (F.SLK_RXCFG.ENABLE p) = false) :
    wrSlkRxcfg p src v u = (u.plainWrite src (R.SLK_RXCFG p) v).rxDown p := by
  unfold wrSlkRxcfg
  simp only [was, off, Bool.false_and, Bool.false_eq_true, if_false, Bool.not_false, Bool.and_self, if_true]

theorem wrSlkTxcfg_on (on : (u.plainWrite src (R.SLK_TXCFG p) v).on (F.SLK_TXCFG.ENABLE p) = true) :
    wrSlkTxcfg p src v u =
      if u.on (F.SLK_TXCFG.ENABLE p) then u.plainWrite src (R.SLK_TXCFG p) v
      else ((u.plainWrite src (R.SLK_TXCFG p) v).put (F.SLK_STAT.TX_STATE p) 1).txLanes p := by
  unfold wrSlkTxcfg
  cases was : u.on (F.SLK_TXCFG.ENABLE p) <;> simp [on]

theorem wrSlkTxcfg_off (was : u.on (F.SLK_TXCFG.ENABLE p) = true)
    (off : (u.plainWrite src (R.SLK_TXCFG p) v).on (F.SLK_TXCFG.ENABLE p) = false) :
    wrSlkTxcfg p src v u = (u.plainWrite src (R.SLK_TXCFG p) v).txDown p := by
  unfold wrSlkTxcfg
  simp only [was, off, Bool.false_and, Bool.false_eq_true, if_false, Bool.not_false, Bool.and_self, if_true]
end

/-- Settles O28: what each code word does on an aligned link between lines (`rawCode_between`), and what a write of ENABLE does. -/
theorem rawLinkAndHalves : Obligations.RawLinkAndHalves := by
  refine ⟨?ends, ?opens, ?other, ?rxOn, ?txOn, ?rxOff, ?txOff⟩
  case ends =>
    intro p pre code lanes words fits s r awake record enabled raw up valid preamble n c aligned between noSol noSof
    have hears : RawHears s p r (pre.map (·.toNat)) := ⟨record, enabled, raw, by omega, preamble⟩
    have idle : RawBetweenLines s p := ⟨up, valid, aligned, between⟩
    exact ⟨fun noEol eof => running_to awake (rawCode_eof hears idle noSol noSof noEol eof),
      fun eol => running_self (rawCode_eol hears idle noSol noSof eol)⟩
  case opens =>
    intro p pre code lanes words fits s r awake record enabled raw past preamble v n c up valid aligned between
    have hears : RawHears s p r (pre.map (·.toNat)) := ⟨record, enabled, raw, past, preamble⟩
    have idle : RawBetweenLines (s.rawSeenNow p lanes) p := ⟨up, valid, aligned, between⟩
    exact ⟨fun sof => running_to awake (rawCode_sof hears idle sof), fun noSof sol => running_to awake (rawCode_sol hears idle noSof sol)⟩
  case other =>
    intro p pre code lanes words fits s h
    exact running_self (rawCode_other h code.toNat lanes words fits)
  case rxOn =>
    intro p v src s u reaches w on
    exact ⟨fun was => reaches.to ((wrSlkRxcfg_on on).trans (if_neg (by rw [was]; decide))),
      fun was => reaches.to ((wrSlkRxcfg_on on).trans (if_pos was))⟩
  case txOn =>
    intro p v src s u reaches w on
    exact ⟨fun was => reaches.to ((wrSlkTxcfg_on on).trans (if_neg (by rw [was]; decide))),
      fun was => reaches.to ((wrSlkTxcfg_on on).trans (if_pos was))⟩
  case rxOff =>
    intro p v src s u reaches w was off
    exact reaches.to (wrSlkRxcfg_off was off)
  case txOff =>
    intro p v src s u reaches w was off
    exact reaches.to (wrSlkTxcfg_off was off)

end Sys2Proof.Machine
end

section
/-! Sensor control ports (R114 to R123, R559): how an immediate transaction and a burst start and end, and what an access to a port's
memories and to the target register file does. -/

namespace Sys2Proof.Machine

/-! ### Immediate transactions (R114 to R116, R559) -/

/-- With GO clear, or a transaction in progress, a write of SCP_CMDCTL does nothing. -/
theorem wrScpCmdctl_ignored {u : State} {p : Nat} {v : Word} (h : v.getLsbD 16 = false ∨ u.on (F.SCP_CMDCTL.BUSY p) = true) :
    wrScpCmdctl p v u = u := if_pos (by simpa using h)

/-- The transaction of SCP_CMD waits behind those that wait, and BUSY shows it. -/
def State.immQueued (u : State) (p : Nat) (read : Bool) : State :=
  (u.put (F.SCP_CMDCTL.BUSY p) 1).setScp p
    { u.scpP p with imm := (u.scpP p).imm ++ [⟨none, read, u.get (F.SCP_CMD.ADDR p), u.get (F.SCP_CMD.DATA p)⟩] }

/-- GO on a port that is free ends at once with a status, or queues the transaction on an enabled controller. -/
theorem wrScpCmdctl_go {u : State} {p : Nat} {v : Word} (go : v.getLsbD 16 = true) (free : u.on (F.SCP_CMDCTL.BUSY p) = false) :
    wrScpCmdctl p v u =
      if u.on (F.SCP_CFG.ENABLE p) = false then u.put (F.SCP_CMDCTL.STATUS p) 4
      else if u.on (F.SCP_CFG.ROLE p) = true then u.put (F.SCP_CMDCTL.STATUS p) 3
      else (u.immQueued p (v.getLsbD 17)).scpNext p := by
  unfold wrScpCmdctl
  rw [if_neg (by simp [go, free])]
  simp only [Bool.not_eq_true']
  rfl

/-- Firmware's transaction is over with a status. -/
def State.immOver (s : State) (p status : Nat) : State :=
  ((s.setScp p { s.scpP p with cur := none }).put (F.SCP_CMDCTL.BUSY p) 0).put (F.SCP_CMDCTL.STATUS p) status

/-- Firmware's transaction ends with a status, a good read with its data, and the port takes the next. -/
theorem immEnds_firmware {s : State} {p a d : Nat} {read : Bool} (running : (s.scpP p).cur = some (.imm ⟨none, read, a, d⟩)) (status rdata : Nat) :
    s.immEnds p status rdata =
      (if read ∧ status = 0 then
        (s.immOver p status).put (F.SCP_CMDCTL.RDATA p) (rdata % 2 ^ (8 * (s.immOver p status).dataBytes p))
      else s.immOver p status).scpNext p := by
  unfold State.immEnds
  simp only [running]
  rfl

theorem immEnds_idle {s : State} {p : Nat} (idle : (s.scpP p).cur = none) (status rdata : Nat) : s.immEnds p status rdata = s := by
  unfold State.immEnds
  simp only [idle]

/-! ### The end of a burst entry (R119, R120, R559) -/

theorem entryEnds_idle {s : State} {p : Nat} (idle : (s.scpP p).cur = none) (ok : Bool) (cause : Nat) : s.entryEnds p ok cause = s := by
  unfold State.entryEnds
  simp only [idle]

section
variable {s : State} {p k i : Nat} (sending : (s.scpP p).cur = some (.entry k i))
include sending

theorem entryEnds_failed (cause : Nat) : s.entryEnds p false cause = s.burstStops p k i cause := by
  unfold State.entryEnds
  simp only [sending]
  rfl

/-- An acknowledged entry is counted; the burst ends where it was disarmed, where it is complete and where the port is disabled by
then, and goes on else. -/
theorem entryEnds_sent {b : ScpBurst} {ok : Bool} (burst : sget none (s.scpP p).bursts k = some b) (sent : ok = true) (cause : Nat) :
    s.entryEnds p ok cause =
      let w := s.put (F.SCP_BPROG.SENT p k) (i + 1)
      if (s.scpP p).abort then w.burstEnds p k 4
      else if b.count ≤ i + 1 then w.burstEnds p k 3
      else if !w.isController p then w.burstEnds p k 7
      else w.sendEntry p k (i + 1) := by
  unfold State.entryEnds
  simp only [sending, burst, sent, Bool.not_true, Bool.false_eq_true, if_false]
end

/-- SPI has no acknowledgement: what an entry or a transaction answers counts on I2C alone. -/
theorem acknowledged {s : State} {p : Nat} {ack : Bool} (h : ack = true ∨ s.on (F.SCP_CFG.BUS p) = false) :
    (ack || !s.on (F.SCP_CFG.BUS p)) = true := by
  rcases h with h | h <;> simp [h]

theorem not_acknowledged {s : State} {p : Nat} (i2c : s.on (F.SCP_CFG.BUS p) = true) : (false || !s.on (F.SCP_CFG.BUS p)) = false := by
  rw [i2c]; rfl

/-- What clock stretching ends (R115). -/
theorem exec_scpStretchTimeout_imm {p : Fin 4} {s : State} {t : ScpTxn} (running : (s.scpP p).cur = some (.imm t)) :
    exec (.scpStretchTimeout p) s = s.running (s.immEnds p 2 0) := by
  change execScpStretchTimeout p s = _
  unfold execScpStretchTimeout
  rw [running]

theorem exec_scpStretchTimeout_entry {p : Fin 4} {s : State} {k i : Nat} (sending : (s.scpP p).cur = some (.entry k i)) :
    exec (.scpStretchTimeout p) s = s.running (s.entryEnds p false 1) := by
  change execScpStretchTimeout p s = _
  unfold execScpStretchTimeout
  rw [sending]

theorem exec_scpStretchTimeout_idle {p : Fin 4} {s : State} (idle : (s.scpP p).cur = none) :
    exec (.scpStretchTimeout p) s = s.running s := by
  change execScpStretchTimeout p s = _
  unfold execScpStretchTimeout
  rw [idle]

/-- Settles O33: a write of SCP_CMDCTL is ignored or goes (`wrScpCmdctl_go`), and firmware's transaction ends with its status
(`immEnds_firmware`). -/
theorem immediateTransactions : Obligations.ImmediateTransactions := by
  refine ⟨?goes, ?ignored, ?ends, ?entry, ?idle⟩
  case goes =>
    intro p v s u reaches go free
    have goes := wrScpCmdctl_go go free
    refine ⟨fun disabled => ?_, fun enabled target => ?_, fun enabled controller => ?_⟩
    · exact reaches.to (goes.trans (if_pos disabled))
    · exact reaches.to (goes.trans ((if_neg (by simp [enabled])).trans (if_pos target)))
    · exact reaches.to (goes.trans ((if_neg (by simp [enabled])).trans (if_neg (by simp [controller]))))
  case ignored =>
    intro p v s u reaches h
    exact (reaches.next _).trans (congrArg _ (wrScpCmdctl_ignored h))
  case ends =>
    intro p rdata s read a d awake running
    have ends := immEnds_firmware running
    refine ⟨fun i2c => ?_, fun ack good => ?_, ?_⟩
    · refine running_to awake ?_
      rw [not_acknowledged i2c, if_neg Bool.false_ne_true, ends, if_neg (by simp)]
      rfl
    · refine running_to awake ?_
      rw [acknowledged good, if_pos rfl, ends]
      simp only [and_true]
      rfl
    · rw [exec_scpStretchTimeout_imm running]
      exact running_to awake ((ends 2 0).trans (congrArg (State.scpNext · p) (if_neg (by simp))))
  case entry =>
    intro p s k i awake sending
    rw [exec_scpStretchTimeout_entry sending]
    exact running_to awake (entryEnds_failed sending 1)
  case idle =>
    intro p ack rdata s idle
    exact ⟨running_self (immEnds_idle idle _ _), (exec_scpStretchTimeout_idle idle).trans (running_self rfl)⟩

/-! ### Arming, disarming and releasing a burst (R117, R118, R120, R559) -/

/-- ARM, bit 31, leaves DISARM as the written word has it. -/
theorem getLsbD_or_arm (v : Word) : (v ||| 0x80000000).getLsbD 30 = v.getLsbD 30 := by
  rw [BitVec.getLsbD_or]; simp

theorem getLsbD_or_disarm (v : Word) : (v ||| 0x40000000).getLsbD 30 = true := by
  rw [BitVec.getLsbD_or]; simp

theorem burstHeld_iff (s : State) (p k : Nat) :
    s.burstHeld p k = true ↔ s.get (F.SCP_BDESC.STATE p k) = 1 ∨ s.get (F.SCP_BDESC.STATE p k) = 2 := by
  simp [State.burstHeld]

/-- COUNT and START as the written word has them. -/
def State.burstFields (u : State) (p k : Nat) (v : Word) : State :=
  (u.put (F.SCP_BDESC.COUNT p k) (getBits v 25 16)).put (F.SCP_BDESC.START p k) (getBits v 9 0)

section
variable {u : State} {p k : Nat} {v : Word}

/-- A held burst takes a DISARM alone. -/
theorem wrScpBdesc_held (held : u.burstHeld p k = true) : wrScpBdesc p k v u = if v.getLsbD 30 then u.disarm p k else u := by
  unfold wrScpBdesc
  rw [if_pos held]

variable (free : u.burstHeld p k = false)
include free

theorem wrScpBdesc_disarm (disarm : v.getLsbD 30 = true) : wrScpBdesc p k v u = u.burstFields p k v := by
  unfold wrScpBdesc
  rw [if_neg (by simp [free])]
  simp only [disarm, Bool.true_or, if_true]
  rfl

theorem wrScpBdesc_arm (arms : v.getLsbD 31 = true) (keeps : v.getLsbD 30 = false) :
    wrScpBdesc p k v u =
      let w := u.burstFields p k v
      if w.on (F.SCP_CFG.ENABLE p) = false then w.put (F.SCP_BDESC.STATE p k) 7
      else if w.on (F.SCP_CFG.ROLE p) = true then w.put (F.SCP_BDESC.STATE p k) 6
      else w.arm p k := by
  unfold wrScpBdesc
  rw [if_neg (by simp [free])]
  simp only [arms, keeps, Bool.not_true, Bool.or_self, Bool.false_eq_true, if_false, Bool.not_eq_true']
  rfl
end

theorem disarm_armed {s : State} {p k : Nat} (armed : s.get (F.SCP_BDESC.STATE p k) = 1) :
    s.disarm p k =
      ((s.setScp p { s.scpP p with bursts := sset none (s.scpP p).bursts k none, waiting := (s.scpP p).waiting.filter (fun w => w.1 != k) }).put
        (F.SCP_BDESC.STATE p k) 0).put (F.SCP_BDESC.ARM p k) 0 := if_pos armed

theorem disarm_transmitting {s : State} {p k : Nat} (transmits : s.get (F.SCP_BDESC.STATE p k) = 2) :
    s.disarm p k = s.setScp p { s.scpP p with abort := true } :=
  (if_neg (by rw [transmits]; decide)).trans (if_pos transmits)

theorem releaseDue_other {s : State} {p : Nat} (other : s.isController p = false) : s.releaseDue p = s := if_pos (by rw [other]; rfl)

theorem releaseDue_controller {s : State} {p : Nat} (controller : s.isController p = true) :
    s.releaseDue p =
      ((isort s.beforeRelease ((s.armed p).filter (fun e => s.reached e.2.time))).foldl (fun s e => s.releaseBurst p e) s).scpNext p :=
  if_neg (by rw [controller]; decide)

/-- Settles O34: a write of SCP_BDESCk arms or disarms (`wrScpBdesc_arm`, `wrScpBdesc_held`), and an entry's end decides how the burst goes
on (`entryEnds_sent`, `entryEnds_failed`). -/
theorem bursts : Obligations.Bursts := by
  refine ⟨?arms, ?held, ?disarms, ?noRelease, ?releases, ?entries, ?idle⟩
  case arms =>
    intro p k v s u reaches keeps free
    have arms := wrScpBdesc_arm free (setBit31 v) ((getLsbD_or_arm v).trans keeps)
    refine ⟨fun disabled => ?_, fun enabled target => ?_, fun enabled controller => ?_⟩
    · exact reaches.to (arms.trans (if_pos disabled))
    · exact reaches.to (arms.trans ((if_neg (by rw [State.burstFields, enabled]; decide)).trans (if_pos target)))
    · exact reaches.to (arms.trans ((if_neg (by rw [State.burstFields, enabled]; decide)).trans (if_neg (by rw [State.burstFields, controller]; decide))))
  case held =>
    intro p k v s u reaches keeps held
    have ignored : wrScpBdesc p k (v ||| 0x80000000) u = u :=
      (wrScpBdesc_held held).trans (if_neg (by rw [getLsbD_or_arm, keeps]; decide))
    exact (reaches.next _).trans (congrArg _ ignored)
  case disarms =>
    intro p k v s u reaches
    have disarms (held : u.burstHeld p k = true) : wrScpBdesc p k (v ||| 0x40000000) u = u.disarm p k :=
      (wrScpBdesc_held held).trans (if_pos (getLsbD_or_disarm v))
    refine ⟨fun armed => ?_, fun transmits => ?_, fun free => ?_⟩
    · exact reaches.to ((disarms ((burstHeld_iff u p k).2 (.inl armed))).trans (disarm_armed armed))
    · exact reaches.to ((disarms ((burstHeld_iff u p k).2 (.inr transmits))).trans (disarm_transmitting transmits))
    · exact reaches.to (wrScpBdesc_disarm free (getLsbD_or_disarm v))
  case noRelease =>
    intro p s other
    exact running_self (releaseDue_other other)
  case releases =>
    intro p s awake controller
    exact running_to awake (releaseDue_controller controller)
  case entries =>
    intro p s k i awake sending
    refine ⟨fun i2c => running_to awake ?_, fun ack b good burst => ?_⟩
    · rw [not_acknowledged i2c]
      exact entryEnds_failed sending 0
    · have ends := entryEnds_sent sending burst (acknowledged good) 0
      have going (kept : (s.scpP p).abort = false) := ends.trans (if_neg (by rw [kept]; decide))
      have unfinished (kept : (s.scpP p).abort = false) (more : i + 1 < b.count) := (going kept).trans (if_neg (Nat.not_le.2 more))
      refine ⟨fun disarmed => ?_, fun kept last => ?_, fun kept more disabled => ?_, fun kept more enabled => ?_⟩
      · exact running_to awake (ends.trans (if_pos disarmed))
      · exact running_to awake ((going kept).trans (if_pos last))
      · exact running_to awake ((unfinished kept more).trans (if_pos (by rw [disabled]; rfl)))
      · exact running_to awake ((unfinished kept more).trans (if_neg (by rw [enabled]; decide)))
  case idle =>
    intro p ack s idle
    exact running_self (entryEnds_idle idle _ 0)

/-! ### Burst memory and the target register file (R105, R117, R121 to R123) -/

@[simp] theorem scpP_setScp_same (s : State) (p : Nat) (x : ScpPort) : (s.setScp p x).scpP p = x := sget_sset_same _ _ _ _

/-- A write of SCP_BMEM_DATA reaches an entry that no held burst uses, and steps IDX in any case. -/
theorem wrScpBmem_free {u : State} {p : Nat} (free : u.entryHeld p (u.get (F.SCP_BMEM_IDX.IDX p)) = false) (v : Word) :
    wrScpBmem p v u =
      { u.incr (F.SCP_BMEM_IDX.IDX p) with
        scp := (u.setScp p { u.scpP p with bmem := sset 0 (u.scpP p).bmem (u.get (F.SCP_BMEM_IDX.IDX p)) v }).scp } := by
  unfold wrScpBmem
  simp only [free, Bool.false_eq_true, if_false]
  rfl

theorem wrScpBmem_held {u : State} {p : Nat} (held : u.entryHeld p (u.get (F.SCP_BMEM_IDX.IDX p)) = true) (v : Word) :
    wrScpBmem p v u = u.incr (F.SCP_BMEM_IDX.IDX p) := by
  unfold wrScpBmem
  simp only [held, if_true]

/-- The word that such a write leaves at IDX. -/
theorem bmem_wrScpBmem {u : State} {p : Nat} (free : u.entryHeld p (u.get (F.SCP_BMEM_IDX.IDX p)) = false) (v : Word) :
    sget 0 ((wrScpBmem p v u).scpP p).bmem (u.get (F.SCP_BMEM_IDX.IDX p)) = v := by
  have port : (wrScpBmem p v u).scpP p = { u.scpP p with bmem := sset 0 (u.scpP p).bmem (u.get (F.SCP_BMEM_IDX.IDX p)) v } := by
    rw [wrScpBmem_free free]
    exact scpP_setScp_same u p _
  rw [port]
  exact sget_sset_same _ _ _ _

section
variable {s : State} {p op : Nat} {read : Bool} {addr : Option Nat} {act : Nat → State}

/-- A bus access of an enabled target, with the command byte of its direction and an address, acts. -/
theorem targetAccess_acts {a : Nat} (target : s.isTarget p = true) (command : s.targetOp p read op = true)
    (named : s.targetAddr p addr = some a) : s.targetAccess p read op addr act = act a := by
  unfold State.targetAccess
  rw [if_neg (by simp [target, command]), named]

theorem targetAccess_other (h : s.isTarget p = false ∨ s.targetOp p read op = false ∨ s.targetAddr p addr = none) :
    s.targetAccess p read op addr act = s := by
  unfold State.targetAccess
  rcases h with noTarget | otherCommand | unnamed
  · exact if_pos (by simp [noTarget])
  · exact if_pos (by simp [otherCommand])
  · rw [unnamed]
    exact ite_self s
end

/-- The effect of a write at the SGEN address: the value is kept for the frame starts it waits for (R123). -/
def State.sgenWritten (s : State) (p a v : Nat) : State :=
  if s.on (F.SCP_TGT_CFG.SGEN_EN p) && s.get (F.SCP_TGT_CFG.SGEN_ADDR p) == a then
    s.setTx (s.get (F.SCP_TGT_CFG.LINK p)) { s.txH (s.get (F.SCP_TGT_CFG.LINK p)) with
      echoes := (s.txH (s.get (F.SCP_TGT_CFG.LINK p))).echoes ++ [(v, s.get (F.SCP_TGT_CFG.LAT p) + 1)] }
  else s

/-- A write of two data bytes leaves the word, then has the effects of its address. -/
theorem targetWrite_word {s : State} {p : Nat} (two : s.dataBytes p = 2) (a : Nat) (d : Half) :
    s.targetWrite p a d =
      let w := (((s.bump (F.SCP_TGT_STAT.WRITES p)).targetNext p a).setTfile p a d).sgenWritten p a d.toNat
      (w.versionWritten p a d.toNat 0).versionWritten p a d.toNat 1 := by
  have wide : decide (s.dataBytes p = 1) = false := by rw [two]; rfl
  unfold State.targetWrite
  simp only [wide, Bool.false_eq_true, if_false, BitVec.ofNat_toNat, BitVec.setWidth_eq]
  rfl

/-- Settles O35: the accesses of the two data registers, and a bus access that acts or does nothing (`targetAccess_acts`,
`targetAccess_other`). -/
theorem portMemories : Obligations.PortMemories := by
  refine ⟨?bmemRead, ?bmemWrite, ?tfileRead, ?tfileWrite, ?busRead, ?busWrite, ?address, ?noAddress, ?noAccess, ?noCommand⟩
  case bmemRead =>
    intro p s u reads
    exact ⟨_, reads.next _, rfl, rfl⟩
  case bmemWrite =>
    intro p v s u reaches
    refine ⟨fun free => ⟨_, reaches.next _, bmem_wrScpBmem free v, ?_⟩, fun held => reaches.to (wrScpBmem_held held v)⟩
    rw [wrScpBmem_free free]
  case tfileRead =>
    intro p s u reads
    exact ⟨_, reads.next _, rfl, rfl⟩
  case tfileWrite =>
    intro p v s u reaches
    exact ⟨_, reaches.next _, rfl⟩
  case busRead =>
    intro p op addr a s awake target command named
    exact running_to awake (targetAccess_acts target command named)
  case busWrite =>
    intro p op addr a d s awake target command named two
    exact running_to awake ((targetAccess_acts target command named).trans (targetWrite_word two a d))
  case address =>
    intro p a s
    rfl
  case noAddress =>
    intro p s
    exact ⟨fun i2c => if_pos i2c, fun spi => if_neg (by rw [spi]; decide)⟩
  case noAccess =>
    intro p op addr d s h
    exact ⟨running_self (targetAccess_other (h.imp_right .inr)), running_self (targetAccess_other (h.imp_right .inr))⟩
  case noCommand =>
    intro p op addr d s
    exact ⟨fun other => running_self (targetAccess_other (.inr (.inl other))), fun other => running_self (targetAccess_other (.inr (.inl other)))⟩

end Sys2Proof.Machine
end

section
/-! Frames in brews and the indexed tile memories (chapter 05, R132 to R144): how a frame is selected, starts and ends at its brew's
root, and what an access through an indexed data register does. -/

namespace Sys2Proof.Machine

/-! ### Indexed words and registers -/

theorem ix_wix_same (s : State) (a v : Nat) : (s.wix a v).ix a = v % 2 ^ 32 := by
  unfold State.wix State.ix
  rw [sget_sset_same, BitVec.toNat_ofNat]

theorem reg_wix_other (s : State) (v : Nat) {a o : Nat} (h : o ≠ a) : (s.wix a v).reg o = s.reg o := sget_sset_other _ _ _ _ h

theorem ix_put_other (s : State) (v : Nat) {f : Fld} {a : Nat} (h : a ≠ f.reg) : (s.put f v).ix a = s.ix a :=
  congrArg BitVec.toNat (sget_sset_other _ _ _ _ h)

theorem idxAt_wix (s : State) (v n : Nat) {f : Fld} {a : Nat} (h : f.reg ≠ a) : (s.wix a v).idxAt f n = s.idxAt f n := by
  have same : (s.wix a v).get f = s.get f := by
    unfold State.get
    rw [reg_wix_other s v h]
  unfold State.idxAt
  rw [same]

/-! ### Accesses through an indexed data register (R143) -/

theorem nextIdx_eq (s : State) (f : Fld) (n : Nat) : s.nextIdx f n = s.put f ((s.idxAt f n + 1) % n) := rfl

/-- An index register of `n` words: the index fits its field, and the words stand apart from its register. -/
structure IndexesWords (idx : Fld) (n : Nat) (at_ : Nat → Nat) : Prop where
  ok : idx.Ok
  pos : 0 < n
  fits : n ≤ 2 ^ (idx.hi - idx.lo + 1)
  apart : ∀ i, at_ i ≠ idx.reg

section
variable {idx : Fld} {n : Nat} {at_ : Nat → Nat}

theorem IndexesWords.get_nextIdx (h : IndexesWords idx n at_) (s : State) : (s.nextIdx idx n).get idx = (s.idxAt idx n + 1) % n := by
  rw [nextIdx_eq, get_put_same s h.ok, Nat.mod_eq_of_lt (Nat.lt_of_lt_of_le (Nat.mod_lt _ h.pos) h.fits)]

/-- A read that is reached answers the word at the index and steps the index. -/
theorem IndexesWords.read (h : IndexesWords idx n at_) {s u : State} {off : Nat} (reads : Reads s off u) :
    ∃ t, s.running (s.indexAccess off idx n at_ none) = .next t ∧ t.rdata = [BitVec.ofNat 32 (u.ix (at_ (u.idxAt idx n)))] ∧
      t.get idx = (u.idxAt idx n + 1) % n ∧ ∀ o, o ≠ idx.reg → t.reg o = u.reg o :=
  ⟨_, reads.next _, rfl, h.get_nextIdx u, fun _ other => reg_put_other u _ other⟩

/-- A write that is reached stores 24 bits at the index and steps the index. -/
theorem IndexesWords.write (h : IndexesWords idx n at_) {s u : State} {off : Nat} (v : Word) (reaches : Reaches s off u) :
    ∃ t, s.running (s.indexAccess off idx n at_ (some v)) = .next t ∧ t.ix (at_ (u.idxAt idx n)) = v.toNat % 2 ^ 24 ∧
      t.get idx = (u.idxAt idx n + 1) % n ∧ ∀ o, o ≠ idx.reg → o ≠ at_ (u.idxAt idx n) → t.reg o = u.reg o := by
  have apart := h.apart (u.idxAt idx n)
  refine ⟨_, reaches.next _, ?_⟩
  unfold wrIndexed
  refine ⟨?word, ?index, fun o other elsewhere => ?others⟩
  case word =>
    rw [nextIdx_eq, ix_put_other _ _ apart, ix_wix_same]
    omega
  case index =>
    rw [h.get_nextIdx, idxAt_wix u _ n apart.symm]
  case others =>
    rw [nextIdx_eq, reg_put_other _ _ other, reg_wix_other u _ elsewhere]
end

/-! ### The four indexed memories (Tables 5.14, 7.17, 8.6) -/

/-- The indexed words stand above the register window. -/
theorem ixGain_above (t c i : Nat) : 0x2000000 ≤ ixGain t c i := by unfold ixGain ixBase; omega

theorem ixCoef_above (t c i : Nat) : 0x2000000 ≤ ixCoef t c i := by unfold ixCoef ixBase; omega

/-- An index register of the window over words above it. -/
theorem IndexesWords.of_window {idx : Fld} {n : Nat} {at_ : Nat → Nat} (ok : idx.Ok) (pos : 0 < n) (fits : n ≤ 2 ^ (idx.hi - idx.lo + 1))
    (low : idx.reg < 0x2000000) (above : ∀ i, 0x2000000 ≤ at_ i) : IndexesWords idx n at_ :=
  ⟨ok, pos, fits, fun i => Nat.ne_of_gt (Nat.lt_of_lt_of_le low (above i))⟩

theorem indexesWords_rwcGain (k : Fin 4) (x : Fin 2) : IndexesWords (F.RWC_SITE_IDX.IDX k x) 64 (ixGain (4 + k) x) :=
  .of_window (Fld.ok_of rfl) (by decide) (Nat.le_refl 64) (show R.RWC_SITE_IDX k x < _ by unfold R.RWC_SITE_IDX; omega) (ixGain_above _ _)

theorem indexesWords_synGain (k : Fin 4) (x : Fin 2) : IndexesWords (F.SYN_SITE_IDX.IDX k x) 64 (ixGain (30 + k) x) :=
  .of_window (Fld.ok_of rfl) (by decide) (Nat.le_refl 64) (show R.SYN_SITE_IDX k x < _ by unfold R.SYN_SITE_IDX; omega) (ixGain_above _ _)

theorem indexesWords_colCoef (k : Fin 8) (x : Fin 2) : IndexesWords (F.COL_COEF_IDX.IDX k x) 40 (ixCoef (12 + k) x) :=
  .of_window (Fld.ok_of rfl) (by decide) (show 40 ≤ 64 by decide) (show R.COL_COEF_IDX k x < _ by unfold R.COL_COEF_IDX; omega) (ixCoef_above _ _)

theorem indexesWords_synCoef (k : Fin 4) (x : Fin 2) : IndexesWords (F.SYN_COEF_IDX.IDX k x) 14 (ixCoef (30 + k) x) :=
  .of_window (Fld.ok_of rfl) (by decide) (show 14 ≤ 16 by decide) (show R.SYN_COEF_IDX k x < _ by unfold R.SYN_COEF_IDX; omega) (ixCoef_above _ _)

/-- Settles O19: each of the four is an access through an index register (`IndexesWords.read`, `IndexesWords.write`). -/
theorem indexedMemories : Obligations.IndexedMemories := by
  refine ⟨?rwcGain, ?synGain, ?colCoef, ?synCoef⟩
  case rwcGain =>
    intro k x
    exact ⟨fun _ _ => (indexesWords_rwcGain k x).read, fun _ _ => (indexesWords_rwcGain k x).write⟩
  case synGain =>
    intro k x
    exact ⟨fun _ _ => (indexesWords_synGain k x).read, fun _ _ => (indexesWords_synGain k x).write⟩
  case colCoef =>
    intro k x
    exact ⟨fun _ _ => (indexesWords_colCoef k x).read, fun _ _ => (indexesWords_colCoef k x).write⟩
  case synCoef =>
    intro k x
    exact ⟨fun _ _ => (indexesWords_synCoef k x).read, fun _ _ => (indexesWords_synCoef k x).write⟩

/-! ### Arbitration and stripes (R137, R140) -/

theorem exec_queueArbitration {b : Fin 16} {s : State} {r : BrewRec} (there : s.brewRec b = some r) :
    exec (.queueArbitration b) s = s.running (s.arbitrate r) := by
  show execQueueArbitration b s = _
  unfold execQueueArbitration
  rw [there]

theorem exec_stripeBoundary {b : Fin 16} {s : State} {r : BrewRec} (there : s.brewRec b = some r) :
    exec (.stripeBoundary b) s = s.running (s.stripeBoundary r) := by
  show execStripeBoundary b s = _
  unfold execStripeBoundary
  rw [there]

/-- A free brew with two sources selects the source of the frame that arrived first. -/
theorem arbitrate_free {s : State} {r : BrewRec} {f : Frame} (two : r.two = true) (whole : r.striped = false)
    (free : (s.brew r.brew).sel = none)
    (first : (r.sources.filterMap s.headOf).find? (fun f => (r.sources.filterMap s.headOf).all (fun g => earlier f g)) = some f) :
    s.arbitrate r = s.setBrew r.brew { s.brew r.brew with sel := some f.tile } := by
  unfold State.arbitrate
  rw [if_neg (by simp [two, whole, free])]
  simp only [first]

theorem arbitrate_selected {s : State} {r : BrewRec} (selected : (s.brew r.brew).sel.isSome = true) : s.arbitrate r = s :=
  if_pos (.inr (.inr selected))

/-! ### Start-of-frame beats (R144, R556) -/

/-- The start of frame `f` leaves the root of brew `r`, and a pattern frame takes the size of the set latched for it. -/
def State.sofLeaves (s : State) (r : BrewRec) (f : Frame) : State :=
  match ((s.emitSof r f).root f.tile).frames.find? (fun g => g.tag == f.tag) with
  | none => s.emitSof r f
  | some g => (s.emitSof r f).updateFrame ((s.emitSof r f).patternDims r g)

/-- A tile of brew `r` takes up frame `g`, whose start has reached it, as its kind does. -/
def State.takesUp (s : State) (r : BrewRec) (t : Nat) (g : Frame) : State :=
  match tileKind t with
  | .syn => s.synSof r t g
  | .ana => s.anaSof t g
  | .cmx => s.cmxSof r t g
  | .opk => s.opkSof r t g
  | _ => s

theorem rootSofEmit_leaves {s : State} {b : Nat} {r : BrewRec} {f : Frame} (there : s.brewRec b = some r) (whole : r.striped = false)
    (free : s.held b = false) (delivers : s.currentFrame r = some f) (waits : f.emitted = false) : s.rootSofEmit b = s.sofLeaves r f := by
  unfold State.rootSofEmit
  simp only [there, whole, free, delivers, waits, Bool.or_self, Bool.false_eq_true, if_false]
  rfl

theorem rootSofEmit_emitted {s : State} {b : Nat} {r : BrewRec} {f : Frame} (there : s.brewRec b = some r)
    (delivers : s.currentFrame r = some f) (emitted : f.emitted = true) : s.rootSofEmit b = s := by
  unfold State.rootSofEmit
  simp only [there, delivers, emitted, if_true, ite_self]

theorem tileSofArrive_takesUp {s : State} {t : Nat} {r : BrewRec} {f : Frame} (there : s.brewOfTile t = some r)
    (arrives : (s.inBrew r).find? (fun f => !f.sofAt.contains t) = some f) :
    s.tileSofArrive t =
      ((s.putFlow r { f with sofAt := f.sofAt ++ [t] }).switchTile t f.ctx f.par).takesUp r t { f with sofAt := f.sofAt ++ [t] } := by
  unfold State.tileSofArrive
  simp only [there, arrives]
  rfl

/-! ### The end of a frame at its root (R132) -/

theorem frameEndAtRoot_none {s : State} {b : Nat} {r : BrewRec} (there : s.brewRec b = some r) (none_ends : s.endingAtRoot r = none) :
    s.frameEndAtRoot b = s := by
  unfold State.frameEndAtRoot
  simp only [there, none_ends]

/-- Settles O18: each command acts under its condition (`arbitrate_free`, `rootSofEmit_leaves`, `tileSofArrive_takesUp`) and is the
identity elsewhere. -/
theorem framesThroughBrews : Obligations.FramesThroughBrews := by
  refine ⟨?selects, ?selected, ?stripe, ?emits, ?emitted, ?arrives, ?ends, ?noEnd⟩
  case selects =>
    intro b s r f awake there two whole free first
    refine ⟨_, (exec_queueArbitration there).trans (running_next awake _), ?_⟩
    rw [arbitrate_free two whole free first, brew_setBrew_same]
    exact ⟨rfl, rfl⟩
  case selected =>
    intro b s r _ there selected
    exact (exec_queueArbitration there).trans (running_self (arbitrate_selected selected))
  case stripe =>
    intro b s r awake there _
    exact ⟨_, (exec_stripeBoundary there).trans (running_next awake _), rfl⟩
  case emits =>
    intro b s r f awake there whole free delivers waits
    exact running_to awake (rootSofEmit_leaves there whole free delivers waits)
  case emitted =>
    intro b s r f _ there delivers emitted
    exact running_self (rootSofEmit_emitted there delivers emitted)
  case arrives =>
    intro k s r f awake there arrives
    exact running_to awake (tileSofArrive_takesUp there arrives)
  case ends =>
    intro b s awake
    exact running_to awake rfl
  case noEnd =>
    intro b s r _ there none_ends
    exact running_self (frameEndAtRoot_none there none_ends)

end Sys2Proof.Machine
end

section
/-! Statistics tiles (chapter 06, R156 to R168): what the end of a frame makes of the tile's waiting records while its raw tap is off,
and how the oldest record is written. -/

namespace Sys2Proof.Machine

/-! ### The raw tap, off (R165) -/

/-- What the raw tap answers for a frame that takes no slot. -/
def TapOut.unused : TapOut := ⟨false, 0, 0, false, false⟩

theorem tapDue_off (s : State) {j : Nat} {f : Frame} {p : Par} (off : p.on (F.STA_CFG.TAP_EN j f.ctx) = false) : s.tapDue j f p = false := by
  unfold State.tapDue
  rw [off, Bool.false_and, Bool.false_and]

theorem tap_off (s : State) {t : Nat} {f : Frame} {p : Par} (off : p.on (F.STA_CFG.TAP_EN (t - 26) f.ctx) = false) (port fits : Nat) (i : Pic) :
    s.tap t port fits f p i = (.unused, s) := by
  unfold State.tap
  simp only [tapDue_off s off, Bool.not_false, if_true]
  rfl

theorem tapFeed_off (s : State) {t : Nat} {f : Frame} (off : (⟨f.par, f.tabs⟩ : Par).on (F.STA_CFG.TAP_EN (t - 26) f.ctx) = false) (i : Pic)
    (tp : TapOut) : s.tapFeed f t i tp = s := by
  unfold State.tapFeed
  simp only [tapDue_off s off]
  rfl

/-! ### Records whose measures stand (R162, R163) -/

theorem statsValid_bad (s : State) (b : BrewRec) {f : Frame} (t : Nat) (bad : f.bad = true) : s.statsValid b f t = false := by
  unfold State.statsValid
  rw [bad, Bool.not_true, Bool.false_and, Bool.false_and]

theorem statsValid_whole {s : State} {b : BrewRec} {f : Frame} {t : Nat} (whole : f.bad = false)
    (alone : (s.staPend t).any (fun x => x.ctx == f.ctx) = false)
    (fits : gridFault ⟨f.par, f.tabs⟩ (s.cfg.mosaicAt b.brew f.ctx) (t - 26) f.ctx (tileIn s.cfg b f t).pic.n = false) :
    s.statsValid b f t = true := by
  unfold State.statsValid
  rw [whole, alone, fits]
  rfl

theorem statsRecord_body_invalid {s : State} {b : BrewRec} {f : Frame} {t : Nat} (invalid : s.statsValid b f t = false) (tp : TapOut) :
    (s.statsRecord b f t tp).body = [] := by
  unfold State.statsRecord
  simp only [invalid, Bool.false_eq_true, if_false]

theorem statsRecord_body_valid {s : State} {b : BrewRec} {f : Frame} {t : Nat} (valid : s.statsValid b f t = true) (tp : TapOut) :
    (s.statsRecord b f t tp).body =
      statsBody ⟨f.par, f.tabs⟩ (s.cfg.mosaicAt b.brew f.ctx) (tileIn s.cfg b f t).mOk (t - 26) f.ctx (tileIn s.cfg b f t).pic := by
  unfold State.statsRecord
  simp only [valid, if_true]

/-! ### The end of a frame (R156, R161, R162) -/

/-- The tile's waiting records with that of frame `f` behind them, which took no tap slot. -/
def State.recordWaits (s : State) (b : BrewRec) (f : Frame) (t : Nat) : State :=
  s.setSta t (s.staPend t ++ [s.statsRecord b f t .unused])

section
variable {s : State} {t : Nat} {b : BrewRec} {f : Frame}

/-- With the tap off, the record waits, a record without measures is counted and posted as a drop, and the frame is released. -/
theorem statsFrameEnd_untapped (there : s.brewOfTile t = some b) (ends : s.endingAt b t = some f)
    (off : (⟨f.par, f.tabs⟩ : Par).on (F.STA_CFG.TAP_EN (t - 26) f.ctx) = false) (fits : Nat) :
    s.statsFrameEnd t fits =
      (if s.statsValid b f t then s.recordWaits b f t
        else ((s.recordWaits b f t).bump (F.STA_STAT.INVALID (t - 26) f.ctx)).dropUnit t 4 rowStats f.tag).sinkDone b f t := by
  unfold State.statsFrameEnd
  simp only [there, ends, tap_off s off, tapFeed_off _ off]
  rfl

theorem statsFrameEnd_invalid (there : s.brewOfTile t = some b) (ends : s.endingAt b t = some f)
    (off : (⟨f.par, f.tabs⟩ : Par).on (F.STA_CFG.TAP_EN (t - 26) f.ctx) = false) (invalid : s.statsValid b f t = false) (fits : Nat) :
    s.statsFrameEnd t fits =
      (((s.recordWaits b f t).bump (F.STA_STAT.INVALID (t - 26) f.ctx)).dropUnit t 4 rowStats f.tag).sinkDone b f t := by
  rw [statsFrameEnd_untapped there ends off, invalid, if_neg Bool.false_ne_true]

theorem statsFrameEnd_valid (there : s.brewOfTile t = some b) (ends : s.endingAt b t = some f)
    (off : (⟨f.par, f.tabs⟩ : Par).on (F.STA_CFG.TAP_EN (t - 26) f.ctx) = false) (valid : s.statsValid b f t = true) (fits : Nat) :
    s.statsFrameEnd t fits = (s.recordWaits b f t).sinkDone b f t := by
  rw [statsFrameEnd_untapped there ends off, valid, if_pos rfl]

theorem statsFrameEnd_noBrew (none_there : s.brewOfTile t = none) (fits : Nat) : s.statsFrameEnd t fits = s := by
  unfold State.statsFrameEnd
  simp only [none_there]

theorem statsFrameEnd_noFrame (there : s.brewOfTile t = some b) (none_ends : s.endingAt b t = none) (fits : Nat) :
    s.statsFrameEnd t fits = s := by
  unfold State.statsFrameEnd
  simp only [there, none_ends]

/-! ### The oldest record (R163, R164) -/

theorem statsRecordWritten_oldest {x : PendRec} {r : List PendRec} (waits : s.staPend t = x :: r) :
    s.statsRecordWritten t =
      (s.setSta t r).resultRecord (portReq t ((s.cfg.portOf t).getD 0) (some x.tag.toNat))
        (s.addr (R.STA_REC_LO (t - 26) 0) (R.STA_REC_HI (t - 26) 0)) (s.get (F.STA_REC_CTL.LOG2CNT (t - 26) 0))
        (F.STA_REC_CTL.WIDX (t - 26) 0) 0 x := by
  unfold State.statsRecordWritten
  simp only [waits]

theorem statsRecordWritten_empty (none_waits : s.staPend t = []) : s.statsRecordWritten t = s := by
  unfold State.statsRecordWritten
  simp only [none_waits]

end

/-- Settles O21: a frame's end is `statsFrameEnd_invalid` or `statsFrameEnd_valid`, as its record's measures stand, and a record is written
as `statsRecordWritten_oldest` says. -/
theorem statisticsFrames : Obligations.StatisticsFrames := by
  have index (t : Fin 4) : 26 + t.val - 26 = t.val := Nat.add_sub_cancel_left ..
  refine ⟨?dropped, ?whole, ?noFrame, ?oldest, ?noRecord⟩
  case dropped =>
    intro t fits s b f awake there ends bad off
    have invalid := statsValid_bad s b (26 + t.val) bad
    have effect := statsFrameEnd_invalid there ends ((index t).symm ▸ off) invalid fits
    rw [index] at effect
    exact ⟨_, running_next awake _, s.statsRecord b f (26 + t.val) .unused, rfl, rfl, statsRecord_body_invalid invalid _, effect⟩
  case whole =>
    intro t fits s b f awake there ends whole off alone i m aligned
    have valid := statsValid_whole whole alone ((index t).symm ▸ aligned)
    have effect := statsFrameEnd_valid there ends ((index t).symm ▸ off) valid fits
    have body := statsRecord_body_valid valid .unused
    rw [index] at body
    exact ⟨_, running_next awake _, s.statsRecord b f (26 + t.val) .unused, rfl, rfl, body, rfl, effect⟩
  case noFrame =>
    intro t fits s nothing
    obtain none_there | ⟨b, there, none_ends⟩ := nothing
    · exact running_self (statsFrameEnd_noBrew none_there fits)
    · exact running_self (statsFrameEnd_noFrame there none_ends fits)
  case oldest =>
    intro t s x r awake waits
    exact running_to awake (statsRecordWritten_oldest waits)
  case noRecord =>
    intro t s none_waits
    exact running_self (statsRecordWritten_empty none_waits)

end Sys2Proof.Machine
end

section
/-! Analysis tiles (chapter 09, R217, R230, R231): what the end of an A frame makes of the tile's waiting records, its B queue and the
frame, and how the oldest record is written. -/

namespace Sys2Proof.Machine

/-- The tile's run state once A frame `a` has ended with the record of `f`: the partner's slot and the frame's own place are free, and the
record waits behind those before it (R217, R230). -/
def State.anaRecordWaits (s : State) (b : BrewRec) (f : Frame) (t : Nat) (a : AnaCur) : State :=
  s.setAna t ⟨(s.anaRun t).bq.filter (fun e => a.slot != some e.slot), (s.anaRun t).cur.filter (fun c => c.tag != a.tag),
    (s.anaRun t).pend ++ [s.anaRecord b f t a]⟩

section
variable {s : State} {t : Nat} {b : BrewRec} {f : Frame} {a : AnaCur}

/-! ### Records whose measures stand (R230, R231) -/

theorem anaMeasured_eq_false_iff :
    s.anaMeasured f t = false ↔ f.bad = true ∨ (s.anaRun t).pend.any (fun r => r.ctx == f.ctx) = true := by
  unfold State.anaMeasured
  rw [Bool.and_eq_false_iff, Bool.not_eq_false', Bool.not_eq_false']

theorem anaValid_eq_false_iff :
    s.anaValid f t a = false ↔ f.bad = true ∨ (s.anaRun t).pend.any (fun r => r.ctx == f.ctx) = true ∨
      a.flags &&& (anaUnmatched + anaBDropped + anaMismatch) ≠ 0 := by
  unfold State.anaValid
  rw [Bool.and_eq_false_iff, anaMeasured_eq_false_iff, or_assoc, Bool.not_eq_false', bne_iff_ne]

theorem anaValid_whole (whole : f.bad = false) (alone : (s.anaRun t).pend.any (fun r => r.ctx == f.ctx) = false)
    (partner : a.flags &&& (anaUnmatched + anaBDropped + anaMismatch) = 0) : s.anaValid f t a = true := by
  unfold State.anaValid State.anaMeasured
  rw [whole, alone, partner]
  rfl

/-- A record without measures is its header alone. -/
theorem anaRecord_unmeasured (b : BrewRec) (a : AnaCur) (unmeasured : s.anaMeasured f t = false) :
    (s.anaRecord b f t a).body = [] ∧ (s.anaRecord b f t a).lines = [] := by
  unfold State.anaRecord
  simp only [unmeasured, Bool.false_and, Bool.false_eq_true, if_false, and_self]

/-! ### The end of a frame (R217, R231) -/

/-- The record waits, one that is not valid is counted and posted as a drop, and the frame is released. -/
theorem analysisFrameEnd_decided (there : s.brewOfTile t = some b) (ends : s.endingAt b t = some f)
    (decided : (s.anaRun t).cur.find? (fun a => a.tag == f.tag && a.decided) = some a) :
    s.analysisFrameEnd t =
      (if s.anaValid f t a then s.anaRecordWaits b f t a
        else ((s.anaRecordWaits b f t a).bump (F.ANA_STAT.INVALID (t - 36) f.ctx)).dropUnit t 4 rowAnalysis f.tag).sinkDone b f t := by
  unfold State.analysisFrameEnd
  simp only [there, ends, decided, Option.bind_some, Option.map_some]
  rfl

theorem analysisFrameEnd_invalid (there : s.brewOfTile t = some b) (ends : s.endingAt b t = some f)
    (decided : (s.anaRun t).cur.find? (fun a => a.tag == f.tag && a.decided) = some a) (invalid : s.anaValid f t a = false) :
    s.analysisFrameEnd t =
      (((s.anaRecordWaits b f t a).bump (F.ANA_STAT.INVALID (t - 36) f.ctx)).dropUnit t 4 rowAnalysis f.tag).sinkDone b f t := by
  rw [analysisFrameEnd_decided there ends decided, invalid, if_neg Bool.false_ne_true]

theorem analysisFrameEnd_valid (there : s.brewOfTile t = some b) (ends : s.endingAt b t = some f)
    (decided : (s.anaRun t).cur.find? (fun a => a.tag == f.tag && a.decided) = some a) (valid : s.anaValid f t a = true) :
    s.analysisFrameEnd t = (s.anaRecordWaits b f t a).sinkDone b f t := by
  rw [analysisFrameEnd_decided there ends decided, valid, if_pos rfl]

theorem analysisFrameEnd_noBrew (none_there : s.brewOfTile t = none) : s.analysisFrameEnd t = s := by
  unfold State.analysisFrameEnd
  simp only [none_there]

theorem analysisFrameEnd_noFrame (there : s.brewOfTile t = some b) (none_ends : s.endingAt b t = none) : s.analysisFrameEnd t = s := by
  unfold State.analysisFrameEnd
  simp only [there, none_ends, Option.bind_none]

theorem analysisFrameEnd_undecided (there : s.brewOfTile t = some b) (ends : s.endingAt b t = some f)
    (undecided : (s.anaRun t).cur.find? (fun a => a.tag == f.tag && a.decided) = none) : s.analysisFrameEnd t = s := by
  unfold State.analysisFrameEnd
  simp only [there, ends, undecided, Option.bind_some, Option.map_none]

/-! ### The oldest record (R230) -/

theorem analysisRecordWritten_oldest {r : PendRec} {rest : List PendRec} (waits : (s.anaRun t).pend = r :: rest) :
    s.analysisRecordWritten t =
      (s.setAna t { s.anaRun t with pend := rest }).resultRecord (s.anaReq t r.ctx (some r.tag.toNat))
        (s.addr (R.ANA_REC_LO (t - 36) 0) (R.ANA_REC_HI (t - 36) 0)) (s.get (F.ANA_REC_CTL.LOG2CNT (t - 36) 0))
        (F.ANA_REC_CTL.WIDX (t - 36) 0) (s.addr (R.ANA_LCRC_LO (t - 36) 0) (R.ANA_LCRC_HI (t - 36) 0)) r := by
  unfold State.analysisRecordWritten
  simp only [waits]

theorem analysisRecordWritten_empty (none_waits : (s.anaRun t).pend = []) : s.analysisRecordWritten t = s := by
  unfold State.analysisRecordWritten
  simp only [none_waits]

end

/-- Settles O23: a frame's end is `analysisFrameEnd_invalid` or `analysisFrameEnd_valid`, as its record is valid
(`anaValid_whole`, `anaValid_eq_false_iff`), and a record is written as `analysisRecordWritten_oldest` says. -/
theorem analysisRecords : Obligations.AnalysisRecords := by
  have index (t : Fin 4) : 36 + t.val - 36 = t.val := Nat.add_sub_cancel_left ..
  refine ⟨?decided, ?noFrame, ?noBrew, ?oldest, ?noRecord⟩
  case decided =>
    intro t s b f a awake there ends decided x r v
    refine ⟨fun unmeasured => anaRecord_unmeasured b a (anaMeasured_eq_false_iff.mpr unmeasured), fun invalid => ?invalid,
      fun whole alone partner => ?valid⟩
    case invalid =>
      have effect := analysisFrameEnd_invalid there ends decided (anaValid_eq_false_iff.mpr invalid)
      rw [index] at effect
      exact running_to awake effect
    case valid =>
      exact running_to awake (analysisFrameEnd_valid there ends decided (anaValid_whole whole alone partner))
  case noFrame =>
    intro t s b _ there nothing
    obtain none_ends | ⟨f, ends, undecided⟩ := nothing
    · exact running_self (analysisFrameEnd_noFrame there none_ends)
    · exact running_self (analysisFrameEnd_undecided there ends undecided)
  case noBrew =>
    intro t s none_there
    exact running_self (analysisFrameEnd_noBrew none_there)
  case oldest =>
    intro t s r rest awake waits
    exact running_to awake (analysisRecordWritten_oldest waits)
  case noRecord =>
    intro t s none_waits
    exact running_self (analysisRecordWritten_empty none_waits)

end Sys2Proof.Machine
end

section
/-! SDI outputs and timing generators (chapter 10, R247 to R251, R258): how an output is enabled and disabled, what a frame instant does,
and what a framer takes and sends at its slot. -/

namespace Sys2Proof.Machine

/-! ### Enable and disable (R247, R248, R251) -/

section
variable {u : State} {n src : Nat} {v : Word}

/-- The other active outputs, which count with output `n` against the limits of R248. -/
def State.sdiOthers (s : State) (n : Nat) : List Nat := (List.range 16).filter (fun k => k != n && s.sdiActive k)

/-- Output `n` has its format, and its lanes have the format's link rate. -/
def State.sdiRated (s : State) (n unit : Nat) : State :=
  (s.sdiLanes (0x10 + n)).foldl (fun a x => a.put (F.LNK_RATE.MBPS x) (sdiMbps unit (rateSlow (a.get (F.SDI_OUT_FMT.RATE n)))))
    (s.put (F.SDI_OUT_STAT.FMT_ERR n) 0)

theorem sdiEnable_refused {s : State} (h : s.sdiUnit n = none ∨ s.sdiFits (n :: s.sdiOthers n) = false) :
    s.sdiEnable n = s.put (F.SDI_OUT_STAT.FMT_ERR n) 1 := by
  unfold State.sdiEnable
  obtain unlisted | tooMuch := h
  · simp only [unlisted]
  · cases listed : s.sdiUnit n with
    | none => rfl
    | some r => exact if_neg (Bool.eq_false_iff.mp tooMuch)

theorem sdiEnable_rated {s : State} {r : Nat} (listed : s.sdiUnit n = some r) (fits : s.sdiFits (n :: s.sdiOthers n) = true) :
    s.sdiEnable n = s.sdiRated n r := by
  unfold State.sdiEnable
  simp only [listed]
  exact if_pos fits

/-- A write that sets EN of a disabled output is the plain write and the enable it makes. -/
theorem wrSdiOutCfg_enables (disabled : u.on (F.SDI_OUT_CFG.EN n) = false)
    (enables : (u.plainWrite src (R.SDI_OUT_CFG n) v).on (F.SDI_OUT_CFG.EN n) = true) :
    wrSdiOutCfg n src v u = ((u.plainWrite src (R.SDI_OUT_CFG n) v).sdiEnable n).sdiRelight u.sdiIdle := by
  unfold wrSdiOutCfg
  rw [if_neg (Bool.eq_false_iff.mp disabled)]
  exact if_pos enables

/-- EN is clear, and a running output goes on to its frame's end. -/
def State.sdiDisabled (s : State) (n : Nat) : State :=
  ((s.put (F.SDI_OUT_CFG.EN n) 0).setSdiO n { s.sdiO n with stopping := (s.sdiO n).running }).sdiRelight s.sdiIdle

/-- A write that clears EN and asks for no change of the fields that an enabled output keeps. -/
theorem wrSdiOutCfg_disables (enabled : u.on (F.SDI_OUT_CFG.EN n) = true) (clears : v.getLsbD 31 = false)
    (generator : getBits v 29 28 = u.get (F.SDI_OUT_CFG.TG n)) (source : getBits v 25 24 = u.get (F.SDI_OUT_CFG.OPK n))
    (mapping : getBits v 16 16 = u.get (F.SDI_OUT_CFG.MAP n)) :
    wrSdiOutCfg n src v u = (u.put (F.SDI_OUT_CFG.PID_OVR n) (getBits v 30 30)).sdiDisabled n := by
  unfold wrSdiOutCfg
  rw [if_pos enabled]
  simp only [generator, source, mapping, clears, bne_self_eq_false, Bool.or_self, Bool.false_eq_true, if_false]
  rfl

end

/-! ### Frame instants (R258) -/

/-- Generator `k` has counted the instant that comes now, with the input's last EAV. -/
def State.tgCounted (s : State) (k : Nat) : State :=
  { s with tg := sset tgInit s.tg k ⟨(sget tgInit s.tg k).instants + 1, s.now, (s.sdiI s.glkInput).eav,
    (sget tgInit s.tg k).adrift && !s.tgCaughtUp k⟩ }

/-- SDI_TGk_STAT shows the measured phase error, and whether the generator can follow the input. -/
def State.tgShown (s : State) (k phase : Nat) (incompat : Bool) : State :=
  (s.put (F.SDI_TG_STAT.PHASE k) phase).putB (F.SDI_TG_STAT.INCOMPAT k) incompat

/-- Every output of generator `k` has its frame instant. -/
def State.tgReaches (s : State) (k : Nat) : State :=
  ((List.range 16).filter (fun n => s.get (F.SDI_OUT_CFG.TG n) == k)).foldl State.sdiInstant s

theorem tgInstant_due {s : State} {k : Nat} (enabled : s.on (F.SDI_TG_CFG.EN k) = true) (due : s.tgDue k = true) (phase : Nat) :
    s.tgInstant k phase = ((s.tgCounted k).tgShown k phase (s.tgIncompat k)).tgReaches k :=
  if_neg (by rw [enabled, due]; decide)

theorem tgInstant_other {s : State} {k : Nat} (h : s.on (F.SDI_TG_CFG.EN k) = false ∨ s.tgDue k = false) (phase : Nat) :
    s.tgInstant k phase = s :=
  if_pos (by simpa using h)

/-! ### What a framer takes (R249, R250) -/

/-- The complete frame that output `n` takes: of its format, and, after its first frame, one that it has not sent. -/
def State.sdiFresh (s : State) (n : Nat) : Option OpkSlot :=
  (s.opkRun (s.sdiSource n)).latest.filter
    (fun k => s.slotMatches n k && ((s.sdiO n).last.isNone || (s.opkRun (s.sdiSource n)).count != (s.sdiO n).seen))

/-- The frame that output `n` sends: the fresh one, or the one before again. -/
def State.sdiChosen (s : State) (n : Nat) : Option OpkSlot := if (s.sdiFresh n).isSome then s.sdiFresh n else (s.sdiO n).last

/-- The frames that output `n` skipped are counted, or its repeat; a first frame counts neither. -/
def State.sdiCounted (s : State) (n : Nat) : State :=
  match s.sdiFresh n, (s.sdiO n).last with
  | some _, some _ => s.bumpBy (F.SDI_OUT_STAT.SKIPS n) ((s.opkRun (s.sdiSource n)).count - (s.sdiO n).seen - 1)
  | none, some _ => s.bump (F.SDI_OUT_STAT.REPEATS n)
  | _, none => s

/-- Output `n` has begun its frame and holds the slot of what it sends. -/
def State.sdiTaken (s : State) (n : Nat) : State :=
  (s.sdiCounted n).setSdiO n { s.sdiO n with
    hold := (s.sdiChosen n).map (·.slot)
    seen := if (s.sdiFresh n).isSome then (s.opkRun (s.sdiSource n)).count else (s.sdiO n).seen
    last := s.sdiChosen n
    started := true }

section
variable {s : State} {n : Nat}

theorem sdiFresh_after {q : OpkSlot} (sent : (s.sdiO n).last = some q) :
    s.sdiFresh n = (s.opkRun (s.sdiSource n)).latest.filter
      (fun k => s.slotMatches n k && (s.opkRun (s.sdiSource n)).count != (s.sdiO n).seen) := by
  unfold State.sdiFresh
  simp only [sent, Option.isNone_some, Bool.false_or]

theorem sdiTaken_repeat {q : OpkSlot} (sent : (s.sdiO n).last = some q) (stale : s.sdiFresh n = none) :
    s.sdiTaken n = (s.bump (F.SDI_OUT_STAT.REPEATS n)).setSdiO n { s.sdiO n with hold := some q.slot, last := some q, started := true } := by
  unfold State.sdiTaken State.sdiCounted State.sdiChosen
  simp only [stale, sent]
  rfl

theorem sdiTaken_fresh {q k : OpkSlot} (sent : (s.sdiO n).last = some q) (fresh : s.sdiFresh n = some k) :
    s.sdiTaken n =
      (s.bumpBy (F.SDI_OUT_STAT.SKIPS n) ((s.opkRun (s.sdiSource n)).count - (s.sdiO n).seen - 1)).setSdiO n
        { s.sdiO n with hold := some k.slot, seen := (s.opkRun (s.sdiSource n)).count, last := some k, started := true } := by
  unfold State.sdiTaken State.sdiCounted State.sdiChosen
  simp only [fresh, sent]
  rfl

/-! ### What a framer sends (R249, R250, R252 to R254) -/

/-- Payload IDs and timecode of the frame are sent. -/
def State.sdiHeads (s : State) (n : Nat) (k : Option OpkSlot) : State := (s.sendPids n k).sendTimecode n

/-- The lines of output `n`'s raster in the order they are sent. -/
def State.sdiOrder (s : State) (n : Nat) : List Nat :=
  lineOrder (decide (s.get (F.SDI_OUT_FMT.RASTER n) = 1)) (rasterSize (s.get (F.SDI_OUT_FMT.RASTER n))).2

/-- The sample sets at 48 kHz that output `n`'s frame after `frames` others holds. -/
def State.sdiSets (s : State) (n frames : Nat) : Nat :=
  setsUpTo (s.get (F.SDI_OUT_FMT.RATE n)) (frames + 1) - setsUpTo (s.get (F.SDI_OUT_FMT.RATE n)) frames

/-- `c` lines of a frame of output `n` came late. -/
def State.sdiLate (s : State) (n c : Nat) : State :=
  if c = 0 then s else (s.bumpBy (F.SDI_OUT_STAT.UNDERRUNS n) c).post (srcSdi n) 3 3 (0x10 + n) c

/-- Output `n` sends frame `k`, which comes after `frames` others, with the lines `late` as black. -/
def State.sdiSends (s : State) (n : Nat) (k : Option OpkSlot) (late : List Nat) (frames : Nat) : State :=
  let order := (s.sdiHeads n k).sdiOrder n
  let sent := (s.sdiHeads n k).outLines n k late order
  ((sent.2.2.sendRows n order sent.1).embedFrame n (s.sdiSets n frames)).sdiLate n sent.2.1

theorem sdiSends_of_lines {k : Option OpkSlot} {late : List Nat} {rows : List (List Nat)} {c : Nat} {w : State}
    (lines : (s.sdiHeads n k).outLines n k late ((s.sdiHeads n k).sdiOrder n) = (rows, c, w)) (frames : Nat) :
    s.sdiSends n k late frames =
      ((w.sendRows n ((s.sdiHeads n k).sdiOrder n) rows).embedFrame n (s.sdiSets n frames)).sdiLate n c := by
  unfold State.sdiSends
  simp only [lines]

theorem sdiTake_other (h : (s.sdiO n).running = false ∨ (s.sdiO n).started = true) (late : List Nat) : s.sdiTake n late = s :=
  if_pos (by simpa using h)

section
variable (running : (s.sdiO n).running = true) (waits : (s.sdiO n).started = false) (late : List Nat)
include running waits

theorem sdiTake_waiting :
    s.sdiTake n late =
      if !(s.sdiTaken n).sdiLit n then s.sdiTaken n else (s.sdiTaken n).sdiSends n (s.sdiChosen n) late (s.sdiO n).frames :=
  if_neg (by rw [running, waits]; decide)

theorem sdiTake_idle {v : State} (taken : s.sdiTaken n = v) (idle : v.sdiLit n = false) : s.sdiTake n late = v := by
  rw [sdiTake_waiting running waits, taken, idle]
  rfl

theorem sdiTake_driven (driven : (s.sdiTaken n).sdiLit n = true) :
    s.sdiTake n late = (s.sdiTaken n).sdiSends n (s.sdiChosen n) late (s.sdiO n).frames := by
  rw [sdiTake_waiting running waits, driven]
  rfl

end
end

/-- Settles O36: a write of SDI_OUTn_CFG enables or disables (`wrSdiOutCfg_enables`, `wrSdiOutCfg_disables`), an instant comes or does not
(`tgInstant_due`), and a framer's slot is `State.sdiTaken`, followed by the frame where the lanes are driven. -/
theorem sdiOutputs : Obligations.SdiOutputs := by
  refine ⟨?enable, ?disable, ?instant, ?noInstant, ?again, ?sends, ?noTake⟩
  case enable =>
    intro n v src s u reaches disabled w enables others
    have effect := wrSdiOutCfg_enables disabled enables
    refine ⟨fun refused => ?_, fun r listed fits => ?_⟩
    · exact reaches.to (effect.trans (by rw [sdiEnable_refused refused]))
    · exact reaches.to (effect.trans (by rw [sdiEnable_rated listed fits]; rfl))
  case disable =>
    intro n v src s u reaches enabled x generator source mapping
    exact reaches.to (wrSdiOutCfg_disables enabled (clearBit31 v) generator source mapping)
  case instant =>
    intro k phase s awake enabled due
    exact running_to awake (tgInstant_due enabled due phase.toNat)
  case noInstant =>
    intro k phase s h
    exact running_self (tgInstant_other h phase.toNat)
  case again =>
    intro n late1 late2 s q awake running waits sent
    refine ⟨fun stale => ?_, fun k fresh => ?_⟩
    · intro v idle
      have taken := sdiTaken_repeat sent ((sdiFresh_after sent).trans stale)
      exact running_to awake (sdiTake_idle running waits _ taken idle)
    · intro v idle
      have taken := sdiTaken_fresh sent ((sdiFresh_after sent).trans fresh)
      exact running_to awake (sdiTake_idle running waits _ taken idle)
  case sends =>
    intro n late1 late2 s u fresh awake running waits isFresh counted
    subst isFresh counted
    intro k v raster order driven rows c w lines y
    exact running_to awake ((sdiTake_driven running waits _ driven).trans (sdiSends_of_lines lines _))
  case noTake =>
    intro n late1 late2 s h
    exact running_self (sdiTake_other h _)

end Sys2Proof.Machine
end

section
/-! SDI inputs and genlock (chapter 10, R255, R256, R259): what a received frame leaves at its input, and how the generators go into
holdover and come back. -/

namespace Sys2Proof.Machine

/-! ### Receiving a frame (R255, R256) -/

section
variable {s : State} {m : Nat} {x : SdiRx}

/-- The CRC line and TRS errors of a frame are counted. -/
def State.sdiErrors (s : State) (m : Nat) (x : SdiRx) : State :=
  (s.bumpBy (F.SDI_IN_ERR.CRC_LINES m) x.crcLines).bumpBy (F.SDI_IN_ERR.TRS m) x.trs

/-- The status flags of a frame (R228), against the payload ID and timecode that the input keeps. -/
def sdiFlags (i : SdiIn) (x : SdiRx) : Nat :=
  flagIf x.pid.isSome 0 + flagIf (x.pid.any (fun p => p != i.lastPid)) 1 + flagIf x.tc.isSome 2 +
    flagIf (x.tc.any (fun w => i.tcSeen && !tcFollows x.rate i.lastTc w)) 3 + flagIf (decide (0 < x.trs)) 4

/-- The input keeps the payload ID, timecode, EAV time and audio of a frame. -/
def State.sdiKeeps (s : State) (m : Nat) (x : SdiRx) : State :=
  s.setSdiI m { s.sdiI m with
    lastPid := x.pid.getD (s.sdiI m).lastPid
    lastTc := x.tc.getD (s.sdiI m).lastTc
    tcSeen := (s.sdiI m).tcSeen || x.tc.isSome
    eav := s.now
    audio := (List.range 4).foldl (fun a g => sset [] a g (sget [] a g ++ x.groups.getD g [])) (s.sdiI m).audio }

/-- A frame at input `m` is counted, measured and kept. -/
def State.sdiMeasured (s : State) (m : Nat) (x : SdiRx) : State := ((s.sdiErrors m x).sdiDetect m x).sdiKeeps m x

theorem sdiReceive_unused (h : s.on (F.SDI_IN_CFG.EN m) = false ∨ s.sdiLanes (0x20 + m) = []) : s.sdiReceive m x = s :=
  if_pos (by simpa using h)

section
variable (enabled : s.on (F.SDI_IN_CFG.EN m) = true) (linked : s.sdiLanes (0x20 + m) ≠ [])
include enabled linked

theorem sdiReceive_lost (h : x.links.length ≠ (s.sdiLanes (0x20 + m)).length ∨ (s.sdiLanes (0x20 + m)).all s.laneValid = false) :
    s.sdiReceive m x = s.sdiInputLost m := by
  unfold State.sdiReceive
  rw [if_neg (by simp [enabled, linked])]
  exact if_pos (by rwa [Bool.not_eq_true'])

theorem sdiReceive_measured (links : x.links.length = (s.sdiLanes (0x20 + m)).length)
    (valid : (s.sdiLanes (0x20 + m)).all s.laneValid = true) :
    s.sdiReceive m x =
      if !x.skewOk then (s.sdiMeasured m x).bump (F.SDI_IN_ERR.ALIGN m)
      else if sdiKey x = 0 then s.sdiMeasured m x
      else ((s.sdiMeasured m x).sdiDeliver m x (sdiFlags ((s.sdiErrors m x).sdiI m) x) 2).sdiDeliver m x
        (sdiFlags ((s.sdiErrors m x).sdiI m) x) 3 := by
  unfold State.sdiReceive
  rw [if_neg (by simp [enabled, linked])]
  exact if_neg (by simp [links, valid])

end
end

/-! ### Genlock (R259) -/

/-- Every generator is adrift. -/
def State.tgAllAdrift (s : State) : State :=
  [0, 1, 2, 3].foldl (fun a k => { a with tg := sset tgInit a.tg k { sget tgInit a.tg k with adrift := true } }) s

/-- The generators run on without their source. -/
def State.glkHolds (s : State) : State := (s.tgAllAdrift.put F.SDI_GLK_STAT.HOLDOVER 1).post 0x0A00 4 0 0 0

theorem holdover_glkHolds (s : State) : s.glkHolds.on F.SDI_GLK_STAT.HOLDOVER = true := by
  have posted := posted_post (s.tgAllAdrift.put F.SDI_GLK_STAT.HOLDOVER 1) 0x0A00 4 0 0 0
  exact (posted.on (by decide) (by decide)).trans (on_put_one _ (Fld.ok_of rfl))

theorem genlockFollows_iff {s : State} : s.genlockFollows = true ↔ s.get F.SDI_GLK_CFG.SRC = 1 ∨ s.get F.SDI_GLK_CFG.SRC = 2 := by
  unfold State.genlockFollows
  rw [Bool.or_eq_true, beq_iff_eq, beq_iff_eq]

theorem exec_genlockSourceLost (s : State) :
    exec .genlockSourceLost s =
      s.running (if s.genlockFollows && !s.genlockSource && !s.on F.SDI_GLK_STAT.HOLDOVER then s.glkHolds else s) := rfl

/-- The generators of `far` that run move their next frame instant to the aligned one. -/
def State.glkJams (s : State) (far : Nat) : State :=
  [0, 1, 2, 3].foldl (fun a k => if far.testBit k && a.on (F.SDI_TG_CFG.EN k) then a.tgJam k else a) s

/-- The generators have their source again. -/
def State.glkReturns (s : State) (far : Nat) : State :=
  if (s.put F.SDI_GLK_STAT.HOLDOVER 0).on F.SDI_GLK_CFG.JAM then (s.put F.SDI_GLK_STAT.HOLDOVER 0).glkJams far
  else s.put F.SDI_GLK_STAT.HOLDOVER 0

theorem exec_genlockSourceReturn (far : Nat) (s : State) :
    exec (.genlockSourceReturn far) s =
      s.running (if s.on F.SDI_GLK_STAT.HOLDOVER && s.genlockSource then s.glkReturns far else s) := rfl

/-- Settles O37: a frame is none of the input's, lost, or measured (`sdiReceive_unused`, `sdiReceive_lost`, `sdiReceive_measured`), and
genlock acts under its conditions (`exec_genlockSourceLost`, `exec_genlockSourceReturn`). -/
theorem sdiInputsAndGenlock : Obligations.SdiInputsAndGenlock := by
  refine ⟨?measured, ?lost, ?unused, ?holds, ?noLoss, ?returns, ?noReturn⟩
  case measured =>
    intro m x s awake enabled linked links valid y flags w v
    have effect := sdiReceive_measured enabled linked links valid
    refine ⟨_, running_next awake _, fun skewed => ?_, fun aligned unlisted => ?_, fun aligned listed => ?_⟩
    · rw [effect, skewed]; rfl
    · rw [effect, aligned]; exact if_pos unlisted
    · rw [effect, aligned]; exact if_neg listed
  case lost =>
    intro m x s awake enabled linked h
    exact running_to awake (sdiReceive_lost enabled linked h)
  case unused =>
    intro m x s h
    exact running_self (sdiReceive_unused h)
  case holds =>
    intro s awake follows gone runs
    refine ⟨s.glkHolds, ?_, rfl, holdover_glkHolds s⟩
    rw [exec_genlockSourceLost, genlockFollows_iff.mpr follows, gone, runs]
    exact running_next awake _
  case noLoss =>
    intro s h
    rw [exec_genlockSourceLost]
    refine running_self (if_neg fun lost => ?_)
    simp only [Bool.and_eq_true, Bool.not_eq_true', genlockFollows_iff] at lost
    obtain ⟨⟨follows, gone⟩, runs⟩ := lost
    obtain ⟨not1, not2⟩ | there | holds := h
    · exact follows.elim not1 not2
    · exact Bool.eq_false_iff.mp gone there
    · exact Bool.eq_false_iff.mp runs holds
  case returns =>
    intro far s awake holds there v
    have effect : exec (.genlockSourceReturn far) s = .next (s.glkReturns far) := by
      rw [exec_genlockSourceReturn, holds, there]
      exact running_next awake _
    exact ⟨fun slews => ⟨_, effect, if_neg (Bool.eq_false_iff.mp slews)⟩, fun jams => ⟨_, effect, if_pos jams⟩⟩
  case noReturn =>
    intro far s h
    rw [exec_genlockSourceReturn]
    exact running_self (if_neg (by rw [Bool.and_eq_true]; rintro ⟨holds, there⟩; simp [holds, there] at h))

end Sys2Proof.Machine
end

section
/-! Codec contexts (chapter 11, R268, R270, R273, R293, Table 11.14): what a write of VCE_CTXn_CTRL does to a Closed context and to an
open one, and what opening and closing make of the context. -/

namespace Sys2Proof.Machine

/-! ### Opening (R268) -/

/-- The context is Idle with descriptor `d`: no open error, and its indices at 0. -/
def State.vceOpened (s : State) (n : Nat) (d : List Byte) : State :=
  (((((((s.setVce n { vceInit with desc := d }).setVceState n 1).put (F.VCE_CTX_CTRL.OPEN_ERR n) 0).wreg (R.VCE_CTX_JOB n) 0).wreg
    (R.VCE_CTX_BS_WPTR n) 0).wreg (R.VCE_CTX_BS_RPTR n) 0).wreg (R.VCE_CTX_REP n) 0).wreg (R.VCE_CTX_OUT n) 0

section
variable {s : State} {n : Nat}

theorem vceOpen_of_open (opened : s.vceState n ≠ 0) : s.vceOpen n = s := if_pos opened

section
variable (closed : s.vceState n = 0)
include closed

theorem vceOpen_checked {d : List Byte} {w : State} (passes : s.openCheck n = (0, d, w)) : s.vceOpen n = w.vceOpened n d := by
  unfold State.vceOpen
  rw [if_neg (fun opened => opened closed), passes]
  rfl

theorem vceOpen_refused {e : Nat} {d : List Byte} {w : State} (checked : s.openCheck n = (e, d, w)) (fails : e ≠ 0) :
    s.vceOpen n = (w.put (F.VCE_CTX_CTRL.OPEN_ERR n) e).post (srcVce n) 3 0 e 0 := by
  unfold State.vceOpen
  rw [if_neg (fun opened => opened closed), checked]
  cases e with
  | zero => exact absurd rfl fails
  | succ e => rfl

end

/-! ### Closing (R273) -/

/-- A context without a picture owes none. -/
theorem VceCtx.owes_of_pic_none {x : VceCtx} (idle : x.pic = none) : x.owes = false := by
  unfold VceCtx.owes
  rw [idle]
  rfl

section
variable (opened : s.vceState n ≠ 0)
include opened

/-- A context at work goes on to its picture boundary. -/
theorem vceClose_goes (goes : s.vceState n = 2 ∨ s.vceState n = 3 ∨ (s.vceC n).owes = true) :
    s.vceClose n = s.setVce n { s.vceC n with closing := true } := by
  have works : (decide (s.vceState n = 2 ∨ s.vceState n = 3) || (s.vceC n).owes) = true := by
    rwa [Bool.or_eq_true, decide_eq_true_eq, or_assoc]
  unfold State.vceClose
  rw [if_neg opened]
  simp only [works, if_true]

/-- A context that is neither at work nor suspended is at its boundary. -/
theorem vceClose_rests (notRunning : s.vceState n ≠ 2) (notPreempted : s.vceState n ≠ 3) (notSuspended : s.vceState n ≠ 4)
    (idle : (s.vceC n).owes = false) :
    s.vceClose n =
      let w := s.setVce n { s.vceC n with closing := true, ready := none }
      ((w.setVce n { w.vceC n with pic := none }).setVceState n 5).vceBoundary n := by
  have rests : (decide (s.vceState n = 2 ∨ s.vceState n = 3) || (s.vceC n).owes) = false := by
    simp [notRunning, notPreempted, idle]
  unfold State.vceClose
  rw [if_neg opened]
  simp only [rests, notSuspended, Bool.false_eq_true, if_false]

end

/-! ### A write of VCE_CTXn_CTRL (Table 11.14) -/

/-- A Closed context takes OPEN alone. -/
theorem wrVceCtrl_of_closed (closed : s.vceState n = 0) (v : Word) : wrVceCtrl n v s = s.when (v.getLsbD 31) (·.vceOpen n) := by
  simp [wrVceCtrl, closed, State.when]

/-- A request marks the context. -/
def State.vceMark (s : State) (n : Nat) (f : VceCtx → VceCtx) : State := s.setVce n (f (s.vceC n))

/-- An open context takes RELOAD, FORCE_IRAP, FLUSH and last CLOSE. -/
theorem wrVceCtrl_of_open (opened : s.vceState n ≠ 0) (v : Word) :
    wrVceCtrl n v s =
      (((s.when (v.getLsbD 29) (·.vceMark n fun x => { x with reload := true })).when
        (v.getLsbD 28) (·.vceMark n fun x => { x with force := true })).when
        (v.getLsbD 27) (·.vceMark n fun x => { x with flush := true })).when
        (v.getLsbD 30) (·.vceClose n) := by
  have isOpen : (s.vceState n != 0) = true := bne_iff_ne.mpr opened
  have unopened : s.when (v.getLsbD 31) (·.vceOpen n) = s := by
    unfold State.when
    simp only [vceOpen_of_open opened, ite_self]
  unfold wrVceCtrl
  simp only [isOpen, unopened, Bool.and_true]
  rfl

end

/-- Settles O38: a Closed context takes OPEN (`wrVceCtrl_of_closed`, `vceOpen_checked`, `vceOpen_refused`), an open one its requests
(`wrVceCtrl_of_open`) and its close as its state has it (`vceClose_goes`, `vceClose_rests`). -/
theorem codecContexts : Obligations.CodecContexts := by
  refine ⟨?config, ?opens, ?again, ?requests, ?closed⟩
  case config =>
    intro src v s u reaches
    exact ⟨fun quiet => reaches.to (if_neg (Bool.eq_false_iff.mp quiet)), fun busy => reaches.to (if_pos busy)⟩
  case opens =>
    intro n s u w e d reaches closed checked
    have opens : wrVceCtrl n 0x80000000 u = u.vceOpen n := wrVceCtrl_of_closed closed _
    refine ⟨fun passes => ?_, fun fails => ?_⟩
    · subst passes
      exact reaches.to (opens.trans (vceOpen_checked closed checked))
    · exact reaches.to (opens.trans (vceOpen_refused closed checked fails))
  case again =>
    intro n s u reaches opened
    exact (reaches.next _).trans (congrArg _ (wrVceCtrl_of_open opened _))
  case requests =>
    intro n s u reaches opened
    have takes := wrVceCtrl_of_open opened
    have closes : wrVceCtrl n 0x40000000 u = u.vceClose n := takes _
    refine ⟨fun goes => ?_, fun notRunning notPreempted notSuspended idle => ?_, ?_, ?_, ?_⟩
    · exact reaches.to (closes.trans (vceClose_goes opened goes))
    · exact reaches.to (closes.trans (vceClose_rests opened notRunning notPreempted notSuspended (VceCtx.owes_of_pic_none idle)))
    · exact reaches.to (takes 0x20000000)
    · exact reaches.to (takes 0x10000000)
    · exact reaches.to (takes 0x08000000)
  case closed =>
    intro n s u reaches closed c listed
    have ignores := wrVceCtrl_of_closed closed
    simp only [List.mem_cons, List.not_mem_nil, or_false] at listed
    obtain rfl | rfl | rfl | rfl := listed
    · exact (reaches.next _).trans (congrArg _ (ignores 0x40000000))
    · exact (reaches.next _).trans (congrArg _ (ignores 0x20000000))
    · exact (reaches.next _).trans (congrArg _ (ignores 0x10000000))
    · exact (reaches.next _).trans (congrArg _ (ignores 0x08000000))

end Sys2Proof.Machine
end

section
/-! The DRAM controller (chapter 13, R320 to R332, R553): when the mapping is applied, how a channel is brought up, retrained and trained,
when a request is performed, waits or fails, and what refreshes, row time-outs and self-refresh do. -/

namespace Sys2Proof.Machine

section
variable {s : State} {ch : Nat}

/-! ### The mapping (R320) -/

theorem wrDrcMapctl_checks {v : Word} (asked : v.getLsbD 31 = true) (free : s.on F.DRC_MAPCTL.APPLY = false) :
    s.wrDrcMapctl v = (s.put F.DRC_MAPCTL.ERR s.mapError).putB F.DRC_MAPCTL.APPLY (decide (s.mapError = 0)) :=
  if_pos (by rw [asked, free]; rfl)

theorem wrDrcMapctl_self {v : Word} (h : v.getLsbD 31 = false ∨ s.on F.DRC_MAPCTL.APPLY = true) : s.wrDrcMapctl v = s := by
  refine if_neg fun checks => ?_
  simp only [Bool.and_eq_true, Bool.not_eq_true'] at checks
  obtain ⟨asked, free⟩ := checks
  exact h.elim (fun unasked => Bool.eq_false_iff.mp unasked asked) (Bool.eq_false_iff.mp free)

/-! ### Starting an initialisation or a retrain (R326, R327, R329, R553) -/

theorem drcInit_starts (resume : Bool) (mapped : s.on F.DRC_MAPCTL.APPLY = true)
    (down : s.get (F.DRC_CTRL.STATE ch) = 0 ∨ s.get (F.DRC_CTRL.STATE ch) = 5) :
    s.drcInit ch resume =
      let w := ((((s.demand 88).demand (72 + 2 * ch)).demand (73 + 2 * ch)).put (F.DRC_CTRL.STATE ch) 1).put (F.DRC_CTRL.TRAIN_ERR ch) 0
      { w with dram := { w.dram with resume := sset false w.dram.resume ch resume } } :=
  if_pos (by simpa [mapped] using down)

theorem drcInit_ignored (resume : Bool)
    (h : s.on F.DRC_MAPCTL.APPLY = false ∨ (s.get (F.DRC_CTRL.STATE ch) ≠ 0 ∧ s.get (F.DRC_CTRL.STATE ch) ≠ 5)) :
    s.drcInit ch resume = s.postIgnored (drcSrc ch) 3 (R.DRC_CTRL ch) := by
  refine if_neg fun starts => ?_
  simp only [Bool.and_eq_true, Bool.or_eq_true, beq_iff_eq] at starts
  obtain ⟨mapped, down⟩ := starts
  obtain unmapped | ⟨notReset, notFailed⟩ := h
  · exact Bool.eq_false_iff.mp unmapped mapped
  · exact down.elim notReset notFailed

theorem drcRetrain_self (full : Bool) (h : s.get (F.DRC_CTRL.STATE ch) ≠ 2) : s.drcRetrain ch full = s := if_pos h

theorem drcRetrain_inService (full : Bool) (h : s.get (F.DRC_CTRL.STATE ch) = 2) :
    s.drcRetrain ch full = if full then (s.put (F.DRC_CTRL.STATE ch) 4).put (F.DRC_CTRL.TRAIN_ERR ch) 0 else s.dueBoth ch :=
  if_neg (not_not_intro h)

/-! ### Training ends (Table 13.4) -/

/-- The channel takes the presets of its band on both subchannels and is in service. -/
def State.trained (s : State) (ch : Nat) : State :=
  ((s.put (F.DRC_CTRL.STATE ch) 2).applyPresets (2 * ch)).applyPresets (2 * ch + 1)

theorem trainDone_retrain (err : Nat) (h : s.get (F.DRC_CTRL.STATE ch) = 4) :
    s.trainDone ch err =
      if err ≠ 0 then ((s.bump (F.DRC_RTRN.FULL ch)).trainFail ch err 6).failWaiting ch
      else (((s.bump (F.DRC_RTRN.FULL ch)).trained ch).runDue ch).serveAll :=
  if_pos h

/-- An initialising channel has its domains On and MCLK locked. -/
structure State.InitReady (s : State) (ch : Nat) : Prop where
  state : s.get (F.DRC_CTRL.STATE ch) = 1
  controller : s.domOn 88 = true
  subA : s.domOn (72 + 2 * ch) = true
  subB : s.domOn (73 + 2 * ch) = true
  mclk : s.bit F.PWR_PLL.LOCK 1 = true

/-- The channel's INIT is no longer a resuming one. -/
def State.resumeDone (s : State) (ch : Nat) : State := { s with dram := { s.dram with resume := sset false s.dram.resume ch false } }

/-- The channel's devices are out of self-refresh. -/
def State.selfRefDone (s : State) (ch : Nat) : State := { s with dram := { s.dram with selfRef := sset false s.dram.selfRef ch false } }

/-- What an initialisation trains: the contents that a resuming one keeps, or none. -/
def State.initialised (s : State) (ch : Nat) : State :=
  if sget false s.dram.resume ch then (s.resumeDone ch).selfRefDone ch else ((s.resumeDone ch).selfRefDone ch).loseChannel ch

theorem trainDone_init (err : Nat) (ready : s.InitReady ch) :
    s.trainDone ch err =
      if sget false s.dram.resume ch && !sget false s.dram.selfRef ch then (s.resumeDone ch).trainFail ch 8 5
      else if err ≠ 0 then (s.initialised ch).trainFail ch err 5 else (s.initialised ch).trained ch := by
  obtain ⟨state, controller, subA, subB, mclk⟩ := ready
  unfold State.trainDone
  rw [if_neg (by rw [state]; decide), if_pos ⟨state, controller, subA, subB, mclk⟩]
  rfl

/-- An initialisation with nothing to keep, or a resume with kept contents, ends as its steps did. -/
theorem trainDone_initialised (err : Nat) (ready : s.InitReady ch)
    (h : sget false s.dram.resume ch = false ∨ sget false s.dram.selfRef ch = true) :
    s.trainDone ch err = if err ≠ 0 then (s.initialised ch).trainFail ch err 5 else (s.initialised ch).trained ch :=
  (trainDone_init err ready).trans (if_neg (by obtain h | h := h <;> simp [h]))

theorem trainDone_lost (err : Nat) (ready : s.InitReady ch) (resume : sget false s.dram.resume ch = true)
    (lost : sget false s.dram.selfRef ch = false) : s.trainDone ch err = (s.resumeDone ch).trainFail ch 8 5 :=
  (trainDone_init err ready).trans (if_pos (by rw [resume, lost]; rfl))

/-! ### Short retrains (R328) -/

theorem dueShort_inService {x : Nat} (h : s.get (F.DRC_CTRL.STATE (x / 2)) = 2) : s.dueShort x = s.startShort x := by
  unfold State.dueShort
  rw [h]
  rfl

theorem dueShort_later {x : Nat} (h : s.get (F.DRC_CTRL.STATE (x / 2)) = 3 ∨ s.get (F.DRC_CTRL.STATE (x / 2)) = 4) :
    s.dueShort x = { s with dram := { s.dram with shortDue := s.dram.shortDue ++ [x] } } := by
  unfold State.dueShort
  obtain h | h := h <;> rw [h] <;> rfl

theorem shortDone_of_none (h : s.dram.short = none) : s.shortDone = s := by
  unfold State.shortDone
  rw [h]

theorem shortDone_of_some {x : Nat} (h : s.dram.short = some x) :
    s.shortDone = (((s.bump (F.DRC_RTRN.SHORT (x / 2))).applyPresets x).nextShort s.dram.shortWait).serveAll := by
  unfold State.shortDone
  rw [h]

end

/-- Settles O43: each command acts under its condition (`wrDrcMapctl_checks`, `drcInit_starts`, `drcRetrain_inService`), training ends by
the channel's state (`trainDone_retrain`, `trainDone_init`), and a short retrain comes due or ends (`dueShort_later`, `shortDone_of_some`). -/
theorem dramTraining : Obligations.DramTraining := by
  refine ⟨?mapping, ?init, ?retrain, ?noRetrain, ?retrained, ?initialised, ?due, ?done⟩
  case mapping =>
    intro v s u reaches
    refine ⟨fun asked free => reaches.to (wrDrcMapctl_checks asked free), fun h => ?_⟩
    exact (reaches.next _).trans (congrArg _ (wrDrcMapctl_self h))
  case init =>
    intro ch s resume awake
    have effect : exec (if resume then .drcInitResume ch else .drcInit ch) s = .next (s.drcInit ch resume) := by
      cases resume <;> exact running_next awake _
    exact ⟨fun mapped down => ⟨_, effect, drcInit_starts resume mapped down⟩, fun h => ⟨_, effect, drcInit_ignored resume h⟩⟩
  case retrain =>
    intro ch s awake serves
    exact ⟨running_to awake (drcRetrain_inService true serves), running_to awake (drcRetrain_inService false serves)⟩
  case noRetrain =>
    intro ch s h
    exact ⟨running_self (drcRetrain_self true h), running_self (drcRetrain_self false h)⟩
  case retrained =>
    intro ch err s awake retrains w
    have effect := trainDone_retrain err.val retrains
    refine ⟨fun good => ?_, fun bad => ?_⟩
    · exact running_to awake (effect.trans (if_neg (not_not_intro (congrArg Fin.val good))))
    · exact running_to awake (effect.trans (if_pos (Fin.val_ne_of_ne bad)))
  case initialised =>
    intro ch err s awake state controller subA subB mclk w kept fails
    have ready : s.InitReady ch := ⟨state, controller, subA, subB, mclk⟩
    refine ⟨fun resume lost => running_to awake (trainDone_lost err.val ready resume lost), fun v h => ?_⟩
    have ends := trainDone_initialised err.val ready (h.symm.imp And.left fun ⟨_, keeps, _⟩ => keeps)
    have found : s.initialised ch = v := by
      obtain ⟨resume, -, rfl⟩ | ⟨resume, rfl⟩ := h
      · exact if_pos resume
      · exact if_neg (Bool.eq_false_iff.mp resume)
    rw [found] at ends
    refine ⟨fun good => ?_, fun bad => ?_⟩
    · exact running_to awake (ends.trans (if_neg (not_not_intro (congrArg Fin.val good))))
    · exact running_to awake (ends.trans (if_pos (Fin.val_ne_of_ne bad)))
  case due =>
    intro x s awake
    exact ⟨fun serves => running_to awake (dueShort_inService serves), fun later => running_to awake (dueShort_later later)⟩
  case done =>
    intro s
    exact ⟨fun x awake runs => running_to awake (shortDone_of_some runs), fun none => running_self (shortDone_of_none none)⟩

section
variable {s : State}

/-! ### Requests (R321, R324, R341) -/

section
variable {q : WaitReq} {reads : Bool}

theorem dramSubmit_fails (h : s.dramReady q.addr = false) :
    s.dramSubmit q reads = (s.dramFail q.addr).when (!q.write) (·.emit "dram parity error" q.client [q.addr]) :=
  if_pos (by rw [h]; rfl)

section
variable (ready : s.dramReady q.addr = true)
include ready

theorem dramSubmit_performs (admitted : (s.exitSelfRefresh (s.dramLoc q.addr).ch).admissible q = true)
    (first : (s.exitSelfRefresh (s.dramLoc q.addr).ch).steepWait.any (fun v => v.addr == q.addr) = false) :
    s.dramSubmit q reads = (s.exitSelfRefresh (s.dramLoc q.addr).ch).dramPerform q reads := by
  unfold State.dramSubmit
  rw [if_neg (by rw [ready]; decide)]
  exact if_pos (by rw [admitted, first]; rfl)

theorem dramSubmit_waits (h : (s.exitSelfRefresh (s.dramLoc q.addr).ch).admissible q = false ∨
      (s.exitSelfRefresh (s.dramLoc q.addr).ch).steepWait.any (fun v => v.addr == q.addr) = true) :
    s.dramSubmit q reads =
      let v := s.exitSelfRefresh (s.dramLoc q.addr).ch
      { v.setClient q.client { v.client q.client with held := (v.client q.client).held || decide (v.tier q.client 0 = 0) } with
        steepWait := v.steepWait ++ [q] } := by
  unfold State.dramSubmit
  rw [if_neg (by rw [ready]; decide)]
  refine if_neg fun goes => ?_
  simp only [Bool.and_eq_true, Bool.not_eq_true'] at goes
  obtain ⟨admitted, first⟩ := goes
  obtain h | h := h
  · exact Bool.eq_false_iff.mp h admitted
  · exact Bool.eq_false_iff.mp first h

end
end

/-! ### Bands (R330, R489) -/

/-- The higher of the device band and the bands of the channel's twelve devices. -/
def State.hottestBand (s : State) (ch : Nat) : Nat :=
  max (s.get F.THM_STAT.BAND) ((List.range 12).foldl (fun b i => max b (sget 0 s.dram.devBands (12 * ch + i))) 0)

theorem rebandChannel_self {ch : Nat} (h : s.hottestBand ch = s.get (F.DRC_CTRL.BAND ch)) : s.rebandChannel ch = s := if_pos h

theorem rebandChannel_changes {ch : Nat} (h : s.hottestBand ch ≠ s.get (F.DRC_CTRL.BAND ch)) :
    s.rebandChannel ch = (s.put (F.DRC_CTRL.BAND ch) (s.hottestBand ch)).dueBoth ch := if_neg h

/-! ### Refresh, rows and self-refresh (R322, R331, R332) -/

/-- A refresh of the rank may be put off: fewer than four are, and a request waits. -/
def State.refreshWaits (s : State) (k : Nat) : Bool := decide (sget 0 s.dram.postponed k < 4) && s.subWaits (k / 2)

theorem exec_refreshDue (rank : Fin 32) (postpone : Bool) (s : State) :
    exec (.refreshDue rank postpone) s = s.running (
      if s.get (F.DRC_CTRL.STATE (rank / 4 : Nat)) ≠ 2 ∧ s.get (F.DRC_CTRL.STATE (rank / 4 : Nat)) ≠ 4 then s
      else if postpone && s.refreshWaits rank then
        { s with dram := { s.dram with postponed := sset 0 s.dram.postponed rank.val (sget 0 s.dram.postponed rank.val + 1) } }
      else s.refreshRank rank) := by
  unfold State.refreshWaits
  rw [← Bool.and_assoc]
  rfl

theorem exec_pageAutoTimeout_auto {bank : Fin 512} {r : Nat} (auto : sget none s.dram.rows bank.val = some (r, 0)) :
    exec (.pageAutoTimeout bank) s = s.running (s.closeRows bank (bank + 1)) := by
  change execPageAutoTimeout bank s = _
  unfold execPageAutoTimeout
  rw [auto]
  rfl

theorem exec_pageAutoTimeout_self {bank : Fin 512} (h : ∀ r, sget none s.dram.rows bank.val ≠ some (r, 0)) :
    exec (.pageAutoTimeout bank) s = .next s := by
  refine running_self ?_
  split
  · next r auto => exact absurd auto (h r)
  · rfl

/-- A request is at the channel: one waits, or a short retrain of it runs or waits. -/
def State.channelBusy (s : State) (ch : Nat) : Bool :=
  s.steepWait.any (fun w => (s.dramLoc w.addr).ch == ch) ||
    (s.dram.short :: s.dram.shortWait.map some).any (fun x => x == some (2 * ch) || x == some (2 * ch + 1))

theorem exec_selfRefreshEntry (ch : Fin 8) (s : State) :
    exec (.selfRefreshEntry ch) s = s.running (
      if s.get (F.DRC_CTRL.STATE ch) = 2 ∧ s.on (F.DRC_SR.EN ch) = true ∧ s.get (F.DRC_SR.IDLE_US ch) ≠ 0 ∧ (!s.channelBusy ch) = true
      then s.selfRefresh ch else s) := rfl

theorem state_selfRefresh (s : State) (ch : Nat) : (s.selfRefresh ch).get (F.DRC_CTRL.STATE ch) = 3 :=
  get_put_same _ (Fld.ok_of rfl) 3

end

/-- Settles O44: a request fails, is performed or waits (`dramSubmit_fails`, `dramSubmit_performs`, `dramSubmit_waits`), a reading
changes the band or not (`rebandChannel_changes`, `rebandChannel_self`), and refresh and self-refresh act under their conditions
(`exec_refreshDue`, `exec_selfRefreshEntry`). -/
theorem dramUpkeep : Obligations.DramUpkeep := by
  refine ⟨?request, ?alert, ?reading, ?refresh, ?noRefresh, ?row, ?selfRefresh⟩
  case request =>
    intro client addr write reads data mask s awake w v
    refine ⟨fun ready admitted first => ?_, fun ready waits => ?_, fun notReady isRead => ?_, fun notReady isWrite => ?_⟩
    · exact running_to awake (dramSubmit_performs ready admitted first)
    · exact ⟨_, running_next awake _, congrArg State.steepWait (dramSubmit_waits ready waits), by rw [dramSubmit_waits ready waits]⟩
    · subst isRead
      exact running_to awake (dramSubmit_fails notReady)
    · subst isWrite
      exact running_to awake (dramSubmit_fails notReady)
  case alert =>
    intro ch s awake
    exact running_to awake rfl
  case reading =>
    intro ch temps s awake w band
    exact ⟨fun same => running_to awake (rebandChannel_self same), fun other => running_to awake (rebandChannel_changes other)⟩
  case refresh =>
    intro rank postpone s awake serves n
    have acts : ¬(s.get (F.DRC_CTRL.STATE (rank / 4 : Nat)) ≠ 2 ∧ s.get (F.DRC_CTRL.STATE (rank / 4 : Nat)) ≠ 4) :=
      fun ⟨not2, not4⟩ => serves.elim not2 not4
    rw [exec_refreshDue, if_neg acts]
    refine ⟨fun postpones few waits => ?_, fun h => ?_⟩
    · exact running_to awake (if_pos (by simp [State.refreshWaits, postpones, waits, show sget 0 s.dram.postponed rank < 4 from few]))
    · refine running_to awake (if_neg fun putOff => ?_)
      simp only [State.refreshWaits, Bool.and_eq_true, decide_eq_true_eq] at putOff
      obtain ⟨postpones, few, waits⟩ := putOff
      obtain h | h | h := h
      · exact Bool.eq_false_iff.mp h postpones
      · exact Nat.not_lt.mpr h few
      · exact Bool.eq_false_iff.mp h waits
  case noRefresh =>
    intro rank postpone s not2 not4
    rw [exec_refreshDue]
    exact running_self (if_pos ⟨not2, not4⟩)
  case row =>
    intro bank s
    refine ⟨fun r awake auto => ?_, fun r m held => ?_, fun closed => ?_⟩
    · rw [exec_pageAutoTimeout_auto auto]
      exact running_to awake rfl
    · exact exec_pageAutoTimeout_self fun _ => by rw [held]; simp
    · exact exec_pageAutoTimeout_self fun _ => by rw [closed]; simp
  case selfRefresh =>
    intro ch s busy
    rw [exec_selfRefreshEntry]
    refine ⟨fun awake serves enabled timed idle => ?_, fun h => running_self (if_neg ?_)⟩
    · rw [if_pos ⟨serves, enabled, timed, by rw [Bool.not_eq_true']; exact idle⟩]
      exact ⟨_, running_next awake _, state_selfRefresh s ch, rfl⟩
    · rintro ⟨serves, enabled, timed, idle⟩
      obtain h | h | h | h := h
      · exact h serves
      · exact Bool.eq_false_iff.mp h enabled
      · exact timed h
      · exact Bool.eq_false_iff.mp ((Bool.not_eq_true' _).mp idle) h

end Sys2Proof.Machine
end

section
/-! Translation control (chapter 15, R360 to R370): when an invalidation is taken up, what a walk that faults leaves, and how a pending
fault is resolved. -/

namespace Sys2Proof.Machine

section
variable {s : State}

/-! ### Invalidation (R360, R364) -/

theorem tlbOf_setTlb_same (s : State) (u : Nat) (l : List TlbEntry) : (s.setTlb u l).tlbOf u = l.take 64 := sget_sset_same _ _ _ _

/-- GO = 1 while an invalidation is in progress is ignored with an event. -/
theorem wrMmuInv_busy (src : Nat) {v : Word} (go : v.getLsbD 31 = true) (busy : s.on F.MMU_INV.BUSY = true) :
    wrMmuInv src v s = s.postIgnored src 3 R.MMU_INV := by
  unfold wrMmuInv
  rw [if_pos go, if_pos busy]

/-- GO = 1 with none in progress takes the written scope up. -/
theorem wrMmuInv_idle (src : Nat) {v : Word} (go : v.getLsbD 31 = true) (idle : s.on F.MMU_INV.BUSY = false) :
    wrMmuInv src v s = ((s.plainWrite src R.MMU_INV v).put F.MMU_INV.BUSY 1).invalidateTlbs := by
  unfold wrMmuInv
  rw [if_pos go, if_neg (Bool.eq_false_iff.mp idle)]

theorem exec_mmuInvalidateDone (s : State) :
    exec .mmuInvalidateDone s = s.running (if s.on F.MMU_INV.BUSY then s.invalidateTlbs.put F.MMU_INV.BUSY 0 else s) := rfl

section
variable {u : Nat}

/-! ### Table walks (R367, R368) -/

section
variable {w : State} {va : Nat} {write pinned : Bool}

theorem tableWalk_held (held : s.on (F.MMU_UNIT_FLT_HI.VALID u) = true) : s.tableWalk u va write pinned = s := if_pos held

section
variable (free : s.on (F.MMU_UNIT_FLT_HI.VALID u) = false)
include free

/-- An access that translates leaves what its translation leaves. -/
theorem tableWalk_translates {a : Nat}
    (found : s.translate ⟨unitSrc u, u, noClient, pinned || !mayFault u, none⟩ va write = (.ok a, w)) :
    s.tableWalk u va write pinned = w := by
  unfold State.tableWalk
  rw [if_neg (Bool.eq_false_iff.mp free), found]

/-- An access that faults suspends the unit with the fault that its translation answers. -/
theorem tableWalk_faults {addr kind : Nat} {dir : Bool}
    (faults : s.translate ⟨unitSrc u, u, noClient, pinned || !mayFault u, none⟩ va write = (.error (.fault addr dir kind), w)) :
    s.tableWalk u va write pinned = w.suspendUnit u addr dir kind := by
  unfold State.tableWalk
  rw [if_neg (Bool.eq_false_iff.mp free), faults]

end
end

/-! ### Resolution (R369, R370) -/

theorem mmuResume_resolves (fail : Bool) (unit : u < 43) (held : s.on (F.MMU_UNIT_FLT_HI.VALID u) = true) :
    s.mmuResume u fail = ((s.put F.MMU_RESUME.RESULT 1).clearFault u).resolveWork u fail :=
  if_pos (by rw [held, decide_eq_true unit]; rfl)

theorem mmuResume_noFault (fail : Bool) (h : 43 ≤ u ∨ s.on (F.MMU_UNIT_FLT_HI.VALID u) = false) :
    s.mmuResume u fail = s.put F.MMU_RESUME.RESULT 2 := by
  refine if_neg fun resolves => ?_
  simp only [Bool.and_eq_true, decide_eq_true_eq] at resolves
  obtain ⟨unit, held⟩ := resolves
  exact h.elim (Nat.not_le.mpr unit) fun free => Bool.eq_false_iff.mp free held

theorem faultTimeout_fails (held : s.on (F.MMU_UNIT_FLT_HI.VALID u) = true) (limit : s.get F.MMU_CTL.FLT_TMO_MS ≠ 0) :
    s.faultTimeout u =
      ((s.clearFault u).resolveWork u true).post (unitSrc u) 4 5 u
        ((s.reg (R.MMU_UNIT_FLT_LO u)).toNat + 2 ^ 32 * s.get (F.MMU_UNIT_FLT_HI.VA u)) :=
  if_pos (by rw [held, decide_eq_true limit]; rfl)

theorem faultTimeout_self (h : s.on (F.MMU_UNIT_FLT_HI.VALID u) = false ∨ s.get F.MMU_CTL.FLT_TMO_MS = 0) : s.faultTimeout u = s := by
  refine if_neg fun expires => ?_
  simp only [Bool.and_eq_true, decide_eq_true_eq] at expires
  obtain ⟨held, limit⟩ := expires
  exact h.elim (fun free => Bool.eq_false_iff.mp free held) limit

end
end

/-- Settles O41: BUSY decides what an invalidation does (`wrMmuInv_idle`, `wrMmuInv_busy`), a pending fault decides whether a unit walks
(`tableWalk_translates`, `tableWalk_faults`, `tableWalk_held`), and a resume or a time-out resolves only a pending one
(`mmuResume_resolves`, `mmuResume_noFault`, `faultTimeout_fails`, `faultTimeout_self`). -/
theorem translation : Obligations.Translation := by
  refine ⟨?enable, ?unitCfg, ?invalidate, ?invalidated, ?walk, ?noWalk, ?resume, ?timeout, ?noTimeout⟩
  case enable =>
    intro v src s u reaches
    exact reaches.to rfl
  case unitCfg =>
    intro k v src s u reaches
    exact ⟨_, reaches.next _, tlbOf_setTlb_same _ k [], rfl⟩
  case invalidate =>
    intro v src s u reaches
    exact ⟨fun busy => reaches.to (wrMmuInv_busy src (setBit31 v) busy), fun idle => reaches.to (wrMmuInv_idle src (setBit31 v) idle)⟩
  case invalidated =>
    intro s
    rw [exec_mmuInvalidateDone]
    refine ⟨fun awake busy => ?_, fun idle => running_self (if_neg (Bool.eq_false_iff.mp idle))⟩
    rw [if_pos busy]
    exact ⟨_, running_next awake _, on_put_zero _ (Fld.ok_of rfl), rfl⟩
  case walk =>
    intro k va write pinned s w awake free
    exact ⟨fun a found => running_to awake (tableWalk_translates free found), fun a b c faults => running_to awake (tableWalk_faults free faults)⟩
  case noWalk =>
    intro k va write pinned s held
    exact running_self (tableWalk_held held)
  case resume =>
    intro k s u reaches
    refine ⟨fun unit held => ?_, fun h => ?_⟩
    · exact ⟨reaches.to (mmuResume_resolves false unit held), reaches.to (mmuResume_resolves true unit held)⟩
    · exact ⟨reaches.to (mmuResume_noFault false h), reaches.to (mmuResume_noFault true h)⟩
  case timeout =>
    intro k s awake held limit
    exact running_to awake (faultTimeout_fails held limit)
  case noTimeout =>
    intro k s h
    exact running_self (faultTimeout_self h)

end Sys2Proof.Machine
end

section
/-! What every step keeps (R429, R508, R512, R515, R518): the queue, the time counter's range, revoked key slots, the rollback
floor, the event ring and its records of severity 7. -/

namespace Sys2Proof.Machine

/-! ### One step -/

/-- Every command but the end of a clear answers a next state that keeps what outlives it. -/
theorem exec_ends (c : Instr) (s : State) (notClear : c ≠ .evtClearDone) : Ends s (exec c s) := by
  cases c with
  | evtClearDone => exact absurd rfl notClear
  | registerWrite off v word src => exact ends_registerWrite off v word src s
  | readClearField off word src => exact ends_of_kept (execReadClearField_kept off word src s)
  | sysLockSet => exact ends_of_kept (execSysLockSet_kept s)
  | fabLoadFull v src => exact ends_of_kept (execFabLoadFull_kept v src s)
  | fabLoadPartial v src => exact ends_of_kept (execFabLoadPartial_kept v src s)
  | preApplyDone => exact ends_of_kept (execPreApplyDone_kept s)
  | brewQuiescent b => exact ends_of_kept (execBrewQuiescent_kept b s)
  | quiesceTimeout => exact ends_of_kept (execQuiesceTimeout_kept s)
  | applyFetchDone => exact ends_of_kept (execApplyFetchDone_kept s)
  | fabCommit src v => exact ends_of_kept (execFabCommit_kept src v s)
  | commitFetchDone b => exact ends_of_kept (execCommitFetchDone_kept b s)
  | rootSofEmit b => exact ends_of_kept (execRootSofEmit_kept b s)
  | tileSofArrive t => exact ends_of_kept (execTileSofArrive_kept t s)
  | fomUpdate l centre w h taps ofs => exact ends_of_kept (execFomUpdate_kept l centre w h taps ofs s)
  | laneEnterLink l => exact ends_of_kept (execLaneEnterLink_kept l s)
  | pllLock k => exact ends_of_kept (execPllLock_kept k s)
  | cdrLock l => exact ends_of_kept (execCdrLock_kept l s)
  | initialAdaptationDone l a => exact ends_of_kept (execInitialAdaptationDone_kept l a s)
  | adaptationRetryTimeout l => exact ends_of_kept (execAdaptationRetryTimeout_kept l s)
  | lolRetrainTimeout l => exact ends_of_kept (execLolRetrainTimeout_kept l s)
  | linkReferenceLost => exact ends_of_kept (execLinkReferenceLost_kept s)
  | linkReferenceRestored => exact ends_of_kept (execLinkReferenceRestored_kept s)
  | lnkRefcfgWrite v src => exact ends_of_kept (execLnkRefcfgWrite_kept v src s)
  | recalInService l => exact ends_of_kept (execRecalInService_kept l s)
  | recalOutOfService l => exact ends_of_kept (execRecalOutOfService_kept l s)
  | recalDone l before a => exact ends_of_kept (execRecalDone_kept l before a s)
  | bitSlip l => exact ends_of_kept (execBitSlip_kept l s)
  | slipApplied l => exact ends_of_kept (execSlipApplied_kept l s)
  | prbsCheckLock l bits => exact ends_of_kept (execPrbsCheckLock_kept l bits s)
  | idleColumn p col => exact ends_of_kept (execIdleColumn_kept p col s)
  | alignColumn p col gap => exact ends_of_kept (execAlignColumn_kept p col gap s)
  | alignSend p => exact ends_of_kept (execAlignSend_kept p s)
  | xsColumn p num => exact ends_of_kept (execXsColumn_kept p num s)
  | capPacket p mask selected crcOk => exact ends_of_kept (execCapPacket_kept p mask selected crcOk s)
  | capSend p => exact ends_of_kept (execCapSend_kept p s)
  | negTimeout p => exact ends_of_kept (execNegTimeout_kept p s)
  | linkHalfEnable p tx v src => exact ends_of_kept (execLinkHalfEnable_kept p tx v src s)
  | fsPacket p num sgen w h depth crcOk => exact ends_of_kept (execFsPacket_kept p num sgen w h depth crcOk s)
  | ldPacket p num sgen payload crcOk fits => exact ends_of_kept (execLdPacket_kept p num sgen payload crcOk fits s)
  | fePacket p crcOk => exact ends_of_kept (execFePacket_kept p crcOk s)
  | mdPacket p payload crcOk => exact ends_of_kept (execMdPacket_kept p payload crcOk s)
  | rawCodeWord p code lanes words fits => exact ends_of_kept (execRawCodeWord_kept p code lanes words fits s)
  | txLine p => exact ends_of_kept (execTxLine_kept p s)
  | scpImmediate p v => exact ends_of_kept (execScpImmediate_kept p v s)
  | scpTransactionDone p ack rdata => exact ends_of_kept (execScpTransactionDone_kept p ack rdata s)
  | scpStretchTimeout p => exact ends_of_kept (execScpStretchTimeout_kept p s)
  | scpBurstArm p k v => exact ends_of_kept (execScpBurstArm_kept p k v s)
  | scpBurstDisarm p k v => exact ends_of_kept (execScpBurstDisarm_kept p k v s)
  | scpBurstRelease p => exact ends_of_kept (execScpBurstRelease_kept p s)
  | scpBurstEntryDone p ack => exact ends_of_kept (execScpBurstEntryDone_kept p ack s)
  | scpBmemAccess p w => exact ends_of_kept (execScpBmemAccess_kept p w s)
  | scpTfileAccess p w => exact ends_of_kept (execScpTfileAccess_kept p w s)
  | scpTargetRead p addr => exact ends_of_kept (execScpTargetRead_kept p addr s)
  | scpTargetWrite p addr data => exact ends_of_kept (execScpTargetWrite_kept p addr data s)
  | vsyncInputEdge p => exact ends_of_kept (execVsyncInputEdge_kept p s)
  | hsyncPulse p => exact ends_of_kept (execHsyncPulse_kept p s)
  | frameEndAtRoot b => exact ends_of_kept (execFrameEndAtRoot_kept b s)
  | queueArbitration b => exact ends_of_kept (execQueueArbitration_kept b s)
  | stripeBoundary b => exact ends_of_kept (execStripeBoundary_kept b s)
  | playbackWidxWrite t v src => exact ends_of_kept (execPlaybackWidxWrite_kept t v src s)
  | playbackDescriptorTake t => exact ends_of_kept (execPlaybackDescriptorTake_kept t s)
  | ingSeqLoRead t => exact ends_of_kept (execIngSeqLoRead_kept t s)
  | rwcSiteGainAccess t ctx w => exact ends_of_kept (execRwcSiteGainAccess_kept t ctx w s)
  | synSiteGainAccess t ctx w => exact ends_of_kept (execSynSiteGainAccess_kept t ctx w s)
  | colCoefDataAccess t ctx w => exact ends_of_kept (execColCoefDataAccess_kept t ctx w s)
  | synCoefDataAccess t ctx w => exact ends_of_kept (execSynCoefDataAccess_kept t ctx w s)
  | statsFrameEnd t fits => exact ends_of_kept (execStatsFrameEnd_kept t fits s)
  | statsRecordWritten t => exact ends_of_kept (execStatsRecordWritten_kept t s)
  | patternStartInstant t => exact ends_of_kept (execPatternStartInstant_kept t s)
  | emuExposureStart p => exact ends_of_kept (execEmuExposureStart_kept p s)
  | emuFsSend p => exact ends_of_kept (execEmuFsSend_kept p s)
  | emuLinePace p => exact ends_of_kept (execEmuLinePace_kept p s)
  | bFrameStore t => exact ends_of_kept (execBFrameStore_kept t s)
  | analysisPairing t => exact ends_of_kept (execAnalysisPairing_kept t s)
  | analysisWaitTimeout t => exact ends_of_kept (execAnalysisWaitTimeout_kept t s)
  | analysisRecordWritten t => exact ends_of_kept (execAnalysisRecordWritten_kept t s)
  | cmxBFrameStore t => exact ends_of_kept (execCmxBFrameStore_kept t s)
  | opkFrameWrite t => exact ends_of_kept (execOpkFrameWrite_kept t s)
  | opkBufferRecord t => exact ends_of_kept (execOpkBufferRecord_kept t s)
  | sdiOutEnable n v src => exact ends_of_kept (execSdiOutEnable_kept n v src s)
  | sdiOutDisable n v src => exact ends_of_kept (execSdiOutDisable_kept n v src s)
  | tgFrameInstant k phase => exact ends_of_kept (execTgFrameInstant_kept k phase s)
  | sdiSlotTake n late1 late2 => exact ends_of_kept (execSdiSlotTake_kept n late1 late2 s)
  | sdiRxFrame m x => exact ends_of_kept (execSdiRxFrame_kept m x s)
  | genlockSourceLost => exact ends_of_kept (execGenlockSourceLost_kept s)
  | genlockSourceReturn far => exact ends_of_kept (execGenlockSourceReturn_kept far s)
  | vceCfgWrite src v => exact ends_of_kept (execVceCfgWrite_kept src v s)
  | vceOpen n => exact ends_of_kept (execVceOpen_kept n s)
  | vceClose n => exact ends_of_kept (execVceClose_kept n s)
  | vceReload n => exact ends_of_kept (execVceReload_kept n s)
  | forceIrap n => exact ends_of_kept (execForceIrap_kept n s)
  | vceFlush n => exact ends_of_kept (execVceFlush_kept n s)
  | encodeCandidate n => exact ends_of_kept (execEncodeCandidate_kept n s)
  | decodeJobTake n => exact ends_of_kept (execDecodeJobTake_kept n s)
  | pictureStart pix => exact ends_of_kept (execPictureStart_kept pix s)
  | picturePreempt => exact ends_of_kept (execPicturePreempt_kept s)
  | pictureDone n res => exact ends_of_kept (execPictureDone_kept n res s)
  | bitstreamSpaceFree n => exact ends_of_kept (execBitstreamSpaceFree_kept n s)
  | outputSlotFree n => exact ends_of_kept (execOutputSlotFree_kept n s)
  | cmpSubmit q widx src => exact ends_of_kept (execCmpSubmit_kept q widx src s)
  | cmpQueueEnable q v src => exact ends_of_kept (execCmpQueueEnable_kept q v src s)
  | cmpDisable v src => exact ends_of_kept (execCmpDisable_kept v src s)
  | cmpJobTake deflate => exact ends_of_kept (execCmpJobTake_kept deflate s)
  | cmpJobDone k out => exact ends_of_kept (execCmpJobDone_kept k out s)
  | cmpAbort v => exact ends_of_kept (execCmpAbort_kept v s)
  | cmpPreempt deflate => exact ends_of_kept (execCmpPreempt_kept deflate s)
  | drcMapApply v => exact ends_of_kept (execDrcMapApply_kept v s)
  | drcInit ch => exact ends_of_kept (execDrcInit_kept ch s)
  | drcInitResume ch => exact ends_of_kept (execDrcInitResume_kept ch s)
  | drcRetrainShort ch => exact ends_of_kept (execDrcRetrainShort_kept ch s)
  | drcRetrainFull ch => exact ends_of_kept (execDrcRetrainFull_kept ch s)
  | drcTrainDone ch err => exact ends_of_kept (execDrcTrainDone_kept ch err s)
  | shortRetrainDue x => exact ends_of_kept (execShortRetrainDue_kept x s)
  | shortRetrainDone => exact ends_of_kept (execShortRetrainDone_kept s)
  | dramRequest client addr write data mask reads => exact ends_of_kept (execDramRequest_kept client addr write data mask reads s)
  | alertNAssert ch => exact ends_of_kept (execAlertNAssert_kept ch s)
  | dramTempRead ch temps => exact ends_of_kept (execDramTempRead_kept ch temps s)
  | refreshDue rank postpone => exact ends_of_kept (execRefreshDue_kept rank postpone s)
  | pageAutoTimeout bank => exact ends_of_kept (execPageAutoTimeout_kept bank s)
  | selfRefreshEntry ch => exact ends_of_kept (execSelfRefreshEntry_kept ch s)
  | steepBoundary => exact ends_of_kept (execSteepBoundary_kept s)
  | sachetRequest cls chan => exact ends_of_kept (execSachetRequest_kept cls chan s)
  | sachetRelease sachet => exact ends_of_kept (execSachetRelease_kept sachet s)
  | mmuEnable v src => exact ends_of_kept (execMmuEnable_kept v src s)
  | mmuUnitCfgWrite u v src => exact ends_of_kept (execMmuUnitCfgWrite_kept u v src s)
  | mmuInvalidate v src => exact ends_of_kept (execMmuInvalidate_kept v src s)
  | mmuInvalidateDone => exact ends_of_kept (execMmuInvalidateDone_kept s)
  | tableWalk u va write pinned => exact ends_of_kept (execTableWalk_kept u va write pinned s)
  | mmuResumeRestart u => exact ends_of_kept (execMmuResumeRestart_kept u s)
  | mmuResumeFail u => exact ends_of_kept (execMmuResumeFail_kept u s)
  | mmuFaultTimeout u => exact ends_of_kept (execMmuFaultTimeout_kept u s)
  | dmaEnable c v src => exact ends_of_kept (execDmaEnable_kept c v src s)
  | dmaDisable c v src => exact ends_of_kept (execDmaDisable_kept c v src s)
  | dmaSubmit c widx src => exact ends_of_kept (execDmaSubmit_kept c widx src s)
  | dmaDescriptorTake c => exact ends_of_kept (execDmaDescriptorTake_kept c s)
  | dmaDescriptorDone c => exact ends_of_kept (execDmaDescriptorDone_kept c s)
  | ethPortEnable p v src => exact ends_of_kept (execEthPortEnable_kept p v src s)
  | ethPortDisable p v src => exact ends_of_kept (execEthPortDisable_kept p v src s)
  | ethLinkUp p k agreed => exact ends_of_kept (execEthLinkUp_kept p k agreed s)
  | ethLinkDown p k => exact ends_of_kept (execEthLinkDown_kept p k s)
  | ethFrameReceive p k fcs frame => exact ends_ethFrameReceive p k fcs frame s
  | arpEntryExpire p k ip => exact ends_of_kept (execArpEntryExpire_kept p k ip s)
  | rocePacketReceive p pkt => exact ends_of_kept (execRocePacketReceive_kept p pkt s)
  | roceRetryTimeout qp => exact ends_of_kept (execRoceRetryTimeout_kept qp s)
  | roceRnrTimeout qp => exact ends_of_kept (execRoceRnrTimeout_kept qp s)
  | qpKill v src => exact ends_of_kept (execQpKill_kept v src s)
  | mgmtDiscover req => exact ends_of_kept (execMgmtDiscover_kept req s)
  | mgmtConnect req body => exact ends_of_kept (execMgmtConnect_kept req body s)
  | connectReplyExpire ip port seq => exact ends_of_kept (execConnectReplyExpire_kept ip port seq s)
  | mgmtDisconnect req body => exact ends_of_kept (execMgmtDisconnect_kept req body s)
  | bootSolicit => exact ends_of_kept (execBootSolicit_kept s)
  | bootOffer req body => exact ends_of_kept (execBootOffer_kept req body s)
  | bootData req body => exact ends_of_kept (execBootData_kept req body s)
  | bootReadTimeout => exact ends_of_kept (execBootReadTimeout_kept s)
  | mgmtRecover req body => exact ends_mgmtRecover req body s
  | ccpEnableFormat v src => exact ends_of_kept (execCcpEnableFormat_kept v src s)
  | ccpEnableKeep v src => exact ends_of_kept (execCcpEnableKeep_kept v src s)
  | ccpReady => exact ends_of_kept (execCcpReady_kept s)
  | ccpDisable v src => exact ends_of_kept (execCcpDisable_kept v src s)
  | ccpDoorbell q send => exact ends_of_kept (execCcpDoorbell_kept q send s)
  | localQueueDoorbell widx src => exact ends_of_kept (execLocalQueueDoorbell_kept widx src s)
  | submissionFetch q entries => exact ends_of_kept (execSubmissionFetch_kept q entries s)
  | commandComplete q cid => exact ends_commandComplete q cid s
  | coalesceTimeout q => exact ends_of_kept (execCoalesceTimeout_kept q s)
  | ccpRead q cid => exact ends_of_kept (execCcpRead_kept q cid s)
  | ccpWrite q cid data fate => exact ends_of_kept (execCcpWrite_kept q cid data fate s)
  | createTake q cid => exact ends_of_kept (execCreateTake_kept q cid s)
  | closeTake q cid => exact ends_of_kept (execCloseTake_kept q cid s)
  | deleteTake q cid => exact ends_of_kept (execDeleteTake_kept q cid s)
  | takeInfo q cid => exact ends_of_kept (execTakeInfo_kept q cid s)
  | ccpAbort q cid => exact ends_of_kept (execCcpAbort_kept q cid s)
  | getFrames q cid => exact ends_of_kept (execGetFrames_kept q cid s)
  | startStream q cid data => exact ends_of_kept (execStartStream_kept q cid data s)
  | stopStream q cid => exact ends_of_kept (execStopStream_kept q cid s)
  | ccpMap q cid => exact ends_of_kept (execCcpMap_kept q cid s)
  | identify q cid => exact ends_of_kept (execIdentify_kept q cid s)
  | getLog q cid => exact ends_of_kept (execGetLog_kept q cid s)
  | getFeature q cid => exact ends_of_kept (execGetFeature_kept q cid s)
  | setFeature q cid => exact ends_of_kept (execSetFeature_kept q cid s)
  | fwDownload q cid data => exact ends_of_kept (execFwDownload_kept q cid data s)
  | fwCommitWrite q cid program => exact ends_fwCommitWrite q cid program s
  | fwCommitTry q cid program => exact ends_fwCommitTry q cid program s
  | fwCommitConfirm q cid => exact ends_fwCommitConfirm q cid s
  | fwCommitTryReset q cid program => exact ends_fwCommitTryReset q cid program s
  | regRead q cid => exact ends_of_kept (execRegRead_kept q cid s)
  | regWrite q cid data => exact ends_regWrite q cid data s
  | createQp q cid data => exact ends_of_kept (execCreateQp_kept q cid data s)
  | deleteQp q cid => exact ends_of_kept (execDeleteQp_kept q cid s)
  | streamFrameAppend st => exact ends_of_kept (execStreamFrameAppend_kept st s)
  | streamFrameEntry st => exact ends_of_kept (execStreamFrameEntry_kept st s)
  | timeIncWrite hi v src => exact ends_of_kept (execTimeIncWrite_kept hi v src s)
  | timeNowRead => exact ends_of_kept (execTimeNowRead_kept s)
  | timeStepSet v => exact ends_timeStepSet v s
  | timeStepOffset v => exact ends_timeStepOffset v s
  | timeSlew v src => exact ends_of_kept (execTimeSlew_kept v src s)
  | slewComplete => exact ends_slewComplete s
  | triggerArm k v => exact ends_of_kept (execTriggerArm_kept k v s)
  | triggerDisarm k v => exact ends_of_kept (execTriggerDisarm_kept k v s)
  | triggerFire k => exact ends_of_kept (execTriggerFire_kept k s)
  | trigOutPulseEnd n => exact ends_of_kept (execTrigOutPulseEnd_kept n s)
  | captureEdge j rising => exact ends_of_kept (execCaptureEdge_kept j rising s)
  | captureNsRead j => exact ends_of_kept (execCaptureNsRead_kept j s)
  | ppsOutRise => exact ends_of_kept (execPpsOutRise_kept s)
  | ppsOutFall => exact ends_of_kept (execPpsOutFall_kept s)
  | ptpReceive p frame => exact ends_of_kept (execPtpReceive_kept p frame s)
  | ptpTxSubmit widx src => exact ends_of_kept (execPtpTxSubmit_kept widx src s)
  | ptpTxDone => exact ends_of_kept (execPtpTxDone_kept s)
  | ptpTcForward p => exact ends_of_kept (execPtpTcForward_kept p s)
  | audioPllEnable v src => exact ends_of_kept (execAudioPllEnable_kept v src s)
  | audioPortStart n v src => exact ends_of_kept (execAudioPortStart_kept n v src s)
  | audioPortStop n v src => exact ends_of_kept (execAudioPortStop_kept n v src s)
  | audioGroupStart g v => exact ends_of_kept (execAudioGroupStart_kept g v s)
  | audioGroupStop g v => exact ends_of_kept (execAudioGroupStop_kept g v s)
  | audioMaskWrite n tx v src => exact ends_of_kept (execAudioMaskWrite_kept n tx v src s)
  | audioTdmFrame n slots sachet => exact ends_of_kept (execAudioTdmFrame_kept n slots sachet s)
  | audioTxSubmit n widx src => exact ends_of_kept (execAudioTxSubmit_kept n widx src s)
  | audioFrameLoRead n => exact ends_of_kept (execAudioFrameLoRead_kept n s)
  | audioStreamSet st => exact ends_of_kept (execAudioStreamSet_kept st s)
  | powerUp vin hot vio => exact ends_powerUp vin hot vio s
  | powerLoss cause recorded => exact ends_powerLoss cause recorded s
  | railFault out => exact ends_of_kept (execRailFault_kept out s)
  | railRetry v => exact ends_of_kept (execRailRetry_kept v s)
  | domainHold d => exact ends_of_kept (execDomainHold_kept d s)
  | kettleDemand d => exact ends_of_kept (execKettleDemand_kept d s)
  | domainOn d => exact ends_of_kept (execDomainOn_kept d s)
  | domainIdleTimeout d => exact ends_of_kept (execDomainIdleTimeout_kept d s)
  | idleEntry => exact ends_of_kept (execIdleEntry_kept s)
  | napEntry => exact ends_of_kept (execNapEntry_kept s)
  | dozeEntry => exact ends_of_kept (execDozeEntry_kept s)
  | hibernateEntry => exact ends_hibernateEntry s
  | wake event => exact ends_of_kept (execWake_kept event s)
  | wakeComplete => exact ends_wakeComplete s
  | hibernateExit hot => exact ends_hibernateExit hot s
  | clockSelect v src => exact ends_of_kept (execClockSelect_kept v src s)
  | residencyClear v => exact ends_of_kept (execResidencyClear_kept v s)
  | residencyLoRead counter => exact ends_of_kept (execResidencyLoRead_kept counter s)
  | sensorConversion n temp => exact ends_sensorConversion n temp s
  | sensorTimeout n => exact ends_of_kept (execSensorTimeout_kept n s)
  | powerupThermalHold => exact ends_of_kept (execPowerupThermalHold_kept s)
  | cosyXtalSwitch => exact ends_of_kept (execCosyXtalSwitch_kept s)
  | coreStart c => exact ends_of_kept (execCoreStart_kept c s)
  | coreReset c => exact ends_of_kept (execCoreReset_kept c s)
  | watchdogKick v src => exact ends_of_kept (execWatchdogKick_kept v src s)
  | watchdogExpire => exact ends_watchdogExpire s
  | nvsWrite src addr data wide => exact ends_of_kept (execNvsWrite_kept src addr data wide s)
  | warmReset cause => exact ends_warmReset cause s
  | bootStart sel => exact ends_bootStart sel s
  | bootConfirm v => exact ends_bootConfirm v s
  | keyRevoke v src => exact ends_keyRevoke v src s
  | evtPost v src => exact ends_of_kept (execEvtPost_kept v src s)
  | eventPlace => exact ends_eventPlace s
  | summaryPlace => exact ends_summaryPlace s
  | evtClear v => exact ends_of_kept (execEvtClear_kept v s)
  | evtLastLoRead => exact ends_of_kept (execEvtLastLoRead_kept s)
  | freezeNLow => exact ends_of_kept (execFreezeNLow_kept s)
  | dbgFreeze v src => exact ends_of_kept (execDbgFreeze_kept v src s)
  | jtagFreeze => exact ends_of_kept (execFreeze_kept s)
  | freezeComplete => exact ends_freezeComplete s
  | idcode => exact ends_of_kept (execIdcode_kept s)
  | extest pins data => exact ends_of_kept (execExtest_kept pins data s)
  | samplePreload pins data => exact ends_of_kept (execSamplePreload_kept pins data s)
  | bypass code => exact ends_of_kept (execBypass_kept code s)
  | snapSel chain => exact ends_of_kept (execSnapSel_kept chain s)
  | snapData => exact ends_of_kept (execSnapData_kept s)
  | memacc data addr write autoinc => exact ends_of_kept (execMemacc_kept data addr write autoinc s)
  | memstream => exact ends_of_kept (execMemstream_kept s)
  | memaccDone => exact ends_memaccDone s
  | debugSelfRefreshReturn ch => exact ends_of_kept (execDebugSelfRefreshReturn_kept ch s)
  | warmrst => exact ends_warmrst s
  | linkHalfDisable p tx v src => exact ends_of_kept (execLinkHalfDisable_kept p tx v src s)
  | vsyncPulseEnd p => exact ends_of_kept (execVsyncPulseEnd_kept p s)
  | analysisFrameEnd t => exact ends_of_kept (execAnalysisFrameEnd_kept t s)
  | jtagTrst => exact ends_of_kept (execJtagTrst_kept s)

theorem step_of_idle {s : State} (idle : s.pending = []) : step s = .next s.pass := by unfold step; rw [idle]

theorem step_of_front {c : Instr} {r : List Instr} {s : State} (front : s.pending = c :: r) : step s = exec c { s with pending := r } := by
  unfold step; rw [front]

/-- What a step that answers `t` did: a tick, a command that keeps what outlives it, or the end of a clear. -/
theorem step_cases {s t : State} (h : step s = .next t) :
    (s.pending = [] ∧ Keeps s t) ∨ (∃ c r, s.pending = c :: r ∧ c ≠ .evtClearDone ∧ Keeps { s with pending := r } t) ∨
      (∃ r, s.pending = .evtClearDone :: r ∧ exec .evtClearDone { s with pending := r } = .next t) := by
  cases front : s.pending with
  | nil =>
    rw [step_of_idle front] at h
    cases h
    exact .inl ⟨rfl, keeps_pass s⟩
  | cons c r =>
    rw [step_of_front front] at h
    by_cases clear : c = .evtClearDone
    · subst clear
      exact .inr (.inr ⟨r, rfl, h⟩)
    · obtain ⟨u, answers, keeps⟩ := exec_ends c { s with pending := r } clear
      rw [h] at answers
      cases answers
      exact .inr (.inl ⟨c, r, rfl, clear, keeps⟩)

/-- The end of a clear touches neither queue, time nor store, and leaves the ring a ring. -/
theorem evtClearDone_keeps {s t : State} (h : exec .evtClearDone s = .next t) :
    t.pending = s.pending ∧ t.time = s.time ∧ t.sec = s.sec ∧ (RingOk s.evt.ring → RingOk t.evt.ring) := by
  obtain ⟨u, answers, rest⟩ := ends_clear s
  rw [show exec .evtClearDone s = execEvtClearDone s from rfl, answers] at h
  cases h
  exact rest

/-! ### The queue -/

/-- Settles O1: `step` at a queue with a front. -/
theorem frontCommandRuns : Obligations.FrontCommandRuns := fun _ _ _ front => step_of_front front

/-- Settles O2: in each case of `step_cases` the queue is the one that the command was given. -/
theorem queueIsFirstInFirstOut : Obligations.QueueIsFirstInFirstOut := by
  refine ⟨fun c r s t front h => ?_, fun s t idle h => ?_⟩
  · obtain ⟨idle, _⟩ | ⟨_, _, front', _, keeps⟩ | ⟨_, front', clear⟩ := step_cases h
    · cases front.symm.trans idle
    · cases front.symm.trans front'
      exact keeps.queue
    · cases front.symm.trans front'
      exact (evtClearDone_keeps clear).1
  · rw [step_of_idle idle] at h
    cases h
    exact (keeps_pass s).queue.trans idle

/-! ### The invariant (R429, R512) -/

theorem Keeps.inv {s t : State} (h : Keeps s t) (inv : Inv s) : Inv t := ⟨h.time inv.1, h.ring inv.2⟩

/-- Settles O4: the counter stands at 0, the ring and the queue are empty. -/
theorem resetMeetsTheInvariant : Obligations.ResetMeetsTheInvariant :=
  ⟨⟨reset_time, rfl, fun e he => by cases he⟩, wf_reset, rfl⟩

/-- Settles O5, from `step_cases`. -/
theorem everyStepKeepsTheInvariant : Obligations.EveryStepKeepsTheInvariant := by
  intro s t inv h
  obtain ⟨_, keeps⟩ | ⟨_, _, _, _, keeps⟩ | ⟨r, _, clear⟩ := step_cases h
  · exact keeps.inv inv
  · exact keeps.inv inv
  · obtain ⟨_, time, _, ring⟩ := evtClearDone_keeps clear
    exact ⟨time ▸ inv.1, ring inv.2⟩

/-! ### Records of severity 7 (R515, R518) -/

section
variable {α : Type} [DecidableEq α] {d w : α} {l : Sparse α} {k : Nat} {p : Nat × α → Bool}

/-- An entry that passes a filter stays. -/
theorem sget_filter_pos (ok : Canonical d l = true) (listed : w ≠ d) (h : sget d l k = w) (pass : p (k, w) = true) :
    sget d (l.filter p) k = w :=
  sget_of_mem (canonical_filter ok p) (List.mem_filter.2 ⟨mem_of_sget h listed, pass⟩)

/-- An entry that fails a filter is gone. -/
theorem sget_filter_neg (ok : Canonical d l = true) (h : sget d l k = w) (fail : p (k, w) = false) : sget d (l.filter p) k = d := by
  refine sget_eq_default fun e he here => ?_
  obtain ⟨listed, pass⟩ := List.mem_filter.1 he
  obtain ⟨j, v⟩ := e
  cases here
  rw [← h, sget_of_mem ok listed] at fail
  exact absurd pass (by rw [fail]; decide)

end

/-- The end of a clear with none in progress. -/
theorem evtClearDone_idle {s : State} (h : s.evt.clearing = none) : exec .evtClearDone s = .next s := by
  show execEvtClearDone s = .next s
  unfold execEvtClearDone
  rw [h]

/-- The state after a clear up to severity `sev` and sequence number `last`. -/
def State.cleared (s : State) (sev : Nat) (last : BitVec 48) : State :=
  ({ s with evt := { s.evt with clearing := none, ring := s.evt.ring.filter (fun x => !clears sev last x.2) } } : State).put F.EVT_CLEAR.BUSY 0

theorem evtClearDone_next {s : State} {sev : Nat} {last : BitVec 48} (h : s.evt.clearing = some (sev, last)) :
    exec .evtClearDone s = .next (s.cleared sev last) := by
  show execEvtClearDone s = .next (s.cleared sev last)
  unfold execEvtClearDone
  rw [h]
  rfl

theorem cleared_ring (s : State) (sev : Nat) (last : BitVec 48) :
    (s.cleared sev last).evt.ring = s.evt.ring.filter (fun x => !clears sev last x.2) := rfl

/-- A clear leaves a record above its severity or its last sequence number. -/
theorem sget_cleared_of_above {s : State} {sev k : Nat} {last : BitVec 48} {e : EvRecord} (ok : Canonical none s.evt.ring = true)
    (h : sget none s.evt.ring k = some e) (above : ¬ (e.sev.val ≤ sev ∧ e.seq.toNat ≤ last.toNat)) :
    sget none (s.cleared sev last).evt.ring k = some e := by
  rw [cleared_ring]
  exact sget_filter_pos ok (by simp) h (by simp only [clears, decide_eq_false above, Bool.not_false])

/-- A clear empties the slot of any other record. -/
theorem sget_cleared_of_within {s : State} {sev k : Nat} {last : BitVec 48} {e : EvRecord} (ok : Canonical none s.evt.ring = true)
    (h : sget none s.evt.ring k = some e) (within : e.sev.val ≤ sev ∧ e.seq.toNat ≤ last.toNat) :
    sget none (s.cleared sev last).evt.ring k = none := by
  rw [cleared_ring]
  exact sget_filter_neg ok h (by simp only [clears, decide_eq_true within, Bool.not_true])

/-- Settles O6: `Keeps.grave` for every command but the end of a clear, and for that the records it does not name. -/
theorem graveRecordsPersist : Obligations.GraveRecordsPersist := by
  refine ⟨fun s t inv notClear h k e grave => ?_, fun s t inv h k e grave above => ?_⟩
  · obtain ⟨_, keeps⟩ | ⟨_, _, _, _, keeps⟩ | ⟨r, front, _⟩ := step_cases h
    · exact keeps.grave inv.2 k e grave
    · exact keeps.grave inv.2 k e grave
    · exact absurd (by rw [front]; rfl) notClear
  · cases clearing : s.evt.clearing with
    | none =>
      rw [evtClearDone_idle clearing] at h
      cases h
      exact grave
    | some x =>
      obtain ⟨sev, last⟩ := x
      rw [evtClearDone_next clearing] at h
      cases h
      refine ⟨sget_cleared_of_above inv.2.1 grave.1 fun ⟨low, early⟩ => ?_, grave.2⟩
      have seven : e.sev.val = 7 := by rw [grave.2]; rfl
      obtain below | later := above sev last clearing
      · omega
      · omega

/-! ### Revocation and the rollback floor (R506, R508) -/

theorem keysPresent_lt (s : State) : s.keysPresent < 16 := by
  unfold State.keysPresent
  rw [show List.range 4 = [0, 1, 2, 3] from rfl]
  simp only [List.foldl_cons, List.foldl_nil]
  repeat' split
  all_goals omega

/-- SEC_KEYSTAT shows the revocations above its low byte. -/
theorem getLsbD_keystat (s : State) {k : Nat} (hk : k < 4) : (rdSec R.SEC_KEYSTAT s).getLsbD (8 + k) = s.sec.revoked.testBit k := by
  have few := keysPresent_lt s
  unfold rdSec
  rw [if_pos rfl, BitVec.getLsbD_ofNat, decide_eq_true (by omega : 8 + k < 32), Bool.true_and, show s.sec.revoked * 256 = 2 ^ 8 * s.sec.revoked by omega,
    Nat.testBit_two_pow_mul_add _ (by omega : s.keysPresent < 2 ^ 8), if_neg (by omega), Nat.add_sub_cancel_left]

/-- A key slot stays usable after the revocations of `v` (R508). -/
def State.keyLeft (s : State) (v : Word) : Bool :=
  (List.range 4).any (fun k => s.keysPresent.testBit k && !(s.sec.revoked ||| getBits v 3 0).testBit k)

theorem keyLeft_iff {s : State} {v : Word} :
    s.keyLeft v = true ↔ ∃ k < 4, s.keysPresent.testBit k = true ∧ (s.sec.revoked ||| getBits v 3 0).testBit k = false := by
  simp only [State.keyLeft, List.any_eq_true, List.mem_range, Bool.and_eq_true, Bool.not_eq_true']

theorem wrSecRevoke_eq (src : Nat) (v : Word) (s : State) :
    wrSecRevoke src v s = if s.keyLeft v = true then { s with sec := { s.sec with revoked := s.sec.revoked ||| getBits v 3 0 } }
      else s.postIgnored src 3 R.SEC_REVOKE := rfl

theorem exec_keyRevoke {s u : State} (reaches : Reaches s R.SEC_REVOKE u) (v : Word) (src : Nat) :
    exec (.keyRevoke v src) s = .next (wrSecRevoke src v u) := reaches.next _

/-- Settles O7: `Keeps` for the steps, the two branches of a write of SEC_REVOKE, and the read of SEC_KEYSTAT. -/
theorem revocationAndFloorNeverFall : Obligations.RevocationAndFloorNeverFall := by
  refine ⟨?steps, ?revokes, ?refused, ?shown⟩
  case steps =>
    intro s t h
    obtain ⟨_, keeps⟩ | ⟨_, _, _, _, keeps⟩ | ⟨r, _, clear⟩ := step_cases h
    · exact ⟨keeps.revoked, keeps.floor⟩
    · exact ⟨keeps.revoked, keeps.floor⟩
    · obtain ⟨_, _, sec, _⟩ := evtClearDone_keeps clear
      rw [sec]
      exact ⟨fun _ h => h, Nat.le_refl _⟩
  case revokes =>
    intro v src s u reaches left
    exact ⟨_, exec_keyRevoke reaches v src, by rw [wrSecRevoke_eq, if_pos (keyLeft_iff.2 left)]⟩
  case refused =>
    intro v src s u reaches none
    have nothingLeft : ¬ u.keyLeft v = true := fun left => by
      obtain ⟨k, hk, present, usable⟩ := keyLeft_iff.1 left
      rw [none k hk present] at usable
      cases usable
    have written : wrSecRevoke src v u = u.postIgnored src 3 R.SEC_REVOKE := by rw [wrSecRevoke_eq, if_neg nothingLeft]
    refine ⟨_, exec_keyRevoke reaches v src, written, ?_⟩
    rw [written, (posted_postIgnored u src 3 R.SEC_REVOKE).rest]
  case shown =>
    intro src s u reads
    exact ⟨_, rdSec R.SEC_KEYSTAT u, reads.readClearField_next rfl rfl src, rfl, fun k hk => getLsbD_keystat u hk⟩

end Sys2Proof.Machine
end

section
/-! The time base (chapter 18, R431 to R434): the counter's increment, its latched value, steps and slews. -/

namespace Sys2Proof.Machine

section
variable {s : State}

/-! ### Single bits of written words -/

/-- A one-bit field of a word is its bit. -/
theorem getBits_one (v : Word) {i : Nat} (hi : i < 32) : getBits v i i = (v.getLsbD i).toNat := by
  have bit := testBit_getBits v (Nat.le_refl i) hi 0
  have small := getBits_lt v (Nat.le_refl i) hi
  simp only [Nat.sub_self, Nat.le_refl, decide_true, Bool.true_and, Nat.add_zero, Nat.testBit_zero] at bit
  rw [Nat.sub_self] at small
  rw [← bit]
  obtain zero | one : getBits v i i = 0 ∨ getBits v i i = 1 := by omega
  · rw [zero]; rfl
  · rw [one]; rfl

/-- Bits 31 and 30 of a word written with GO or ARM set and the bit below it clear. -/
theorem setBit31_clearBit30 (v : Word) :
    ((v ||| 0x80000000) &&& 0xBFFFFFFF).getLsbD 31 = true ∧ ((v ||| 0x80000000) &&& 0xBFFFFFFF).getLsbD 30 = false := by
  simp only [BitVec.getLsbD_and, BitVec.getLsbD_or]; simp

/-- Bits 31 and 30 of a word written with both set. -/
theorem setBits31And30 (v : Word) : (v ||| 0xC0000000).getLsbD 31 = true ∧ (v ||| 0xC0000000).getLsbD 30 = true := by
  simp only [BitVec.getLsbD_or]; simp

theorem setBit30 (v : Word) : (v ||| 0x40000000).getLsbD 30 = true := by
  rw [BitVec.getLsbD_or]; simp

/-! ### The latched value of the counter (R432) -/

/-- The counter as a read of TIM_NOW_NS latches it. -/
def State.nowLatched (s : State) : State :=
  (((s.put F.TIM_NOW_NS.NS s.time.ns.toNat).put F.TIM_NOW_FRAC.FRAC s.time.frac.toNat).put F.TIM_NOW_SEC_LO.SEC s.time.sec.toNat).put
    F.TIM_NOW_SEC_HI.SEC (s.time.sec.toNat / 2 ^ 32)

theorem rdTimNowNs_eq (s : State) : rdTimNowNs s = (s.nowLatched.reg R.TIM_NOW_NS, s.nowLatched) := rfl

theorem reg_answer (r : Word × State) (off : Nat) : (State.answer r).reg off = r.2.reg off := rfl

theorem get_answer (r : Word × State) (f : Fld) : (State.answer r).get f = r.2.get f := rfl

theorem rdata_answer (r : Word × State) : (State.answer r).rdata = [r.1] := rfl

theorem nowLatched_changes (s : State) :
    ChangesOnly [R.TIM_NOW_NS, R.TIM_NOW_FRAC, R.TIM_NOW_SEC_LO, R.TIM_NOW_SEC_HI] s s.nowLatched :=
  (((changesOnly_put s F.TIM_NOW_NS.NS _).trans (changesOnly_put _ F.TIM_NOW_FRAC.FRAC _)).trans
    (changesOnly_put _ F.TIM_NOW_SEC_LO.SEC _)).trans (changesOnly_put _ F.TIM_NOW_SEC_HI.SEC _)

theorem nowLatched_ns (s : State) : s.nowLatched.get F.TIM_NOW_NS.NS = s.time.ns.toNat := by
  unfold State.nowLatched
  rw [get_put_apart _ (.inl (by decide)), get_put_apart _ (.inl (by decide)), get_put_apart _ (.inl (by decide)), get_put_same _ (Fld.ok_of rfl)]
  exact Nat.mod_eq_of_lt s.time.ns.isLt

theorem nowLatched_frac (s : State) : s.nowLatched.get F.TIM_NOW_FRAC.FRAC = s.time.frac.toNat := by
  unfold State.nowLatched
  rw [get_put_apart _ (.inl (by decide)), get_put_apart _ (.inl (by decide)), get_put_same _ (Fld.ok_of rfl)]
  exact Nat.mod_eq_of_lt s.time.frac.isLt

theorem nowLatched_secLo (s : State) : s.nowLatched.get F.TIM_NOW_SEC_LO.SEC = s.time.sec.toNat % 2 ^ 32 := by
  unfold State.nowLatched
  rw [get_put_apart _ (.inl (by decide)), get_put_same _ (Fld.ok_of rfl)]
  rfl

theorem nowLatched_secHi (s : State) : s.nowLatched.get F.TIM_NOW_SEC_HI.SEC = s.time.sec.toNat / 2 ^ 32 := by
  have range := s.time.sec.isLt
  unfold State.nowLatched
  rw [get_put_same _ (Fld.ok_of rfl), show F.TIM_NOW_SEC_HI.SEC.hi - F.TIM_NOW_SEC_HI.SEC.lo + 1 = 16 from rfl]
  omega

/-! ### Steps (R433) -/

/-- A write of TIM_STEP with GO steps the counter by the mode of its bit 30. -/
theorem wrTimStep_go {v : Word} (go : v.getLsbD 31 = true) : wrTimStep v s = s.timeStep (v.getLsbD 30).toNat := by
  unfold wrTimStep
  rw [if_pos go, getBits_one v (by decide)]

/-- The time that a step leaves. -/
theorem timeStep_time (s : State) (mode : Nat) : (s.timeStep mode).time = s.steppedTime mode := by
  unfold State.timeStep
  rw [(posted_post _ _ _ _ _ _).rest]
  rfl

/-- A step ends the slew, counts, and posts the change of N against the count without the step. -/
theorem timeStep_eq (s : State) (mode : Nat) :
    s.timeStep mode = (({ s with time := (s.timeStep mode).time, tim := { s.tim with slew := none } } : State).bump F.TIM_STEP.STEPS).post srcTime 2 0 mode
      (timeN (s.timeStep mode).time - timeN (timeAdd s.time (s.tickInc : Int))).toNat := by
  rw [timeStep_time]
  rfl

/-! ### Slews (R434) -/

/-- The last tick of a slew adds what remains of it. -/
theorem slewTick_last {neg : Bool} {left : Nat} (slews : s.tim.slew = some (neg, left)) (last : left ≤ s.slewStep) :
    s.slewTick = (if neg then -(left : Int) else (left : Int), none) := by
  unfold State.slewTick
  rw [slews]
  simp only [Nat.min_eq_left last, if_pos last]

theorem slewEnds_last {neg : Bool} {left : Nat} (slews : s.tim.slew = some (neg, left)) (last : left ≤ s.slewStep) :
    s.slewEnds = { s with
      time := timeAdd s.time ((s.tickInc : Int) + (if neg then -(left : Int) else (left : Int))), tim := { s.tim with slew := none } } := by
  unfold State.slewEnds State.tick
  rw [slewTick_last slews last, slews]
  exact if_pos last

theorem slewEnds_more {neg : Bool} {left : Nat} (slews : s.tim.slew = some (neg, left)) (more : s.slewStep < left) : s.slewEnds = s := by
  unfold State.slewEnds
  rw [slews]
  exact if_neg (Nat.not_le.mpr more)

theorem slewEnds_none (idle : s.tim.slew = none) : s.slewEnds = s := by
  unfold State.slewEnds
  rw [idle]

end

/-- Settles O53: the latched value (`nowLatched_changes` and its fields), a step of either mode (`timeStep_time`, `timeStep_eq`), and the
slew's last tick (`slewEnds_last`). -/
theorem timeBase : Obligations.TimeBase := by
  refine ⟨?increment, ?now, ?set, ?offset, ?slew, ?complete, ?noSlew⟩
  case increment =>
    intro hi v src s u reaches
    exact ⟨_, reaches.next _, rfl, (plainWrite_reg u src _ v).1⟩
  case now =>
    intro s u reads
    obtain ⟨rest, others⟩ := nowLatched_changes u
    refine ⟨State.answer (rdTimNowNs u), reads.next _, ?_⟩
    simp only [rdTimNowNs_eq, reg_answer, get_answer, rdata_answer]
    refine ⟨trivial, nowLatched_ns u, nowLatched_frac u, nowLatched_secLo u, nowLatched_secHi u, ?_, others⟩
    exact congrArg (fun t : State => { t with rdata := [u.nowLatched.reg R.TIM_NOW_NS] }) rest
  case set =>
    intro v s u reaches
    obtain ⟨go, mode⟩ := setBit31_clearBit30 v
    have effect : wrTimStep ((v ||| 0x80000000) &&& 0xBFFFFFFF) u = u.timeStep 0 := by rw [wrTimStep_go go, mode]; rfl
    exact ⟨u.timeStep 0, (reaches.next _).trans (congrArg _ effect), timeStep_time u 0, timeStep_eq u 0⟩
  case offset =>
    intro v s u reaches
    obtain ⟨go, mode⟩ := setBits31And30 v
    have effect : wrTimStep (v ||| 0xC0000000) u = u.timeStep 1 := by rw [wrTimStep_go go, mode]; rfl
    exact ⟨u.timeStep 1, (reaches.next _).trans (congrArg _ effect), timeStep_time u 1, timeStep_eq u 1⟩
  case slew =>
    intro v src s u reaches
    refine ⟨fun zero => reaches.to ?_, fun nonzero => reaches.to ?_⟩
    · rw [wrTimSlew, if_pos zero]
    · rw [wrTimSlew, if_neg nonzero]; rfl
  case complete =>
    intro neg left s awake slews
    refine ⟨fun last => ?_, fun more => running_self (slewEnds_more slews more)⟩
    have effect := slewEnds_last slews last
    refine ⟨s.slewEnds, running_next awake _, ?_⟩
    rw [effect]
    exact ⟨rfl, rfl, rfl⟩
  case noSlew =>
    intro s idle
    exact running_self (slewEnds_none idle)

end Sys2Proof.Machine
end

section
/-! Triggers, captures, PPS and PTP (chapter 18, R436 to R445). -/

namespace Sys2Proof.Machine

section
variable {s : State}

/-! ### Arming and disarming (R437) -/

section
variable {k : Nat} {v : Word}

/-- What a write of TIM_TRGk_CFG leaves of an unarmed trigger before it may arm it. -/
def State.trgWritten (s : State) (k : Nat) (v : Word) : State :=
  (s.put (F.TIM_TRG_CFG.IRQ k) (getBits v 29 29)).put (F.TIM_TRG_CFG.TIME_HI k) (getBits v 7 0)

/-- The target TIME_HI : TIME, in units of 2⁻³² ns. -/
def State.trgTarget (s : State) (k : Nat) : Nat := (s.get (F.TIM_TRG_CFG.TIME_HI k) * 2 ^ 32 + s.get (F.TIM_TRG_TIME.TIME k)) * fracNs

theorem on_setTim (s : State) (x : TimState) (f : Fld) : ({ s with tim := x } : State).on f = s.on f := rfl

/-- A trigger armed with its target. -/
def State.trgArmed (s : State) (k : Nat) : State :=
  { s.put (F.TIM_TRG_CFG.ARM k) 1 with tim := { s.tim with targets := sset 0 s.tim.targets k (s.trgTarget k) } }

theorem trgArmed_target (s : State) (k : Nat) : sget 0 (s.trgArmed k).tim.targets k = s.trgTarget k :=
  sget_sset_same _ _ _ _

theorem trgArmed_on (s : State) (k : Nat) : (s.trgArmed k).on (F.TIM_TRG_CFG.ARM k) = true :=
  (on_setTim (s.put (F.TIM_TRG_CFG.ARM k) 1) _ _).trans (on_put_one s (Fld.ok_of rfl))

theorem trgArmed_eq (s : State) (k : Nat) :
    s.trgArmed k = { s.put (F.TIM_TRG_CFG.ARM k) 1 with tim := { s.tim with targets := (s.trgArmed k).tim.targets } } := rfl

theorem wrTrgCfg_armed_kept (armed : s.on (F.TIM_TRG_CFG.ARM k) = true) (kept : v.getLsbD 30 = false) : wrTrgCfg k v s = s := by
  unfold wrTrgCfg
  rw [if_pos armed, if_neg (Bool.eq_false_iff.mp kept)]

theorem wrTrgCfg_armed_disarms (armed : s.on (F.TIM_TRG_CFG.ARM k) = true) (disarms : v.getLsbD 30 = true) :
    wrTrgCfg k v s = s.put (F.TIM_TRG_CFG.ARM k) 0 := by
  unfold wrTrgCfg
  rw [if_pos armed, if_pos disarms]

theorem wrTrgCfg_arms (unarmed : s.on (F.TIM_TRG_CFG.ARM k) = false) (arms : v.getLsbD 31 = true) (kept : v.getLsbD 30 = false) :
    wrTrgCfg k v s = (s.trgWritten k v).trgArmed k := by
  unfold wrTrgCfg State.trgArmed State.trgTarget State.trgWritten
  rw [if_neg (Bool.eq_false_iff.mp unarmed)]
  simp only [arms, kept, Bool.not_false, Bool.and_self, if_true]

theorem wrTrgCfg_unarmed (unarmed : s.on (F.TIM_TRG_CFG.ARM k) = false) (disarms : v.getLsbD 30 = true) :
    wrTrgCfg k v s = s.trgWritten k v := by
  unfold wrTrgCfg
  rw [if_neg (Bool.eq_false_iff.mp unarmed)]
  exact if_neg (by rw [disarms, Bool.not_true, Bool.and_false]; decide)

end

/-! ### Firing (R436, R438) -/

section
variable {k : Nat}

/-- A firing counted. -/
def State.trgCounted (s : State) (k : Nat) : State :=
  { s.bump (F.TIM_TRG_STAT.FIRES k) with tim := { s.tim with fired := sset none s.tim.fired k (some s.time) } }

/-- A trigger's period in units of 2⁻³² ns. -/
def State.trgPeriod (s : State) (k : Nat) : Nat := s.get (F.TIM_TRG_PERIOD.NS k) * fracNs + s.get (F.TIM_TRG_PFRAC.FRAC k)

/-- The smallest whole number of periods that puts the target `g` after N. -/
def State.trgSteps (s : State) (k g : Nat) : Nat := (((s.past (g / fracNs)).toNat + 1) * fracNs - g % fracNs + s.trgPeriod k - 1) / s.trgPeriod k

theorem trgFire_idle (h : s.on (F.TIM_TRG_CFG.ARM k) = false ∨ s.reached (sget 0 s.tim.targets k / fracNs) = false) : s.trgFire k = s :=
  if_pos (by obtain h | h := h <;> simp [h])

theorem trgFire_due (armed : s.on (F.TIM_TRG_CFG.ARM k) = true) (due : s.reached (sget 0 s.tim.targets k / fracNs) = true) :
    s.trgFire k =
      let w := s.trgCounted k
      let g := sget 0 s.tim.targets k
      (if w.trgPeriod k = 0 then w.put (F.TIM_TRG_CFG.ARM k) 0
       else { w.bumpBy (F.TIM_TRG_STAT.MISSED k) (w.trgSteps k g - 1) with
         tim := { w.tim with targets := sset 0 w.tim.targets k ((g + w.trgSteps k g * w.trgPeriod k) % 2 ^ 72) } }).consume k :=
  if_neg (by rw [armed, due]; decide)

end

/-! ### Pulses, captures and PPS (R440, R441) -/

theorem toutEnd_pulse {n : Nat} (pulses : s.tim.pulses.contains n = true) :
    s.toutEnd n = { s with tim := { s.tim with pulses := s.tim.pulses.filter (· != n) }, out := s.out ++ [⟨"trigOut", n, [s.toutLevel n false]⟩] } :=
  if_pos pulses

theorem toutEnd_none {n : Nat} (idle : s.tim.pulses.contains n = false) : s.toutEnd n = s := if_neg (Bool.eq_false_iff.mp idle)

section
variable {j : Nat} {rising : Bool}

/-- TRIG_INj at its new level. -/
def State.tinLevel (s : State) (j : Nat) (rising : Bool) : State := s.setBit F.GPIO_TIN_CFG.LEVEL j rising

/-- TRIG_INj selects the edge. -/
def State.tinSelects (s : State) (j : Nat) (rising : Bool) : Prop :=
  let e := bits (s.get F.GPIO_TIN_CFG.EDGE) (2 * j) 2
  if rising then e % 2 = 1 else 2 ≤ e

theorem tinSelects_iff : (if rising then bits (s.get F.GPIO_TIN_CFG.EDGE) (2 * j) 2 % 2 == 1 else decide (2 ≤ bits (s.get F.GPIO_TIN_CFG.EDGE) (2 * j) 2)) = true ↔
    s.tinSelects j rising := by
  unfold State.tinSelects
  cases rising <;> simp

theorem captureEdge_selected (input : j < 8) (selects : (s.tinLevel j rising).tinSelects j rising) :
    s.captureEdge j rising = ((s.tinLevel j rising).capture j).latchWake 0 := by
  unfold State.captureEdge
  rw [if_pos input]
  exact if_pos (tinSelects_iff.2 selects)

theorem captureEdge_unselected (input : j < 8) (passes : ¬ (s.tinLevel j rising).tinSelects j rising) :
    s.captureEdge j rising = s.tinLevel j rising := by
  unfold State.captureEdge
  rw [if_pos input]
  exact if_neg fun h => passes (tinSelects_iff.1 h)

theorem captureEdge_pps (rising : Bool) : s.captureEdge 8 rising = if rising then (s.capture 8).latchWake 1 else s := rfl

theorem captureEdge_vsync (sync : 8 < j) :
    s.captureEdge j rising = if rising != s.on (F.SLK_SYNCCTL.POL (j - 9)) then s.vsyncEdge (j - 9) else s := by
  unfold State.captureEdge
  rw [if_neg (by omega), if_neg (by omega)]

end

theorem setPps_same {b : Bool} (h : s.tim.pps = b) : s.setPps b = s := if_pos h

theorem setPps_changes {b : Bool} (h : s.tim.pps ≠ b) :
    s.setPps b = { s with tim := { s.tim with pps := b }, out := s.out ++ [⟨"pps", 0, [if b then 1 else 0]⟩] } := if_neg h

/-! ### PTP frames received (R443) -/

section
variable {p : Nat} {f : List Byte}

theorem ptpReceive_unselected (h : s.bit F.TIM_PTP.PORTS p = false ∨ s.ethUp p 0 = false ∨ ptpSelected f = false ∨
    (ipDst f ≠ ptpIp ∧ ipDst f ≠ s.subIp (4 * p))) : s.ptpReceive p f = s := by
  refine if_pos ?_
  simp only [Bool.or_eq_true, Bool.and_eq_true, Bool.not_eq_true', bne_iff_ne, or_assoc]
  exact h

section
variable (enabled : s.bit F.TIM_PTP.PORTS p = true) (up : s.ethUp p 0 = true) (selected : ptpSelected f = true) (here : ipDst f = ptpIp)
  (endpoint : s.on F.TIM_PTP.TC_EN = false)
include enabled up selected here endpoint

/-- The entry of the receive ring for a frame that is not forwarded (Table 18.4). -/
def State.prxEntry (s : State) (p : Nat) (f : List Byte) : List Byte :=
  padTo 128 (stampBytes (s.rxStamp p) ++ leBytes 1 p ++ leBytes 1 ((if 96 < (udpData f).length then 2 else 0) + 0) ++
    leBytes 2 (min (udpData f).length 96) ++ leBytes 2 (udpDst f) ++ leBytes 4 (ipSrc f) ++ leBytes 4 s.tim.prxSeq ++ zeros 4 ++ (udpData f).take 96)

theorem ptpReceive_otherDomain (h : s.on F.TIM_PTP.RX_EN = false ∨ beField (udpData f) 4 1 ≠ s.get F.TIM_PTP.DOMAIN) : s.ptpReceive p f = s := by
  unfold State.ptpReceive
  rw [if_neg (by simp [enabled, up, selected, here])]
  simp only [endpoint, Bool.false_and, Bool.false_eq_true, if_false]
  exact if_pos (by simpa using h)

theorem ptpReceive_recorded {ok : Bool} {w : State} (receives : s.on F.TIM_PTP.RX_EN = true) (domain : beField (udpData f) 4 1 = s.get F.TIM_PTP.DOMAIN)
    (written : s.ringRecord ptpReq (s.addr R.TIM_PRX_LO R.TIM_PRX_HI) 128 (ringSize (s.get F.TIM_PRX_CTL.LOG2CNT) 4 16) F.TIM_PRX_CTL.WIDX (s.prxEntry p f) = (ok, w)) :
    s.ptpReceive p f = if ok then { w with tim := { w.tim with prxSeq := (w.tim.prxSeq + 1) % 2 ^ 32 } } else w := by
  unfold State.ptpReceive
  rw [if_neg (by simp [enabled, up, selected, here])]
  simp only [endpoint, Bool.false_and, Bool.false_eq_true, if_false]
  rw [if_neg (by simp [receives, domain])]
  unfold State.prxEntry at written
  rw [written]
  cases ok <;> rfl

end
end

/-! ### PTP frames sent (R444, R445) -/

/-- The entry of the transmit ring that is next, and the address it stands at. -/
def State.ptxSlots (s : State) : Nat := ringSize (s.get F.TIM_PTX_CTL.LOG2CNT) 4 12
def State.ptxNext (s : State) : Nat := s.get F.TIM_PTX_CTL.RIDX % s.ptxSlots
def State.ptxAt (s : State) : Nat := s.addr R.TIM_PTX_LO R.TIM_PTX_HI + 128 * s.ptxNext

theorem ptpTxDone_empty (empty : s.ptxNext = s.get F.TIM_PTX_WIDX.WIDX % s.ptxSlots) : s.ptpTxDone = s := if_pos empty

section
variable {w : State} (next : s.ptxNext ≠ s.get F.TIM_PTX_WIDX.WIDX % s.ptxSlots)
include next

theorem ptpTxDone_unreadable {x : AccErr} (fails : s.engRead ptpReq s.ptxAt 128 = (.error x, w)) :
    s.ptpTxDone = w.put F.TIM_PTX_CTL.RIDX ((s.ptxNext + 1) % s.ptxSlots) := by
  refine (if_neg next).trans ?_
  simp only [State.ptxAt, State.ptxNext, State.ptxSlots] at fails ⊢
  rw [fails]

section
variable {e : List Byte} (read : s.engRead ptpReq s.ptxAt 128 = (.ok e, w))
include read

/-- The port of a ring entry. -/
def ptxPort (e : List Byte) : Nat := field e 0x0E 1 % 2

/-- A transmit entry's frame leaves, and its entry takes the time and DONE. -/
def State.ptxSends (s : State) (a : Nat) (e : List Byte) : State :=
  let y := s.emit "ptpTx" (ptxPort e) (field e 0x14 4 :: field e 0x12 2 :: ((e.drop 0x20).take (min (max (field e 0x10 2) 34) 96)).map (·.toNat))
  let z := (y.engWrite ptpReq a (stampBytes (y.txStamp (ptxPort e)))).2
  (z.engWrite ptpReq (a + 0x0F) (leBytes 1 (field e 0x0F 1 ||| 1))).2

/-- The next entry, read: it waits while its port is down, paused or owed to a forwarded frame, and else is sent. -/
theorem ptpTxDone_read :
    s.ptpTxDone = if (!s.ethUp (ptxPort e) 0 || s.paused (4 * ptxPort e) 8 || s.tim.forwards.any (fun w => w.port == ptxPort e)) = true then s
      else (w.ptxSends s.ptxAt e).put F.TIM_PTX_CTL.RIDX ((s.ptxNext + 1) % s.ptxSlots) := by
  refine (if_neg next).trans ?_
  simp only [State.ptxAt, State.ptxNext, State.ptxSlots] at read ⊢
  rw [read]
  rfl

end
end

/-! ### The transparent clock (R444, R445) -/

section
variable {p : Nat}

theorem tcForward_none (idle : s.tim.forwards.find? (fun w => w.port == p) = none) : s.tcForward p = s := by
  unfold State.tcForward
  rw [idle]

section
variable {f : PtpForward} (oldest : s.tim.forwards.find? (fun w => w.port == p) = some f)
include oldest

/-- The oldest frame that waits is taken out. -/
def State.tcTakes (s : State) (f : PtpForward) : State := { s with tim := { s.tim with forwards := s.tim.forwards.erase f } }

theorem tcForward_drops (late : 1000000 * 65536 < s.txStamp p - f.ingress) : s.tcForward p = (s.tcTakes f).bump F.TIM_PTP_STAT.TC_DROPS := by
  unfold State.tcForward
  rw [oldest]
  simp only [decide_eq_true late, Bool.not_true, Bool.and_false, Bool.false_eq_true, if_false, if_true]
  rfl

section
variable (early : s.txStamp p - f.ingress ≤ 1000000 * 65536)
include early

theorem tcForward_waits (h : s.paused (4 * p) 8 = true ∨ s.ethUp p 0 = false) : s.tcForward p = s := by
  unfold State.tcForward
  rw [oldest]
  exact if_pos (by rw [decide_eq_false (Nat.not_lt.mpr early)]; simpa using h)

theorem tcForward_sends (free : s.paused (4 * p) 8 = false) (up : s.ethUp p 0 = true) :
    s.tcForward p = ((s.tcTakes f).bump F.TIM_PTP_STAT.TC_FWD).emit "ethTx" (4 * p) ((corrected f.frame (s.txStamp p - f.ingress)).map (·.toNat)) := by
  unfold State.tcForward
  rw [oldest]
  simp only [decide_eq_false (Nat.not_lt.mpr early), free, up, Bool.not_true, Bool.or_self, Bool.false_and, Bool.false_eq_true, if_false]
  rfl

end
end
end

end

/-- Settles O54: each command under its condition: a trigger's arming (`wrTrgCfg_arms`, `wrTrgCfg_armed_disarms`), its firing
(`trgFire_due`), edges (`captureEdge_selected`), PTP frames in (`ptpReceive_recorded`) and out (`ptpTxDone_read`, `tcForward_sends`). -/
theorem triggersAndPtp : Obligations.TriggersAndPtp := by
  refine ⟨?arm, ?fire, ?noFire, ?pulse, ?edge, ?capture, ?rise, ?noRise, ?fall, ?unselected, ?selected, ?submit, ?sent, ?noForward, ?forward⟩
  case arm =>
    intro k v s u reaches
    obtain ⟨arms, kept⟩ := setBit31_clearBit30 v
    refine ⟨⟨fun armed => reaches.to (wrTrgCfg_armed_kept armed kept), fun unarmed => ?_⟩, fun armed => ?_, fun unarmed => ?_⟩
    · exact ⟨_, (reaches.next _).trans (congrArg _ (wrTrgCfg_arms unarmed arms kept)), trgArmed_on _ k, trgArmed_target _ k, trgArmed_eq _ k⟩
    · exact ⟨_, (reaches.next _).trans (congrArg _ (wrTrgCfg_armed_disarms armed (setBit30 v))), rfl, on_put_zero u (Fld.ok_of rfl)⟩
    · exact reaches.to (wrTrgCfg_unarmed unarmed (setBit30 v))
  case fire =>
    intro k s awake armed g w per m due
    refine ⟨fun once => running_to awake ((trgFire_due armed due).trans ?_), fun again => running_to awake ((trgFire_due armed due).trans ?_)⟩
    · exact congrArg (State.consume · k) (if_pos once)
    · exact congrArg (State.consume · k) (if_neg again)
  case noFire =>
    intro k s h
    exact running_self (trgFire_idle h)
  case pulse =>
    intro n s awake
    refine ⟨fun pulses => ⟨_, running_next awake _, ?_, ?_⟩, fun idle => running_self (toutEnd_none idle)⟩
    · rw [toutEnd_pulse pulses]
    · rw [toutEnd_pulse pulses]
  case edge =>
    intro j rising s awake
    refine ⟨fun input => ⟨fun selects => ?_, fun passes => ?_⟩, fun pps up => ?_, fun pps down => ?_, fun sync same => ?_, fun sync other => ?_⟩
    · exact running_to awake (captureEdge_selected input selects)
    · exact running_to awake (captureEdge_unselected input passes)
    · refine running_to awake ?_
      rw [pps, captureEdge_pps, if_pos up]
    · refine running_to awake ?_
      rw [pps, captureEdge_pps, down]; rfl
    · exact running_to awake ((captureEdge_vsync sync).trans (if_neg (by simpa using same)))
    · exact running_to awake ((captureEdge_vsync sync).trans (if_pos (by simpa using other)))
  case capture =>
    intro j s u reads
    exact ⟨_, reads.next _, rfl, on_put_zero u (Fld.ok_of rfl), rfl⟩
  case rise =>
    intro s awake enabled second low
    refine running_to awake ((if_pos ?_).trans (setPps_changes ?_))
    · rw [enabled, decide_eq_true second]; rfl
    · rw [low]; decide
  case noRise =>
    intro s h
    refine running_self ?_
    split
    · next acts =>
      simp only [Bool.and_eq_true, decide_eq_true_eq] at acts
      obtain ⟨enabled, second⟩ := acts
      obtain h | h | h := h
      · exact absurd enabled (Bool.eq_false_iff.mp h)
      · exact absurd second (Nat.not_lt.mpr h)
      · exact setPps_same h
    · rfl
  case fall =>
    intro s awake high
    exact running_to awake (setPps_changes (by rw [high]; decide))
  case unselected =>
    intro p f s h
    exact running_self (ptpReceive_unselected h)
  case selected =>
    intro p f s awake enabled up selected here endpoint m e
    refine ⟨fun other => running_to awake (ptpReceive_otherDomain enabled up selected here endpoint other), fun ok w receives domain written => ?_⟩
    exact running_to awake (ptpReceive_recorded enabled up selected here endpoint receives domain written)
  case submit =>
    intro widx src s u reaches
    exact reaches.to rfl
  case sent =>
    intro s awake n i a
    refine ⟨fun empty => running_to awake (ptpTxDone_empty empty), fun x w next fails => running_to awake (ptpTxDone_unreadable next fails), fun e w next read => ?_⟩
    have effect := ptpTxDone_read next read
    refine ⟨fun waits => running_to awake (effect.trans (if_pos ?_)), fun up free first => running_to awake (effect.trans (if_neg ?_))⟩
    · obtain h | h | h := waits
      · simp [show s.ethUp (ptxPort e) 0 = false from h]
      · simp [show s.paused (4 * ptxPort e) 8 = true from h]
      · rw [show s.tim.forwards.any (fun w => w.port == ptxPort e) = true from h, Bool.or_true]
    · rw [show s.ethUp (ptxPort e) 0 = true from up, show s.paused (4 * ptxPort e) 8 = false from free,
        show s.tim.forwards.any (fun w => w.port == ptxPort e) = false from first]
      decide
  case noForward =>
    intro p s idle
    exact running_self (tcForward_none idle)
  case forward =>
    intro p s f awake oldest w
    refine ⟨fun late => running_to awake (tcForward_drops oldest late), fun early waits => running_to awake (tcForward_waits oldest early waits), ?_⟩
    exact fun early free up => running_to awake (tcForward_sends oldest early free up)

end Sys2Proof.Machine
end

section
/-! The event recorder (chapter 22, R514 to R520): events of firmware, placing, clearing, and the last sequence number. -/

namespace Sys2Proof.Machine

section
variable {s : State}

/-! ### Events of firmware (R520) -/

section
variable {src : Nat} {v : Word}

/-- What posting an event of severity `sev` leaves before the event enters the intake: from severity 5 on, a wake cause. -/
def State.postWakes (s : State) (sev : Fin 8) : State := if 5 ≤ sev then s.latchWake 7 else s

/-- The event that is posted. -/
def State.postedEvent (s : State) (src : Nat) (sev : Fin 8) (cat detail data : Nat) : Event :=
  ⟨BitVec.ofNat 16 src, BitVec.ofNat 16 (cat * 4096 + detail % 4096), sev, s.now, BitVec.ofNat 64 data⟩

theorem post_eq (s : State) (src : Nat) (sev : Fin 8) (cat detail data : Nat) :
    s.post src sev cat detail data = (s.postWakes sev).intake (s.postedEvent src sev cat detail data) := by
  unfold State.post State.when State.postWakes
  simp only [decide_eq_true_eq]
  rfl

theorem intake_enters {e : Event} (passes : s.get F.EVT_CFG.MIN_SEV ≤ e.sev.val) (room : s.evt.intake.length < if 6 ≤ e.sev then 64 else 56) :
    s.intake e = { s with evt := { s.evt with intake := s.evt.intake ++ [e] } } := by
  unfold State.intake
  rw [if_neg (Nat.not_lt.mpr passes)]
  exact if_pos room

theorem wrEvtPost_ignored (reserved : getBits v 15 12 = 0xF) : wrEvtPost src v s = s := if_pos reserved

theorem wrEvtPost_posts (open_ : getBits v 15 12 ≠ 0xF) :
    wrEvtPost src v s = s.post src (Fin.ofNat 8 (getBits v 18 16)) (getBits v 15 12) (getBits v 11 0) (s.postData src).toNat := if_neg open_

/-- The DATA register that is written, high or low. -/
def evtPostData (hi : Bool) : Nat := if hi then R.EVT_POST_DATA_HI else R.EVT_POST_DATA_LO

theorem evtPostData_register (hi : Bool) : evtPostData hi % 4 = 0 ∧ implemented (evtPostData hi) = true := by
  cases hi <;> exact ⟨rfl, rfl⟩

theorem regWrite_evtPostData (hi : Bool) : regWrite src (evtPostData hi) v s = wrEvtPostData src hi v s := by cases hi <;> rfl

theorem postData_written (hi : Bool) :
    (wrEvtPostData src hi v s).postData src = if hi then v ++ (s.postData src).setWidth 32 else (s.postData src).extractLsb' 32 32 ++ v :=
  sget_sset_same _ _ _ _

theorem postData_unwritten (hi : Bool) {o : Nat} (h : o ≠ src) : (wrEvtPostData src hi v s).postData o = s.postData o :=
  sget_sset_other _ _ _ _ h

end

/-- Settles O58: the branches of `wrEvtPost`, `post_eq` with `intake_enters`, and the writer's own DATA (`postData_written`). -/
theorem firmwareEvents : Obligations.FirmwareEvents := by
  refine ⟨?post, ?data⟩
  case post =>
    intro v src s u reaches
    refine ⟨fun reserved => reaches.to (wrEvtPost_ignored reserved), fun open_ => ?_, fun open_ passes room => reaches.to ?_⟩
    · exact ⟨_, (reaches.next _).trans (congrArg _ (wrEvtPost_posts open_)), rfl, post_eq ..⟩
    · exact (wrEvtPost_posts open_).trans ((post_eq ..).trans (intake_enters passes room))
  case data =>
    intro hi v src s u reaches
    obtain ⟨aligned, there⟩ := evtPostData_register hi
    refine ⟨_, (Reaches.registerWrite_next (off := evtPostData hi) reaches aligned there v src).trans (congrArg _ (regWrite_evtPostData hi)), ?_⟩
    exact ⟨postData_written hi, fun o h => postData_unwritten hi h, rfl⟩

/-! ### Placing (R514, R515) -/

theorem placeNext_empty (empty : s.evt.intake = []) : s.placeNext = s := by
  unfold State.placeNext
  rw [empty]

theorem placeNext_oldest {e : Event} {r : List Event} (waits : s.evt.intake = e :: r) :
    s.placeNext = ({ s with evt := { s.evt with intake := r } } : State).place e false := by
  unfold State.placeNext
  rw [waits]

theorem placeSummary_oldest {x : Suppressed} {r : List Suppressed} (empty : s.evt.intake = []) (waits : s.evt.supp = x :: r) :
    s.placeSummary = ({ s with evt := { s.evt with supp := r } } : State).place
      ⟨x.src, BitVec.ofNat 16 (0xF000 + x.code.toNat / 4096), x.sev, x.time, BitVec.ofNat 64 x.count⟩ true := by
  unfold State.placeSummary
  rw [empty, waits]

theorem placeSummary_none (h : s.evt.intake ≠ [] ∨ s.evt.supp = []) : s.placeSummary = s := by
  unfold State.placeSummary
  split
  · next empty waits => exact absurd h (by rw [empty, waits]; simp)
  · rfl

theorem exec_eventPlace (s : State) : exec .eventPlace s = .next (if s.power.cosy then s.placeNext else s) := rfl

theorem exec_summaryPlace (s : State) : exec .summaryPlace s = .next (if s.power.cosy then s.placeSummary else s) := rfl

/-- The record that an event becomes. -/
def Recorder.recordOf (r : Recorder) (e : Event) (summary : Bool) : EvRecord := ⟨r.nextSeq, e.src, e.code, e.sev, summary, e.time, e.data⟩

/-- A recorder with an event placed in slot `k`. -/
def Recorder.placed (r : Recorder) (k : Nat) (e : Event) (summary : Bool) : Recorder :=
  { r with ring := sset none r.ring k (some (r.recordOf e summary)), nextSeq := r.nextSeq + 1 }

theorem sget_placed_same (r : Recorder) (k : Nat) (e : Event) (summary : Bool) :
    sget none (r.placed k e summary).ring k = some (r.recordOf e summary) := sget_sset_same none r.ring k (some (r.recordOf e summary))

theorem sget_placed_other (r : Recorder) {j k : Nat} (e : Event) (summary : Bool) (h : j ≠ k) :
    sget none (r.placed k e summary).ring j = sget none r.ring j := sget_sset_other none none r.ring (some (r.recordOf e summary)) h

/-- Where there is a slot, placing writes it and counts the sequence on; what follows keeps both. -/
theorem place_ring {e : Event} {k : Nat} {above summary : Bool} (slot : s.evt.slotFor e.sev = some (k, above)) :
    (s.place e summary).evt.ring = (s.evt.placed k e summary).ring ∧ (s.place e summary).evt.nextSeq = s.evt.nextSeq + 1 := by
  have kept : (s.place e summary).kept = ({ s with evt := s.evt.placed k e summary } : State).kept := by
    unfold State.place
    rw [slot]
    simp only [andThen_cons, andThen_nil, kept_when, State.incr_kept, State.mirror_kept, State.irq_kept, State.requestFreeze_kept]
    rfl
  simp only [State.kept, Prod.mk.injEq] at kept
  obtain ⟨_, _, ring, seq, _⟩ := kept
  exact ⟨ring, seq⟩

/-! ### Clearing and the last sequence number (R516, R518) -/

/-- The state in which a clear of severity `sev` has begun. -/
def State.clearBegins (s : State) (sev : Nat) : State := { s with evt := { s.evt with clearing := some (sev, s.lastSeq) } }

theorem wrEvtClear_refused {v : Word} (h : getBits v 31 16 ≠ 0x5AFE ∨ s.on F.EVT_CLEAR.BUSY = true) : wrEvtClear v s = s := if_pos h

theorem wrEvtClear_starts {v : Word} (key : getBits v 31 16 = 0x5AFE) (idle : s.on F.EVT_CLEAR.BUSY = false) :
    wrEvtClear v s = (if getBits v 2 0 = 7 then (s.clearBegins (getBits v 2 0)).wreg R.EVT_LOSS 0 else s.clearBegins (getBits v 2 0)).put F.EVT_CLEAR.BUSY 1 := by
  unfold wrEvtClear
  rw [if_neg (by simp [key, idle])]
  unfold State.when
  simp only [decide_eq_true_eq]
  rfl

theorem cleared_idle (s : State) (sev : Nat) (last : BitVec 48) : (s.cleared sev last).on F.EVT_CLEAR.BUSY = false :=
  on_put_zero _ (Fld.ok_of rfl)

end

/-- Settles O59: what is placed (`placeNext_oldest`, `placeSummary_oldest`, `place_ring`), how a clear starts (`wrEvtClear_starts`) and
what it empties (`sget_cleared_of_within`, `sget_cleared_of_above`). -/
theorem eventRecorder : Obligations.EventRecorder := by
  refine ⟨?place, ?noPlace, ?placed, ?summary, ?noSummary, ?clear, ?clears, ?noClear, ?last⟩
  case place =>
    intro e r s powered waits
    exact ⟨_, exec_eventPlace s, by rw [if_pos powered, placeNext_oldest waits]⟩
  case noPlace =>
    intro s h
    rw [exec_eventPlace]
    obtain off | empty := h
    · rw [off]; rfl
    · rw [placeNext_empty empty, ite_self]
  case placed =>
    intro e k above r s powered waits slot
    have effect : exec .eventPlace s = .next (({ s with evt := { s.evt with intake := r } } : State).place e false) := by
      rw [exec_eventPlace, if_pos powered, placeNext_oldest waits]
    obtain ⟨ring, seq⟩ := place_ring (s := { s with evt := { s.evt with intake := r } }) (summary := false) slot
    refine ⟨_, s.evt.recordOf e false, effect, ?_, rfl, rfl, rfl, rfl, rfl, rfl, seq, fun j other => ?_⟩
    · rw [ring]
      exact sget_placed_same _ k e false
    · rw [ring]
      exact sget_placed_other _ e false other
  case summary =>
    intro x r s powered empty waits
    exact ⟨_, exec_summaryPlace s, by rw [if_pos powered, placeSummary_oldest empty waits]⟩
  case noSummary =>
    intro s h
    rw [exec_summaryPlace]
    obtain off | h := h
    · rw [off]; rfl
    · rw [placeSummary_none h, ite_self]
  case clear =>
    intro v s u reaches
    refine ⟨fun refused => reaches.to (wrEvtClear_refused refused), fun key idle => ?_⟩
    exact ⟨_, (reaches.next _).trans (congrArg _ (wrEvtClear_starts key idle)), rfl, on_put_one _ (Fld.ok_of rfl)⟩
  case clears =>
    intro sev last s clearing
    refine ⟨s.cleared sev last, evtClearDone_next clearing, cleared_idle s sev last, rfl, fun k e held => ⟨?_, ?_⟩, rfl⟩
    · exact fun within ok => sget_cleared_of_within ok held within
    · exact fun above ok => sget_cleared_of_above ok held above
  case noClear =>
    intro s idle
    exact evtClearDone_idle idle
  case last =>
    intro s u reads
    exact ⟨_, reads.next _, rfl⟩

end Sys2Proof.Machine
end

section
/-! Warm reset (chapter 22, R501, R555, R333, R423): what it keeps, and what SYS_RESET and core 0 show after it. -/

namespace Sys2Proof.Machine

/-! ### Bringing domains up -/

theorem powersOnly_bringUps {l : List Nat} (small : ∀ d ∈ l, d < 256) (s : State) : PowersOnly s (l.foldl State.bringUp s) :=
  List.foldlRecOn l _ (motive := fun t => PowersOnly s t) (PowersOnly.rfl' s) fun t h d hd => h.trans (powersOnly_bringUp t (small d hd))

theorem bootDomains_lt : ∀ d ∈ bootDomains, d < 256 := by decide

/-- Core 0 about to start leaves every register outside the power block, the MAC addresses and its own. -/
theorem get_startCore0 (s : State) {f : Fld} (notCore : f.reg ≠ R.CPU_CORE_CTL 0) (notPower : ¬ (0x160000 ≤ f.reg ∧ f.reg < 0x170000))
    (notMac : ¬ (0x120000 ≤ f.reg ∧ f.reg < 0x122000)) : s.startCore0.get f = s.get f := by
  unfold State.startCore0
  rw [get_put_apart _ (.inl (Ne.symm notCore)), (powersOnly_bringUps bootDomains_lt s).get notPower notMac]

theorem startCore0_starting (s : State) : s.startCore0.get (F.CPU_CORE_CTL.STATE 0) = 1 := get_put_same _ (Fld.ok_of rfl) 1

/-! ### What a warm reset keeps -/

/-- `t` holds of the model what a warm reset of `s` leaves: memory but the caddy's, the event ring, the store, the index of the capture
store and the queue, and no load and no brew. -/
structure WarmKept (s t : State) : Prop where
  mem : t.mem = s.mem.filter (fun c => region c.1 == .nvs || region c.1 == .dram)
  ring : t.evt.ring = s.evt.ring
  seq : t.evt.nextSeq = s.evt.nextSeq
  sec : t.sec = s.sec
  load : t.load = none
  brews : t.brews = []
  ccp : t.ccp = s.storeKept
  pending : t.pending = s.pending

section
variable {s t w : State}

/-- Registers and power states are no part of what is kept. -/
theorem WarmKept.of_rest (h : WarmKept s w) (rest : t = { w with regs := t.regs, power := t.power }) : WarmKept s t := by
  rw [rest]
  exact ⟨h.mem, h.ring, h.seq, h.sec, h.load, h.brews, h.ccp, h.pending⟩

theorem WarmKept.put (h : WarmKept s w) (f : Fld) (v : Nat) : WarmKept s (w.put f v) := h.of_rest rfl

theorem WarmKept.startCore0 (h : WarmKept s w) : WarmKept s w.startCore0 :=
  WarmKept.put (h.of_rest (by rw [(powersOnly_bringUps bootDomains_lt w).1])) _ _

theorem WarmKept.recalsStopped (h : WarmKept s w) (l : List Nat) : WarmKept s (w.recalsStopped l) :=
  List.foldlRecOn l _ (motive := WarmKept s) h fun _ h _ _ => h.put _ _

/-- SYS_RESET shows the cause and the incremented count, and core 0 is about to start, over a state that keeps what a reset keeps. -/
theorem warmReset_over (s : State) (cause : Nat) : ∃ (w : State) (good : Nat), WarmKept s w ∧
    s.warmReset cause =
      (((w.put F.SYS_RESET.COUNT (min (s.get F.SYS_RESET.COUNT + 1) 255)).put F.SYS_RESET.CAUSE cause).put F.PWR_RAIL.GOOD good).startCore0 := by
  refine ⟨_, _, WarmKept.recalsStopped ?_ _, rfl⟩
  cases s.on F.DBG_STAT.FROZEN <;> exact ⟨rfl, rfl, rfl, rfl, rfl, rfl, rfl, rfl⟩

theorem warmReset_kept (s : State) (cause : Nat) : WarmKept s (s.warmReset cause) := by
  obtain ⟨w, good, kept, shown⟩ := warmReset_over s cause
  rw [shown]
  exact (((kept.put _ _).put _ _).put _ _).startCore0

theorem warmReset_cause (s : State) {cause : Nat} (h : cause < 8) : (s.warmReset cause).get F.SYS_RESET.CAUSE = cause := by
  obtain ⟨w, good, kept, shown⟩ := warmReset_over s cause
  rw [shown, get_startCore0 _ (by decide) (by decide) (by decide), get_put_apart _ (.inl (by decide)), get_put_same _ (Fld.ok_of rfl)]
  exact Nat.mod_eq_of_lt h

theorem warmReset_count (s : State) (cause : Nat) :
    (s.warmReset cause).get F.SYS_RESET.COUNT = min (s.get F.SYS_RESET.COUNT + 1) 255 := by
  obtain ⟨w, good, kept, shown⟩ := warmReset_over s cause
  rw [shown, get_startCore0 _ (by decide) (by decide) (by decide), get_put_apart _ (.inl (by decide)),
    get_put_apart _ (Fld.apart_of (Fld.ok_of rfl) (Fld.ok_of rfl) rfl), get_put_same _ (Fld.ok_of rfl)]
  exact Nat.mod_eq_of_lt (Nat.lt_of_le_of_lt (Nat.min_le_right _ _) (by decide))

theorem warmReset_starting (s : State) (cause : Nat) : (s.warmReset cause).get (F.CPU_CORE_CTL.STATE 0) = 1 := by
  obtain ⟨w, good, kept, shown⟩ := warmReset_over s cause
  rw [shown]
  exact startCore0_starting _

/-- A byte after a warm reset: as it was in DRAM and in the non-volatile store, elsewhere as never written. -/
theorem WarmKept.byte (h : WarmKept s t) (a : Nat) : t.byte a = if (region a == .nvs || region a == .dram) = true then s.byte a else memDefault := by
  unfold State.byte
  rw [h.mem]
  exact sget_filter memDefault s.mem _ (fun a => region a == .nvs || region a == .dram) (fun _ => rfl) a

theorem exec_warmReset {c : Fin 4} (powered : s.power.cosy = true) (awake : s.power.mode ≠ .hibernate) (free : s.freezing = true → c ≠ 1 ∧ c ≠ 2) :
    exec (.warmReset c) s = .next (s.warmReset (c.val + 1)) := by
  refine congrArg _ (if_neg fun barred => ?_)
  simp only [powered, Bool.not_true, Bool.false_or, Bool.or_eq_true, Bool.and_eq_true, beq_iff_eq] at barred
  obtain hibernates | ⟨freezes, cause⟩ := barred
  · exact awake hibernates
  · exact cause.elim (free freezes).1 (free freezes).2

end

/-- Settles O13: `warmReset_kept` for what stays, and the fields of SYS_RESET and core 0. -/
theorem warmResetKeeps : Obligations.WarmResetKeeps := by
  intro c s powered awake free
  have kept := warmReset_kept s (c.val + 1)
  refine ⟨s.warmReset (c.val + 1), exec_warmReset powered awake free, warmReset_cause s (by omega), warmReset_count s _, warmReset_starting s _,
    fun a stays => ?_, fun a lost => ?_, kept.ring, kept.seq, kept.sec, kept.load, kept.brews, kept.ccp, kept.pending⟩
  · rw [kept.byte a, if_pos]
    obtain stays | stays := stays <;> rw [stays] <;> rfl
  · rw [kept.byte a, lost]
    rfl

end Sys2Proof.Machine
end

section
/-! Power domains, rails, power-up and residency (chapter 20, R467 to R485). -/

namespace Sys2Proof.Machine

/-- A step whose outcome is always a next state, with that state in another form. -/
theorem next_to {t u : State} (h : t = u) : ∃ x, (Host.Outcome.next t : Host.Outcome State Fault Refusal) = .next x ∧ x = u := ⟨t, rfl, h⟩

section
variable {s : State}

/-! ### Domains and their PLLs (R473 to R476, R29) -/

section
variable {d : Fin 148}

theorem exec_domainOn_ready (awake : s.dark = false) (starting : s.dom d = 1) (clocked : s.clocked d = true) :
    ∃ t, exec (.domainOn d) s = .next t ∧ t = (s.domainOn d).serve 16 :=
  running_to awake (if_pos ⟨starting, clocked⟩)

theorem exec_domainOn_idle (awake : s.dark = false) (h : s.dom d ≠ 1 ∨ s.clocked d = false) :
    ∃ t, exec (.domainOn d) s = .next t ∧ t = s :=
  running_to awake (if_neg fun ⟨starting, clocked⟩ => h.elim (· starting) fun stopped => Bool.eq_false_iff.mp stopped clocked)

theorem exec_idleTimeout_retains (awake : s.dark = false) (on : s.dom d = 2) (policy : s.get (F.PWR_DOM.POLICY d) = 1)
    (released : s.on (F.PWR_DOM.HOLD d) = false) (disabled : s.enabledIn d = false) (idle : s.workIn d = false)
    (undemanded : s.power.demands.contains d.val = false) : ∃ t, exec (.domainIdleTimeout d) s = .next t ∧ t = s.retain d :=
  running_to awake (if_pos ⟨on, policy, by rw [released]; rfl, by rw [disabled]; rfl, by rw [idle]; rfl, by rw [undemanded]; decide⟩)

theorem exec_idleTimeout_kept (awake : s.dark = false)
    (h : s.dom d ≠ 2 ∨ s.get (F.PWR_DOM.POLICY d) ≠ 1 ∨ s.on (F.PWR_DOM.HOLD d) = true ∨ s.enabledIn d = true ∨ s.workIn d = true ∨
      s.power.demands.contains d.val = true) : ∃ t, exec (.domainIdleTimeout d) s = .next t ∧ t = s := by
  refine running_to awake (if_neg ?_)
  rintro ⟨on, policy, released, disabled, idle, undemanded⟩
  rw [Bool.not_eq_true'] at released disabled idle undemanded
  rw [released, disabled, idle, undemanded] at h
  simp [on, policy] at h

theorem wrPwrDom_hold {v : Word} {src : Nat} (held : (s.plainWrite src (R.PWR_DOM d) v).on (F.PWR_DOM.HOLD d) = true) :
    wrPwrDom d src v s = ((s.plainWrite src (R.PWR_DOM d) v).demand d).serve 16 :=
  if_pos held

end

section
variable {k : Fin 32}

theorem exec_pllLock_off (awake : s.dark = false) (cosyPll : k.val < 8) (off : s.bit F.PWR_PLL.ON k = false) :
    ∃ t, exec (.pllLock k) s = .next t ∧ t = s :=
  running_to awake ((if_pos cosyPll).trans (if_neg (Bool.eq_false_iff.mp off)))

theorem exec_pllLock_on (awake : s.dark = false) (cosyPll : k.val < 8) (on : s.bit F.PWR_PLL.ON k = true) :
    exec (.pllLock k) s = .next ((s.setBit F.PWR_PLL.LOCK k true).when
      (k.val == 7 && s.on F.AUD_PLL_CFG.EN) (·.put F.AUD_PLL_CFG.LOCKED 1)) :=
  (running_next awake _).trans (congrArg _ ((if_pos cosyPll).trans (if_pos on)))

theorem exec_pllLock_quad (awake : s.dark = false) (quad : 8 ≤ k.val) :
    ∃ t, exec (.pllLock k) s = .next t ∧ t = s.quadLock (k - 8) :=
  running_to awake (if_neg (Nat.not_lt.mpr quad))

end

/-! ### Power comes and goes (R471, R494) -/

section
variable {vin iin : Half} {hot : Bool} {vio : BitVec 4}

/-- The device as POWER_UP finds it at step 3: its supply readings, over a cold state where the cosy supply was off. -/
def State.supplied (s : State) (vin iin : Half) (vio : BitVec 4) : State :=
  let w := if s.power.cosy then s else s.cold s.power.afterShutdown
  (({ w with power := { w.power with vio := vio.toNat } } : State).put F.PWR_INPUT.VIN_MV vin.toNat).put F.PWR_INPUT.IIN iin.toNat

theorem exec_powerUp_barred (h : s.power.heldOff = true ∨ s.power.railsOn = true ∨ s.thermal.holding = true ∨ s.power.mode = .hibernate) :
    exec (.powerUp (vin, iin) hot vio) s = .next s := by
  refine congrArg _ (if_pos ?_)
  obtain h | h | h | h := h <;> simp [h]

theorem exec_powerUp_free (free : s.power.heldOff = false) (off : s.power.railsOn = false) (cool : s.thermal.holding = false)
    (awake : s.power.mode ≠ .hibernate) : exec (.powerUp (vin, iin) hot vio) s = .next ((s.supplied vin iin vio).step3 hot) := by
  refine congrArg _ (if_neg ?_)
  simp [free, off, cool, awake]

theorem step3_holds (shut : s.power.afterShutdown = true) (isHot : hot = true) :
    s.step3 hot = ({ s with thermal := { s.thermal with holding := true } } : State).put F.THM_STAT.THERM 1 :=
  if_pos (by rw [shut, isHot]; rfl)

theorem step3_passes (h : s.power.afterShutdown = false ∨ hot = false) : s.step3 hot = s.passStep3 :=
  if_neg (by obtain h | h := h <;> simp [h])

end

section
variable {cause : Fin 3} {recorded : Bool}

theorem exec_powerLoss_unrecorded (powered : s.power.cosy = true) (h : cause.val = 2 ∨ recorded = false) :
    ∃ t, exec (.powerLoss cause recorded) s = .next t ∧ t = s.powerDown false :=
  next_to ((if_pos powered).trans (congrArg (State.powerDown · false) (if_neg fun ⟨input, records⟩ =>
    h.elim (fun pin => by omega) fun lost => Bool.eq_false_iff.mp lost records)))

theorem exec_powerLoss_recorded (powered : s.power.cosy = true) (input : cause.val < 2) (records : recorded = true) :
    ∃ t, exec (.powerLoss cause recorded) s = .next t ∧
      t = (s.place ⟨0x1600, 0x6000, 6, s.now, BitVec.ofNat 64 (s.get F.PWR_INPUT.VIN_MV)⟩ false).powerDown false :=
  next_to ((if_pos powered).trans (congrArg (State.powerDown · false) (if_pos ⟨input, records⟩)))

theorem exec_powerLoss_off (off : s.power.cosy = false) :
    ∃ t, exec (.powerLoss cause recorded) s = .next t ∧ t = { s with power := { s.power with heldOff := false } } :=
  next_to (if_neg (Bool.eq_false_iff.mp off))

end

/-! ### Rails (R467 to R469) -/

section
variable {out : Fin 5}

/-- A fault of an output shows in PWR_RAIL and raises the interrupt. -/
def State.railFaulted (s : State) (out : Nat) : State := (s.setBit F.PWR_RAIL.FAULT out true).irq 8

theorem exec_railFault_down (down : s.bit F.PWR_RAIL.GOOD out = false) : exec (.railFault out) s = .next s :=
  congrArg _ (if_pos (by rw [down]; rfl))

theorem exec_railFault_memory (good : s.bit F.PWR_RAIL.GOOD out = true) (memory : out.val < 3) :
    ∃ t, exec (.railFault out) s = .next t ∧
      t = ((((s.railFaulted out).put F.PWR_RAIL.GOOD ((s.railFaulted out).get F.PWR_RAIL.GOOD / 8 * 8)).loseDram).pwrGood false).post 0x1600 6 6 (0x100 + out.val) 0 :=
  next_to ((if_neg (by rw [good]; decide)).trans (if_pos memory))

theorem exec_railFault_other (good : s.bit F.PWR_RAIL.GOOD out = true) (other : 3 ≤ out.val) :
    ∃ t, exec (.railFault out) s = .next t ∧ t = ((s.railFaulted out).setBit F.PWR_RAIL.GOOD out false).post 0x1600 5 6 (0x100 + out.val) 0 :=
  next_to ((if_neg (by rw [good]; decide)).trans (if_neg (Nat.not_lt.mpr other)))

end

/-- The outputs whose FAULT is clear restart. -/
def State.railsRestarted (s : State) : State :=
  (List.range 5).foldl (fun s k => if s.bit F.PWR_RAIL.FAULT k then s else s.setBit F.PWR_RAIL.GOOD k true) s

theorem wrPwrRail_retry {src : Nat} {v : Word} (retry : v.getLsbD 31 = true) :
    wrPwrRail src v s =
      let w := s.plainWrite src R.PWR_RAIL v
      if w.get F.PWR_RAIL.GOOD ≠ 31 ∧ w.railsRestarted.get F.PWR_RAIL.GOOD = 31 then w.railsRestarted.pwrGood true else w.railsRestarted := by
  unfold wrPwrRail State.when
  rw [if_pos retry]
  simp only [decide_eq_true_eq]
  rfl

theorem wrPwrClksel_ignored {src : Nat} {v : Word} (fast : v.getLsbD 0 = true) (unlocked : s.bit F.PWR_PLL.LOCK 2 = false) :
    wrPwrClksel src v s = s.postIgnored src 3 R.PWR_CLKSEL :=
  if_pos (by rw [fast, unlocked]; rfl)

theorem wrPwrClksel_written {src : Nat} {v : Word} (h : v.getLsbD 0 = false ∨ s.bit F.PWR_PLL.LOCK 2 = true) :
    wrPwrClksel src v s = s.plainWrite src R.PWR_CLKSEL v :=
  if_neg (by obtain h | h := h <;> rw [h] <;> simp)

theorem wrPwrCtl_clears {src : Nat} {v : Word} (clears : v.getLsbD 28 = true) :
    wrPwrCtl src v s = (s.plainWrite src R.PWR_CTL v).clearResidency := by
  unfold wrPwrCtl
  rw [clears]
  rfl

theorem setBit28 (v : Word) : (v ||| 0x10000000).getLsbD 28 = true := by
  rw [BitVec.getLsbD_or]; simp

section
variable {c : Fin 153} {u : State}

theorem exec_residencyLoRead_state (state : c.val < 5) (reads : Reads s (R.PWR_SRES_LO c) u) :
    exec (.residencyLoRead c) s = .next (State.answer (rdPwrSresLo c u)) :=
  (congrArg (fun r => s.running (State.answer r)) (if_pos state)).trans (reads.next _)

theorem exec_residencyLoRead_domain (domain : 5 ≤ c.val) (reads : Reads s (R.PWR_DRES_LO (c - 5)) u) :
    exec (.residencyLoRead c) s = .next (State.answer (rdPwrDresLo (c - 5) u)) :=
  (congrArg (fun r => s.running (State.answer r)) (if_neg (Nat.not_lt.mpr domain))).trans (reads.next _)

end

end

/-- Settles O56: the kettle and its domains (`exec_domainOn_ready`, `exec_idleTimeout_retains`), PLLs (`exec_pllLock_on`), power-up
(`exec_powerUp_free`, `step3_holds`, `step3_passes`), rails (`exec_railFault_memory`, `wrPwrRail_retry`) and the residency counters. -/
theorem powerDomains : Obligations.PowerDomains := by
  refine ⟨?domain, ?hold, ?pll, ?powerUp, ?powerLoss, ?rail, ?retry, ?clock, ?clear, ?residency, ?crystal⟩
  case domain =>
    intro d s awake
    exact ⟨running_to awake rfl, exec_domainOn_ready awake, exec_domainOn_idle awake, exec_idleTimeout_retains awake, exec_idleTimeout_kept awake⟩
  case hold =>
    intro d s u reaches w held
    exact reaches.to (wrPwrDom_hold held)
  case pll =>
    intro k s awake
    refine ⟨exec_pllLock_off awake, fun other on => ?_, fun audio on enabled => ?_, exec_pllLock_quad awake⟩
    · rw [exec_pllLock_on awake (by omega) on, beq_false_of_ne (by omega), Bool.false_and, when_false]
      exact ⟨_, rfl, rfl, bit_setBit_true s (Fld.ok_of rfl) (Nat.le_trans (Nat.le_of_lt_succ other) (by decide))⟩
    · rw [exec_pllLock_on awake (by omega) (by rw [audio]; exact on), enabled, audio]
      exact ⟨_, rfl, rfl, on_put_one _ (Fld.ok_of rfl)⟩
  case powerUp =>
    intro vin iin hot vio s
    refine ⟨exec_powerUp_barred, fun free off cool awake => ⟨fun shut isHot => ?_, fun passes => ?_⟩⟩
    · exact ⟨_, exec_powerUp_free free off cool awake, step3_holds shut isHot⟩
    · exact ⟨_, exec_powerUp_free free off cool awake, step3_passes passes⟩
  case powerLoss =>
    intro cause recorded s
    exact ⟨exec_powerLoss_unrecorded, exec_powerLoss_recorded, exec_powerLoss_off⟩
  case rail =>
    intro out s
    exact ⟨exec_railFault_down, exec_railFault_memory, exec_railFault_other⟩
  case retry =>
    intro v s u reaches
    exact reaches.to (wrPwrRail_retry (setBit31 v))
  case clock =>
    intro v src s u reaches
    exact ⟨fun fast unlocked => reaches.to (wrPwrClksel_ignored fast unlocked), fun h => reaches.to (wrPwrClksel_written h)⟩
  case clear =>
    intro v s u reaches
    exact reaches.to (wrPwrCtl_clears (setBit28 v))
  case residency =>
    intro c s u
    refine ⟨fun state reads => ?_, fun domain reads => ?_⟩
    · exact ⟨_, exec_residencyLoRead_state state reads, rfl⟩
    · exact ⟨_, exec_residencyLoRead_domain domain reads, rfl⟩
  case crystal =>
    intro s powered
    exact next_to (if_pos powered)

end Sys2Proof.Machine
end

section
/-! Power states and sensors (chapters 20 and 21, R478 to R494, Table 20.8). -/

namespace Sys2Proof.Machine

section
variable {s : State}

/-! ### Entering a state (R478 to R480) -/

/-- The running cores halt in WFI. -/
def State.coresHalted (s : State) : State :=
  (List.range 4).foldl (fun s c => if s.get (F.CPU_CORE_CTL.STATE c) = 2 then s.put (F.CPU_CORE_CTL.STATE c) 3 else s) s

theorem exec_idleEntry_enters (awake : s.dark = false) (runs : s.power.mode = .run) (rails : s.power.railsOn = true)
    (booted : (List.range 4).any (fun c => s.get (F.CPU_CORE_CTL.STATE c) == 1) = false) :
    exec .idleEntry s = .next { s.coresHalted with power := { s.coresHalted.power with mode := .idle } } :=
  (running_next awake _).trans (congrArg _ (if_neg (by rw [runs, rails, booted]; decide)))

theorem exec_idleEntry_kept (h : s.power.mode ≠ .run ∨ s.power.railsOn = false ∨
    (List.range 4).any (fun c => s.get (F.CPU_CORE_CTL.STATE c) == 1) = true) : exec .idleEntry s = .next s :=
  running_self (if_pos (h.imp_right (Or.imp_left fun off => by rw [off]; rfl)))

theorem exec_napEntry_enters (awake : s.dark = false) (idles : s.power.mode = .idle) (enabled : s.on F.PWR_CTL.NAP_EN = true)
    (vector : s.addr R.PWR_WAKE_VEC_LO R.PWR_WAKE_VEC_HI ≠ 0) (quiet : s.quiet = true) : ∃ t, exec .napEntry s = .next t ∧ t = s.nap :=
  running_to awake (if_pos ⟨idles, enabled, vector, quiet⟩)

theorem exec_napEntry_kept (h : s.power.mode ≠ .idle ∨ s.on F.PWR_CTL.NAP_EN = false ∨
    s.addr R.PWR_WAKE_VEC_LO R.PWR_WAKE_VEC_HI = 0 ∨ s.quiet = false) : exec .napEntry s = .next s := by
  refine running_self (if_neg ?_)
  rintro ⟨idles, enabled, vector, quiet⟩
  rw [enabled, quiet] at h
  simp [idles, vector] at h

theorem exec_dozeEntry_enters (awake : s.dark = false) (naps : s.power.mode = .nap) (enabled : s.on F.PWR_CTL.DOZE_EN = true)
    (free : s.freezing = false) : ∃ t, exec .dozeEntry s = .next t ∧ t = s.doze :=
  running_to awake (if_pos ⟨naps, enabled, by rw [free]; rfl⟩)

theorem exec_dozeEntry_kept (h : s.power.mode ≠ .nap ∨ s.on F.PWR_CTL.DOZE_EN = false ∨ s.freezing = true) :
    exec .dozeEntry s = .next s := by
  refine running_self (if_neg ?_)
  rintro ⟨naps, enabled, free⟩
  rw [enabled, (Bool.not_eq_true' _).mp free] at h
  simp [naps] at h

theorem exec_hibernateEntry_enters (awake : s.dark = false) (dozes : s.power.mode = .doze) (enabled : s.on F.PWR_CTL.HIB_EN = true)
    (free : s.freezing = false) : ∃ t, exec .hibernateEntry s = .next t ∧ t = s.hibernate :=
  running_to awake (if_pos ⟨dozes, enabled, by rw [free]; rfl⟩)

theorem exec_hibernateEntry_kept (h : s.power.mode ≠ .doze ∨ s.on F.PWR_CTL.HIB_EN = false ∨ s.freezing = true) :
    exec .hibernateEntry s = .next s := by
  refine running_self (if_neg ?_)
  rintro ⟨dozes, enabled, free⟩
  rw [enabled, (Bool.not_eq_true' _).mp free] at h
  simp [dozes] at h

/-! ### Waking (R482, R484, Table 20.8) -/

section
variable {k : Fin 9}

/-- What an event that wakes starts in a state. -/
def State.wakeStart (s : State) : State :=
  match s.power.mode with
  | .run => s
  | .idle =>
    let s := { s with power := { s.power with mode := .run } }
    (s.when (decide (s.get (F.CPU_CORE_CTL.STATE 0) = 3)) (·.put (F.CPU_CORE_CTL.STATE 0) 2)).put F.PWR_CTL.LAST 1
  | .nap => s.wakeUp 2
  | .doze => s.wakeUp 3
  | .hibernate => { s with power := { s.power with waking := true } }

theorem wakeEvent_latches (powered : s.power.cosy = true)
    (h : (s.latchWake k).freezing = true ∨ (s.latchWake k).bit F.PWR_WAKE_EN.EN k = false ∨ wakesFrom (s.latchWake k).power.mode k = false) :
    s.wakeEvent k = s.latchWake k := by
  refine (if_neg (by rw [powered]; decide)).trans (if_pos ?_)
  obtain h | h | h := h <;> simp [h]

theorem wakeEvent_starts (powered : s.power.cosy = true) (free : (s.latchWake k).freezing = false)
    (enabled : (s.latchWake k).bit F.PWR_WAKE_EN.EN k = true) (wakes : wakesFrom (s.latchWake k).power.mode k = true) :
    s.wakeEvent k = (s.latchWake k).wakeStart := by
  refine (if_neg (by rw [powered]; decide)).trans (if_neg ?_)
  rw [free, enabled, wakes]
  decide

theorem wakeStart_idle (h : s.power.mode = .idle) :
    s.wakeStart =
      let v : State := { s with power := { s.power with mode := .run } }
      (if v.get (F.CPU_CORE_CTL.STATE 0) = 3 then v.put (F.CPU_CORE_CTL.STATE 0) 2 else v).put F.PWR_CTL.LAST 1 := by
  unfold State.wakeStart
  rw [h]
  simp only [State.when, decide_eq_true_eq]

theorem wakeStart_nap (h : s.power.mode = .nap) : s.wakeStart = s.wakeUp 2 := by unfold State.wakeStart; rw [h]

theorem wakeStart_doze (h : s.power.mode = .doze) : s.wakeStart = s.wakeUp 3 := by unfold State.wakeStart; rw [h]

theorem wakeStart_hibernate (h : s.power.mode = .hibernate) : s.wakeStart = { s with power := { s.power with waking := true } } := by
  unfold State.wakeStart; rw [h]

end

theorem exec_wakeComplete_kept (h : s.power.waking = false ∨ s.power.mode ≠ .run) : exec .wakeComplete s = .next s :=
  running_self (if_neg fun ⟨waking, runs⟩ => h.elim (fun idle => Bool.eq_false_iff.mp idle waking) (· runs))

/-! ### Sensors (R487 to R493) -/

section
variable {n temp : Nat}

/-- Sensor n has a conversion. -/
def State.sensorValid (s : State) (n : Nat) : State := s.put (F.THM_SENS.VALID n) 1

/-- Sensor n reads `temp`, without a fault. -/
def State.sensorReads (s : State) (n temp : Nat) : State := ((s.sensorValid n).put (F.THM_SENS.FAULT n) 0).put (F.THM_SENS.TEMP n) temp

/-- A die sensor reads 125 °C or more. -/
def dieSensorHot (n temp : Nat) : Bool := decide (n < 24 ∧ 1000 ≤ sint temp 16)

theorem converted_outside (h : sint temp 16 < -440 ∨ 1200 < sint temp 16) :
    s.converted n temp = (((s.sensorValid n).sensorFault n).moduleLimit s.moduleTemp n).evaluate :=
  if_pos h

theorem converted_within (low : -440 ≤ sint temp 16) (high : sint temp 16 ≤ 1200) :
    s.converted n temp =
      let w := s.sensorReads n temp
      if dieSensorHot n temp && sget false w.thermal.hot125 n then w.shutdown n temp
      else (({ w with thermal := { w.thermal with hot125 := sset false w.thermal.hot125 n (dieSensorHot n temp) } } : State).moduleLimit
        s.moduleTemp n).evaluate :=
  if_neg (by omega)

theorem converted_shuts (low : -440 ≤ sint temp 16) (high : sint temp 16 ≤ 1200) (die : n < 24) (hot : 1000 ≤ sint temp 16)
    (twice : sget false (s.sensorReads n temp).thermal.hot125 n = true) : s.converted n temp = (s.sensorReads n temp).shutdown n temp :=
  (converted_within low high).trans (if_pos (by rw [twice, dieSensorHot, decide_eq_true ⟨die, hot⟩]; rfl))

theorem converted_moves (low : -440 ≤ sint temp 16) (high : sint temp 16 ≤ 1200)
    (h : 24 ≤ n ∨ sint temp 16 < 1000 ∨ sget false (s.sensorReads n temp).thermal.hot125 n = false) :
    s.converted n temp =
      let w := s.sensorReads n temp
      (({ w with thermal := { w.thermal with hot125 := sset false w.thermal.hot125 n (dieSensorHot n temp) } } : State).moduleLimit
        s.moduleTemp n).evaluate := by
  refine (converted_within low high).trans (if_neg ?_)
  rw [Bool.and_eq_true, dieSensorHot, decide_eq_true_eq]
  rintro ⟨⟨die, hot⟩, twice⟩
  rw [twice] at h
  simp [Nat.not_le.mpr die, Int.not_lt.mpr hot] at h

end

theorem exec_thermalHold_releases (holds : s.thermal.holding = true) (cool : s.dieHot = false) :
    ∃ t, exec .powerupThermalHold s = .next t ∧ t = s.passStep3.putB F.THM_STAT.THERM (decide (s.get F.THM_STAT.BAND = 4)) :=
  next_to (if_pos ⟨holds, by rw [cool]; rfl⟩)

theorem exec_thermalHold_kept (h : s.thermal.holding = false ∨ s.dieHot = true) : exec .powerupThermalHold s = .next s := by
  refine congrArg _ (if_neg ?_)
  rintro ⟨holds, cool⟩
  rw [holds, (Bool.not_eq_true' _).mp cool] at h
  simp at h

end

/-- Settles O57: the entry of each state and what keeps a state as it is, the wake order (`wakeEvent_starts` with `wakeStart_…`), and a
conversion outside the range, at the shutdown temperature and otherwise (`converted_outside`, `converted_shuts`, `converted_moves`). -/
theorem powerStates : Obligations.PowerStates := by
  refine ⟨?idle, fun s => exec_idleEntry_kept, fun s => exec_napEntry_enters, fun s => exec_napEntry_kept, fun s => exec_dozeEntry_enters,
    fun s => exec_dozeEntry_kept, fun s => exec_hibernateEntry_enters, fun s => exec_hibernateEntry_kept, ?wake, ?complete,
    fun s => exec_wakeComplete_kept, ?exit, ?conversion, ?timeout, fun s => exec_thermalHold_releases, fun s => exec_thermalHold_kept⟩
  case idle =>
    intro s awake runs rails booted
    exact ⟨_, exec_idleEntry_enters awake runs rails booted, rfl, rfl⟩
  case wake =>
    intro k s powered
    refine ⟨fun h => next_to (wakeEvent_latches powered h), fun free enabled wakes => ?_⟩
    have starts := wakeEvent_starts powered free enabled wakes
    exact ⟨fun mode => next_to (starts.trans (wakeStart_idle mode)), fun mode => next_to (starts.trans (wakeStart_nap mode)),
      fun mode => next_to (starts.trans (wakeStart_doze mode)), fun mode => next_to (starts.trans (wakeStart_hibernate mode))⟩
  case complete =>
    intro s awake waking runs
    exact running_to awake (if_pos ⟨waking, runs⟩)
  case exit =>
    intro hot s hibernates waking
    exact next_to (if_pos ⟨hibernates, waking⟩)
  case conversion =>
    intro n temp s powered
    have effect {t : State} (h : s.converted n temp.toNat = t) : ∃ u, exec (.sensorConversion n temp) s = .next u ∧ u = t :=
      next_to ((if_pos powered).trans h)
    exact ⟨fun outside => effect (converted_outside outside), fun low high die hot twice => effect (converted_shuts low high die hot twice),
      fun low high h => effect (converted_moves low high h)⟩
  case timeout =>
    intro n s powered
    exact next_to (if_pos powered)

end Sys2Proof.Machine
end

section
/-! Audio ports, groups and streams (chapter 19, R448 to R464). -/

namespace Sys2Proof.Machine

section
variable {s : State} {src : Nat} {v : Word}

/-! ### The PLL (R448) -/

/-- AUD_PLL_CFG written, and AUD_MCLK_OUT driven by it. -/
def State.audPllWritten (s : State) (src off : Nat) (v : Word) : State :=
  let w := s.plainWrite src off v
  w.emit "audMclk" 0 [if w.on F.AUD_PLL_CFG.MCLK_EN then max 4 (w.get F.AUD_PLL_CFG.MCLK_DIV) else 0]

/-- The output AUD_MCLK_OUT is no register. -/
theorem audPllWritten_on (off : Nat) (f : Fld) : (s.audPllWritten src off v).on f = (s.plainWrite src off v).on f := rfl

theorem wrAudPll_ignored {off : Nat} (busy : s.anyPort = true) : wrAudPll src off v s = s.postIgnored src 3 off := if_pos busy

theorem wrAudPll_starts {off : Nat} (free : s.anyPort = false) (stopped : s.on F.AUD_PLL_CFG.EN = false)
    (enabled : (s.plainWrite src off v).on F.AUD_PLL_CFG.EN = true) :
    wrAudPll src off v s = ((s.audPllWritten src off v).demand 144).startPll 7 :=
  (if_neg (Bool.eq_false_iff.mp free)).trans (if_pos (by rw [stopped, ← State.audPllWritten, audPllWritten_on, enabled]; rfl))

theorem wrAudPll_runs {off : Nat} (free : s.anyPort = false) (on : s.on F.AUD_PLL_CFG.EN = true)
    (enabled : (s.plainWrite src off v).on F.AUD_PLL_CFG.EN = true) :
    wrAudPll src off v s = s.audPllWritten src off v := by
  refine (if_neg (Bool.eq_false_iff.mp free)).trans ((if_neg ?_).trans (if_neg ?_))
  · rw [on, Bool.not_true, Bool.and_false]; decide
  · rw [← State.audPllWritten, audPllWritten_on, enabled, Bool.not_true, Bool.and_false]; decide

/-! ### Ports (R453, R455, R464) -/

section
variable {n : Nat}

/-- A port that is enabled, before it runs: its ring indices and its frame index are 0. -/
def State.portCleared (s : State) (n : Nat) : State :=
  (s.andThen [(·.put (F.AUD_P_TXR_IDX.RIDX n) 0), (·.put (F.AUD_P_TXR_IDX.WIDX n) 0), (·.put (F.AUD_P_RXR_IDX.RIDX n) 0),
    (·.put (F.AUD_P_RXR_IDX.WIDX n) 0), (·.put (F.AUD_P_FRAME_LO.INDEX n) 0), (·.put (F.AUD_P_FRAME_HI.INDEX n) 0)]).setAud n audInit

theorem wrAudCfg_ignored (running : s.on (F.AUD_P_CFG.EN n) = true) (enables : v.getLsbD 31 = true) :
    wrAudCfg n src v s = s.postIgnored src 3 (R.AUD_P_CFG n) :=
  (if_pos running).trans (if_pos enables)

theorem wrAudCfg_stops (running : s.on (F.AUD_P_CFG.EN n) = true) (disables : v.getLsbD 31 = false) :
    wrAudCfg n src v s = (s.portStop n).put (F.AUD_P_CFG.EN n) 0 :=
  (if_pos running).trans (if_neg (Bool.eq_false_iff.mp disables))

theorem wrAudCfg_written (stopped : s.on (F.AUD_P_CFG.EN n) = false)
    (disabled : (s.plainWrite src (R.AUD_P_CFG n) v).on (F.AUD_P_CFG.EN n) = false) :
    wrAudCfg n src v s = s.plainWrite src (R.AUD_P_CFG n) v :=
  (if_neg (Bool.eq_false_iff.mp stopped)).trans (if_pos (by rw [disabled]; rfl))

theorem wrAudCfg_enables (stopped : s.on (F.AUD_P_CFG.EN n) = false)
    (enabled : (s.plainWrite src (R.AUD_P_CFG n) v).on (F.AUD_P_CFG.EN n) = true) :
    wrAudCfg n src v s =
      let y := (s.plainWrite src (R.AUD_P_CFG n) v).portCleared n
      match y.groupOf n with
      | none => y.portRun n
      | some _ => y :=
  (if_neg (Bool.eq_false_iff.mp stopped)).trans (if_neg (by rw [enabled]; decide))

theorem wrAudCfg_runs (stopped : s.on (F.AUD_P_CFG.EN n) = false)
    (enabled : (s.plainWrite src (R.AUD_P_CFG n) v).on (F.AUD_P_CFG.EN n) = true)
    (alone : ((s.plainWrite src (R.AUD_P_CFG n) v).portCleared n).groupOf n = none) :
    wrAudCfg n src v s = ((s.plainWrite src (R.AUD_P_CFG n) v).portCleared n).portRun n := by
  rw [wrAudCfg_enables stopped enabled]
  simp only [alone]

theorem wrAudCfg_waits {g : Nat} (stopped : s.on (F.AUD_P_CFG.EN n) = false)
    (enabled : (s.plainWrite src (R.AUD_P_CFG n) v).on (F.AUD_P_CFG.EN n) = true)
    (grouped : ((s.plainWrite src (R.AUD_P_CFG n) v).portCleared n).groupOf n = some g) :
    wrAudCfg n src v s = (s.plainWrite src (R.AUD_P_CFG n) v).portCleared n := by
  rw [wrAudCfg_enables stopped enabled]
  simp only [grouped]

end

/-! ### Groups (R454) -/

section
variable {g : Nat}

/-- The ports of a group as a write names them. -/
def State.groupNamed (s : State) (g : Nat) (v : Word) : State := s.put (F.AUD_GRP_CFG.PORTS g) (getBits v 7 0)

/-- A group that starts waits for its trigger, or its ports run. -/
def State.groupBegins (s : State) (g : Nat) : State :=
  if (s.get (routeAud g)).testBit 4 then s.put (F.AUD_GRP_CFG.STATE g) 1 else s.groupRun g

/-- A START that is rejected sets ERR and posts. -/
def State.groupRejected (s : State) (g : Nat) : State :=
  (s.put (F.AUD_GRP_CFG.ERR g) 1).post 0x1500 3 1 (R.AUD_GRP_CFG g % 4096) (R.AUD_GRP_CFG g)

theorem wrAudGrp_stops (stop : v.getLsbD 30 = true) :
    wrAudGrp g v s = ((s.groupPorts g).foldl State.portStop (s.put (F.AUD_GRP_CFG.STATE g) 0)).groupNamed g v :=
  if_pos stop

theorem wrAudGrp_start (start : v.getLsbD 31 = true) (goes : v.getLsbD 30 = false) :
    wrAudGrp g v s =
      let w := s.groupNamed g v
      if w.get (F.AUD_GRP_CFG.STATE g) ≠ 0 then w
      else if w.groupBad g then w.groupRejected g
      else (w.put (F.AUD_GRP_CFG.ERR g) 0).groupBegins g := by
  unfold wrAudGrp
  rw [if_neg (Bool.eq_false_iff.mp goes)]
  simp only [start, Bool.not_true, Bool.false_or, bne_iff_ne]
  rfl

theorem wrAudGrp_busy (start : v.getLsbD 31 = true) (goes : v.getLsbD 30 = false)
    (busy : (s.groupNamed g v).get (F.AUD_GRP_CFG.STATE g) ≠ 0) : wrAudGrp g v s = s.groupNamed g v :=
  (wrAudGrp_start start goes).trans (if_pos busy)

theorem wrAudGrp_rejected (start : v.getLsbD 31 = true) (goes : v.getLsbD 30 = false)
    (stopped : (s.groupNamed g v).get (F.AUD_GRP_CFG.STATE g) = 0) (bad : (s.groupNamed g v).groupBad g = true) :
    wrAudGrp g v s = (s.groupNamed g v).groupRejected g :=
  (wrAudGrp_start start goes).trans ((if_neg (not_not_intro stopped)).trans (if_pos bad))

theorem wrAudGrp_begins (start : v.getLsbD 31 = true) (goes : v.getLsbD 30 = false)
    (stopped : (s.groupNamed g v).get (F.AUD_GRP_CFG.STATE g) = 0) (good : (s.groupNamed g v).groupBad g = false) :
    wrAudGrp g v s = ((s.groupNamed g v).put (F.AUD_GRP_CFG.ERR g) 0).groupBegins g :=
  (wrAudGrp_start start goes).trans ((if_neg (not_not_intro stopped)).trans (if_neg (Bool.eq_false_iff.mp good)))

end

/-! ### Frames (R456, R459) -/

section
variable {n : Nat} {slots : List Nat} {sachet : Bool}

theorem tdmFrame_stopped (stopped : (s.audP n).running = false) : s.tdmFrame n slots sachet = s :=
  if_pos (by rw [stopped]; rfl)

/-- The frame index moves on, and the slots received are kept. -/
def State.frameBegun (s : State) (n : Nat) (slots : List Nat) : State :=
  let x := s.audP n
  (s.setAud n { x with next := (x.next + 1) % 2 ^ 64, slots := slots }).put (F.AUD_P_FRAME_LO.INDEX n) x.next

/-- A frame goes out, on the pins too, and where the port receives its slots are placed. -/
def State.frameEnds (n f : Nat) (slots : List Nat) (sachet : Bool) (sent : List Nat × State) : State :=
  let y := (sent.2.emit "audTx" n sent.1).emit "audPins" n (sent.2.tdmPins n f sent.1)
  if y.on (F.AUD_P_CFG.RX_EN n) then y.placeFrame n f slots sachet else y

theorem tdmFrame_running {l : List Nat} {w : State} (running : (s.audP n).running = true)
    (sends : (s.frameBegun n slots).sendFrame n (s.audP n).next = (l, w)) :
    s.tdmFrame n slots sachet = State.frameEnds n (s.audP n).next slots sachet (l, w) :=
  (if_neg (by rw [running]; decide)).trans (congrArg (State.frameEnds n (s.audP n).next slots sachet) sends)

end

/-! ### Streams (R462, R463) -/

section
variable {k : Nat}

/-- The set that a source gives, VALID telling whether it gave one, is embedded. -/
def State.setEmbedded (s : State) (k : Nat) (v : Option (List Nat)) : State :=
  (s.putB (F.AUD_STR_CFG.VALID k) v.isSome).embedSet k (v.getD [0, 0, 0, 0])

/-- A stream with the last set that it took. -/
def State.strLast (s : State) (k : Nat) (set : List Nat) : AudStream := { s.strS k with last := set }

/-- The sets that fill a record. -/
def State.recordSets (s : State) (k : Nat) : Nat := 2 ^ (min (s.get (F.AUD_STR_CFG.BLK k)) 5 + 8)

/-- A set joins the record in progress of a stream, and ends it where it is full. -/
def State.setRecorded (s : State) (k : Nat) (x : AudStream) (set : List Nat) (absent : Bool) : State :=
  let start := if x.sets.isEmpty then s.now.toNat else x.start
  let zero := (!x.sets.isEmpty && x.zeroed) || absent
  let sets := x.sets ++ [set]
  if s.recordSets k ≤ sets.length then
    s.setStr k { x with sets := [], zeroed := false, done := x.done ++ [audioRecord start sets zero] }
  else s.setStr k { x with sets := sets, start := start, zeroed := zero }

/-- What a stream does with a set. -/
def State.setTaken (s : State) (k : Nat) (x : AudStream) (set : List Nat) (absent : Bool) : State :=
  if !x.recorded then s.setStr k x else s.setRecorded k x set absent

/-- What a stream does with what its source gives. -/
def State.setGiven (k : Nat) (given : Option (List Nat) × State) : State :=
  let y := given.2.setEmbedded k given.1
  y.setTaken k (y.strLast k (given.1.getD [0, 0, 0, 0])) (given.1.getD [0, 0, 0, 0]) given.1.isNone

theorem streamSet_disabled (disabled : s.on (F.AUD_STR_CFG.EN k) = false) : s.streamSet k = s.put (F.AUD_STR_CFG.VALID k) 0 :=
  if_pos (by rw [disabled]; rfl)

theorem streamSet_enabled (enabled : s.on (F.AUD_STR_CFG.EN k) = true) : s.streamSet k = State.setGiven k (s.streamSource k) :=
  if_neg (by rw [enabled]; decide)

section
variable {x : AudStream} {set : List Nat} {absent : Bool}

theorem setTaken_unrecorded (unrecorded : x.recorded = false) : s.setTaken k x set absent = s.setStr k x :=
  if_pos (by rw [unrecorded]; rfl)

theorem setTaken_open (recorded : x.recorded = true) (fits : (x.sets ++ [set]).length < s.recordSets k) :
    s.setTaken k x set absent =
      s.setStr k { x with sets := x.sets ++ [set], start := if x.sets.isEmpty then s.now.toNat else x.start, zeroed := (!x.sets.isEmpty && x.zeroed) || absent } :=
  (if_neg (by rw [recorded]; decide)).trans (if_neg (Nat.not_le.mpr fits))

theorem setTaken_full (recorded : x.recorded = true) (full : s.recordSets k ≤ (x.sets ++ [set]).length) :
    s.setTaken k x set absent =
      s.setStr k { x with sets := [], zeroed := false, done := x.done ++ [audioRecord (if x.sets.isEmpty then s.now.toNat else x.start) (x.sets ++ [set])
        ((!x.sets.isEmpty && x.zeroed) || absent)] } :=
  (if_neg (by rw [recorded]; decide)).trans (if_pos full)

end

end

end

/-- Settles O55: the PLL (`wrAudPll_starts`), ports (`wrAudCfg_runs`, `wrAudCfg_waits`, `wrAudCfg_stops`), groups (`wrAudGrp_start`), frames
(`tdmFrame_running`) and streams (`streamSet_enabled`). -/
theorem audio : Obligations.Audio := by
  refine ⟨?pll, ?port, ?group, ?mask, ?submit, ?frame, ?stopped, ?index, ?stream⟩
  case pll =>
    intro v src s u reaches
    exact ⟨fun busy => reaches.to (wrAudPll_ignored busy), fun free enabled =>
      ⟨fun off => reaches.to (wrAudPll_starts free off enabled), fun on => reaches.to (wrAudPll_runs free on enabled)⟩⟩
  case port =>
    intro n v src s u reaches
    refine ⟨fun running => reaches.to (wrAudCfg_ignored running (setBit31 v)), fun running => ?_, fun stopped enabled =>
      ⟨fun alone => reaches.to (wrAudCfg_runs stopped enabled alone), fun g grouped => reaches.to (wrAudCfg_waits stopped enabled grouped)⟩,
      fun stopped disabled => reaches.to (wrAudCfg_written stopped disabled)⟩
    exact ⟨_, (reaches.next _).trans (congrArg _ (wrAudCfg_stops running (clearBit31 v))), rfl, on_put_zero _ (Fld.ok_of rfl)⟩
  case group =>
    intro g v s u reaches
    obtain ⟨start, goes⟩ := setBit31_clearBit30 v
    refine ⟨⟨fun busy => reaches.to (wrAudGrp_busy start goes busy), fun stopped bad => reaches.to (wrAudGrp_rejected start goes stopped bad),
      fun stopped good => ⟨fun waits => ?_, fun runs => ?_⟩⟩, reaches.to (wrAudGrp_stops (setBit30 v))⟩
    · exact reaches.to ((wrAudGrp_begins start goes stopped good).trans (if_pos waits))
    · exact reaches.to ((wrAudGrp_begins start goes stopped good).trans (if_neg (Bool.eq_false_iff.mp runs)))
  case mask =>
    intro n tx v src s u reaches
    exact reaches.to rfl
  case submit =>
    intro n widx src s u reaches
    exact reaches.to rfl
  case frame =>
    intro n slots sachet s awake running x u l w sends
    have effect := tdmFrame_running (sachet := sachet) running sends
    exact ⟨fun receives => running_to awake (effect.trans (if_pos receives)),
      fun silent => running_to awake (effect.trans (if_neg (Bool.eq_false_iff.mp silent)))⟩
  case stopped =>
    intro n slots sachet s stopped
    exact running_self (tdmFrame_stopped stopped)
  case index =>
    intro n s u reads
    exact ⟨_, reads.next _, rfl, rfl⟩
  case stream =>
    intro k s awake
    refine ⟨fun disabled => ?_, fun v w enabled source => ?_⟩
    · exact ⟨_, (running_next awake _).trans (congrArg _ (streamSet_disabled disabled)), rfl, on_put_zero _ (Fld.ok_of rfl)⟩
    have effect := (streamSet_enabled enabled).trans (congrArg (State.setGiven k) source)
    exact ⟨fun unrecorded => running_to awake (effect.trans (setTaken_unrecorded unrecorded)),
      fun recorded fits => running_to awake (effect.trans (setTaken_open recorded fits)),
      fun recorded full => running_to awake (effect.trans (setTaken_full recorded full))⟩

end Sys2Proof.Machine
end

section
/-! Ethernet ports (chapter 16, R380 to R385, R392, R481). -/

namespace Sys2Proof.Machine

section
variable {s : State}

/-! ### Ports and links (R380 to R383) -/

section
variable {p src : Nat} {v : Word}

theorem wrEthCfg_starts (stopped : s.on (F.ETH_CFG.EN p) = false)
    (enabled : (s.plainWrite src (R.ETH_CFG p) v).on (F.ETH_CFG.EN p) = true) :
    wrEthCfg p src v s = (s.plainWrite src (R.ETH_CFG p) v).ethStart p :=
  (if_neg (Bool.eq_false_iff.mp stopped)).trans (if_pos enabled)

theorem wrEthCfg_ignored (runs : s.on (F.ETH_CFG.EN p) = true) (enables : v.getLsbD 31 = true) :
    wrEthCfg p src v s = s.postIgnored src 3 (R.ETH_CFG p) :=
  (if_pos runs).trans (if_pos enables)

theorem wrEthCfg_disables (runs : s.on (F.ETH_CFG.EN p) = true) (disables : v.getLsbD 31 = false)
    (same : (v ^^^ s.reg (R.ETH_CFG p)) &&& 0x7FFFFFFF = 0) : wrEthCfg p src v s = s.ethFlush.ethDisable p :=
  (if_pos runs).trans ((if_neg (Bool.eq_false_iff.mp disables)).trans (congrArg (fun u : State => u.ethFlush.ethDisable p) (if_pos same)))

end

section
variable {p : Fin 2} {k : Fin 4} {agreed : Bool}

/-- The lanes of a sub-port of an enabled port are all up. -/
def State.lanesReady (s : State) (p k : Nat) : Prop :=
  s.on (F.ETH_CFG.EN p) = true ∧ s.subLanes p k ≠ [] ∧ (s.subLanes p k).all (fun n => s.on (F.LNK_STAT.UP n)) = true

theorem lanesReady_iff (s : State) (p k : Nat) :
    s.lanesReady p k ↔ ¬ (!s.on (F.ETH_CFG.EN p) || (s.subLanes p k).isEmpty || !(s.subLanes p k).all (fun n => s.on (F.LNK_STAT.UP n))) = true := by
  unfold State.lanesReady
  simp [and_assoc]

theorem exec_ethLinkUp_unready (h : ¬ s.lanesReady p k) : exec (.ethLinkUp p k agreed) s = .next s :=
  running_self (if_pos (Decidable.not_not.mp fun free => h ((lanesReady_iff s p k).mpr free)))

theorem exec_ethLinkUp_ready (awake : s.dark = false) (ready : s.lanesReady p k) :
    exec (.ethLinkUp p k agreed) s =
      .next (if s.on (F.ETH_CFG.AN p) && !agreed then s.put (F.ETH_STAT.AN_FAIL p) 1 else s.setBit (F.ETH_STAT.LINK p) k true) :=
  (running_next awake _).trans (congrArg _ (if_neg ((lanesReady_iff s p k).mp ready)))

end

/-! ### Frames (R384, R385, R392, R481) -/

section
variable {p k : Nat} {fcs : Bool} {f : List Byte}

/-- A frame for the sub-port itself latches its wake event. -/
def State.frameWakes (s : State) (p k : Nat) (f : List Byte) : State := if dstMac f = s.subMac (4 * p + k) then s.latchWake (3 + p) else s

/-- A frame's FCS, that of a frame on a lane that is not up counting as bad. -/
def State.frameGood (s : State) (p k : Nat) (fcs : Bool) : Bool := fcs && (s.subLanes p k).all (fun n => s.on (F.LNK_STAT.UP n))

/-- What the frames that wait for the wake hold of a port's buffer. -/
def State.asleepBytes (s : State) (p : Nat) : Nat := (s.eth.asleep.filter (fun e => e.1 == p)).foldl (fun n e => n + e.2.2.2.length) 0

theorem ethDeliver_badFcs : s.ethDeliver p k false f = (s.frameWakes p k f).bump (F.ETH_CNT0.RX_FCS p) := rfl

theorem ethDeliver_short (short : f.length < 60) : s.ethDeliver p k true f = (s.frameWakes p k f).bump (F.ETH_CNT0.RX_DISCARD p) :=
  if_pos (.inl (by omega))

theorem ethReceive_down (h : s.on (F.ETH_CFG.EN p) = false ∨ s.ethUp p k = false) : s.ethReceive p k fcs f = s :=
  if_pos (by obtain h | h := h <;> simp [h])

theorem ethReceive_awake (runs : s.on (F.ETH_CFG.EN p) = true) (up : s.ethUp p k = true) (alert : s.drowsy = false) :
    s.ethReceive p k fcs f = s.ethDeliver p k (s.frameGood p k fcs) f :=
  (if_neg (by rw [runs, up]; decide)).trans (if_neg (Bool.eq_false_iff.mp alert))

theorem ethReceive_asleep (runs : s.on (F.ETH_CFG.EN p) = true) (up : s.ethUp p k = true) (drowsy : s.drowsy = true)
    (fits : s.asleepBytes p + f.length ≤ 16384) :
    s.ethReceive p k fcs f =
      let w := s.frameWakes p k f
      { w with eth := { w.eth with asleep := w.eth.asleep ++ [(p, k, s.frameGood p k fcs, f)] } } :=
  (if_neg (by rw [runs, up]; decide)).trans ((if_pos drowsy).trans (if_pos fits))

end

end

/-- Settles O45: writes of ETH_CFG (`wrEthCfg_starts`, `wrEthCfg_disables`), links (`exec_ethLinkUp_ready`), and frames delivered or kept
(`ethReceive_awake`, `ethReceive_asleep`). -/
theorem ethernetPorts : Obligations.EthernetPorts := by
  refine ⟨?config, ?linkUp, ?unready, fun p k s awake => running_to awake rfl, ?frame, ?arp⟩
  case config =>
    intro p v src s u reaches
    exact ⟨fun stopped enabled => reaches.to (wrEthCfg_starts stopped enabled), fun runs => reaches.to (wrEthCfg_ignored runs (setBit31 v)),
      fun runs same => reaches.to (wrEthCfg_disables runs (clearBit31 v) same)⟩
  case linkUp =>
    intro p k agreed s awake runs lanes up
    have effect := exec_ethLinkUp_ready (agreed := agreed) awake ⟨runs, lanes, up⟩
    refine ⟨fun agrees => ?_, fun negotiates differs => ?_⟩
    · rw [effect, if_neg (by obtain h | h := agrees <;> simp [h])]
      exact ⟨_, rfl, rfl, bit_setBit_true s (Fld.ok_of rfl) (Nat.le_of_lt_succ k.isLt)⟩
    · rw [effect, if_pos (by rw [negotiates, differs]; rfl)]
      exact ⟨_, rfl, rfl⟩
  case unready =>
    intro p k agreed s h
    refine exec_ethLinkUp_unready fun ⟨runs, lanes, up⟩ => ?_
    rw [runs, up] at h
    simp [lanes] at h
  case frame =>
    intro p k fcs f s awake
    refine ⟨fun runs up alert bad => running_to awake ((ethReceive_awake runs up alert).trans ?_),
      fun runs up alert good short => running_to awake ((ethReceive_awake runs up alert).trans ?_),
      fun runs up alert good => running_to awake ((ethReceive_awake runs up alert).trans ?_),
      fun runs up drowsy fits => running_to awake (ethReceive_asleep runs up drowsy fits), fun h => running_to awake (ethReceive_down h)⟩
    · rw [show s.ethFlush.frameGood p k fcs = false from bad]
      exact ethDeliver_badFcs
    · rw [show s.ethFlush.frameGood p k fcs = true from good]
      exact ethDeliver_short short
    · rw [show s.ethFlush.frameGood p k fcs = true from good]
  case arp =>
    intro p k ip s awake
    exact ⟨_, running_next awake _, sget_sset_same _ _ _ _, rfl⟩

end Sys2Proof.Machine
end

section
/-! Queue pairs of the RoCEv2 subset (chapter 16, R387 to R391, R481). -/

namespace Sys2Proof.Machine

section
variable {s : State}

/-! ### Packets received (R387, R388) -/

section
variable {p : Nat} {k : RocePkt} {x : EthQp}

theorem roceReceive_unknown (unknown : s.qp k.qp = none) : s.roceReceive p k = s := by
  unfold State.roceReceive; rw [unknown]

theorem roceReceive_elsewhere (found : s.qp k.qp = some x) (h : x.sub / 4 ≠ p ∨ s.ethUp p (x.sub % 4) = false) : s.roceReceive p k = s := by
  unfold State.roceReceive; rw [found]
  exact if_pos (h.imp_right fun down => by rw [down]; rfl)

/-- A packet for a queue pair of the port whose link is up. -/
structure RoceReaches (s : State) (p : Nat) (k : RocePkt) (x : EthQp) : Prop where
  found : s.qp k.qp = some x
  port : x.sub / 4 = p
  up : s.ethUp p (x.sub % 4) = true

/-- A packet that a queue pair takes: the device is awake, its ICRC is right and the queue pair is not in Error. -/
structure RoceTaken (s : State) (p : Nat) (k : RocePkt) (x : EthQp) : Prop extends RoceReaches s p k x where
  alert : s.drowsy = false
  icrc : k.icrc = true
  live : x.error = false

/-- The condition under which a packet reaches no queue pair does not hold of one that does. -/
theorem RoceReaches.here (h : RoceReaches s p k x) : ¬ (x.sub / 4 ≠ p ∨ (!s.ethUp p (x.sub % 4)) = true) := by
  rintro (elsewhere | down)
  · exact elsewhere h.port
  · rw [h.up] at down; cases down

theorem RoceReaches.drowsy (h : RoceReaches s p k x) (drowsy : s.drowsy = true) :
    s.roceReceive p k = (s.latchWake (3 + p)).bump (F.ETH_CNT0.RX_DISCARD p) := by
  unfold State.roceReceive; rw [h.found]
  exact (if_neg h.here).trans (if_pos drowsy)

theorem RoceReaches.badIcrc (h : RoceReaches s p k x) (alert : s.drowsy = false) (bad : k.icrc = false) :
    s.roceReceive p k = s.bump (F.ETH_CNT1.ICRC p) := by
  unfold State.roceReceive; rw [h.found]
  exact (if_neg h.here).trans ((if_neg (Bool.eq_false_iff.mp alert)).trans (if_pos (by rw [bad]; rfl)))

theorem RoceReaches.dead (h : RoceReaches s p k x) (alert : s.drowsy = false) (icrc : k.icrc = true) (dead : x.error = true) :
    s.roceReceive p k = s := by
  unfold State.roceReceive; rw [h.found]
  exact (if_neg h.here).trans ((if_neg (Bool.eq_false_iff.mp alert)).trans ((if_neg (by rw [icrc]; decide)).trans (if_pos dead)))

/-- A packet that a queue pair takes passes every check. -/
theorem RoceTaken.passes (h : RoceTaken s p k x) (a b c : State) :
    (if x.sub / 4 ≠ p ∨ !s.ethUp p (x.sub % 4) then s else if s.drowsy then b else if !k.icrc then c else if x.error then s else a) = a :=
  (if_neg h.here).trans ((if_neg (Bool.eq_false_iff.mp h.alert)).trans
    ((if_neg (by rw [h.icrc]; decide)).trans (if_neg (Bool.eq_false_iff.mp h.live))))

theorem RoceTaken.ack (h : RoceTaken s p k x) (op : k.op = 3 ∨ k.op = 4) : s.roceReceive p k = s.roceAck k.qp k.psn := by
  unfold State.roceReceive; rw [h.found]
  refine (h.passes _ _ _).trans ?_
  obtain op | op := op <;> (rw [op]; rfl)

theorem RoceTaken.rnrNak (h : RoceTaken s p k x) (op : k.op = 6) :
    s.roceReceive p k = s.roceAck k.qp ((k.psn + 2 ^ 24 - 1) % 2 ^ 24) := by
  unfold State.roceReceive; rw [h.found]
  refine (h.passes _ _ _).trans ?_
  rw [op]
  rfl

theorem RoceTaken.nak (h : RoceTaken s p k x) (op : k.op = 5) :
    s.roceReceive p k =
      if k.code = 0 then (s.roceAck k.qp ((k.psn + 2 ^ 24 - 1) % 2 ^ 24)).roceRetry k.qp else s.qpFail k.qp := by
  unfold State.roceReceive; rw [h.found]
  refine (h.passes _ _ _).trans ?_
  rw [op]
  rfl

theorem op_request {op : Nat} (h : op ≤ 2) : op = 0 ∨ op = 1 ∨ op = 2 := by omega

theorem RoceTaken.inSequence (h : RoceTaken s p k x) (op : k.op ≤ 2) (next : k.psn = x.ePsn) :
    s.roceReceive p k = s.roceRequest k.qp x k := by
  unfold State.roceReceive; rw [h.found]
  refine (h.passes _ _ _).trans ?_
  obtain op | op | op := op_request op <;> rw [op] <;> exact if_pos next

theorem RoceTaken.ahead (h : RoceTaken s p k x) (op : k.op ≤ 2) (gap : k.psn ≠ x.ePsn) (after : psnAfter k.psn x.ePsn = true)
    (first : x.nak = false) :
    s.roceReceive p k = (s.setQp k.qp (some { x with nak := true })).roceOut x "roce nak" [x.ePsn, 0] := by
  unfold State.roceReceive; rw [h.found]
  refine (h.passes _ _ _).trans ?_
  obtain op | op | op := op_request op <;> rw [op] <;>
    exact (if_neg gap).trans ((if_pos after).trans (if_neg (Bool.eq_false_iff.mp first)))

end

/-! ### Time-outs (R388) -/

section
variable {q : Nat} {x : EthQp}

/-- A queue pair that is not in Error has messages outstanding. -/
structure RoceWaits (s : State) (q : Nat) (x : EthQp) : Prop where
  found : s.qp q = some x
  live : x.error = false
  owed : x.msgs ≠ []

theorem RoceWaits.busy (h : RoceWaits s q x) : ¬ (x.error || x.msgs.isEmpty) = true := by
  rw [h.live, Bool.false_or, List.isEmpty_iff]
  exact h.owed

theorem RoceWaits.retry (h : RoceWaits s q x) (within : x.retries < s.get F.ETH_RETRY.RETRY) :
    s.roceRetry q = (s.setQp q (some { x with retries := x.retries + 1 })).roceAgain q := by
  unfold State.roceRetry; rw [h.found]
  exact (if_neg h.busy).trans (if_neg (Nat.not_le.mpr within))

theorem RoceWaits.retryFails (h : RoceWaits s q x) (limit : s.get F.ETH_RETRY.RETRY ≤ x.retries) : s.roceRetry q = s.qpFail q := by
  unfold State.roceRetry; rw [h.found]
  exact (if_neg h.busy).trans (if_pos limit)

theorem RoceWaits.rnrRetry (h : RoceWaits s q x) (within : s.get F.ETH_RETRY.RNR = 7 ∨ x.rnr < s.get F.ETH_RETRY.RNR) :
    s.roceRnrRetry q = (s.setQp q (some { x with rnr := x.rnr + 1 })).roceAgain q := by
  unfold State.roceRnrRetry; rw [h.found]
  exact (if_neg h.busy).trans (if_neg fun ⟨limited, limit⟩ => within.elim limited (Nat.not_lt.mpr limit))

theorem RoceWaits.rnrFails (h : RoceWaits s q x) (limited : s.get F.ETH_RETRY.RNR ≠ 7) (limit : s.get F.ETH_RETRY.RNR ≤ x.rnr) :
    s.roceRnrRetry q = s.qpFail q := by
  unfold State.roceRnrRetry; rw [h.found]
  exact (if_neg h.busy).trans (if_pos ⟨limited, limit⟩)

theorem roceRetry_idle (h : s.qp q = none ∨ ∃ x, s.qp q = some x ∧ x.msgs = []) : s.roceRetry q = s := by
  unfold State.roceRetry
  obtain unknown | ⟨x, found, idle⟩ := h
  · rw [unknown]
  · rw [found]
    exact if_pos (by rw [idle]; exact Bool.or_true _)

theorem roceRnrRetry_idle (h : s.qp q = none ∨ ∃ x, s.qp q = some x ∧ x.msgs = []) : s.roceRnrRetry q = s := by
  unfold State.roceRnrRetry
  obtain unknown | ⟨x, found, idle⟩ := h
  · rw [unknown]
  · rw [found]
    exact if_pos (by rw [idle]; exact Bool.or_true _)

end

/-! ### KILL (R391) -/

theorem qpKill_qp (s : State) (q : Nat) : (s.qpKill q).qp q = none := sget_sset_same none (s.qpError q).eth.qps q none

theorem qpKill_ccpQ (s : State) (q : Nat) : (s.qpKill q).ccpQ q = none := sget_sset_same none ((s.qpError q).setQp q none).ccp.queues q none

theorem wrEthQpSel_kills {src : Nat} {v : Word} (kill : v.getLsbD 31 = true) :
    wrEthQpSel src v s = (s.plainWrite src R.ETH_QP_SEL v).ethFlush.qpKill ((s.plainWrite src R.ETH_QP_SEL v).get F.ETH_QP_SEL.QP) :=
  if_pos kill

end

/-- Settles O46: packets by what they carry (`RoceTaken`), time-outs by the tries left (`RoceWaits`), and KILL (`qpKill_qp`, `qpKill_ccpQ`). -/
theorem queuePairs : Obligations.QueuePairs := by
  refine ⟨?packet, ?nowhere, ?timeout, ?idle, ?kill⟩
  case packet =>
    intro p k s x awake u found port up
    have reaches : RoceReaches u p k x := ⟨found, port, up⟩
    refine ⟨fun drowsy => running_to awake (reaches.drowsy drowsy), fun alert bad => running_to awake (reaches.badIcrc alert bad),
      fun alert icrc dead => running_to awake (reaches.dead alert icrc dead), fun alert icrc live => ?_⟩
    have taken : RoceTaken u p k x := ⟨reaches, alert, icrc, live⟩
    exact ⟨fun op => running_to awake (taken.ack op), fun op => running_to awake (taken.rnrNak op),
      fun op code => running_to awake ((taken.nak op).trans (if_pos code)), fun op code => running_to awake ((taken.nak op).trans (if_neg code)),
      fun op next => running_to awake (taken.inSequence op next), fun op gap after first => running_to awake (taken.ahead op gap after first)⟩
  case nowhere =>
    intro p k s awake h
    obtain unknown | ⟨x, found, elsewhere⟩ := h
    · exact running_to awake (roceReceive_unknown unknown)
    · exact running_to awake (roceReceive_elsewhere found elsewhere)
  case timeout =>
    intro q s x awake u found live owed
    have waits : RoceWaits u q x := ⟨found, live, owed⟩
    exact ⟨fun within => running_to awake (waits.retry within), fun limit => running_to awake (waits.retryFails limit),
      fun within => running_to awake (waits.rnrRetry within), fun limited limit => running_to awake (waits.rnrFails limited limit)⟩
  case idle =>
    intro q s awake h
    exact ⟨(running_next awake _).trans (congrArg _ (roceRetry_idle h)), (running_next awake _).trans (congrArg _ (roceRnrRetry_idle h))⟩
  case kill =>
    intro v src s u reaches
    exact ⟨_, (reaches.next _).trans (congrArg _ (wrEthQpSel_kills (setBit31 v))), rfl, qpKill_qp _ _, qpKill_ccpQ _ _⟩

end Sys2Proof.Machine
end

section
/-! Management messages (chapter 16, R392 to R394, R509). -/

namespace Sys2Proof.Machine

section
variable {s : State} {r : MgmtReq} {b : List Byte}

/-! ### CONNECT (R393, R394) -/

/-- A reply to CONNECT, which is kept. -/
def State.connectReply (s : State) (r : MgmtReq) (status : Nat) (body : List Byte) : State :=
  ({ s with eth := { s.eth with replies := s.eth.replies ++ [KeptReply.mk r.ip r.port r.seq status body] } } : State).mgmtReply r 2 status (body.map BitVec.toNat)

/-- The reply that is kept for a request's source and SEQ. -/
def State.keptReply (s : State) (r : MgmtReq) : Option KeptReply := s.eth.replies.find? (fun k => k.ip == r.ip && k.port == r.port && k.seq == r.seq)

theorem mgmtConnect_again {k : KeptReply} (kept : s.keptReply r = some k) :
    s.mgmtConnect r b = s.mgmtReply r 2 k.status (k.body.map BitVec.toNat) := by
  unfold State.keptReply at kept
  unfold State.mgmtConnect
  rw [kept]

theorem mgmtConnect_closed (fresh : s.keptReply r = none) (h : s.boot.phase ≠ 2 ∨ s.on F.ETH_MGMT.CONNECT_EN = false) :
    s.mgmtConnect r b = s.connectReply r 4 [] := by
  unfold State.keptReply at fresh
  unfold State.mgmtConnect
  rw [fresh]
  exact if_pos (h.imp_right fun off => by rw [off]; rfl)

section
variable {w : State} (fresh : s.keptReply r = none) (operates : s.boot.phase = 2) (enabled : s.on F.ETH_MGMT.CONNECT_EN = true)
include fresh operates enabled

theorem mgmtConnect_fails {e : Nat} (opens : s.openQp r.sub r.ip b true 0 = (.error e, w)) : s.mgmtConnect r b = w.connectReply r e [] := by
  unfold State.keptReply at fresh
  unfold State.mgmtConnect
  rw [fresh]
  refine (if_neg (by rw [operates, enabled]; decide)).trans ?_
  rw [opens]
  rfl

theorem mgmtConnect_opens {q psn code ver : Nat} (opens : s.openQp r.sub r.ip b true 0 = (.ok (q, psn, code, ver), w)) :
    s.mgmtConnect r b = w.connectReply r 0 (leBytes 4 q ++ leBytes 4 psn ++ leBytes 2 (mtuBytes code) ++ leBytes 2 ver ++ zeros 4) := by
  unfold State.keptReply at fresh
  unfold State.mgmtConnect
  rw [fresh]
  refine (if_neg (by rw [operates, enabled]; decide)).trans ?_
  rw [opens]
  rfl

end

/-! ### DISCONNECT (R394) -/

theorem mgmtDisconnect_outside (outside : s.boot.phase ≠ 2) : s.mgmtDisconnect r b = s.mgmtReply r 3 4 [] := if_pos outside

section
variable (operates : s.boot.phase = 2)
include operates

theorem mgmtDisconnect_malformed (bad : b.length ≠ 4) : s.mgmtDisconnect r b = s.mgmtReply r 3 1 [] :=
  (if_neg (not_not_intro operates)).trans (if_pos bad)

theorem mgmtDisconnect_unknown (size : b.length = 4) (unknown : s.qp (field b 0 4) = none) : s.mgmtDisconnect r b = s.mgmtReply r 3 5 [] := by
  refine (if_neg (not_not_intro operates)).trans ((if_neg (not_not_intro size)).trans ?_)
  rw [unknown]

theorem mgmtDisconnect_found {x : EthQp} (size : b.length = 4) (found : s.qp (field b 0 4) = some x) :
    s.mgmtDisconnect r b = if x.ip = r.ip then (s.qpKill (field b 0 4)).mgmtReply r 3 0 [] else s.mgmtReply r 3 5 [] := by
  refine (if_neg (not_not_intro operates)).trans ((if_neg (not_not_intro size)).trans ?_)
  rw [found]

end

/-! ### RECOVER (R509) -/

theorem mgmtRecover_outside (outside : s.boot.phase ≠ 1) : s.mgmtRecover r b = s.mgmtReply r 0x20 4 [] := if_pos outside

section
variable (recovers : s.boot.phase = 1)
include recovers

theorem mgmtRecover_malformed (bad : b.length ≠ 64 ∨ 3 < field b 0 1) : s.mgmtRecover r b = s.mgmtReply r 0x20 1 [] :=
  (if_neg (not_not_intro recovers)).trans (if_pos bad)

theorem mgmtRecover_other (size : b.length = 64) (known : field b 0 1 ≤ 3) (other : field b 4 16 ≠ s.sec.serial) :
    s.mgmtRecover r b = s.mgmtReply r 0x20 5 [] :=
  (if_neg (not_not_intro recovers)).trans
    ((if_neg (not_or.mpr ⟨not_not_intro size, Nat.not_lt.mpr known⟩)).trans (if_pos other))

omit recovers in
/-- What a try of a slot leaves: the state that runs its image, or the one after it failed. -/
theorem slotTried (tried : Option State × State) :
    (match tried with | (some s, _) => s | (none, s) => s) = tried.1.getD tried.2 := by
  obtain ⟨_ | t, w⟩ := tried <;> rfl

/-- A request of this device with an ACTION of R509 passes every check. -/
theorem recover_passes (size : b.length = 64) (own : field b 4 16 = s.sec.serial) (known : field b 0 1 ≤ 3) (x y z t : State) :
    (if s.boot.phase ≠ 1 then x else if b.length ≠ 64 ∨ 3 < field b 0 1 then y else if field b 4 16 ≠ s.sec.serial then z else t) = t :=
  (if_neg (not_not_intro recovers)).trans
    ((if_neg (not_or.mpr ⟨not_not_intro size, Nat.not_lt.mpr known⟩)).trans (if_neg (not_not_intro own)))

section
variable (size : b.length = 64) (own : field b 4 16 = s.sec.serial)
include size own

theorem mgmtRecover_network (action : field b 0 1 = 0) : s.mgmtRecover r b = (s.mgmtReply r 0x20 0 []).startNetBoot 1 := by
  refine (recover_passes recovers size own (by omega) _ _ _ _).trans ?_
  rw [action]
  rfl

theorem mgmtRecover_slot (action : field b 0 1 = 1 ∨ field b 0 1 = 2) :
    s.mgmtRecover r b = ((s.mgmtReply r 0x20 0 []).trySlots 2 [field b 0 1 - 1]).1.getD ((s.mgmtReply r 0x20 0 []).trySlots 2 [field b 0 1 - 1]).2 := by
  refine (recover_passes recovers size own (by omega) _ _ _ _).trans ?_
  obtain action | action := action <;> (rw [action]; exact slotTried _)

theorem mgmtRecover_sequence (action : field b 0 1 = 3) :
    s.mgmtRecover r b =
      let w := s.mgmtReply r 0x20 0 []
      ({ w with sec := { w.sec with trial := 3, attempts := 0 } } : State).bootFlash := by
  refine (recover_passes recovers size own (by omega) _ _ _ _).trans ?_
  rw [action]
  rfl

end

end

end

/-- Settles O47: CONNECT (`mgmtConnect_again`, `mgmtConnect_opens`), DISCONNECT (`mgmtDisconnect_found`) and RECOVER (`recover_passes`). -/
theorem managementMessages : Obligations.ManagementMessages := by
  refine ⟨fun r s awake => running_to awake rfl, ?connect, fun ip seq port s awake => running_to awake rfl, ?disconnect, ?recover⟩
  case connect =>
    intro r b s awake
    exact ⟨fun k kept => running_to awake (mgmtConnect_again kept), fun fresh closed => running_to awake (mgmtConnect_closed fresh closed),
      fun e w fresh operates enabled opens => running_to awake (mgmtConnect_fails fresh operates enabled opens),
      fun q psn code ver w fresh operates enabled opens => running_to awake (mgmtConnect_opens fresh operates enabled opens)⟩
  case disconnect =>
    intro r b s awake
    refine ⟨fun outside => running_to awake (mgmtDisconnect_outside outside),
      fun operates bad => running_to awake (mgmtDisconnect_malformed operates bad),
      fun operates size unknown => running_to awake (mgmtDisconnect_unknown operates size unknown), fun x operates size found => ?_⟩
    have effect := mgmtDisconnect_found (r := r) operates size found
    exact ⟨fun other => running_to awake (effect.trans (if_neg other)), fun own => running_to awake (effect.trans (if_pos own))⟩
  case recover =>
    intro r b s awake
    exact ⟨fun outside => running_to awake (mgmtRecover_outside outside), fun recovers bad => running_to awake (mgmtRecover_malformed recovers bad),
      fun recovers size known other => running_to awake (mgmtRecover_other recovers size known other), fun recovers size own =>
      ⟨fun action => running_to awake (mgmtRecover_network recovers size own action),
        fun action => running_to awake (mgmtRecover_slot recovers size own action),
        fun action => running_to awake (mgmtRecover_sequence recovers size own action)⟩⟩

end Sys2Proof.Machine
end

section
/-! The capture store's enabling, queues, doorbells, fetches and completions (chapter 17, R397, R398, R408 to R412). -/

namespace Sys2Proof.Machine

section
variable {s : State} {src : Nat} {v : Word}

/-! ### Enabling (R397, R398) -/

/-- The store opens. -/
def State.ccpOpened (x : State) : State := { x.put F.CCP_CTL.READY 0 with ccp := { x.ccp with opening := some (x.on F.CCP_CTL.KEEP) } }

theorem wrCcpCtl_opens (down : s.on F.CCP_CTL.EN = false) (enabled : (s.plainWrite src R.CCP_CTL v).on F.CCP_CTL.EN = true) :
    wrCcpCtl src v s = (s.plainWrite src R.CCP_CTL v).ccpOpened :=
  if_pos (by rw [down, enabled]; rfl)

theorem wrCcpCtl_closes (up : s.on F.CCP_CTL.EN = true) (disabled : (s.plainWrite src R.CCP_CTL v).on F.CCP_CTL.EN = false) :
    wrCcpCtl src v s = (s.plainWrite src R.CCP_CTL v).ccpDown :=
  (if_neg (by rw [up, disabled]; decide)).trans (if_pos (by rw [up, disabled]; rfl))

theorem wrCcpCtl_stays (down : s.on F.CCP_CTL.EN = false) (disabled : (s.plainWrite src R.CCP_CTL v).on F.CCP_CTL.EN = false) :
    wrCcpCtl src v s = s.plainWrite src R.CCP_CTL v :=
  (if_neg (by rw [down, disabled]; decide)).trans (if_neg (by rw [down, disabled]; decide))

/-- The index is empty. -/
def State.indexEmpty (s : State) : State := { s with ccp := { s.ccp with takes := [], dying := [] } }

/-- The index as it stands is taken, and READY set. -/
def State.indexShown (s : State) : State :=
  (({ s with ccp := { s.ccp with opening := none, home := some s.indexBase } } : State).put F.CCP_CTL.READY 1).ccpShow

theorem ccpReady_idle (idle : s.ccp.opening = none) : s.ccpReady = s := by unfold State.ccpReady; rw [idle]

theorem ccpReady_format (opens : s.ccp.opening = some false) : s.ccpReady = s.indexEmpty.indexShown := by
  unfold State.ccpReady; rw [opens]; rfl

theorem ccpReady_keeps (opens : s.ccp.opening = some true) (home : s.ccp.home = some s.indexBase) : s.ccpReady = s.indexShown := by
  unfold State.ccpReady
  rw [opens, home]
  simp only [beq_self_eq_true, Bool.not_true, Bool.and_false, Bool.and_true, Bool.false_eq_true, if_true, if_false]
  rfl

theorem ccpReady_lost (opens : s.ccp.opening = some true) (elsewhere : s.ccp.home ≠ some s.indexBase) :
    s.ccpReady = (s.post srcCcp 5 0 0 0).indexEmpty.indexShown := by
  unfold State.ccpReady
  rw [opens]
  simp only [beq_false_of_ne elsewhere, Bool.not_false, Bool.and_false, Bool.and_true, Bool.false_eq_true, if_true, if_false]
  rfl

/-! ### Doorbells (R408, R412) -/

theorem ccpRing_queue {q tail head : Nat} {x : CcpQueue} (found : s.ccpQ q = some x) :
    s.ccpRing q tail head =
      s.setCcpQ q { x with sqTail := tail, cqHead := head, doneIds := x.doneIds.drop ((head + x.cqDepth - x.cqHead) % max x.cqDepth 1) } := by
  unfold State.ccpRing; rw [found]

section
variable {q : Nat} {b : List Byte} {x : CcpQueue}

theorem ccpDoorbell_rings (found : s.ccpQ q = some x) (size : b.length = 8) (tail : field b 0 2 < x.sqDepth) (head : field b 2 2 < x.cqDepth)
    (rest : field b 4 4 = 0) : s.ccpDoorbell q b = s.ccpRing q (field b 0 2) (field b 2 2) := by
  unfold State.ccpDoorbell; rw [found]
  exact if_pos ⟨size, tail, head, rest⟩

theorem ccpDoorbell_posts (found : s.ccpQ q = some x)
    (h : b.length ≠ 8 ∨ x.sqDepth ≤ field b 0 2 ∨ x.cqDepth ≤ field b 2 2 ∨ field b 4 4 ≠ 0) : s.ccpDoorbell q b = s.post srcCcp 3 0 0 0 := by
  unfold State.ccpDoorbell; rw [found]
  refine if_neg fun ⟨size, tail, head, rest⟩ => ?_
  obtain h | h | h | h := h
  · exact h size
  · exact Nat.not_le.mpr tail h
  · exact Nat.not_le.mpr head h
  · exact h rest

end

theorem wrCcpLqIdx_none {off : Nat} (closed : (s.plainWrite src off v).ccpQ 64 = none) : wrCcpLqIdx src off v s = s.plainWrite src off v := by
  simp only [wrCcpLqIdx, closed]

theorem wrCcpLqIdx_rings {off : Nat} {y : CcpQueue} (opened : (s.plainWrite src off v).ccpQ 64 = some y) :
    wrCcpLqIdx src off v s =
      let x := s.plainWrite src off v
      x.ccpRing 64 (x.get F.CCP_LQ_SQ_IDX.WIDX % max y.sqDepth 1) (x.get F.CCP_LQ_CQ_IDX.RIDX % max y.cqDepth 1) := by
  simp only [wrCcpLqIdx, opened]

/-! ### Fetching (R409) -/

section
variable {q : Nat} {l : List (List Byte)} {x : CcpQueue}

theorem submissionFetch_host (found : s.ccpQ q = some x) (live : s.queueLive q = true) (host : q ≠ 64) (due : s.fetchable q x ≠ 0) :
    s.submissionFetch q l =
      let n := s.fetchable q x
      let w := s.rocePost q ⟨s.ccp.order, 2, 0, 0, x.sqAddr + 64 * x.sqHead, x.sqKey, 64 * n, []⟩
      (w.setCcpQ q { x with sqHead := (x.sqHead + (l.take n).length) % x.sqDepth }).takeEntries q x (l.take n) := by
  unfold State.submissionFetch
  rw [found]
  refine (if_neg (by rw [live]; decide)).trans ((if_neg due).trans ?_)
  simp only [if_neg host]

theorem submissionFetch_idle (h : s.queueLive q = false ∨ s.ccpQ q = none ∨ ∃ x, s.ccpQ q = some x ∧ s.fetchable q x = 0) :
    s.submissionFetch q l = s := by
  unfold State.submissionFetch
  cases found : s.ccpQ q with
  | none => rfl
  | some x =>
    rw [found] at h
    by_cases live : s.queueLive q = true
    · refine (if_neg (by rw [live]; decide)).trans (if_pos ?_)
      obtain closed | h | ⟨y, same, empty⟩ := h
      · exact absurd live (Bool.eq_false_iff.mp closed)
      · cases h
      · cases same
        exact empty
    · exact if_pos (by rw [Bool.eq_false_iff.mpr live]; rfl)

end

/-! ### Completions (R410) -/

section
variable {q cid : Nat} {x : CcpQueue} {c : CcpCmd}

/-- The decided command that a completion of a queue and CID names. -/
def State.decided (s : State) (q cid : Nat) : Option CcpCmd := s.ccp.cmds.find? (fun c => c.q == q && c.cid == cid && c.done.isSome)

/-- A command's data that its host has not acknowledged. -/
def State.owes (s : State) (q : Nat) (c : CcpCmd) : Bool := (s.qp q).any (fun p => (p.msgs ++ p.waiting).any (fun m => m.user == c.stamp))

/-- A decided command leaves, its completion held. -/
def State.completionHeld (s : State) (q : Nat) (x : CcpQueue) (c : CcpCmd) (status result : Nat) : State :=
  ({ s with ccp := { s.ccp with cmds := s.ccp.cmds.filter (fun y => y.stamp != c.stamp) } } : State).setCcpQ q
    { x with held := x.held ++ [completion c.cid status x.sqHead x.phase result], doneIds := x.doneIds ++ [c.cid] }

theorem commandComplete_none (undecided : s.decided q cid = none) : s.commandComplete q cid = s := by
  unfold State.decided at undecided
  unfold State.commandComplete
  rw [undecided]
  cases s.ccpQ q <;> rfl

theorem commandComplete_host {status result : Nat} (found : s.ccpQ q = some x) (host : q ≠ 64) (live : s.queueLive q = true)
    (decided : s.decided q cid = some c) (done : c.done = some (status, result)) (paid : s.owes q c = false) (plain : c.opc ≠ 0x85) :
    s.commandComplete q cid =
      let w := s.completionHeld q x c status result
      (if x.coHold ≠ 0 ∧ x.held.length + 1 < x.coMax then w else w.flushHeld q 3).sweepRuns := by
  unfold State.decided at decided
  unfold State.commandComplete
  rw [found, decided]
  refine (if_neg ?_).trans ?_
  · rw [live]
    unfold State.owes at paid
    cases known : s.qp q with
    | none => exact Bool.false_ne_true
    | some p =>
      rw [known] at paid
      simp only [Option.any_some] at paid
      simp only [paid]
      decide
  · simp only [done, Option.getD_some, if_neg host, if_neg (fun h : c.opc = 0x85 ∧ _ => plain h.1)]
    rfl

end

end

/-- Settles O49: writes of CCP_CTL (`wrCcpCtl_opens`, `wrCcpCtl_closes`), the index (`ccpReady_keeps`, `ccpReady_lost`), doorbells
(`ccpDoorbell_rings`), fetches (`submissionFetch_host`) and completions (`commandComplete_host`). -/
theorem captureQueues : Obligations.CaptureQueues := by
  refine ⟨?enable, ?disable, ?ready, ?doorbell, ?closed, ?localQueue, ?fetch, ?noFetch, ?complete, ?noComplete, fun q s awake => running_to awake rfl⟩
  case enable =>
    intro v src s u reaches down
    exact ⟨fun enabled => reaches.to (wrCcpCtl_opens down enabled), fun enabled => reaches.to (wrCcpCtl_opens down enabled)⟩
  case disable =>
    intro v src s u reaches
    exact ⟨fun up disabled => reaches.to (wrCcpCtl_closes up disabled), fun down disabled => reaches.to (wrCcpCtl_stays down disabled)⟩
  case ready =>
    intro s
    refine ⟨fun idle => running_self (ccpReady_idle idle), fun keep awake opens => ⟨fun kept home => ?_, fun kept elsewhere => ?_, fun format => ?_⟩⟩
    · exact running_to awake (ccpReady_keeps (kept ▸ opens) home)
    · exact running_to awake (ccpReady_lost (kept ▸ opens) elsewhere)
    · exact running_to awake (ccpReady_format (format ▸ opens))
  case doorbell =>
    intro q b s x awake live found
    exact ⟨fun size tail head rest => running_to awake
        ((if_pos live).trans ((ccpDoorbell_rings found size tail head rest).trans (ccpRing_queue found))),
      fun h => running_to awake ((if_pos live).trans (ccpDoorbell_posts found h))⟩
  case closed =>
    intro q b s closed
    exact running_self (if_neg (Bool.eq_false_iff.mp closed))
  case localQueue =>
    intro widx src s u reaches
    exact ⟨fun closed => reaches.to (wrCcpLqIdx_none closed), fun y opened => reaches.to (wrCcpLqIdx_rings opened)⟩
  case fetch =>
    intro q l s x awake found live host due
    exact running_to awake (submissionFetch_host found live host due)
  case noFetch =>
    intro q l s h
    exact running_self (submissionFetch_idle h)
  case complete =>
    intro q cid s x c st r awake found host live decided done paid plain
    have effect := commandComplete_host found host live decided done paid plain
    refine ⟨fun holds room => running_to awake (effect.trans ?_), fun h => running_to awake (effect.trans ?_)⟩
    · exact congrArg State.sweepRuns (if_pos ⟨holds, room⟩)
    · exact congrArg State.sweepRuns (if_neg fun ⟨holds, room⟩ => h.elim holds (Nat.not_le.mpr room))
  case noComplete =>
    intro q cid s undecided
    exact running_self (commandComplete_none undecided)

end Sys2Proof.Machine
end

section
/-! Commands on takes (chapter 17, R399 to R401, R414 to R417, R420, R421). -/

namespace Sys2Proof.Machine

/-- A CCP command that its queue performs, with its effect in another form. -/
theorem Performs.to {s t : State} {q cid opc : Nat} {c : CcpCmd} (h : Performs s q cid opc c) {act : CcpCmd → State → State} (e : act c s = t) :
    ∃ x, s.running (s.perform q cid opc act) = .next x ∧ x = t :=
  ⟨act c s, h.next act, e⟩

section
variable {s w : State} {c : CcpCmd} {u : Unit}

/-! ### The index (R399, R400) -/

theorem doCreate_notFree (used : (s.take c.takeNo).state ≠ 0) : doCreate c s = s.finish c 5 0 := if_pos used

theorem doCreate_noRuns (isFree : (s.take c.takeNo).state = 0) (few : s.freeRuns.length < c.f 0x38 4) : doCreate c s = s.finish c 4 0 :=
  (if_neg (not_not_intro isFree)).trans (if_pos few)

theorem doCreate_opens (isFree : (s.take c.takeNo).state = 0) (enough : c.f 0x38 4 ≤ s.freeRuns.length) (index : s.touchIndex = (.ok u, w)) :
    doCreate c s =
      (w.setTake c.takeNo { freeTake with
        state := 1, name := (c.sub.drop 0x20).take 24, spare := s.freeRuns.take (c.f 0x38 4), created := w.time.sec.toNat % 2 ^ 32 }).finish c 0 c.takeNo :=
  (if_neg (not_not_intro isFree)).trans ((if_neg (Nat.not_lt.mpr enough)).trans (withIndex_next index))

theorem doClose_refused (h : (s.take c.takeNo).state ≠ 1 ∨ (s.takeStream c.takeNo).isSome = true) : doClose c s = s.finish c 5 0 := if_pos h

theorem doClose_closes (opened : (s.take c.takeNo).state = 1) (unrecorded : s.takeStream c.takeNo = none) (index : s.touchIndex = (.ok u, w)) :
    doClose c s = (w.setTake c.takeNo { s.take c.takeNo with state := 2 }).finish c 0 0 :=
  (if_neg (by rw [opened, unrecorded]; decide)).trans (withIndex_next index)

theorem doDelete_refused (h : (s.take c.takeNo).state = 0 ∨ (s.takeStream c.takeNo).isSome = true) : doDelete c s = s.finish c 5 0 := if_pos h

theorem doDelete_frees (used : (s.take c.takeNo).state ≠ 0) (unrecorded : s.takeStream c.takeNo = none) (index : s.touchIndex = (.ok u, w)) :
    doDelete c s =
      let x := s.take c.takeNo
      (({ w with ccp := { w.ccp with dying := w.ccp.dying ++ [(x.runs ++ x.spare ++ x.eruns, c.takeNo, c.stamp)] } } : State).setTake
        c.takeNo freeTake).finish c 0 0 :=
  (if_neg (by rw [unrecorded]; exact not_or.mpr ⟨used, Bool.false_ne_true⟩)).trans (withIndex_next index)

/-! ### Descriptions (R415, R416) -/

theorem doInfo_free (isFree : (s.take c.takeNo).state = 0) : doInfo c s = s.finish c 5 0 := if_pos isFree

/-- The frame entries that GET_FRAMES asks for. -/
def State.framesAsked (s : State) (c : CcpCmd) : List (List Byte) := ((s.take c.takeNo).entries.drop c.offset).take c.nblk

theorem doFrames_free (isFree : (s.take c.takeNo).state = 0) : doFrames c s = s.finish c 5 0 := if_pos isFree

theorem doFrames_short (used : (s.take c.takeNo).state ≠ 0) (short : c.hlen < 32 * (s.framesAsked c).length) : doFrames c s = s.finish c 2 0 :=
  (if_neg used).trans (if_pos short)

theorem doFrames_answers (used : (s.take c.takeNo).state ≠ 0) (fits : 32 * (s.framesAsked c).length ≤ c.hlen) :
    doFrames c s = s.answerHost c ((s.framesAsked c).flatMap id) (s.framesAsked c).length :=
  (if_neg used).trans (if_neg (Nat.not_lt.mpr fits))

/-- A take's length in blocks. -/
def Take.blocks (x : Take) : Nat := (x.length + 4095) / 4096

/-- The runs that MAP asks for. -/
def State.runsAsked (s : State) (c : CcpCmd) : List Nat :=
  ((s.take c.takeNo).runs.drop (c.offset / 512)).take ((c.offset + c.nblk - 1) / 512 + 1 - c.offset / 512)

theorem doMap_free (isFree : (s.take c.takeNo).state = 0) : doMap c s = s.finish c 5 0 := if_pos isFree

theorem doMap_beyond (used : (s.take c.takeNo).state ≠ 0) (beyond : (s.take c.takeNo).blocks ≤ c.offset + c.nblk - 1) : doMap c s = s.finish c 3 0 :=
  (if_neg used).trans (if_pos beyond)

theorem doMap_within (used : (s.take c.takeNo).state ≠ 0) (within : c.offset + c.nblk - 1 < (s.take c.takeNo).blocks) :
    doMap c s = if c.hlen < 8 * (s.runsAsked c).length then s.finish c 2 0 else
      s.answerHost c ((s.runsAsked c).flatMap (fun r => leBytes 8 (s.addr R.CCP_RWIN_LO R.CCP_RWIN_HI + 2097152 * r))) (s.runsAsked c).length :=
  (if_neg used).trans (if_neg (Nat.not_le.mpr within))

/-! ### READ (R401, R414, R417) -/

theorem doRead_waits (waits : s.readWaits c (s.take c.takeNo).blocks = true) : doRead c s = s := if_pos waits

section
variable (goes : s.readWaits c (s.take c.takeNo).blocks = false)
include goes

theorem doRead_free (isFree : (s.take c.takeNo).state = 0) : doRead c s = s.finish c 5 0 :=
  (if_neg (Bool.eq_false_iff.mp goes)).trans (if_pos isFree)

theorem doRead_beyond (used : (s.take c.takeNo).state ≠ 0) (beyond : (s.take c.takeNo).blocks ≤ c.offset + c.nblk - 1) :
    doRead c s = s.finish c 3 0 :=
  (if_neg (Bool.eq_false_iff.mp goes)).trans ((if_neg used).trans (if_pos beyond))

section
variable (used : (s.take c.takeNo).state ≠ 0) (within : c.offset + c.nblk - 1 < (s.take c.takeNo).blocks)
include used within

theorem doRead_answers {b : List Byte} (reads : s.readBlocks c (s.take c.takeNo) c.offset c.nblk = (.ok b, w)) :
    doRead c s = w.answerHost c (padTo (4096 * c.nblk) (b.take ((s.take c.takeNo).length - 4096 * c.offset))) c.nblk := by
  refine (if_neg (Bool.eq_false_iff.mp goes)).trans ((if_neg used).trans ((if_neg (Nat.not_le.mpr within)).trans ?_))
  rw [reads]

theorem doRead_fails {e : AccErr} (reads : s.readBlocks c (s.take c.takeNo) c.offset c.nblk = (.error e, w)) : doRead c s = w.cmdError c e := by
  refine (if_neg (Bool.eq_false_iff.mp goes)).trans ((if_neg used).trans ((if_neg (Nat.not_le.mpr within)).trans ?_))
  rw [reads]

end

end

/-! ### WRITE (R400, R401, R414, R417, R421) -/

section
variable {data : List Byte} {bad : Option Nat} {stay : Bool}

theorem doWrite_notOpen (first : s.heldBack c = false) (closed : (s.take c.takeNo).state ≠ 1) : doWrite data bad stay c s = s.finish c 5 0 :=
  if_pos (by rw [first, bne_iff_ne.mpr closed]; rfl)

theorem doWrite_gap (first : s.heldBack c = false) (opened : (s.take c.takeNo).state = 1) (gap : (s.take c.takeNo).blocks < c.offset) :
    doWrite data bad stay c s = s.finish c 3 0 :=
  (if_neg (by rw [first, opened]; decide)).trans (if_pos (by rw [first, ← Take.blocks, decide_eq_true gap]; rfl))

/-- A WRITE that an earlier command holds back only stages its blocks. -/
theorem doWrite_heldBack {d : CcpCmd} (held : s.heldBack c = true) (staged : s.stageBlocks c data = (.ok d, w)) :
    doWrite data bad stay c s = w.setCmd d := by
  refine (if_neg (by rw [held, Bool.not_true, Bool.false_and]; decide)).trans
    ((if_neg (by rw [held, Bool.not_true, Bool.false_and]; decide)).trans ?_)
  rw [staged]
  exact if_pos (by rw [held, Bool.or_true])

/-- A WRITE that may write: no earlier command goes first, its take is Open, it leaves no gap, and its next blocks are staged as `d`. -/
structure WriteRuns (s : State) (c : CcpCmd) (data : List Byte) (d : CcpCmd) (w : State) : Prop where
  first : s.heldBack c = false
  opened : (s.take c.takeNo).state = 1
  gapless : c.offset ≤ (s.take c.takeNo).blocks
  staged : s.stageBlocks c data = (.ok d, w)

/-- The runs that the blocks up to the WRITE's end need beyond those of the take. -/
def runsWanted (x : Take) (d : CcpCmd) : Nat := (d.offset + d.nblk + 511) / 512 - x.runs.length

/-- What a WRITE does once its staged blocks went out, as far as they did. -/
def writeEnd : (CcpCmd × Option (Option AccErr)) × State → State
  | ((c, some none), s) => s.finish c 6 c.moved
  | ((c, some (some e)), s) => s.cmdError c e
  | ((c, none), s) =>
    if c.moved < c.nblk then s.setCmd c
    else match s.touchIndex with
      | (.error e, s) => s.cmdError c e
      | (.ok _, s) =>
        (s.setTake c.takeNo { s.take c.takeNo with length := max (s.take c.takeNo).length ((c.offset + c.nblk) * 4096) }).finish c 0 c.nblk

theorem writeEnd_whole {e : CcpCmd} {z a : State} (whole : e.nblk ≤ e.moved) (index : z.touchIndex = (.ok u, a)) :
    writeEnd ((e, none), z) =
      (a.setTake e.takeNo { a.take e.takeNo with length := max (a.take e.takeNo).length ((e.offset + e.nblk) * 4096) }).finish e 0 e.nblk := by
  refine (if_neg (Nat.not_lt.mpr whole)).trans ?_
  rw [index]

section
variable {d : CcpCmd} (h : WriteRuns s c data d w)
include h

/-- Such a WRITE passes the checks on its take. -/
theorem WriteRuns.passes (a b t : State) :
    (if (!s.heldBack c && (s.take c.takeNo).state != 1) = true then a
     else if (!s.heldBack c && decide (((s.take c.takeNo).length + 4095) / 4096 < c.offset)) = true then b else t) = t :=
  (if_neg (by rw [h.first, h.opened]; decide)).trans
    (if_neg (by rw [← Take.blocks, h.first, decide_eq_false (Nat.not_lt.mpr h.gapless)]; decide))

theorem WriteRuns.stays : doWrite data bad true c s = w.setCmd d := by
  refine (h.passes _ _ _).trans ?_
  rw [h.staged]
  rfl

theorem WriteRuns.noRuns (few : w.moreRuns (s.take c.takeNo) (runsWanted (s.take c.takeNo) d) = none) :
    doWrite data bad false c s = w.finish d 4 0 := by
  refine (h.passes _ _ _).trans ?_
  rw [h.staged]
  refine (if_neg (by rw [h.first]; decide)).trans ?_
  rw [runsWanted] at few
  rw [few]

theorem WriteRuns.writes {l : List Nat} {y : Take} (more : w.moreRuns (s.take c.takeNo) (runsWanted (s.take c.takeNo) d) = some (l, y)) :
    doWrite data bad false c s =
      writeEnd ((w.setTake d.takeNo { y with runs := y.runs ++ l }).writeBlocks d { y with runs := y.runs ++ l } bad d.staged) := by
  refine (h.passes _ _ _).trans ?_
  rw [h.staged]
  refine (if_neg (by rw [h.first]; decide)).trans ?_
  rw [runsWanted] at more
  rw [more]
  rfl

end

end

/-! ### ABORT (R420) -/

/-- The queue and the earlier undecided command that ABORT names. -/
def CcpCmd.abortQueue (c : CcpCmd) : Nat := if c.f 0x22 2 = 0xFFFF then c.q else c.f 0x22 2
def State.abortTarget (s : State) (c : CcpCmd) : Option CcpCmd :=
  s.ccp.cmds.find? (fun e => e.q == c.abortQueue && e.cid == c.f 0x20 2 && decide (e.stamp < c.stamp) && e.done.isNone)

/-- A queue, if there is one, has completed a command of that CID. -/
theorem any_doneIds (queue : Option CcpQueue) (cid : Nat) :
    queue.any (fun x => x.doneIds.contains cid) = (match queue with | some x => x.doneIds.contains cid | none => false) := by
  cases queue <;> rfl

theorem doAbort_found {e : CcpCmd} (found : s.abortTarget c = some e) :
    doAbort c s = ((if e.susp then s.withdrawFault 40 else s).finish e 8 0).finish c 0 0 := by
  simp only [State.abortTarget, CcpCmd.abortQueue] at found
  simp only [doAbort, found]

theorem doAbort_none (gone : s.abortTarget c = none) :
    doAbort c s = s.finish c 0 (if s.ccp.cmds.any (fun e => e.q == c.abortQueue && e.cid == c.f 0x20 2 && decide (e.stamp < c.stamp)) ||
      (s.ccpQ c.abortQueue).any (fun x => x.doneIds.contains (c.f 0x20 2)) then 1 else 2) := by
  simp only [State.abortTarget, CcpCmd.abortQueue] at gone
  rw [any_doneIds]
  simp only [doAbort, gone] <;> rfl

end

/-- Settles O50: changes of the index (`doCreate_opens`, `doClose_closes`, `doDelete_frees`), descriptions, READ (`doRead_answers`), WRITE
(`WriteRuns`) and ABORT (`doAbort_found`, `doAbort_none`). -/
theorem captureTakes : Obligations.CaptureTakes := by
  refine ⟨?create, ?close, ?delete, ?info, ?frames, ?map, ?read, ?write, ?abort⟩
  case create =>
    intro q cid s c h
    exact ⟨fun used => h.to (doCreate_notFree used), fun isFree few => h.to (doCreate_noRuns isFree few),
      fun u w isFree enough index => h.to (doCreate_opens isFree enough index)⟩
  case close =>
    intro q cid s c h
    exact ⟨fun refused => h.to (doClose_refused refused), fun u w opened unrecorded index => h.to (doClose_closes opened unrecorded index)⟩
  case delete =>
    intro q cid s c h
    exact ⟨fun refused => h.to (doDelete_refused refused), fun u w used unrecorded index => h.to (doDelete_frees used unrecorded index)⟩
  case info =>
    intro q cid s c h
    exact ⟨fun isFree => h.to (doInfo_free isFree), fun used => h.to (if_neg used)⟩
  case frames =>
    intro q cid s c h
    exact ⟨fun isFree => h.to (doFrames_free isFree), fun used short => h.to (doFrames_short used short),
      fun used fits => h.to (doFrames_answers used fits)⟩
  case map =>
    intro q cid s c h
    exact ⟨fun isFree => h.to (doMap_free isFree), fun used beyond => h.to (doMap_beyond used beyond), fun used within =>
      ⟨fun short => h.to ((doMap_within used within).trans (if_pos short)),
        fun fits => h.to ((doMap_within used within).trans (if_neg (Nat.not_lt.mpr fits)))⟩⟩
  case read =>
    intro q cid s c h
    exact ⟨fun waits => (h.next _).trans (congrArg _ (doRead_waits waits)), fun goes isFree => h.to (doRead_free goes isFree),
      fun goes used beyond => h.to (doRead_beyond goes used beyond),
      fun b w goes used within reads => h.to (doRead_answers goes used within reads),
      fun e w goes used within reads => h.to (doRead_fails goes used within reads)⟩
  case write =>
    intro q cid data bad stay s c h
    refine ⟨fun first closed => h.to (doWrite_notOpen first closed), fun first opened gap => h.to (doWrite_gap first opened gap),
      fun d w held staged => h.to (doWrite_heldBack held staged), fun d w first opened gapless staged => ?_⟩
    have runs : WriteRuns s c data d w := ⟨first, opened, gapless, staged⟩
    refine ⟨fun stays => ?_, fun writes few => ?_, fun l y writes more => ?_⟩
    · subst stays
      exact h.to runs.stays
    · subst writes
      exact h.to (runs.noRuns few)
    · subst writes
      have effect := runs.writes (bad := bad) more
      exact ⟨fun e z spoilt => h.to (effect.trans (congrArg writeEnd spoilt)),
        fun e z went rest => h.to (effect.trans ((congrArg writeEnd went).trans (if_pos rest))),
        fun e z u a went whole index => h.to (effect.trans ((congrArg writeEnd went).trans (writeEnd_whole whole index)))⟩
  case abort =>
    intro q cid s c h
    exact ⟨fun e found => h.to (doAbort_found found), fun gone => h.to (doAbort_none gone)⟩

end Sys2Proof.Machine
end

section
/-! Administrative commands of the capture store (chapter 17, R407, R424 to R428, R506, R507). -/

namespace Sys2Proof.Machine

section
variable {s w v : State} {c : CcpCmd}

/-! ### Logs and features (R424, Table 17.13) -/

theorem doLog_errors (page : c.f 0x20 1 = 1) :
    doLog c s = s.answerHost c
      ((padTo 64 (leBytes 4 (s.reg R.CCP_ERR).toNat ++ (List.range 16).flatMap (fun k => leBytes 2 (s.get (F.CCP_STR_STAT.BAD k))))).take c.hlen) 0 := by
  unfold doLog; rw [page]; rfl

theorem doLog_takes (page : c.f 0x20 1 = 2) :
    doLog c s = s.answerHost c (((List.range 1024).map (fun k => BitVec.ofNat 8 (s.take k).state)).take c.hlen) 0 := by
  unfold doLog; rw [page]; rfl

theorem doLog_events (page : c.f 0x20 1 = 3) : doLog c s = s.answerHost c (s.snapshotLog.take c.hlen) 0 := by
  unfold doLog; rw [page]; rfl

theorem doLog_other (h : c.f 0x20 1 = 0 ∨ 3 < c.f 0x20 1) : doLog c s = s.finish c 2 0 := by
  unfold doLog
  split
  case h_1 one => omega
  case h_2 two => omega
  case h_3 three => omega
  case h_4 => rfl

section
variable {x : CcpQueue}

theorem doGetFeature_time (feature : c.f 0x20 1 = 1) : doGetFeature c s = s.finish c 0 s.now.toNat := by
  unfold doGetFeature; rw [feature]; rfl

theorem doGetFeature_coalescing (found : s.ccpQ c.q = some x) (feature : c.f 0x20 1 = 2) :
    doGetFeature c s = if x.ver < 0x203 then s.finish c 2 0 else s.finish c 0 (x.coMax + 65536 * x.coHold) := by
  unfold doGetFeature; rw [feature, found]; rfl

theorem doGetFeature_connect (feature : c.f 0x20 1 = 3) : doGetFeature c s = s.finish c 0 (s.get F.ETH_MGMT.CONNECT_EN) := by
  unfold doGetFeature; rw [feature]; rfl

theorem doGetFeature_other (h : c.f 0x20 1 = 0 ∨ 3 < c.f 0x20 1) : doGetFeature c s = s.finish c 2 0 := by
  unfold doGetFeature
  split
  case h_1 one => omega
  case h_2 two _ => omega
  case h_3 three => omega
  case h_4 => rfl

theorem doSetFeature_coalescing (found : s.ccpQ c.q = some x) (feature : c.f 0x20 1 = 2) :
    doSetFeature c s =
      let n := c.f 0x28 8
      if x.ver < 0x203 ∨ n % 65536 = 0 ∨ 64 < n % 65536 ∨ 1000 < n / 65536 then s.finish c 2 0
      else (s.setCcpQ c.q { x with coMax := n % 65536, coHold := n / 65536 }).finish c 0 0 := by
  unfold doSetFeature; rw [feature, found]; rfl

theorem doSetFeature_connect (feature : c.f 0x20 1 = 3) :
    doSetFeature c s = if 1 < c.f 0x28 8 then s.finish c 2 0 else (s.put F.ETH_MGMT.CONNECT_EN (c.f 0x28 8)).finish c 0 0 := by
  unfold doSetFeature; rw [feature]; rfl

theorem doSetFeature_other (h : c.f 0x20 1 ≤ 1 ∨ 3 < c.f 0x20 1) : doSetFeature c s = s.finish c 2 0 := by
  unfold doSetFeature
  split
  case h_1 two _ => omega
  case h_2 three => omega
  case h_3 => rfl

end

/-! ### Firmware (R426, R506, R507) -/

theorem doDownload_unread {data : List Byte} {e : AccErr} (read : s.hostRead c 0 c.hlen data = (.error e, w)) :
    doDownload data c s = w.cmdError c e := by
  unfold doDownload; rw [read]

theorem doDownload_stages {data b : List Byte} {u : Unit} (read : s.hostRead c 0 c.hlen data = (.ok b, w))
    (stages : w.physPut (ccpReq true none) (pieces (c.hlen / 64 + 2) (w.stageBase + c.f 0x20 4) c.hlen) b = (.ok u, v)) :
    doDownload data c s = v.finish c 0 0 := by
  unfold doDownload; rw [read]
  simp only [stages]

section
variable {program : Bool}

theorem exec_fwCommit {q : Fin 65} {cid : Half} {r : Instr} (h : Performs s q cid.toNat 0x85 c)
    (row : (r = .fwCommitWrite q cid program ∧ c.f 0x21 1 = 0) ∨ (r = .fwCommitTry q cid program ∧ c.f 0x21 1 = 1) ∨
      (r = .fwCommitTryReset q cid program ∧ c.f 0x21 1 = 3)) : exec r s = .next (doCommit program c s) := by
  obtain ⟨rfl, action⟩ | ⟨rfl, action⟩ | ⟨rfl, action⟩ := row
  · exact h.commit action _
  · exact h.commit action _
  · exact h.commit action _

theorem doCommit_running (running : c.f 0x20 1 = s.boot.booted) : doCommit program c s = s.finish c 0xA 0x0A := if_pos running

section
variable (other : c.f 0x20 1 ≠ s.boot.booted)
include other

theorem doCommit_unread {e : AccErr} (staged : s.stagedImage = (.error e, w)) : doCommit program c s = w.cmdError c e := by
  refine (if_neg other).trans ?_
  rw [staged]

theorem doCommit_unverified {img : List Byte} {n : Nat} (staged : s.stagedImage = (.ok img, w))
    (verifies : w.fwVerify img 16777216 = (n + 1, v)) : doCommit program c s = v.finish c 0xA (n + 1) := by
  refine (if_neg other).trans ?_
  rw [staged]
  simp only [verifies]

section
variable {img : List Byte} (staged : s.stagedImage = (.ok img, w)) (verifies : w.fwVerify img 16777216 = (0, v))
include staged verifies

theorem doCommit_unprogrammed :
    doCommit false c s = ({ v with sec := { v.sec with invalid := v.sec.invalid ||| 2 ^ c.f 0x20 1 } } : State).finish c 0xA 0x09 := by
  refine (if_neg other).trans ?_
  rw [staged]
  simp only [verifies]
  rfl

theorem doCommit_programs :
    doCommit true c s =
      let k := c.f 0x20 1
      let y := v.writeSlot k (img.take (field img 8 4))
      let z : State := { y with sec := { y.sec with invalid := y.sec.invalid - (if y.sec.invalid.testBit k then 2 ^ k else 0) } }
      (if c.f 0x21 1 = 0 then z else { z with sec := { z.sec with trial := k, attempts := 0 } }).finish c 0 0 := by
  refine (if_neg other).trans ?_
  rw [staged]
  simp only [verifies]
  rfl

end

end

end

/-! ### Registers and queue pairs (R407, R425, R428) -/

theorem doRegRead_answers {b : List Byte} (reads : s.busReads srcCcp (c.f 0x20 4) (c.f 0x24 2) = (b, w)) : doRegRead c s = w.answerHost c b 0 := by
  unfold doRegRead; rw [reads]

theorem doRegWrite_writes {data b : List Byte} (read : s.hostRead c 0 (4 * c.f 0x24 2) data = (.ok b, w)) :
    doRegWrite data c s = (w.busWrites srcCcp (c.f 0x20 4) (chunks 4 (padTo (4 * c.f 0x24 2) b))).finish c 0 0 := by
  simp only [doRegWrite, read]

section
variable {data b : List Byte} {x : EthQp}

theorem doCreateQp_local (without : s.qp c.q = none) : doCreateQp data c s = s.finish c 2 0 := by
  unfold doCreateQp; rw [without]

theorem doCreateQp_refused {e : Nat} (own : s.qp c.q = some x) (read : s.hostRead c 0 64 data = (.ok b, w))
    (opens : w.openQp x.sub x.ip b false 1 = (.error e, v)) : doCreateQp data c s = v.finish c 2 0 := by
  unfold doCreateQp; rw [own]
  simp only [read, opens]

theorem doCreateQp_opens {k psn mtu ver : Nat} (own : s.qp c.q = some x) (read : s.hostRead c 0 64 data = (.ok b, w))
    (opens : w.openQp x.sub x.ip b false 1 = (.ok (k, psn, mtu, ver), v)) :
    doCreateQp data c s = v.finish c 0 (k + 256 * psn + 2 ^ 32 * mtu) := by
  unfold doCreateQp; rw [own]
  simp only [read, opens]

theorem doDeleteQp_refused (h : c.f 0x20 1 = c.q ∨ s.qp (c.f 0x20 1) = none) : doDeleteQp c s = s.finish c 2 0 :=
  if_pos (h.imp_right fun closed => by rw [closed]; rfl)

theorem doDeleteQp_kills (other : c.f 0x20 1 ≠ c.q) (opened : s.qp (c.f 0x20 1) = some x) :
    doDeleteQp c s = (s.qpKill (c.f 0x20 1)).finish c 0 0 :=
  if_neg (not_or.mpr ⟨other, by rw [opened]; exact Bool.false_ne_true⟩)

end

end

/-- Settles O51: pages and features by their number, FW_DOWNLOAD and FW_COMMIT (`exec_fwCommit`, `doCommit_programs`), registers, and queue
pairs (`doCreateQp_opens`, `doDeleteQp_kills`). -/
theorem captureAdministration : Obligations.CaptureAdministration := by
  refine ⟨fun q cid s c h => h.to rfl, ?log, ?getFeature, ?setFeature, ?download, ?commit, ?confirm, ?regRead, ?regWrite, ?createQp, ?deleteQp⟩
  case log =>
    intro q cid s c h
    exact ⟨fun page => h.to (doLog_errors page), fun page => h.to (doLog_takes page), fun page => h.to (doLog_events page),
      fun page => h.to (doLog_other page)⟩
  case getFeature =>
    intro q cid s c x h found
    exact ⟨fun feature => h.to (doGetFeature_time feature), fun feature => h.to (doGetFeature_coalescing found feature),
      fun feature => h.to (doGetFeature_connect feature), fun feature => h.to (doGetFeature_other feature)⟩
  case setFeature =>
    intro q cid s c x h found
    refine ⟨fun feature outside => h.to ((doSetFeature_coalescing found feature).trans (if_pos outside)), fun feature ver low high time => ?_,
      fun feature => h.to (doSetFeature_connect feature), fun feature => h.to (doSetFeature_other feature)⟩
    exact h.to ((doSetFeature_coalescing found feature).trans (if_neg (by omega)))
  case download =>
    intro q cid data s c h
    exact ⟨fun e w read => h.to (doDownload_unread read), fun b w u v read stages => h.to (doDownload_stages read stages)⟩
  case commit =>
    intro q cid program s c r h row
    have commits {t : State} (e : doCommit program c s = t) : ∃ x, exec r s = .next x ∧ x = t := ⟨_, exec_fwCommit h row, e⟩
    refine ⟨fun running => commits (doCommit_running running), fun e w other staged => commits (doCommit_unread other staged),
      fun img w v n other staged verifies => commits (doCommit_unverified other staged verifies),
      fun img w v other staged verifies => ⟨fun failed => ?_, fun programs => ?_⟩⟩
    · subst failed
      exact commits (doCommit_unprogrammed other staged verifies)
    · subst programs
      exact commits (doCommit_programs other staged verifies)
  case confirm =>
    intro q cid s c h action
    exact ⟨_, h.commit action _, rfl⟩
  case regRead =>
    intro q cid s w c b h reads
    exact h.to (doRegRead_answers reads)
  case regWrite =>
    intro q cid data b s w c h read
    exact h.to (doRegWrite_writes read)
  case createQp =>
    intro q cid data s c h
    exact ⟨fun without => h.to (doCreateQp_local without), fun x b w e v own read opens => h.to (doCreateQp_refused own read opens),
      fun x b w k psn mtu ver v own read opens => h.to (doCreateQp_opens own read opens)⟩
  case deleteQp =>
    intro q cid s c h
    exact ⟨fun refused => h.to (doDeleteQp_refused refused), fun x other opened => h.to (doDeleteQp_kills other opened)⟩

end Sys2Proof.Machine
end

section
/-! Recording streams (chapter 17, R402 to R406). -/

namespace Sys2Proof.Machine

section
variable {s w v : State} {c : CcpCmd}

/-! ### Start and stop (R402, R406) -/

/-- A stream that runs: STATE 1, its take and frame count shown. -/
def State.streamRuns (s : State) (k : Nat) (x : StreamRun) : State :=
  ((((s.setStream k (some x)).put (F.CCP_STR_STAT.STATE k) 1).put (F.CCP_STR_STAT.TAKE k) x.take).put (F.CCP_STR_FRAMES.FRAMES k) 0).setBit
    F.CCP_STAT.STREAMS k true

/-- The stream that a descriptor describes, before its first frame. -/
def StreamRun.fresh (b : List Byte) : StreamRun := ⟨field b 8 2, b, [], none, 0, []⟩

section
variable {data b : List Byte} (read : s.hostRead c 0 64 data = (.ok b, w))
include read

theorem doStart_refused {status : Nat} (fails : w.streamCheck (c.f 0x20 1) (.fresh b) = some status) : doStart data c s = w.finish c status 0 := by
  unfold StreamRun.fresh at fails
  unfold doStart
  rw [read]
  simp only [fails]

theorem doStart_runs (passes : w.streamCheck (c.f 0x20 1) (.fresh b) = none) :
    doStart data c s =
      let x := StreamRun.fresh b
      let v := w.streamRuns (c.f 0x20 1) x
      (if x.kind = 3 then v.setStr x.src { v.strS x.src with recorded := true, sets := [], done := [] } else v).finish c 0 0 := by
  unfold StreamRun.fresh at passes
  unfold doStart
  rw [read]
  simp only [passes]
  rfl

end

section
variable {x : StreamRun}

/-- A stream that stops takes no more of the frames that wait. -/
def State.streamStops (s : State) (k : Nat) (x : StreamRun) (stamp : Nat) : State :=
  s.setStream k (some { x with inbox := [], stops := x.stops ++ [stamp] })

theorem doStop_none (idle : s.stream (c.f 0x20 1) = none) : doStop c s = s.finish c 0 0 := by
  unfold doStop; simp only [idle]

theorem doStop_stream (found : s.stream (c.f 0x20 1) = some x) :
    doStop c s =
      let w := s.streamStops (c.f 0x20 1) x c.stamp
      if x.cur.isSome then w.put (F.CCP_STR_STAT.STATE (c.f 0x20 1)) 2 else w.endStream (c.f 0x20 1) := by
  unfold doStop; simp only [found]; rfl

end

/-! ### Frames (R403 to R405) -/

section
variable {k : Nat} {x : StreamRun} {i : FeedItem}

/-- A frame taken into its stream with its data; a codec context's read pointer moves past it. -/
def State.frameStaged (s : State) (k : Nat) (x : StreamRun) (i : FeedItem) (d : List Byte) (flags stored : Nat) : State :=
  let kept := s.setStream k (some { x with inbox := x.inbox.drop (if x.kind = 3 then 0 else 1), cur := some ⟨i, d, flags, stored⟩ })
  if x.kind = 2 ∧ i.bad = false then
    kept.put (F.VCE_CTX_BS_RPTR.OFFSET x.src) ((i.addr + i.len - (s.vceC x.src).d 0x40 8) % max ((s.vceC x.src).d 0x48 4) 1)
  else kept

theorem streamAppend_idle (h : s.stream k = none ∨ s.get (F.CCP_STR_STAT.STATE k) ≠ 1 ∨
    ∃ x, s.stream k = some x ∧ (x.cur.isSome = true ∨ s.nextFrame x = none)) : s.streamAppend k = s := by
  unfold State.streamAppend
  cases found : s.stream k with
  | none => rfl
  | some x =>
    rw [found] at h
    by_cases busy : (x.cur.isSome || s.get (F.CCP_STR_STAT.STATE k) ≠ 1) = true
    · exact if_pos busy
    · refine (if_neg busy).trans ?_
      simp only [Bool.or_eq_true, decide_eq_true_eq, not_or] at busy
      obtain h | h | ⟨y, same, h⟩ := h
      · cases h
      · exact absurd h busy.2
      · cases same
        rw [h.resolve_left busy.1]

section
variable (found : s.stream k = some x) (free : x.cur = none) (runs : s.get (F.CCP_STR_STAT.STATE k) = 1) (next : s.nextFrame x = some (i, w))
include found free runs next

theorem streamAppend_data {d : List Byte} {n : Nat} (data : w.streamData x i = (.ok (d, n), v)) :
    s.streamAppend k = v.frameStaged k x i d 0 n := by
  unfold State.streamAppend
  rw [found]
  refine (if_neg (by rw [free, runs]; decide)).trans ?_
  rw [next]
  simp only [data, Bool.not_eq_true']
  rfl

theorem streamAppend_flag {f : Nat} (data : w.streamData x i = (.error f, v)) : s.streamAppend k = v.frameStaged k x i [] (1 + 2 ^ f) 0 := by
  unfold State.streamAppend
  rw [found]
  refine (if_neg (by rw [free, runs]; decide)).trans ?_
  rw [next]
  simp only [data, Bool.not_eq_true']
  rfl

end

theorem streamEntry_idle (h : s.stream k = none ∨ ∃ x, s.stream k = some x ∧ x.cur = none) : s.streamEntry k = s := by
  unfold State.streamEntry
  obtain absent | ⟨x, found, free⟩ := h
  · rw [absent]
  · rw [found]
    simp only [free]

section
variable {f : StagedFrame}

/-- Where a frame's data begin in its take. -/
def Take.frameAt (z : Take) : Nat := (z.length + 63) / 64 * 64

/-- The flags of a staged frame, one whose source overtook it marked. -/
def StagedFrame.entryFlags (f : StagedFrame) : Nat := if f.item.above ∧ f.flags = 0 then 1 + 4 else f.flags

/-- The runs that a frame's entry and its data need beyond those of the take. -/
def Take.entryRuns (z : Take) : Nat := z.entries.length / 65536 + 1 - z.eruns.length
def Take.dataRuns (z : Take) (f : StagedFrame) : Nat :=
  if f.entryFlags % 2 = 1 then 0 else (z.frameAt + f.data.length + 2097151) / 2097152 - z.runs.length

/-- A take with the runs for a frame. -/
def Take.withRuns (z y : Take) (l : List Nat) : Take :=
  { y with eruns := y.eruns ++ l.take z.entryRuns, runs := y.runs ++ l.drop z.entryRuns }

/-- The bytes that a frame appends to a take. -/
def StagedFrame.appended (f : StagedFrame) (off : Nat) (r : Take) : List Byte :=
  if f.entryFlags % 2 = 1 then [] else zeros (off - r.length) ++ f.data

/-- A frame's data written to its take. -/
def State.frameWritten (s : State) (off : Nat) (r : Take) (f : StagedFrame) : Except AccErr Unit × State :=
  s.writeTake r ((f.appended off r).length / 2097152 + 2) r.length (f.appended off r)

/-- What becomes of a staged frame of a stream by the runs that are allocated for it. -/
def State.frameEntered (s : State) (k : Nat) (x : StreamRun) (f : StagedFrame) : Option (List Nat × Take) → State
  | none => (s.bump F.CCP_ERR.NOSPACE).putEntry k x (s.take x.take) f (s.take x.take).frameAt (f.entryFlags ||| 3)
  | some (l, y) =>
    let r := (s.take x.take).withRuns y l
    match s.frameWritten (s.take x.take).frameAt r f with
    | (.error _, w) => w.putEntry k x r f (s.take x.take).frameAt (f.entryFlags ||| 33)
    | (.ok _, w) =>
      match w.touchIndex with
      | (.error _, v) => v.putEntry k x r f (s.take x.take).frameAt (f.entryFlags ||| 33)
      | (.ok _, v) => v.putEntry k x r f (s.take x.take).frameAt f.entryFlags

theorem streamEntry_staged (found : s.stream k = some x) (staged : x.cur = some f) :
    s.streamEntry k = s.frameEntered k x f (s.moreRuns (s.take x.take) ((s.take x.take).entryRuns + (s.take x.take).dataRuns f)) := by
  unfold State.streamEntry
  rw [found]
  simp only [staged]
  rfl

section
variable {l : List Nat} {y : Take}

theorem frameEntered_unwritten {e : AccErr} (writes : s.frameWritten (s.take x.take).frameAt ((s.take x.take).withRuns y l) f = (.error e, w)) :
    s.frameEntered k x f (some (l, y)) = w.putEntry k x ((s.take x.take).withRuns y l) f (s.take x.take).frameAt (f.entryFlags ||| 33) := by
  simp only [State.frameEntered, writes]

theorem frameEntered_written {u a : Unit} (writes : s.frameWritten (s.take x.take).frameAt ((s.take x.take).withRuns y l) f = (.ok u, w))
    (index : w.touchIndex = (.ok a, v)) :
    s.frameEntered k x f (some (l, y)) = v.putEntry k x ((s.take x.take).withRuns y l) f (s.take x.take).frameAt f.entryFlags := by
  simp only [State.frameEntered, writes, index]

end

end

end

end

/-- Settles O52: START_STREAM (`doStart_runs`), STOP_STREAM (`doStop_stream`), and a frame's way into its take (`streamAppend_data`,
`streamEntry_staged`). -/
theorem captureStreams : Obligations.CaptureStreams := by
  refine ⟨?start, ?stop, ?append, ?noAppend, ?entry, ?noEntry⟩
  case start =>
    intro q cid data b s w c h read
    exact ⟨fun status fails => h.to (doStart_refused read fails), fun passes => h.to (doStart_runs read passes)⟩
  case stop =>
    intro q cid s c h
    refine ⟨fun idle => h.to (doStop_none idle), fun x found => ⟨fun busy => ?_, fun free => ?_⟩⟩
    · exact h.to ((doStop_stream found).trans (if_pos busy))
    · exact h.to ((doStop_stream found).trans (if_neg (by rw [free]; decide)))
  case append =>
    intro k s w v x i awake found free runs next
    exact ⟨fun d n data => running_to awake (streamAppend_data found free runs next data),
      fun f data => running_to awake (streamAppend_flag found free runs next data)⟩
  case noAppend =>
    intro k s h
    exact running_self (streamAppend_idle h)
  case entry =>
    intro k s x f awake found staged
    have effect {runs : Option (List Nat × Take)}
        (more : s.moreRuns (s.take x.take) ((s.take x.take).entryRuns + (s.take x.take).dataRuns f) = runs) :
        s.streamEntry k = s.frameEntered k x f runs := more ▸ streamEntry_staged found staged
    exact ⟨fun few => running_to awake (effect few), fun l y more =>
      ⟨fun e w writes => running_to awake ((effect more).trans (frameEntered_unwritten writes)),
        fun u w a v writes index => running_to awake ((effect more).trans (frameEntered_written writes index))⟩⟩
  case noEntry =>
    intro k s h
    exact running_self (streamEntry_idle h)

end Sys2Proof.Machine
end
